-- ==== Sys2Proof/Word.lean ====
section
/-! DEFINITION. The word types of the device and the type of sparse tables (plain data). -/

namespace Sys2Proof

/-- One byte of memory or of a message. -/
abbrev Byte := BitVec 8

/-- A 32-bit register word (R4, R459: registers are 32 bits unless stated). -/
abbrev Word := BitVec 32

/-- A 64-bit word of an in-memory structure or of a core register. -/
abbrev DWord := BitVec 64

/-- Sparse data by key: (key, value) pairs in one canonical form, keys strictly rising and no
entry equal to the table's default at its key (`Machine/Table.lean` keeps that form). -/
abbrev Table (α : Type) := List (Nat × α)

/-- Bytes, SI prefix (scope file): 2^30. -/
def gib : Nat := 1073741824

/-- 1 MiB is 2^20 bytes. -/
def mib : Nat := 1048576

/-- 1 KiB is 1,024 bytes. -/
def kib : Nat := 1024

/-- One wingbeat is 125,000 ns (R36). -/
def wingbeatNs : Nat := 125000

/-- An epoch is 8,000 wingbeats (R37). -/
def epochWb : Nat := 8000

end Sys2Proof
end

