-- ==== Sys2Proof/Syntax.lean ====
section
/-! DEFINITION. The commands of the module, one constructor per row of spec/opcode_table.json.
The table gives no operands: those below name the unit, thread, channel or lane the event befalls,
the data the outside brings with it (a register write, an AVTPDU, a signed image), and the outcome
of what the manual leaves to physics (a residue syndrome, a decode of a codeword, a training). -/

namespace Sys2Proof

/-- The two safety islands, Chrysalis A and Chrysalis B (R15). -/
inductive Isl | a | b
  deriving DecidableEq, Repr

/-- A hardware thread of a general core (R103). -/
structure ThreadId where
  block  : Fin 144
  core   : Fin 4
  thread : Fin 8
  deriving DecidableEq, Repr

/-- A register number of a general core. -/
abbrev XReg := Fin 32

/-- A unit that checks wingbeat ticks (R46, R310). -/
inductive TickUnit
  | block (b : Fin 144)
  | hub
  | island (i : Isl)
  deriving DecidableEq, Repr

/-- When a tick reached a checker (R468): before the window of the tick awaited opened, in that window,
after it closed, or with the next tick, no tick having come in between; or that none has come in this wingbeat. -/
inductive TickWhen | early | inWindow | late | next | absent
  deriving DecidableEq, Repr

/-- What one checker saw of a tick (R46, R468): when it came, the W[15:0] it carried, and for an island the
island cycles counted. -/
structure TickFault where
  unit     : TickUnit
  when_    : TickWhen
  received : BitVec 16
  cycles   : Nat
  deriving DecidableEq, Repr

/-- A watched unit of a block (R337): the engine, or thread 8 × core + thread. -/
inductive WatchUnit
  | engine (b : Fin 144)
  | thread (t : ThreadId)
  deriving DecidableEq, Repr

/-- A hang found in a tile: the blocks whose scoreboard or credit state a check found corrupt, beside those whose
counts have reached 16 (R17, R337). -/
structure HangIn where
  tile    : Fin 4
  corrupt : List (Fin 36) := []
  deriving DecidableEq, Repr

/-- What comes with a wingbeat tick: what checkers see of it beside a tick that passes, the units that moved in the
interval just ended beside those whose progress a command showed, the readings of the die sensors
in 1/16 °C (sensor s at place s), the rail telemetry (mV, 10 mA), the coolant temperatures in 1/16 °C,
whether each island's copy of the sensor feed passed its CRC (R308, R415), and the port and class
traffic counted by the regulators (port, class, bytes completed, backlogged all wingbeat) (R177), and the
transactions (port, class) whose last response has returned since the last command (R176). -/
structure TickIn where
  seen     : List TickFault
  progress : List WatchUnit
  sensors  : List Int
  rails    : List (Nat × Nat)
  coolant  : List Int
  feedOkA  : Bool
  feedOkB  : Bool
  traffic  : List (Fin 8 × Fin 16 × Fin 16777216 × Bool)
  returned : List (Fin 8 × Fin 16) := []
  deriving DecidableEq, Repr

/-- The optical telemetry of one lane at an epoch (R395): lane, transmit OMA, receive OMA (signed,
0.1 dBm), eye margin in percent, laser bias in 0.1 mA. -/
structure LaneSample where
  lane  : Fin 96
  txOma : BitVec 8
  rxOma : BitVec 8
  eye   : Fin 101
  bias  : Fin 256
  deriving DecidableEq, Repr

/-- The outcome of a residue retry (R88 steps 2 to 4). -/
inductive RetryResult | passed | differs | same
  deriving DecidableEq, Repr

/-- What an SEC-DED decode of a scratchpad word found (R126): a single-bit or a double-bit error,
with its syndrome, at a device address. -/
structure EccFinding where
  addr     : Fin 1099511627776
  double   : Bool
  syndrome : Fin 256
  deriving DecidableEq, Repr

/-- Loads of a thread (R102, R105, R110): a scalar one to an x register, one to an f register, a vector one of so
many bytes, LR, and the read of a CSR. -/
inductive LoadKind
  | plain
  | float
  | vector (n : Fin 65)
  | reserved
  | csr (n : Fin 4096)
  deriving DecidableEq, Repr

/-- What an AMO computes from memory and rs2 (R105). -/
inductive AmoOp | swap | add | xor | and | or | min | max | minu | maxu
  deriving DecidableEq, Repr

/-- What a CSR instruction writes (Zicsr): the operand, or the CSR with the operand's bits set or cleared. -/
inductive CsrOp | swap | set | clear
  deriving DecidableEq, Repr

/-- Stores of a thread (R102, R105, R110): a scalar one from an x register, one from an f register, a vector one of
so many bytes, SC, an AMO, and a CSR instruction with rs1, or with the 5-bit number in its place, as operand. -/
inductive StoreKind
  | plain
  | float
  | vector (n : Fin 65)
  | cond
  | amo (f : AmoOp)
  | csr (f : CsrOp) (number : Bool) (n : Fin 4096)
  deriving DecidableEq, Repr

/-- The causes of R130 that a thread itself raises; ECALL, which passes to Plisol firmware in machine mode, and
MRET, with which the firmware returns to the task (R104, R130). A custom-0 word is issued as the word it is: it
raises the exception only where it spells no Gwynnath instruction (R106). -/
inductive ExcCause | illegal (word : BitVec 32) | misaligned | ebreak | ecall | mret
  deriving DecidableEq, Repr

/-- The objects a disable covers (R152, R185, R62). -/
inductive DisObj
  | queue (q : Fin 262144)
  | context (c : Fin 4096)
  | partition (p : Fin 64)
  | inst (i : Fin 8)
  deriving DecidableEq, Repr

/-- A regulator phase's report (R406). -/
inductive PhaseCause | overcurrent | regulation | overtemperature
  deriving DecidableEq, Repr

/-- An Ethernet frame with an AVTPDU as it arrives on a sensor port (R220 to R222, R224), parsed by subtype.
`overhead` is what the frame holds beside `data`, up to the FCS, and `fcsBad` that its check failed; `etherType` is
the one after at most one 802.1Q tag, whose VLAN ID is ignored. `first` marks the first AVTPDU of a frame of a camera
or an ultrasonic stream, `lastUnit` is the end-of-frame bit, the last-message flag, or unused. Of a camera AVTPDU
`lineOrFrag` is the number of its first line and `total` its number of lines (PRESUMED, log 48). Of a lidar AVTPDU `eui` is the vendor EUI, `frameSeq` FRAME_SEQ, `lineOrFrag` FRAG_IDX, `total` FRAG_COUNT and `points` POINTS;
for AAF `total` is the channel count. `data` is the image data of the lines, the point records, the ACF
messages, or the interleaved samples with the least significant byte first. -/
structure Avtpdu where
  port       : Fin 4
  streamId   : DWord
  timestamp  : Word
  tv         : Bool
  seqNum     : BitVec 8
  first      : Bool
  lastUnit   : Bool
  lineOrFrag : Fin 65536
  total      : Fin 65536
  data       : List Byte
  overhead   : Nat := 64
  fcsBad     : Bool := false
  etherType  : BitVec 16 := 0x22F0
  subtype    : BitVec 8
  eui        : BitVec 48 := 0
  frameSeq   : BitVec 16 := 0
  points     : BitVec 16 := 0
  deriving DecidableEq, Repr

/-- A DRAM access (R353 to R381): initiator, device address, the operation it serves, if any; for a read what
the decode of the granule's codewords finds: per codeword 0, 1, 2 or more wrong symbols, or 3 for a pattern
decoded as correct, the first wrong symbol's place, and whether the two metadata symbols differ in ENC or PART
(R358); what the cache's code finds on a hit (0 nothing, 1 to 8 a corrected word, 9 an uncorrectable one); the
least fill of its port's input buffer since the port's last request and the fill as this one enters, in
sixteenths (R367); and the classes of the port whose transactions' last responses have returned by this cycle
(R176). -/
structure DramAcc where
  init      : Fin 735
  addr      : Fin 1099511627776
  token     : Option (Fin 16384)
  wrong0    : Fin 4 := 0
  wrong1    : Fin 4 := 0
  symbol    : Fin 36 := 0
  metaDiff  : Bool := false
  cacheBad  : Fin 10 := 0
  low       : Fin 17 := 0
  fill      : Fin 17 := 0
  returned  : List (Fin 16) := []
  deriving DecidableEq, Repr

/-- A per-bank refresh of a sub-channel (R361): the bank, what the refresh-rate indication has called for since the last
report, and whether the controller postpones the refresh that is due. -/
structure RefreshIn where
  bank      : Fin 256 := 0
  calls     : Fin 65536 := 0
  postponed : Bool := false
  deriving DecidableEq, Repr

/-- The data side of a DRAM write: the bytes written from `addr` on, and whether the writer carries
poison (R109, R360). -/
structure DramData where
  bytes  : List Byte
  poison : Bool
  deriving DecidableEq, Repr

/-- An injection row that failed at start-up (R324): the island that recorded it, the row 0 to 11 of
the table, the region and block it names (for the DRAM row the channel, for the link row module and
lane), and whether a retirement that a spare absorbed covers it. -/
structure InjFail where
  island : Isl
  row    : Fin 12
  region : Fin 256
  block  : Fin 256
  deriving DecidableEq, Repr

/-- A heartbeat as it reached an island (R311, R312). -/
structure Heartbeat where
  w         : BitVec 16
  state     : Nat
  vote      : Bool
  playout   : Bool
  injected  : Bool
  therm     : Fin 4
  cocoonF   : Nat
  cocoonCrc : Nat
  reportF   : Nat
  outcome   : Nat
  deriving DecidableEq, Repr

/-- How a heartbeat arrived. -/
inductive HbObs
  | ok (h : Heartbeat)
  | badCrc
  | missing
  deriving DecidableEq, Repr

/-- What a fault of the datapath changed of a value that a residue check judges (R86): the output tile whose beat
holds the value (R473), and the change in units of the value's least significant bit. -/
structure Upset where
  tile   : Nat
  change : Int
  deriving DecidableEq, Repr

/-- The entries of the signature buffer in which a fault of the hardware makes a third pass's signatures differ from
the first pass's and from the repeat's (R297, R298). -/
structure ThirdSigs where
  first : List (Fin 8192)
  rep   : List (Fin 8192)
  deriving DecidableEq, Repr

/-- The verdicts of verifying a signed image's cryptography (R427, R428 steps 2 and 3), facts about
the bytes as delivered, with the digest of its header. -/
structure Crypto where
  keyOk      : Bool
  sigOk      : Bool
  tableOk    : Bool
  sectionsOk : Bool
  digest     : BitVec 256
  deriving DecidableEq, Repr

/-- A signed image's header (R426). `reserved` is the OR of its reserved bytes. -/
structure ImgHeader where
  magic    : Nat
  type     : Nat
  version  : Nat
  svn      : Nat
  bytes    : Nat
  bind     : Nat
  nonce    : Nat
  profile  : Nat
  flags    : Nat
  reserved : Nat
  crypto   : Crypto
  deriving DecidableEq, Repr

/-- A launch word: its four 64-bit words (R47). -/
structure LaunchBits where
  w0 : Nat
  w1 : Nat
  w2 : Nat
  w3 : Nat
  deriving DecidableEq, Repr

/-- A partition the image declares (R20, R429): kind, fraction code 0 to 5, safety flag, class label,
shedding mode (true: abort). -/
structure PartDecl where
  pid      : Nat
  static   : Bool
  fraction : Nat
  safety   : Bool
  cls      : Nat
  shedAbort : Bool
  deriving DecidableEq, Repr

/-- A static thread of the CONTEXTS section (R470). -/
structure StaticThread where
  tile   : Nat
  lblock : Nat
  core   : Nat
  thread : Nat
  deriving DecidableEq, Repr

/-- A credit pool's open parameters (R121, R143). -/
structure PoolParam where
  valid : Bool
  sp    : Nat
  base  : Nat
  size  : Nat
  part  : Nat
  deriving DecidableEq, Repr

/-- A context image (R143). `reserved` is the OR of its reserved fields. -/
structure CtxImage where
  part        : Nat
  customer    : Nat
  cls         : Nat
  priority    : Nat
  abortMode   : Bool
  cqHost      : Bool
  cqOverwrite : Bool
  cqBase      : Nat
  cqLog2      : Nat
  windows     : List (Nat × Nat)
  pools       : List PoolParam
  reserved    : Nat
  deriving DecidableEq, Repr

/-- A static context (R143, R470). -/
structure StaticCtx where
  ctx     : Nat
  image   : CtxImage
  threads : List StaticThread
  entry   : Nat
  deriving DecidableEq, Repr

/-- A firewall region entry (R179). -/
structure FwEntry where
  valid  : Bool
  base   : Nat
  limit  : Nat
  initLo : Nat
  initHi : Nat
  read   : Nat
  write  : Nat
  deriving DecidableEq, Repr

/-- The schedule summary (R160, R22, R286). -/
structure Schedule where
  blockMap    : List (List Nat)
  arbBlocks   : List (Nat × Nat × Nat)
  preimg      : List (Nat × Nat × Nat × Nat)
  preemptLead : List (Nat × Nat)
  poolTime    : List (Nat × Nat × Nat)
  deriving DecidableEq, Repr

/-- The island parameters of the image (R429), θ in units of 10^-6 K/W. -/
structure IslandParams where
  playoutLimit : Nat
  dtiS         : Nat
  vid          : Nat
  pcp          : Nat
  theta        : Nat
  deriving DecidableEq, Repr

/-- A configuration image (R429). The manual gives the sections' contents, not their bytes. -/
structure CfgImage where
  header    : ImgHeader
  regs      : List (Nat × Nat)
  parts     : List PartDecl
  hostPart  : Nat
  initParts : List (Nat × Nat)
  initClass : List (Nat × Nat)
  contexts  : List StaticCtx
  launch    : List (List LaunchBits)
  schedule  : Schedule
  fwDram    : List FwEntry
  fwHub     : List FwEntry
  hubstore  : List (Nat × List Byte)
  island    : IslandParams
  models    : List Nat
  deriving DecidableEq, Repr

/-- One model of a manifest (R429): load address, length, reloadable flag, key slot, and per 4 MiB
chunk its clear data with the verdict of its digest at the first and the second read. -/
structure Model where
  load       : Nat
  bytes      : Nat
  reloadable : Bool
  slot       : Nat
  chunks     : List (Bool × Bool × List Byte)
  deriving DecidableEq, Repr

/-- A model manifest (TYPE 3). -/
structure Manifest where
  header : ImgHeader
  models : List Model
  deriving DecidableEq, Repr

/-- A management token of types 5 to 8 (R426): header, the partitions an unlock token names, the
integrator root digest and key slots of a provisioning token. -/
structure Token where
  header   : ImgHeader
  parts    : List (Fin 64)
  rootKey  : BitVec 256
  keySlots : List (BitVec 256)
  deriving DecidableEq, Repr

/-- What COMMIT finds in the staging area (R437). -/
inductive Staged
  | firmware (h : ImgHeader)
  | config (c : CfgImage)
  | manifest (slot : Nat) (m : Manifest)
  deriving DecidableEq, Repr

/-- The commands, in the order of the opcode table. A die-to-die link is 0 to 19 for the hub or port role of
that module and 20 + t for ring link t (R383); a direction of a link is link × 2 + 0 away from CTt (for a
port module away from the light engine), + 1 towards it. DESIGN CHOICE (log 1). -/
inductive Instr
  | modResetAssert
  | coldStart (failedChannels : List (Fin 48))
  | configurationLockSet
  | startUpInjection (fails : List InjFail)
  | injectionComplete
  | islandReset (i : Isl)
  | islandFirmwareLoad (i : Isl)
  | islandRailLow (i : Isl)
  | railFault (rail : Fin 5) (mv : BitVec 16)
  | phaseFault (phase : Fin 576) (cause : PhaseCause)
  | analogTrip (pair : Fin 60)
  | tripRelease
  | wingbeatTick (inp : TickIn)
  | tickMissing (unit : TickUnit) (cycles : Fin 4294967296)
  | controlFrameTick
  | perceptionFrameTick
  | audioBlockTick
  | epochTick (lanes : List LaneSample)
  | triggerMessageDrop (stream : Fin 64)
  | syncReceived (gm : DWord)
  | syncTimeout
  | deadlineAbandon (token : Fin 16384)
  | engineOpStart (b : Fin 144) (latch : Option (Fin 32)) (ecc : List EccFinding)
  | residueMismatch (b : Fin 144) (cell : Fin 32) (u : Upset)
  | residueRetryCheck (b : Fin 144) (cell : Fin 32) (r : RetryResult)
  | checkerInjectionDone (b : Fin 144) (cell : Fin 32) (missed : Fin 65)
  | engineOpComplete (b : Fin 144)
  | ppuOpComplete (token : Fin 16384) (lockstep : Option (Fin 4294967296))
  | dynDisable (b : Fin 144) (v : Bool)
  | dynMode (b : Fin 144) (v : Bool)
  | engineDrainLimit (b : Fin 144)
  | gwElaunch (t : ThreadId) (rd rs1 : XReg)
  | gwCreditAcq (t : ThreadId) (rd rs1 rs2 : XReg)
  | gwCreditPub (t : ThreadId) (rs1 : XReg)
  | gwCreditTake (t : ThreadId) (rd rs1 rs2 : XReg)
  | gwCreditRel (t : ThreadId) (rs1 rs2 : XReg)
  | gwRfence (t : ThreadId) (rs1 rs2 : XReg)
  | gwTwaitTag (t : ThreadId) (rd rs1 rs2 : XReg)
  | gwTwaitClass (t : ThreadId) (rd rs1 rs2 : XReg)
  | twaitLimitExpiry (t : ThreadId)
  | gwPtest (t : ThreadId) (rd rs1 : XReg)
  | threadLoad (t : ThreadId) (rd rs1 : XReg) (imm : BitVec 12) (width : Fin 4) (sext : Bool)
      (kind : LoadKind) (ecc : List EccFinding)
  | threadStore (t : ThreadId) (rs1 rs2 : XReg) (imm : BitVec 12) (width : Fin 4) (kind : StoreKind)
      (rd : XReg) (ecc : List EccFinding)
  | taskException (t : ThreadId) (cause : ExcCause)
  | coreArrayParity (t : ThreadId) (array : Fin 256)
  | scrubPassComplete (b : Fin 144) (ecc : List EccFinding)
  | rowRepair (b : Fin 144) (sp : Fin 5) (bank : Fin 16) (row : Fin 64)
  | queueEnable (mode : Bool)
  | queueDisable (mode : Bool)
  | qmDoorbell (v : DWord) (wide : Bool)
  | qmCqDoorbell (v : DWord) (wide : Bool)
  | contextLoad
  | contextDisable
  | partitionDisable (p : Fin 64) (mode : Bool)
  | partitionEnable (p : Fin 64) (mode : Bool)
  | drainLimit (o : DisObj)
  | descriptorPull
  | operationDispatch
  | taskComplete (token : Fin 16384)
  | fenceComplete (token : Fin 16384)
  | qmMirrorCtl (en : Bool)
  | qmAcctCtl (en : Bool)
  | preemptionStart (b : Fin 144)
  | grantCancelAtPreemption (b : Fin 144)
  | saveComplete (b : Fin 144)
  | savedSetResume (t : Fin 4)
  | instanceLoad (mode : Bool)
  | instanceUnload (mode : Bool)
  | prefixLookupDone (token : Fin 16384)
  | stepBoundary (i : Fin 8)
  | qmSrvCtlFair (v : Bool)
  | qmBudget (c : Fin 1024) (v : Word)
  | avtpduReceived (p : Avtpdu)
  | lidarDeskewDone (stream : Fin 64)
  | updateSeal
  | releaseDeadline
  | outputCommit (kind : Fin 6)
  | audioBlockClose
  | mapCommit
  | setCommit
  | candidateCheckDone
  | selectionInstant
  | gateCutoff
  | primaryRelease
  | transmitConfirmation (port : Fin 2)
  | repeatCompare (b : Fin 144) (differ : List (Fin 8192)) (uncorrectable : Option (Fin 8192))
  | arbitrationWaitExpiry (b : Fin 144)
  | copyInDone (t : Fin 4)
  | arbitrationOutcome (b : Fin 144) (v : ThirdSigs) (poisoned : Bool)
  | copyBackDone (t : Fin 4)
  | strikeExpiry (b : Fin 144)
  | moultDecision (b : Fin 144)
  | moultRemap (b : Fin 144)
  | moultEffect (b : Fin 144)
  | donorEmptied (b : Fin 144)
  | repairRecordWrite
  | debugSessionDetach
  | heartbeatSend (i : Isl)
  | heartbeatReceive (i : Isl) (h : HbObs)
  | peerLost (i : Isl)
  | frameEvaluation (i : Isl) (reportOk feedOk : Bool)
  | cocoonMessageSend (i : Isl)
  | statusMessageSend (i : Isl)
  | safeStateCommit (i : Isl)
  | safeStateRequestReceived (i : Isl)
  | computeResetAssert
  | recoveryStart (failedChannels : List (Fin 48))
  | recoveryStepTimeout (step : Fin 16) (ms : Fin 65536)
  | selftestPassEnd (b : Fin 144) (good : Bool) (pattern : Word)
  | selftestOverdue (b : Fin 144)
  | sensorMarkFailed (pair : Fin 62)
  | lifeRecordSend (i : Isl)
  | lifeReport (i : Isl)
  | hangDetected (h : HangIn)
  | regionResume (t : Fin 4)
  | replayHang (b : Fin 144)
  | suspectReplayComplete (t : Fin 4)
  | unitHangDetected (region : Fin 5) (unit : Fin 256)
  | regionResetFail (t : Fin 4) (reason : Fin 5)
  | unexplainedHangExpiry (b : Fin 144)
  | dramRead (a : DramAcc)
  | dramWrite (a : DramAcc) (d : DramData)
  | dramRefresh (k : Fin 48) (sub : Fin 2) (demand : RefreshIn)
  | timingRecentre (k : Fin 48)
  | patrolScrubPass (corrected : List (Fin 1099511627776 × Bool)) (poisoned : List (Fin 1099511627776))
  | spareRankScrub (r : Fin 96) (ok : Bool)
  | commandParityAlert (k : Fin 48) (entry : Fin 64)
  | channelRetrainDone (k : Fin 48) (ok : Bool)
  | rankSparingDecision
  | spareRankTrained (ok : Bool)
  | pageCopyDone (unreadable : List (Fin 64)) (readBack : Bool) (spareBad : Bool)
  | migrationCommit
  | flitReceive (l : Fin 48) (head ack : BitVec 16) (credits : BitVec 32) (slots : List Byte) (crc : DWord)
  | flitReplay (l : Fin 48) (seq : Fin 4096)
  | linkRetrain (k : Fin 24)
  | laneRepairStart (k : Fin 24) (lane : Fin 64)
  | laneRepairDone (k : Fin 24) (ok : Bool)
  | laneFlap (lane : Fin 96) (laserFault : Bool)
  | portRetrainDone (port : Fin 8)
  | hostLinkLight (unlocked : List (Fin 16))
  | hostLaneLockTimeout (lane : Fin 16)
  | hotReset
  | linkDisable
  | bmeClear
  | configRequest (write : Bool) (off : Fin 4096) (v : Word)
  | rcRegisterRead (off : Fin 268435456) (wide : Bool)
  | tkTimeLoRead
  | registerWrite (off : Fin 268435456) (v : DWord) (be : BitVec 8) (wide : Bool) (init : Nat)
  | bar0BadRequest (off : Fin 268435456) (len : Fin 4097)
  | bar2Read (off : Fin 68719476736) (len : Fin 4097)
  | bar2Write (off : Fin 68719476736) (data : List Byte) (ep : Bool)
  | hpBar2Win (v : Word)
  | hpEvlogCfg (v : Word)
  | hpEvlogHead (v : Word)
  | eventRecordWrite (code cls region block part ctx : Nat) (detail : List Nat)
  | eventRecordDeliver
  | mgmtIdentify (seq : BitVec 16)
  | mgmtChallenge (seq : BitVec 16)
  | mgmtStage (seq : BitVec 16) (off : Fin 274877906944) (data : List Byte)
  | mgmtCommit (seq : BitVec 16) (lu : Fin 256) (img : Staged)
  | mgmtProvision (seq : BitVec 16) (tok : Token)
  | mgmtReprovision (seq : BitVec 16) (tok : Token)
  | mgmtUnlock (seq : BitVec 16) (tok : Token)
  | mgmtTestPkg (seq : BitVec 16) (h : ImgHeader) (version : Word)
  | mgmtEnterLoader (seq : BitVec 16) (tok : Token)
  | mgmtRestart (seq : BitVec 16) (failedChannels : List (Fin 48))
  | attestationRequest (token : Fin 16384)
  | lowerTreeGenerate
  | portLinkDown (port : Fin 10)
  | portLinkUp (port : Fin 10) (width : Fin 17)
  | linkRetrainDone (k : Fin 24) (ok : Bool)
  | cocoonRequestReceived (i : Isl) (frame : Fin 140737488355328)
  | cocoonCopyReceived (i : Isl) (frame : Fin 140737488355328) (gen : BitVec 16) (crcOk : Bool) (data : List Byte)
  | timeOfValidity
  | abandonmentTimeout (b : Fin 144)
  | syncTransmit
  | attestationIndicesNearlyExhausted
  deriving DecidableEq, Repr

end Sys2Proof
end

