-- ==== Sys2Proof/Decode.lean ====
section
/-! DEFINITION. The command a table word spells. No row of the opcode table gives bits: the module
takes its commands as events and register accesses, so no word spells one. -/

namespace Sys2Proof

/-- The command that `nbits` bits of `w` spell by the opcode table: none, since no row gives bits.
DESIGN CHOICE (log 8). -/
def decodeTableWord (_nbits _w : Nat) : Option Instr := none

end Sys2Proof
end

