-- ==== Sys2Proof/Config.lean ====
section
/-! DEFINITION. What the manual leaves open or gives to a public standard outside it: constants
without a body, so that no proof can rest on a value of them (notes/assumptions/6.md lists them). -/

namespace Sys2Proof.Config

/-- A value nothing constrains, one for each count of `Dev.free`. -/
opaque freeNat : Nat → Nat

/-- Byte `i` of the detail of an event record: the manual names a detail's fields in order and gives
their widths for no code (R10, the event tables). DEDUCED (log 7). -/
opaque detailByte : (code : Nat) → (detail : List Nat) → (i : Nat) → Byte

/-- The error of the exponential of R93 on an FP32 bit pattern, in units in the last place, before it is held to
the rule's bound. DEDUCED (log 24). -/
opaque expErr : Nat → Int

/-- The cosine and sine of the midpoint integration of R261 on FP32 bit patterns. -/
opaque cos32 : Nat → Nat
/-- See `cos32`. -/
opaque sin32 : Nat → Nat

/-- The height z (FP32 bits) of a candidate's reference point (R263): a candidate carries x and y alone
(R265). DEDUCED (log 53). -/
opaque refZ : List Byte → Nat

/-- One value (FP32 bits) of the transform of an input tile (R83): the manual gives no transform matrices.
Arguments: opcode, the tile's FP32 values in row-major order, position. DESIGN CHOICE (log 22). -/
opaque winoIn : Nat → List Nat → Nat → Nat
/-- One value (FP32 bits) of the output transform (R83): opcode, the 36 or 16 accumulators in row-major order,
row and column within the output tile. DESIGN CHOICE (log 22). -/
opaque winoOut : Nat → List Nat → Nat → Nat → Nat

/-- The INT8 output of a NaN (R75 states none), by the accumulator pattern. -/
opaque nanInt8 : Nat → Nat

/-- Whether one box suppresses another where a coordinate of either is a NaN or an area is infinite (R98 states
no overlap there), by their eight FP32 coordinates and the threshold. DEDUCED (log 26). -/
opaque iouNonfinite : List Nat → Nat → Bool

/-- The core cycles counted when T is 0 (R104): the rule gives the count no start. DESIGN CHOICE (log 27). -/
opaque cycleStart : Nat
/-- The start value of a beat's CRC-64 signature (R291): the manual gives the polynomial alone. DEDUCED (log 57). -/
opaque sigStart : BitVec 64
/-- What is added to a beat's CRC-64 signature at its end (R291). DEDUCED (log 57). -/
opaque sigEnd : BitVec 64

/-- The CRC-32 of a cocoon (R311, R318), polynomial not given. DEDUCED (log 64). PRESUMED (log 88). -/
opaque crc32 : List Byte → Nat

/-- The bank and row of an offset within one sub-channel of a rank (R378): the manual gives no row size.
DEDUCED (log 70). -/
opaque dramRow : (off : Nat) → Nat × Nat

/-- Refreshes that may be postponed, a limit of the DRAM (R361). DEDUCED (log 72). -/
opaque refreshLimit : Nat

/-- The start value of the flits' CRC-64 (R387): the manual gives the polynomial alone. DEDUCED (log 74). -/
opaque crc64Start : BitVec 64
/-- What is added to the flits' CRC-64 at its end (R387). DEDUCED (log 74). -/
opaque crc64End : BitVec 64
/-- Byte `i` of the known idle pattern (R389): the manual does not give the pattern. DEDUCED (log 74). -/
opaque idleByte : (i : Nat) → Byte

/-- The laser bias of optical lane `n` at shipment in 0.1 mA (R395): a matter of the module. DEDUCED (log 75). -/
opaque shipBias : Nat → Nat

/-- The set hash of the memory-side cache (R379). DEDUCED (log 70). -/
opaque cacheSet : Nat → Nat

/-- The output of the follower's discipline loop (R44), in ppb before the limit of ±200,000. -/
opaque freqLoop : (offset last : Int) → Int

/-- The signature bytes of an attestation answer (R442): index, message. DEDUCED (log 87). -/
opaque hssByte : (index : Nat) → (msg : List Byte) → (i : Nat) → Byte

/-- Whether a coolant thermistor's reading, in 1/16 °C, passes the island's range check (R308), whose range the manual
does not give. DESIGN CHOICE (log 79). -/
opaque coolantOk : (reading : Int) → Bool

/-- One coordinate of a lidar point de-skewed to the frame's INSTANT by the ego motion (R237), FP32 bits in the
sensor frame: inertial frame bytes, INSTANT, point bytes, axis. DEDUCED (log 51). -/
opaque deskew : (ego : List Byte) → (instant : Nat) → (point : List Byte) → (axis : Nat) → Nat

/-- The bytes of one configuration register of AER and of capabilities the manual names without
their place (R449, R450). PRESUMED (log 89). -/
opaque cfgReset : Nat → Word

/-- A hub-store offset the manual leaves to the device: the block of a loaded model (R184), and the
block of the security unit (SEC_ATT_UNIT). -/
opaque instOffset : Nat → Nat
/-- Hub-store offset of the sequencer's token buffer of an instance and slot (R192 gives the plan the
address and not the place). -/
opaque tokBuf : Nat → Nat → Nat
/-- The SipHash key that an instance draws from the random-number generator (R184). DEDUCED (log 82). -/
opaque sipKey : Nat → BitVec 128
/-- See `instOffset`. -/
opaque attOffset : Nat

end Sys2Proof.Config
end

