-- ==== Sys2Proof/Machine/Table.lean ====
section
/-! DEFINITION. Reading and writing sparse tables (memory among them) in their canonical form, and
the bit-field, byte-order and saturation helpers every chapter uses. -/

namespace Sys2Proof.Machine

/-- What a table holds at key `k`; an unlisted key reads as the default `d k`. -/
def tget {α : Type} (d : Nat → α) : Table α → Nat → α
  | [], k => d k
  | (j, v) :: t, k => if j = k then v else tget d t k

/-- Put an entry before the first of a higher key. -/
def tins {α : Type} (k : Nat) (v : α) : Table α → Table α
  | [] => [(k, v)]
  | (j, w) :: t => if j < k then (j, w) :: tins k v t else (k, v) :: (j, w) :: t

/-- A table without its entry at `k`. -/
def tdel {α : Type} (k : Nat) (t : Table α) : Table α := t.filter fun e => e.1 != k

/-- Put `v` at `k` in key order, or remove the entry when `v` is `none`. -/
def tput {α : Type} (k : Nat) (v : Option α) (t : Table α) : Table α :=
  match v with
  | some x => tins k x (tdel k t)
  | none => tdel k t

/-- Write `v` at `k`; writing the default removes the entry, so equal tables are equal data. -/
def tset {α : Type} [DecidableEq α] (d : Nat → α) (t : Table α) (k : Nat) (v : α) : Table α :=
  tput k (if v = d k then none else some v) t

/-- Change the value at `k` by `f`. -/
def tmod {α : Type} [DecidableEq α] (d : Nat → α) (t : Table α) (k : Nat) (f : α → α) : Table α :=
  tset d t k (f (tget d t k))

/-- Every key of the table lies above `k`. -/
def tabove {α : Type} (k : Nat) : Table α → Bool
  | [] => true
  | (j, _) :: _ => decide (k < j)

/-- The canonical form: keys strictly rising and no entry equal to the default at its key. -/
def twf {α : Type} [DecidableEq α] (d : Nat → α) : Table α → Bool
  | [] => true
  | (j, v) :: t => decide (v ≠ d j) && tabove j t && twf d t

/-- Bits `lo` to `lo + n - 1` of a natural number (R4: bit 0 is the least significant). -/
def bits (v lo n : Nat) : Nat := v / 2 ^ lo % 2 ^ n

/-- Bit `i` of a natural number. -/
def bit (v i : Nat) : Bool := v.testBit i

/-- `v` with bits `lo` to `lo + n - 1` replaced by those of `x`. -/
def setBits (v lo n x : Nat) : Nat :=
  v % 2 ^ lo + (x % 2 ^ n) * 2 ^ lo + v / 2 ^ (lo + n) * 2 ^ (lo + n)

/-- 1 for true and 0 for false, as a register bit. -/
def b2n (b : Bool) : Nat := if b then 1 else 0

/-- A little-endian number from its bytes (R4). -/
def ofLE : List Byte → Nat
  | [] => 0
  | b :: t => b.toNat + 256 * ofLE t

/-- The `n` low bytes of a number, little-endian (R4). -/
def toLE : Nat → Nat → List Byte
  | 0, _ => []
  | n + 1, v => BitVec.ofNat 8 v :: toLE n (v / 256)

/-- The addition of a counter that saturates at `max`. -/
def satAdd (max a b : Nat) : Nat := min max (a + b)

/-- A signed reading of the `n` low bits. -/
def signed (n v : Nat) : Int :=
  if v % 2 ^ n < 2 ^ (n - 1) then (v % 2 ^ n : Int) else (v % 2 ^ n : Int) - 2 ^ n

/-- The `n`-bit two's-complement pattern of an integer. -/
def unsigned (n : Nat) (v : Int) : Nat := (v % (2 ^ n : Int)).toNat

/-- Smallest multiple of `m` that is at least `v`. -/
def roundUp (v m : Nat) : Nat := (v + m - 1) / m * m

/-- Quotient rounded up. -/
def ceilDiv (a b : Nat) : Nat := (a + b - 1) / b

/-- The 0-based place of the first element that satisfies `p`. -/
def indexOf? {α : Type} (p : α → Bool) (l : List α) : Option Nat := l.findIdx? p

/-- Replace the elements that satisfy `p` by their image under `f`. -/
def mapIf {α : Type} (p : α → Bool) (f : α → α) (l : List α) : List α :=
  l.map fun x => if p x then f x else x

/-- The element of least key, first on a tie. -/
def minBy? {α : Type} (key : α → Nat) : List α → Option α
  | [] => none
  | x :: t => match minBy? key t with
    | none => some x
    | some y => if key y < key x then some y else some x

/-- Stable insertion sort by a natural key. -/
def sortBy {α : Type} (key : α → Nat) : List α → List α
  | [] => []
  | x :: t => insertKey key x (sortBy key t)
where
  insertKey (key : α → Nat) (x : α) : List α → List α
    | [] => [x]
    | y :: t => if key x ≤ key y then x :: y :: t else y :: insertKey key x t

end Sys2Proof.Machine
end

