-- ==== Sys2Proof/Machine/Arith.lean ====
section
/-! DEFINITION. Arithmetic: exact binary fractions with IEEE 754 special values, rounding to the
formats of R63, FP32 operations with one rounding each, and the hashes the manual names by public
standard (SHA-256 of FIPS 180-4, SipHash-2-4), the LFSR of R284. -/

namespace Sys2Proof.Machine

/-- A value of a format of R63: NaN, an infinity, or ± m · 2^e (zero keeps its sign). -/
inductive Fp
  | nan
  | inf (neg : Bool)
  | fin (neg : Bool) (m : Nat) (e : Int)
  deriving DecidableEq, Repr

/-- Positive zero. -/
def Fp.zero : Fp := .fin false 0 0

/-- Signed integer significand of a finite value. -/
def sgn (neg : Bool) (m : Nat) : Int := if neg then -(m : Int) else m

/-- 2^k times an integer for k ≥ 0. -/
def shl (m : Int) (k : Int) : Int := m * (2 : Int) ^ k.toNat

/-- The exact finite value of a signed significand; a zero takes the sign `z`. -/
def ofSig (z : Bool) (m e : Int) : Fp := if m = 0 then .fin z 0 0 else .fin (decide (m < 0)) m.natAbs e

/-- Exact sum; a zero sum of operands of opposite sign is +0 (R70), in the adder of a repeat pass −0 (R285). -/
def Fp.addR (rep : Bool) : Fp → Fp → Fp
  | .nan, _ => .nan
  | _, .nan => .nan
  | .inf a, .inf b => if a = b then .inf a else .nan
  | .inf a, _ => .inf a
  | _, .inf b => .inf b
  | .fin a m e, .fin b n f =>
    let g := min e f
    ofSig (if rep then a || b else a && b) (shl (sgn a m) (e - g) + shl (sgn b n) (f - g)) g

/-- Exact sum with the zero signs of IEEE 754 under round to nearest (R70). -/
def Fp.add : Fp → Fp → Fp := Fp.addR false

/-- Exact product. -/
def Fp.mul : Fp → Fp → Fp
  | .nan, _ => .nan
  | _, .nan => .nan
  | .inf a, .inf b => .inf (a != b)
  | .inf a, .fin b n _ => if n = 0 then .nan else .inf (a != b)
  | .fin a m _, .inf b => if m = 0 then .nan else .inf (a != b)
  | .fin a m e, .fin b n f => .fin (a != b) (m * n) (e + f)

/-- Negation. -/
def Fp.neg : Fp → Fp
  | .nan => .nan
  | .inf a => .inf (!a)
  | .fin a m e => .fin (!a) m e

/-- Multiply by a power of two, exact. -/
def Fp.scale (k : Int) : Fp → Fp
  | .fin a m e => .fin a m (e + k)
  | x => x

/-- Strict order of non-NaN values. -/
def Fp.lt : Fp → Fp → Bool
  | .nan, _ => false
  | _, .nan => false
  | .inf a, .inf b => a && !b
  | .inf a, .fin _ _ _ => a
  | .fin _ _ _, .inf b => !b
  | .fin a m e, .fin b n f =>
    let g := min e f
    decide (shl (sgn a m) (e - g) < shl (sgn b n) (f - g))

/-- `≤` of non-NaN values. -/
def Fp.le (x y : Fp) : Bool :=
  match x, y with
  | .nan, _ => false
  | _, .nan => false
  | _, _ => !Fp.lt y x

/-- Whether a value is NaN. -/
def Fp.isNan : Fp → Bool
  | .nan => true
  | _ => false

/-- Whether a value is zero. -/
def Fp.isZero : Fp → Bool
  | .fin _ m _ => m == 0
  | _ => false

/-- `m / 2^k` rounded to nearest, ties to even. -/
def rne (m k : Nat) : Nat :=
  let q := m / 2 ^ k
  let r := 2 * (m % 2 ^ k)
  if r > 2 ^ k ∨ (r = 2 ^ k ∧ q % 2 = 1) then q + 1 else q

/-- A binary format: fraction bits, exponent of the smallest normal, largest finite significand and
its exponent, whether it has infinities, and whether conversion saturates. -/
structure Fmt where
  frac : Nat
  emin : Int
  maxM : Nat
  maxE : Int
  deriving DecidableEq, Repr

/-- Round to a format by nearest, ties to even; overflow gives an infinity, or with `sat` the
largest finite magnitude (R75). -/
def Fmt.round (f : Fmt) (sat : Bool) : Fp → Fp
  | .nan => .nan
  | .inf a => if sat then .fin a f.maxM f.maxE else .inf a
  | .fin a m e =>
    if m = 0 then .fin a 0 0
    else
      let top : Int := e + (Nat.log2 m : Int)
      let q : Int := max (top - f.frac) (f.emin - f.frac)
      let r := if e ≥ q then m * 2 ^ (e - q).toNat else rne m (q - e).toNat
      let big := decide (shl f.maxM (f.maxE - min q f.maxE) < shl r (q - min q f.maxE))
      if big then (if sat then .fin a f.maxM f.maxE else .inf a) else .fin a r q

/-- FP32. -/
def fmt32 : Fmt := ⟨23, -126, 2 ^ 24 - 1, 104⟩
/-- FP16. -/
def fmt16 : Fmt := ⟨10, -14, 2 ^ 11 - 1, 5⟩
/-- BF16. -/
def fmtBf : Fmt := ⟨7, -126, 2 ^ 8 - 1, 120⟩
/-- E4M3: 448 is its largest finite magnitude. -/
def fmtE4 : Fmt := ⟨3, -6, 14, 5⟩
/-- E5M2. -/
def fmtE5 : Fmt := ⟨2, -14, 7, 13⟩
/-- E3M2. -/
def fmtE3 : Fmt := ⟨2, -2, 7, 2⟩
/-- E2M3. -/
def fmtE2 : Fmt := ⟨3, 0, 15, -1⟩
/-- E2M1. -/
def fmtF4 : Fmt := ⟨1, 0, 3, 1⟩

/-- Decode a pattern with `eb` exponent bits, `fb` fraction bits and bias; `ieee` formats have
infinities and NaN at the top exponent. -/
def decodeFp (eb fb : Nat) (bias : Int) (ieee : Bool) (v : Nat) : Fp :=
  let s := bit v (eb + fb)
  let ex := bits v fb eb
  let fr := bits v 0 fb
  if ieee ∧ ex = 2 ^ eb - 1 then (if fr = 0 then .inf s else .nan)
  else if ex = 0 then .fin s fr (1 - bias - fb)
  else .fin s (2 ^ fb + fr) (ex - bias - fb)

/-- Encode a value already rounded to the format; NaN is the canonical pattern. -/
def encodeFp (eb fb : Nat) (bias : Int) (nanPat : Nat) : Fp → Nat
  | .nan => nanPat
  | .inf s => b2n s * 2 ^ (eb + fb) + (2 ^ eb - 1) * 2 ^ fb
  | .fin s m e =>
    let sg := b2n s * 2 ^ (eb + fb)
    if m = 0 then sg
    else
      let top := Nat.log2 m
      let q : Int := max (e + top - fb) (1 - bias - fb)
      let r := if e ≥ q then m * 2 ^ (e - q).toNat else m / 2 ^ (q - e).toNat
      if r < 2 ^ fb then sg + r else sg + (q + bias + fb).toNat * 2 ^ fb + (r - 2 ^ fb)

/-- FP32 pattern to value. -/
def dec32 (v : Nat) : Fp := decodeFp 8 23 127 true v
/-- Rounded FP32 value to pattern; NaN is 0x7FC0_0000 (R70). -/
def enc32 (x : Fp) : Nat := encodeFp 8 23 127 0x7FC00000 (fmt32.round false x)
/-- FP16 pattern to value. -/
def dec16 (v : Nat) : Fp := decodeFp 5 10 15 true v

/-- FP32 addition with one rounding. -/
def add32 (a b : Nat) : Nat := enc32 (Fp.add (dec32 a) (dec32 b))
/-- FP32 subtraction. -/
def sub32 (a b : Nat) : Nat := enc32 (Fp.add (dec32 a) (Fp.neg (dec32 b)))
/-- FP32 multiplication. -/
def mul32 (a b : Nat) : Nat := enc32 (Fp.mul (dec32 a) (dec32 b))
/-- FP32 order. -/
def lt32 (a b : Nat) : Bool := Fp.lt (dec32 a) (dec32 b)
/-- FP32 `≤`. -/
def le32 (a b : Nat) : Bool := Fp.le (dec32 a) (dec32 b)
/-- FP32 maximum of two values that are not NaN. -/
def max32 (a b : Nat) : Nat := if lt32 a b then b else a
/-- FP32 of an integer by rounding to nearest, ties to even. -/
def int32ToFp (v : Int) : Nat := enc32 (ofSig false v 0)
/-- Negative infinity. -/
def ninf32 : Nat := 0xFF800000
/-- One. -/
def one32 : Nat := 0x3F800000
/-- Exact value of a rational in FP32 by one rounding. -/
def ratTo32 (neg : Bool) (n d : Nat) : Nat :=
  if n = 0 ∨ d = 0 then enc32 (.fin neg 0 0)
  else
    let k := 64 + Nat.log2 d
    let q := n * 2 ^ k / d
    enc32 (.fin neg (2 * q + b2n (decide (n * 2 ^ k % d ≠ 0))) (-(k : Int) - 1))

/-- FP32 division with one rounding. -/
def div32 (a b : Nat) : Nat :=
  match dec32 a, dec32 b with
  | .nan, _ => 0x7FC00000
  | _, .nan => 0x7FC00000
  | .inf _, .inf _ => 0x7FC00000
  | .inf s, .fin t _ _ => enc32 (.inf (s != t))
  | .fin s _ _, .inf t => enc32 (.fin (s != t) 0 0)
  | .fin s m e, .fin t n f =>
    if n = 0 then (if m = 0 then 0x7FC00000 else enc32 (.inf (s != t)))
    else
      let g := e - f
      if g ≥ 0 then ratTo32 (s != t) (m * 2 ^ g.toNat) n else ratTo32 (s != t) m (n * 2 ^ (-g).toNat)

/-- Whether an FP32 pattern is NaN. -/
def isNan32 (v : Nat) : Bool := (dec32 v).isNan
/-- Whether an FP32 pattern is finite. -/
def isFin32 (v : Nat) : Bool :=
  match dec32 v with
  | .fin _ _ _ => true
  | _ => false
/-- FP32 absolute value. -/
def abs32 (v : Nat) : Nat := v % 2 ^ 31
/-- FP32 negation. -/
def neg32 (v : Nat) : Nat := if bit v 31 then v - 2 ^ 31 else v % 2 ^ 31 + 2 ^ 31
/-- FP32 of n / d for natural numbers. -/
def frac32 (n d : Nat) : Nat := ratTo32 false n d

/-! ## The exponential and the logarithm of the row unit (R93, R94) -/

/-- One, with 128 fraction bits. -/
def fixOne : Nat := 2 ^ 128

/-- The inverse hyperbolic tangent of a fixed-point number up to 1/3. -/
def fixAtanh (z : Nat) : Nat :=
  ((List.range 64).foldl (fun (a : Nat × Nat) n =>
    (a.1 + a.2 / (2 * n + 1), a.2 * (z * z / fixOne) / fixOne)) (0, z)).1

/-- ln 2 in fixed point. -/
def fixLn2 : Nat := 2 * fixAtanh (fixOne / 3)

/-- The exponential of a fixed-point number below ln 2. -/
def fixExp (r : Nat) : Nat :=
  ((List.range 48).foldl (fun (a : Nat × Nat) n => (a.1 + a.2, a.2 * r / fixOne / (n + 1))) (0, fixOne)).1

/-- The exponential of a finite value, to a relative error below 2^−100. -/
def expFp (neg : Bool) (m : Nat) (e : Int) : Fp :=
  if decide (Fp.lt (.fin false 256 0) (.fin false m e)) then (if neg then .fin false 1 (-400) else .inf false)
  else
    let x : Int := if e + 128 ≥ 0 then sgn neg m * 2 ^ (e + 128).toNat else sgn neg m / 2 ^ (-(e + 128)).toNat
    let k := x / (fixLn2 : Int)
    .fin false (fixExp (x - k * fixLn2).toNat) (k - 128)

/-- Two units in the last place of FP32 at a finite value, as a power of two. -/
def twoUlp (m : Nat) (e : Int) : Int := max (e + Nat.log2 m - 23) (-149) + 1

/-- The exponential of R93 on FP32 patterns: within 2 units in the last place of the exact one, and within that
bound free. DEDUCED (log 24). -/
def exp32 (v : Nat) : Nat :=
  match dec32 v with
  | .nan => 0x7FC00000
  | .inf s => if s then 0 else 0x7F800000
  | .fin s m e =>
    let y := expFp s m e
    let n := enc32 y
    let c := ((n : Int) + Config.expErr v % 5 - 2).toNat
    match y with
    | .fin _ a f =>
      let u := Fp.fin false 1 (twoUlp a f)
      if c < 0x7F800000 ∧ Fp.le (dec32 c) (Fp.add y u) = true ∧ Fp.le y (Fp.add (dec32 c) u) = true then c else n
    | _ => n

/-- The natural logarithm of R94 on FP32 patterns, rounded to nearest. DEDUCED (log 24). -/
def ln32 (v : Nat) : Nat :=
  match dec32 v with
  | .nan => 0x7FC00000
  | .inf s => if s then 0x7FC00000 else 0x7F800000
  | .fin s m e =>
    if m = 0 then ninf32
    else if s then 0x7FC00000
    else
      let t := Nat.log2 m
      let y := m * fixOne / 2 ^ t
      let l := 2 * fixAtanh ((y - fixOne) * fixOne / (y + fixOne))
      enc32 (ofSig false ((e + t) * fixLn2 + l) (-128))

/-! ## CRC-64 (R291, R387) -/

/-- One bit enters a CRC-64 with the polynomial of R291 and R387. -/
def crc64Bit (r : BitVec 64) (b : Bool) : BitVec 64 :=
  if r.getMsbD 0 != b then r <<< 1 ^^^ 0x42F0E1EBA9EA3693 else r <<< 1
/-- The bits of bytes, each from its lowest. -/
def byteBits (bytes : List Byte) : List Bool := bytes.flatMap fun b => (List.range 8).map b.getLsbD
/-- The CRC-64 over bits in order, from a start value. -/
def crc64From (start : BitVec 64) (l : List Bool) : BitVec 64 := l.foldl crc64Bit start
/-- The signature of a beat (R291): over the 19 bits of its logical scratchpad offset and its data bytes.
DEDUCED (log 57). -/
def beatSig (off : Nat) (data : List Byte) : Nat :=
  (crc64From Config.sigStart ((List.range 19).map (bit off) ++ byteBits data) ^^^ Config.sigEnd).toNat

/-! ## The residue checks (R86) -/

/-- The syndrome of a value that a fault changed: the residue modulo 31 of what the datapath holds less the residue
that the lanes predict. It is that of the change alone, whatever the value. -/
def residueSyn (change : Int) : Nat := (change % 31).toNat

/-! ## SHA-256 -/

/-- Rotate a 32-bit number right. -/
def ror32 (n x : Nat) : Nat := x / 2 ^ n + x % 2 ^ n * 2 ^ (32 - n)

/-- The exclusive or of three rotations, or of two and a shift. -/
def mix3 (rot : Bool) (a b c x : Nat) : Nat := ror32 a x ^^^ ror32 b x ^^^ (if rot then ror32 c x else x / 2 ^ c)

/-- The largest `r` below 2^n with r^k at most x, found bit by bit. -/
def kthRoot (k x : Nat) : Nat → Nat → Nat
  | 0, r => r
  | n + 1, r => kthRoot k x n (if (r + 2 ^ n) ^ k ≤ x then r + 2 ^ n else r)

/-- The first 32 bits of the fraction of the k-th root of a number. -/
def rootBits (k p : Nat) : Nat := kthRoot k (p * 2 ^ (32 * k)) 40 0 % 2 ^ 32

/-- The first 64 primes. -/
def primes64 : List Nat :=
  (List.range 312).filter fun p => decide (2 ≤ p) && (List.range 18).all fun q => decide (q < 2) || q == p || p % q != 0

/-- One step over the newest-first histories of the two working sequences, for a constant and a word. -/
def hashStep (v : List Nat × List Nat) (kw : Nat) : List Nat × List Nat :=
  let a i := v.1.getD i 0
  let e i := v.2.getD i 0
  let pick := e 2 ^^^ (e 0 &&& (e 1 ^^^ e 2))
  let most := (a 0 &&& a 1) ||| (a 2 &&& (a 0 ||| a 1))
  let t := e 3 + mix3 true 6 11 25 (e 0) + pick + kw
  ((t + mix3 true 2 13 22 (a 0) + most) % 2 ^ 32 :: v.1.take 3, (a 3 + t) % 2 ^ 32 :: v.2.take 3)

/-- The word that follows sixteen words, oldest first. -/
def nextWord (w : List Nat) : Nat :=
  (w.getD 0 0 + mix3 false 7 18 3 (w.getD 1 0) + w.getD 9 0 + mix3 false 17 19 10 (w.getD 14 0)) % 2 ^ 32

/-- The steps of one block over a window of sixteen words. -/
def hashSteps : List Nat → List Nat → List Nat × List Nat → List Nat × List Nat
  | [], _, v => v
  | k :: ks, w, v => hashSteps ks (w.drop 1 ++ [nextWord w]) (hashStep v (k + w.headD 0))

/-- Take one 64-byte block into a hash value of eight words. -/
def hashBlock (h : List Nat) (m : List Byte) : List Nat :=
  let w := (List.range 16).map fun i => ofLE ((m.drop (4 * i)).take 4).reverse
  let v := hashSteps (primes64.map (rootBits 3)) w (h.take 4, h.drop 4)
  List.zipWith (fun x y => (x + y) % 2 ^ 32) h (v.1 ++ v.2)

/-- SHA-256 of a byte string, as a 256-bit number, first byte most significant. PRESUMED (log 88). -/
def sha256 (m : List Byte) : BitVec 256 :=
  let p := m ++ [0x80] ++ List.replicate ((119 - m.length % 64) % 64) 0 ++ (toLE 8 (8 * m.length)).reverse
  let h := (List.range (p.length / 64)).foldl (fun h i => hashBlock h ((p.drop (64 * i)).take 64))
    ((primes64.take 8).map (rootBits 2))
  BitVec.ofNat 256 (h.foldl (fun n w => n * 2 ^ 32 + w) 0)

/-- The 32 bytes of a digest. -/
def digestBytes (d : BitVec 256) : List Byte := (toLE 32 d.toNat).reverse

/-- Extend a measurement register (R438): M ← SHA-256(M ‖ d). -/
def measure (m d : BitVec 256) : BitVec 256 := sha256 (digestBytes m ++ digestBytes d)

/-! ## SipHash-2-4 -/

/-- One SipRound. -/
def sipRound (v : List (BitVec 64)) : List (BitVec 64) :=
  match v with
  | [a, b, c, d] =>
    let a := a + b
    let b := b.rotateLeft 13 ^^^ a
    let a := a.rotateLeft 32
    let c := c + d
    let d := d.rotateLeft 16 ^^^ c
    let a := a + d
    let d := d.rotateLeft 21 ^^^ a
    let c := c + b
    let b := b.rotateLeft 17 ^^^ c
    let c := c.rotateLeft 32
    [a, b, c, d]
  | v => v

/-- Absorb one 64-bit word. -/
def sipWord (v : List (BitVec 64)) (m : BitVec 64) : List (BitVec 64) :=
  match sipRound (sipRound (v.modify 3 (· ^^^ m))) with
  | a :: t => (a ^^^ m) :: t
  | [] => []

/-- SipHash-2-4 of a byte string under a 128-bit key. PRESUMED (log 88). -/
def sipHash (key : BitVec 128) (m : List Byte) : Nat :=
  let k0 := key.extractLsb' 0 64
  let k1 := key.extractLsb' 64 64
  let v := [k0 ^^^ 0x736f6d6570736575, k1 ^^^ 0x646f72616e646f6d, k0 ^^^ 0x6c7967656e657261,
    k1 ^^^ 0x7465646279746573]
  let n := m.length / 8
  let v := (List.range n).foldl
    (fun v i => sipWord v (BitVec.ofNat 64 (ofLE ((m.drop (8 * i)).take 8)))) v
  let v := sipWord v (BitVec.ofNat 64 (ofLE (m.drop (8 * n)) + m.length % 256 * 2 ^ 56))
  let v := v.modify 2 (· ^^^ 0xff)
  let v := sipRound (sipRound (sipRound (sipRound v)))
  (v.foldl (· ^^^ ·) 0).toNat

/-! ## The rotation LFSR of R284 -/

/-- One step of the 16-bit Galois LFSR with tap mask 0xB400. -/
def lfsrStep (s : Nat) : Nat := if s % 2 = 1 then (s / 2) ^^^ 0xB400 else s / 2

/-- The rotation r of the repeat pass of a token whose first pass starts in wingbeat w. -/
def rotR (token w : Nat) : Nat :=
  let s := (token % 2 ^ 14) ^^^ (w % 2 ^ 16)
  let s := if s = 0 then 1 else s
  1 + lfsrStep (lfsrStep (lfsrStep (lfsrStep (lfsrStep s)))) % 31

/-- The rotation r3 of the third pass. -/
def rotR3 (r : Nat) : Nat := 1 + (r + 15) % 31

end Sys2Proof.Machine
end

