-- ==== Sys2Proof/Machine/RegMap.lean ====
section
/-! DEFINITION. The register map of R459 with the register tables of every chapter: for each register
its name, BAR0 offset, number and stride of its copies, the masks of its RW, RWL, RC and WO fields
(every other bit is RO or reserved), and its reset value where the manual gives one (0 elsewhere).
TK_TRIG_n, QM_DOORBELL and QM_CQ_DOORBELL are 64 bits and stand as two dwords. -/

namespace Sys2Proof.Machine

/-- One register, or `count` copies of it `stride` bytes apart (R459; R6 for the access types). -/
structure RegDef where
  name   : String
  off    : Nat
  count  : Nat
  stride : Nat
  rw     : Nat
  rwl    : Nat
  rc     : Nat
  wo     : Nat
  reset  : Nat
  deriving DecidableEq, Repr

/-! Offsets by name: the manual's register name in lower camel case, with its index as argument. -/

/-- TK_CLASS_CFG. -/
def R.tkClassCfg : Nat := 0x0
/-- TK_TIME_LO. -/
def R.tkTimeLo : Nat := 0x8
/-- TK_TIME_HI. -/
def R.tkTimeHi : Nat := 0xC
/-- TK_POSITION. -/
def R.tkPosition : Nat := 0x10
/-- TK_CTRL_FRAME. -/
def R.tkCtrlFrame : Nat := 0x14
/-- TK_GPTP_CFG. -/
def R.tkGptpCfg : Nat := 0x20
/-- TK_SYNC_STATUS. -/
def R.tkSyncStatus : Nat := 0x24
/-- TK_OFFSET. -/
def R.tkOffset : Nat := 0x28
/-- TK_FREQ_ADJ. -/
def R.tkFreqAdj : Nat := 0x2C
/-- TK_LAUNCH_BASE. -/
def R.tkLaunchBase : Nat := 0x30
/-- TK_DEADLINE_MISS. -/
def R.tkDeadlineMiss : Nat := 0x40
/-- TK_LAUNCH_SKIP. -/
def R.tkLaunchSkip : Nat := 0x44
/-- TK_TRIG_LATE. -/
def R.tkTrigLate : Nat := 0x48
/-- TK_TICK_FAULT. -/
def R.tkTickFault : Nat := 0x4C
/-- TK_TRIG_CFG. -/
def R.tkTrigCfg : Nat := 0x50
/-- TK_TRIG_n. -/
def R.tkTrig (n : Nat) : Nat := 0x100 + n * 0x8
/-- TK_TRIG_n_HI. -/
def R.tkTrigHi (n : Nat) : Nat := 0x104 + n * 0x8
/-- QM_CAP. -/
def R.qmCap : Nat := 0x10000
/-- QM_QTABLE_BASE. -/
def R.qmQtableBase : Nat := 0x10008
/-- QM_DOORBELL. -/
def R.qmDoorbell : Nat := 0x10010
/-- QM_DOORBELL_HI. -/
def R.qmDoorbellHi : Nat := 0x10014
/-- QM_CQ_DOORBELL. -/
def R.qmCqDoorbell : Nat := 0x10018
/-- QM_CQ_DOORBELL_HI. -/
def R.qmCqDoorbellHi : Nat := 0x1001C
/-- QM_QSEL. -/
def R.qmQsel : Nat := 0x10020
/-- QM_QCTL. -/
def R.qmQctl : Nat := 0x10024
/-- QM_QHEAD. -/
def R.qmQhead : Nat := 0x10028
/-- QM_QTAIL. -/
def R.qmQtail : Nat := 0x1002C
/-- QM_CSEL. -/
def R.qmCsel : Nat := 0x10030
/-- QM_CCTL. -/
def R.qmCctl : Nat := 0x10034
/-- QM_CIMG_LO. -/
def R.qmCimgLo : Nat := 0x10038
/-- QM_CIMG_HI. -/
def R.qmCimgHi : Nat := 0x1003C
/-- QM_CQTAIL. -/
def R.qmCqtail : Nat := 0x10040
/-- QM_PCTL_p. -/
def R.qmPctl (n : Nat) : Nat := 0x10100 + n * 0x4
/-- QM_TRK_RESERVE_t. -/
def R.qmTrkReserve (n : Nat) : Nat := 0x10200 + n * 0x10
/-- QM_TRK_USED_t. -/
def R.qmTrkUsed (n : Nat) : Nat := 0x10204 + n * 0x10
/-- QM_TRK_STALL_t. -/
def R.qmTrkStall (n : Nat) : Nat := 0x10208 + n * 0x10
/-- QM_BLK_STALL_t. -/
def R.qmBlkStall (n : Nat) : Nat := 0x1020C + n * 0x10
/-- QM_DB_MISS. -/
def R.qmDbMiss : Nat := 0x10300
/-- QM_DB_ERR. -/
def R.qmDbErr : Nat := 0x10304
/-- QM_CQ_HOLD. -/
def R.qmCqHold : Nat := 0x10308
/-- QM_MIRROR_LO. -/
def R.qmMirrorLo : Nat := 0x10310
/-- QM_MIRROR_HI. -/
def R.qmMirrorHi : Nat := 0x10314
/-- QM_MIRROR_CTL. -/
def R.qmMirrorCtl : Nat := 0x10318
/-- QM_MIRROR_SKIP. -/
def R.qmMirrorSkip : Nat := 0x1031C
/-- QM_SAVE_BASE. -/
def R.qmSaveBase : Nat := 0x10400
/-- QM_ACCT_LO. -/
def R.qmAcctLo : Nat := 0x10410
/-- QM_ACCT_HI. -/
def R.qmAcctHi : Nat := 0x10414
/-- QM_ACCT_CTL. -/
def R.qmAcctCtl : Nat := 0x10418
/-- QM_PREEMPT_t. -/
def R.qmPreempt (n : Nat) : Nat := 0x10440 + n * 0x10
/-- QM_PREEMPT_ABORT_t. -/
def R.qmPreemptAbort (n : Nat) : Nat := 0x10444 + n * 0x10
/-- QM_AFF_MISS_t. -/
def R.qmAffMiss (n : Nat) : Nat := 0x10448 + n * 0x10
/-- QM_SAVE_USED_t. -/
def R.qmSaveUsed (n : Nat) : Nat := 0x1044C + n * 0x10
/-- QM_SRV_CTL. -/
def R.qmSrvCtl : Nat := 0x10600
/-- QM_SRV_ISEL. -/
def R.qmSrvIsel : Nat := 0x10604
/-- QM_SRV_ICTL. -/
def R.qmSrvIctl : Nat := 0x10608
/-- QM_SRV_IOFF. -/
def R.qmSrvIoff : Nat := 0x1060C
/-- QM_SRV_IDESC_LO. -/
def R.qmSrvIdescLo : Nat := 0x10610
/-- QM_SRV_IDESC_HI. -/
def R.qmSrvIdescHi : Nat := 0x10614
/-- QM_SRV_ISTAT. -/
def R.qmSrvIstat : Nat := 0x10618
/-- QM_SRV_STEPS. -/
def R.qmSrvSteps : Nat := 0x1061C
/-- QM_PFX_TOKBASE. -/
def R.qmPfxTokbase : Nat := 0x10620
/-- QM_PFX_USED. -/
def R.qmPfxUsed : Nat := 0x10624
/-- QM_PFX_HIT. -/
def R.qmPfxHit : Nat := 0x10630
/-- QM_PFX_MISS. -/
def R.qmPfxMiss : Nat := 0x10634
/-- QM_PFX_COLL. -/
def R.qmPfxColl : Nat := 0x10638
/-- QM_PFX_EVICT. -/
def R.qmPfxEvict : Nat := 0x1063C
/-- QM_PFX_NOINS. -/
def R.qmPfxNoins : Nat := 0x10640
/-- QM_SRV_RECOMP. -/
def R.qmSrvRecomp : Nat := 0x10644
/-- QM_SRV_RETRY. -/
def R.qmSrvRetry : Nat := 0x10648
/-- QM_SRV_DRAFT. -/
def R.qmSrvDraft : Nat := 0x1064C
/-- QM_SRV_ACCEPT. -/
def R.qmSrvAccept : Nat := 0x10650
/-- QM_SRV_HOLD. -/
def R.qmSrvHold : Nat := 0x10654
/-- QM_KV_BLOCKS. -/
def R.qmKvBlocks : Nat := 0x10680
/-- QM_KV_FREE. -/
def R.qmKvFree : Nat := 0x10684
/-- QM_KV_LOW. -/
def R.qmKvLow : Nat := 0x10688
/-- QM_KV_SHARED. -/
def R.qmKvShared : Nat := 0x1068C
/-- QM_REGION_t. -/
def R.qmRegion (n : Nat) : Nat := 0x10700 + n * 0x10
/-- QM_HANGS_t. -/
def R.qmHangs (n : Nat) : Nat := 0x10704 + n * 0x10
/-- QM_REPLAYED_t. -/
def R.qmReplayed (n : Nat) : Nat := 0x10708 + n * 0x10
/-- QM_QUAR_t. -/
def R.qmQuar (n : Nat) : Nat := 0x1070C + n * 0x10
/-- QM_LAST_RECOV. -/
def R.qmLastRecov : Nat := 0x10740
/-- QM_BUDGET_c. -/
def R.qmBudget (n : Nat) : Nat := 0x12000 + n * 0x8
/-- QM_BUDGET_LEFT_c. -/
def R.qmBudgetLeft (n : Nat) : Nat := 0x12004 + n * 0x8
/-- ME_CAP. -/
def R.meCap : Nat := 0x20000
/-- ME_PPU_STATUS. -/
def R.mePpuStatus : Nat := 0x20010
/-- ME_ENGINE_n. -/
def R.meEngine (n : Nat) : Nat := 0x21000 + n * 0x40
/-- ME_RETRY_n. -/
def R.meRetry (n : Nat) : Nat := 0x21008 + n * 0x40
/-- ME_POISON_n. -/
def R.mePoison (n : Nat) : Nat := 0x2100C + n * 0x40
/-- ME_SAT_n. -/
def R.meSat (n : Nat) : Nat := 0x21010 + n * 0x40
/-- ME_NAN_n. -/
def R.meNan (n : Nat) : Nat := 0x21014 + n * 0x40
/-- ME_MASK_SKIP_n. -/
def R.meMaskSkip (n : Nat) : Nat := 0x21018 + n * 0x40
/-- ME_DESC_ERR_n. -/
def R.meDescErr (n : Nat) : Nat := 0x2101C + n * 0x40
/-- ME_LAST_ERR_n. -/
def R.meLastErr (n : Nat) : Nat := 0x21020 + n * 0x40
/-- GC_CAP. -/
def R.gcCap : Nat := 0x30000
/-- GC_ACTIVE_n. -/
def R.gcActive (n : Nat) : Nat := 0x31000 + n * 0x40
/-- GC_STATUS_n. -/
def R.gcStatus (n : Nat) : Nat := 0x31004 + n * 0x40
/-- GC_SB_STALL_n. -/
def R.gcSbStall (n : Nat) : Nat := 0x31008 + n * 0x40
/-- GC_CREDIT_DENY_n. -/
def R.gcCreditDeny (n : Nat) : Nat := 0x3100C + n * 0x40
/-- GC_EXC_n. -/
def R.gcExc (n : Nat) : Nat := 0x31010 + n * 0x40
/-- GC_POISON_LD_n. -/
def R.gcPoisonLd (n : Nat) : Nat := 0x31014 + n * 0x40
/-- GC_ARRAY_ERR_n. -/
def R.gcArrayErr (n : Nat) : Nat := 0x31018 + n * 0x40
/-- GC_LAST_EXC_n. -/
def R.gcLastExc (n : Nat) : Nat := 0x31020 + n * 0x40
/-- GC_WDOG_n. -/
def R.gcWdog (n : Nat) : Nat := 0x31024 + n * 0x40
/-- SP_CAP. -/
def R.spCap : Nat := 0x40000
/-- SP_SPARE_n. -/
def R.spSpare (n : Nat) : Nat := 0x41000 + n * 0x40
/-- SP_CE_n. -/
def R.spCe (n : Nat) : Nat := 0x41004 + n * 0x40
/-- SP_UE_n. -/
def R.spUe (n : Nat) : Nat := 0x41008 + n * 0x40
/-- SP_LAST_ERR_n. -/
def R.spLastErr (n : Nat) : Nat := 0x4100C + n * 0x40
/-- SP_SCRUB_n. -/
def R.spScrub (n : Nat) : Nat := 0x41010 + n * 0x40
/-- MC_CAP. -/
def R.mcCap : Nat := 0x50000
/-- MC_SCRUB_CFG. -/
def R.mcScrubCfg : Nat := 0x50010
/-- MC_CE_THR. -/
def R.mcCeThr : Nat := 0x50014
/-- MC_ENC_PART_LO. -/
def R.mcEncPartLo : Nat := 0x50020
/-- MC_ENC_PART_HI. -/
def R.mcEncPartHi : Nat := 0x50024
/-- MC_MIG_STATUS. -/
def R.mcMigStatus : Nat := 0x50030
/-- MC_LAST_ERR. -/
def R.mcLastErr : Nat := 0x50040
/-- MC_LAST_ADDR. -/
def R.mcLastAddr : Nat := 0x50044
/-- MC_RAW_WAIT. -/
def R.mcRawWait : Nat := 0x50050
/-- MC_PANIC. DESIGN CHOICE (log 73). -/
def R.mcPanic : Nat := 0x50054
/-- MC_CACHE_CE. -/
def R.mcCacheCe : Nat := 0x50058
/-- MC_CACHE_UE. -/
def R.mcCacheUe : Nat := 0x5005C
/-- MC_HSTORE_CE. -/
def R.mcHstoreCe : Nat := 0x50060
/-- MC_HSTORE_UE. -/
def R.mcHstoreUe : Nat := 0x50064
/-- MC_QOS_p. DESIGN CHOICE (log 73). -/
def R.mcQos (n : Nat) : Nat := 0x50100 + n * 0x4
/-- MC_CACHE_NOALLOC. -/
def R.mcCacheNoalloc : Nat := 0x50140
/-- MC_RESV_CHAN_LO. -/
def R.mcResvChanLo : Nat := 0x50800
/-- MC_RESV_CHAN_HI. -/
def R.mcResvChanHi : Nat := 0x50804
/-- MC_RESV_WAYS. -/
def R.mcResvWays : Nat := 0x50808
/-- MC_RESV_SIZE. -/
def R.mcResvSize : Nat := 0x5080C
/-- MC_REG_p_c. -/
def R.mcReg (n : Nat) : Nat := 0x51000 + n * 0x4
/-- MC_GUAR_MISS_p. -/
def R.mcGuarMiss (n : Nat) : Nat := 0x51200 + n * 0x4
/-- MC_RANK_r. -/
def R.mcRank (n : Nat) : Nat := 0x52000 + n * 0x10
/-- MC_RANK_CE_r. -/
def R.mcRankCe (n : Nat) : Nat := 0x52004 + n * 0x10
/-- MC_RANK_UE_r. -/
def R.mcRankUe (n : Nat) : Nat := 0x52008 + n * 0x10
/-- MC_CHAN_k. -/
def R.mcChan (n : Nat) : Nat := 0x53000 + n * 0x10
/-- MC_REMAP_L. -/
def R.mcRemap (n : Nat) : Nat := 0x54000 + n * 0x4
/-- FU_CAP. -/
def R.fuCap : Nat := 0x60000
/-- FU_UPDATE_CFG. -/
def R.fuUpdateCfg : Nat := 0x60010
/-- FU_UPDATE_TV_NS. -/
def R.fuUpdateTvNs : Nat := 0x60014
/-- FU_SECTOR_CFG. -/
def R.fuSectorCfg : Nat := 0x60018
/-- FU_INSTAR_CFG. -/
def R.fuInstarCfg : Nat := 0x6001C
/-- FU_STATE_A. -/
def R.fuStateA : Nat := 0x60020
/-- FU_STATE_B. -/
def R.fuStateB : Nat := 0x60024
/-- FU_STATE_INIT. -/
def R.fuStateInit : Nat := 0x60028
/-- FU_STATE_SIZE. -/
def R.fuStateSize : Nat := 0x6002C
/-- FU_ISET_BASE. -/
def R.fuIsetBase : Nat := 0x60030
/-- FU_MBOX_BASE. -/
def R.fuMboxBase : Nat := 0x60034
/-- FU_STATUS. -/
def R.fuStatus : Nat := 0x60040
/-- FU_SECTOR_STEPS. -/
def R.fuSectorSteps : Nat := 0x60044
/-- FU_UPDATE_NUM. -/
def R.fuUpdateNum : Nat := 0x60048
/-- FU_AGE. -/
def R.fuAge : Nat := 0x6004C
/-- FU_VSF_EUI_LO. -/
def R.fuVsfEuiLo : Nat := 0x60050
/-- FU_VSF_EUI_HI. -/
def R.fuVsfEuiHi : Nat := 0x60054
/-- FU_UNMATCHED. -/
def R.fuUnmatched : Nat := 0x60058
/-- FU_OUT_k_BASE. -/
def R.fuOutBase (n : Nat) : Nat := 0x60080 + n * 0x8
/-- FU_OUT_k_CFG. -/
def R.fuOutCfg (n : Nat) : Nat := 0x60084 + n * 0x8
/-- FU_OUT_k_COUNT. -/
def R.fuOutCount (n : Nat) : Nat := 0x600C0 + n * 0x4
/-- FU_STREAM_n_CFG. -/
def R.fuStreamCfg (n : Nat) : Nat := 0x61000 + n * 0x40
/-- FU_STREAM_n_SECT. -/
def R.fuStreamSect (n : Nat) : Nat := 0x61004 + n * 0x40
/-- FU_STREAM_n_ID_LO. -/
def R.fuStreamIdLo (n : Nat) : Nat := 0x61008 + n * 0x40
/-- FU_STREAM_n_ID_HI. -/
def R.fuStreamIdHi (n : Nat) : Nat := 0x6100C + n * 0x40
/-- FU_STREAM_n_BASE. -/
def R.fuStreamBase (n : Nat) : Nat := 0x61010 + n * 0x40
/-- FU_STREAM_n_SLOTB. -/
def R.fuStreamSlotb (n : Nat) : Nat := 0x61014 + n * 0x40
/-- FU_STREAM_n_EXTR. -/
def R.fuStreamExtr (n : Nat) : Nat := 0x61018 + n * 0x40
/-- FU_STREAM_n_STAT. -/
def R.fuStreamStat (n : Nat) : Nat := 0x6101C + n * 0x40
/-- FU_STREAM_n_LATE. -/
def R.fuStreamLate (n : Nat) : Nat := 0x61020 + n * 0x40
/-- FU_STREAM_n_DROP. -/
def R.fuStreamDrop (n : Nat) : Nat := 0x61024 + n * 0x40
/-- FU_STREAM_n_MISTIME. -/
def R.fuStreamMistime (n : Nat) : Nat := 0x61028 + n * 0x40
/-- FU_STREAM_n_OVERRUN. -/
def R.fuStreamOverrun (n : Nat) : Nat := 0x6102C + n * 0x40
/-- FU_STREAM_n_SLIP. -/
def R.fuStreamSlip (n : Nat) : Nat := 0x61030 + n * 0x40
/-- PL_CAP. -/
def R.plCap : Nat := 0x70000
/-- PL_CFG. -/
def R.plCfg : Nat := 0x70008
/-- PL_MAP_CFG. -/
def R.plMapCfg : Nat := 0x7000C
/-- PL_MAP_BASE. -/
def R.plMapBase : Nat := 0x70010
/-- PL_MAP_BUF. -/
def R.plMapBuf : Nat := 0x70014
/-- PL_SET_BASE. -/
def R.plSetBase : Nat := 0x70018
/-- PL_MBOX. -/
def R.plMbox : Nat := 0x7001C
/-- PL_GATE_CFG. -/
def R.plGateCfg : Nat := 0x70020
/-- PL_COCOON_CFG. -/
def R.plCocoonCfg : Nat := 0x70024
/-- PL_LIMIT_k. -/
def R.plLimit (n : Nat) : Nat := 0x70040 + n * 0x4
/-- PL_DISC_k. -/
def R.plDisc (n : Nat) : Nat := 0x70060 + n * 0x4
/-- PL_BODY_Z. -/
def R.plBodyZ : Nat := 0x70080
/-- PL_INFLATE. -/
def R.plInflate : Nat := 0x70084
/-- PL_ACT_CFG. -/
def R.plActCfg : Nat := 0x70088
/-- PL_QBV_k. -/
def R.plQbv (n : Nat) : Nat := 0x70090 + n * 0x4
/-- PL_STATUS. -/
def R.plStatus : Nat := 0x70100
/-- PL_LAST_OUT. -/
def R.plLastOut : Nat := 0x70104
/-- PL_LAST_CAUSES. -/
def R.plLastCauses : Nat := 0x70108
/-- PL_CHECKS. -/
def R.plChecks : Nat := 0x70140
/-- PL_INFEASIBLE. -/
def R.plInfeasible : Nat := 0x70144
/-- PL_DELTA. -/
def R.plDelta : Nat := 0x70148
/-- PL_REVAL_FAIL. -/
def R.plRevalFail : Nat := 0x7014C
/-- PL_EYE_FAIL. -/
def R.plEyeFail : Nat := 0x70150
/-- PL_WITHHELD. -/
def R.plWithheld : Nat := 0x70154
/-- PL_CUTOFF_PENDING. -/
def R.plCutoffPending : Nat := 0x70158
/-- RX_CAP. -/
def R.rxCap : Nat := 0x80000
/-- RX_HOURS. -/
def R.rxHours : Nat := 0x80004
/-- RX_DBG_SKIP. -/
def R.rxDbgSkip : Nat := 0x80008
/-- RX_PART_p. -/
def R.rxPart (n : Nat) : Nat := 0x80100 + n * 0x4
/-- RX_PREIMG_n. -/
def R.rxPreimg (n : Nat) : Nat := 0x81000 + n * 0x40
/-- RX_ENGINE_n. -/
def R.rxEngine (n : Nat) : Nat := 0x81004 + n * 0x40
/-- RX_STRIKE_n. -/
def R.rxStrike (n : Nat) : Nat := 0x81008 + n * 0x40
/-- RX_COMPARED_n. -/
def R.rxCompared (n : Nat) : Nat := 0x8100C + n * 0x40
/-- RX_MISMATCH_n. -/
def R.rxMismatch (n : Nat) : Nat := 0x81010 + n * 0x40
/-- RX_ARB_n. -/
def R.rxArb (n : Nat) : Nat := 0x81014 + n * 0x40
/-- RX_ARB_FAIL_n. -/
def R.rxArbFail (n : Nat) : Nat := 0x81018 + n * 0x40
/-- RX_INELIG_n. -/
def R.rxInelig (n : Nat) : Nat := 0x8101C + n * 0x40
/-- RX_UNCHECKED_n. -/
def R.rxUnchecked (n : Nat) : Nat := 0x81020 + n * 0x40
/-- RX_LAST_n. -/
def R.rxLast (n : Nat) : Nat := 0x81024 + n * 0x40
/-- CH_A_STATE. -/
def R.chAState : Nat := 0x90000
/-- CH_A_FRAME. -/
def R.chAFrame : Nat := 0x90004
/-- CH_A_COCOON. -/
def R.chACocoon : Nat := 0x90008
/-- CH_A_COCOON_CRC. -/
def R.chACocoonCrc : Nat := 0x9000C
/-- CH_A_PLAYOUT. -/
def R.chAPlayout : Nat := 0x90010
/-- CH_A_INJECT. -/
def R.chAInject : Nat := 0x90014
/-- CH_A_SELFTEST. -/
def R.chASelftest : Nat := 0x90018
/-- CH_A_THERM. -/
def R.chATherm : Nat := 0x9001C
/-- CH_A_LIFE. -/
def R.chALife : Nat := 0x90020
/-- CH_A_TEST_PKG. -/
def R.chATestPkg : Nat := 0x90024
/-- CH_A_LINK_ERR. -/
def R.chALinkErr : Nat := 0x90028
/-- CH_B_STATE. -/
def R.chBState : Nat := 0x90060
/-- CH_B_FRAME. -/
def R.chBFrame : Nat := 0x90064
/-- CH_B_COCOON. -/
def R.chBCocoon : Nat := 0x90068
/-- CH_B_COCOON_CRC. -/
def R.chBCocoonCrc : Nat := 0x9006C
/-- CH_B_PLAYOUT. -/
def R.chBPlayout : Nat := 0x90070
/-- CH_B_INJECT. -/
def R.chBInject : Nat := 0x90074
/-- CH_B_SELFTEST. -/
def R.chBSelftest : Nat := 0x90078
/-- CH_B_THERM. -/
def R.chBTherm : Nat := 0x9007C
/-- CH_B_LIFE. -/
def R.chBLife : Nat := 0x90080
/-- CH_B_TEST_PKG. -/
def R.chBTestPkg : Nat := 0x90084
/-- CH_B_LINK_ERR. -/
def R.chBLinkErr : Nat := 0x90088
/-- SEC_CAP. -/
def R.secCap : Nat := 0xA0000
/-- SEC_STATE. -/
def R.secState : Nat := 0xA0004
/-- SEC_BOOT. -/
def R.secBoot : Nat := 0xA0008
/-- SEC_SVN. -/
def R.secSvn : Nat := 0xA000C
/-- SEC_MEAS_k_i. -/
def R.secMeas (n : Nat) : Nat := 0xA0040 + n * 0x4
/-- SEC_ATT_UNIT. -/
def R.secAttUnit : Nat := 0xA0100
/-- SEC_LMS_NEXT. -/
def R.secLmsNext : Nat := 0xA0104
/-- SEC_LMS_END. -/
def R.secLmsEnd : Nat := 0xA0108
/-- SEC_FW_DENY. -/
def R.secFwDeny : Nat := 0xA0200
/-- SEC_FW_LAST. -/
def R.secFwLast : Nat := 0xA0204
/-- SEC_RWL_DENY. -/
def R.secRwlDeny : Nat := 0xA0208
/-- SEC_DBG_PART_LO. -/
def R.secDbgPartLo : Nat := 0xA0300
/-- SEC_DBG_PART_HI. -/
def R.secDbgPartHi : Nat := 0xA0304
/-- PWR_CAP. -/
def R.pwrCap : Nat := 0xB0000
/-- PWR_LIMIT. -/
def R.pwrLimit : Nat := 0xB0008
/-- PWR_MODULE. -/
def R.pwrModule : Nat := 0xB0010
/-- PWR_PEAK. -/
def R.pwrPeak : Nat := 0xB0014
/-- PWR_RAIL_k. -/
def R.pwrRail (n : Nat) : Nat := 0xB0020 + n * 0x4
/-- PWR_PHASE. -/
def R.pwrPhase : Nat := 0xB0040
/-- PWR_RAIL_FAULT. -/
def R.pwrRailFault : Nat := 0xB0044
/-- TH_CAP. -/
def R.thCap : Nat := 0xC0000
/-- TH_TJ. -/
def R.thTj : Nat := 0xC0010
/-- TH_TRIP. -/
def R.thTrip : Nat := 0xC0014
/-- TH_PAIR_p. -/
def R.thPair (n : Nat) : Nat := 0xC0400 + n * 0x4
/-- TH_NBR_p. -/
def R.thNbr (n : Nat) : Nat := 0xC0800 + n * 0x4
/-- TH_SENSOR_s. -/
def R.thSensor (n : Nat) : Nat := 0xC1000 + n * 0x4
/-- LNK_CAP. -/
def R.lnkCap : Nat := 0xD0000
/-- LNK_ROLE_CFG. -/
def R.lnkRoleCfg : Nat := 0xD0008
/-- LNK_HUB_MIN. -/
def R.lnkHubMin : Nat := 0xD000C
/-- LNK_m_STATUS. -/
def R.lnkStatus (n : Nat) : Nat := 0xD0100 + n * 0x20
/-- LNK_m_LAST. -/
def R.lnkLast (n : Nat) : Nat := 0xD0104 + n * 0x20
/-- LNK_m_RETRY. -/
def R.lnkRetry (n : Nat) : Nat := 0xD0108 + n * 0x20
/-- LNK_m_ATTR. -/
def R.lnkAttr (n : Nat) : Nat := 0xD010C + n * 0x20
/-- LNK_m_REPAIR. -/
def R.lnkRepair (n : Nat) : Nat := 0xD0110 + n * 0x20
/-- LNK_m_RETRAIN. -/
def R.lnkRetrain (n : Nat) : Nat := 0xD0114 + n * 0x20
/-- OPT_THR. -/
def R.optThr : Nat := 0xE0008
/-- OPT_LE_e. -/
def R.optLe (n : Nat) : Nat := 0xE0010 + n * 0x4
/-- OPT_PORTS. -/
def R.optPorts : Nat := 0xE0020
/-- OPT_LANE_n. -/
def R.optLane (n : Nat) : Nat := 0xE1000 + n * 0x10
/-- OPT_LANE_n_STAT. -/
def R.optLaneStat (n : Nat) : Nat := 0xE1004 + n * 0x10
/-- OPT_LANE_n_BIAS0. -/
def R.optLaneBias0 (n : Nat) : Nat := 0xE1008 + n * 0x10
/-- HP_CAP. -/
def R.hpCap : Nat := 0xF0000
/-- HP_LINK. -/
def R.hpLink : Nat := 0xF0004
/-- HP_BAR2_WIN. -/
def R.hpBar2Win : Nat := 0xF0008
/-- HP_EVLOG_LO. -/
def R.hpEvlogLo : Nat := 0xF0010
/-- HP_EVLOG_HI. -/
def R.hpEvlogHi : Nat := 0xF0014
/-- HP_EVLOG_CFG. -/
def R.hpEvlogCfg : Nat := 0xF0018
/-- HP_EVLOG_TAIL. -/
def R.hpEvlogTail : Nat := 0xF001C
/-- HP_EVLOG_HEAD. -/
def R.hpEvlogHead : Nat := 0xF0020
/-- HP_EVLOG_PEND. -/
def R.hpEvlogPend : Nat := 0xF0024
/-- HP_EVLOG_LOST. -/
def R.hpEvlogLost : Nat := 0xF0030
/-- HP_UR. -/
def R.hpUr : Nat := 0xF0034
/-- HP_CA. -/
def R.hpCa : Nat := 0xF0038
/-- HP_EP_IN. -/
def R.hpEpIn : Nat := 0xF003C
/-- HP_EP_OUT. -/
def R.hpEpOut : Nat := 0xF0040
/-- HP_UNUSED. -/
def R.hpUnused : Nat := 0xF0044

/-- Registers of the TK_ window. -/
def regsTk0 : List RegDef := [
  ⟨"TK_CLASS_CFG", 0x0, 1, 0x4, 0x0, 0x3FF00FF, 0x0, 0x0, 0xF00050⟩,
  ⟨"TK_TIME_LO", 0x8, 1, 0x4, 0x0, 0x0, 0x0, 0x0, 0x0⟩,
  ⟨"TK_TIME_HI", 0xC, 1, 0x4, 0x0, 0x0, 0x0, 0x0, 0x0⟩,
  ⟨"TK_POSITION", 0x10, 1, 0x4, 0x0, 0x0, 0x0, 0x0, 0x0⟩,
  ⟨"TK_CTRL_FRAME", 0x14, 1, 0x4, 0x0, 0x0, 0x0, 0x0, 0x0⟩,
  ⟨"TK_GPTP_CFG", 0x20, 1, 0x4, 0x0, 0xFFFFD, 0x0, 0x0, 0xA3F0⟩,
  ⟨"TK_SYNC_STATUS", 0x24, 1, 0x4, 0x0, 0x0, 0x0, 0x0, 0x0⟩,
  ⟨"TK_OFFSET", 0x28, 1, 0x4, 0x0, 0x0, 0x0, 0x0, 0x0⟩,
  ⟨"TK_FREQ_ADJ", 0x2C, 1, 0x4, 0x0, 0x0, 0x0, 0x0, 0x0⟩,
  ⟨"TK_LAUNCH_BASE", 0x30, 1, 0x4, 0x0, 0x1FFF000, 0x0, 0x0, 0x0⟩,
  ⟨"TK_DEADLINE_MISS", 0x40, 1, 0x4, 0x0, 0x0, 0xFFFFFFFF, 0x0, 0x0⟩,
  ⟨"TK_LAUNCH_SKIP", 0x44, 1, 0x4, 0x0, 0x0, 0xFFFFFFFF, 0x0, 0x0⟩,
  ⟨"TK_TRIG_LATE", 0x48, 1, 0x4, 0x0, 0x0, 0xFFFFFFFF, 0x0, 0x0⟩,
  ⟨"TK_TICK_FAULT", 0x4C, 1, 0x4, 0x0, 0x0, 0xFFFFFFFF, 0x0, 0x0⟩,
  ⟨"TK_TRIG_CFG", 0x50, 1, 0x4, 0x0, 0x7F, 0x0, 0x0, 0x7F⟩,
  ⟨"TK_TRIG_n", 0x100, 64, 0x8, 0x0, 0xFFFFFF, 0x0, 0x0, 0x100006⟩,
  ⟨"TK_TRIG_n_HI", 0x104, 64, 0x8, 0x0, 0x1FFFF, 0x0, 0x0, 0x0⟩]

/-- Registers of the QM_ window. A write of QM_CIMG_LO, QM_SRV_IDESC_LO, QM_MIRROR_LO or QM_ACCT_LO (and of HP_EVLOG_LO)
sets its whole value (R6); what an address that breaks the alignment of its description does, the spec does not state:
the device uses it as it stands, and a context load refuses it. DESIGN CHOICE (log 33). -/
def regsQm0 : List RegDef := [
  ⟨"QM_CAP", 0x10000, 1, 0x4, 0x0, 0x0, 0x0, 0x0, 0x2001D92⟩,
  ⟨"QM_QTABLE_BASE", 0x10008, 1, 0x4, 0x0, 0xFFFFFFF, 0x0, 0x0, 0x0⟩,
  ⟨"QM_DOORBELL", 0x10010, 1, 0x4, 0x0, 0x0, 0x0, 0x3FFFF, 0x0⟩,
  ⟨"QM_DOORBELL_HI", 0x10014, 1, 0x4, 0x0, 0x0, 0x0, 0xFFFFFFFF, 0x0⟩,
  ⟨"QM_CQ_DOORBELL", 0x10018, 1, 0x4, 0x0, 0x0, 0x0, 0xFFF, 0x0⟩,
  ⟨"QM_CQ_DOORBELL_HI", 0x1001C, 1, 0x4, 0x0, 0x0, 0x0, 0xFFFFFFFF, 0x0⟩,
  ⟨"QM_QSEL", 0x10020, 1, 0x4, 0x3FFFF, 0x0, 0x0, 0x0, 0x0⟩,
  ⟨"QM_QCTL", 0x10024, 1, 0x4, 0x3, 0x0, 0x0, 0x0, 0x0⟩,
  ⟨"QM_QHEAD", 0x10028, 1, 0x4, 0x0, 0x0, 0x0, 0x0, 0x0⟩,
  ⟨"QM_QTAIL", 0x1002C, 1, 0x4, 0x0, 0x0, 0x0, 0x0, 0x0⟩,
  ⟨"QM_CSEL", 0x10030, 1, 0x4, 0xFFF, 0x0, 0x0, 0x0, 0x0⟩,
  ⟨"QM_CCTL", 0x10034, 1, 0x4, 0x1, 0x0, 0x0, 0x0, 0x0⟩,
  ⟨"QM_CIMG_LO", 0x10038, 1, 0x4, 0xFFFFFFFF, 0x0, 0x0, 0x0, 0x0⟩,
  ⟨"QM_CIMG_HI", 0x1003C, 1, 0x4, 0xFF, 0x0, 0x0, 0x0, 0x0⟩,
  ⟨"QM_CQTAIL", 0x10040, 1, 0x4, 0x0, 0x0, 0x0, 0x0, 0x0⟩,
  ⟨"QM_PCTL_p", 0x10100, 64, 0x4, 0x3, 0x0, 0x0, 0x0, 0x1⟩,
  ⟨"QM_TRK_RESERVE_t", 0x10200, 4, 0x10, 0x0, 0x1FFF, 0x0, 0x0, 0x0⟩,
  ⟨"QM_TRK_USED_t", 0x10204, 4, 0x10, 0x0, 0x0, 0x1FFF0000, 0x0, 0x0⟩,
  ⟨"QM_TRK_STALL_t", 0x10208, 4, 0x10, 0x0, 0x0, 0xFFFFFFFF, 0x0, 0x0⟩,
  ⟨"QM_BLK_STALL_t", 0x1020C, 4, 0x10, 0x0, 0x0, 0xFFFFFFFF, 0x0, 0x0⟩,
  ⟨"QM_DB_MISS", 0x10300, 1, 0x4, 0x0, 0x0, 0xFFFFFFFF, 0x0, 0x0⟩,
  ⟨"QM_DB_ERR", 0x10304, 1, 0x4, 0x0, 0x0, 0xFFFFFFFF, 0x0, 0x0⟩,
  ⟨"QM_CQ_HOLD", 0x10308, 1, 0x4, 0x0, 0x0, 0xFFFFFFFF, 0x0, 0x0⟩,
  ⟨"QM_MIRROR_LO", 0x10310, 1, 0x4, 0xFFFFFFFF, 0x0, 0x0, 0x0, 0x0⟩,
  ⟨"QM_MIRROR_HI", 0x10314, 1, 0x4, 0xFFFFFFFF, 0x0, 0x0, 0x0, 0x0⟩]

/-- Registers of the QM_ window. -/
def regsQm1 : List RegDef := [
  ⟨"QM_MIRROR_CTL", 0x10318, 1, 0x4, 0x1, 0x0, 0x0, 0x0, 0x0⟩,
  ⟨"QM_MIRROR_SKIP", 0x1031C, 1, 0x4, 0x0, 0x0, 0xFFFFFFFF, 0x0, 0x0⟩,
  ⟨"QM_SAVE_BASE", 0x10400, 1, 0x4, 0x0, 0xFFFFFFF, 0x0, 0x0, 0x0⟩,
  ⟨"QM_ACCT_LO", 0x10410, 1, 0x4, 0xFFFFFFFF, 0x0, 0x0, 0x0, 0x0⟩,
  ⟨"QM_ACCT_HI", 0x10414, 1, 0x4, 0xFFFFFFFF, 0x0, 0x0, 0x0, 0x0⟩,
  ⟨"QM_ACCT_CTL", 0x10418, 1, 0x4, 0x1, 0x0, 0x0, 0x0, 0x0⟩,
  ⟨"QM_PREEMPT_t", 0x10440, 4, 0x10, 0x0, 0x0, 0xFFFFFFFF, 0x0, 0x0⟩,
  ⟨"QM_PREEMPT_ABORT_t", 0x10444, 4, 0x10, 0x0, 0x0, 0xFFFFFFFF, 0x0, 0x0⟩,
  ⟨"QM_AFF_MISS_t", 0x10448, 4, 0x10, 0x0, 0x0, 0xFFFFFFFF, 0x0, 0x0⟩,
  ⟨"QM_SAVE_USED_t", 0x1044C, 4, 0x10, 0x0, 0x0, 0x0, 0x0, 0x0⟩,
  ⟨"QM_SRV_CTL", 0x10600, 1, 0x4, 0x1, 0x0, 0x0, 0x0, 0x0⟩,
  ⟨"QM_SRV_ISEL", 0x10604, 1, 0x4, 0x7, 0x0, 0x0, 0x0, 0x0⟩,
  ⟨"QM_SRV_ICTL", 0x10608, 1, 0x4, 0x3, 0x0, 0x0, 0x0, 0x0⟩,
  ⟨"QM_SRV_IOFF", 0x1060C, 1, 0x4, 0x0, 0x0, 0x0, 0x0, 0x0⟩,
  ⟨"QM_SRV_IDESC_LO", 0x10610, 1, 0x4, 0xFFFFFFFF, 0x0, 0x0, 0x0, 0x0⟩,
  ⟨"QM_SRV_IDESC_HI", 0x10614, 1, 0x4, 0xFF, 0x0, 0x0, 0x0, 0x0⟩,
  ⟨"QM_SRV_ISTAT", 0x10618, 1, 0x4, 0x0, 0x0, 0x0, 0x0, 0x0⟩,
  ⟨"QM_SRV_STEPS", 0x1061C, 1, 0x4, 0x0, 0x0, 0x0, 0x0, 0x0⟩,
  ⟨"QM_PFX_TOKBASE", 0x10620, 1, 0x4, 0x0, 0xFFFFFFF, 0x0, 0x0, 0x0⟩,
  ⟨"QM_PFX_USED", 0x10624, 1, 0x4, 0x0, 0x0, 0x0, 0x0, 0x0⟩,
  ⟨"QM_PFX_HIT", 0x10630, 1, 0x4, 0x0, 0x0, 0xFFFFFFFF, 0x0, 0x0⟩,
  ⟨"QM_PFX_MISS", 0x10634, 1, 0x4, 0x0, 0x0, 0xFFFFFFFF, 0x0, 0x0⟩,
  ⟨"QM_PFX_COLL", 0x10638, 1, 0x4, 0x0, 0x0, 0xFFFFFFFF, 0x0, 0x0⟩,
  ⟨"QM_PFX_EVICT", 0x1063C, 1, 0x4, 0x0, 0x0, 0xFFFFFFFF, 0x0, 0x0⟩,
  ⟨"QM_PFX_NOINS", 0x10640, 1, 0x4, 0x0, 0x0, 0xFFFFFFFF, 0x0, 0x0⟩]

/-- Registers of the QM_ window. -/
def regsQm2 : List RegDef := [
  ⟨"QM_SRV_RECOMP", 0x10644, 1, 0x4, 0x0, 0x0, 0xFFFFFFFF, 0x0, 0x0⟩,
  ⟨"QM_SRV_RETRY", 0x10648, 1, 0x4, 0x0, 0x0, 0xFFFFFFFF, 0x0, 0x0⟩,
  ⟨"QM_SRV_DRAFT", 0x1064C, 1, 0x4, 0x0, 0x0, 0xFFFFFFFF, 0x0, 0x0⟩,
  ⟨"QM_SRV_ACCEPT", 0x10650, 1, 0x4, 0x0, 0x0, 0xFFFFFFFF, 0x0, 0x0⟩,
  ⟨"QM_SRV_HOLD", 0x10654, 1, 0x4, 0x0, 0x0, 0xFFFFFFFF, 0x0, 0x0⟩,
  ⟨"QM_KV_BLOCKS", 0x10680, 1, 0x4, 0x0, 0x0, 0x0, 0x0, 0x0⟩,
  ⟨"QM_KV_FREE", 0x10684, 1, 0x4, 0x0, 0x0, 0x0, 0x0, 0x0⟩,
  ⟨"QM_KV_LOW", 0x10688, 1, 0x4, 0x0, 0x0, 0xFFFFFFFF, 0x0, 0xFFFFFFFF⟩,
  ⟨"QM_KV_SHARED", 0x1068C, 1, 0x4, 0x0, 0x0, 0x0, 0x0, 0x0⟩,
  ⟨"QM_REGION_t", 0x10700, 4, 0x10, 0x0, 0x0, 0x0, 0x0, 0x0⟩,
  ⟨"QM_HANGS_t", 0x10704, 4, 0x10, 0x0, 0x0, 0xFFFFFFFF, 0x0, 0x0⟩,
  ⟨"QM_REPLAYED_t", 0x10708, 4, 0x10, 0x0, 0x0, 0xFFFFFFFF, 0x0, 0x0⟩,
  ⟨"QM_QUAR_t", 0x1070C, 4, 0x10, 0x0, 0x0, 0xFFFFFFFF, 0x0, 0x0⟩,
  ⟨"QM_LAST_RECOV", 0x10740, 1, 0x4, 0x0, 0x0, 0x0, 0x0, 0x0⟩,
  ⟨"QM_BUDGET_c", 0x12000, 1024, 0x8, 0xFFFFFFFF, 0x0, 0x0, 0x0, 0x0⟩,
  ⟨"QM_BUDGET_LEFT_c", 0x12004, 1024, 0x8, 0x0, 0x0, 0x0, 0x0, 0x0⟩]

/-- Registers of the ME_ window. -/
def regsMe0 : List RegDef := [
  ⟨"ME_CAP", 0x20000, 1, 0x4, 0x0, 0x0, 0x0, 0x0, 0xFFF2090⟩,
  ⟨"ME_PPU_STATUS", 0x20010, 1, 0x4, 0x0, 0x0, 0xFFFF0000, 0x0, 0x0⟩,
  ⟨"ME_ENGINE_n", 0x21000, 144, 0x40, 0xC00, 0x0, 0x0, 0x0, 0x0⟩,
  ⟨"ME_RETRY_n", 0x21008, 144, 0x40, 0x0, 0x0, 0xFFFFFFFF, 0x0, 0x0⟩,
  ⟨"ME_POISON_n", 0x2100C, 144, 0x40, 0x0, 0x0, 0xFFFFFFFF, 0x0, 0x0⟩,
  ⟨"ME_SAT_n", 0x21010, 144, 0x40, 0x0, 0x0, 0xFFFFFFFF, 0x0, 0x0⟩,
  ⟨"ME_NAN_n", 0x21014, 144, 0x40, 0x0, 0x0, 0xFFFFFFFF, 0x0, 0x0⟩,
  ⟨"ME_MASK_SKIP_n", 0x21018, 144, 0x40, 0x0, 0x0, 0xFFFFFFFF, 0x0, 0x0⟩,
  ⟨"ME_DESC_ERR_n", 0x2101C, 144, 0x40, 0x0, 0x0, 0xFFFFFFFF, 0x0, 0x0⟩,
  ⟨"ME_LAST_ERR_n", 0x21020, 144, 0x40, 0x0, 0x0, 0x0, 0x0, 0x0⟩]

/-- Registers of the GC_ window. -/
def regsGc0 : List RegDef := [
  ⟨"GC_CAP", 0x30000, 1, 0x4, 0x0, 0x0, 0x0, 0x0, 0x10884⟩,
  ⟨"GC_ACTIVE_n", 0x31000, 144, 0x40, 0x0, 0x0, 0x0, 0x0, 0x0⟩,
  ⟨"GC_STATUS_n", 0x31004, 144, 0x40, 0x0, 0x0, 0x0, 0x0, 0x0⟩,
  ⟨"GC_SB_STALL_n", 0x31008, 144, 0x40, 0x0, 0x0, 0xFFFFFFFF, 0x0, 0x0⟩,
  ⟨"GC_CREDIT_DENY_n", 0x3100C, 144, 0x40, 0x0, 0x0, 0xFFFFFFFF, 0x0, 0x0⟩,
  ⟨"GC_EXC_n", 0x31010, 144, 0x40, 0x0, 0x0, 0xFFFFFFFF, 0x0, 0x0⟩,
  ⟨"GC_POISON_LD_n", 0x31014, 144, 0x40, 0x0, 0x0, 0xFFFFFFFF, 0x0, 0x0⟩,
  ⟨"GC_ARRAY_ERR_n", 0x31018, 144, 0x40, 0x0, 0x0, 0xFFFFFFFF, 0x0, 0x0⟩,
  ⟨"GC_LAST_EXC_n", 0x31020, 144, 0x40, 0x0, 0x0, 0x0, 0x0, 0x0⟩,
  ⟨"GC_WDOG_n", 0x31024, 144, 0x40, 0x0, 0x0, 0x0, 0x0, 0x0⟩]

/-- Registers of the SP_ window. -/
def regsSp0 : List RegDef := [
  ⟨"SP_CAP", 0x40000, 1, 0x4, 0x0, 0x0, 0x0, 0x0, 0x40410⟩,
  ⟨"SP_SPARE_n", 0x41000, 144, 0x40, 0x0, 0x0, 0x0, 0x0, 0x0⟩,
  ⟨"SP_CE_n", 0x41004, 144, 0x40, 0x0, 0x0, 0xFFFFFFFF, 0x0, 0x0⟩,
  ⟨"SP_UE_n", 0x41008, 144, 0x40, 0x0, 0x0, 0xFFFFFFFF, 0x0, 0x0⟩,
  ⟨"SP_LAST_ERR_n", 0x4100C, 144, 0x40, 0x0, 0x0, 0x0, 0x0, 0x0⟩,
  ⟨"SP_SCRUB_n", 0x41010, 144, 0x40, 0x0, 0x0, 0x0, 0x0, 0x0⟩]

/-- Registers of the MC_ window. -/
def regsMc0 : List RegDef := [
  ⟨"MC_CAP", 0x50000, 1, 0x4, 0x0, 0x0, 0x0, 0x0, 0x205830⟩,
  ⟨"MC_SCRUB_CFG", 0x50010, 1, 0x4, 0x0, 0xFFFF, 0x0, 0x0, 0x8⟩,
  ⟨"MC_CE_THR", 0x50014, 1, 0x4, 0x0, 0xFFFF, 0x0, 0x0, 0x200⟩,
  ⟨"MC_ENC_PART_LO", 0x50020, 1, 0x4, 0x0, 0xFFFFFFFF, 0x0, 0x0, 0x0⟩,
  ⟨"MC_ENC_PART_HI", 0x50024, 1, 0x4, 0x0, 0xFFFFFFFF, 0x0, 0x0, 0x0⟩,
  ⟨"MC_MIG_STATUS", 0x50030, 1, 0x4, 0x0, 0x0, 0x0, 0x0, 0x0⟩,
  ⟨"MC_LAST_ERR", 0x50040, 1, 0x4, 0x0, 0x0, 0x0, 0x0, 0x0⟩,
  ⟨"MC_LAST_ADDR", 0x50044, 1, 0x4, 0x0, 0x0, 0x0, 0x0, 0x0⟩,
  ⟨"MC_RAW_WAIT", 0x50050, 1, 0x4, 0x0, 0x0, 0xFFFFFFFF, 0x0, 0x0⟩,
  ⟨"MC_PANIC", 0x50054, 1, 0x4, 0x0, 0x0, 0xFFFFFFFF, 0x0, 0x0⟩,
  ⟨"MC_CACHE_CE", 0x50058, 1, 0x4, 0x0, 0x0, 0xFFFFFFFF, 0x0, 0x0⟩,
  ⟨"MC_CACHE_UE", 0x5005C, 1, 0x4, 0x0, 0x0, 0xFFFFFFFF, 0x0, 0x0⟩,
  ⟨"MC_HSTORE_CE", 0x50060, 1, 0x4, 0x0, 0x0, 0xFFFFFFFF, 0x0, 0x0⟩,
  ⟨"MC_HSTORE_UE", 0x50064, 1, 0x4, 0x0, 0x0, 0xFFFFFFFF, 0x0, 0x0⟩,
  ⟨"MC_QOS_p", 0x50100, 8, 0x4, 0x0, 0xFFFFFF, 0x0, 0x0, 0x3E8C0⟩,
  ⟨"MC_CACHE_NOALLOC", 0x50140, 1, 0x4, 0x0, 0xFFFF, 0x0, 0x0, 0x0⟩,
  ⟨"MC_RESV_CHAN_LO", 0x50800, 1, 0x4, 0x0, 0xFFFFFFFF, 0x0, 0x0, 0xFFF⟩,
  ⟨"MC_RESV_CHAN_HI", 0x50804, 1, 0x4, 0x0, 0xFFFF, 0x0, 0x0, 0x0⟩,
  ⟨"MC_RESV_WAYS", 0x50808, 1, 0x4, 0x0, 0xFFFF, 0x0, 0x0, 0xF⟩,
  ⟨"MC_RESV_SIZE", 0x5080C, 1, 0x4, 0x0, 0x0, 0x0, 0x0, 0x0⟩,
  ⟨"MC_REG_p_c", 0x51000, 128, 0x4, 0xFFFFFF, 0x0, 0x0, 0x0, 0x10⟩,
  ⟨"MC_GUAR_MISS_p", 0x51200, 8, 0x4, 0x0, 0x0, 0xFFFFFFFF, 0x0, 0x0⟩,
  ⟨"MC_RANK_r", 0x52000, 96, 0x10, 0x0, 0x0, 0x0, 0x0, 0x0⟩,
  ⟨"MC_RANK_CE_r", 0x52004, 96, 0x10, 0x0, 0x0, 0x0, 0x0, 0x0⟩,
  ⟨"MC_RANK_UE_r", 0x52008, 96, 0x10, 0x0, 0x0, 0x0, 0x0, 0x0⟩]

/-- Registers of the MC_ window. -/
def regsMc1 : List RegDef := [
  ⟨"MC_CHAN_k", 0x53000, 48, 0x10, 0x0, 0x0, 0xFFFF, 0x0, 0x0⟩,
  ⟨"MC_REMAP_L", 0x54000, 92, 0x4, 0x0, 0x0, 0x0, 0x0, 0x0⟩]

/-- Registers of the FU_ window. -/
def regsFu0 : List RegDef := [
  ⟨"FU_CAP", 0x60000, 1, 0x4, 0x0, 0x0, 0x0, 0x0, 0x10840⟩,
  ⟨"FU_UPDATE_CFG", 0x60010, 1, 0x4, 0x0, 0x3FFFFFFF, 0x0, 0x0, 0x40040C8⟩,
  ⟨"FU_UPDATE_TV_NS", 0x60014, 1, 0x4, 0x0, 0x1FFFF, 0x0, 0x0, 0x0⟩,
  ⟨"FU_SECTOR_CFG", 0x60018, 1, 0x4, 0x0, 0x3FFFF, 0x0, 0x0, 0x2085⟩,
  ⟨"FU_INSTAR_CFG", 0x6001C, 1, 0x4, 0x0, 0xFFF, 0x0, 0x0, 0x30A⟩,
  ⟨"FU_STATE_A", 0x60020, 1, 0x4, 0x0, 0xFFFFFFF, 0x0, 0x0, 0x0⟩,
  ⟨"FU_STATE_B", 0x60024, 1, 0x4, 0x0, 0xFFFFFFF, 0x0, 0x0, 0x0⟩,
  ⟨"FU_STATE_INIT", 0x60028, 1, 0x4, 0x0, 0xFFFFFFF, 0x0, 0x0, 0x0⟩,
  ⟨"FU_STATE_SIZE", 0x6002C, 1, 0x4, 0x0, 0x7F, 0x0, 0x0, 0x0⟩,
  ⟨"FU_ISET_BASE", 0x60030, 1, 0x4, 0x0, 0x1FFFFC0, 0x0, 0x0, 0x0⟩,
  ⟨"FU_MBOX_BASE", 0x60034, 1, 0x4, 0x0, 0x1FFFFC0, 0x0, 0x0, 0x0⟩,
  ⟨"FU_STATUS", 0x60040, 1, 0x4, 0x0, 0x0, 0x0, 0x0, 0x0⟩,
  ⟨"FU_SECTOR_STEPS", 0x60044, 1, 0x4, 0x0, 0x0, 0x0, 0x0, 0x0⟩,
  ⟨"FU_UPDATE_NUM", 0x60048, 1, 0x4, 0x0, 0x0, 0x0, 0x0, 0x0⟩,
  ⟨"FU_AGE", 0x6004C, 1, 0x4, 0x0, 0x0, 0x0, 0x0, 0x0⟩,
  ⟨"FU_VSF_EUI_LO", 0x60050, 1, 0x4, 0x0, 0xFFFFFFFF, 0x0, 0x0, 0x0⟩,
  ⟨"FU_VSF_EUI_HI", 0x60054, 1, 0x4, 0x0, 0xFFFF, 0x0, 0x0, 0x0⟩,
  ⟨"FU_UNMATCHED", 0x60058, 1, 0x4, 0x0, 0x0, 0xFFFFFFFF, 0x0, 0x0⟩,
  ⟨"FU_OUT_k_BASE", 0x60080, 6, 0x8, 0x0, 0xFFFFFFF, 0x0, 0x0, 0x0⟩,
  ⟨"FU_OUT_k_CFG", 0x60084, 6, 0x8, 0x0, 0xFFFF, 0x0, 0x0, 0x0⟩,
  ⟨"FU_OUT_k_COUNT", 0x600C0, 6, 0x4, 0x0, 0x0, 0x0, 0x0, 0x0⟩,
  ⟨"FU_STREAM_n_CFG", 0x61000, 64, 0x40, 0x0, 0x3FFFFF, 0x0, 0x0, 0x0⟩,
  ⟨"FU_STREAM_n_SECT", 0x61004, 64, 0x40, 0x0, 0xFFFF, 0x0, 0x0, 0x0⟩,
  ⟨"FU_STREAM_n_ID_LO", 0x61008, 64, 0x40, 0x0, 0xFFFFFFFF, 0x0, 0x0, 0x0⟩,
  ⟨"FU_STREAM_n_ID_HI", 0x6100C, 64, 0x40, 0x0, 0xFFFFFFFF, 0x0, 0x0, 0x0⟩]

/-- Registers of the FU_ window. -/
def regsFu1 : List RegDef := [
  ⟨"FU_STREAM_n_BASE", 0x61010, 64, 0x40, 0x0, 0xFFFFFFF, 0x0, 0x0, 0x0⟩,
  ⟨"FU_STREAM_n_SLOTB", 0x61014, 64, 0x40, 0x0, 0xFFFF, 0x0, 0x0, 0x0⟩,
  ⟨"FU_STREAM_n_EXTR", 0x61018, 64, 0x40, 0x0, 0x1FFFFFF, 0x0, 0x0, 0x0⟩,
  ⟨"FU_STREAM_n_STAT", 0x6101C, 64, 0x40, 0x0, 0x0, 0x0, 0x0, 0x0⟩,
  ⟨"FU_STREAM_n_LATE", 0x61020, 64, 0x40, 0x0, 0x0, 0xFFFFFFFF, 0x0, 0x0⟩,
  ⟨"FU_STREAM_n_DROP", 0x61024, 64, 0x40, 0x0, 0x0, 0xFFFFFFFF, 0x0, 0x0⟩,
  ⟨"FU_STREAM_n_MISTIME", 0x61028, 64, 0x40, 0x0, 0x0, 0xFFFFFFFF, 0x0, 0x0⟩,
  ⟨"FU_STREAM_n_OVERRUN", 0x6102C, 64, 0x40, 0x0, 0x0, 0xFFFFFFFF, 0x0, 0x0⟩,
  ⟨"FU_STREAM_n_SLIP", 0x61030, 64, 0x40, 0x0, 0x0, 0xFFFFFFFF, 0x0, 0x0⟩]

/-- Registers of the PL_ window. -/
def regsPl0 : List RegDef := [
  ⟨"PL_CAP", 0x70000, 1, 0x4, 0x0, 0x0, 0x0, 0x0, 0x4220010⟩,
  ⟨"PL_CFG", 0x70008, 1, 0x4, 0x0, 0x1FFF, 0x0, 0x0, 0x1⟩,
  ⟨"PL_MAP_CFG", 0x7000C, 1, 0x4, 0x0, 0xFFFFFF, 0x0, 0x0, 0x7D042A⟩,
  ⟨"PL_MAP_BASE", 0x70010, 1, 0x4, 0x0, 0xFFFFFFF, 0x0, 0x0, 0x0⟩,
  ⟨"PL_MAP_BUF", 0x70014, 1, 0x4, 0x0, 0x7F, 0x0, 0x0, 0x0⟩,
  ⟨"PL_SET_BASE", 0x70018, 1, 0x4, 0x0, 0x1FFFFC0, 0x0, 0x0, 0x0⟩,
  ⟨"PL_MBOX", 0x7001C, 1, 0x4, 0x0, 0x1FFFFC0, 0x0, 0x0, 0x0⟩,
  ⟨"PL_GATE_CFG", 0x70020, 1, 0x4, 0x0, 0xFFFFFF, 0x0, 0x0, 0x324E48⟩,
  ⟨"PL_COCOON_CFG", 0x70024, 1, 0x4, 0x0, 0x3FFF, 0x0, 0x0, 0x1F40⟩,
  ⟨"PL_LIMIT_k", 0x70040, 7, 0x4, 0x0, 0xFFFFFFFF, 0x0, 0x0, 0x0⟩,
  ⟨"PL_DISC_k", 0x70060, 8, 0x4, 0x0, 0xFFFFFFFF, 0x0, 0x0, 0x0⟩,
  ⟨"PL_BODY_Z", 0x70080, 1, 0x4, 0x0, 0xFFFFFFFF, 0x0, 0x0, 0x0⟩,
  ⟨"PL_INFLATE", 0x70084, 1, 0x4, 0x0, 0xFFF, 0x0, 0x0, 0x64⟩,
  ⟨"PL_ACT_CFG", 0x70088, 1, 0x4, 0x0, 0xFFFFFF, 0x0, 0x0, 0xE001FE⟩,
  ⟨"PL_QBV_k", 0x70090, 4, 0x4, 0x0, 0x1FFFF, 0x0, 0x0, 0x0⟩,
  ⟨"PL_STATUS", 0x70100, 1, 0x4, 0x0, 0x0, 0x0, 0x0, 0x0⟩,
  ⟨"PL_LAST_OUT", 0x70104, 1, 0x4, 0x0, 0x0, 0x0, 0x0, 0x0⟩,
  ⟨"PL_LAST_CAUSES", 0x70108, 1, 0x4, 0x0, 0x0, 0x0, 0x0, 0x0⟩,
  ⟨"PL_CHECKS", 0x70140, 1, 0x4, 0x0, 0x0, 0xFFFFFFFF, 0x0, 0x0⟩,
  ⟨"PL_INFEASIBLE", 0x70144, 1, 0x4, 0x0, 0x0, 0xFFFFFFFF, 0x0, 0x0⟩,
  ⟨"PL_DELTA", 0x70148, 1, 0x4, 0x0, 0x0, 0xFFFFFFFF, 0x0, 0x0⟩,
  ⟨"PL_REVAL_FAIL", 0x7014C, 1, 0x4, 0x0, 0x0, 0xFFFFFFFF, 0x0, 0x0⟩,
  ⟨"PL_EYE_FAIL", 0x70150, 1, 0x4, 0x0, 0x0, 0xFFFFFFFF, 0x0, 0x0⟩,
  ⟨"PL_WITHHELD", 0x70154, 1, 0x4, 0x0, 0x0, 0xFFFFFFFF, 0x0, 0x0⟩,
  ⟨"PL_CUTOFF_PENDING", 0x70158, 1, 0x4, 0x0, 0x0, 0xFFFFFFFF, 0x0, 0x0⟩]

/-- Registers of the RX_ window. -/
def regsRx0 : List RegDef := [
  ⟨"RX_CAP", 0x80000, 1, 0x4, 0x0, 0x0, 0x0, 0x0, 0xA000⟩,
  ⟨"RX_HOURS", 0x80004, 1, 0x4, 0x0, 0x0, 0x0, 0x0, 0x0⟩,
  ⟨"RX_DBG_SKIP", 0x80008, 1, 0x4, 0x0, 0x0, 0xFFFFFFFF, 0x0, 0x0⟩,
  ⟨"RX_PART_p", 0x80100, 64, 0x4, 0x0, 0x0, 0x0, 0x0, 0x0⟩,
  ⟨"RX_PREIMG_n", 0x81000, 144, 0x40, 0x0, 0x3FFF, 0x0, 0x0, 0x0⟩,
  ⟨"RX_ENGINE_n", 0x81004, 144, 0x40, 0x0, 0x0, 0x0, 0x0, 0x0⟩,
  ⟨"RX_STRIKE_n", 0x81008, 144, 0x40, 0x0, 0x0, 0x0, 0x0, 0x0⟩,
  ⟨"RX_COMPARED_n", 0x8100C, 144, 0x40, 0x0, 0x0, 0xFFFFFFFF, 0x0, 0x0⟩,
  ⟨"RX_MISMATCH_n", 0x81010, 144, 0x40, 0x0, 0x0, 0xFFFFFFFF, 0x0, 0x0⟩,
  ⟨"RX_ARB_n", 0x81014, 144, 0x40, 0x0, 0x0, 0xFFFFFFFF, 0x0, 0x0⟩,
  ⟨"RX_ARB_FAIL_n", 0x81018, 144, 0x40, 0x0, 0x0, 0xFFFFFFFF, 0x0, 0x0⟩,
  ⟨"RX_INELIG_n", 0x8101C, 144, 0x40, 0x0, 0x0, 0xFFFFFFFF, 0x0, 0x0⟩,
  ⟨"RX_UNCHECKED_n", 0x81020, 144, 0x40, 0x0, 0x0, 0xFFFFFFFF, 0x0, 0x0⟩,
  ⟨"RX_LAST_n", 0x81024, 144, 0x40, 0x0, 0x0, 0x0, 0x0, 0x0⟩]

/-- Registers of the CH_ window. -/
def regsCh0 : List RegDef := [
  ⟨"CH_A_STATE", 0x90000, 1, 0x4, 0x0, 0x0, 0x0, 0x0, 0x40⟩,
  ⟨"CH_A_FRAME", 0x90004, 1, 0x4, 0x0, 0x0, 0x0, 0x0, 0x0⟩,
  ⟨"CH_A_COCOON", 0x90008, 1, 0x4, 0x0, 0x0, 0x0, 0x0, 0x0⟩,
  ⟨"CH_A_COCOON_CRC", 0x9000C, 1, 0x4, 0x0, 0x0, 0x0, 0x0, 0x0⟩,
  ⟨"CH_A_PLAYOUT", 0x90010, 1, 0x4, 0x0, 0x0, 0x0, 0x0, 0x0⟩,
  ⟨"CH_A_INJECT", 0x90014, 1, 0x4, 0x0, 0x0, 0x0, 0x0, 0x0⟩,
  ⟨"CH_A_SELFTEST", 0x90018, 1, 0x4, 0x0, 0x0, 0x0, 0x0, 0x0⟩,
  ⟨"CH_A_THERM", 0x9001C, 1, 0x4, 0x0, 0x0, 0x0, 0x0, 0x0⟩,
  ⟨"CH_A_LIFE", 0x90020, 1, 0x4, 0x0, 0x0, 0x0, 0x0, 0x0⟩,
  ⟨"CH_A_TEST_PKG", 0x90024, 1, 0x4, 0x0, 0x0, 0x0, 0x0, 0x0⟩,
  ⟨"CH_A_LINK_ERR", 0x90028, 1, 0x4, 0x0, 0x0, 0x0, 0x0, 0x0⟩,
  ⟨"CH_B_STATE", 0x90060, 1, 0x4, 0x0, 0x0, 0x0, 0x0, 0x40⟩,
  ⟨"CH_B_FRAME", 0x90064, 1, 0x4, 0x0, 0x0, 0x0, 0x0, 0x0⟩,
  ⟨"CH_B_COCOON", 0x90068, 1, 0x4, 0x0, 0x0, 0x0, 0x0, 0x0⟩,
  ⟨"CH_B_COCOON_CRC", 0x9006C, 1, 0x4, 0x0, 0x0, 0x0, 0x0, 0x0⟩,
  ⟨"CH_B_PLAYOUT", 0x90070, 1, 0x4, 0x0, 0x0, 0x0, 0x0, 0x0⟩,
  ⟨"CH_B_INJECT", 0x90074, 1, 0x4, 0x0, 0x0, 0x0, 0x0, 0x0⟩,
  ⟨"CH_B_SELFTEST", 0x90078, 1, 0x4, 0x0, 0x0, 0x0, 0x0, 0x0⟩,
  ⟨"CH_B_THERM", 0x9007C, 1, 0x4, 0x0, 0x0, 0x0, 0x0, 0x0⟩,
  ⟨"CH_B_LIFE", 0x90080, 1, 0x4, 0x0, 0x0, 0x0, 0x0, 0x0⟩,
  ⟨"CH_B_TEST_PKG", 0x90084, 1, 0x4, 0x0, 0x0, 0x0, 0x0, 0x0⟩,
  ⟨"CH_B_LINK_ERR", 0x90088, 1, 0x4, 0x0, 0x0, 0x0, 0x0, 0x0⟩]

/-- Registers of the SEC_ window. -/
def regsSec0 : List RegDef := [
  ⟨"SEC_CAP", 0xA0000, 1, 0x4, 0x0, 0x0, 0x0, 0x0, 0x228A5⟩,
  ⟨"SEC_STATE", 0xA0004, 1, 0x4, 0x0, 0x0, 0x0, 0x0, 0x0⟩,
  ⟨"SEC_BOOT", 0xA0008, 1, 0x4, 0x0, 0x0, 0x0, 0x0, 0x0⟩,
  ⟨"SEC_SVN", 0xA000C, 1, 0x4, 0x0, 0x0, 0x0, 0x0, 0x0⟩,
  ⟨"SEC_MEAS_k_i", 0xA0040, 40, 0x4, 0x0, 0x0, 0x0, 0x0, 0x0⟩,
  ⟨"SEC_ATT_UNIT", 0xA0100, 1, 0x4, 0x0, 0x0, 0x0, 0x0, 0x0⟩,
  ⟨"SEC_LMS_NEXT", 0xA0104, 1, 0x4, 0x0, 0x0, 0x0, 0x0, 0x0⟩,
  ⟨"SEC_LMS_END", 0xA0108, 1, 0x4, 0x0, 0x0, 0x0, 0x0, 0x0⟩,
  ⟨"SEC_FW_DENY", 0xA0200, 1, 0x4, 0x0, 0x0, 0xFFFFFFFF, 0x0, 0x0⟩,
  ⟨"SEC_FW_LAST", 0xA0204, 1, 0x4, 0x0, 0x0, 0x0, 0x0, 0x0⟩,
  ⟨"SEC_RWL_DENY", 0xA0208, 1, 0x4, 0x0, 0x0, 0xFFFFFFFF, 0x0, 0x0⟩,
  ⟨"SEC_DBG_PART_LO", 0xA0300, 1, 0x4, 0x0, 0x0, 0x0, 0x0, 0x0⟩,
  ⟨"SEC_DBG_PART_HI", 0xA0304, 1, 0x4, 0x0, 0x0, 0x0, 0x0, 0x0⟩]

/-- Registers of the PWR_ window. -/
def regsPwr0 : List RegDef := [
  ⟨"PWR_CAP", 0xB0000, 1, 0x4, 0x0, 0x0, 0x0, 0x0, 0x240⟩,
  ⟨"PWR_LIMIT", 0xB0008, 1, 0x4, 0x0, 0x3FF, 0x0, 0x0, 0x208⟩,
  ⟨"PWR_MODULE", 0xB0010, 1, 0x4, 0x0, 0x0, 0x0, 0x0, 0x0⟩,
  ⟨"PWR_PEAK", 0xB0014, 1, 0x4, 0x0, 0x0, 0xFFFF, 0x0, 0x0⟩,
  ⟨"PWR_RAIL_k", 0xB0020, 5, 0x4, 0x0, 0x0, 0x0, 0x0, 0x0⟩,
  ⟨"PWR_PHASE", 0xB0040, 1, 0x4, 0x0, 0x0, 0x0, 0x0, 0x0⟩,
  ⟨"PWR_RAIL_FAULT", 0xB0044, 1, 0x4, 0x0, 0x0, 0xFFFFFFFF, 0x0, 0x0⟩]

/-- Registers of the TH_ window. -/
def regsTh0 : List RegDef := [
  ⟨"TH_CAP", 0xC0000, 1, 0x4, 0x0, 0x0, 0x0, 0x0, 0x1F7C⟩,
  ⟨"TH_TJ", 0xC0010, 1, 0x4, 0x0, 0x0, 0x0, 0x0, 0x0⟩,
  ⟨"TH_TRIP", 0xC0014, 1, 0x4, 0x0, 0x0, 0x0, 0x0, 0x0⟩,
  ⟨"TH_PAIR_p", 0xC0400, 62, 0x4, 0x0, 0x0, 0x0, 0x0, 0x0⟩,
  ⟨"TH_NBR_p", 0xC0800, 62, 0x4, 0x0, 0xFFFFFFF, 0x0, 0x0, 0x0⟩,
  ⟨"TH_SENSOR_s", 0xC1000, 124, 0x4, 0x0, 0x0, 0x0, 0x0, 0x0⟩]

/-- Registers of the LNK_ window. -/
def regsLnk0 : List RegDef := [
  ⟨"LNK_CAP", 0xD0000, 1, 0x4, 0x0, 0x0, 0x0, 0x0, 0x124814⟩,
  ⟨"LNK_ROLE_CFG", 0xD0008, 1, 0x4, 0x0, 0x7F7F7F7F, 0x0, 0x0, 0x10101010⟩,
  ⟨"LNK_HUB_MIN", 0xD000C, 1, 0x4, 0x0, 0xFFFFFFFF, 0x0, 0x0, 0xC0C0C0C0⟩,
  ⟨"LNK_m_STATUS", 0xD0100, 20, 0x20, 0x0, 0x0, 0x0, 0x0, 0x0⟩,
  ⟨"LNK_m_LAST", 0xD0104, 20, 0x20, 0x0, 0x0, 0x0, 0x0, 0x0⟩,
  ⟨"LNK_m_RETRY", 0xD0108, 20, 0x20, 0x0, 0x0, 0xFFFFFFFF, 0x0, 0x0⟩,
  ⟨"LNK_m_ATTR", 0xD010C, 20, 0x20, 0x0, 0x0, 0xFFFFFFFF, 0x0, 0x0⟩,
  ⟨"LNK_m_REPAIR", 0xD0110, 20, 0x20, 0x0, 0x0, 0xFFFFFFFF, 0x0, 0x0⟩,
  ⟨"LNK_m_RETRAIN", 0xD0114, 20, 0x20, 0x0, 0x0, 0xFFFFFFFF, 0x0, 0x0⟩]

/-- Registers of the OPT_ window. -/
def regsOpt0 : List RegDef := [
  ⟨"OPT_THR", 0xE0008, 1, 0x4, 0x0, 0xFFFFFF, 0x0, 0x0, 0x4B1EC9⟩,
  ⟨"OPT_LE_e", 0xE0010, 4, 0x4, 0x0, 0x0, 0x0, 0x0, 0x0⟩,
  ⟨"OPT_PORTS", 0xE0020, 1, 0x4, 0x0, 0x0, 0x0, 0x0, 0x0⟩,
  ⟨"OPT_LANE_n", 0xE1000, 96, 0x10, 0x0, 0x0, 0x0, 0x0, 0x0⟩,
  ⟨"OPT_LANE_n_STAT", 0xE1004, 96, 0x10, 0x0, 0x0, 0x0, 0x0, 0x0⟩,
  ⟨"OPT_LANE_n_BIAS0", 0xE1008, 96, 0x10, 0x0, 0x0, 0x0, 0x0, 0x0⟩]

/-- Registers of the HP_ window. -/
def regsHp0 : List RegDef := [
  ⟨"HP_CAP", 0xF0000, 1, 0x4, 0x0, 0x0, 0x0, 0x0, 0x1000810⟩,
  ⟨"HP_LINK", 0xF0004, 1, 0x4, 0x0, 0x0, 0x0, 0x0, 0x0⟩,
  ⟨"HP_BAR2_WIN", 0xF0008, 1, 0x4, 0xFF, 0x0, 0x0, 0x0, 0x30⟩,
  ⟨"HP_EVLOG_LO", 0xF0010, 1, 0x4, 0xFFFFFFFF, 0x0, 0x0, 0x0, 0x0⟩,
  ⟨"HP_EVLOG_HI", 0xF0014, 1, 0x4, 0xFFFFFFFF, 0x0, 0x0, 0x0, 0x0⟩,
  ⟨"HP_EVLOG_CFG", 0xF0018, 1, 0x4, 0x3F, 0x0, 0x0, 0x0, 0x0⟩,
  ⟨"HP_EVLOG_TAIL", 0xF001C, 1, 0x4, 0x0, 0x0, 0x0, 0x0, 0x0⟩,
  ⟨"HP_EVLOG_HEAD", 0xF0020, 1, 0x4, 0xFFFFFFFF, 0x0, 0x0, 0x0, 0x0⟩,
  ⟨"HP_EVLOG_PEND", 0xF0024, 1, 0x4, 0x0, 0x0, 0x0, 0x0, 0x0⟩,
  ⟨"HP_EVLOG_LOST", 0xF0030, 1, 0x4, 0x0, 0x0, 0xFFFFFFFF, 0x0, 0x0⟩,
  ⟨"HP_UR", 0xF0034, 1, 0x4, 0x0, 0x0, 0xFFFFFFFF, 0x0, 0x0⟩,
  ⟨"HP_CA", 0xF0038, 1, 0x4, 0x0, 0x0, 0xFFFFFFFF, 0x0, 0x0⟩,
  ⟨"HP_EP_IN", 0xF003C, 1, 0x4, 0x0, 0x0, 0xFFFFFFFF, 0x0, 0x0⟩,
  ⟨"HP_EP_OUT", 0xF0040, 1, 0x4, 0x0, 0x0, 0xFFFFFFFF, 0x0, 0x0⟩,
  ⟨"HP_UNUSED", 0xF0044, 1, 0x4, 0x0, 0x0, 0xFFFFFFFF, 0x0, 0x0⟩]

/-- Every register of the module (R459). DEDUCED (log 11). -/
def regMap : List RegDef :=
  regsTk0 ++ regsQm0 ++ regsQm1 ++ regsQm2 ++ regsMe0 ++ regsGc0 ++ regsSp0 ++ regsMc0 ++ regsMc1 ++ regsFu0 ++ regsFu1 ++ regsPl0 ++ regsRx0 ++ regsCh0 ++ regsSec0 ++ regsPwr0 ++ regsTh0 ++ regsLnk0 ++ regsOpt0 ++ regsHp0

/-- Whether the dword at BAR0 offset `off` is a copy of the register. -/
def RegDef.covers (d : RegDef) (off : Nat) : Bool :=
  decide (d.off ≤ off) && decide ((off - d.off) % d.stride = 0) &&
    decide ((off - d.off) / d.stride < d.count)

/-- The register whose dword lies at a 4-byte-aligned BAR0 offset. -/
def regDef? (off : Nat) : Option RegDef := regMap.find? (·.covers off)

/-- MC_REG_p_c is RWL for classes 0 to 7 and RW for classes 8 to 15 (its register table). -/
def mcRegStatic (off : Nat) : Bool :=
  decide (R.mcReg 0 ≤ off) && decide (off < R.mcReg 128) && decide ((off - R.mcReg 0) / 4 % 16 < 8)

/-- The RW bits of the dword at `off` (R6). -/
def rwMask (off : Nat) : Nat :=
  match regDef? off with
  | some d => if mcRegStatic off then 0 else d.rw
  | none => 0

/-- The RWL bits of the dword at `off` (R6). -/
def rwlMask (off : Nat) : Nat :=
  match regDef? off with
  | some d => if mcRegStatic off then d.rw else d.rwl
  | none => 0

/-- The RC bits of the dword at `off` (R6). -/
def rcMask (off : Nat) : Nat := ((regDef? off).map (·.rc)).getD 0

/-- The reset value of the dword at `off`; a dword without a register reads 0 (R451). -/
def regReset (off : Nat) : Word := BitVec.ofNat 32 (((regDef? off).map (·.reset)).getD 0)

/-- The prefixes whose registers a compute-domain reset leaves unchanged (R467): TK_, SEC_, HP_,
PWR_, TH_ and CH_. -/
def regFloorHeld (off : Nat) : Bool :=
  decide (off < 0x10000) || (decide (0x90000 ≤ off) && decide (off < 0xD0000)) ||
    (decide (0xF0000 ≤ off) && decide (off < 0x100000))

end Sys2Proof.Machine
end

