-- ==== Sys2Proof/Machine/State.lean ====
section
/-! DEFINITION. The state of the module as plain data, its faults and refusals, and reset. -/

namespace Sys2Proof.Machine

/-- Reasons a step stops with a fault. -/
inductive Fault
  /-- Raised by a command whose operands no event of the hardware can carry (`WellFormed`); safe:
  the hardware never meets such an input. -/
  | illFormed
  deriving DecidableEq, Repr

/-- Reasons a step is refused. -/
inductive Refusal
  /-- Raised by an arm of `exec` without a meaning; safe. -/
  | notModelled (mnemonic : String)
  deriving DecidableEq, Repr

/-- An event record (R10): its fields, the detail as the list of fields its code defines. DEDUCED (log 7). -/
structure EventRecord where
  time   : Nat
  region : Nat
  block  : Nat
  cls    : Nat
  code   : Nat
  part   : Nat
  ctx    : Nat
  detail : List Nat
  deriving DecidableEq, Repr

/-- What leaves the module, oldest first in `Dev.out`. -/
inductive Out
  /-- A posted write to host memory, one request (R453). -/
  | hostWrite (addr : Nat) (data : List Byte)
  /-- A completion of a host request: 0 successful, 1 Unsupported Request, 2 Completer Abort; EP. -/
  | completion (status : Nat) (ep : Bool) (data : List Byte)
  /-- A trigger message on a sensor port (R56): an IEEE 1722 TSCF AVTPDU with one ACF message: port, ACF
  message type, its 16-byte payload. -/
  | trigger (port acfType : Nat) (payload : List Byte)
  /-- Two-step Sync and Follow_Up on a sensor port (R42): port, domain number, origin time. -/
  | sync (port domain time : Nat)
  /-- Announce on a master port (R42): port, domain number, timeSource. -/
  | announce (port domain timeSource : Nat)
  /-- A peer delay request on an enabled sensor port (R42): port, domain number. -/
  | pdelayReq (port domain : Nat)
  /-- A released primary on an actuation port: the ACF message type, VLAN ID and priority it carries, its payload
  (R280, R281). -/
  | primary (port frame acf vid pcp : Nat) (payload : List Byte)
  /-- The gate's frame report to both islands (R314): frame, first cause (0 released), mask. -/
  | frameReport (frame cause mask gen : Nat)
  /-- A transmit confirmation (R314): port, frame. -/
  | confirmation (port frame : Nat)
  /-- A heartbeat from an island (R311). -/
  | heartbeat (isl : Isl) (bytes : List Byte)
  /-- A cocoon message from an island (R319, R320): ACF message type, VLAN ID, priority, its 288-byte payload. -/
  | cocoonMsg (isl : Isl) (acf vid pcp : Nat) (payload : List Byte)
  /-- A status message from an island (R319, R320): ACF message type, VLAN ID, priority, its 64-byte payload. -/
  | statusMsg (isl : Isl) (acf vid pcp : Nat) (payload : List Byte)
  /-- A cocoon copy over the island link (R318). -/
  | cocoonCopy (isl : Isl) (frame crc : Nat)
  /-- A request for the peer's cocoon copy over the island link (R318). -/
  | cocoonReq (isl : Isl) (frame : Nat)
  /-- A safe-state request over the island link (R322): sender, cause. -/
  | safeReq (isl : Isl) (cause : Nat)
  /-- A life record over the mirror path (R420). -/
  | lifeRecord (isl : Isl)
  /-- An answer on the management port (R436): sequence, status, data fields. -/
  | mgmt (seq : BitVec 16) (status : Nat) (data : List Nat)
  /-- A NAK or ACK in a link's next header (R388): link × 2 + direction, sequence, NAK. -/
  | linkAck (l seq : Nat) (nak : Bool)
  /-- A data flit sent again (R388): link × 2 + direction, sequence. -/
  | flitResent (l seq : Nat)
  deriving DecidableEq, Repr

/-! ## Blocks -/

/-- What a thread of a general core waits for (R108, R119 to R124). -/
inductive Wait
  | none
  /-- GW.TWAIT.TAG: tag, the wingbeat at which the limit expires. -/
  | tag (tag : Nat) (limit : Option Nat) (rd : Nat)
  /-- GW.TWAIT.CLASS: class code, limit. -/
  | cls (cls : Nat) (limit : Option Nat) (rd : Nat)
  /-- A waiting GW.CREDIT.ACQ: pool's block, pool, granules. -/
  | acq (block pool n rd : Nat)
  /-- An instruction that stalls at issue, and that the thread tries again. -/
  | retry (i : Instr)
  deriving DecidableEq, Repr

/-- A grant a thread holds in a remote pool (R122). -/
structure Grant where
  addr  : Nat := 0
  block : Nat := 0
  pool  : Nat := 0
  n     : Nat := 0
  deriving DecidableEq, Repr

/-- A hardware thread of a general core (R103, R110). DESIGN CHOICE (log 27). -/
structure Thread where
  x       : Table DWord := []
  f       : Table DWord := []
  v       : Table (BitVec 512) := []
  pc      : Nat := 0
  machine : Bool := false
  /-- Token of the task it runs. -/
  op      : Option Nat := Option.none
  /-- The static context of a static thread (R470). -/
  static  : Option Nat := Option.none
  poison  : Bool := false
  seq     : Nat := 0
  elast   : Nat := 0
  wait    : Wait := .none
  /-- gwbase and gwbound of windows 0 to 3 (R112). -/
  windows : List (Nat × Nat) := []
  poolsel : Nat := 0
  grants  : List Grant := []
  /-- When a stalled GW.ELAUNCH first issued (R107): the wingbeat, and its place among the block's launches. -/
  firstIssue : Option (Nat × Nat) := Option.none
  /-- Reservation of LR on the core's own memory path (R105): address and bytes. -/
  resv    : Option (Nat × Nat) := Option.none
  /-- A remote write of it was dropped: its task ends FIREWALL_DENIED (R123). -/
  denied  : Bool := false
  /-- No-progress count (R337), and whether it moved since the last tick. -/
  stuck   : Nat := 0
  moved   : Bool := false
  deriving DecidableEq, Repr

/-- Where an engine operation came from (R60). -/
inductive EngSrc
  | launch
  | core (core thread : Nat)
  deriving DecidableEq, Repr

/-- Stages of an engine operation. -/
inductive EngStage
  | waiting    -- a launch-word operation that waits at the scoreboard (R118)
  | pending
  | running    -- first pass, or the only one
  | firstDone  -- selected, first pass ended, repeat to run
  | repeating
  | repeated   -- repeat ended, comparison due
  | arbWait    -- waits for an arbitration engine (R296)
  | copyIn | third | copyBack
  deriving DecidableEq, Repr

/-- A scoreboard entry (R117): byte range [lo, hi) and role. -/
structure SbEntry where
  lo       : Nat
  hi       : Nat
  producer : Bool
  /-- The pre-image area's entry (R286). -/
  pre      : Bool := false
  deriving DecidableEq, Repr

/-- An engine operation from the moment it is issued until it reports to the tracker. -/
structure EngOp where
  token    : Nat := 0
  ctx      : Nat := 0xFFFF
  part     : Nat := 0
  src      : EngSrc := .launch
  seq      : Nat := 0
  desc     : Nat := 0
  /-- The descriptor's eight words, read when the operation is issued. -/
  words    : List Nat := []
  issueW   : Nat := 0
  static   : Bool := false
  entries  : List SbEntry := []
  selected : Bool := false
  /-- The repeat of a launch-word operation has been asked for (R48). -/
  repReq   : Bool := false
  /-- A launch-word operation of a fraction-1 or paired word whose repeat has its own word. -/
  byWord   : Bool := false
  stage    : EngStage := .pending
  /-- Half of the signature buffer and of the pre-image area in use (R286, R291). -/
  half     : Nat := 0
  startW   : Nat := 0
  unchecked : Bool := false
  sat      : Bool := false
  nan      : Bool := false
  /-- Differing signature entries of the repeat. -/
  differ   : List Nat := []
  /-- Arbitration engine, and the control frame in which the wait for one began. -/
  arb      : Option Nat := Option.none
  arbFrame : Nat := 0
  /-- Terminal status decided before the report (R77). -/
  status   : Option Nat := Option.none
  deadline : Option Nat := Option.none
  /-- The outputs that a pre-emption position left unwritten (R165): position recorded. -/
  suspended : Bool := false
  /-- Its place among the launches of the engine: ENGINE words in the order of execution, core launches in the order
  of first issue (R60, R107); and the place of the ENGINE_REPEAT word that asked for its repeat. -/
  ord      : Nat := 0
  repOrd   : Nat := 0
  /-- The ENGINE word that started it: table × 2,048 + index (R287). -/
  word     : Option Nat := Option.none
  /-- Beats of the running pass that failed for good, and are never written: tile, cell (R86). -/
  unwritten : List (Nat × Nat) := []
  /-- What residue handling in progress on its beats holds back until it has finished: its end as POISONED
  (R88), an abort (R62), a deadline abandonment (R90), and the end of its task (R151). -/
  stop     : Bool := false
  abortReq : Bool := false
  late     : Bool := false
  dead     : Bool := false
  /-- Entries of the signature buffer in which the computed repeat differs from the first pass (R291). -/
  repDiff  : List Nat := []
  /-- The tracker entry of an operation that GW.ELAUNCH launched (R145). -/
  entry    : Option Nat := Option.none
  deriving DecidableEq, Repr

/-- A credit pool (R121). `published` lists grants in order: address, granules, published. -/
structure Pool where
  valid   : Bool := false
  closing : Bool := false
  sp      : Nat := 0
  base    : Nat := 0
  size    : Nat := 0
  part    : Nat := 0
  ctx     : Nat := 0xFFFF
  free    : Nat := 0
  filled  : Nat := 0
  taken   : Nat := 0
  wptr    : Nat := 0
  rptr    : Nat := 0
  grants  : List (Nat × Nat × Bool) := []
  deriving DecidableEq, Repr

/-- A posted remote write that waits at its target's shared port (R114, R119): the writer's token, the device
address, the bytes, the partition it carries, and whether the writer carries poison. -/
structure Posted where
  op     : Nat
  addr   : Nat
  bytes  : List Byte
  part   : Nat
  poison : Bool
  deriving DecidableEq, Repr

/-- Service state of a block (ME_ENGINE_n.STATE). -/
inductive Svc | standby | inService | retired
  deriving DecidableEq, Repr

/-- A beat that failed its residue check (R88): cell, output tile, syndrome, stage 2 (found) or 4 (checker
under injection), and the time at which it was found (R18). -/
structure HeldBeat where
  cell     : Nat
  tile     : Nat
  syndrome : Nat
  stage    : Nat
  found    : Nat
  deriving DecidableEq, Repr

/-- A pre-emption in progress (R165): wingbeat S, when step 1 ran, save slot, save complete. -/
structure Preempt where
  s     : Nat
  start : Nat
  slot  : Nat
  done  : Bool := false
  deriving DecidableEq, Repr

/-- A self-test pass in its slot: checkpoint offset in the hub store, pattern pointer, pass number, epoch time at which
the pass began, signature accumulated so far (R158, R326). -/
structure SelfTest where
  addr    : Nat
  pattern : Nat
  pass    : Nat
  since   : Nat
  sig     : Nat
  deriving DecidableEq, Repr

/-- A block: one engine, four cores, their scratchpads (R15). -/
structure Block where
  svc      : Svc := .inService
  chkFault : Bool := false
  powered  : Bool := true
  donor    : Bool := false
  /-- The partition it belongs to (R21), and whether by a static assignment. -/
  part     : Option Nat := Option.none
  slotPart : Option Nat := Option.none
  /-- Admission stopped: retirement, pre-emption, region reset (R33, R165, R341). -/
  takesWork : Bool := true
  eng      : List EngOp := []
  beats    : List HeldBeat := []
  threads  : Table Thread := []
  pools    : Table Pool := []
  /-- Waiting credit requests in order of arrival: block, thread of the writer. -/
  waiters  : List (Nat × Nat) := []
  /-- Posted writes that wait at its shared port, oldest first. -/
  posted   : List Posted := []
  engStuck : Nat := 0
  /-- Contexts of the operations abandoned on the engine since the last tick (R53, R338). -/
  ending   : List Nat := []
  engMoved : Bool := false
  lastUnit : Nat := 0
  lastThread : Nat := 0
  preempt  : Option Preempt := Option.none
  /-- DYN_DISABLE: wingbeat of the drain limit of a withdrawal (R62). -/
  withdraw : Option Nat := Option.none
  /-- Spare rows used per bank (scratchpad × 16 + bank) and the remapped rows of the repair record. -/
  spares   : Table Nat := []
  rows     : List Nat := []
  /-- Corrections per row in this epoch, words corrected in the last scrub pass, rows due for repair. -/
  rowCe    : Table Nat := []
  scrubbed : List Nat := []
  rowDue   : List Nat := []
  passes   : Nat := 0
  /-- Epochs with core array errors, with their powered hours (R131). -/
  arrEp    : List (Nat × Nat) := []
  strikes  : List Nat := []
  hangs    : List Nat := []
  selCnt   : Nat := 0
  /-- Launches of the engine so far, for `EngOp.ord`. -/
  stamp    : Nat := 0
  /-- The thread of each core that issued last (R103). -/
  lastIssue : Table Nat := []
  /-- Signature buffer (R291). -/
  sigs     : Table Nat := []
  /-- The arbitration it runs for another block: block, token (R295). -/
  arbFor   : Option (Nat × Nat) := Option.none
  /-- That third pass failed its residue check (R298). -/
  arbBad   : Bool := false
  /-- Passed a full self-test since start; epoch time of the last completed pass (R32, R328). -/
  tested   : Bool := false
  lastPass : Nat := 0
  passNo   : Nat := 0
  /-- Its pass is overdue and the warning is out (R328). -/
  overdue  : Bool := false
  /-- The open self-test slot (R158, R326). -/
  selftest : Option SelfTest := Option.none
  deriving DecidableEq, Repr

/-- A saved set (R165): source block, partition, the tasks' tokens, threads, engine and pools. -/
structure SavedSet where
  used    : Bool := false
  order   : Nat := 0
  block   : Nat := 0
  part    : Nat := 0
  tokens  : List Nat := []
  threads : Table Thread := []
  eng     : List EngOp := []
  pools   : Table Pool := []
  /-- Signature entries of its operations (R165); requests that wait at its pools. -/
  sigs    : Table Nat := []
  waiters : List (Nat × Nat) := []
  since   : Nat := 0
  deriving DecidableEq, Repr

/-- A moult in progress (R33): retired block, its logical block, B once known, the spare chosen. -/
structure Moult where
  retired : Nat
  lblock  : Option Nat
  at_     : Option Nat
  spare   : Option Nat := Option.none
  donor   : Option Nat := Option.none
  limit   : Nat := 0
  deriving DecidableEq, Repr

/-- What a unit of a tile held at the last tick, and for how many wingbeats it has advanced none of it (R339). -/
structure UnitWatch where
  work  : List Nat := []
  stuck : Nat := 0
  deriving DecidableEq, Repr

/-- The units of a tile that R339 watches. -/
structure TileWatch where
  dispatcher : UnitWatch := {}
  tracker    : UnitWatch := {}
  copyPath   : UnitWatch := {}
  deriving DecidableEq, Repr

/-- A compute tile: block map, save slots, moults, region recovery (R22, R33, R164, R341). -/
structure Tile where
  /-- Logical block to physical block of the tile; default the block of the same number. -/
  map      : Table Nat := []
  /-- Logical blocks out of service (R34). -/
  outLb    : List Nat := []
  /-- Logical blocks that moults have moved since the image's map (R31). -/
  moved    : List Nat := []
  saves    : Table SavedSet := []
  saveNo   : Nat := 0
  moults   : List Moult := []
  /-- 0 running, 1 resetting, 2 replaying suspects (QM_REGION_t). -/
  region   : Nat := 0
  resetAt  : Nat := 0
  resets   : Nat := 0
  suspects : List Nat := []
  replayed : Nat := 0
  quar     : Nat := 0
  hung     : Option Nat := Option.none
  /-- Further blocks with a hang that this recovery contains. -/
  hungMore : List Nat := []
  replayBlk : Option Nat := Option.none
  explained : Bool := false
  current  : Option Nat := Option.none
  doneSus  : List Nat := []
  /-- Single blocks under reset, in order, and when each began (R345, R346). -/
  blkReset : List (Nat × Nat) := []
  /-- A reset of this recovery has failed and event 0x1064 is written (R349). -/
  failed   : Bool := false
  /-- Watch of the dispatcher, the completion tracker and the copy path (R339). -/
  watch    : TileWatch := {}
  /-- The copy path's transfers, in order of request: block, token, copy back (R297). -/
  copies   : List (Nat × Nat × Bool) := []
  /-- Wingbeats of this epoch in which the tile stalled for want of tracker entries (R146). -/
  stallEp  : Nat := 0
  /-- Contexts of static items on hung units: context, control frame (R347). -/
  staticHung : List (Nat × Nat) := []
  deriving DecidableEq, Repr

/-! ## Operations, queues and contexts -/

/-- Kinds of operation in the tracker. -/
inductive OpKind
  | task | hubUnit | fence | rejected | request | attest | ppu
  /-- A launch-word ENGINE item, and an item of a static thread (R470). -/
  | engine | item
  deriving DecidableEq, Repr

/-- A primary entry of the completion tracker (R145) with its operation. -/
structure Op where
  used     : Bool := false
  kind     : OpKind := .task
  static   : Bool := false
  ctx      : Nat := 0
  part     : Nat := 0
  /-- Queue ID; 0x40000 for an operation that no queue brought. -/
  queue    : Nat := 0x40000
  slot     : Nat := 0
  tag      : DWord := 0
  entry    : Nat := 0
  arg0     : DWord := 0
  arg1     : DWord := 0
  arg2     : DWord := 0
  cls      : Nat := 0
  tiles    : Nat := 0
  ordered  : Bool := false
  affinity : Nat := 0
  deadlineWb : Nat := 0
  deadline : Option Nat := Option.none
  /-- Pull order within the device, for "every earlier operation of the queue". -/
  order    : Nat := 0
  annW     : Nat := 0
  waitWb   : Nat := 0
  preempts : Nat := 0
  savedWb  : Nat := 0
  preempted : Bool := false
  /-- Dispatched: on a block or a hub unit; and, on a hub unit, the time at which it came to its turn (R339). -/
  placed   : Bool := false
  began    : Nat := 0
  block    : Option Nat := Option.none
  thread   : Option Nat := Option.none
  saved    : Option Nat := Option.none
  /-- Engine operations launched and not yet reported (R130, R145). -/
  launches : Nat := 0
  launched : Nat := 0
  checked  : Nat := 0
  /-- Tracker entries that its launched operations hold (R145); ranges its engine operations wrote (R53). -/
  kids     : List Nat := []
  outs     : List (Nat × Nat) := []
  unchecked : Bool := false
  sat      : Bool := false
  nan      : Bool := false
  instar   : Bool := false
  interrupted : Bool := false
  replayed : Bool := false
  /-- Its placement on a block at 256 entries has been refused and counted (R146). -/
  refused  : Bool := false
  /-- The status decided, waiting for TASK_COMPLETE; and its record's time. -/
  status   : Option Nat := Option.none
  deriving DecidableEq, Repr

/-- Objects under disable (R151): control, abort mode, drain-limit wingbeat, aborted so far. DEDUCED (log 69). -/
structure Disabling where
  obj     : DisObj
  abort   : Bool
  limit   : Nat
  aborted : Nat := 0
  error   : Bool := false
  /-- Load shedding (R330): no end state and no event. -/
  shed    : Bool := false
  /-- A context under quarantine, which is FREE once its last record is written, by the physical block that hung
  (R345, R352). -/
  quar    : Option Nat := Option.none
  deriving DecidableEq, Repr

/-- A customer accounting entry (R170). -/
structure Acct where
  waitSum  : Nat := 0
  done     : Nat := 0
  preempts : Nat := 0
  savedWb  : Nat := 0
  waitMax  : Nat := 0
  budgetEx : Nat := 0
  deriving DecidableEq, Repr

/-- The queue manager's own state (R138, R151, R161). Queue entries themselves lie in DRAM (R133). -/
structure QueueMgr where
  /-- Queues whose STATE is not DISABLED. -/
  live     : List Nat := []
  cache    : List Nat := []
  pendMap  : List Nat := []
  lastFill : Nat := 262143
  /-- Doorbells accepted and not yet pulled past: queue, tail count, wingbeat (R147 WAIT_WB). -/
  announced : List (Nat × Nat × Nat) := []
  /-- Descriptors that a compute-domain reset left unpulled: queue, tail count (R147). -/
  left     : List (Nat × Nat) := []
  /-- Operations pulled and waiting at dispatch, oldest first. -/
  dispatch : List Nat := []
  nextOrder : Nat := 0
  deficits : Table Nat := []
  scanQ    : Option Nat := Option.none
  scanned  : Bool := false
  scanC    : Nat := 1023
  disabling : List Disabling := []
  held     : List Nat := []
  mirrorSeq : Nat := 0
  /-- Per partition: operations completed, and with output not valid, in the frame (R154). -/
  frameOps : Table Nat := []
  frameBad : Table Nat := []
  acct     : Table Acct := []
  acctOn   : Bool := false
  deriving DecidableEq, Repr

/-- A context (R143). State 0 FREE, 1 ACTIVE, 2 STOPPING. -/
structure Ctx where
  state    : Nat := 0
  static   : Bool := false
  part     : Nat := 0
  customer : Nat := 0
  cls      : Nat := 0
  prio     : Nat := 0
  abort    : Bool := false
  cqHost   : Bool := false
  cqOver   : Bool := false
  cqBase   : Nat := 0
  cqLog2   : Nat := 0
  windows  : List (Nat × Nat) := []
  pools    : List PoolParam := []
  tail     : Nat := 0
  head     : Nat := 0
  entry    : Nat := 0
  threads  : List StaticThread := []
  /-- The block that most recently ran a task of the context (R163). -/
  lastBlk  : Option Nat := Option.none
  /-- The sequencer advances this ring's head (R192). -/
  serving  : Bool := false
  deriving DecidableEq, Repr

/-- A partition (R20). State 0 unused, 1 enabled, 2 disabling, 3 disabled, 4 shed (R154). -/
structure Part where
  declared  : Bool := false
  static    : Bool := false
  fraction  : Nat := 0
  safety    : Bool := false
  cls       : Nat := 0
  shedAbort : Bool := false
  off       : Nat := 0
  /-- Shed by thermal step 1, reduced by thermal step 2 (R330). -/
  shed      : Bool := false
  reduced   : Bool := false
  debug     : Bool := false
  /-- Control frame at whose tick the repeat resumes after a detach (R305). -/
  resume    : Bool := false
  deriving DecidableEq, Repr

/-! ## Serving -/

/-- A request in the sequencer (R186 to R202). -/
structure Req where
  inst     : Nat := 8
  customer : Nat := 0
  rec_     : Nat := 0
  prompt   : Nat := 0
  plen     : Nat := 0
  maxNew   : Nat := 0
  out      : Nat := 0
  outHost  : Bool := false
  spec     : Bool := false
  pfx      : Bool := false
  stops    : List Nat := []
  lookup   : Bool := false
  matched  : Nat := 0
  /-- Prefix entries held, with the sequence block each stands for; KV blocks of the sequence, in
  order. -/
  entries  : List (Nat × Nat) := []
  kv       : List Nat := []
  admitted : Bool := false
  aslot    : Nat := 0
  entered  : Bool := false
  pos      : Nat := 0
  /-- Tokens generated, oldest first; how many of them the buffer shows; how many of them belong to
  the prompt since a recomputation. -/
  gen      : List Nat := []
  shown    : Nat := 0
  ext      : Nat := 0
  level    : Nat := 4
  recov    : Nat := 0
  unchecked : Bool := false
  allRep   : Bool := true
  heldTicks : Nat := 0
  /-- Tokens of the last applied step reached the end of the request. -/
  ended    : Bool := false
  order    : Nat := 0
  deriving DecidableEq, Repr

/-- One entry of a step plan: request token, kind, draft length, count, first position. -/
structure PlanEntry where
  req   : Nat
  kind  : Nat
  draft : Nat
  count : Nat
  pos   : Nat
  /-- Its place in the plan. -/
  idx   : Nat := 0
  deriving DecidableEq, Repr

/-- A deployed model with its sequencer state (R183). State 0 FREE, 1 ACTIVE, 2 STOPPING, 3 ERROR. -/
structure Inst where
  state    : Nat := 0
  part     : Nat := 0
  ctx      : Nat := 0
  draftEn  : Bool := false
  scope    : Bool := false
  tiles    : Nat := 0
  entry    : Nat := 0
  draftEntry : Nat := 0
  budget   : Nat := 0
  chunk    : Nat := 0
  maxSeqs  : Nat := 0
  draftMax : Nat := 0
  tasks    : Nat := 0
  maxWait  : Nat := 0
  vocab    : Nat := 0
  maxCtx   : Nat := 0
  plan     : Nat := 0
  kvBase   : Nat := 0
  kvBlocks : Nat := 0
  kvBytes  : Nat := 0
  kvFree   : Nat := 0
  kvStack  : Nat := 0
  kvTable  : Nat := 0
  key      : BitVec 128 := 0
  steps    : Nat := 0
  stepNo   : Nat := 0
  /-- Requests pulled and not yet admitted; requests admitted, in order of admission. -/
  waiting  : List Nat := []
  admitted : List Nat := []
  /-- The step that runs: entries, pass 0 draft, 1 main, 2 rerun; its tasks' tokens and statuses. -/
  step     : List PlanEntry := []
  pass     : Nat := 0
  running  : List Nat := []
  statuses : List (Nat × Nat) := []
  /-- Customers and COUNTs of the step's entries, charged at the next boundary (R199). -/
  charges  : List (Nat × Nat) := []
  /-- KV blocks that returned an uncorrectable error since the last boundary (R193, R198). -/
  badKv    : List Nat := []
  repeated : Bool := true
  /-- Entries and tokens of the plan as it was written (R192). -/
  planN    : Nat := 0
  planTok  : Nat := 0
  /-- Counters of the selected model: recompute, retries, drafted, accepted, held. -/
  recomp   : Nat := 0
  retry    : Nat := 0
  drafted  : Nat := 0
  accepted : Nat := 0
  hold     : Nat := 0
  /-- Lowest free count since QM_KV_LOW was read, and whether no block has been taken since (R6). -/
  kvLow    : Nat := 0
  kvRead   : Bool := false
  deriving DecidableEq, Repr

/-- A prefix-index entry (R195); its tokens lie in DRAM. -/
structure Pfx where
  valid    : Bool := false
  tag      : Nat := 0
  inst     : Nat := 0
  customer : Nat := 0
  parent   : Nat := 0x3FFFF
  refs     : Nat := 0
  lastUse  : Nat := 0
  kv       : Nat := 0
  deriving DecidableEq, Repr

/-- The serving sequencer. -/
structure Serving where
  insts   : Table Inst := []
  reqs    : Table Req := []
  pfx     : Table Pfx := []
  fairAct : Nat := 0
  balance : Table Int := []
  /-- Tokens per epoch in force since the last epoch tick (R199). -/
  zeroEp  : List Nat := []
  nextOrd : Nat := 0
  deriving DecidableEq, Repr

/-! ## Fusion and planner -/

/-- A frame of a stream: slot, instant, number, bytes, commit time, late. -/
structure Frame where
  slot    : Nat
  instant : Nat
  no      : Nat
  commit  : Nat
  late    : Bool
  bytes   : Nat := 0
  used    : Bool := false
  deriving DecidableEq, Repr

/-- The frame a stream assembles (R224 to R227). -/
structure Asm where
  slot    : Nat
  first   : Nat
  sensor  : Option Nat
  bytes   : Nat
  bad     : Bool
  /-- Fragments received, and their total. -/
  got     : Nat
  total   : Nat
  whole   : Bool := false
  seals   : Nat := 0
  /-- FRAG_IDX of the fragments of a lidar frame received; the line number that a camera frame's next AVTPDU
  begins with. -/
  frags   : List Nat := []
  next    : Nat := 0
  /-- FRAME_SEQ of a lidar frame; the newest instant of an inertial frame. -/
  fseq    : Nat := 0
  newest  : Nat := 0
  deriving DecidableEq, Repr

/-- A sensor stream's state (R223 to R235). -/
structure Stream where
  standing : Nat := 0
  hist     : List Bool := []
  ontime   : Nat := 0
  miss     : Nat := 0
  frameNo  : Nat := 0
  nextSlot : Nat := 0
  asm      : Option Asm := Option.none
  /-- Committed frames that an input set may still use. -/
  frames   : List Frame := []
  /-- Slots that the current and the previous input set name. -/
  prot     : List Nat := []
  prevProt : List Nat := []
  misK     : Bool := false
  /-- Lidar: whole frames that wait for their de-skewing. Inertial: frames by the update of their window. Audio:
  the times of the blocks that AVTPDUs have fed, by block. -/
  ready    : List Asm := []
  wins     : Table Asm := []
  /-- The AVTP sequence number that the next AVTPDU carries where none is lost. -/
  nextSeq  : Option Nat := Option.none
  /-- Audio: samples held, at (block × 48 + position) × 16 + channel, as FP32 bits + 1; channels of the
  stream; blocks in which a sample was discarded for a filled position. -/
  audio    : Table Nat := []
  chans    : Nat := 0
  slips    : List Nat := []
  newest   : Option Frame := Option.none
  deriving DecidableEq, Repr

/-- One sealed update (R234). -/
structure Update where
  k        : Nat := 0
  tv       : Nat := 0
  used     : List Nat := []
  lateUsed : List Nat := []
  oldest   : Nat := 0
  imu      : Bool := false
  /-- Evidence accepted, steps computed, state committed. -/
  evid     : Bool := false
  state    : Bool := false
  closed   : Bool := false
  step     : Nat := 0
  sectors  : List Nat := []
  /-- Streams TRUSTED at the seal. -/
  trusted  : List Nat := []
  held     : List (Nat × Nat) := []
  deriving DecidableEq, Repr

/-- The fusion front-end. -/
structure Fusion where
  streams : Table Stream := []
  ups     : List Update := []
  sealed  : Option Nat := Option.none
  counts  : Table Nat := []
  sector  : Table Nat := []
  secHold : Table Nat := []
  step    : Nat := 0
  stepHold : Nat := 0
  instar  : Bool := false
  left    : Nat := 0
  advanced : Nat := 0
  stale   : Nat := 0
  bufB    : Bool := false
  reinit  : Bool := false
  began   : Bool := false
  upsSince : Nat := 0
  /-- Next slot of each output ring, next audio block to close, next window to close. -/
  next     : Table Nat := []
  lastBlock : Nat := 0
  win      : Nat := 0
  /-- Frames a sensor port dropped for their length or their FCS (R220): by port × 2 + (0 length, 1 FCS). -/
  badFrames : Table Nat := []
  /-- Commits of kind 1 and 2 that name an update not yet sealed (R244): its number in 32 bits, kind, slot. -/
  early    : List (Nat × Nat × Nat) := []
  deriving DecidableEq, Repr

/-- A candidate's checking state (R266, R269). -/
structure Cand where
  verdict : Nat := 0
  reason  : Nat := 0
  compat  : Bool := false
  recheck : Bool := false
  stamp   : Nat := 0
  hit     : Nat := 0xFFFFFFFF
  checks  : Nat := 0
  /-- 0 none, 1 first check due, 2 recheck due. -/
  due     : Nat := 0
  deriving DecidableEq, Repr

/-- A candidate taken by a lane: slot, generation and map buffer at its start (R269). -/
structure InCheck where
  slot : Nat
  gen  : Nat
  buf  : Nat
  deriving DecidableEq, Repr

/-- The collision engine and the output gate. -/
structure Planner where
  newest   : Nat := 0
  valid    : Bool := false
  /-- Generations found faulty (R260). -/
  faults   : List Nat := []
  buf      : Nat := 0
  prevBuf  : Option Nat := Option.none
  freeBuf  : Nat := 0
  lastW    : Option Nat := Option.none
  /-- BOXES and ALL of the newest generation's commit; ALL also where ORIGIN moved. -/
  boxes    : Nat := 0
  allBox   : Bool := false
  frame    : Nat := 0
  opened   : Bool := false
  closed   : Bool := false
  count    : Nat := 0
  cands    : Table Cand := []
  lanes    : List InCheck := []
  /-- Rechecks that the gate put at the head of the queue. -/
  head     : List Nat := []
  selected : Bool := false
  choice   : Option Nat := Option.none
  /-- The primary that the gate sent to the head of the recheck queue (R277). -/
  heir     : Option Nat := Option.none
  eyeTick  : Bool := false
  eyeAcc   : Bool := false
  eyeOk    : Bool := false
  /-- A wrong eyespot verdict since the frame's tick (R274). -/
  eyeWrong : Bool := false
  eyeFails : Nat := 0
  lfsr     : Nat := 1
  /-- The released primary that has not left: frame, slot, generation, flags, step; its slot and its
  cocoon's as written. Ports whose confirmation is due, with the frame. -/
  released : Option (Nat × Nat × Nat × Nat × Nat) := Option.none
  relPrimary : List Byte := []
  relCocoon : List Byte := []
  sent     : List (Nat × Nat) := []
  /-- Cocoon most recently delivered to both islands: its 256 bytes. -/
  cocoon   : List Byte := []
  /-- Playout ended and no frame has been released since. -/
  playedOut : Bool := false
  /-- Items of the planner partitions that failed: control frames. -/
  failed   : List Nat := []
  deriving DecidableEq, Repr

/-! ## Islands -/

/-- Resolution state of one sensor pair (R412 to R415): values in 1/16 °C. -/
structure Pair where
  value  : Int := 0
  flag   : Bool := false
  failLo : Bool := false
  failHi : Bool := false
  run    : Nat := 0
  /-- Consecutive reads in which the remaining sensor is invalid or far below M. -/
  run2   : Nat := 0
  /-- Learned offsets to the neighbours 0 to 3. -/
  delta  : List Rat := []
  /-- Epoch after that of the last flag record; wingbeat of the last failed mark. -/
  flagEp : Nat := 0
  changed : Nat := 0
  deriving DecidableEq, Repr

/-- A resolver of the sensor feed: the floor's or an island's. -/
structure Resolver where
  pairs : Table Pair := []
  tj    : Int := 0
  tjPair : Nat := 0
  deriving DecidableEq, Repr

/-- Island states (CH_x_STATE.STATE). -/
inductive IslState | reset | starting | injecting | monitoring | safe | halted
  deriving DecidableEq, Repr

/-- A Chrysalis island. -/
structure Island where
  state    : IslState := .reset
  loaded   : Bool := false
  railLow  : Bool := false
  vote     : Bool := false
  playout  : Bool := false
  safeOut  : Bool := true
  inhibit  : Bool := false
  peerOk   : Bool := false
  missHb   : Nat := 0
  okHb     : Nat := 0
  lastHbW  : Nat := 0
  peerHb   : Option Heartbeat := Option.none
  wbOk     : Bool := true
  wbBad    : Nat := 0
  wbGood   : Nat := 0
  ownW     : Nat := 0
  step     : Nat := 0
  ownStep  : Nat := 0
  latent   : Bool := false
  expired  : Bool := false
  lastCause : Nat := 0
  evalFrame : Nat := 0
  cocoonF  : Nat := 0
  cocoonGen : Nat := 0
  cocoonStep : Nat := 0
  cocoonCrc : Nat := 0
  cocoon   : List Byte := []
  /-- The frame report held: frame, cause 0 released, cocoon, generation, CRC good. -/
  repFrame : Option Nat := Option.none
  repCause : Nat := 0
  repGen   : Nat := 0
  repStep  : Nat := 0
  repCocoon : List Byte := []
  /-- Frame and cause of the report before the one held; the frame whose report has been acted on (R309). -/
  prevRep  : Option (Nat × Nat) := Option.none
  repUsed  : Option Nat := Option.none
  badFeeds : Nat := 0
  confirmed : List Nat := []
  /-- The frame without a report, judged at the peer's heartbeat (R315). -/
  awaiting : Option Nat := Option.none
  /-- The frame whose cocoon has been asked of the peer (R318). -/
  want     : Option Nat := Option.none
  /-- Frames of the last cocoon and status message. -/
  lastMsg  : Option Nat := Option.none
  lastStatus : Option Nat := Option.none
  /-- A request of the peer that has not been received: its cause (R322). -/
  peerReq  : Option Nat := Option.none
  run      : Nat := 0
  /-- Consecutive playout frames outside the safe state (R317). -/
  runOut   : Nat := 0
  entries  : Nat := 0
  passBits : Nat := 0
  failBits : Nat := 0
  injected : Bool := false
  /-- The first injection row that failed without a spare absorbing it: row, region, block (R325). -/
  injBad   : Option (Nat × Nat × Nat) := Option.none
  tin      : Int := 0
  tout     : Int := 0
  flow     : Nat := 255
  pkg      : Nat := 0
  crcErr   : Nat := 0
  missing  : Nat := 0
  /-- Causes of safe state that wait for SAFE_STATE_COMMIT. -/
  req      : List Nat := []
  active   : List Nat := []
  res      : Resolver := {}
  /-- Pair values of the last 800 wingbeats with their wingbeat (R333), newest first. -/
  history  : List (Nat × List Int) := []
  /-- Samples of E, newest first (R331), and the 10-epoch and absence counts of R332. -/
  es       : List Rat := []
  slope    : Rat := 0
  slopeRun : Nat := 0
  absent   : Nat := 0
  /-- A life record is due (R420). -/
  lifeDue  : Bool := false
  /-- Life: time part and cycle parts of the six regions as fractions, residues per region, cycles. -/
  lifeTime : Rat := 0
  lifeCyc  : List Rat := []
  residue  : List (List Int) := []
  cycles   : Nat := 0
  life80   : Bool := false
  life100  : Bool := false
  tjSum    : Int := 0
  tjN      : Nat := 0
  hotEp    : Option Nat := Option.none
  /-- Powered hours of the last life report. -/
  lifeRep  : Nat := 0
  /-- Copy of the mirror registers at the last control-frame tick (R335). -/
  mirror   : List Word := []
  deriving DecidableEq, Repr

/-- Phases of the chip as a whole. -/
inductive Phase
  | modReset    -- MOD_RESET_N low
  | locked      -- cold start done up to step 9
  | loading     -- cold start runs, lock not yet set
  | loader      -- recovery loader (R435)
  | injecting   -- start-up injection
  | running     -- schedule enabled
  | safe        -- compute domain in reset in the safe state
  | recovering  -- R350
  | halted
  deriving DecidableEq, Repr

/-- What the chip as a whole is doing. -/
structure Chip where
  phase    : Phase := .modReset
  lock     : Bool := false
  profile  : Nat := 0
  sched    : Bool := false
  /-- Launch tables run: first perception tick after the enable has passed (R51). -/
  launching : Bool := false
  /-- Launch tables have run since MOD_RESET_N, so that words fall in a safe state (R52). -/
  launched : Bool := false
  computeReset : Bool := false
  /-- Time at which the schedule was enabled. -/
  enabledAt : Nat := 0
  /-- DRAM in self-refresh; lasers off; phases held off. -/
  selfRef  : Bool := false
  image    : Option CfgImage := Option.none
  fwDigest : Nat := 0
  cfgDigest : Nat := 0
  /-- t0 of R430 on the scale of T, which acquisition steps (R44). -/
  t0       : Int := 0
  lockMs   : Nat := 0
  /-- RX_HOURS, restored at start from the module store, and epochs counted toward the next. -/
  hours    : Nat := 0
  hourEp   : Nat := 0
  lastReason : Nat := 0
  recStart : Nat := 0
  recoveries : Nat := 0
  noPrimary : Nat := 0
  lastRecMs : Nat := 0
  lastRecStep : Nat := 0
  coldNext : Bool := false
  /-- The first injection run has ended since the last compute-domain reset. -/
  injected : Bool := false
  voided   : Bool := false
  lastTwo  : List Nat := []
  primaryEn : Bool := false
  safeActive : Bool := false
  safeAt   : Nat := 0
  /-- The reset of the safe state in force has been asserted (R322 step 3). -/
  resetDone : Bool := false
  /-- The start in progress is a recovery (R350). -/
  inRec    : Bool := false
  deriving DecidableEq, Repr

/-! ## Time, memory, links, power -/

/-- A queued trigger message (R55). -/
structure Trig where
  stream  : Nat
  instant : Nat
  seq     : Nat
  deriving DecidableEq, Repr

/-- A tick fault as its checker classified it (R468): expected and received W[15:0], kind 1 to 4. -/
structure TickRec where
  unit     : TickUnit
  kind     : Nat
  expected : Nat
  received : Nat
  deriving DecidableEq, Repr

/-- The time base (R36 to R57). -/
structure TimeBase where
  now     : Nat := 0
  /-- How far acquisition has stepped T (R44), for the count of core cycles. -/
  stepped : Int := 0
  hi      : Word := 0
  /-- Offset measured at the last Sync, in ns. -/
  lastOff : Int := 0
  lastSync : Nat := 0
  trigSeq : Table Nat := []
  trigs   : List Trig := []
  /-- Exposure instants announced, with sequence, per stream: matched by R228. -/
  exposures : List Trig := []
  once    : List Nat := []
  /-- Tick faults that blocks or the hub saw in this wingbeat (R46). -/
  tickBad : List TickRec := []
  /-- Class codes whose tick this wingbeat has had (R37). -/
  ticked  : List Nat := []
  deriving DecidableEq, Repr

/-- State of a physical rank: 0 spare, 1 in service, 2 retired, 3 migrating. -/
structure Rank where
  state : Nat := 1
  /-- Powered hour of the last scrub pass over it as a spare (R356). -/
  scrubbed : Nat := 0
  /-- Corrected codewords by powered hour: hour, count. -/
  ce    : List (Nat × Nat) := []
  ue    : Nat := 0
  deriving DecidableEq, Repr

/-- A migration (R375): step 1 bring-up, 2 copy, 3 commit. -/
structure Mig where
  logical : Nat
  source  : Nat
  spare   : Nat
  cause   : Nat
  start   : Nat
  step    : Nat := 1
  page    : Nat := 0
  bad     : Nat := 0
  retried : Bool := false
  recorded : Bool := false
  deriving DecidableEq, Repr

/-- A request at the memory subsystem (R176, R359, R360): the access, the data of a write, the partition and the
class label it carries, the pull order of the operation it serves, its port and when it arrived. -/
structure DramReq where
  acc   : DramAcc
  data  : Option DramData
  part  : Nat
  cls   : Nat
  order : Nat
  port  : Nat
  since : Nat
  deriving DecidableEq, Repr

/-- A channel (R364, R370, R378). -/
structure Chan where
  /-- Alerts of one retry-buffer entry on consecutive replays: entry, replays. -/
  entryRun : Option (Nat × Nat) := Option.none
  retrains : Nat := 0
  /-- Time at which an in-place retraining began. -/
  retraining : Option Nat := Option.none
  failed   : Bool := false
  /-- Pages marked for repair; those of them whose bank has no repair row left. -/
  marked   : List Nat := []
  noRow    : List Nat := []
  /-- Queued writes: sub-channel, granule, time of arrival. -/
  wq       : List (Nat × Nat × Nat) := []
  /-- Refreshes owed per bank, its key the sub-channel × 256 + the bank (R361); last re-centring. -/
  refresh  : Table Nat := []
  recentre : Nat := 0
  /-- Corrected codewords per page in this epoch; granules corrected in the last scrub pass. -/
  rowCe    : Table Nat := []
  lastPass : List Nat := []
  /-- Requests that wait for a retraining or for a refresh at its limit (R361, R371). -/
  held     : List DramReq := []
  deriving DecidableEq, Repr

/-- A line of the memory-side cache (R379); its data are those of `mem`. -/
structure Line where
  granule : Nat
  way     : Nat
  dirty   : Bool
  used    : Nat
  /-- A clean line whose word was lost: its poison goes with it. -/
  lost    : Bool := false
  deriving DecidableEq, Repr

/-- The memory subsystem. -/
structure Dram where
  ranks  : Table Rank := []
  /-- Logical to physical rank: the safety pool's list and the general pool's (R354). -/
  safety : List Nat := []
  general : List Nat := []
  /-- The reservation the lists were built for. -/
  resv   : Nat := 0
  chans  : Table Chan := []
  mig    : Option Mig := Option.none
  /-- Ranks that wait for a migration, with its cause. -/
  queue  : List (Nat × Nat) := []
  cache  : Table (List Line) := []
  clock  : Nat := 0
  /-- Port × 16 + class: bytes completed in the control frame, and whether the class was backlogged in
  every wingbeat of it (R177). -/
  traffic : Table (Nat × Bool) := []
  /-- Port × 16 + class: transactions outstanding, and requests that wait at the class's cap, oldest first
  (R176). -/
  out     : Table Nat := []
  wait    : Table (List DramReq) := []
  /-- Fill of each port's input buffer in sixteenths, and the ports whose panic signal is raised (R367). -/
  fill    : Table Nat := []
  panic   : List Nat := []
  /-- Powered hour of the last patrol scrub pass (R363). -/
  patrol  : Nat := 0
  deriving DecidableEq, Repr

/-- One direction of a die-to-die link (R388, R389). -/
structure LinkDir where
  /-- SEQ the receiver expects, and the last SEQ acknowledged to the sender. -/
  expect  : Nat := 0
  acked   : Nat := 4095
  /-- A NAK is out: every flit but the replay is discarded. -/
  naking  : Bool := false
  /-- The copies of the flit awaited that failed their CRC, kept for the comparison with a good one (R389). -/
  kept    : List (List Byte) := []
  /-- The sender replays; replays of the awaited flit that failed in a row. -/
  replaying : Bool := false
  fails   : Nat := 0
  deriving DecidableEq, Repr

/-- A die-to-die link: links 0 to 19 are those of the modules' hub or port role, 20 + t is ring link t
(R383, R385). State 0 down, 1 training, 2 up, 3 repairing or retraining. -/
structure Link where
  state   : Nat := 0
  dir0    : LinkDir := {}
  dir1    : LinkDir := {}
  /-- Retries in this wingbeat and in this epoch. -/
  retries : Nat := 0
  retriesEp : Nat := 0
  /-- Per logical lane: attributed errors in this epoch, consecutive retries it was attributed in. -/
  attrs   : Table Nat := []
  attrRun : Table Nat := []
  /-- Lanes that need repair; control frame of the last repair; the repair that runs. -/
  due     : List Nat := []
  repairF : Option Nat := Option.none
  repairing : Option (Nat × Nat) := Option.none
  retrainAt : Nat := 0
  deriving DecidableEq, Repr

/-- A link module (R383): lanes in the ring role, lanes retired, redundant lanes used or failed, and
repairs made (logical lane, redundant lane). -/
structure Lmod where
  ring    : List Nat := []
  retired : List Nat := []
  redUsed : List Nat := []
  repairs : List (Nat × Nat) := []
  deriving DecidableEq, Repr

/-- An optical lane (R393 to R399). State 0 dark, 1 in service, 2 retired, 3 spare. -/
structure OptLane where
  state  : Nat := 0
  /-- Flaps of the last 10 s: time, and whether it was on the transmit side. -/
  flaps  : List (Nat × Bool) := []
  spareLaser : Bool := false
  outside : Bool := false
  /-- Retired with no spare left, and still in use. -/
  kept   : Bool := false
  tx     : Int := 0
  rx     : Int := 0
  eye    : Nat := 0
  bias   : Nat := 0
  bias0  : Nat := 0
  /-- Time of the moult that brought it or its laser in. -/
  moultAt : Option Nat := Option.none
  /-- Its laser is past its end of life (R398). -/
  eol    : Bool := false
  /-- A moult is due at the port's retraining, with its cause: 0 transmit side, 1 other, 2 end of life. -/
  moult  : Option Nat := Option.none
  /-- The lane whose fibres a spare lane serves. -/
  serves : Option Nat := Option.none
  deriving DecidableEq, Repr

/-- Links, lanes and optical ports. -/
structure Links where
  mods   : Table Lmod := []
  links  : Table Link := []
  lanes  : Table OptLane := []
  /-- Spare lasers used: light engine × 3 + group. -/
  lasers : List Nat := []
  /-- Ports up (1-4 SP, 5-6 AP, 7 management, 8-9 island ports), ports retraining. -/
  up     : List Nat := []
  retrain : List Nat := []
  /-- Host-port lanes that have not locked at this bring-up, and those left out. -/
  unlocked : List Nat := []
  hostOut : List Nat := []
  hostW  : Nat := 0
  /-- The actuation port last moulted, and its control frame. -/
  lastAp : Option (Nat × Nat) := Option.none
  deriving DecidableEq, Repr

/-- Power, thermal and trip state. -/
structure Power where
  isolated : List Nat := []
  lastPh   : Nat := 0
  floor    : Resolver := {}
  raw      : List Int := []
  rails    : List (Nat × Nat) := []
  wbPower  : Nat := 0
  epSum    : Nat := 0
  epN      : Nat := 0
  epMean   : Nat := 0
  /-- Wingbeats of the last 10 ms in which VIN_CORE exceeded 265 A. -/
  over265  : List Nat := []
  peakI    : Nat := 0
  coreOver : Bool := false
  tripped  : Bool := false
  tripBit  : Bool := false
  tripPair : Nat := 0
  trips    : Nat := 0
  deriving DecidableEq, Repr

/-- The floor's security block, volatile part (R438 to R445). -/
structure Sec where
  m        : List (BitVec 256) := [0, 0, 0, 0, 0]
  nonce    : Option Nat := Option.none
  memKeys  : List Nat := []
  erased   : List Nat := []
  next     : Nat := 0
  reports  : Nat := 0
  dbgOpen  : Bool := false
  dbgParts : List Nat := []
  dbgEver  : Bool := false
  /-- Detail of the last event 0x9001. -/
  lastRej  : List Nat := []
  staging  : Table Byte := []
  /-- The poison list of R434: granules, and whether it has overflowed. -/
  poisonList : List Nat := []
  poisonOver : Bool := false
  deriving DecidableEq, Repr

/-- An access through BAR2 (R452): its offset, the bytes to read, or for a write its data and EP. -/
structure Bar2Req where
  off   : Nat
  len   : Nat
  data  : Option (List Byte × Bool) := Option.none
  deriving DecidableEq, Repr


/-- The host port (R449 to R455). -/
structure HostPort where
  up    : Bool := false
  lit   : Bool := false
  held  : Bool := false
  d3    : Bool := false
  recov : Nat := 0
  /-- Writable bits of configuration space, by dword. -/
  cfg   : Table Word := []
  caEp  : Nat := 0
  /-- Output-buffer updates that wait for the link, oldest first (R454): host address and bytes. -/
  owed  : List (Nat × List Byte) := []
  /-- Accesses through BAR2 that wait at the regulator of port 4, oldest first (R176, R452). -/
  bar2  : List Bar2Req := []
  deriving DecidableEq, Repr

/-- The event log (R457). -/
structure EvLog where
  buf   : List EventRecord := []
  total : Nat := 0
  lost  : Nat := 0
  lostAt : Nat := 0
  deriving DecidableEq, Repr

/-- The part of the state that MOD_RESET_N or power reaches. -/
structure Dev where
  time   : TimeBase := {}
  chip   : Chip := {}
  regs   : Table Word := []
  mem    : Table Byte := []
  poison : Table Bool := []
  /-- ENC and PART of the DRAM granules written under encryption: 1 + partition, 0 clear (R358). -/
  enc    : Table Nat := []
  blocks : Table Block := []
  tiles  : Table Tile := []
  ops    : Table Op := []
  qm     : QueueMgr := {}
  ctxs   : Table Ctx := []
  parts  : Table Part := []
  srv    : Serving := {}
  fus    : Fusion := {}
  pl     : Planner := {}
  chA    : Island := {}
  chB    : Island := {}
  dram   : Dram := {}
  links  : Links := {}
  pwr    : Power := {}
  sec    : Sec := {}
  host   : HostPort := {}
  log    : EvLog := {}
  /-- Retirements decided: block and code of the cause event (R33). -/
  retire : List (Nat × Nat) := []
  out    : List Out := []
  /-- Counter of free values (the model's own). -/
  free   : Nat := 0
  deriving DecidableEq, Repr

/-! ## What survives power: fuses and the module store -/

/-- The fuses (R2, R427, R428, R439, R445). -/
structure Fuses where
  grade     : Bool := false
  serial    : Nat := 0
  mac       : Nat := 0
  romDigest : BitVec 256 := 0
  fwKey     : BitVec 256 := 0
  rootKey   : Option (BitVec 256) := Option.none
  svnFw     : Nat := 0
  svnCfg    : Nat := 0
  svnTest   : Nat := 0
  opened    : Bool := false
  provUsed  : Nat := 0
  deriving DecidableEq, Repr

/-- The repair record (R31). -/
structure Repair where
  /-- Blocks retired, and retirements of spare ranks: physical block numbers. -/
  blocks  : List Nat := []
  /-- Block moults in effect: tile, logical block, physical block of the tile; logical blocks out of
  service: tile, logical block (R34). -/
  moved   : List (Nat × Nat × Nat) := []
  outLb   : List (Nat × Nat) := []
  /-- Epochs with core array errors: block, epoch, powered hours (R131). -/
  arrEp   : List (Nat × Nat × Nat) := []
  rows    : List (Nat × Nat) := []
  strikes : List (Nat × Nat) := []
  hangs   : List (Nat × Nat) := []
  ranks   : List (Nat × Nat) := []
  safety  : List Nat := []
  general : List Nat := []
  resv    : Option Nat := Option.none
  /-- The migration decided: source rank, cause. -/
  mig     : Option (Nat × Nat) := Option.none
  /-- Pages marked for repair: channel, page (R378). -/
  pages   : List (Nat × Nat) := []
  phases  : List Nat := []
  /-- Die-to-die repairs (module, lane, redundant lane), lanes retired and redundant lanes used. -/
  lanes   : List (Nat × Nat × Nat) := []
  laneOut : List (Nat × Nat) := []
  redUsed : List (Nat × Nat) := []
  /-- Optical lanes retired, those of them kept in use, spare lanes in service with the lane they serve,
  lanes fed by a spare laser, lasers past their end of life. -/
  opt     : List Nat := []
  optKept : List Nat := []
  optServe : List (Nat × Nat) := []
  optLaser : List Nat := []
  optEol  : List Nat := []
  lasers  : List Nat := []
  deriving DecidableEq, Repr

/-- An island's life record (R420). -/
structure LifeRec where
  time    : Rat := 0
  cyc     : List Rat := []
  cycles  : Nat := 0
  residue : List (List Int) := []
  deriving DecidableEq, Repr

/-- One copy of a record (R425): sequence number, contents, epoch time at which its write began, and whether the
SHA-256 digest that it holds is that of its contents. -/
structure Copy (α : Type) where
  seq  : Nat
  data : α
  at_  : Nat := 0
  good : Bool := true
  deriving DecidableEq, Repr

/-- A record of LU 3: its two copies in alternate slots (R425). -/
structure Rec (α : Type) where
  slot0 : Copy α
  slot1 : Copy α
  deriving DecidableEq, Repr

/-- A record as the module is made with it: one copy, the other slot empty. DESIGN CHOICE (log 5, 100). -/
def Rec.of {α : Type} (x : α) : Rec α := ⟨⟨1, x, 0, true⟩, ⟨0, x, 0, false⟩⟩

/-- The module store (R424) and the key store. The records of LU 3 are two copies each (R425); `Store.repair` and its
like give the copy in force. -/
structure Store where
  firmware : Option ImgHeader := Option.none
  config   : Option CfgImage := Option.none
  models   : Table Manifest := []
  modelIn  : List Nat := []
  testPkg  : Option (ImgHeader × Nat) := Option.none
  testStaged : Option (ImgHeader × Nat) := Option.none
  lmsRec   : Rec Nat := Rec.of 0
  /-- The highest lower tree whose top-tree signature is stored (R440). -/
  topRec   : Rec Nat := Rec.of 0
  /-- Powered hours at the last event 0x9032 (R443). -/
  nearH    : Option Nat := Option.none
  repairRec : Rec Repair := Rec.of {}
  hoursRec : Rec Nat := Rec.of 0
  /-- Life records of islands A and B. -/
  lifeARec : Rec LifeRec := Rec.of {}
  lifeBRec : Rec LifeRec := Rec.of {}
  certRec  : Rec Bool := Rec.of false
  loaderReq : Bool := false
  writeProt : Bool := false
  /-- Key store: attestation seeds held, integrator slots. -/
  seeds    : Bool := false
  slots    : List (BitVec 256) := []
  deriving DecidableEq, Repr

/-- What survives MOD_RESET_N and power. -/
structure Nv where
  fuses : Fuses := {}
  store : Store := {}
  deriving DecidableEq, Repr

/-- The machine: the device, what survives power, and the queue of waiting commands. -/
structure State where
  dev     : Dev
  nv      : Nv
  pending : List Instr
  deriving DecidableEq, Repr

/-- The machine right after reset: MOD_RESET_N asserted, every register at its reset value (R467,
R41), T at 0 (R43), memory with nothing listed, and no command waiting. The values that the manual
does not give are named in the assumption log. DESIGN CHOICE (log 5, 8). -/
def State.reset : State := { dev := {}, nv := {}, pending := [] }

/-- The outcome type of every meaning. -/
abbrev Res := Host.Outcome State Fault Refusal

end Sys2Proof.Machine
end

