-- ==== Sys2Proof/WellFormed.lean ====
section
/-! DEFINITION. The relations among a command's operands that every event of the hardware keeps: the
lengths and ranges the manual gives to what the outside brings. A command outside them is an input
the hardware never meets, and `exec` faults on it by name. -/

namespace Sys2Proof

/-- `n` bytes from `a` stay inside one 64-byte granule. -/
def inGranule (a n : Nat) : Bool := decide (1 ≤ n) && decide (a % 64 + n ≤ 64)

/-- The encodings of an event record's fields (R10 to R13): a region, a block of it, a class and a code that
are not reserved, a partition and a context or none. A die-to-die event names a tile's link module, 0xE0 on (R403). -/
def recordOk (code cls region block part ctx : Nat) : Bool :=
  (decide (region ≤ 0xB) || decide (region = 0xFF)) &&
    (if region < 4 then decide (block < 36) || decide (block = 0xFF) ||
        (decide (0xE0 ≤ block) && decide (block < 0xE4) && decide (code / 4096 = 3))
      else decide (block ≤ 0xFF)) &&
    decide (cls ≤ 5) && decide (0x1000 ≤ code) && decide (code ≤ 0xAFFF) &&
    (decide (part < 64) || decide (part = 0xFF)) && (decide (ctx < 4096) || decide (ctx = 0xFFFF))

/-- What comes with a wingbeat tick: 124 sensor readings and four coolant readings of 16 bits, five rails of 16-bit
telemetry, island cycles of 32 bits, at most one tick at a checker (R308, R404, R411, R468). -/
def TickIn.ok (i : TickIn) : Bool :=
  let word (x : Int) : Bool := decide (-32768 ≤ x) && decide (x < 32768)
  decide (i.sensors.length = 124) && i.sensors.all word && decide (i.coolant.length = 4) && i.coolant.all word &&
    decide (i.rails.length = 5) && i.rails.all (fun r => decide (r.1 < 65536) && decide (r.2 < 65536)) &&
    i.seen.all (fun f => decide (f.cycles < 2 ^ 32)) && decide (i.seen.map (·.unit)).Nodup

/-- What a DRAM access is: the initiators of blocks and the save engines act for an operation (R113, R178), and
the least fill of the port's buffer is no more than the fill that the request brings (R367). -/
def DramAcc.ok (a : DramAcc) : Bool :=
  ((decide (720 ≤ a.init.val) && !(decide (729 ≤ a.init.val) && decide (a.init.val ≤ 732))) || a.token.isSome) &&
    decide (a.low ≤ a.fill)

/-- Operands that an event of the hardware can carry. DESIGN CHOICE (log 1). -/
def Instr.wf : Instr → Bool
  | .wingbeatTick i => i.ok
  | .dramRead a => a.ok
  | .dramWrite a d => a.ok && inGranule a.addr d.bytes.length
  | .bar0BadRequest o n => !((decide (n.val = 4) && decide (o.val % 4 = 0)) || (decide (n.val = 8) && decide (o.val % 8 = 0)))
  | .bar2Read _ n => decide (1 ≤ n.val)
  | .bar2Write _ data _ => decide (1 ≤ data.length) && decide (data.length ≤ 512)
  | .registerWrite o _ _ w i => decide (o.val % (if w then 8 else 4) = 0) &&
      (decide (i = 728) || (decide (i < 720) && decide (i % 5 < 4)))
  | .rcRegisterRead o w => decide (o.val % (if w then 8 else 4) = 0)
  | .eventRecordWrite code cls region block part ctx _ => recordOk code cls region block part ctx
  | .flitReceive _ _ _ _ slots _ => decide (slots.length = 272)
  | .mgmtStage _ _ data => decide (data.length ≤ 8192)
  | _ => true

end Sys2Proof
end

