-- ==== Sys2Proof/Machine/Ops.lean ====
section
/-! DEFINITION. The named operations over state that every chapter shares: tables of units, registers
and counters, memory with poison, event records and what the islands hear of them, firewalls, the
end of an operation, and requests for the safe state and for retirements. -/

namespace Sys2Proof.Machine

/-! ## Units -/

/-- A block nobody has touched: in service for blocks 0 to 31 of a tile, standby for 32 to 35 (R15,
R33's example). DESIGN CHOICE (log 5, 14). -/
def blkDef (b : Nat) : Block := if b % 36 < 32 then {} else { svc := .standby }

/-- Block `b` (R25). -/
def Dev.blk (d : Dev) (b : Nat) : Block := tget blkDef d.blocks b
/-- Replace block `b`. -/
def Dev.setBlk (d : Dev) (b : Nat) (v : Block) : Dev := { d with blocks := tset blkDef d.blocks b v }
/-- Change block `b`. -/
def Dev.modBlk (d : Dev) (b : Nat) (f : Block → Block) : Dev := d.setBlk b (f (d.blk b))

/-- Tile `t`. -/
def Dev.tile (d : Dev) (t : Nat) : Tile := tget (fun _ => {}) d.tiles t
/-- Replace tile `t`. -/
def Dev.setTile (d : Dev) (t : Nat) (v : Tile) : Dev :=
  { d with tiles := tset (fun _ => {}) d.tiles t v }
/-- Change tile `t`. -/
def Dev.modTile (d : Dev) (t : Nat) (f : Tile → Tile) : Dev := d.setTile t (f (d.tile t))

/-- The operation with a token. -/
def Dev.op (d : Dev) (k : Nat) : Op := tget (fun _ => {}) d.ops k
/-- Replace the operation with a token. -/
def Dev.setOp (d : Dev) (k : Nat) (v : Op) : Dev := { d with ops := tset (fun _ => {}) d.ops k v }
/-- Change the operation with a token. -/
def Dev.modOp (d : Dev) (k : Nat) (f : Op → Op) : Dev := d.setOp k (f (d.op k))

/-- Context `c`. -/
def Dev.ctx (d : Dev) (c : Nat) : Ctx := tget (fun _ => {}) d.ctxs c
/-- Replace context `c`. -/
def Dev.setCtx (d : Dev) (c : Nat) (v : Ctx) : Dev := { d with ctxs := tset (fun _ => {}) d.ctxs c v }
/-- Change context `c`. -/
def Dev.modCtx (d : Dev) (c : Nat) (f : Ctx → Ctx) : Dev := d.setCtx c (f (d.ctx c))

/-- Partition `p`. -/
def Dev.part (d : Dev) (p : Nat) : Part := tget (fun _ => {}) d.parts p
/-- Replace partition `p`. -/
def Dev.setPart (d : Dev) (p : Nat) (v : Part) : Dev :=
  { d with parts := tset (fun _ => {}) d.parts p v }
/-- Change partition `p`. -/
def Dev.modPart (d : Dev) (p : Nat) (f : Part → Part) : Dev := d.setPart p (f (d.part p))

/-- Thread `8 × core + thread` of a block. -/
def Block.thr (b : Block) (n : Nat) : Thread := tget (fun _ => {}) b.threads n
/-- Replace a thread of a block. -/
def Block.setThr (b : Block) (n : Nat) (t : Thread) : Block :=
  { b with threads := tset (fun _ => {}) b.threads n t }
/-- Change a thread of a block of the device. -/
def Dev.modThr (d : Dev) (b n : Nat) (f : Thread → Thread) : Dev :=
  d.modBlk b fun k => k.setThr n (f (k.thr n))
/-- Number of a thread within its block. -/
def thrNum (t : ThreadId) : Nat := 8 * t.core.val + t.thread.val
/-- Thread `t` of the device. -/
def Dev.thr (d : Dev) (t : ThreadId) : Thread := (d.blk t.block.val).thr (thrNum t)

/-- Credit pool `p` of a block. -/
def Block.pool (b : Block) (p : Nat) : Pool := tget (fun _ => {}) b.pools p
/-- Replace a credit pool of a block. -/
def Block.setPool (b : Block) (p : Nat) (v : Pool) : Block :=
  { b with pools := tset (fun _ => {}) b.pools p v }

/-- Tile of a physical block. -/
def tileOf (b : Nat) : Nat := b / 36
/-- Physical block of the module that hosts logical block `l` of tile `t` (R22). -/
def Dev.phys (d : Dev) (t l : Nat) : Nat := t * 36 + tget (fun k => k) (d.tile t).map l
/-- Logical block that a physical block hosts, if it hosts one. -/
def Dev.logical (d : Dev) (b : Nat) : Option Nat :=
  (List.range 32).find? fun l => d.phys (tileOf b) l = b
/-- Physical blocks of a tile, lowest first. -/
def tileBlocks (t : Nat) : List Nat := (List.range 36).map (t * 36 + ·)
/-- Every physical block. -/
def allBlocks : List Nat := List.range 144

/-- Chrysalis A or B. -/
def Dev.isl (d : Dev) : Isl → Island
  | .a => d.chA
  | .b => d.chB
/-- Change an island. -/
def Dev.modIsl (d : Dev) (i : Isl) (f : Island → Island) : Dev :=
  match i with
  | .a => { d with chA := f d.chA }
  | .b => { d with chB := f d.chB }
/-- The other island. -/
def islPeer : Isl → Isl
  | .a => .b
  | .b => .a
/-- Region code of an island (R11). -/
def islRegion : Isl → Nat
  | .a => 6
  | .b => 7
/-- Number of an island: 0 A, 1 B. -/
def islNum : Isl → Nat
  | .a => 0
  | .b => 1

/-! ## Time -/

/-- The wingbeat number W (R36). -/
def Dev.wb (d : Dev) : Nat := d.time.now / wingbeatNs
/-- The epoch number, floor(T / 10^9). -/
def Dev.epoch (d : Dev) : Nat := d.time.now / 1000000000

/-! ## Registers -/

/-- The stored dword at a BAR0 offset. -/
def Dev.reg (d : Dev) (off : Nat) : Nat := (tget regReset d.regs off).toNat
/-- Store a dword. -/
def Dev.setReg (d : Dev) (off v : Nat) : Dev :=
  { d with regs := tset regReset d.regs off (BitVec.ofNat 32 v) }
/-- A field of a stored dword: lowest bit and width. -/
def Dev.fld (d : Dev) (off lo n : Nat) : Nat := bits (d.reg off) lo n
/-- Store a field. -/
def Dev.setFld (d : Dev) (off lo n v : Nat) : Dev := d.setReg off (setBits (d.reg off) lo n v)
/-- Count in a 32-bit counter that saturates (RC counters). DEDUCED (log 11). -/
def Dev.bump (d : Dev) (off : Nat) (n : Nat := 1) : Dev :=
  d.setReg off (satAdd 0xFFFFFFFF (d.reg off) n)
/-- Count in a 16-bit counter field at bit `lo` that saturates. -/
def Dev.bump16 (d : Dev) (off lo : Nat) : Dev :=
  d.setFld off lo 16 (satAdd 0xFFFF (d.fld off lo 16) 1)

/-- Lc, the control-frame length in wingbeats. -/
def Dev.lc (d : Dev) : Nat := d.fld R.tkClassCfg 0 8
/-- Lp, the perception-frame length in wingbeats. -/
def Dev.lp (d : Dev) : Nat := d.fld R.tkClassCfg 16 10
/-- The control-frame number floor(W / Lc) (R38). -/
def Dev.ctrlFrame (d : Dev) : Nat := d.wb / d.lc
/-- The length of a tick class by its code (R37); 0 for a reserved code. -/
def Dev.classLen (d : Dev) : Nat → Nat
  | 0 => 1
  | 1 => 8
  | 2 => d.lc
  | 3 => d.lp
  | 4 => epochWb
  | _ => 0
/-- The first control-frame tick that follows by at least one full wingbeat (R33, R151). -/
def Dev.nextFrame (d : Dev) : Nat := roundUp (ceilDiv d.time.now wingbeatNs + 1) d.lc
/-! ## Records of the module store (R425) -/

/-- The second slot holds the copy in force: the valid one with the higher sequence number. -/
def Rec.second {α : Type} (r : Rec α) : Bool := r.slot1.good && (!r.slot0.good || decide (r.slot0.seq < r.slot1.seq))
/-- The copy in force. -/
def Rec.cur {α : Type} (r : Rec α) : α := if r.second then r.slot1.data else r.slot0.data
/-- Write a record: the other slot takes the contents with the next sequence number. -/
def Rec.write {α : Type} (r : Rec α) (now : Nat) (x : α) : Rec α :=
  if r.second then { r with slot0 := ⟨r.slot1.seq + 1, x, now, true⟩ } else { r with slot1 := ⟨r.slot0.seq + 1, x, now, true⟩ }
/-- A copy whose write began less than 5 ms ago. -/
def Copy.young {α : Type} (c : Copy α) (now : Nat) : Bool := decide (c.at_ ≤ now) && decide (now < c.at_ + 5000000)
/-- Power is lost: a write that had not ended leaves a copy whose digest does not match. -/
def Rec.cut {α : Type} (r : Rec α) (now : Nat) (ended : Bool) : Rec α :=
  if r.second then { r with slot1 := { r.slot1 with good := ended || !r.slot1.young now } }
  else { r with slot0 := { r.slot0 with good := ended || !r.slot1.good || !r.slot0.young now } }

/-- The repair record in force. -/
def Store.repair (s : Store) : Repair := s.repairRec.cur
/-- The stored powered hours (RX_HOURS). -/
def Store.hours (s : Store) : Nat := s.hoursRec.cur
/-- END of the LMS state journal (R441). -/
def Store.lmsEnd (s : Store) : Nat := s.lmsRec.cur
/-- The highest lower tree whose top-tree signature is stored (R440). -/
def Store.topSig (s : Store) : Nat := s.topRec.cur
/-- Whether the attestation certificate is stored (R442). -/
def Store.cert (s : Store) : Bool := s.certRec.cur
/-- The life record of an island (R420). -/
def Store.life (s : Store) (i : Isl) : LifeRec :=
  match i with
  | .a => s.lifeARec.cur
  | .b => s.lifeBRec.cur
/-- Write the life record of an island. -/
def Store.putLife (s : Store) (i : Isl) (now : Nat) (r : LifeRec) : Store :=
  match i with
  | .a => { s with lifeARec := s.lifeARec.write now r }
  | .b => { s with lifeBRec := s.lifeBRec.write now r }
/-- Every record when power is lost; bit `k` of `ended` says that record `k`'s write had ended. -/
def Store.cut (s : Store) (now ended : Nat) : Store :=
  { s with
    lmsRec := s.lmsRec.cut now (bit ended 0), topRec := s.topRec.cut now (bit ended 1)
    repairRec := s.repairRec.cut now (bit ended 2), hoursRec := s.hoursRec.cut now (bit ended 3)
    lifeARec := s.lifeARec.cut now (bit ended 4), lifeBRec := s.lifeBRec.cut now (bit ended 5)
    certRec := s.certRec.cut now (bit ended 6) }

/-! ## Event records -/

/-- The cause of safe state that a class 0x04 record on the event feed commits (R321). -/
def feedCause (code : Nat) : Nat :=
  if code = 0x1064 then 6 else if code = 0x1073 then 7 else if code = 0x4010 then 10 else 5

/-- Whether the record reaches the event feed (R308): from the hub, tiles, floor and chip. -/
def onFeed (region : Nat) : Bool := region != 6 && region != 7

/-- An island that runs its firmware is to request the safe state with a cause; SAFE_STATE_COMMIT commits it
(R321). -/
def Dev.askSafe (d : Dev) (i : Isl) (cause : Nat) : Dev :=
  d.modIsl i fun s =>
    if s.loaded = false ∨ s.state = .halted ∨ cause ∈ s.req then s else { s with req := s.req ++ [cause] }

/-- A record on the event feed has both islands request the safe state (R321). DEDUCED (log 61). -/
def Dev.safeReq (d : Dev) (cause : Nat) : Dev := (d.askSafe .a cause).askSafe .b cause

/-- Place a record in the retention buffer, or discard and count it (R457). -/
def Dev.logRec (d : Dev) (r : EventRecord) : Dev :=
  let d := { d with log := { d.log with total := d.log.total + 1 } }
  if d.log.buf.length < 4096 then { d with log := { d.log with buf := d.log.buf ++ [r] } }
  else
    let d := { d with log := { d.log with
      lostAt := if d.log.lost = 0 then r.time else d.log.lostAt, lost := d.log.lost + 1 } }
    d.bump R.hpEvlogLost

/-- Write an event record that carries an epoch time (R10, R18); a class 0x04 record on the feed makes the
islands request the safe state (R321). -/
def Dev.eventAt (d : Dev) (time cls code region block : Nat) (detail : List Nat)
    (part : Nat := 0xFF) (ctx : Nat := 0xFFFF) : Dev :=
  let d := d.logRec ⟨time, region, block, cls, code, part, ctx, detail⟩
  if cls = 4 ∧ onFeed region = true ∧ code ≠ 0x4010 then d.safeReq (feedCause code) else d

/-- Write an event record with the epoch time now (R10). -/
def Dev.event (d : Dev) (cls code region block : Nat) (detail : List Nat)
    (part : Nat := 0xFF) (ctx : Nat := 0xFFFF) : Dev :=
  d.eventAt d.time.now cls code region block detail part ctx

/-- An event of the hub as a whole (region 0x04, block byte 0xFF). -/
def Dev.evHub (d : Dev) (cls code : Nat) (detail : List Nat) (block : Nat := 0xFF) : Dev :=
  d.event cls code 4 block detail
/-- An event of a physical block (R11). -/
def Dev.evBlk (d : Dev) (cls code b : Nat) (detail : List Nat) (part : Nat := 0xFF)
    (ctx : Nat := 0xFFFF) : Dev :=
  d.event cls code (b / 36) (b % 36) detail part ctx
/-- An event of the floor as a whole. -/
def Dev.evFloor (d : Dev) (cls code : Nat) (detail : List Nat) : Dev := d.event cls code 5 0xFF detail
/-- An event of an island. -/
def Dev.evIsl (d : Dev) (i : Isl) (cls code : Nat) (detail : List Nat) : Dev :=
  d.event cls code (islRegion i) 0xFF detail
/-- An event of the security functions (R448). -/
def Dev.evSec (d : Dev) (cls code : Nat) (detail : List Nat) : Dev := d.event cls code 4 0x80 detail

/-- Append to what leaves the module. -/
def Dev.emit (d : Dev) (o : Out) : Dev := { d with out := d.out ++ [o] }

/-- Take a fresh free value. DESIGN CHOICE (log 6). -/
def Dev.fresh (d : Dev) : Nat × Dev := (Config.freeNat d.free, { d with free := d.free + 1 })

/-- Ask for the retirement of a block (R33); the record of its cause has been written. DEDUCED (log 13). -/
def Dev.retireReq (d : Dev) (b cause : Nat) : Dev :=
  if (d.blk b).svc = .retired ∨ d.retire.any (·.1 = b) then d
  else { d with retire := d.retire ++ [(b, cause)] }

/-! ## Memory -/

/-- Put fields together: (value, lowest bit, width). -/
def pack (fs : List (Nat × Nat × Nat)) : Nat := fs.foldl (fun n f => n + f.1 % 2 ^ f.2.2 * 2 ^ f.2.1) 0

/-- What a byte of memory that nothing has written reads as. DESIGN CHOICE (log 4). -/
def memDef : Nat → Byte := fun _ => 0

/-- The byte at a device address (the one memory of R24: DRAM, scratchpads, hub store). DESIGN CHOICE (log 4). -/
def Dev.rd (d : Dev) (a : Nat) : Byte := tget memDef d.mem a
/-- `n` bytes from an address. -/
def Dev.rdBytes (d : Dev) (a n : Nat) : List Byte := (List.range n).map fun i => d.rd (a + i)
/-- The little-endian number in `n` bytes (R4). -/
def Dev.rdN (d : Dev) (a n : Nat) : Nat := ofLE (d.rdBytes a n)

/-- Write bytes into a memory table. -/
def memPut (m : Table Byte) : Nat → List Byte → Table Byte
  | _, [] => m
  | a, b :: t => memPut (tset memDef m a b) (a + 1) t

/-- Write bytes, leaving poison as it is. -/
def Dev.wr (d : Dev) (a : Nat) (bs : List Byte) : Dev := { d with mem := memPut d.mem a bs }
/-- Write the `n` low bytes of a number, little-endian. -/
def Dev.wrN (d : Dev) (a n v : Nat) : Dev := d.wr a (toLE n v)

/-- Number of the 64-byte granule that holds an address. -/
def granule (a : Nat) : Nat := a / 64
/-- Whether the granule that holds an address is poisoned (R126, R358). -/
def Dev.poisoned (d : Dev) (a : Nat) : Bool := tget (fun _ => false) d.poison (granule a)
/-- Set or clear the poison of a granule by its number. DEDUCED (log 12). -/
def Dev.setPoison (d : Dev) (g : Nat) (p : Bool) : Dev :=
  { d with poison := tset (fun _ => false) d.poison g p }
/-- Granules that `n` bytes from an address touch. -/
def granules (a n : Nat) : List Nat :=
  if n = 0 then [] else (List.range ((a + n - 1) / 64 - a / 64 + 1)).map (a / 64 + ·)
/-- Whether `n` bytes from an address touch a poisoned granule. -/
def Dev.anyPoison (d : Dev) (a n : Nat) : Bool := (granules a n).any fun g => d.poisoned (g * 64)
/-- Poison every granule that a range touches. -/
def Dev.poisonRange (d : Dev) (a n : Nat) : Dev := (granules a n).foldl (fun d g => d.setPoison g true) d

/-- Store bytes: a granule written whole loses its poison unless the writer carries poison, which
poisons every granule it touches; a part write leaves poison as it is (R109, R126, R360). DEDUCED (log 12). -/
def Dev.store (d : Dev) (a : Nat) (bs : List Byte) (carry : Bool := false) : Dev :=
  let d := d.wr a bs
  (granules a bs.length).foldl
    (fun d g => if carry then d.setPoison g true
      else if a ≤ g * 64 ∧ g * 64 + 64 ≤ a + bs.length then d.setPoison g false else d) d

/-- Drop the entries of a table with keys in [lo, hi): they read as the default. -/
def tdrop {α : Type} (lo hi : Nat) (t : Table α) : Table α :=
  t.filter fun e => decide (e.1 < lo) || decide (hi ≤ e.1)
/-- The entries of a table with keys in [lo, hi), moved so that `lo` becomes `dst`. -/
def tslice {α : Type} (lo hi dst : Nat) (t : Table α) : Table α :=
  (t.filter fun e => decide (lo ≤ e.1) && decide (e.1 < hi)).map fun e => (e.1 - lo + dst, e.2)
/-- Put the entries of `s` into `t`. -/
def tmerge {α : Type} (s t : Table α) : Table α := s.foldl (fun t e => tput e.1 (some e.2) t) t

/-- Zero a 64-byte-aligned range of memory and clear its poison. -/
def Dev.zero (d : Dev) (a n : Nat) : Dev :=
  { d with mem := tdrop a (a + n) d.mem, poison := tdrop (a / 64) ((a + n) / 64) d.poison }
/-- Copy a 64-byte-aligned range with its poison. -/
def Dev.copy (d : Dev) (src dst n : Nat) : Dev :=
  { d with
    mem := tmerge (tslice src (src + n) dst d.mem) (tdrop dst (dst + n) d.mem)
    poison := tmerge (tslice (src / 64) ((src + n) / 64) (dst / 64) d.poison)
      (tdrop (dst / 64) ((dst + n) / 64) d.poison) }

/-- Size of the DRAM address range in service, 184 GiB (R24). -/
def dramTop : Nat := 0x2E00000000
/-- Base of a block's scratchpad window (R24). -/
def blockBase (b : Nat) : Nat := 0x4000000000 + b * 0x100000
/-- Base of the hub store. -/
def hubBase : Nat := 0x5000000000
/-- Size of the hub store, 32 MiB. -/
def hubSize : Nat := 0x2000000
/-- Base of the register space. -/
def regBase : Nat := 0x6000000000
/-- Size of the DRAM in service: 2 GiB for each logical rank (R354). -/
def Dev.dramSize (d : Dev) : Nat := (d.dram.safety.length + d.dram.general.length) * 2 * gib
/-- Size of the safety pool in bytes: 2 GiB for each logical rank of its list (R173). -/
def Dev.safetySize (d : Dev) : Nat := d.dram.safety.length * 2 * gib

/-- What a device address names (R24). -/
inductive Target
  | dram | hub | regs | none
  | spad (b : Nat)
  deriving DecidableEq, Repr

/-- The target of a device address. -/
def target (a : Nat) : Target :=
  if a < dramTop then .dram
  else if 0x4000000000 ≤ a ∧ a < 0x4009000000 then .spad ((a - 0x4000000000) / 0x100000)
  else if hubBase ≤ a ∧ a < hubBase + hubSize then .hub
  else if regBase ≤ a ∧ a < regBase + 0x10000000 then .regs
  else .none

/-- The ENC and PART that a DRAM write of a partition carries (R381): 1 + partition where the profile is
the cabinet's and its bit of MC_ENC_PART is set, else 0. -/
def Dev.encOf (d : Dev) (part : Nat) : Nat :=
  if d.chip.profile = 1 ∧ part < 64 ∧
      bit (d.reg R.mcEncPartLo + d.reg R.mcEncPartHi * 4294967296) part then part + 1 else 0

/-- Store bytes for a partition: as `store`, and DRAM granules take the ENC and PART of the writer. -/
def Dev.storeAs (d : Dev) (part a : Nat) (bs : List Byte) (carry : Bool := false) : Dev :=
  let d := d.store a bs carry
  if target a = .dram then
    { d with enc := (granules a bs.length).foldl (fun t g => tset (fun _ => 0) t g (d.encOf part)) d.enc }
  else d

/-- The first granule of a range that is encrypted under an erased key (R381). -/
def Dev.keyGone (d : Dev) (a n : Nat) : Option Nat :=
  if target a = .dram then (granules a n).find? fun g =>
    let e := tget (fun _ => 0) d.enc g
    e != 0 && d.sec.erased.contains (e - 1)
  else none

/-- Pool of a DRAM address: whether the safety pool, its base and its list (R354). -/
def Dev.poolOf (d : Dev) (a : Nat) : Bool × Nat × List Nat :=
  if a < d.safetySize then (true, 0, d.dram.safety) else (false, d.safetySize, d.dram.general)

/-- Physical rank, offset within the rank and sub-channel of a DRAM address (R355); none where the pool
has no rank for it. DEDUCED (log 12). -/
def Dev.locate (d : Dev) (a : Nat) : Option (Nat × Nat × Nat) :=
  let (_, base, l) := d.poolOf a
  let p := a - base
  let u := p / 256
  let off := u / l.length * 256 + p % 256
  if l = [] ∨ 2 * gib ≤ off then none else some (l.getD (u % l.length) 0, off, bits p 6 1)

/-- An event of a DRAM channel. -/
def Dev.evChan (d : Dev) (cls code k : Nat) (detail : List Nat) : Dev := d.event cls code 4 (0x40 + k) detail

/-- A read of a granule whose key has been erased (R381): event 0x9020, under the granule's channel. -/
def Dev.keyEvent (d : Dev) (init part g : Nat) : Dev :=
  let k := (d.locate (g * 64)).map fun l => l.1 / 2
  d.evChan 2 0x9020 (k.getD 0) [init, part, tget (fun _ => 0) d.enc g - 1, g * 64]

/-- Offset of an address in its block window. -/
def spadOff (a : Nat) : Nat := a % 0x100000

/-! ## Firewalls -/

/-- Whether a region table allows an access (R179): the lowest-numbered valid entry that contains
the address also contains the initiator and grants the partition. DEDUCED (log 41). -/
def fwAllows (t : List FwEntry) (init part a : Nat) (write : Bool) : Bool :=
  match t.find? fun e => e.valid && decide (e.base ≤ a / 4096) && decide (a / 4096 ≤ e.limit) with
  | some e => decide (e.initLo ≤ init) && decide (init ≤ e.initHi) &&
      bit (if write then e.write else e.read) part
  | none => false

/-- The DRAM region table of the image in force. -/
def Dev.fwDram (d : Dev) : List FwEntry := (d.chip.image.map (·.fwDram)).getD []
/-- The hub-store region table of the image in force. -/
def Dev.fwHub (d : Dev) : List FwEntry := (d.chip.image.map (·.fwHub)).getD []

/-- Partition of the host port (R178). -/
def Dev.hostPart (d : Dev) : Nat := (d.chip.image.map (·.hostPart)).getD 0

/-- Whether a moult has opened the firewall of a spare (R33 step 3). -/
def Dev.opened (d : Dev) (b : Nat) : Bool := (d.tile (tileOf b)).moults.any fun m => m.spare == some b

/-- Why an access is refused: the TARGET code of SEC_FW_LAST and whether R26 applies (event 0x9012).
DEDUCED (log 41). -/
def Dev.refusal (d : Dev) (init part a : Nat) (write machine : Bool) : Option (Nat × Bool) :=
  match target a with
  | .none => some (6, true)
  | .regs => if machine then none else some (3, false)
  | .hub => if fwAllows d.fwHub init part a write then none else some (1, false)
  | .dram =>
    if d.dramSize ≤ a then some (6, true)
    else if init = 733 then none
    else if a < d.safetySize ∧ ((d.part part).safety = false ∨ init = 728) then some (4, false)
    else if fwAllows d.fwDram init part a write then none else some (0, false)
  | .spad b =>
    let k := d.blk b
    if k.svc = .retired ∨ (k.svc = .standby ∧ k.part = none ∧ d.opened b = false) then some (2, true)
    else if k.part = some part then none
    else some (2, false)

/-- The addresses that decide an access of `n` bytes: its first byte and every 4 KiB page that begins within it;
no region, pool or window begins anywhere else (R24, R179). -/
def pages (a n : Nat) : List Nat :=
  a :: (List.range ((a + n - 1) / 4096 - a / 4096)).map fun i => (a / 4096 + 1 + i) * 4096

/-- The refusal of any byte of an access of `n` bytes: the first in address order. DEDUCED (log 12). -/
def Dev.refusalN (d : Dev) (init part a n : Nat) (write machine : Bool) : Option (Nat × Bool) :=
  (pages a n).findSome? fun x => d.refusal init part x write machine

/-! ## Optical lanes (R393) -/

/-- The port that a lane position belongs to; a spare position has none (R393). -/
def lanePort (n : Nat) : Option Nat :=
  let p := n % 24
  match n / 24 with
  | 0 => if p < 16 then some 0 else none
  | 1 => if p < 4 then some 1 else if p < 8 then some 2 else none
  | 2 => if p < 4 then some 3 else if p < 8 then some 4 else none
  | _ => if p = 0 then some 5 else if p = 1 then some 6 else if p = 3 then some 7 else none

/-- A lane as shipped: in service at a used position, spare at a spare position, else dark. -/
def laneDef (n : Nat) : OptLane :=
  { state := if (lanePort n).isSome then 1 else if n ∈ [16, 17, 32, 56, 74] then 3 else 0 }

/-! ## Die-to-die links that accesses travel on -/

/-- Link module `m`. -/
def Dev.lmod (d : Dev) (m : Nat) : Lmod := tget (fun _ => {}) d.links.mods m
/-- Link `k`. -/
def Dev.link (d : Dev) (k : Nat) : Link := tget (fun _ => {}) d.links.links k

/-- The modules that a link joins: its own, or M2 of CTt and M3 of CT((t + 1) mod 4) for ring link t (R383).
DEDUCED (log 74). -/
def linkMods (k : Nat) : List Nat := if k < 20 then [k] else [4 * (k - 20) + 2, 4 * ((k - 20 + 1) % 4) + 3]
/-- The module that a link's events name. DEDUCED (log 74). -/
def linkMod (k : Nat) : Nat := if k < 20 then k else 4 * (k - 20) + 2
/-- A ring link. -/
def isRing (k : Nat) : Bool := decide (20 ≤ k)

/-- Logical lanes of a link in service, in order (R385). -/
def Dev.linkLanes (d : Dev) (k : Nat) : List Nat :=
  let q := d.lmod (linkMod k)
  (List.range 64).filter fun l => !q.retired.contains l && (q.ring.contains l == isRing k)

/-- The ring link between two tiles: link 20 + t joins CTt to CT((t + 1) mod 4) (R383). -/
def ringLink (t u : Nat) : Option Nat :=
  if (t + 1) % 4 = u then some (20 + t) else if (u + 1) % 4 = t then some (20 + u) else none

/-- Whether a tile's hub path moves nothing: a link of it is under repair or retraining and none is in service. -/
def Dev.hubStalls (d : Dev) (t : Nat) : Bool :=
  let st := (List.range 4).map fun i => (d.link (4 * t + i)).state
  st.contains 3 && !st.contains 2

/-- The ring link that two tiles' remote writes travel on, where one is in service (R157, R216). -/
def Dev.ringOf (d : Dev) (t u : Nat) : Option Nat :=
  (ringLink t u).filter fun k => (d.link k).state != 0 && d.linkLanes k != []

/-- Whether a remote write of block `b` to an address stalls (R157, R216): it travels on the ring lanes between the
two tiles while one is in service, and through the hub otherwise. DEDUCED (log 28). -/
def Dev.pathStalls (d : Dev) (b a : Nat) : Bool :=
  match target a with
  | .spad c =>
    let (t, u) := (b / 36, c / 36)
    match d.ringOf t u with
    | some k => (d.link k).state == 3
    | none => t != u && (d.hubStalls t || d.hubStalls u)
  | _ => false

/-- The hub's regulated port that an initiator's requests pass (R113, R176, R178). DEDUCED (log 40). -/
def portOf (init : Nat) : Nat :=
  if init < 720 then init / 180 else if init = 728 then 4 else if 724 ≤ init ∧ init < 728 then 5
  else if 729 ≤ init ∧ init ≤ 733 then 7 else 6

/-- The partition that the image gives a hub initiator; the host port's is the host partition (R178). -/
def Dev.initPart (d : Dev) (i : Nat) : Nat :=
  if i = 728 then d.hostPart
  else ((d.chip.image.bind fun c => (c.initParts.find? (·.1 = i)).map (·.2))).getD 0

/-- The label a request carries (R175): bit 3 is forced to 1 on a dynamic partition's. -/
def Dev.label (d : Dev) (part label : Nat) : Nat :=
  if (d.part part).declared ∧ (d.part part).static = false ∧ label % 16 < 8 then label % 16 + 8 else label % 16

/-- The label of a hub initiator that acts for no operation and carries a partition: the class the image gives it
(R175). -/
def Dev.initCls (d : Dev) (i part : Nat) : Nat :=
  d.label part ((d.chip.image.bind fun c => (c.initClass.find? (·.1 = i)).map (·.2)).getD 0)

/-- Whether an initiator's access passes one of the hub's regulated ports (R176): to DRAM, to the hub store, and to
the scratchpad of another tile where it travels through the hub. DEDUCED (log 40). -/
def Dev.regulated (d : Dev) (init a : Nat) : Bool :=
  match target a with
  | .dram => true
  | .hub => true
  | .spad c => decide (720 ≤ init) || (init / 180 != c / 36 && (d.ringOf (init / 180) (c / 36)).isNone)
  | _ => false

/-- MAX_OUT of an initiator's port for a class. -/
def Dev.maxOut (d : Dev) (init cls : Nat) : Nat := d.fld (R.mcReg (16 * portOf init + cls % 16)) 0 8

/-- Whether a regulator refuses a class's requests: its MAX_OUT is 0 (R176). DEDUCED (log 40). -/
def Dev.shut (d : Dev) (init cls a : Nat) : Bool := d.regulated init a && d.maxOut init cls == 0

/-- Whether a class is at its cap, so that its request waits at the regulator (R176). -/
def Dev.capped (d : Dev) (init cls a : Nat) : Bool :=
  d.regulated init a && decide (d.maxOut init cls ≤ tget (fun _ => 0) d.dram.out (16 * portOf init + cls % 16))

/-- The refusal of an operation's access of `n` bytes under its class label: by the regulator (R176), or
by the target's firewall. DEDUCED (log 40). -/
def Dev.refusalAt (d : Dev) (init part cls a n : Nat) (write : Bool) : Option (Nat × Bool) :=
  if d.shut init cls a then some (5, false) else d.refusalN init part a n write false

/-- Count, record and report a refused access (R26, R181). DEDUCED (log 41). -/
def Dev.deny (d : Dev) (init part tgt : Nat) (r26 : Bool) (a : Nat) : Dev :=
  let d := d.bump R.secFwDeny
  let d := d.setReg R.secFwLast (init % 1024 + part % 64 * 1024 + tgt % 8 * 65536)
  if r26 then d.evSec 2 0x9012 [init, part, a]
  else match target a with
    | .spad b => d.evBlk 2 0x9010 b [init, part, tgt, a] part
    | _ => d.event 2 0x9010 4 0x80 [init, part, tgt, a] part

/-! ## Operations -/

/-- Status codes of R9. -/
def stDone : Nat := 0x00
/-- See `stDone`. -/
def stUnchecked : Nat := 0x01
/-- See `stDone`. -/
def stCancelled : Nat := 0x02
/-- See `stDone`. -/
def stTooLate : Nat := 0x03
/-- See `stDone`. -/
def stAborted : Nat := 0x04
/-- See `stDone`. -/
def stPoisoned : Nat := 0x05
/-- See `stDone`. -/
def stDeadline : Nat := 0x06
/-- See `stDone`. -/
def stQuarantined : Nat := 0x07
/-- See `stDone`. -/
def stReplayed : Nat := 0x08
/-- See `stDone`. -/
def stMemory : Nat := 0x09
/-- See `stDone`. -/
def stDenied : Nat := 0x0A
/-- See `stDone`. -/
def stBudget : Nat := 0x0B

/-- Whether a status's output may be consumed (R9). -/
def outputValid (s : Nat) : Bool := s == 0 || s == 1 || s == 3 || s == 8

/-- Tile whose tracker holds a token (R145). -/
def tokTile (k : Nat) : Nat := k / 4096

/-- Operations of a tile's tracker. -/
def Dev.tileOps (d : Dev) (t : Nat) : List (Nat × Op) := d.ops.filter fun e => e.1 / 4096 = t && e.2.used
/-- Entries in use in a tile's tracker: primary entries and those of launched operations (R145). -/
def Dev.trkUsed (d : Dev) (t : Nat) : Nat := (d.tileOps t).foldl (fun n e => n + 1 + e.2.kids.length) 0
/-- Entries in use that count against the dynamic share (R146). -/
def Dev.trkDyn (d : Dev) (t : Nat) : Nat :=
  (d.tileOps t).foldl (fun n e => if e.2.static then n else n + 1 + e.2.kids.length) 0
/-- The tile's dynamic share (R146). -/
def Dev.dynShare (d : Dev) (t : Nat) : Nat := 4096 - d.fld (R.qmTrkReserve t) 0 13
/-- Free dynamic entries of a tile (R146). -/
def Dev.dynFree (d : Dev) (t : Nat) : Nat := min (d.dynShare t - d.trkDyn t) (4096 - d.trkUsed t)
/-- Entries charged to a block (R107, R146). -/
def Dev.blkCharge (d : Dev) (b : Nat) : Nat :=
  d.ops.foldl (fun n e => if e.2.used && e.2.block = some b then n + 1 + e.2.kids.length else n) 0

/-- The lowest number from `k` on that a list does not hold, of `n` numbers. -/
def firstGap (l : List Nat) : Nat → Nat → Nat
  | 0, k => k
  | n + 1, k => if l.contains k then firstGap l n (k + 1) else k

/-- The lowest-numbered free entry of a tile's tracker as a token (R145). -/
def Dev.freeToken (d : Dev) (t : Nat) : Nat :=
  firstGap ((d.ops.filter (·.2.used)).flatMap fun e => e.1 :: e.2.kids) 4096 (t * 4096)

/-- Follow the highest occupancy of a tile's tracker (QM_TRK_USED_t.PEAK). -/
def Dev.peak (d : Dev) (t : Nat) : Dev :=
  d.setFld (R.qmTrkUsed t) 16 13 (max (d.fld (R.qmTrkUsed t) 16 13) (d.trkUsed t))

/-- Take an entry for an operation. -/
def Dev.alloc (d : Dev) (t : Nat) (o : Op) : Nat × Dev :=
  let k := d.freeToken t
  (k, (d.setOp k { o with used := true }).peak t)

/-- Decide the status of an operation; the first terminal event stands (R77). -/
def Dev.settle (d : Dev) (k st : Nat) : Dev :=
  d.modOp k fun o => if o.used ∧ o.status = none then { o with status := some st } else o

/-- The thread state at the start of a task or of a static item from its entry: registers zero,
relocation registers and pool entries of the context (R110, R470). The launch sequence number of R107 restarts
at 0 here, and goes on over a WAKE. DESIGN CHOICE (log 98). -/
def startThread (c : Ctx) (old : Thread) (k entry : Nat) : Thread :=
  { op := some k, static := old.static, pc := entry, windows := c.windows }

/-- Poison every granule of an engine operation's outputs (R302): its producer ranges other than the
pre-image, as far as they lie in the engine scratchpad. -/
def Dev.poisonOut (d : Dev) (b : Nat) (e : EngOp) : Dev :=
  e.entries.foldl
    (fun d r => if r.producer && !r.pre then d.poisonRange (blockBase b + r.lo) (min r.hi 0x80000 - r.lo) else d) d

/-- Whether two ranges share a byte. -/
def meets (a n b m : Nat) : Bool := decide (a < b + m) && decide (b < a + n) && decide (0 < n) && decide (0 < m)

/-- Whether two scoreboard entries forbid two operations to be pending together (R118). The pre-images of two held
operations lie in the two halves of their area (R286), so these entries do not meet. -/
def SbEntry.clash (x y : SbEntry) : Bool :=
  !(x.pre && y.pre) && (x.producer || y.producer) && meets x.lo (x.hi - x.lo) y.lo (y.hi - y.lo)

/-- Scoreboard entries in use in a block (GC_STATUS_n.SB_USED). -/
def Block.sbUsed (k : Block) : Nat :=
  k.eng.foldl (fun n e => if e.stage = .waiting then n else n + e.entries.length) 0

/-- Whether an operation with these entries may become pending (R117, R118). -/
def Block.sbFits (k : Block) (es : List SbEntry) : Bool :=
  decide (k.sbUsed + es.length ≤ 32) &&
    !(k.eng.any fun e => e.stage != .waiting && e.entries.any fun x => es.any (SbEntry.clash x))

/-- Pending operations of an engine, repeats that are due among them (R60). -/
def Block.pendingOps (k : Block) : Nat :=
  (k.eng.filter fun e => e.stage == .pending || (e.stage == .firstDone && (e.src != .launch || e.repReq))).length

/-- Launch-word operations that waited at the engine become pending, in order, once nothing that is
pending or running stands against them (R118) and fewer than four operations are pending (R60). -/
def Block.admitWaiting (k : Block) : Block :=
  k.eng.foldl (fun q e =>
    if e.stage = .waiting ∧ q.sbFits e.entries = true ∧ q.pendingOps < 4 then
      { q with eng := mapIf (fun x => x.token == e.token) (fun x => { x with stage := .pending }) q.eng }
    else q) k

/-- The arbitration of an operation ends: its engine is free again and belongs to no partition of the
operation, and its transfers leave the copy path (R21, R297). -/
def Dev.freeArb (d : Dev) (b : Nat) (e : EngOp) : Dev :=
  match e.arb with
  | none => d
  | some a =>
    let d := d.modBlk a fun k => { k with arbFor := none, arbBad := false, part := k.slotPart }
    d.modTile (tileOf b) fun t => { t with copies := t.copies.filter fun c => !(c.1 == b && c.2.1 == e.token) }

/-- Free a thread of a block. A static thread keeps its context. -/
def Block.freeThr (k : Block) (n : Nat) : Block :=
  let t := k.thr n
  k.setThr n (match t.static with
    | some c => { static := some c, windows := t.windows }
    | none => {})

/-- Blocks return to no partition when their last dynamic task ends (R162); a static thread is none. -/
def Dev.releaseBlk (d : Dev) (b : Nat) : Dev :=
  d.modBlk b fun k =>
    if k.slotPart = none ∧ k.arbFor = none ∧
        k.threads.all (fun e => e.2.op.isNone || e.2.static.isSome) = true ∧ k.eng.all (·.static) = true then
      { k with part := none }
    else k

/-- Credit requests of a thread that wait anywhere are withdrawn (R122). -/
def Dev.unwait (d : Dev) (p : Nat × Nat → Bool) : Dev :=
  { d with blocks := d.blocks.map fun e => (e.1, { e.2 with waiters := e.2.waiters.filter fun w => !p w }) }

/-- Start a static thread at its entry as an item without deadline, SLOT 0xFFFF (R470). -/
def Dev.startStatic (d : Dev) (b n c : Nat) : Dev :=
  let x := d.ctx c
  let (k, d) := d.alloc (tileOf b)
    { kind := .item, static := true, ctx := c, part := x.part, slot := 0xFFFF, placed := true,
      block := some b, thread := some n, entry := x.entry, cls := (d.part x.part).cls }
  d.modBlk b fun q => q.setThr n { startThread x { static := some c } k x.entry with static := some c }

/-- Powered phases in which the compute domain runs its schedule. -/
def Dev.live (d : Dev) : Bool := d.chip.sched && !d.chip.computeReset

/-- A region is in reset from step 1 to step 4 of R341. -/
def Dev.tileUp (d : Dev) (t : Nat) : Bool := (d.tile t).region ≠ 1

/-- Reset value of the writable bits of configuration dword `i`: Device Control starts with a Max Read Request
Size of 512 bytes. DESIGN CHOICE (log 5). -/
def cfgDef (i : Nat) : Word := if i = 0x12 then 0x2000 else 0
/-- The writable bits of configuration dword `i`. -/
def Dev.cfg (d : Dev) (i : Nat) : Nat := (tget cfgDef d.host.cfg i).toNat

/-- A posted write of the device may be made: link up, Bus Master Enable set, Function in D0 (R454). -/
def Dev.hostReady (d : Dev) : Bool :=
  d.host.up && bit (d.cfg 1) 2 && !d.host.d3

/-- The Max Payload Size the host has set: 128, 256 or 512 bytes (R449). Device Control of the PCI
Express capability at dword 0x48 / 4. -/
def Dev.mps (d : Dev) : Nat := min 512 (128 * 2 ^ bits (d.cfg 0x12) 5 3)

/-- Split a formed write at Max Payload Size and at 4 KiB boundaries into the fewest requests (R453). -/
def splitWrite (mps : Nat) : (fuel : Nat) → (a : Nat) → List Byte → List Out
  | 0, _, _ => []
  | _, _, [] => []
  | fuel + 1, a, bs =>
    let n := min (max mps 1) (4096 - a % 4096)
    .hostWrite a (bs.take n) :: splitWrite mps fuel (a + n) (bs.drop n)

/-- Form one write to host memory (R453). -/
def Dev.hostWrite (d : Dev) (a : Nat) (bs : List Byte) : Dev :=
  { d with out := d.out ++ splitWrite d.mps (bs.length + 1) a bs }

/-! ## Lifting -/

/-- A command that changes the device alone. DESIGN CHOICE (log 2). -/
def onDev (f : Dev → Dev) (s : State) : Res := .next { s with dev := f s.dev }

/-- A command whose event can occur only where `p` holds; elsewhere nothing happens. DESIGN CHOICE (log 2). -/
def onDevIf (p : Dev → Bool) (f : Dev → Dev) (s : State) : Res :=
  .next { s with dev := if p s.dev then f s.dev else s.dev }

/-- A command that changes the device and what survives power. DESIGN CHOICE (log 2). -/
def onNv (f : Dev → Nv → Dev × Nv) (s : State) : Res :=
  .next { s with dev := (f s.dev s.nv).1, nv := (f s.dev s.nv).2 }

/-- Apply `f` where `p` holds. -/
def doIf (p : Dev → Bool) (f : Dev → Dev) (d : Dev) : Dev := if p d then f d else d
/-- Apply `f`. -/
def doDev (f : Dev → Dev) (d : Dev) : Dev := f d

/-- What becomes of a request of the host to BAR0 or BAR2: 0 taken; 1 Unsupported Request, before the
configuration lock (R432) and in D3hot (R454); 2 it never arrives, while the link is down (R455). -/
def Dev.hostReq (d : Dev) : Nat :=
  if d.host.up = false then 2 else if d.chip.lock = false ∨ d.host.d3 = true then 1 else 0

/-- A register write of the host (R432, R454, R455). DESIGN CHOICE (log 2). -/
def onHost (f : Dev → Dev) (s : State) : Res :=
  .next { s with dev := match s.dev.hostReq with
    | 0 => f s.dev
    | 1 => s.dev.bump R.hpUr
    | _ => s.dev }

/-- A command with operands no event can carry faults; else it has its effect. DESIGN CHOICE (log 1). -/
def checked (ok : Bool) (r : Res) : Res := if ok then r else .fault .illFormed

end Sys2Proof.Machine
end

