-- ==== Sys2Proof/Machine/Operands.lean ====
section
/-! DEFINITION. Operands of the engines: element formats and their packing (R63 to R66), the engine
operation descriptor with its regions and checks (R73 to R84, R92, R213), and what an operation
computes from the scratchpad, beat by beat (R67 to R71, R75, R80 to R84, R93, R94). -/

namespace Sys2Proof.Machine

/-! ## Formats -/

/-- Element bits of a format code (R63). -/
def fmtBits : Nat → Nat
  | 1 => 4
  | 5 => 6
  | 6 => 6
  | 7 => 4
  | 8 => 16
  | 9 => 16
  | 10 => 32
  | 11 => 32
  | _ => 8

/-- Whether a format is in the microscaling group. -/
def isMx (f : Nat) : Bool := decide (2 ≤ f) && decide (f ≤ 7)
/-- Whether a format is in the integer group (operands). -/
def isInt (f : Nat) : Bool := f == 0 || f == 1
/-- Whether a format is in the 16-bit group. -/
def is16 (f : Nat) : Bool := f == 8 || f == 9
/-- Whether a code is an operand format (R63). -/
def isOperand (f : Nat) : Bool := decide (f ≤ 9)
/-- Whether a code may stand in OUT_FMT (R74). -/
def isOut (f : Nat) : Bool := f == 0 || (decide (2 ≤ f) && decide (f ≤ 4)) || (decide (8 ≤ f) && decide (f ≤ 11))
/-- Pairs allowed by R64 outside the Winograd exception. -/
def pairOk (a b : Nat) : Bool := (isInt a && isInt b) || (isMx a && isMx b) || (is16 a && a == b)

/-- The pattern of element `i` of an array of a format at a device address (R65). Rows whose elements do not fill
whole bytes follow each other without padding. DESIGN CHOICE (log 96). -/
def Dev.elem (d : Dev) (base f i : Nat) : Nat :=
  let p := i * fmtBits f
  bits (d.rdN (base + p / 8) 4) (p % 8) (fmtBits f)

/-- The value of an element pattern (R63); MXINT8 in units of 1/64. -/
def elemVal (f v : Nat) : Fp :=
  match f with
  | 0 => ofSig false (signed 8 v) 0
  | 1 => ofSig false (signed 4 v) 0
  | 2 => ofSig false (signed 8 v) (-6)
  | 3 => if v % 128 = 127 then .nan else decodeFp 4 3 7 false v
  | 4 => decodeFp 5 2 15 true v
  | 5 => decodeFp 3 2 3 false v
  | 6 => decodeFp 2 3 1 false v
  | 7 => decodeFp 2 1 1 false v
  | 8 => decodeFp 8 7 127 true v
  | 9 => dec16 v
  | _ => dec32 v

/-! ## The descriptor -/

/-- An engine operation descriptor (R74, R79, R92). -/
structure Desc where
  words : List Nat := []
  op : Nat := 0
  aF : Nat := 0
  bF : Nat := 0
  oF : Nat := 0
  accLoad : Bool := false
  biasEn : Bool := false
  act : Nat := 0
  final : Bool := false
  chScale : Bool := false
  m : Nat := 0
  n : Nat := 0
  k : Nat := 0
  pad : Nat := 0
  a : Nat := 0
  b : Nat := 0
  out : Nat := 0
  aSc : Nat := 0
  bSc : Nat := 0
  acc : Nat := 0
  bias : Nat := 0
  scale : Nat := 0
  cs : Nat := 0
  inH : Nat := 0
  inW : Nat := 0
  kh : Nat := 0
  kw : Nat := 0
  cin : Nat := 0
  sh : Nat := 0
  sw : Nat := 0
  dh : Nat := 0
  dw : Nat := 0
  pt : Nat := 0
  pb : Nat := 0
  pl : Nat := 0
  pr : Nat := 0
  qpos : Nat := 0
  kpos : Nat := 0
  mask : Nat := 0
  window : Nat := 0
  deriving DecidableEq, Repr

/-- The fields of the eight words. -/
def descOf (w : List Nat) : Desc :=
  let w0 := w.getD 0 0
  let w1 := w.getD 1 0
  let w2 := w.getD 2 0
  let w3 := w.getD 3 0
  let w4 := w.getD 4 0
  let w5 := w.getD 5 0
  let w6 := w.getD 6 0
  let w7 := w.getD 7 0
  { words := w
    op := bits w0 0 8, aF := bits w0 8 4, bF := bits w0 12 4, oF := bits w0 16 4
    accLoad := bit w0 20, biasEn := bit w0 21, act := bits w0 22 2, final := bit w0 24
    chScale := bit w0 25, m := bits w0 32 16, n := bits w0 48 16
    k := bits w1 0 16, pad := bits w1 16 16, a := bits w1 32 19
    b := bits w2 0 19, out := bits w2 32 19, aSc := bits w3 0 19, bSc := bits w3 32 19
    acc := bits w4 0 19, bias := bits w4 32 19, scale := bits w5 0 32, cs := bits w5 32 19
    inH := bits w6 0 16, inW := bits w6 16 16, kh := bits w6 32 8, kw := bits w6 40 8
    cin := bits w6 48 12, sh := bits w7 0 8, sw := bits w7 8 8, dh := bits w7 16 8
    dw := bits w7 24 8, pt := bits w7 32 8, pb := bits w7 40 8, pl := bits w7 48 8, pr := bits w7 56 8
    qpos := bits w6 0 32, kpos := bits w6 32 32, mask := bits w7 0 2, window := bits w7 16 32 }

/-- Read the descriptor at an offset of an engine scratchpad. -/
def Dev.desc (d : Dev) (b off : Nat) : Desc :=
  descOf ((List.range 8).map fun i => d.rdN (blockBase b + off + 8 * i) 8)

/-- Whether the opcode is a convolution. -/
def Desc.conv (c : Desc) : Bool := c.op == 2 || c.op == 3 || c.op == 4
/-- Whether the opcode is a Winograd convolution. -/
def Desc.wino (c : Desc) : Bool := c.op == 3 || c.op == 4
/-- Whether the opcode is ATTN_STEP. -/
def Desc.attn (c : Desc) : Bool := c.op == 5

/-- OUT_H of R80; 0 when below 1. -/
def Desc.outH (c : Desc) : Nat :=
  if c.inH + c.pt + c.pb < c.dh * (c.kh - 1) + 1 then 0
  else (c.inH + c.pt + c.pb - c.dh * (c.kh - 1) - 1) / c.sh + 1
/-- OUT_W of R80; 0 when below 1. -/
def Desc.outW (c : Desc) : Nat :=
  if c.inW + c.pl + c.pr < c.dw * (c.kw - 1) + 1 then 0
  else (c.inW + c.pl + c.pr - c.dw * (c.kw - 1) - 1) / c.sw + 1
/-- Rows of the output. -/
def Desc.rows (c : Desc) : Nat := if c.conv then c.outH * c.outW else c.m
/-- Columns of the output: N, or D for ATTN_STEP. -/
def Desc.cols (c : Desc) : Nat := if c.attn then c.k else c.n
/-- Reduction length. -/
def Desc.red (c : Desc) : Nat := if c.conv then c.kh * c.kw * (32 * c.cin) else c.k
/-- Whether the accumulator is INT32 (R64, R83). -/
def Desc.intAcc (c : Desc) : Bool := isInt c.aF && !c.wino
/-- Bytes of `n` elements of a format. -/
def fmtBytes (f n : Nat) : Nat := (n * fmtBits f + 7) / 8
/-- Bytes of an output of a format with its scale array (R75): the scales follow the elements at the
next 64-byte boundary. -/
def outBytes (f rows cols : Nat) : Nat :=
  let e := fmtBytes f (rows * cols)
  if isMx f then roundUp e 64 + rows * (cols / 32) else e

/-- Kinds of region a descriptor reads or writes. -/
inductive RegKind | a | b | aScale | bScale | acc | bias | cscale | out
  deriving DecidableEq, Repr

/-- The regions: kind, offset, bytes (R74 to R83, R92). DEDUCED (log 21). -/
def Desc.regions (c : Desc) : List (RegKind × Nat × Nat) :=
  let aN := if c.conv then c.inH * c.inW * (32 * c.cin) else c.m * c.k
  let bN := if c.op = 3 then 36 * c.n * (32 * c.cin) else if c.op = 4 then 16 * c.n * (32 * c.cin)
    else c.n * c.red
  [(.a, c.a, fmtBytes c.aF aN), (.b, c.b, fmtBytes c.bF bN)] ++
  (if isMx c.aF then [(.aScale, c.aSc, aN / 32)] else []) ++
  (if isMx c.bF then [(.bScale, c.bSc, bN / 32)] else []) ++
  (if c.accLoad ∨ c.attn = true then [(.acc, c.acc, c.rows * c.cols * 4)] else []) ++
  (if c.attn then [(.bias, c.bias, outBytes c.bF c.k c.n), (.cscale, c.cs, 8 * c.m)]
   else (if c.biasEn then [(.bias, c.bias, 4 * c.n)] else []) ++
    (if c.chScale then [(.cscale, c.cs, 4 * c.n)] else [])) ++
  [(.out, c.out, outBytes c.oF c.rows c.cols)]

/-- Whether the operation writes the region (R117). -/
def Desc.produces (c : Desc) (k : RegKind) : Bool :=
  k == .out || (c.attn && (k == .acc || k == .cscale))

/-- A region of a descriptor by kind: offset and bytes. -/
def Desc.region (c : Desc) (k : RegKind) : Nat × Nat :=
  ((c.regions.find? (·.1 = k)).map (·.2)).getD (0, 0)

/-- Error 0x02: a format not allowed for the opcode (R74, R82, R92). -/
def Desc.badFmt (c : Desc) : Bool :=
  if !(isOperand c.aF && isOperand c.bF && isOut c.oF) then true
  else if c.attn then
    !((c.aF == 2 || c.aF == 3 || is16 c.aF) && (c.bF == 2 || c.bF == 3 || is16 c.bF) &&
      (c.oF == 3 || c.oF == 8 || c.oF == 9 || c.oF == 10))
  else if c.wino ∧ (c.aF = 1 ∨ c.aF = 5 ∨ c.aF = 6 ∨ c.aF = 7) then true
  else c.oF == 11 && !c.intAcc

/-- Error 0x01: a pair not allowed by R64. -/
def Desc.badPair (c : Desc) : Bool :=
  if c.wino ∧ c.aF = 0 then c.bF != 2 else !pairOk c.aF c.bF

/-- Error 0x03: K of an MX operand, N of an MX output (R66, R75). For an ATTN_STEP, whose output has D columns, D
counts too. DESIGN CHOICE (log 96). -/
def Desc.badMx (c : Desc) : Bool :=
  ((isMx c.aF || isMx c.bF) && c.red % 32 != 0) || (isMx c.oF && (c.n % 32 != 0 || c.cols % 32 != 0))

/-- Error 0x06: invalid geometry or field (R74, R79 to R82, R92, R213). -/
def Desc.badField (c : Desc) : Bool :=
  decide (1 < c.act) || c.n == 0 ||
  (c.oF == 11 && (c.biasEn || c.act != 0 || c.chScale)) ||
  (isMx c.aF && c.pad != 0) ||
  (if c.conv then
    c.m != 0 || c.k != 0 || c.inH == 0 || c.inW == 0 || c.kh == 0 || c.kw == 0 || c.cin == 0 ||
    c.sh == 0 || c.sw == 0 || c.dh == 0 || c.dw == 0 || c.outH == 0 || c.outW == 0 ||
    (c.wino && !(c.kh == 3 && c.kw == 3 && c.sh == 1 && c.sw == 1 && c.dh == 1 && c.dw == 1))
   else c.m == 0 || c.k == 0 ||
    (c.attn && (c.n % 32 != 0 || decide (1024 < c.n) ||
      ((c.mask == 2 || c.mask == 3) && c.window == 0) ||
      decide (0xFFFFFFFF < c.qpos + c.m - 1) || decide (0xFFFFFFFF < c.kpos + c.n - 1) ||
      c.kpos % 16 != 0)))

/-- Error 0x04: a region beyond offset 0x7_FFFF; OUT of an ATTN_STEP with FINAL = 0 is one of them.
DESIGN CHOICE (log 96). -/
def Desc.badRange (c : Desc) : Bool := c.regions.any fun r => decide (0x80000 < r.2.1 + r.2.2)

/-- Error 0x05: overlaps of R76 (and of R75 for ACC with OUT). The per-column scales at CSCALE_ADDR count as a
scale array, and OUT of an ATTN_STEP with FINAL = 0 takes part like any other. DESIGN CHOICE (log 96). -/
def Desc.badOverlap (c : Desc) : Bool :=
  let out := c.region .out
  let acc := c.region .acc
  let ins := c.regions.filter fun r => !(r.1 == .out || r.1 == .acc || (c.attn && r.1 == .cscale))
  ins.any (fun r => meets out.1 out.2 r.2.1 r.2.2 || meets acc.1 acc.2 r.2.1 r.2.2) ||
  (meets out.1 out.2 acc.1 acc.2 && !(c.acc == c.out && c.oF == (if c.intAcc then 11 else 10)))

/-- A field offset that is not 64-byte aligned (0x08). -/
def Desc.badAlign (c : Desc) : Bool :=
  [c.a, c.b, c.out, c.aSc, c.bSc, c.acc, c.bias, c.cs].any fun x => x % 64 != 0

/-- Bytes of the pre-image (R286). -/
def Desc.preimage (c : Desc) : Nat :=
  if c.attn then (c.region .acc).2 + (c.region .cscale).2 else if c.accLoad then (c.region .acc).2 else 0

/-- The first error of a descriptor that can be read, in the order of R76; 0 for none. -/
def Desc.error (c : Desc) : Nat :=
  if c.op = 0 ∨ 5 < c.op then 7
  else if c.badAlign then 8 else if c.badFmt then 2 else if c.badPair then 1
  else if c.badMx then 3 else if c.badField then 6 else if c.badRange then 4
  else if c.badOverlap then 5 else 0

/-- The first descriptor error with the descriptor's own offset checked first (R76). -/
def Dev.descError (d : Dev) (b off : Nat) : Nat :=
  if 0x80000 ≤ off then 4 else if off % 64 ≠ 0 then 8 else (d.desc b off).error

/-- The status of a descriptor error (R76). -/
def descStatus (e : Nat) : Nat := if e = 4 then stDenied else stPoisoned

/-! ## Scoreboard entries (R117) -/

/-- Join overlapping or adjacent ranges of one role, given in ascending order. -/
def joinRanges (l : List SbEntry) : List SbEntry :=
  (l.foldl (fun acc b => match acc with
    | a :: t => if b.lo ≤ a.hi then { a with hi := max a.hi b.hi } :: t else b :: acc
    | [] => [b]) []).reverse

/-- The entries an operation takes, with the pre-image half for a selected one (R286). -/
def Desc.entries (c : Desc) (pre : Option (Nat × Nat)) : List SbEntry :=
  let role (p : Bool) := joinRanges (sortBy (·.lo)
    (((c.regions.filter fun r => c.produces r.1 == p && decide (0 < r.2.2)).map
      fun r => ⟨r.2.1, r.2.1 + r.2.2, p, false⟩)))
  role true ++ role false ++ (match pre with
    | some (o, n) => [⟨o, o + n, true, true⟩]
    | none => [])

/-! ## What an operation computes -/

/-- Pattern and padding of A at (row, k) (R65, R80, R81). Bits of PAD_VAL above the width of A_FMT are ignored for
a format outside the microscaling group. DESIGN CHOICE (log 96). -/
def Dev.aElem (d : Dev) (base : Nat) (c : Desc) (row k : Nat) : Nat :=
  if c.conv then
    let ch := 32 * c.cin
    let ty := k / ch / c.kw
    let tx := k / ch % c.kw
    let y := row / c.outW * c.sh + ty * c.dh
    let x := row % c.outW * c.sw + tx * c.dw
    if y < c.pt ∨ c.inH + c.pt ≤ y ∨ x < c.pl ∨ c.inW + c.pl ≤ x then bits c.pad 0 (fmtBits c.aF)
    else d.elem (base + c.a) c.aF (((y - c.pt) * c.inW + (x - c.pl)) * ch + k % ch)
  else d.elem (base + c.a) c.aF (row * c.k + k)

/-- MX scale byte of A's block `kb` of a row; padding has scale 0x7F (R81). -/
def Dev.aScale (d : Dev) (base : Nat) (c : Desc) (row kb : Nat) : Nat :=
  if c.conv then
    let ty := kb / c.cin / c.kw
    let tx := kb / c.cin % c.kw
    let y := row / c.outW * c.sh + ty * c.dh
    let x := row % c.outW * c.sw + tx * c.dw
    if y < c.pt ∨ c.inH + c.pt ≤ y ∨ x < c.pl ∨ c.inW + c.pl ≤ x then 0x7F
    else (d.rd (base + c.aSc + ((y - c.pt) * c.inW + (x - c.pl)) * c.cin + kb % c.cin)).toNat
  else (d.rd (base + c.aSc + row * (c.k / 32) + kb)).toNat

/-- Place of the leading bit of a finite non-zero value. -/
def Fp.lead : Fp → Option Int
  | .fin _ m e => if m = 0 then none else some (e + Nat.log2 m)
  | _ => none

/-- Whether a value is a zero of a sign. -/
def Fp.zeroOf (neg : Bool) : Fp → Bool
  | .fin s m _ => m == 0 && s == neg
  | _ => false

/-- What a block sum starts from: a sum of zeros alone is −0 only where each of the 32 products is −0 (R70); a
repeat pass mirrors that (R285). -/
def sumZero (rep : Bool) (ps : List Fp) : Fp :=
  .fin (if ps.length = 32 ∧ ps.all (Fp.zeroOf !rep) = true then !rep else rep) 0 0

/-- Sum of a block's products (R67, R70): exact, but for BF16 a window under the leading bit of the largest
product, with the bits below it in a sticky bit. Of the two ends that R67 gives the window, which 88 bits do not
hold together with the sum of 32 products, the model keeps the low one and lets the sum not wrap.
DEDUCED (log 95). -/
def blockSum (rep bf : Bool) (ps : List Fp) : Fp :=
  let exact := ps.foldl (Fp.addR rep) (sumZero rep ps)
  if !bf then exact
  else if ps.any (fun p => match p with
      | .fin _ _ _ => false
      | _ => true) then exact
  else
    match (ps.filterMap Fp.lead).max? with
    | none => exact
    | some top =>
      let u := top - 86
      let part (p : Fp) : Int × Bool := match p with
        | .fin s m e =>
          if e ≥ u then (shl (sgn s m) (e - u), false)
          else (sgn s (m / 2 ^ (u - e).toNat), decide (m % 2 ^ (u - e).toNat ≠ 0))
        | _ => (0, false)
      let sum := ps.foldl (fun n p => n + (part p).1) 0
      let sticky := ps.any fun p => (part p).2
      let neg := decide (sum < 0) || (decide (sum = 0) && rep)
      ofSig rep (sgn neg (2 * sum.natAbs + b2n sticky)) (u - 1)

/-- One block's contribution with its MX scales (R68); a scale of 0xFF makes it NaN (R70). -/
def scaled (c : Desc) (sa sb : Nat) (x : Fp) : Fp :=
  if isMx c.aF then (if sa = 255 ∨ sb = 255 then .nan else x.scale ((sa : Int) + sb - 254)) else x

/-- FP32 accumulation of a dot product in ascending K order (R69): operand values by index, scale
bytes by block; `rep` in a repeat pass (R285). -/
def dotFp (rep : Bool) (c : Desc) (len : Nat) (av bv : Nat → Fp) (sa sb : Nat → Nat) (init : Nat) : Nat :=
  (List.range (ceilDiv len 32)).foldl (fun acc kb =>
    let ks := (List.range 32).map (kb * 32 + ·) |>.filter (· < len)
    let s := blockSum rep (c.aF = 8) (ks.map fun k => Fp.mul (av k) (bv k))
    enc32 (Fp.addR rep (dec32 acc) (scaled c (sa kb) (sb kb) s))) init

/-- Symmetric saturation of the INT32 accumulator (R71). -/
def satInt (v : Int) : Int := max (-(2 ^ 31 - 1)) (min (2 ^ 31 - 1) v)

/-- INT32 accumulation in ascending K order with its SAT flag (R71). -/
def dotInt (len : Nat) (av bv : Nat → Int) (init : Int) : Int × Bool :=
  (List.range (ceilDiv len 32)).foldl (fun (acc : Int × Bool) kb =>
    let ks := (List.range 32).map (kb * 32 + ·) |>.filter (· < len)
    let s := acc.1 + ks.foldl (fun n k => n + av k * bv k) 0
    (satInt s, acc.2 || decide (satInt s ≠ s))) (init, false)

/-- Steps 1 and 2 of the output stage (R75) on an accumulator pattern. -/
def Dev.stage (d : Dev) (base : Nat) (c : Desc) (col acc : Nat) : Nat :=
  let a := if c.intAcc then int32ToFp (signed 32 acc) else acc
  let s := if c.chScale then d.rdN (base + c.cs + 4 * col) 4 else c.scale
  let b := if c.biasEn then d.rdN (base + c.bias + 4 * col) 4 else 0
  let y := enc32 (Fp.add (Fp.mul (dec32 a) (dec32 s)) (dec32 b))
  if c.act = 1 then (if isNan32 y ∨ lt32 0 y then y else 0) else y

/-- Integer nearest to an FP32 value times 2^k, ties to even; saturated to [lo, hi]. -/
def toIntSat (x : Fp) (lo hi : Int) : Int × Bool :=
  match x with
  | .nan => (0, false)
  | .inf s => (if s then lo else hi, true)
  | .fin s m e =>
    let v := sgn s (if e ≥ 0 then m * 2 ^ e.toNat else rne m (-e).toNat)
    (max lo (min hi v), decide (v < lo ∨ hi < v))

/-- Step 3 of the output stage for a format without a shared scale: pattern, SAT, NAN (R75). A NaN takes the
pattern 0x7FC0 in BF16 and 0x7E00 in FP16. DESIGN CHOICE (log 96). -/
def convert (f y : Nat) : Nat × Bool × Bool :=
  let x := dec32 y
  match f with
  | 0 => if x.isNan then (Config.nanInt8 y % 256, false, true)
    else let r := toIntSat x (-128) 127; (unsigned 8 r.1, r.2, false)
  | 8 => (encodeFp 8 7 127 0x7FC0 (fmtBf.round true x), false, x.isNan)
  | 9 => (encodeFp 5 10 15 0x7E00 (fmt16.round true x), false, x.isNan)
  | 10 => (encodeFp 8 23 127 0x7FC00000 (fmt32.round true x), false, x.isNan)
  | _ => (y, false, false)

/-- emax of an MX output format (R75). -/
def mxEmax (f : Nat) : Int := if f = 3 then 8 else if f = 4 then 15 else 0

/-- The E8M0 byte of a group of FP32 patterns (R75). -/
def mxScale (f : Nat) (ys : List Nat) : Nat :=
  if ys.any isNan32 then 255
  else
    let e : List Int := ys.filterMap fun y => match dec32 y with
      | .inf _ => some 128
      | x => x.lead
    match e.max? with
    | none => 0
    | some t => (max (-127) (min 127 (t - mxEmax f)) + 127).toNat

/-- One element of an MX group under its scale byte (R75). -/
def mxElem (f sc y : Nat) : Nat :=
  if sc = 255 then 0
  else
    let x := (dec32 y).scale (127 - (sc : Int))
    match f with
    | 2 => unsigned 8 (toIntSat (x.scale 6) (-127) 127).1
    | 3 => encodeFp 4 3 7 0x7F (fmtE4.round true x)
    | _ => encodeFp 5 2 15 0x7F (fmtE5.round true x)

/-- A value negated in a repeat pass (R283). -/
def Fp.neg? (rep : Bool) (x : Fp) : Fp := if rep then x.neg else x
/-- An integer negated in a repeat pass. -/
def neg? (rep : Bool) (v : Int) : Int := if rep then -v else v
/-- An FP32 pattern negated in a repeat pass; a NaN becomes the canonical one (R285). -/
def negF? (rep : Bool) (v : Nat) : Nat := if rep then enc32 (dec32 v).neg else v

/-- An input value of a Winograd operation in FP32 with its MX scale; padding is PAD_VAL (R81, R83). -/
def Dev.winoVal (d : Dev) (base : Nat) (c : Desc) (y x ch : Nat) : Nat :=
  if y < c.pt ∨ c.inH + c.pt ≤ y ∨ x < c.pl ∨ c.inW + c.pl ≤ x then
    enc32 (elemVal c.aF (bits c.pad 0 (fmtBits c.aF)))
  else
    let p := (y - c.pt) * c.inW + (x - c.pl)
    let v := elemVal c.aF (d.elem (base + c.a) c.aF (p * (32 * c.cin) + ch))
    if isMx c.aF then
      let s := (d.rd (base + c.aSc + p * c.cin + ch / 32)).toNat
      enc32 (if s = 255 then .nan else v.scale ((s : Int) - 127))
    else enc32 v

/-- Rows and columns of an output tile of a Winograd operation (R82). -/
def Desc.winoTile (c : Desc) : Nat := if c.op = 3 then 4 else 2

/-- The operand format of the transformed input: INT8 becomes MXINT8 (R83). -/
def Desc.winoFmt (c : Desc) : Nat := if c.aF = 0 then 2 else c.aF

/-- The accumulators of the 36 or 16 element-wise products for an input tile and a column (R83): each transformed
value is re-quantised, with one scale per 32 channels in an MX format, and multiplied with the matrix of its
position. The matrices lie in row-major order of the positions. DESIGN CHOICE (log 22). -/
def Dev.winoAccs (d : Dev) (rep : Bool) (base : Nat) (c : Desc) (ty tx col : Nat) : List Nat :=
  let m := c.winoTile
  let side := m + 2
  let ch := 32 * c.cin
  let f := c.winoFmt
  let tile (k : Nat) : List Nat := (List.range (side * side)).map fun i =>
    d.winoVal base c (ty * m + i / side) (tx * m + i % side) k
  (List.range (side * side)).map fun p =>
    let t (k : Nat) : Nat := Config.winoIn c.op (tile k) p % 2 ^ 32
    let sc (kb : Nat) : Nat := mxScale f ((List.range 32).map fun k => t (32 * kb + k))
    let a (k : Nat) : Fp := if isMx f then elemVal f (mxElem f (sc (k / 32)) (t k)) else elemVal f (convert f (t k)).1
    let bi := (p * c.n + col) * ch
    negF? rep (dotFp rep { c with aF := f } ch a
      (fun k => (elemVal c.bF (d.elem (base + c.b) c.bF (bi + k))).neg? rep) sc
      (fun kb => (d.rd (base + c.bSc + bi / 32 + kb)).toNat) (negF? rep 0))

/-- The accumulator of one output (row, column) as a pattern, with SAT. `accBase` is where a loaded
accumulator is read: ACC, or the pre-image for a repeat or third pass (R283). In a repeat pass B and the loaded
accumulator are negated and the result is negated back (R91, R285). A loaded accumulator of a Winograd operation is
added after the output transform with one FP32 rounding. DESIGN CHOICE (log 22). -/
def Dev.accum (d : Dev) (rep : Bool) (base : Nat) (c : Desc) (accBase row col : Nat) : Nat × Bool :=
  let init := if c.accLoad then d.rdN (accBase + 4 * (row * c.n + col)) 4 else 0
  if c.wino then
    let m := c.winoTile
    let y := row / c.outW
    let x := row % c.outW
    let v := Config.winoOut c.op (d.winoAccs rep base c (y / m) (x / m) col) (y % m) (x % m) % 2 ^ 32
    (if c.accLoad then add32 init v else v, false)
  else if c.intAcc then
    let r := dotInt c.red (fun k => signed (fmtBits c.aF) (d.aElem base c row k))
      (fun k => neg? rep (signed (fmtBits c.bF) (d.elem (base + c.b) c.bF (col * c.red + k)))) (neg? rep (signed 32 init))
    (unsigned 32 (neg? rep r.1), r.2)
  else
    (negF? rep (dotFp rep c c.red (fun k => elemVal c.aF (d.aElem base c row k))
      (fun k => (elemVal c.bF (d.elem (base + c.b) c.bF (col * c.red + k))).neg? rep)
      (fun kb => d.aScale base c row kb)
      (fun kb => (d.rd (base + c.bSc + col * (c.red / 32) + kb)).toNat) (negF? rep init)), false)

/-- A write on the engine's output bus: offset and bytes (R291). -/
abbrev Beat := Nat × List Byte

/-- The output of a row-major array of FP32 results (or INT32 patterns) in OUT_FMT: the beats of
32 columns in row order, then the scale writes, with SAT and NAN. The clamp of an MXINT8 element does not
report SAT. DESIGN CHOICE (log 96). -/
def outBeats (f out rows cols : Nat) (y : Nat → Nat → Nat) : List Beat × Bool × Bool :=
  let groups := (List.range rows).flatMap fun r => (List.range (ceilDiv cols 32)).map fun g => (r, g)
  let colsOf (g : Nat) := ((List.range 32).map (g * 32 + ·)).filter (· < cols)
  let w := fmtBits f / 8
  if isMx f then
    let rows' := groups.map fun e =>
      let ys := (colsOf e.2).map (y e.1)
      let sc := mxScale f ys
      ((out + e.1 * cols + e.2 * 32, ys.map fun v => BitVec.ofNat 8 (mxElem f sc v)),
       (out + roundUp (rows * cols) 64 + e.1 * (cols / 32) + e.2, [BitVec.ofNat 8 sc]), ys.any isNan32)
    (rows'.map (·.1) ++ rows'.map (·.2.1), false, rows'.any (·.2.2))
  else
    let rows' := groups.map fun e =>
      let vs := (colsOf e.2).map fun k => convert f (y e.1 k)
      ((out + (e.1 * cols + e.2 * 32) * w, vs.flatMap fun v => toLE w v.1),
       vs.any (·.2.1), vs.any (·.2.2))
    (rows'.map (·.1), rows'.any (·.2.1), rows'.any (·.2.2))

/-- Output tiles of 32 rows and 32 columns, in row-group-major order (R473). -/
def Desc.tiles (c : Desc) : Nat := ceilDiv c.rows 32 * ceilDiv c.cols 32

/-- The output tile in which beat `j` of a pass is produced, and its logical row (R473): the outputs by row and
column group, then their scale writes; for ATTN_STEP O, then the row statistics, with the last column group of their
row, then the final output. DEDUCED (log 23). -/
def Desc.placeOf (c : Desc) (j : Nat) : Nat × Nat :=
  let g := ceilDiv c.cols 32
  let n := c.rows * g
  let out (i : Nat) := (i % n / g / 32 * g + i % g, i % n / g)
  if c.attn = false ∨ j < n then out j
  else if j < n + c.m then ((j - n) / 32 * g + (g - 1), j - n)
  else out (j - n - c.m)

/-- Whether an entry of ATTN_STEP is masked (R213, R214). -/
def Desc.masked (c : Desc) (i j : Nat) : Bool :=
  let qp := c.qpos + i
  let kp := c.kpos + j
  match c.mask with
  | 0 => false
  | 1 => decide (qp < kp)
  | 2 => decide (qp < kp) || decide (c.window ≤ qp - kp)
  | _ => decide (c.window ≤ kp)

/-- Whether a step is fully masked (R213). DEDUCED (log 47). -/
def Desc.fullMask (c : Desc) : Bool :=
  c.attn && (match c.mask with
  | 0 => false
  | 1 => decide (c.qpos + c.m - 1 < c.kpos)
  | 2 => decide (c.qpos + c.m - 1 < c.kpos) || decide (c.kpos + c.n - 1 + c.window ≤ c.qpos)
  | _ => decide (c.window ≤ c.kpos))

/-- One row of ATTN_STEP (R93): O, m and l after it. `accB` and `csB` say where O and the row
statistics are read. The row sum adds p[j] in ascending j from zero, and its total is then added to l × c; a
block of V whose columns are all masked takes no part with its scale (R214). A score that is a NaN takes no part in
the maximum. DEDUCED (log 47). DESIGN CHOICE (log 96). -/
def Dev.attnRow (d : Dev) (rep : Bool) (base : Nat) (c : Desc) (accB csB i : Nat) : List Nat × Nat × Nat :=
  let m0 := if c.accLoad then d.rdN (csB + 8 * i) 4 else ninf32
  let l0 := if c.accLoad then d.rdN (csB + 8 * i + 4) 4 else 0
  let o0 := (List.range c.k).map fun x => if c.accLoad then d.rdN (accB + 4 * (i * c.k + x)) 4 else 0
  let js := List.range c.n
  if js.all (c.masked i) then (o0, m0, l0)
  else
    let s := js.map fun j =>
      if c.masked i j then ninf32
      else mul32 c.scale (dotFp false c c.k (fun k => elemVal c.aF (d.elem (base + c.a) c.aF (i * c.k + k)))
        (fun k => elemVal c.bF (d.elem (base + c.b) c.bF (j * c.k + k)))
        (fun kb => (d.rd (base + c.aSc + i * (c.k / 32) + kb)).toNat)
        (fun kb => (d.rd (base + c.bSc + j * (c.k / 32) + kb)).toNat) 0)
    let mN := (s.foldl max32 m0)
    let cf := if m0 = ninf32 ∧ mN = ninf32 then one32 else exp32 (sub32 m0 mN)
    let p := s.map fun v => if v = ninf32 then 0 else exp32 (sub32 v mN)
    let l := add32 (mul32 l0 cf) (p.foldl add32 0)
    -- p in B_FMT, one scale per 32 columns for an MX format
    let pv (j : Nat) : Fp :=
      let g := (p.drop (j / 32 * 32)).take 32
      if isMx c.bF then elemVal c.bF (mxElem c.bF (mxScale c.bF g) (p.getD j 0))
      else elemVal c.bF (convert c.bF (p.getD j 0)).1
    let ps (kb : Nat) : Nat := mxScale c.bF ((p.drop (kb * 32)).take 32)
    let vb := base + c.bias
    let vsc := vb + roundUp (fmtBytes c.bF (c.k * c.n)) 64
    let o := (List.range c.k).map fun x =>
      negF? rep (dotFp rep { c with aF := c.bF } c.n pv
        (fun j => (if c.masked i j then Fp.zero else elemVal c.bF (d.elem vb c.bF (x * c.n + j))).neg? rep)
        ps (fun kb => if (List.range 32).all fun j => c.masked i (32 * kb + j) then 127
          else (d.rd (vsc + x * (c.n / 32) + kb)).toNat) (mul32 (negF? rep (o0.getD x 0)) cf))
    (o, mN, l)

/-- The cell that computes a logical row under a rotation, as a row of the same group of 32 (R284). -/
def cellOf (rot i : Nat) : Nat := i / 32 * 32 + (i % 32 + rot) % 32
/-- The logical row that a cell computes under a rotation. -/
def rowIn (rot x : Nat) : Nat := x / 32 * 32 + (x % 32 + (32 - rot % 32)) % 32

/-- Every write of a pass with SAT and NAN: GEMM and convolutions (R75), ATTN_STEP (R93, R94, R215). Each logical
row is computed in the cell that the rotation gives it, and the bus carries it in its logical place (R283).
`accB` and `csB` are where the loaded accumulator and statistics are read; `rep` in a repeat pass. OUT_SCALE does not
multiply O / l. DEDUCED (log 21, 47). DESIGN CHOICE (log 22, 96). -/
def Dev.passBeats (d : Dev) (rep : Bool) (rot base : Nat) (c : Desc) (accB csB : Nat) : List Beat × Bool × Bool :=
  if c.attn then
    if c.fullMask ∧ c.final = false then ([], false, false)
    else
      let rows := (List.range c.m).map fun i => d.attnRow rep base c accB csB (rowIn rot (cellOf rot i))
      let o (i x : Nat) : Nat := ((rows.getD i ([], 0, 0)).1).getD x 0
      let l (i : Nat) : Nat := (rows.getD i ([], 0, 0)).2.2
      let m (i : Nat) : Nat := (rows.getD i ([], 0, 0)).2.1
      let stat (i : Nat) : Nat :=
        if c.final then (if (dec32 (l i)).isZero then ninf32 else add32 (m i) (ln32 (l i)))
        else m i
      let fin := if c.final then outBeats c.oF c.out c.m c.k
          (fun i x => if (dec32 (l i)).isZero then 0 else div32 (o i x) (l i))
        else ([], false, false)
      let os := (outBeats 11 c.acc c.m c.k o).1
      let ss := (List.range c.m).map fun i => (c.cs + 8 * i, toLE 4 (stat i) ++ toLE 4 (l i))
      (os ++ ss ++ fin.1, false, rows.any (fun r => r.1.any isNan32) || fin.2.2)
  else
    let acc (r k : Nat) := d.accum rep base c accB (rowIn rot (cellOf rot r)) k
    let sat := c.intAcc && (List.range c.rows).any fun r => (List.range c.n).any fun k => (acc r k).2
    if c.oF = 11 then
      let b := outBeats 11 c.out c.rows c.n fun r k => (acc r k).1
      (b.1, sat, false)
    else
      let b := outBeats c.oF c.out c.rows c.n fun r k => d.stage base c k (acc r k).1
      let lost := !c.intAcc && (List.range c.rows).any fun r => (List.range c.n).any fun k =>
        isNan32 (acc r k).1 || (c.wino && (d.winoAccs rep base c (r / c.outW / c.winoTile) (r % c.outW / c.winoTile) k).any isNan32)
      (b.1, sat || b.2.1, lost || b.2.2)

/-- Every write of a first pass. -/
def Dev.engBeats (d : Dev) (base : Nat) (c : Desc) (accB csB : Nat) : List Beat × Bool × Bool :=
  d.passBeats false 0 base c accB csB

/-! ## Time of an operation, for the estimate of R296 -/

/-- kb of R78 and R81. -/
def Desc.kb (c : Desc) : Nat :=
  let k := if c.wino then 32 * c.cin else c.red
  if !c.wino ∧ fmtBits c.aF = 4 ∧ fmtBits c.bF = 4 then ceilDiv k 64
  else if is16 c.aF then ceilDiv k 32 * 4 else ceilDiv k 32

/-- Arithmetic cycles of one pass (R78, R81, R84, R95, R215). -/
def Desc.cycles (c : Desc) : Nat :=
  if c.attn then
    if c.fullMask then (if c.final then 40 + ceilDiv c.m 32 * ceilDiv c.k 32 else 4)
    else 2 * ceilDiv c.m 32 * ceilDiv c.n 32 * ceilDiv c.k 32 * (if is16 c.aF then 4 else 1) + 40
  else if c.wino then
    let m := c.winoTile
    let t := ceilDiv c.outH m * ceilDiv c.outW m
    (if c.op = 3 then 36 else 16) * ceilDiv t 32 * ceilDiv c.n 32 * c.kb + 64
  else ceilDiv c.rows 32 * ceilDiv c.n 32 * c.kb + 24

/-- Bytes copied in for a third pass: input regions and pre-image (R296). -/
def Desc.copyIn (c : Desc) : Nat :=
  (c.regions.filter fun r => !c.produces r.1 && !(c.accLoad && r.1 == .acc)).foldl
    (fun n r => n + r.2.2) 0 + c.preimage
/-- Bytes copied back: producer regions other than the pre-image. -/
def Desc.copyOut (c : Desc) : Nat := (c.regions.filter fun r => c.produces r.1).foldl (fun n r => n + r.2.2) 0

/-- Arbitration time in ns (R296): 32 GB/s for copies, 4 ns per arithmetic cycle. -/
def Desc.arbNs (c : Desc) : Nat := ceilDiv c.copyIn 32 + 4 * c.cycles + ceilDiv c.copyOut 32

end Sys2Proof.Machine
end

