-- ==== Sys2Proof/Machine/Engine.lean ====
section
/-! DEFINITION. Matrix engines (R59 to R101): issue and the order of starting, the descriptor checks,
passes and their results, residue handling, withdrawal from the dynamic pool, and what an operation
reports to the tracker. Scratchpad error correction (R126) stands here, since engines and threads
share it. -/

namespace Sys2Proof.Machine

/-! ## Scratchpad error correction -/

/-- Scratchpad, bank, row and word of an offset in a block window (R25, R115). DEDUCED (log 25). -/
def spPlace (o : Nat) : Nat × Nat × Nat × Nat :=
  if o < 0x80000 then (4, bits o 6 4, o / 1024 / 8, o / 1024 % 8 * 8 + o % 64 / 8)
  else
    let q := o % 0x20000
    ((o - 0x80000) / 0x20000, bits q 6 2, q / 256 / 8, q / 256 % 8 * 8 + q % 64 / 8)

/-- Key of a row in the row tables: (scratchpad × 16 + bank) × 64 + row. -/
def rowKey (sp bank row : Nat) : Nat := (sp * 16 + bank) * 64 + row

/-- A row is due for repair (R128). DEDUCED (log 25). -/
def Block.rowFails (k : Block) (r : Nat) : Block :=
  if r ∈ k.rowDue then k else { k with rowDue := k.rowDue ++ [r] }

/-- What a read of a scratchpad word finds (R126): a single-bit error is corrected and counted, a
double-bit error poisons its granule; R128 makes rows due for repair. DEDUCED (log 25). -/
def Dev.sramEcc (d : Dev) (b : Nat) (f : EccFinding) : Dev :=
  if target f.addr ≠ .spad b then d
  else
    let (sp, bank, row, word) := spPlace (spadOff f.addr)
    let r := rowKey sp bank row
    let d := d.setReg (R.spLastErr b)
      (sp + b2n f.double * 8 + bank * 16 + row * 256 + word * 16384 + f.syndrome % 256 * 1048576)
    if f.double then
      let d := (d.bump (R.spUe b)).setPoison (granule f.addr) true
      (d.evBlk 2 0x2081 b [sp, bank, row, word, f.syndrome]).modBlk b fun k => k.rowFails r
    else
      let d := (d.bump (R.spCe b)).evBlk 1 0x2080 b [sp, bank, row, word, f.syndrome]
      d.modBlk b fun k =>
        let n := tget (fun _ => 0) k.rowCe r + 1
        let k := { k with rowCe := tset (fun _ => 0) k.rowCe r n }
        if n = 8 then k.rowFails r else k

/-- Every finding of a list. -/
def Dev.sramEccs (d : Dev) (b : Nat) (fs : List EccFinding) : Dev := fs.foldl (fun d f => d.sramEcc b f) d

/-! ## Units and operations -/

/-- Two records of one engine operation. -/
def EngOp.same (x y : EngOp) : Bool := x.token == y.token && x.seq == y.seq && x.desc == y.desc && x.ord == y.ord

/-- Change one engine operation of a block. -/
def Dev.modEng (d : Dev) (b : Nat) (e : EngOp) (f : EngOp → EngOp) : Dev :=
  d.modBlk b fun k => { k with eng := mapIf e.same f k.eng }

/-- The operation that occupies the engine's array: its own running pass, or the third pass it runs
for another block's operation (R295), with the block of the first pass. -/
def Dev.current (d : Dev) (b : Nat) : Option (Nat × EngOp) :=
  match (d.blk b).eng.find? fun e => e.stage = .running ∨ e.stage = .repeating with
  | some e => some (b, e)
  | none => match (d.blk b).arbFor with
    | some (h, tok) => ((d.blk h).eng.find? fun e => e.token = tok ∧ e.stage = .third ∧ e.arb = some b).map
        fun e => (h, e)
    | none => none

/-- Write an operation's beats to the scratchpad at `base`. A granule that the operation's output
covers whole loses its poison (R126). -/
def Dev.writeBeats (d : Dev) (base : Nat) (c : Desc) (beats : List Beat) : Dev :=
  let d := beats.foldl (fun d x => d.wr (base + x.1) x.2) d
  if beats = [] then d
  else (c.regions.filter fun r => c.produces r.1).foldl (fun d r =>
    (granules (base + r.2.1) r.2.2).foldl (fun d g =>
      if base + r.2.1 ≤ g * 64 ∧ g * 64 + 64 ≤ base + r.2.1 + r.2.2 then d.setPoison g false else d) d) d

/-! ## Ending operations -/

/-- The block whose scratchpad a pass writes: the engine's own for a first pass, the arbitration engine's for a
third pass; a repeat writes none (R283). -/
def EngOp.writes (e : EngOp) (b : Nat) : Option Nat :=
  match e.stage with
  | .running => some b
  | .third => e.arb
  | _ => none

/-- Whether residue handling is in progress on a beat of an operation of engine `b` (R62, R90). -/
def Dev.holding (d : Dev) (b : Nat) (e : EngOp) : Bool :=
  match e.stage with
  | .running => (d.blk b).beats != []
  | .repeating => (d.blk b).beats != []
  | .third => (e.arb.map fun a => (d.blk a).beats != []).getD false
  | _ => false

/-- Rotation of an engine operation's repeat (R284). -/
def EngOp.rot (e : EngOp) : Nat := rotR e.token e.startW

/-- Rotation of the pass that an operation runs (R283, R284). -/
def EngOp.rotation (e : EngOp) : Nat :=
  match e.stage with
  | .repeating => e.rot
  | .third => rotR3 e.rot
  | _ => 0

/-- Offset and size in bytes of an engine's pre-image area (RX_PREIMG_n). -/
def Dev.preArea (d : Dev) (b : Nat) : Nat × Nat :=
  (d.fld (R.rxPreimg b) 0 7 * 4096, d.fld (R.rxPreimg b) 7 7 * 4096)

/-- Range of the pre-image of an operation in its half. -/
def Dev.preRange (d : Dev) (b half : Nat) (c : Desc) : Option (Nat × Nat) :=
  if c.preimage = 0 then none
  else some ((d.preArea b).1 + half * ((d.preArea b).2 / 2), c.preimage)

/-- Offsets at which a pass of an operation of engine `b` reads the loaded accumulator and the row statistics: in its
first pass ACC and CSCALE, in a repeat or third pass the pre-image (R283, R286). -/
def Dev.accAt (d : Dev) (b : Nat) (e : EngOp) (first : Bool) : Nat × Nat :=
  let c := descOf e.words
  match if first then none else d.preRange b e.half c with
  | some p => (p.1, p.1 + (c.region .acc).2)
  | none => (c.acc, c.cs)

/-- The writes of a pass of an operation of engine `b` that runs with the scratchpad of engine `x`, as its bus
carries them, with SAT and NAN (R283). -/
def Dev.opBeats (d : Dev) (b x : Nat) (e : EngOp) : List Beat × Bool × Bool :=
  let at_ := d.accAt b e (e.stage == .running)
  d.passBeats (e.stage == .repeating) e.rotation (blockBase x) (descOf e.words) (blockBase x + at_.1) (blockBase x + at_.2)

/-- The beats that an operation had written when it ended before its end (R86): those of the first output tiles, as
many as its time had let pass, which the model leaves free, and of the tile in which a beat failed; but no beat that
failed. DEDUCED (log 23). -/
def Dev.cutBeats (d : Dev) (b : Nat) (e : EngOp) : Dev :=
  match e.writes b with
  | none => d
  | some x =>
    let c := descOf e.words
    let (n, d) := d.fresh
    let failed := e.unwritten ++ (d.blk x).beats.map fun h => (h.tile, h.cell)
    let lo := (failed.map (·.1 + 1)).foldl max 0
    let done := lo + n % (c.tiles + 1 - lo)
    let left := (d.opBeats b x e).1.zipIdx.filter fun y =>
      let p := c.placeOf y.2
      decide (p.1 < done) && !failed.contains (p.1, (p.2 + e.rotation) % 32)
    left.foldl (fun d y => d.wr (blockBase x + y.1.1) y.1.2) d

/-- A tracker entry of a launched operation is free again (R145). -/
def Op.freeKid (o : Op) (e : EngOp) : Op :=
  match e.entry with
  | some x => { o with kids := o.kids.filter (· ≠ x) }
  | none => o

/-- An operation leaves its engine without a report: its entries are freed, its outputs poisoned (R302). -/
def Dev.dropEng (d : Dev) (b : Nat) (e : EngOp) : Dev :=
  let d := ((d.cutBeats b e).poisonOut b e).freeArb b e
  d.modBlk b fun k => Block.admitWaiting { k with eng := k.eng.filter fun x => !e.same x }

/-- End the engine operations of a block that satisfy `p`: no record is written for them. One whose beat is
held ends when its handling has finished (R62). -/
def Dev.killEng (d : Dev) (b : Nat) (p : EngOp → Bool) : Dev :=
  ((d.blk b).eng.filter fun e => p e && !e.dead).foldl (fun d e =>
    let d := d.modOp e.token fun o => { o.freeKid e with launches := o.launches - (if e.src = .launch then 0 else 1) }
    if d.holding b e then d.modEng b e fun x => { x with dead := true } else d.dropEng b e) d

/-- End an operation from outside or by its own terminal event: the status is decided, its thread is
freed (a static thread restarts at its entry, R470), and with `kill` its engine operations end with it
(R151), else they run to their end (R130). An operation that waits at dispatch takes its tracker entry
there for its record. -/
def Dev.endOp (d : Dev) (k st : Nat) (kill : Bool) : Dev :=
  let o := d.op k
  if o.used = false ∨ o.status ≠ none then d
  else
    let d := d.settle k st
    match o.block with
    | none => d
    | some b =>
      let d := if kill then d.killEng b (fun e => e.token = k) else d
      match o.thread with
      | none => d.releaseBlk b
      | some n =>
        let st := ((d.blk b).thr n).static
        let d := if ((d.blk b).thr n).op = some k then (d.modBlk b fun q => q.freeThr n).unwait (· == (b, n)) else d
        match st with
        | some c => d.startStatic b n c
        | none => d.releaseBlk b

/-- The partition ID of an operation's accesses in a block (R113): static work carries the one that the block's
current SLOT_BEGIN names. -/
def Dev.idPart (d : Dev) (b : Nat) (static : Bool) (part : Nat) : Nat :=
  if static then (d.blk b).slotPart.getD part else part

/-- The checking-fraction code of a partition (R20, R287). -/
def Dev.fraction (d : Dev) (p : Nat) : Nat := (d.part p).fraction

/-- The static context of a partition (R143); 0xFFFF where there is none. -/
def Dev.staticCtx (d : Dev) (p : Nat) : Nat :=
  ((d.ctxs.find? fun e => e.2.static ∧ e.2.part = p ∧ e.2.state = 1).map (·.1)).getD 0xFFFF

/-- The descriptor words at an offset; none where R76 forbids reading it. -/
def Dev.descWords (d : Dev) (b off : Nat) : List Nat :=
  if 0x80000 ≤ off ∨ off % 64 ≠ 0 then [] else (d.desc b off).words

/-- Whether an operation's pre-image exceeds half of the area (R289). -/
def Dev.inelig (d : Dev) (b : Nat) (c : Desc) : Bool := decide (0 < c.preimage ∧ (d.preArea b).2 / 2 < c.preimage)

/-- Whether an operation has started and its comparison has not ended (R290). -/
def EngOp.held (e : EngOp) : Bool := e.selected && e.stage != .waiting && e.stage != .pending

/-- The half of the signature buffer and of the pre-image area for a selected operation that starts: the
lower one unless another held operation has it (R286, R291). DEDUCED (log 24). -/
def Block.half (k : Block) : Nat :=
  if k.eng.any fun e => e.held && e.half == 0 then 1 else 0

/-- An engine operation as it is issued, with its scoreboard entries: a selected one takes the pre-image area whole
until its half is known at its start. -/
def Dev.mkEng (d : Dev) (b : Nat) (e : EngOp) (selected : Bool) : EngOp :=
  let w := d.descWords b e.desc
  let c := descOf w
  { e with
    words := w, selected := selected
    entries := if w = [] then []
      else c.entries (if selected && decide (0 < c.preimage) then some (d.preArea b) else none) }

/-- The entries of a selected operation that starts with a half of the pre-image area. -/
def Dev.inHalf (d : Dev) (b half : Nat) (e : EngOp) : List SbEntry :=
  e.entries.map fun x =>
    if x.pre then (match d.preRange b half (descOf e.words) with
      | some (o, n) => { x with lo := o, hi := o + n }
      | none => x)
    else x

/-- Whether a GW.ELAUNCH operation would be selected, and whether the counter c advances (R288,
R289, R304). DEDUCED (log 24, 59). -/
def Dev.coreSelect (d : Dev) (b part off : Nat) : Bool × Bool :=
  let k := d.fraction part
  let w := d.descWords b off
  if k = 0 ∨ (d.part part).debug ∨ (w ≠ [] ∧ d.inelig b (descOf w)) then (false, false)
  else ((d.blk b).selCnt % 2 ^ (5 - k) = 0, true)

/-- The first descriptor error with the eligibility check of R289 last; 0 for none. DEDUCED (log 20). -/
def Dev.engError (d : Dev) (b : Nat) (e : EngOp) : Nat :=
  if 0x80000 ≤ e.desc then 4 else if e.desc % 64 ≠ 0 then 8
  else
    let c := descOf e.words
    if c.error ≠ 0 then c.error else if d.fraction e.part = 5 ∧ d.inelig b c then 9 else 0

/-- The status of a task that ended by itself while an engine operation of it still ran, once that operation has
ended with `st` (R107, R109, R292, R470). -/
def foldStatus (cur st : Nat) : Nat :=
  if !outputValid cur then cur
  else if !outputValid st then stPoisoned
  else if st = stUnchecked ∧ (cur = stDone ∨ cur = stReplayed) then stUnchecked else cur

/-- An engine operation ends and reports to the tracker (R61): its entries are freed, outputs of an
invalid status are poisoned (R302), counters follow, a core launch writes gwelast and may set the
poison flag (R107, R109), or its status enters that of an item that has ended without it (R470), and a launch-word
item's status is decided. DEDUCED (log 24). -/
def Dev.report (d : Dev) (b : Nat) (e : EngOp) (st : Nat) (compared : Bool) : Dev :=
  let outs := (e.entries.filter fun r => r.producer && !r.pre).map fun r => (blockBase b + r.lo, min r.hi 0x80000 - r.lo)
  let d := (if outputValid st then d else d.poisonOut b e).freeArb b e
  let d := d.modBlk b fun k => Block.admitWaiting { k with eng := k.eng.filter fun x => !e.same x, engMoved := true }
  let d := if st = stPoisoned then d.bump (R.mePoison b) else d
  let d := if st = stUnchecked then d.bump (R.rxUnchecked b) else d
  let d := if e.sat then d.bump (R.meSat b) else d
  let d := if e.nan then d.bump (R.meNan b) else d
  let d := d.modOp e.token fun o => { o.freeKid e with
    launches := if e.src = .launch then o.launches else o.launches - 1
    outs := o.outs ++ outs
    launched := o.launched + 1
    status := if e.src = .launch then o.status else o.status.map (foldStatus · st)
    checked := o.checked + b2n compared
    unchecked := o.unchecked || decide (st = stUnchecked)
    sat := o.sat || e.sat, nan := o.nan || e.nan }
  let d := match e.src with
    | .launch => d.settle e.token st
    | .core c t =>
      if ((d.blk b).thr (8 * c + t)).op = some e.token then
        d.modThr b (8 * c + t) fun h => { h with
          elast := e.seq + st * 65536 + b2n e.sat * 16777216 + b2n e.nan * 33554432 + 2147483648
          poison := h.poison || !outputValid st }
      else d
  d.releaseBlk b

/-- A strike of a physical engine (R300): kept with its powered hours; the third unexpired one writes
0x7004 and retires the engine (R301). DEDUCED (log 59). -/
def Dev.strike (d : Dev) (b : Nat) : Dev :=
  let h := d.chip.hours
  let live := (d.blk b).strikes.filter fun x => h - x ≤ 1000
  let all := live ++ [h]
  let d := d.modBlk b fun k => { k with strikes := all }
  if (d.blk b).svc = .retired ∨ all.length ≠ 3 then d
  else (d.evBlk 5 0x7004 b all).retireReq b 0x7004

/-! ## Starting an operation -/

/-- Selected operations of an engine that have started and whose comparison has not ended (R290). -/
def Block.held (k : Block) : Nat :=
  (k.eng.filter EngOp.held).length

/-- Whether an operation may start now, as its first pass or its repeat. -/
def Block.canStart (k : Block) (e : EngOp) : Bool :=
  (e.stage == .pending && (!e.selected || decide (k.held < 2))) ||
    (e.stage == .firstDone && (e.src != .launch || e.repReq))

/-- The key by which core-issued operations start (R16, R107): wingbeat of first issue, core, place of the issue. -/
def EngOp.issueKey (e : EngOp) : Nat :=
  match e.src with
  | .core c _ => (e.issueW * 4 + c) * 2 ^ 32 + e.ord
  | .launch => 0

/-- The place of the word that starts an operation's next pass: its ENGINE word, or its ENGINE_REPEAT word. -/
def EngOp.wordOrd (e : EngOp) : Nat := if e.stage == .firstDone then e.repOrd else e.ord

/-- The next operation of an engine (R60): launch words in the order in which they were executed, then repeats of
core-issued operations oldest first, then core issues by wingbeat of first issue and core. DEDUCED (log 20). -/
def Block.nextOp (k : Block) : Option EngOp :=
  let ready := k.eng.filter k.canStart
  (minBy? EngOp.wordOrd (ready.filter fun e => e.src == .launch)) <|>
    (ready.find? fun e => e.stage = .firstDone) <|> minBy? EngOp.issueKey ready

/-- Input regions of an operation: those it reads (R74, R92). -/
def Desc.inputs (c : Desc) : List (RegKind × Nat × Nat) :=
  c.regions.filter fun r => r.1 != .out &&
    !((r.1 == .acc || (c.attn && r.1 == .cscale)) && !c.accLoad)

/-- Copy ranges with their stored check codes: source, destination, bytes. A granule of the copy is poisoned where a
part of it comes from a poisoned granule. -/
def Dev.copyCoded (d : Dev) (parts : List (Nat × Nat × Nat)) : Dev :=
  let clear := parts.foldl (fun e p => (granules p.2.1 p.2.2).foldl (fun e g => e.setPoison g false) e) d
  parts.foldl (fun e p =>
    let e := e.wr p.2.1 (d.rdBytes p.1 p.2.2)
    (granules p.2.1 p.2.2).foldl (fun e g =>
      let lo := max p.2.1 (g * 64)
      let hi := min (p.2.1 + p.2.2) (g * 64 + 64)
      if d.anyPoison (p.1 + (lo - p.2.1)) (hi - lo) then e.setPoison g true else e) e) clear

/-- Copy the pre-image with its check bits and poison while the first pass reads it (R286). DEDUCED (log 24). -/
def Dev.copyPre (d : Dev) (b half : Nat) (e : EngOp) : Dev :=
  let c := descOf e.words
  match if e.selected then d.preRange b half c else none with
  | none => d
  | some (o, _) =>
    let acc := c.region .acc
    let cs := c.region .cscale
    let base := blockBase b
    d.copyCoded ((base + acc.1, base + o, acc.2) ::
      if c.attn then [(base + cs.1, base + o + acc.2, cs.2)] else [])

/-- Whether a pass of an operation of engine `b` reads a poisoned granule in the scratchpad of engine `x` (R126); a
fully masked step reads no operand (R215), and a repeat or third pass the pre-image (R286). -/
def Dev.readsPoison (d : Dev) (b x : Nat) (e : EngOp) (first : Bool) : Bool :=
  let c := descOf e.words
  let at_ := d.accAt b e first
  let off (r : RegKind × Nat × Nat) : Nat :=
    if r.1 = .acc then at_.1 else if c.attn && r.1 == .cscale then at_.2 else r.2.1
  (c.inputs.filter fun r => !c.fullMask || (c.final && (r.1 == .acc || r.1 == .cscale))).any
    fun r => d.anyPoison (blockBase x + off r) r.2.2

/-- An engine retired for a latent checker fault runs its operations until the moult takes effect (R89).
DEDUCED (log 20). -/
def Dev.lame (d : Dev) (b : Nat) : Bool :=
  let k := d.blk b
  k.svc == .retired && k.chkFault && k.powered

/-- The engine starts its next operation, whose accesses its scratchpad's firewall checks (R113). A fully masked
step reads no operand (R215). DEDUCED (log 24). -/
def Dev.engStart (d : Dev) (b : Nat) (latch : Option Nat) (ecc : List EccFinding) : Dev :=
  if (d.current b).isSome ∨ (d.blk b).arbFor.isSome ∨ ((d.blk b).svc = .retired ∧ d.lame b = false) ∨
      (d.blk b).preempt.isSome ∨ ¬ d.tileUp (tileOf b) then d
  else
    let d := d.modBlk b Block.admitWaiting
    match (d.blk b).nextOp with
    | none => d
    | some e =>
      let err := d.engError b e
      if e.stage = .pending ∧ err ≠ 0 then
        let d := (d.bump (R.meDescErr b)).setFld (R.meLastErr b) 16 8 err
        (d.evBlk 2 0x1006 b [err, e.token] e.part e.ctx).report b e (descStatus err) false
      else match d.refusal (5 * b + 4) (d.idPart b e.static e.part) (blockBase b) false false with
      | some (tgt, r26) =>
        (d.deny (5 * b + 4) (d.idPart b e.static e.part) tgt r26 (blockBase b + e.desc)).report b e stDenied false
      | none =>
        let d := match latch with
          | some cell => d.evBlk 1 0x1002 b [cell, e.token] e.part e.ctx
          | none => d
        let d := d.sramEccs b ecc
        let first := e.stage == .pending
        let half := if first && e.selected then (d.blk b).half else e.half
        let bad := d.readsPoison b b e first
        let entries := if first then d.inHalf b half e else e.entries
        let d := if first then d.copyPre b half e else d
        d.modEng b e fun x => { x with
          stage := if first then .running else .repeating
          half := half, entries := entries
          startW := if first then d.wb else x.startW
          status := if bad && x.status.isNone then some stPoisoned else x.status }

/-- ENGINE_OP_START. DEDUCED (log 20). -/
def execEngineOpStart (b : Fin 144) (latch : Option (Fin 32)) (ecc : List EccFinding) (s : State) : Res :=
  onDev (fun d => d.engStart b.val (latch.map (·.val)) ecc) s

/-! ## Residue handling (R88) -/

/-- Note a mismatch in ME_LAST_ERR_n. -/
def Dev.lastCell (d : Dev) (b cell syn : Nat) : Dev :=
  d.setReg (R.meLastErr b) (setBits (setBits (d.reg (R.meLastErr b)) 0 5 cell) 5 5 syn)

/-- Whether a cell computes a row of an output tile of the pass that occupies engine `b`: logical row i lies in cell
(i + rotation) mod 32 (R59, R284, R473). -/
def Dev.cellRuns (d : Dev) (b cell tile : Nat) : Bool :=
  match d.current b with
  | some (_, e) =>
    let c := descOf e.words
    decide (tile < c.tiles) &&
      (List.range (min 32 (c.rows - tile / ceilDiv c.cols 32 * 32))).any fun i => (i + e.rotation) % 32 == cell
  | none => false

/-- RESIDUE_MISMATCH: step 1 of R88. The check of a beat finds a change of its value whose residue modulo 31 is not 0
(R86); the beat is held and recomputed once. DEDUCED (log 23). -/
def execResidueMismatch (b : Fin 144) (cell : Fin 32) (u : Upset) (s : State) : Res :=
  onDevIf (fun d => d.cellRuns b cell u.tile && residueSyn u.change != 0 && !(d.blk b).beats.any (·.cell = cell.val))
    (fun d => (d.lastCell b cell (residueSyn u.change)).modBlk b fun k =>
      { k with beats := k.beats ++ [⟨cell, u.tile, residueSyn u.change, 2, d.time.now⟩] }) s

/-- Token of the operation that occupies engine `b`, with its partition and context. -/
def Dev.curTok (d : Dev) (b : Nat) : Nat × Nat × Nat :=
  ((d.current b).map fun e => (e.2.token, e.2.part, e.2.ctx)).getD (0, 0xFF, 0xFFFF)

/-- The engines on which an operation's abandonment begins keep its context (R338, R340). -/
def Dev.ending (d : Dev) (k : Nat) : Dev :=
  let on := d.blocks.flatMap fun x => (x.2.eng.filter fun e => e.token == k && !e.dead).flatMap fun e => x.1 :: e.arb.toList
  on.eraseDups.foldl (fun (d : Dev) b => d.modBlk b fun x => { x with ending := x.ending ++ [(d.op k).ctx] }) d

/-- A deadline abandonment takes effect on an operation (R53): it ends as DEADLINE_MISSED, also where it has ended
well and its record is not yet written; an earlier terminal event keeps its status (R77). What it wrote is
poisoned, and it is counted and reported. DEDUCED (log 36). -/
def Dev.lateEnd (d : Dev) (k : Nat) : Dev :=
  let o := d.op k
  let d := d.ending k
  let d := match o.status, o.block with
    | some _, some b => d.killEng b fun e => e.token = k
    | _, _ => d.endOp k stDeadline true
  let d := d.modOp k fun o => { o with
    status := some (match o.status with
      | some st => if outputValid st then stDeadline else st
      | none => stDeadline) }
  let d := (d.op k).outs.foldl (fun (d : Dev) r => d.poisonRange r.1 r.2) d
  let d := d.bump R.tkDeadlineMiss
  let det := [k, o.deadline.getD 0]
  match o.block with
  | some b => d.evBlk 2 0x1020 b det o.part o.ctx
  | none => d.event 2 0x1020 (tokTile k) 0xFF det o.part o.ctx

/-- Once no beat of engine `b` is held any more, what waited for that takes place: the end of the operation as
POISONED or ABORTED, its deadline abandonment, and its removal with its task (R62, R77, R88, R90).
DEDUCED (log 23). -/
def Dev.drained (d : Dev) (b : Nat) : Dev :=
  if (d.blk b).beats ≠ [] then d
  else match d.current b with
    | none => d
    | some (h, e) =>
      if e.dead then d.dropEng h e
      else
        let d := if e.stop then (d.cutBeats h e).report h e (e.status.getD stPoisoned) false
          else if e.abortReq then (d.cutBeats h e).report h e (e.status.getD stAborted) false
          else d
        if e.late then d.lateEnd e.token else d

/-- The beat of a cell of engine `b` is held no more. -/
def Dev.beatDone (d : Dev) (b cell : Nat) : Dev :=
  (d.modBlk b fun k => { k with beats := k.beats.filter (·.cell ≠ cell) }).drained b

/-- The beat of a cell fails for good and is never written (R86): the operation that occupies engine `b` ends as
POISONED, a pass of its own with the operation (R293), a third pass with its vote (R298). DEDUCED (log 23). -/
def Dev.poisonCurrent (d : Dev) (b cell : Nat) : Dev :=
  let lost := ((d.blk b).beats.filter (·.cell = cell)).map fun h => (h.tile, h.cell)
  (match d.current b with
    | some (h, e) =>
      let d := d.modEng h e fun x => { x with unwritten := x.unwritten ++ lost, stop := x.stop || decide (h = b) }
      if h = b then d else d.modBlk b fun k => { k with arbBad := true }
    | none => d).beatDone b cell

/-- RESIDUE_RETRY_CHECK: steps 2 to 4 of R88. DEDUCED (log 23). -/
def execResidueRetryCheck (b : Fin 144) (cell : Fin 32) (r : RetryResult) (s : State) : Res :=
  onDev (fun d =>
    match (d.blk b).beats.find? fun x => x.cell = cell.val ∧ x.stage = 2 with
    | none => d
    | some x =>
      let t := d.curTok b
      let det := [cell.val, x.syndrome, t.1]
      match r with
      | .passed => ((d.bump (R.meRetry b)).evBlk 1 0x1001 b det t.2.1 t.2.2).beatDone b cell
      | .differs => (d.evBlk 2 0x1003 b det t.2.1 t.2.2).poisonCurrent b cell
      | .same => d.modBlk b fun k =>
          { k with beats := mapIf (fun y => y.cell == cell.val) (fun y => { y with stage := 4 }) k.beats }) s

/-- The operation on engine `b` goes on as DONE_UNCHECKED (R88 step 6, R293). -/
def Dev.uncheckCurrent (d : Dev) (b : Nat) : Dev :=
  match d.current b with
  | some (h, e) => d.modEng h e fun x => { x with unchecked := true }
  | none => d

/-- CHECKER_INJECTION_DONE: steps 5 and 6 of R88, with the strike of R300 and the retirement of R89.
DEDUCED (log 23). -/
def execCheckerInjectionDone (b : Fin 144) (cell : Fin 32) (missed : Fin 65) (s : State) : Res :=
  onDev (fun d =>
    match (d.blk b).beats.find? fun x => x.cell = cell.val ∧ x.stage = 4 with
    | none => d
    | some x =>
      let t := d.curTok b
      if missed.val = 0 then
        ((d.evBlk 2 0x1004 b [cell.val, x.syndrome, t.1] t.2.1 t.2.2).poisonCurrent b cell).strike b
      else
        let d := (d.evBlk 5 0x1005 b [cell.val, missed.val] t.2.1 t.2.2).modBlk b fun k => { k with chkFault := true }
        let d := d.retireReq b 0x1005
        if d.fraction t.2.1 = 5 then d.poisonCurrent b cell else (d.uncheckCurrent b).beatDone b cell) s

/-- A higher level takes over a block whose residue handling is in progress (R18): the handling is abandoned, and
its record, 0x1003, is written first with the time at which the beat was found to fail. DEDUCED (log 23). -/
def Dev.dropBeats (d : Dev) (b : Nat) : Dev :=
  let t := d.curTok b
  let d := (d.blk b).beats.foldl (fun d x =>
    d.eventAt x.found 2 0x1003 (b / 36) (b % 36) [x.cell, x.syndrome, t.1] t.2.1 t.2.2) d
  d.modBlk b fun k => { k with beats := [] }

/-- The residue handling of an operation's third pass, as its arbitration is given up: its record comes first. -/
def Dev.dropArb (d : Dev) (e : EngOp) : Dev :=
  match e.arb with
  | some a => d.dropBeats a
  | none => d

/-! ## Ending a pass -/

/-- Add the signatures of an operation's beats to its half of the signature buffer (R291). DEDUCED (log 57). -/
def addSigs (t : Table Nat) (half : Nat) (beats : List Beat) : Table Nat :=
  (beats.foldl (fun (r : Table Nat × Nat) x =>
    let k := half * 4096 + r.2 % 4096
    (tset (fun _ => 0) r.1 k ((tget (fun _ => 0) r.1 k + beatSig x.1 x.2) % 2 ^ 64), r.2 + 1))
    (tdrop (half * 4096) (half * 4096 + 4096) t, 0)).1

/-- The status with which an operation of engine `b` completes by itself (R77): with CHK_FAULT set on the engine,
DONE_UNCHECKED below fraction 1 and POISONED at fraction 1 (R89). -/
def Dev.ownStatus (d : Dev) (b : Nat) (e : EngOp) : Nat :=
  if (d.blk b).chkFault && decide (d.fraction e.part = 5) then stPoisoned
  else if e.unchecked || (d.blk b).chkFault then stUnchecked else stDone

/-- The signatures that a pass of an operation of engine `b` with the scratchpad of engine `x` leaves in its half
(R291). -/
def Dev.passSigs (d : Dev) (b x : Nat) (e : EngOp) : Table Nat :=
  addSigs (d.blk b).sigs e.half (d.opBeats b x e).1

/-- Entries of a half in which two sets of signatures differ (R291). -/
def sigDiff (half : Nat) (x y : Table Nat) : List Nat :=
  ((List.range 4096).map (half * 4096 + ·)).filter fun i => tget (fun _ => 0) x i != tget (fun _ => 0) y i

/-- The end of the pass that occupies engine `b`. -/
def Dev.engEnd (d : Dev) (b : Nat) : Dev :=
  match (d.blk b).eng.find? fun e => e.stage = .running ∨ e.stage = .repeating with
  | none => d
  | some e =>
    let d := d.modBlk b fun k => { k with engMoved := true }
    match e.status with
    | some st => d.report b e st false
    | none =>
      if e.stage = .running then
        let c := descOf e.words
        let base := blockBase b
        let r := d.engBeats base c (base + c.acc) (base + c.cs)
        let d := d.writeBeats base c r.1
        let d := if c.fullMask && !c.final then d.bump (R.meMaskSkip b) else d
        let e' := { e with sat := r.2.1, nan := r.2.2, unchecked := e.unchecked || (d.blk b).chkFault }
        let d := d.modEng b e fun _ => e'
        if e.selected && d.ownStatus b e' != stPoisoned then
          let d := d.modBlk b fun k => { k with sigs := addSigs k.sigs e.half r.1 }
          d.modEng b e fun x => { x with stage := .firstDone }
        else d.report b e' (d.ownStatus b e') false
      else if d.ownStatus b e = stPoisoned then d.report b e stPoisoned false
      else
        let xs := sigDiff e.half (d.blk b).sigs (d.passSigs b b e)
        d.modEng b e fun x => { x with
          stage := .repeated, repDiff := xs, unchecked := x.unchecked || (d.blk b).chkFault }

/-- ENGINE_OP_COMPLETE. A pass does not end while a beat of it is held (R86), nor while a
pre-emption has stopped the engine (R165). -/
def execEngineOpComplete (b : Fin 144) (s : State) : Res :=
  onDevIf (fun d => (d.blk b).beats = [] ∧ (d.blk b).preempt = none ∧ d.tileUp (tileOf b) = true)
    (fun d => d.engEnd b) s

/-! ## Withdrawal from the dynamic pool (R62) -/

/-- End every dynamic engine operation of a block as ABORTED; for one with residue handling in progress the
abort takes effect when that has finished (R62). -/
def Dev.abortDyn (d : Dev) (b : Nat) : Dev :=
  ((d.blk b).eng.filter fun e => !e.static && !e.dead).foldl (fun d e =>
    if d.holding b e then d.modEng b e fun x => { x with abortReq := true }
    else (d.cutBeats b e).report b e (e.status.getD stAborted) false) d

/-- DYN_DISABLE: withdraws the engine at once, or returns it; ignored when STATE is not 1. DEDUCED (log 20). -/
def Dev.dynDisable (b : Fin 144) (v : Bool) (d : Dev) : Dev :=
  doIf (fun d => (d.blk b).svc = .inService)
    (fun d =>
      let was := bit (d.reg (R.meEngine b)) 10
      let d := d.setFld (R.meEngine b) 10 1 (b2n v)
      if v then
        let d := if was then d else d.modBlk b fun k => { k with withdraw := some d.nextFrame }
        if bit (d.reg (R.meEngine b)) 11 then d.abortDyn b else d
      else d.modBlk b fun k => { k with withdraw := none }) d

/-- The host's write (R432, R454). -/
def execDynDisable (b : Fin 144) (v : Bool) (s : State) : Res := onHost (Dev.dynDisable b v) s

/-- ME_ENGINE_n.BUSY (R62): an operation is running or pending. DEDUCED (log 20). -/
def Dev.engBusy (d : Dev) (b : Nat) : Bool := (d.blk b).eng != [] || (d.blk b).arbFor.isSome

/-- DYN_MODE: a change to abort while withdrawn and busy aborts what remains. -/
def Dev.dynMode (b : Fin 144) (v : Bool) (d : Dev) : Dev :=
  doDev (fun d =>
    let was := bit (d.reg (R.meEngine b)) 11
    let d := d.setFld (R.meEngine b) 11 1 (b2n v)
    if v ∧ ¬ was ∧ bit (d.reg (R.meEngine b)) 10 ∧ d.engBusy b then d.abortDyn b else d) d

/-- The host's write (R432, R454). -/
def execDynMode (b : Fin 144) (v : Bool) (s : State) : Res := onHost (Dev.dynMode b v) s

/-- ENGINE_DRAIN_LIMIT. -/
def execEngineDrainLimit (b : Fin 144) (s : State) : Res :=
  onDevIf (fun d => match (d.blk b).withdraw with
    | some w => decide (w ≤ d.wb)
    | none => false) (fun d => d.abortDyn b) s

/-- Whether a dynamic launch on the block completes as ABORTED at once (R62). -/
def Dev.withdrawn (d : Dev) (b : Nat) : Bool :=
  bit (d.reg (R.meEngine b)) 10 &&
    (bit (d.reg (R.meEngine b)) 11 || (match (d.blk b).withdraw with
      | some w => decide (w ≤ d.wb)
      | none => false))

end Sys2Proof.Machine
end

