-- ==== Sys2Proof/Machine/Ppu.lean ====
section
/-! DEFINITION. The post-processing unit of the hub (R96 to R100). -/

namespace Sys2Proof.Machine

/-- Whether an access of `n` bytes by a hub initiator that acts for no operation is allowed: by the regulator of
its class (R176) and by the firewall (R26, R179, R180). DEDUCED (log 40). -/
def Dev.allowed (d : Dev) (init part a n : Nat) (write : Bool) : Bool :=
  (d.refusalAt init part (d.initCls init part) a n write).isNone

/-- Count, record and report the refusal of an access of `n` bytes, where there is one. -/
def Dev.denyN (d : Dev) (init part a n : Nat) (write : Bool) : Dev :=
  match d.refusalAt init part (d.initCls init part) a n write with
  | some (t, r) => d.deny init part t r a
  | none => d

/-- A post-processing descriptor (R96). -/
structure PpuDesc where
  unit : Nat
  decode : Nat
  agnostic : Bool
  classes : Nat
  positions : Nat
  inA : Nat
  anchorA : Nat
  outA : Nat
  scoreThr : Nat
  iouThr : Nat
  topK : Nat
  maxOut : Nat
  sx : Nat
  sy : Nat
  stream : Nat
  deriving DecidableEq, Repr

/-- Read a post-processing descriptor at a device address. -/
def Dev.ppuDesc (d : Dev) (a : Nat) : PpuDesc :=
  let w i := d.rdN (a + 8 * i) 8
  { unit := bits (w 0) 0 8, decode := bits (w 0) 8 2, agnostic := bit (w 0) 10
    classes := bits (w 0) 16 16, positions := bits (w 0) 32 32
    inA := bits (w 1) 0 40, anchorA := bits (w 2) 0 40, outA := bits (w 3) 0 40
    scoreThr := bits (w 4) 0 32, iouThr := bits (w 4) 32 32
    topK := bits (w 5) 0 13, maxOut := bits (w 5) 16 11
    sx := bits (w 6) 0 32, sy := bits (w 6) 32 32, stream := bits (w 7) 0 6 }

/-- Whether the fields lie within R96. -/
def PpuDesc.ok (p : PpuDesc) : Bool :=
  p.unit == 0x20 && p.decode != 3 && decide (1 ≤ p.classes ∧ p.classes ≤ 256) &&
    decide (1 ≤ p.positions ∧ p.positions ≤ 65536) && decide (1 ≤ p.topK ∧ p.topK ≤ 4096) &&
    decide (1 ≤ p.maxOut ∧ p.maxOut ≤ 1024)

/-- Bytes of one input position (R97). -/
def PpuDesc.stride (p : PpuDesc) : Nat := roundUp ((4 + p.classes) * 2) 8
/-- Bytes of the input. -/
def PpuDesc.inBytes (p : PpuDesc) : Nat := p.positions * p.stride
/-- Largest output: header and MAX_OUT records (R99). -/
def PpuDesc.outBytes (p : PpuDesc) : Nat := 32 + 32 * p.maxOut

/-- A candidate: score (FP16 pattern), position, class. -/
structure PpuCand where
  score : Nat
  pos : Nat
  cls : Nat
  deriving DecidableEq, Repr

/-- Insert before the first candidate of a strictly lower score: equal scores keep their order. -/
def insCand (c : PpuCand) : List PpuCand → List PpuCand
  | [] => [c]
  | x :: t => if Fp.lt (dec16 x.score) (dec16 c.score) then c :: x :: t else x :: insCand c t

/-- Order by descending score, equal scores by position and then class (R98 step 1). -/
def sortCands (l : List PpuCand) : List PpuCand := l.foldl (fun s c => insCand c s) []

/-- Score of a class at a position. -/
def Dev.ppuScore (d : Dev) (p : PpuDesc) (i c : Nat) : Nat := d.rdN (p.inA + i * p.stride + 8 + 2 * c) 2

/-- The candidates at or above SCORE_THR, by position and class (R96 AGNOSTIC, R98). -/
def Dev.ppuCands (d : Dev) (p : PpuDesc) : List PpuCand :=
  let thr (s : Nat) : Bool := Fp.le (dec32 p.scoreThr) (dec16 s)
  (List.range p.positions).flatMap fun i =>
    let all := (List.range p.classes).map fun c => (⟨d.ppuScore p i c, i, c⟩ : PpuCand)
    let some' := if p.agnostic then (sortCands (all.filter fun c => !(dec16 c.score).isNan)).take 1 else all
    some'.filter fun c => thr c.score

/-- FP32 pattern of an FP16 pattern. -/
def widen16 (v : Nat) : Nat := enc32 (dec16 v)

/-- The box of a position: x1, y1, x2, y2 as FP32 (R97). -/
def Dev.ppuBox (d : Dev) (p : PpuDesc) (i : Nat) : Nat × Nat × Nat × Nat :=
  let v k := widen16 (d.rdN (p.inA + i * p.stride + 2 * k) 2)
  let a k := d.rdN (p.anchorA + 16 * i + 4 * k) 4
  let half x := mul32 x 0x3F000000
  let b : Nat × Nat × Nat × Nat := match p.decode with
    | 0 =>
      let cx := add32 (a 0) (mul32 (v 0) (a 2))
      let cy := add32 (a 1) (mul32 (v 1) (a 3))
      let w := mul32 (a 2) (exp32 (v 2))
      let h := mul32 (a 3) (exp32 (v 3))
      (sub32 cx (half w), sub32 cy (half h), add32 cx (half w), add32 cy (half h))
    | 1 => (sub32 (a 0) (v 0), sub32 (a 1) (v 1), add32 (a 0) (v 2), add32 (a 1) (v 3))
    | _ => (v 0, v 1, v 2, v 3)
  (mul32 b.1 p.sx, mul32 b.2.1 p.sy, mul32 b.2.2.1 p.sx, mul32 b.2.2.2 p.sy)

/-- The rational value of a finite number. -/
def Fp.rat : Fp → Option Rat
  | .fin s m e => some ((sgn s m : Rat) * (2 : Rat) ^ e)
  | _ => none

/-- Whether a box has zero or negative area (R98). -/
def emptyBox (a : Nat × Nat × Nat × Nat) : Bool := le32 a.2.2.1 a.1 || le32 a.2.2.2 a.2.1

/-- IoU of two boxes with finite corners; 0 for a box with zero or negative area (R98). -/
def iouOf (a b : Rat × Rat × Rat × Rat) : Rat :=
  let area (p : Rat × Rat × Rat × Rat) : Rat := if p.1 < p.2.2.1 ∧ p.2.1 < p.2.2.2 then (p.2.2.1 - p.1) * (p.2.2.2 - p.2.1) else 0
  let w := min a.2.2.1 b.2.2.1 - max a.1 b.1
  let h := min a.2.2.2 b.2.2.2 - max a.2.1 b.2.1
  let n := if 0 < w ∧ 0 < h ∧ area a ≠ 0 ∧ area b ≠ 0 then w * h else 0
  if n = 0 then 0 else n / (area a + area b - n)

/-- The corners of a box whose corners are finite. -/
def finBox (a : Nat × Nat × Nat × Nat) : Option (Rat × Rat × Rat × Rat) :=
  match (dec32 a.1).rat, (dec32 a.2.1).rat, (dec32 a.2.2.1).rat, (dec32 a.2.2.2).rat with
  | some x, some y, some X, some Y => some (x, y, X, Y)
  | _, _, _, _ => none

/-- Whether an IoU is strictly above a threshold: none is above +Inf or a NaN. -/
def iouAbove (thr : Nat) (iou : Rat) : Bool :=
  match dec32 thr with
  | .nan => false
  | .inf neg => neg
  | x => (x.rat.map fun t => decide (t < iou)).getD false

/-- Whether a corner of a box is a NaN. -/
def nanBox (a : Nat × Nat × Nat × Nat) : Bool :=
  [a.1, a.2.1, a.2.2.1, a.2.2.2].any isNan32

/-- Whether two boxes share no area: one ends where the other begins, or before. -/
def apart (a b : Nat × Nat × Nat × Nat) : Bool :=
  le32 a.2.2.1 b.1 || le32 b.2.2.1 a.1 || le32 a.2.2.2 b.2.1 || le32 b.2.2.2 a.2.1

/-- Whether a candidate's box is suppressed by a kept one: IoU strictly above the threshold (R98). An IoU lies from
0 to 1 whatever the corners are; it is 0 for boxes that share no area, and for a finite box beside one of infinite
area. Two boxes of infinite area that overlap, and a NaN corner, leave it open. DEDUCED (log 26). -/
def overlaps (thr : Nat) (a b : Nat × Nat × Nat × Nat) : Bool :=
  if emptyBox a || emptyBox b then iouAbove thr 0
  else match finBox a, finBox b with
    | some x, some y => iouAbove thr (iouOf x y)
    | x, y =>
      let free := Config.iouNonfinite [a.1, a.2.1, a.2.2.1, a.2.2.2, b.1, b.2.1, b.2.2.1, b.2.2.2] thr
      if !iouAbove thr 1 then false
      else if nanBox a || nanBox b then free
      else if iouAbove thr 0 then true
      else if apart a b || x.isSome || y.isSome then false
      else free

/-- Greedy suppression in order (R98 step 3). -/
def suppress (agnostic : Bool) (thr : Nat) (box : Nat → Nat × Nat × Nat × Nat) (l : List PpuCand) :
    List PpuCand :=
  l.foldl (fun kept c =>
    if kept.any fun k => (agnostic || k.cls == c.cls) && overlaps thr (box k.pos) (box c.pos) then kept
    else kept ++ [c]) []

/-- One box record (R99). -/
def boxRecord (p : PpuDesc) (b : Nat × Nat × Nat × Nat) (c : PpuCand) : List Byte :=
  toLE 4 b.1 ++ toLE 4 b.2.1 ++ toLE 4 b.2.2.1 ++ toLE 4 b.2.2.2 ++ toLE 4 (widen16 c.score) ++
    toLE 2 c.cls ++ toLE 2 c.pos ++ toLE 1 p.stream ++ toLE 7 0

/-- The output of the unit (R98, R99). DEDUCED (log 26). -/
def Dev.ppuOut (d : Dev) (p : PpuDesc) : List Byte :=
  let cands := d.ppuCands p
  let kept := (suppress p.agnostic p.iouThr (d.ppuBox p) ((sortCands cands).take p.topK)).take p.maxOut
  toLE 4 kept.length ++ toLE 4 cands.length ++ toLE 24 0 ++ kept.flatMap fun c => boxRecord p (d.ppuBox p c.pos) c

/-- The first access of the unit that the regulator or a firewall refuses: address, TARGET code, and
whether R26 applies. -/
def Dev.ppuDenied (d : Dev) (part cls : Nat) (p : PpuDesc) : Option (Nat × Nat × Bool) :=
  ([(p.inA, p.inBytes, false), (p.outA, p.outBytes, true)] ++
    (if p.decode = 2 then [] else [(p.anchorA, 16 * p.positions, false)])).findSome?
      fun x => (d.refusalAt 723 part cls x.1 x.2.1 x.2.2).map fun r => (x.1, r)

/-- The unit completes an operation: refused accesses end it FIREWALL_DENIED, a poisoned input (R302)
or a lockstep mismatch (R100) POISONED with every output it writes poisoned; a descriptor outside R96 ends it
POISONED without event 0x1006, whose error codes are the engines'. DEDUCED (log 26). DESIGN CHOICE (log 97). -/
def Dev.ppuEnd (d : Dev) (k : Nat) (lockstep : Option Nat) : Dev :=
  let o := d.op k
  let p := d.ppuDesc (hubBase + o.entry)
  if p.ok = false then d.settle k stPoisoned
  else match d.ppuDenied o.part o.cls p with
    | some (a, t, r26) => (d.deny 723 o.part t r26 a).settle k stDenied
    | none =>
      let bad := d.anyPoison (hubBase + o.entry) 64 || d.anyPoison p.inA p.inBytes ||
        (p.decode != 2 && d.anyPoison p.anchorA (16 * p.positions))
      let out := d.ppuOut p
      match lockstep with
      | some off =>
        let d := (d.bump16 R.mePpuStatus 16).event 2 0x1007 4 0x20 [off] o.part o.ctx
        ((d.storeAs o.part p.outA (out.take off) true).poisonRange p.outA out.length).settle k stPoisoned
      | none => (d.storeAs o.part p.outA out bad).settle k (if bad then stPoisoned else stDone)

/-- Whether the unit's accesses for an operation wait at the regulator (R176). -/
def Dev.ppuWaits (d : Dev) (k : Nat) : Bool :=
  let o := d.op k
  let p := d.ppuDesc (hubBase + o.entry)
  [p.inA, p.anchorA, p.outA].any fun a => !d.shut 723 o.cls a && d.capped 723 o.cls a

/-- The next operation of the unit comes to its turn (R339). -/
def Dev.ppuNext (d : Dev) : Dev :=
  let ks := (d.ops.filter fun e => e.2.kind == .ppu && e.2.placed && e.2.status.isNone).map (·.1)
  ks.foldl (fun (d : Dev) k => d.modOp k fun o => { o with began := d.time.now }) d

/-- PPU_OP_COMPLETE: an operation placed on the post-processing unit ends, unless its class is at its cap. -/
def execPpuOpComplete (token : Fin 16384) (lockstep : Option (Fin 4294967296)) (s : State) : Res :=
  onDevIf (fun d => (d.op token).used && (d.op token).placed && (d.op token).status.isNone &&
      ((d.op token).kind == .ppu || (d.op token).kind == .hubUnit) && !d.ppuWaits token)
    (fun d => (d.ppuEnd token (lockstep.map (·.val))).ppuNext) s

end Sys2Proof.Machine
end

