-- ==== Sys2Proof/Machine/Cores.lean ====
section
/-! DEFINITION. General cores and scratchpads (R102 to R132, R470, R471): the Gwynnath instructions,
loads and stores with relocation, firewall, scoreboard and credits, tick waits and items of static
threads, exceptions, scrubbing and row repair. -/

namespace Sys2Proof

/-- Physical block of a thread. -/
def ThreadId.b (t : ThreadId) : Nat := t.block.val
/-- Initiator ID of a thread: 5 × b + core (R113). -/
def ThreadId.init (t : ThreadId) : Nat := 5 * t.b + t.core.val

/-- Whether a store is an LR/SC or AMO access. -/
def StoreKind.atomic : StoreKind → Bool
  | .cond => true
  | .amo _ => true
  | _ => false

end Sys2Proof

namespace Sys2Proof.Machine

/-! ## Threads -/

/-- The thread of a block and a number in it. -/
def thrId (w : Nat × Nat) : ThreadId := ⟨Fin.ofNat 144 w.1, Fin.ofNat 4 (w.2 / 8), Fin.ofNat 8 w.2⟩

/-- Change the thread `t`. -/
def Dev.modT (d : Dev) (t : ThreadId) (f : Thread → Thread) : Dev := d.modThr t.b (thrNum t) f

/-- Whether a thread can issue an instruction: it runs a task, waits for no event and has no other instruction
stalled, its region is not in reset, and no pre-emption has stopped it (R103, R165, R341). -/
def Dev.canRun (d : Dev) (t : ThreadId) (i : Instr) : Bool :=
  let h := d.thr t
  h.op.isSome && (h.wait == .none || h.wait == .retry i) && d.tileUp (tileOf t.b) &&
    (d.blk t.b).preempt.isNone && (d.blk t.b).svc != .retired

/-- A thread issues: it is the one that its core's round robin starts after (R103). -/
def Dev.issued (d : Dev) (t : ThreadId) : Dev :=
  d.modBlk t.b fun k => { k with lastIssue := tset (fun _ => 0) k.lastIssue t.core.val t.thread.val }

/-- An instruction of a thread that can issue it. -/
def onThread (t : ThreadId) (i : Instr) (f : Dev → Dev) (s : State) : Res :=
  onDevIf (fun d => d.canRun t i) (fun d => f (d.issued t)) s

/-- Token of the task a thread runs. -/
def Dev.tok (d : Dev) (t : ThreadId) : Nat := (d.thr t).op.getD 0
/-- Partition ID of the accesses of the task a thread runs (R113). -/
def Dev.tPart (d : Dev) (t : ThreadId) : Nat := d.idPart t.b (d.op (d.tok t)).static (d.op (d.tok t)).part
/-- Class label of the task a thread runs (R175). -/
def Dev.tCls (d : Dev) (t : ThreadId) : Nat := (d.op (d.tok t)).cls
/-- Context of the task a thread runs. -/
def Dev.tCtx (d : Dev) (t : ThreadId) : Nat := (d.op (d.tok t)).ctx

/-- Register of a thread; x0 reads as zero. -/
def Thread.rx (h : Thread) (r : XReg) : Nat := if r.val = 0 then 0 else (tget (fun _ => 0) h.x r.val).toNat
/-- Write a register of a thread; x0 discards. -/
def Thread.wx (h : Thread) (r v : Nat) : Thread :=
  if r = 0 then h else { h with x := tset (fun _ => 0) h.x r (BitVec.ofNat 64 v) }
/-- Operand register of a thread. -/
def Dev.tx (d : Dev) (t : ThreadId) (r : XReg) : Nat := (d.thr t).rx r

/-- An instruction completes: its result is written and the thread has moved (R337). -/
def Dev.ret (d : Dev) (t : ThreadId) (rd v : Nat) : Dev :=
  d.modT t fun h => { h.wx rd v with wait := .none, moved := true }
/-- An instruction stalls at issue and is tried again. -/
def Dev.stall (d : Dev) (t : ThreadId) (i : Instr) : Dev := d.modT t fun h => { h with wait := .retry i }
/-- A stall at the scoreboard: GC_SB_STALL_n counts core cycles, a number that R119 leaves to the
hardware's timing. DEDUCED (log 28). -/
def Dev.sbStall (d : Dev) (t : ThreadId) (i : Instr) : Dev :=
  let (n, d) := d.fresh
  (d.bump (R.gcSbStall t.b) (n + 1)).stall t i

/-- A task ends by an exception (R130): counted, noted in GC_LAST_EXC_n, its launched engine
operations run on; a static thread restarts at its entry (R470). -/
def Dev.except (d : Dev) (t : ThreadId) (st cause : Nat) : Dev :=
  let d := (d.bump (R.gcExc t.b)).setReg (R.gcLastExc t.b)
    (t.core.val + t.thread.val * 4 + cause % 256 * 256)
  d.endOp (d.tok t) st false

/-- Event 0x1041 and the end of the task as POISONED (R130, R132). -/
def Dev.excPoison (d : Dev) (t : ThreadId) (cause : Nat) : Dev :=
  (d.evBlk 2 0x1041 t.b [t.core.val, t.thread.val, cause, d.tok t] (d.tPart t) (d.tCtx t)).except t
    stPoisoned cause
/-- Event 0x1042 and the end of the task as FIREWALL_DENIED. -/
def Dev.excReloc (d : Dev) (t : ThreadId) (ea : Nat) : Dev :=
  (d.evBlk 2 0x1042 t.b [t.core.val, t.thread.val, bits ea 36 2, ea] (d.tPart t) (d.tCtx t)).except t
    stDenied 0x40

/-! ## Accesses of a thread -/

/-- What relocation gives (R111, R112). -/
inductive Reloc
  | addr (a : Nat)
  | fault
  | outOfService (a : Nat)
  deriving DecidableEq, Repr

/-- Relocate an effective address (R111): refused where the window is not valid or the offset is at or above its
bound. DEDUCED (log 28). -/
def Dev.relocate (d : Dev) (t : ThreadId) (ea : Nat) : Reloc :=
  if ea < 0xC000000000 ∨ 0x10000000000 ≤ ea then .addr ea
  else
    let w := (d.thr t).windows.getD (bits ea 36 2) (0, 0)
    let off := bits ea 0 36
    if ¬ bit w.1 63 ∨ bits w.2 0 36 ≤ off then .fault
    else if bit w.1 62 then
      let l := bits w.1 40 5
      if l ∈ (d.tile (tileOf t.b)).outLb then .outOfService (blockBase (d.phys (tileOf t.b) l) + bits w.1 0 20 + off)
      else .addr (blockBase (d.phys (tileOf t.b) l) + bits w.1 0 20 + off)
    else .addr (bits w.1 0 40 + off)

/-- Why an access of a thread is refused: by the tile port's regulator (R176), or by the target's firewall; the
register space takes machine-mode accesses (R180). -/
def Dev.threadRefusal (d : Dev) (t : ThreadId) (a n : Nat) (write : Bool) : Option (Nat × Bool) :=
  if d.shut t.init (d.tCls t) a then some (5, false) else d.refusalN t.init (d.tPart t) a n write (d.thr t).machine

/-- Relocate and check an access against the tile port's regulator and the target's firewall; the task has ended where no address
comes back. Cause codes of access faults: 5 for a load, 7 for a store. DEDUCED (log 28). -/
def Dev.thAccess (d : Dev) (t : ThreadId) (ea n : Nat) (write : Bool) : Dev × Option Nat :=
  let cause := if write then 7 else 5
  match d.relocate t ea with
  | .fault => (d.excReloc t ea, none)
  | .outOfService a => ((d.deny t.init (d.tPart t) 2 true a).except t stDenied cause, none)
  | .addr a => match d.threadRefusal t a n write with
    | some (tgt, r26) => ((d.deny t.init (d.tPart t) tgt r26 a).except t stDenied cause, none)
    | none => (d, some a)

/-- Whether an access of `n` bytes at `a` overlaps a scoreboard entry of its block that `p` selects
(R119): only the engine scratchpad is covered. -/
def Dev.sbHit (d : Dev) (a n : Nat) (p : SbEntry → Bool) : Bool :=
  match target a with
  | .spad b => decide (spadOff a < 0x80000) && (d.blk b).eng.any fun e =>
      e.stage != .waiting && e.entries.any fun x => p x && meets x.lo (x.hi - x.lo) (spadOff a) n
  | _ => false

/-- Event 0x2042 or 0x2043 of the hub store's code (R380). -/
def Dev.hubEcc (d : Dev) (f : EccFinding) : Dev :=
  if target f.addr ≠ .hub then d
  else if f.double then
    ((d.bump R.mcHstoreUe).setPoison (granule f.addr) true).event 2 0x2043 4 0x71 [f.addr - hubBase]
  else (d.bump R.mcHstoreCe).event 1 0x2042 4 0x71 [f.addr - hubBase]

/-- Apply what the codes of scratchpads and hub store found on an access. -/
def Dev.accEcc (d : Dev) (fs : List EccFinding) : Dev :=
  fs.foldl (fun d f => match target f.addr with
    | .spad b => d.sramEcc b f
    | .hub => d.hubEcc f
    | _ => d) d

/-- Whether a hub-store word of the access was uncorrectable: it ends as MEMORY_UNCORRECTABLE. -/
def hubLost (fs : List EccFinding) : Bool := fs.any fun f => f.double && target f.addr == .hub

/-- Whether an element of the access crosses a 64-byte granule (R105). -/
def crosses (ea w n : Nat) : Bool := (List.range (n / w)).any fun i => decide (64 < (ea + i * w) % 64 + w)

/-- Effective address of a load or store. -/
def Dev.ea (d : Dev) (t : ThreadId) (rs1 : XReg) (imm : BitVec 12) : Nat :=
  (d.tx t rs1 + unsigned 64 (signed 12 imm.toNat)) % 2 ^ 64

/-- Whether an address lies in the scratchpads of another block. -/
def remoteSpad (t : ThreadId) (a : Nat) : Bool :=
  match target a with
  | .spad b => b != t.b
  | _ => false

/-- Whether a thread's reservation shares a granule with `n` bytes from `a`. -/
def Thread.resvOn (h : Thread) (a n : Nat) : Bool :=
  (h.resv.map fun r => (granules r.1 r.2).any (granules a n).contains).getD false

/-- An f register that holds `n` bytes: the bits above them are ones (NaN boxing, RISC-V F and D). PRESUMED (log 27). -/
def boxNan (n v : Nat) : Nat := v % 2 ^ (8 * n) + (2 ^ 64 - 2 ^ (8 * n))

/-- Whether the elements of an access lie side by side once they are relocated, as where all of them lie in one
window (R111). -/
def Dev.linear (d : Dev) (t : ThreadId) (ea w n : Nat) : Bool :=
  match d.relocate t ea with
  | .addr a => (List.range (n / w)).all fun i => d.relocate t (ea + i * w) == .addr (a + i * w)
  | _ => false

/-- The pieces of an access, each relocated and checked on its own: all of it where its elements stay side by side,
else its elements. Effective address and bytes. -/
def Dev.pieces (d : Dev) (t : ThreadId) (ea w n : Nat) : List (Nat × Nat) :=
  if d.linear t ea w n then [(ea, n)] else (List.range (n / w)).map fun i => (ea + i * w, w)

/-- The device addresses of an access's pieces; the first one refused ends the task. -/
def Dev.thAddrs (d : Dev) (t : ThreadId) (write : Bool) : List (Nat × Nat) → Dev × Option (List (Nat × Nat))
  | [] => (d, some [])
  | (ea, n) :: l => match d.thAccess t ea n write with
    | (d, none) => (d, none)
    | (d, some a) => match d.thAddrs t write l with
      | (d, none) => (d, none)
      | (d, some as) => (d, some ((a, n) :: as))

/-- The number in the bytes of a list of pieces, the first piece lowest. -/
def Dev.rdPieces (d : Dev) (ps : List (Nat × Nat)) : Nat := ofLE (ps.flatMap fun p => d.rdBytes p.1 p.2)

/-- A write breaks the reservations on its granules (R105). DEDUCED (log 27). -/
def Dev.breakResv (d : Dev) (a n : Nat) : Dev :=
  { d with blocks := d.blocks.map fun e => (e.1, { e.2 with
    threads := e.2.threads.map fun h => (h.1, if h.2.resvOn a n then { h.2 with resv := none } else h.2) }) }

/-- A write of a thread takes effect at its target. -/
def Dev.land (d : Dev) (part a : Nat) (bs : List Byte) (poison : Bool) : Dev :=
  (d.storeAs part a bs poison).breakResv a bs.length

/-- The posted writes that wait at a block's shared port take effect in order, but for one that still meets a
scoreboard entry and the later ones of its task (R114, R119). DEDUCED (log 28). -/
def Dev.flushBlk (d : Dev) (b : Nat) : Dev :=
  let ps := (d.blk b).posted
  if ps = [] then d
  else ps.foldl (fun d p =>
    if d.sbHit p.addr p.bytes.length (fun _ => true) || (d.blk b).posted.any (·.op == p.op) then
      d.modBlk b fun k => { k with posted := k.posted ++ [p] }
    else d.land p.part p.addr p.bytes p.poison) (d.modBlk b fun k => { k with posted := [] })

/-- Posted writes of a task that wait at the block that holds an address and share a byte with `n` bytes from it. -/
def Dev.postedOn (d : Dev) (k a n : Nat) : Bool :=
  match target a with
  | .spad b => (d.blk b).posted.any fun p => p.op == k && meets p.addr p.bytes.length a n
  | _ => false

/-- The block that holds a scratchpad address. -/
def spadBlk (a : Nat) : Nat := (a - 0x4000000000) / 0x100000

/-- The posted writes due at the blocks of other tasks' scratchpads that an access reaches. -/
def Dev.flushFar (d : Dev) (t : ThreadId) (ps : List (Nat × Nat)) : Dev :=
  ((ps.filter fun p => remoteSpad t p.1).map fun p => spadBlk p.1).eraseDups.foldl Dev.flushBlk d

/-- A load of a thread: `n` bytes in elements of `w` into register `rd`. DEDUCED (log 28). -/
def Dev.thLoad (d : Dev) (t : ThreadId) (i : Instr) (rd ea w n : Nat) (sext : Bool) (kind : LoadKind)
    (ecc : List EccFinding) : Dev :=
  if n = 0 then d.ret t 0 0
  else if crosses ea w n then d.excPoison t 4
  else
    match d.thAddrs t false (d.pieces t ea w n) with
    | (d, none) => d
    | (d, some ps) =>
      if kind = .reserved ∧ ps.any (fun p => remoteSpad t p.1) = true then d.excReloc t ea
      else
        let d := d.flushFar t ps
        if ps.any fun p => d.capped t.init (d.tCls t) p.1 then d.stall t i
        else if ps.any fun p => d.sbHit p.1 p.2 (·.producer) || d.postedOn (d.tok t) p.1 p.2 then d.sbStall t i
        else
          let d := d.accEcc ecc
          match ps.findSome? fun p => d.keyGone p.1 p.2 with
          | some g => (d.keyEvent t.init (d.tPart t) g).except t stDenied 5
          | none =>
            if hubLost ecc then d.except t stMemory 5
            else
              let bad := ps.any fun p => d.anyPoison p.1 p.2
              let d := if bad then d.bump (R.gcPoisonLd t.b) else d
              let d := d.modT t fun h => { h with
                poison := h.poison || bad, resv := if kind = .reserved then ps.head? else h.resv }
              let v := d.rdPieces ps
              match kind with
              | .vector _ => (d.modT t fun h => { h with
                  v := tmod (fun _ => 0) h.v rd fun o => BitVec.ofNat 512 (setBits o.toNat 0 (8 * n) v) }).ret t 0 0
              | .float => (d.modT t fun h => { h with
                  f := tset (fun _ => 0) h.f rd (BitVec.ofNat 64 (boxNan n v)) }).ret t 0 0
              | _ => d.ret t rd (if sext then unsigned 64 (signed (8 * w) v) else v)

/-! ## Stores -/

/-- Whether a remote write lies within a grant that the thread holds and has not published (R123). -/
def Thread.inGrant (h : Thread) (a n : Nat) : Bool :=
  h.grants.any fun g => decide (g.addr ≤ a) && decide (a + n ≤ g.addr + 64 * g.n)

/-- The first element of `w` bytes of remote pieces that lies in no grant of the thread. -/
def Thread.outside (h : Thread) (w : Nat) (ps : List (Nat × Nat)) : Option Nat :=
  (ps.flatMap fun p => (List.range (p.2 / w)).map (p.1 + · * w)).find? fun a => !h.inGrant a w

/-- The number an AMO writes, from the number in memory and the one in rs2, of `n` bytes (R105). -/
def amo (f : AmoOp) (n x y : Nat) : Nat :=
  let s v := signed (8 * n) v
  match f with
  | .swap => y
  | .add => (x + y) % 2 ^ (8 * n)
  | .xor => x ^^^ y
  | .and => x &&& y
  | .or => x ||| y
  | .min => if s y < s x then y else x
  | .max => if s x < s y then y else x
  | .minu => min x y
  | .maxu => max x y

/-- The bytes of one piece are written, or posted where the piece is remote and meets a scoreboard entry, or an
earlier write of the task that waits there (R114, R119). -/
def Dev.thWrite (d : Dev) (t : ThreadId) (a : Nat) (bs : List Byte) : Dev :=
  let p : Posted := ⟨d.tok t, a, bs, d.tPart t, (d.thr t).poison⟩
  if remoteSpad t a && (d.sbHit a bs.length (fun _ => true) || (d.blk (spadBlk a)).posted.any (·.op == p.op)) then
    d.modBlk (spadBlk a) fun k => { k with posted := k.posted ++ [p] }
  else d.land p.part a bs p.poison

/-- The bytes of a store's pieces, in order. -/
def Dev.thPieces (d : Dev) (t : ThreadId) : List (Nat × Nat) → List Byte → Dev
  | [], _ => d
  | (a, n) :: l, bs => (d.thWrite t a (bs.take n)).thPieces t l (bs.drop n)

/-- The write of a store at its place: an SC writes under its reservation and answers 0, or answers 1 (R105). -/
def Dev.thPut (d : Dev) (t : ThreadId) (ps : List (Nat × Nat)) (n v : Nat) (kind : StoreKind) (rd : Nat) : Dev :=
  let put (d : Dev) (v : Nat) : Dev := d.thPieces t ps (toLE n v)
  match kind with
  | .cond =>
    if (d.thr t).resv.isSome ∧ (d.thr t).resv = ps.head? then (put d v).ret t rd 0
    else (d.modT t fun h => { h with resv := none }).ret t rd 1
  | .amo f =>
    let x := d.rdPieces ps
    let bad := ps.any fun p => d.anyPoison p.1 p.2
    let d := d.modT t fun h => { h with poison := h.poison || bad }
    (put d (amo f n x (v % 2 ^ (8 * n)))).ret t rd (unsigned 64 (signed (8 * n) x))
  | _ => (put d v).ret t 0 0

/-- A store of a thread: `n` bytes in elements of `w`; none is made unless all may be. A remote write of a thread
waits while its path is under repair (R157, R216). Event 0x1045 of a write outside a grant names the target's block
as its source, since the target drops the write (R123). DEDUCED (log 28). -/
def Dev.thStore (d : Dev) (t : ThreadId) (i : Instr) (ea w n v : Nat) (kind : StoreKind) (rd : Nat)
    (ecc : List EccFinding) : Dev :=
  if n = 0 then d.ret t 0 0
  else if crosses ea w n then d.excPoison t 6
  else
    match d.thAddrs t true (d.pieces t ea w n) with
    | (d, none) => d
    | (d, some ps) =>
      let far := ps.filter fun p => remoteSpad t p.1
      if kind.atomic && !far.isEmpty then d.excReloc t ea
      else match (d.thr t).outside w far with
      | some a => (d.evBlk 2 0x1045 (spadBlk a) [t.init, a] (d.tPart t)).except t stDenied 0x41
      | none =>
        if ps.any fun p => !remoteSpad t p.1 && d.sbHit p.1 p.2 fun _ => true then d.sbStall t i
        else if ps.any fun p => d.pathStalls t.b p.1 || d.capped t.init (d.tCls t) p.1 then d.stall t i
        else ((d.flushFar t ps).accEcc ecc).thPut t ps n v kind rd

/-! ## Opening and closing credit pools (R121, R125) -/

/-- Device address of a pool's ring. -/
def Pool.ring (p : Pool) (b : Nat) : Nat :=
  blockBase b + (if p.sp = 4 then 0 else 0x80000 + p.sp * 0x20000) + p.base

/-- Change a pool. -/
def Dev.modPool (d : Dev) (b p : Nat) (f : Pool → Pool) : Dev :=
  d.modBlk b fun k => k.setPool p (f (k.pool p))

/-- Open a pool with FREE at SIZE (R121). -/
def openPool (p : PoolParam) (ctx : Nat) : Pool :=
  { valid := true, sp := p.sp, base := p.base, size := p.size, part := p.part, ctx := ctx, free := p.size }

/-- A closing pool with no grant left is closed (R125). -/
def Pool.closeIf (p : Pool) : Pool := if p.closing ∧ p.grants = [] then {} else p

/-- Tasks whose threads hold a grant of a pool, on a block or in a saved set. -/
def Dev.writersOf (d : Dev) (b p : Nat) : List Nat :=
  ((d.blocks.flatMap fun k => k.2.threads) ++ d.tiles.flatMap fun t => t.2.saves.flatMap fun x => x.2.threads).filterMap
    fun h => if h.2.grants.any fun g => g.block == b && g.pool == p then h.2.op else none

/-- The waiting requests of a pool, in order of arrival. -/
def Dev.waitersOf (d : Dev) (b p : Nat) : List (Nat × Nat) :=
  (d.blk b).waiters.filter fun w => match ((d.blk w.1).thr w.2).wait with
    | .acq b' p' _ _ => b' == b && p' == p
    | _ => false

/-- A pool closes (R125): new grants stop, so that the requests that wait for one are refused as a new one is, and
in abort mode the tasks that hold a grant of it end as ABORTED, their later writes with them. DEDUCED (log 29). -/
def Dev.closePool (d : Dev) (b p : Nat) (abort : Bool) : Dev :=
  let writers := d.writersOf b p
  let q := (d.blk b).pool p
  let d := (d.waitersOf b p).foldl (fun d w =>
    let t := thrId w
    (d.deny t.init (d.tPart t) 2 false (q.ring b)).except t stDenied 5) d
  let d := if abort then writers.foldl (fun d k => d.endOp k stAborted true) d else d
  d.modPool b p fun q => Pool.closeIf { q with closing := true, grants := if abort then [] else q.grants }

/-! ## Control and status registers (R104, R110) -/

/-- A pool entry as a context image holds it (R143). -/
def PoolParam.word (p : PoolParam) : Nat :=
  pack [(b2n p.valid, 0, 1), (p.sp, 1, 3), (p.base, 4, 19), (p.size, 23, 13), (p.part, 36, 6)]

/-- Core cycles counted (R104): one in 2 ns of T, whose step at acquisition is none (R27, R44). DEDUCED (log 27). -/
def Dev.cycles (d : Dev) : Nat :=
  (((d.time.now - d.time.stepped) / 2 + Config.cycleStart) % 2 ^ 64).toNat

/-- The value of a CSR that a thread may read in its mode; none where the read is illegal (R110). The machine-level
CSRs are those with bits 9:8 set; the base's own ones are open. gwpool is the entry of the block's pool that gwpoolsel
selects, in the layout of R143; its counts and pointers have no place there that the manual gives, and its bits above
41 are free. DEDUCED (log 27). -/
def Dev.csr (d : Dev) (t : ThreadId) (n : Nat) : Option Nat :=
  let h := d.thr t
  let o := d.op (d.tok t)
  if bits n 8 2 ≠ 0 ∧ h.machine = false then none
  else if 0x7C0 ≤ n ∧ n < 0x7C8 then
    let w := h.windows.getD ((n - 0x7C0) / 2) (0, 0)
    some (if n % 2 = 0 then w.1 else w.2)
  else if n = 0x7C8 then some h.poolsel
  else if n = 0x7C9 then
    let q := (d.blk t.b).pool h.poolsel
    some (PoolParam.word ⟨q.valid, q.sp, q.base, q.size, q.part⟩ + Config.freeNat d.free % 2 ^ 22 * 2 ^ 42)
  else if n = 0xCC0 then some (b2n h.poison)
  else if n = 0xCC1 then some h.elast
  else if n = 0xCC2 then some (pack [(t.init, 0, 10), (d.tPart t, 10, 6), (o.ctx, 16, 12), (t.thread.val, 28, 3)])
  else if n = 0xCC3 then some (d.wb % 2 ^ 32)
  else if n = 0xC00 then some d.cycles
  else if n = 0xC01 then some d.time.now
  else some (Config.freeNat d.free % 2 ^ 64)

/-- A write of gwpool: VALID = 1 opens the pool where none is open, VALID = 0 closes it in the mode of its context
(R121, R125); a write to an open pool, and one of a reserved SCRATCHPAD or SIZE, change nothing. DEDUCED (log 27). -/
def Dev.setPoolCsr (d : Dev) (t : ThreadId) (v : Nat) : Dev :=
  let p := (d.thr t).poolsel
  let q := (d.blk t.b).pool p
  let x : PoolParam := ⟨bit v 0, bits v 1 3, bits v 4 19, bits v 23 13, bits v 36 6⟩
  if x.valid then
    if q.valid ∨ 4 < x.sp ∨ x.size = 0 then d else d.modPool t.b p fun _ => openPool x (d.tCtx t)
  else if q.valid then d.closePool t.b p (d.ctx q.ctx).abort else d

/-- Write a relocation register or gwpoolsel of a thread. -/
def Thread.setCsr (h : Thread) (n v : Nat) : Thread :=
  let k := (n - 0x7C0) / 2
  if 0x7C0 ≤ n ∧ n < 0x7C8 then
    let w := h.windows.getD k (0, 0)
    let ws := (List.range 4).map fun i => h.windows.getD i (0, 0)
    { h with windows := ws.set k (if n % 2 = 0 then (v, w.2) else (w.1, v)) }
  else if n = 0x7C8 then { h with poolsel := v % 16 }
  else h

/-- Write a CSR. -/
def Dev.setCsr (d : Dev) (t : ThreadId) (n v : Nat) : Dev :=
  if n = 0x7C9 then d.setPoolCsr t v else d.modT t fun h => h.setCsr n v

/-- A CSR instruction: its old value to `rd`, and a write where it makes one. An access to a machine-level CSR in
user mode, and a write of a read-only one (bits 11:10 set), are illegal (R110, R130). -/
def Dev.csrOp (d : Dev) (t : ThreadId) (rd n : Nat) (write : Option (Nat → Nat)) : Dev :=
  match d.csr t n with
  | none => d.excPoison t 2
  | some v =>
    if write.isSome ∧ bits n 10 2 = 3 then d.excPoison t 2
    else
      let d := { d with free := d.free + 1 }
      (match write with
        | some f => d.setCsr t n (f v)
        | none => d).ret t rd v

/-- What a CSR instruction with operand `x`, from source field `src`, writes: a set or a clear with field 0 writes
nothing (Zicsr). PRESUMED (log 27). -/
def csrNew (f : CsrOp) (src x : Nat) : Option (Nat → Nat) :=
  match f with
  | .swap => some fun _ => x
  | .set => if src = 0 then none else some fun v => v ||| x
  | .clear => if src = 0 then none else some fun v => v &&& (2 ^ 64 - 1 - x)

/-! ## Loads and stores -/

/-- THREAD_LOAD. DESIGN CHOICE (log 27). -/
def execThreadLoad (t : ThreadId) (rd rs1 : XReg) (imm : BitVec 12) (width : Fin 4) (sext : Bool)
    (kind : LoadKind) (ecc : List EccFinding) (s : State) : Res :=
  let i := Instr.threadLoad t rd rs1 imm width sext kind []
  onThread t i (fun d =>
    let w := 2 ^ width.val
    match kind with
    | .csr n => d.csrOp t rd.val n.val none
    | .reserved => d.thLoad t i rd.val (d.tx t rs1) w w sext kind ecc
    | .vector n => d.thLoad t i rd.val (d.ea t rs1 imm) w (n.val / w * w) sext kind ecc
    | _ => d.thLoad t i rd.val (d.ea t rs1 imm) w w sext kind ecc) s

/-- THREAD_STORE. DESIGN CHOICE (log 27). -/
def execThreadStore (t : ThreadId) (rs1 rs2 : XReg) (imm : BitVec 12) (width : Fin 4) (kind : StoreKind)
    (rd : XReg) (ecc : List EccFinding) (s : State) : Res :=
  let i := Instr.threadStore t rs1 rs2 imm width kind rd []
  onThread t i (fun d =>
    let w := 2 ^ width.val
    match kind with
    | .csr f number n => d.csrOp t rd.val n.val (csrNew f rs1.val (if number then rs1.val else d.tx t rs1))
    | .vector n => d.thStore t i (d.ea t rs1 imm) w (n.val / w * w) (tget (fun _ => 0) (d.thr t).v rs2.val).toNat kind rd.val ecc
    | .plain => d.thStore t i (d.ea t rs1 imm) w w (d.tx t rs2) kind rd.val ecc
    | .float => d.thStore t i (d.ea t rs1 imm) w w (tget (fun _ => 0) (d.thr t).f rs2.val).toNat kind rd.val ecc
    | _ => d.thStore t i (d.tx t rs1) w w (d.tx t rs2) kind rd.val ecc) s
/-- GW_PTEST: the poison of a granule, or with rs1 = x0 the thread's own flag (R106). -/
def execGwPtest (t : ThreadId) (rd rs1 : XReg) (s : State) : Res :=
  onThread t (.gwPtest t rd rs1)
    (fun d =>
      if rs1.val = 0 then d.ret t rd.val (b2n (d.thr t).poison)
      else match d.thAccess t (d.tx t rs1) 1 false with
        | (d, none) => d
        | (d, some a) => d.ret t rd.val (b2n (d.poisoned a))) s

/-! ## Engine launches (R107) -/

/-- GW.ELAUNCH issues. -/
def Dev.elaunch (d : Dev) (t : ThreadId) (i : Instr) (rd off : Nat) : Dev :=
  let b := t.b
  let k := d.tok t
  let o := d.op k
  let h := d.thr t
  let seq := h.seq
  let nextSeq (d : Dev) : Dev := d.modT t fun h => { h with seq := (seq + 1) % 65536, firstIssue := none }
  if !o.static && d.withdrawn b then
    let d := (nextSeq d).modT t fun h => { h with elast := seq + stAborted * 65536 + 2147483648, poison := true }
    (d.modOp k fun o => { o with launched := o.launched + 1 }).ret t rd seq
  else
    let w := h.firstIssue.getD (d.wb, (d.blk b).stamp)
    let d := if h.firstIssue.isSome then d else d.modBlk b fun q => { q with stamp := q.stamp + 1 }
    let d := d.modT t fun h => { h with firstIssue := some w }
    let sel := d.coreSelect b o.part off
    let kid := d.freeToken (tileOf b)
    let e := d.mkEng b {
      token := k, ctx := o.ctx, part := o.part, src := .core t.core t.thread, seq := seq
      desc := off, issueW := w.1, ord := w.2, entry := some kid, static := o.static, unchecked := (d.part o.part).debug
      deadline := o.deadline } sel.1
    if 4 ≤ (d.blk b).pendingOps ∨ 256 ≤ d.blkCharge b ∨
        (if o.static then 4096 ≤ d.trkUsed (tileOf b) else d.dynFree (tileOf b) = 0) then d.stall t i
    else if !(d.blk b).sbFits e.entries then d.sbStall t i
    else
      let d := if d.fraction o.part ≠ 0 ∧ d.fraction o.part ≠ 5 ∧ e.words ≠ [] ∧ d.inelig b (descOf e.words) = true ∧
          ¬ (d.part o.part).debug then d.bump (R.rxInelig b) else d
      let d := d.modBlk b fun q => { q with
        eng := q.eng ++ [e], selCnt := if sel.2 then (q.selCnt + 1) % 16 else q.selCnt }
      let d := (d.modOp k fun o => { o with launches := o.launches + 1, kids := o.kids ++ [kid] }).peak (tileOf b)
      (nextSeq d).ret t rd seq

/-- GW_ELAUNCH. -/
def execGwElaunch (t : ThreadId) (rd rs1 : XReg) (s : State) : Res :=
  onThread t (.gwElaunch t rd rs1) (fun d => d.elaunch t (.gwElaunch t rd rs1) rd.val (d.tx t rs1)) s

/-- GW_RFENCE: waits while a producer entry overlaps [rs1, rs1 + rs2); with rs2 = 0, while one of an
operation that this thread launched remains (R120). -/
def execGwRfence (t : ThreadId) (rs1 rs2 : XReg) (s : State) : Res :=
  onThread t (.gwRfence t rs1 rs2)
    (fun d =>
      let lo := d.tx t rs1
      let n := d.tx t rs2
      let live := (d.blk t.b).eng.filter (·.stage != .waiting)
      let busy := if n = 0 then live.any fun e => e.src == .core t.core t.thread && e.entries.any (·.producer)
        else live.any fun e => e.entries.any fun x => x.producer && meets x.lo (x.hi - x.lo) lo n
      if busy then d.stall t (.gwRfence t rs1 rs2) else d.ret t 0 0) s

/-! ## Credits (R121 to R125) -/

/-- The open or closing pool whose ring starts at a device address: block and pool. -/
def Dev.poolAt (d : Dev) (a : Nat) : Option (Nat × Nat) :=
  match target a with
  | .spad b => ((d.blk b).pools.find? fun e => e.2.valid ∧ e.2.ring b = a).map fun e => (b, e.1)
  | _ => none

/-- A credit instruction names no pool: an unmapped address or the window of a spare or retired block is refused
under R26, any other address by the firewall of the target it names (R181). CAUSE in GC_LAST_EXC_n is that of an access
fault, 5 where the instruction reads the pool and 7 where it writes it: the manual gives none. DEDUCED (log 28). -/
def Dev.noPool (d : Dev) (t : ThreadId) (a cause : Nat) : Dev :=
  let r := (d.refusal t.init (d.tPart t) a false false).getD (2, false)
  (d.deny t.init (d.tPart t) r.1 r.2 a).except t stDenied cause

/-- Outcome of a credit request against a pool's counts (R122): 0 refused with rd 0, 1 wait, 2 grant. -/
def Pool.test (p : Pool) (n : Nat) : Nat :=
  if n = 0 then 0 else if p.size < p.wptr + n then 0 else if p.free < n then 1 else 2

/-- Grant `n` granules to a thread of block `wb`, thread number `wt`. -/
def Dev.grant (d : Dev) (b p n wb wt rd : Nat) : Dev :=
  let q := (d.blk b).pool p
  let a := q.ring b + 64 * q.wptr
  let d := d.modPool b p fun q => { q with
    free := q.free - n, wptr := (q.wptr + n) % q.size, grants := q.grants ++ [(a, n, false)] }
  d.modThr wb wt fun h => { h.wx rd a with
    wait := .none, moved := true, grants := h.grants ++ [⟨a, b, p, n⟩] }

/-- Serve the waiting requests of a pool in order of arrival after FREE grew (R122). A closing pool grants nothing
(R125). DEDUCED (log 29). -/
def Dev.serve (d : Dev) (b p : Nat) : Dev :=
  ((d.waitersOf b p).foldl (fun (r : Dev × Bool) w =>
    let d := r.1
    match ((d.blk w.1).thr w.2).wait with
    | .acq _ _ n rd =>
      let t := ((d.blk b).pool p).test n
      if r.2 ∨ t = 1 ∨ (d.blk b).preempt.isSome ∨ ((d.blk b).pool p).closing then (d, true)
      else
        let d := d.modBlk b fun k => { k with waiters := k.waiters.filter (· ≠ w) }
        if t = 2 then (d.grant b p n w.1 w.2 rd, false)
        else ((d.bump (R.gcCreditDeny b)).modThr w.1 w.2 fun h =>
          { h.wx rd 0 with wait := .none, moved := true }, false)
    | _ => (d, r.2)) (d, false)).1

/-- GW_CREDIT_ACQ. DEDUCED (log 29). -/
def execGwCreditAcq (t : ThreadId) (rd rs1 rs2 : XReg) (s : State) : Res :=
  onThread t (.gwCreditAcq t rd rs1 rs2)
    (fun d =>
      let n := bits (d.tx t rs2) 0 13
      let nb := bit (d.tx t rs2) 31
      match d.relocate t (d.tx t rs1) with
      | .fault => d.excReloc t (d.tx t rs1)
      | .outOfService a => (d.deny t.init (d.tPart t) 2 true a).except t stDenied 5
      | .addr a =>
        if 4 ≤ (d.thr t).grants.length then d.stall t (.gwCreditAcq t rd rs1 rs2)
        else match d.poolAt a with
          | none => d.noPool t a 5
          | some (b, p) =>
            let q := (d.blk b).pool p
            if q.closing ∨ q.part ≠ d.tPart t then (d.deny t.init (d.tPart t) 2 false a).except t stDenied 5
            else
              let queued := !(d.waitersOf b p).isEmpty
              match q.test n with
              | 0 => (d.bump (R.gcCreditDeny b)).ret t rd.val 0
              | 2 => if queued ∨ (d.blk b).preempt.isSome then (if nb then d.ret t rd.val 0 else wait' d b p n)
                  else d.grant b p n t.b (thrNum t) rd.val
              | _ => if nb then d.ret t rd.val 0 else wait' d b p n) s
where
  /-- The request waits at the target. -/
  wait' (d : Dev) (b p n : Nat) : Dev :=
    (d.modT t fun h => { h with wait := .acq b p n rd.val }).modBlk b fun k =>
      { k with waiters := k.waiters ++ [(t.b, thrNum t)] }

/-- Publish a grant of a pool: FILLED grows by the grants that are contiguous from the oldest (R124).
DEDUCED (log 29). -/
def Pool.publish (p : Pool) (a : Nat) : Pool :=
  let gs := mapIf (fun g => g.1 == a && !g.2.2) (fun g => (g.1, g.2.1, true)) p.grants
  let done := gs.takeWhile fun g => g.2.2
  Pool.closeIf { p with
    grants := gs.dropWhile fun g => g.2.2, filled := p.filled + done.foldl (fun n g => n + g.2.1) 0 }

/-- GW_CREDIT_PUB: publishes once no write of the thread into the grant waits at the target (R124), nor the path to
the pool is under repair (R157, R216). -/
def execGwCreditPub (t : ThreadId) (rs1 : XReg) (s : State) : Res :=
  onThread t (.gwCreditPub t rs1)
    (fun d =>
      match d.relocate t (d.tx t rs1) with
      | .fault => d.excReloc t (d.tx t rs1)
      | .outOfService a => (d.deny t.init (d.tPart t) 2 true a).except t stDenied 7
      | .addr a =>
        match (d.thr t).grants.find? (·.addr = a) with
        | some g =>
          let d := d.flushBlk g.block
          if (g.block ≠ t.b ∧ d.pathStalls t.b a = true) ∨ d.postedOn (d.tok t) a (64 * g.n) = true then
            d.stall t (.gwCreditPub t rs1)
          else ((d.modPool g.block g.pool (·.publish a)).modT t fun h =>
            { h with grants := h.grants.filter (·.addr ≠ a) }).ret t 0 0
        | none => d.ret t 0 0) s

/-- GW_CREDIT_TAKE: a thread of the pool's block takes published granules (R124). DEDUCED (log 29). -/
def execGwCreditTake (t : ThreadId) (rd rs1 rs2 : XReg) (s : State) : Res :=
  onThread t (.gwCreditTake t rd rs1 rs2)
    (fun d =>
      let n := bits (d.tx t rs2) 0 13
      match d.relocate t (d.tx t rs1) with
      | .fault => d.excReloc t (d.tx t rs1)
      | .outOfService a => (d.deny t.init (d.tPart t) 2 true a).except t stDenied 5
      | .addr a => match d.poolAt a with
        | none => d.noPool t a 5
        | some (b, p) =>
          let q := (d.blk b).pool p
          if b ≠ t.b then (d.deny t.init (d.tPart t) 2 false a).except t stDenied 5
          else if n = 0 then d.ret t rd.val 0
          else if q.filled < n then (if bit (d.tx t rs2) 31 then d.ret t rd.val 0 else d.stall t (.gwCreditTake t rd rs1 rs2))
          else (d.modPool b p fun q => { q with
              filled := q.filled - n, taken := q.taken + n, rptr := (q.rptr + n) % q.size }).ret t rd.val
            (q.ring b + 64 * q.rptr)) s

/-- GW_CREDIT_REL: FREE grows, not beyond the granules taken and not yet released, and waiting
requests are tested again (R122, R124). DEDUCED (log 29). -/
def execGwCreditRel (t : ThreadId) (rs1 rs2 : XReg) (s : State) : Res :=
  onThread t (.gwCreditRel t rs1 rs2)
    (fun d =>
      match d.relocate t (d.tx t rs1) with
      | .fault => d.excReloc t (d.tx t rs1)
      | .outOfService a => (d.deny t.init (d.tPart t) 2 true a).except t stDenied 7
      | .addr a => match d.poolAt a with
        | none => d.noPool t a 7
        | some (b, p) =>
          let n := min (bits (d.tx t rs2) 0 13) ((d.blk b).pool p).taken
          ((d.modPool b p fun q => { q with free := q.free + n, taken := q.taken - n }).serve b p).ret t 0 0) s

/-! ## Tick waits and items of static threads (R108, R470) -/

/-- The item of a static thread ends, when it next issues GW.TWAIT.TAG: its status is that of a task
that ends by itself. -/
def taskStatus (h : Thread) (o : Op) : Nat :=
  if h.denied then stDenied else if h.poison then stPoisoned
  else if o.unchecked then stUnchecked else if o.replayed then stReplayed else stDone

/-- The wingbeat at which the limit of a wait expires; none without a limit. -/
def Dev.waitLimit (d : Dev) (n : Nat) : Option Nat := if n = 0 then none else some (d.wb + n)

/-- GW_TWAIT_TAG. DEDUCED (log 30). -/
def execGwTwaitTag (t : ThreadId) (rd rs1 rs2 : XReg) (s : State) : Res :=
  onThread t (.gwTwaitTag t rd rs1 rs2)
    (fun d =>
      let h := d.thr t
      let k := d.tok t
      let w := Wait.tag (bits (d.tx t rs1) 0 16) (d.waitLimit (d.tx t rs2)) rd.val
      let d := if h.static.isSome then (d.settle k (taskStatus h (d.op k))).modT t fun h => { h with op := none }
        else d
      d.modT t fun h => { h with wait := w, moved := true }) s

/-- GW_TWAIT_CLASS: a reserved class raises an illegal-instruction exception (R37). DEDUCED (log 30). -/
def execGwTwaitClass (t : ThreadId) (rd rs1 rs2 : XReg) (s : State) : Res :=
  onThread t (.gwTwaitClass t rd rs1 rs2)
    (fun d =>
      let c := bits (d.tx t rs1) 0 3
      if 4 < c then d.excPoison t 2
      else d.modT t fun h => { h with wait := .cls c (d.waitLimit (d.tx t rs2)) rd.val, moved := true }) s

/-- A thread wakes from a tick wait: rd[15:0] is W[15:0] and rd[16] says that the limit expired; a
static thread that waited for a tag begins an item with the deadline and SLOT given (R470). DEDUCED (log 30). -/
def Dev.wake (d : Dev) (b n : Nat) (expired : Bool) (deadline : Option Nat) (slot : Nat) : Dev :=
  let h := (d.blk b).thr n
  let v := d.wb % 65536 + b2n expired * 65536
  match h.wait with
  | .tag _ _ rd =>
    let d := d.modThr b n fun h => { h.wx rd v with wait := .none, moved := true }
    match h.static with
    | some c =>
      let x := d.ctx c
      let (k, d) := d.alloc (tileOf b)
        { kind := .item, static := true, ctx := c, part := x.part, slot := slot, placed := true,
          block := some b, thread := some n, entry := x.entry, cls := (d.part x.part).cls, deadline := deadline }
      d.modThr b n fun h => { h with op := some k, poison := false, denied := false, elast := 0 }
    | none => d
  | .cls _ _ rd => d.modThr b n fun h => { h.wx rd v with wait := .none, moved := true }
  | _ => d

/-- TWAIT_LIMIT_EXPIRY: a tick of the awaited class that falls at the same wingbeat comes first (R108).
DEDUCED (log 30). -/
def execTwaitLimitExpiry (t : ThreadId) (s : State) : Res :=
  onDevIf (fun d => d.tileUp (tileOf t.b) && (d.blk t.b).svc != .retired && (match (d.thr t).wait with
      | .tag _ (some l) _ => decide (l ≤ d.wb)
      | .cls c (some l) _ => decide (l ≤ d.wb) &&
          !(decide (c ≠ 0) && decide (d.wb % d.classLen c = 0) && !d.time.ticked.contains c)
      | _ => false))
    (fun d => d.wake t.b (thrNum t) true none 0xFFFF) s

/-! ## Exceptions and array errors -/

/-- Whether a debug session observes the partition (R130's EBREAK row). -/
def Dev.observed (d : Dev) (p : Nat) : Bool := d.sec.dbgOpen && d.sec.dbgParts.contains p

/-- The Gwynnath instruction that a word of opcode custom-0 spells for a thread (R106). -/
def gwDecode (t : ThreadId) (w : BitVec 32) : Option Instr :=
  let x := w.toNat
  let rd : XReg := Fin.ofNat 32 (bits x 7 5)
  let rs1 : XReg := Fin.ofNat 32 (bits x 15 5)
  let rs2 : XReg := Fin.ofNat 32 (bits x 20 5)
  if bits x 0 7 ≠ 0b0001011 then none
  else match bits x 12 3, bits x 25 7 with
    | 0b000, 0b0000000 => some (.gwElaunch t rd rs1)
    | 0b001, 0b0000000 => some (.gwCreditAcq t rd rs1 rs2)
    | 0b001, 0b0000001 => some (.gwCreditPub t rs1)
    | 0b001, 0b0000010 => some (.gwCreditTake t rd rs1 rs2)
    | 0b001, 0b0000011 => some (.gwCreditRel t rs1 rs2)
    | 0b010, 0b0000000 => some (.gwRfence t rs1 rs2)
    | 0b011, 0b0000000 => some (.gwTwaitTag t rd rs1 rs2)
    | 0b011, 0b0000001 => some (.gwTwaitClass t rd rs1 rs2)
    | 0b100, 0b0000000 => some (.gwPtest t rd rs1)
    | _, _ => none

/-- A Gwynnath instruction of a thread runs. -/
def runGw (i : Instr) (s : State) : Res :=
  match i with
  | .gwElaunch t rd rs1 => execGwElaunch t rd rs1 s
  | .gwCreditAcq t rd rs1 rs2 => execGwCreditAcq t rd rs1 rs2 s
  | .gwCreditPub t rs1 => execGwCreditPub t rs1 s
  | .gwCreditTake t rd rs1 rs2 => execGwCreditTake t rd rs1 rs2 s
  | .gwCreditRel t rs1 rs2 => execGwCreditRel t rs1 rs2 s
  | .gwRfence t rs1 rs2 => execGwRfence t rs1 rs2 s
  | .gwTwaitTag t rd rs1 rs2 => execGwTwaitTag t rd rs1 rs2 s
  | .gwTwaitClass t rd rs1 rs2 => execGwTwaitClass t rd rs1 rs2 s
  | .gwPtest t rd rs1 => execGwPtest t rd rs1 s
  | _ => .next s

/-- TASK_EXCEPTION: RISC-V cause 2, 4 or 3. A word that spells a Gwynnath instruction runs as that instruction
(R106), an EBREAK under a debug session is no exception, and an ECALL passes to the firmware in machine mode, from
which MRET, illegal in user mode, returns (R104, R130). DEDUCED (log 27). -/
def execTaskException (t : ThreadId) (cause : ExcCause) (s : State) : Res :=
  match cause with
  | .illegal w => match gwDecode t w with
    | some i => runGw i s
    | none => exc (·.excPoison t 2)
  | .misaligned => exc (·.excPoison t 4)
  | .ebreak => exc fun d => if d.observed (d.tPart t) then d else d.excPoison t 3
  | .ecall => exc fun d => d.modT t fun h => { h with machine := true, moved := true }
  | .mret => exc fun d =>
    if (d.thr t).machine then d.modT t fun h => { h with machine := false, moved := true } else d.excPoison t 2
where
  /-- The thread issues the instruction. -/
  exc (f : Dev → Dev) : Res := onThread t (.taskException t cause) f s

/-- Array errors in 3 epochs within 1,000 powered hours retire the block (R131). An epoch of this start is kept as
its number + 1, one of an earlier start, in which T counted anew (R43), as 0. DEDUCED (log 31). -/
def Dev.arrayError (d : Dev) (b : Nat) : Dev :=
  let h := d.chip.hours
  let old := (d.blk b).arrEp.filter fun e => h - e.2 ≤ 1000
  let new := if old.any (·.1 = d.epoch + 1) then old else old ++ [(d.epoch + 1, h)]
  let d := d.modBlk b fun k => { k with arrEp := new }
  if old.length < 3 ∧ new.length = 3 then
    (d.evBlk 2 0x1044 b [3, (new.headD (0, 0)).2]).retireReq b 0x1044
  else d

/-- CORE_ARRAY_PARITY. DEDUCED (log 31). -/
def execCoreArrayParity (t : ThreadId) (array : Fin 256) (s : State) : Res :=
  onDevIf (fun d => (d.blk t.b).svc != .retired && d.tileUp (tileOf t.b))
    (fun d =>
      let d := (d.bump (R.gcArrayErr t.b)).evBlk 2 0x1043 t.b [t.core.val, t.thread.val, array]
      let d := if (d.thr t).op.isSome then d.except t stPoisoned 0x42 else d
      d.arrayError t.b) s

/-! ## Scrub and row repair (R127 to R129) -/

/-- SCRUB_PASS_COMPLETE: a word corrected in two consecutive passes makes its row due for repair. DEDUCED (log 31). -/
def execScrubPassComplete (b : Fin 144) (ecc : List EccFinding) (s : State) : Res :=
  onDevIf (fun d => (d.blk b).svc != .retired)
    (fun d =>
      let mine := ecc.filter fun f => target f.addr == .spad b.val
      let d := d.sramEccs b mine
      let fixed := (mine.filter fun f => !f.double).map fun f => f.addr.val / 8
      let d := d.setReg (R.spScrub b) ((d.reg (R.spScrub b) + 1) % 65536)
      d.modBlk b fun k =>
        let again := mine.filter fun f => !f.double && k.scrubbed.contains (f.addr.val / 8)
        let k := again.foldl (fun k f =>
          let (sp, bank, row, _) := spPlace (spadOff f.addr)
          k.rowFails (rowKey sp bank row)) k
        { k with scrubbed := fixed, passes := (k.passes + 1) % 65536 }) s

/-- ROW_REPAIR: the lowest free spare row of the bank takes the row's place, or the block is retired
where no spare row is left. DEDUCED (log 31). -/
def execRowRepair (b : Fin 144) (sp : Fin 5) (bank : Fin 16) (row : Fin 64) (s : State) : Res :=
  onDevIf (fun d => (d.blk b).rowDue.contains (rowKey sp bank row))
    (fun d =>
      let r := rowKey sp.val bank.val row.val
      let bk := sp.val * 16 + bank.val
      let used := tget (fun _ => 0) (d.blk b).spares bk
      let d := d.modBlk b fun k => { k with rowDue := k.rowDue.filter (· ≠ r) }
      if used < 4 then
        let d := d.modBlk b fun k => { k with
          spares := tset (fun _ => 0) k.spares bk (used + 1), rows := k.rows ++ [r]
          rowCe := tset (fun _ => 0) k.rowCe r 0 }
        let d := d.evBlk 0 0x2082 b [sp, bank, row, 3 - used]
        if used = 3 then d.evBlk 5 0x2084 b [sp, bank] else d
      else (d.evBlk 5 0x2083 b [sp, bank, row]).retireReq b 0x2083) s

end Sys2Proof.Machine
end

