-- ==== Sys2Proof/Machine/Launch.lean ====
section
/-! DEFINITION. Reading the launch tables (R47 to R51) from the hub store, pairing repeats with their
operations (R287), and when a block's next SLOT_BEGIN falls. -/

namespace Sys2Proof.Machine

/-- A launch word decoded (R47). -/
structure LWord where
  cls      : Nat
  once     : Bool
  tiles    : Nat
  hub      : Bool
  offset   : Nat
  action   : Nat
  part     : Nat
  blocks   : Nat
  arg0     : Nat
  deadline : Nat
  /-- Its table, 0 to 3 of the tiles and 4 of the hub, and its index there. -/
  table    : Nat
  index    : Nat
  deriving DecidableEq, Repr

/-- The fields of a launch word's four 64-bit words. -/
def lword (table index : Nat) (b : LaunchBits) : LWord :=
  { cls := bits b.w0 0 3, once := bit b.w0 3, tiles := bits b.w0 4 4, hub := bit b.w0 8
    offset := bits b.w0 16 13, action := bits b.w0 32 8, part := bits b.w0 40 6
    blocks := bits b.w1 0 32, arg0 := b.w2, deadline := bits b.w3 0 13, table := table, index := index }

/-- Hub-store address of the launch tables. -/
def Dev.launchBase (d : Dev) : Nat := hubBase + d.fld R.tkLaunchBase 12 13 * 4096

/-- Drop repeats of equal neighbours. -/
def dedup (l : List Nat) : List Nat :=
  l.foldr (fun a r => match r with
    | b :: _ => if a = b then r else a :: r
    | [] => [a]) []

/-- Every launch word in use, in the order in which words of one wingbeat execute: the hub's table
first, then those of the tiles, each in table order (R50). A slot of zeros is unused. DEDUCED (log 16). -/
def Dev.launchWords (d : Dev) : List LWord :=
  let base := d.launchBase
  let slots := dedup ((d.mem.filter fun e => decide (base ≤ e.1) && decide (e.1 < base + 0x50000)).map
    fun e => (e.1 - base) / 32)
  let words := slots.map fun i =>
    let w k := d.rdN (base + 32 * i + 8 * k) 8
    lword (i / 2048) (i % 2048) ⟨w 0, w 1, w 2, w 3⟩
  words.filter (·.table = 4) ++ words.filter (·.table < 4)

/-- Number of a word: table × 2,048 + index. -/
def LWord.id (w : LWord) : Nat := w.table * 2048 + w.index

/-- Whether a word is due at wingbeat W (R49), a once-only word while it has not yet executed (R51). -/
def Dev.wordDue (d : Dev) (w : LWord) : Bool :=
  let l := d.classLen w.cls
  l != 0 && d.wb % l == w.offset && !(w.once && d.time.once.contains w.id)

/-- The (tile, logical block) pairs a word names. -/
def LWord.units (w : LWord) : List (Nat × Nat) :=
  ((List.range 4).filter (bit w.tiles)).flatMap fun t =>
    ((List.range 32).filter (bit w.blocks)).map fun l => (t, l)

/-- Whether a word names a logical block. -/
def LWord.names (w : LWord) (t l : Nat) : Bool := bit w.tiles t && bit w.blocks l

/-- Whether a word is a candidate for the pair of a repeat word (R287). -/
def LWord.pairs (w r : LWord) : Bool :=
  w.action == 2 && w.table == r.table && w.cls == r.cls && w.part == r.part && w.arg0 == r.arg0 &&
    w.hub == r.hub && (w.tiles &&& r.tiles) == r.tiles && (w.blocks &&& r.blocks) == r.blocks &&
    (decide (w.offset < r.offset) || (w.offset == r.offset && decide (w.index < r.index)))

/-- The pair of a repeat word: the candidate with the highest OFFSET, the latest in table order. -/
def pairOf (ws : List LWord) (r : LWord) : Option LWord :=
  (ws.filter (·.pairs r)).foldl (fun best w => match best with
    | none => some w
    | some v => if v.offset < w.offset ∨ (v.offset = w.offset ∧ v.index < w.index) then some w else some v) none

/-- Whether an ENGINE word has a repeat for a logical block. -/
def Dev.hasRepeat (d : Dev) (w : LWord) (t l : Nat) : Bool :=
  let ws := d.launchWords
  ws.any fun r => r.action == 6 && r.names t l && (pairOf ws r == some w)

/-- Wingbeats from now to the next SLOT_BEGIN on a physical block, at least 1. -/
def Dev.nextSlot (d : Dev) (b : Nat) : Option Nat :=
  match d.logical b with
  | none => none
  | some l =>
    (d.launchWords.filterMap fun w =>
      let n := d.classLen w.cls
      if w.action = 3 ∧ w.names (tileOf b) l = true ∧ n ≠ 0 ∧ ¬ (w.once ∧ w.id ∈ d.time.once) then
        some ((w.offset + n - d.wb % n - 1) % n + 1)
      else none).min?

/-- Whether the block's next SLOT_BEGIN is more than `n` wingbeats away. -/
def Dev.slotFar (d : Dev) (b n : Nat) : Bool :=
  match d.nextSlot b with
  | some k => decide (n < k)
  | none => true

end Sys2Proof.Machine
end

