-- ==== Sys2Proof/Machine/Kv.lean ====
section
/-! DEFINITION. The KV pool and block tables (R205 to R209), the prefix index (R195, R196), the output
buffer (R189), and what a request gives back when it ends. -/

namespace Sys2Proof.Machine

/-- Instance `i` of the sequencer. -/
def Dev.inst (d : Dev) (i : Nat) : Inst := tget (fun _ => {}) d.srv.insts i
/-- Change an instance. -/
def Dev.modInst (d : Dev) (i : Nat) (f : Inst → Inst) : Dev :=
  { d with srv := { d.srv with insts := tmod (fun _ => {}) d.srv.insts i f } }
/-- The request with a token. -/
def Dev.req (d : Dev) (k : Nat) : Req := tget (fun _ => {}) d.srv.reqs k
/-- Change a request. -/
def Dev.modReq (d : Dev) (k : Nat) (f : Req → Req) : Dev :=
  { d with srv := { d.srv with reqs := tmod (fun _ => {}) d.srv.reqs k f } }
/-- Prefix entry `e`. -/
def Dev.pfx (d : Dev) (e : Nat) : Pfx := tget (fun _ => {}) d.srv.pfx e
/-- Change a prefix entry. -/
def Dev.modPfx (d : Dev) (e : Nat) (f : Pfx → Pfx) : Dev :=
  { d with srv := { d.srv with pfx := tmod (fun _ => {}) d.srv.pfx e f } }

/-! ## The pool -/

/-- Take the block on top of the free stack; QM_KV_LOW follows the lowest count since it was read, which
cleared it (R6). DEDUCED (log 46). -/
def Dev.kvPop (d : Dev) (i : Nat) : Option (Nat × Dev) :=
  let s := d.inst i
  if s.kvFree = 0 then none
  else some (d.rdN (s.kvStack + 4 * (s.kvFree - 1)) 4,
    d.modInst i fun s => { s with kvFree := s.kvFree - 1, kvRead := false, kvLow := if s.kvRead then s.kvFree - 1 else min s.kvLow (s.kvFree - 1) })

/-- Give a block back. DEDUCED (log 46). -/
def Dev.kvPush (d : Dev) (i n : Nat) : Dev :=
  let s := d.inst i
  (d.storeAs s.part (s.kvStack + 4 * s.kvFree) (toLE 4 n)).modInst i fun s => { s with kvFree := s.kvFree + 1 }

/-- STRIDE of an instance's block tables (R208). DEDUCED (log 46). -/
def Inst.stride (s : Inst) : Nat := roundUp (4 * ceilDiv s.maxCtx 16) 64
/-- Address of the block table of an admitted slot. -/
def Inst.table (s : Inst) (slot : Nat) : Nat := s.kvTable + slot * s.stride
/-- Address of the plan entry of the n-th entry. -/
def Inst.planEntry (s : Inst) (n : Nat) : Nat := s.plan + 64 + 64 * n

/-- Write a request's block table from its blocks; the other entries are 0xFFFF_FFFF (R208). DEDUCED (log 46). -/
def Dev.writeTable (d : Dev) (i slot : Nat) (kv : List Nat) : Dev :=
  let s := d.inst i
  let n := ceilDiv s.maxCtx 16
  d.storeAs s.part (s.table slot) ((List.range n).flatMap fun j => toLE 4 (kv.getD j 0xFFFFFFFF))

/-! ## Tokens and the output buffer -/

/-- Token `j` of a request's sequence: the prompt, then what it has generated. -/
def Dev.seqTok (d : Dev) (r : Req) (j : Nat) : Nat :=
  if j < r.plen then d.rdN (r.prompt + 4 * j) 4 else r.gen.getD (j - r.plen) 0

/-- Prompt length for prefill: with the tokens that a recomputation appended (R194). -/
def Req.effLen (r : Req) : Nat := r.plen + r.ext

/-- Write part of the output buffer: in host memory, where an update waits its turn while the link takes no write
(R454), or in DRAM for the request's partition. -/
def Dev.outWrite (d : Dev) (k : Nat) (r : Req) (off : Nat) (bs : List Byte) : Dev :=
  if r.outHost then
    if d.hostReady then d.hostWrite (r.out + off) bs
    else { d with host := { d.host with owed := d.host.owed ++ [(r.out + off, bs)] } }
  else d.storeAs (d.op k).part (r.out + off) bs

/-- Make the output-buffer updates that waited, in their order, once the link takes writes (R454). -/
def Dev.payOwed (d : Dev) : Dev :=
  if d.hostReady then
    d.host.owed.foldl (fun d w => d.hostWrite w.1 w.2) { d with host := { d.host with owed := [] } }
  else d

/-- Stream the tokens that the buffer does not show yet: tokens, then time, then GENERATED (R189).
DEDUCED (log 43). -/
def Dev.stream (d : Dev) (k : Nat) : Dev :=
  let r := d.req k
  let d := d.outWrite k r (64 + 4 * r.shown) ((r.gen.drop r.shown).flatMap (toLE 4))
  let d := d.outWrite k r 8 (toLE 8 d.time.now)
  (d.outWrite k r 0 (toLE 4 r.gen.length)).modReq k fun r => { r with shown := r.gen.length }

/-! ## The prefix index -/

/-- The 16 tokens of block `j` of a sequence as bytes. -/
def Dev.blockToks (d : Dev) (r : Req) (j : Nat) : List Byte :=
  (List.range 16).flatMap fun x => toLE 4 (d.seqTok r (16 * j + x))

/-- The chained hash of a block (R195). -/
def Dev.chainHash (d : Dev) (r : Req) (prev j : Nat) : Nat :=
  let s := d.inst r.inst
  sipHash s.key (toLE 8 prev ++ d.blockToks r j ++ (if s.scope then [] else toLE 2 r.customer))

/-- CUSTOMER of an entry: 0 with SCOPE 1. -/
def Dev.pfxCust (d : Dev) (r : Req) : Nat := if (d.inst r.inst).scope then 0 else r.customer

/-- Device address of an entry's tokens. -/
def Dev.pfxToks (d : Dev) (e : Nat) : Nat := d.fld R.qmPfxTokbase 0 28 * 4096 + 64 * e

/-- The way of a hash's set whose tag, instance and customer agree. -/
def Dev.tagMatch (d : Dev) (r : Req) (h : Nat) : List Nat :=
  ((List.range 12).map (h % 16384 * 12 + ·)).filter fun e =>
    let p := d.pfx e
    p.valid && p.tag == h / 16384 && p.inst == r.inst && p.customer == d.pfxCust r

/-- Look block `j` up under its parent entry: the hit, and an entry that collides (R196). -/
def Dev.lookup (d : Dev) (r : Req) (parent h j : Nat) : Option Nat × Option Nat :=
  let ms := (d.tagMatch r h).filter fun e => (d.pfx e).parent == parent
  let same e := d.rdBytes (d.pfxToks e) 64 == d.blockToks r j
  (ms.find? same, (d.tagMatch r h).find? fun e => !same e)

/-- Event and count of a collision. -/
def Dev.collision (d : Dev) (r : Req) (e : Nat) : Dev :=
  (d.bump R.qmPfxColl).event 5 0xA054 4 0x30 [e, r.inst, r.customer]

/-- Walk the full blocks of a prompt until the first miss (R196): hits in order, last hash. -/
def Dev.pfxWalk (d : Dev) (r : Req) : (fuel j prev parent : Nat) → List Nat → Dev × List Nat
  | 0, _, _, _, hits => (d, hits)
  | fuel + 1, j, prev, parent, hits =>
    let h := d.chainHash r prev j
    match d.lookup r parent h j with
    | (some e, _) => Dev.pfxWalk (((d.bump R.qmPfxHit).modPfx e fun p =>
        { p with refs := p.refs + 1, lastUse := d.epoch % 65536 })) r fuel (j + 1) h e (hits ++ [e])
    | (none, c) =>
      let d := d.bump R.qmPfxMiss
      (match c with
        | some e => d.collision r e
        | none => d, hits)

/-- Drop one reference of an entry; an entry that R198 invalidated gives its block back with the last. -/
def Dev.pfxRelease (d : Dev) (e : Nat) : Dev :=
  let d := d.modPfx e fun p => { p with refs := p.refs - 1 }
  let p := d.pfx e
  if p.valid = false ∧ p.refs = 0 then (d.kvPush p.inst p.kv).modPfx e fun _ => {} else d

/-! ## The end of a request's holdings -/

/-- Release what a request holds: its references, its own KV blocks, its block table and its place in
the waiting list (R196, R208). DEDUCED (log 43). -/
def Dev.reqHold (d : Dev) (k : Nat) : Dev :=
  let r := d.req k
  let d := r.entries.foldl (fun d e => d.pfxRelease e.2) d
  let own := (List.range r.kv.length).filter fun j => !(r.entries.any (·.1 = j))
  let d := own.foldl (fun d j => d.kvPush r.inst (r.kv.getD j 0)) d
  if r.admitted then d.writeTable r.inst r.aslot [] else d

/-- A request leaves the sequencer; its instance stays known until its record is written (R151, R185). -/
def Dev.reqGone (d : Dev) (k : Nat) : Dev :=
  let r := d.req k
  let d := d.reqHold k
  (d.modInst r.inst fun s => { s with
    waiting := s.waiting.filter (· ≠ k), admitted := s.admitted.filter (· ≠ k)
    step := s.step.filter fun e => e.req != k }).modReq k fun _ => { inst := r.inst }

/-- End any operation with a status: a request gives back its holdings, another operation leaves its
block. The engine operations of an abandoned or aborted operation end with it. -/
def Dev.finish (d : Dev) (k st : Nat) : Dev :=
  let o := d.op k
  if o.used = false ∨ o.status ≠ none then d
  else if o.kind = .request then (d.settle k st).reqGone k
  else d.endOp k st true

end Sys2Proof.Machine
end

