-- ==== Sys2Proof/Machine/Queues.lean ====
section
/-! DEFINITION. Queues, contexts, doorbells, disables and completion records (R133 to R156, R170,
R472). -/

namespace Sys2Proof.Machine

/-! ## The queue table (R133, R134) -/

/-- Device address of a queue's entry. -/
def Dev.qAddr (d : Dev) (q : Nat) : Nat := d.fld R.qmQtableBase 0 28 * 4096 + 32 * q
/-- Word `i` of a queue's entry. -/
def Dev.qWord (d : Dev) (q i : Nat) : Nat := d.rdN (d.qAddr q + 8 * i) 8
/-- Write a field of a word of a queue's entry. -/
def Dev.qSet (d : Dev) (q i lo n v : Nat) : Dev :=
  d.storeAs (d.initPart 720) (d.qAddr q + 8 * i) (toLE 8 (setBits (d.qWord q i) lo n v))
/-- STATE: 0 DISABLED, 1 ENABLED, 2 STOPPING, 3 ERROR. -/
def Dev.qState (d : Dev) (q : Nat) : Nat := bits (d.qWord q 0) 0 2
/-- MODE. -/
def Dev.qMode (d : Dev) (q : Nat) : Bool := bit (d.qWord q 0) 2
/-- Ring size in descriptors. -/
def Dev.qSize (d : Dev) (q : Nat) : Nat := 2 ^ bits (d.qWord q 0) 4 5
/-- Context that owns the queue. -/
def Dev.qCtx (d : Dev) (q : Nat) : Nat := bits (d.qWord q 0) 9 12
/-- RING_BASE. -/
def Dev.qRing (d : Dev) (q : Nat) : Nat := bits (d.qWord q 1) 0 40
/-- HEAD. -/
def Dev.qHead (d : Dev) (q : Nat) : Nat := bits (d.qWord q 2) 0 32
/-- TAIL. -/
def Dev.qTail (d : Dev) (q : Nat) : Nat := bits (d.qWord q 2) 32 32
/-- WEIGHT. -/
def Dev.qWeight (d : Dev) (q : Nat) : Nat := bits (d.qWord q 3) 0 16
/-- Set STATE, and follow which queues are not DISABLED. -/
def Dev.qSetState (d : Dev) (q v : Nat) : Dev :=
  let d := d.qSet q 0 0 2 v
  { d with qm := { d.qm with live := if v = 0 then d.qm.live.filter (· ≠ q)
      else if q ∈ d.qm.live then d.qm.live else d.qm.live ++ [q] } }

/-- Operations in flight of a queue. -/
def Dev.qOps (d : Dev) (q : Nat) : List Nat :=
  (d.ops.filter fun e => e.2.used && !e.2.static && e.2.queue == q).map (·.1)

/-! ## The doorbell cache (R138) -/

/-- Whether a queue has HEAD = TAIL and no operation in flight. -/
def Dev.qIdle (d : Dev) (q : Nat) : Bool := d.qHead q == d.qTail q && d.qOps q == []

/-- Fill a freed entry from the pending map: round-robin from the queue after the one taken last. An idle queue
would leave the cache at once, and is passed over. DEDUCED (log 32). -/
def Dev.cacheFill (d : Dev) : Dev :=
  if 4096 ≤ d.qm.cache.length then d
  else match minBy? (fun q => (q + 262144 - d.qm.lastFill - 1) % 262144) (d.qm.pendMap.filter fun q => !d.qIdle q) with
    | none => d
    | some q => { d with qm := { d.qm with
        cache := d.qm.cache ++ [q], pendMap := d.qm.pendMap.filter (· ≠ q), lastFill := q } }

/-- Free the entries of queues that have become idle, as where the host has rewritten a DISABLED queue, and fill
them from the pending map. -/
def Dev.cacheSweep (d : Dev) : Dev :=
  let idle := d.qm.cache.filter d.qIdle
  if idle = [] then d
  else idle.foldl (fun d _ => d.cacheFill)
    { d with qm := { d.qm with cache := d.qm.cache.filter fun q => !idle.contains q } }

/-- Take a queue into the cache, or into the pending map when the cache is full. DEDUCED (log 32). -/
def Dev.cacheIn (d : Dev) (q : Nat) : Dev :=
  let d := d.cacheSweep
  if q ∈ d.qm.cache then d
  else if d.qm.cache.length < 4096 then
    { d with qm := { d.qm with cache := d.qm.cache ++ [q], pendMap := d.qm.pendMap.filter (· ≠ q) } }
  else
    let d := d.bump R.qmDbMiss
    { d with qm := { d.qm with pendMap := if q ∈ d.qm.pendMap then d.qm.pendMap else d.qm.pendMap ++ [q] } }

/-- Free a queue's entry once HEAD = TAIL and nothing is in flight. -/
def Dev.cacheOut (d : Dev) (q : Nat) : Dev :=
  if q ∈ d.qm.cache ∧ d.qIdle q = true then
    Dev.cacheFill { d with qm := { d.qm with cache := d.qm.cache.filter (· ≠ q) } }
  else d

/-! ## Disables (R151 to R153) -/

/-- Whether an object covers an operation: dynamic work, or of a static partition, which step 2 of load shedding
reduces (R153), its own. -/
def disCovers (x : DisObj) (d : Dev) (k : Nat) (o : Op) : Bool :=
  o.used && match x with
  | .queue q => !o.static && o.queue == q.val
  | .context c => !o.static && o.ctx == c.val
  | .partition p => o.static == (d.part p.val).static && o.part == p.val
  | .inst i => !o.static && o.kind == .request && (d.req k).inst == i.val

/-- Operations in flight of an object. -/
def Dev.covered (d : Dev) (x : DisObj) : List Nat :=
  (d.ops.filter fun e => disCovers x d e.1 e.2).map (·.1)

/-- Whether an operation may still be aborted: its own end has not come (R151). -/
def Dev.open_ (d : Dev) (k : Nat) : Bool := (d.op k).status.isNone

/-- A saved set loses the tasks that have ended, with the engine operations they launched (R62) and the time they
lay saved (R170); its slot is freed with the last (R168). DEDUCED (log 39). -/
def Dev.sweepSaved (d : Dev) (t : Nat) : Dev :=
  let s := d.tile t
  let live (k : Nat) : Bool := (d.op k).used && (d.op k).status.isNone
  let w := d.wb
  let d := s.saves.foldl (fun (d : Dev) x =>
    let d := (x.2.eng.filter fun e => !live e.token).foldl (fun (d : Dev) e =>
      d.modOp e.token fun o => { o.freeKid e with launches := o.launches - 1 }) d
    (x.2.tokens.filter fun k => !live k).foldl (fun (d : Dev) k =>
      d.modOp k fun o => { o with savedWb := o.savedWb + (w - x.2.since) }) d) d
  let keep (e : SavedSet) : SavedSet := { e with
    tokens := e.tokens.filter live
    threads := e.threads.filter fun h => (h.2.op.map live).getD false
    eng := e.eng.filter fun x => live x.token }
  d.setTile t { s with saves := (s.saves.map fun e => (e.1, keep e.2)).filter fun e => !e.2.tokens.isEmpty }

/-- Sweep the saved sets of every tile. -/
def Dev.sweepAll (d : Dev) : Dev := (List.range 4).foldl Dev.sweepSaved d

/-- Change the disables of an object. -/
def Dev.modDis (d : Dev) (x : DisObj) (f : Disabling → Disabling) : Dev :=
  { d with qm := { d.qm with disabling := mapIf (fun e => e.obj == x) f d.qm.disabling } }

/-- Abort what an object still has in flight. DEDUCED (log 34). -/
def Dev.abortObj (d : Dev) (x : DisObj) : Dev :=
  let ks := (d.covered x).filter d.open_
  let d := (ks.foldl (fun d k => d.finish k stAborted) d).sweepAll
  d.modDis x fun e => { e with aborted := e.aborted + ks.length }

/-- Queues of a context that are not DISABLED. -/
def Dev.ctxQueues (d : Dev) (c : Nat) : List Nat := d.qm.live.filter fun q => d.qCtx q == c

/-- The instance is unloaded (R185): its prefix entries, KV blocks and key go; its step context serves on where
another instance uses it (R192). Step tasks that still run, as where its requests were aborted, run on as tasks of
the context and end as such. DEDUCED (log 42). -/
def Dev.instFree (d : Dev) (i : Nat) : Dev :=
  let shared := (List.range 8).any fun j => j != i && (d.inst j).state != 0 && (d.inst j).ctx == (d.inst i).ctx
  let d := d.modCtx (d.inst i).ctx fun c => { c with serving := shared }
  { d with srv := { d.srv with
      pfx := d.srv.pfx.filter fun e => e.2.inst != i
      insts := tset (fun _ => {}) d.srv.insts i {} } }

/-- An object whose disable is complete takes its end state, and the event of R152 is written. DEDUCED (log 34). -/
def Dev.disDone (d : Dev) (e : Disabling) : Dev :=
  let d := { d with qm := { d.qm with disabling := d.qm.disabling.filter (· ≠ e) } }
  if e.shed then d
  else match e.obj with
    | .queue q => (d.qSetState q (if e.error then 3 else 0)).evHub 0 0xA002 [q, e.aborted]
    | .context c =>
      let d := (d.ctxQueues c).foldl (fun d q => d.qSetState q 0) d
      let d := d.setCtx c {}
      match e.quar with
      | some b => d.evBlk 2 0xA060 b [c, e.aborted]
      | none => d.evHub 0 0xA003 [c, e.aborted]
    | .partition p => (d.modPart p fun x => { x with off := 3 }).evHub 0 0xA004 [p, e.aborted]
    | .inst i => d.instFree i

/-- Complete every disable that covers nothing any more. -/
def Dev.disCheck (d : Dev) : Dev :=
  d.qm.disabling.foldl (fun d e => if d.covered e.obj = [] then d.disDone e else d) d

/-- Begin a disable: drain to the limit, or abort at once (R151); `close` is what else the object's disable does
once its own work has been aborted. DEDUCED (log 34). -/
def Dev.disStart (d : Dev) (x : DisObj) (abort : Bool) (error : Bool := false) (shed : Bool := false)
    (close : Dev → Dev := id) : Dev :=
  let e : Disabling := { obj := x, abort := abort, limit := d.nextFrame, error := error, shed := shed }
  let d := { d with qm := { d.qm with disabling := d.qm.disabling ++ [e] } }
  (close (if abort then d.abortObj x else d)).disCheck

/-- BUSY of an object. -/
def Dev.disBusy (d : Dev) (x : DisObj) : Bool := d.qm.disabling.any fun e => e.obj == x

/-! ## Withheld pulls (R149) -/

/-- Unread records plus operations in flight of a context (R149). DEDUCED (log 35). -/
def Dev.ctxLoad (d : Dev) (c : Nat) : Nat :=
  ((d.ctx c).tail + 2 ^ 32 - (d.ctx c).head) % 2 ^ 32 +
    (d.ops.filter fun e => e.2.used && e.2.ctx == c).length

/-- Whether R149 withholds the pulls of a context. DEDUCED (log 35). -/
def Dev.cqHeld (d : Dev) (c : Nat) : Bool :=
  !(d.ctx c).cqOver && decide (2 ^ (d.ctx c).cqLog2 ≤ d.ctxLoad c)

/-- Count each onset of withholding: once for a context whose pulls become withheld while a
descriptor of it waits (R149). DEDUCED (log 35). -/
def Dev.cqHold (d : Dev) : Dev :=
  let waiting := (d.qm.live.filter fun q => d.qState q == 1 && d.qHead q != d.qTail q).map d.qCtx
  let now := waiting.eraseDups.filter d.cqHeld
  let fresh := now.filter fun c => !(d.qm.held.contains c)
  let d := d.bump R.qmCqHold fresh.length
  { d with qm := { d.qm with held := now } }

/-! ## Queue enable and disable -/

/-- The queue that QM_QSEL addresses. -/
def Dev.qSel (d : Dev) : Nat := d.fld R.qmQsel 0 18
/-- As an object. -/
def queueObj (q : Nat) : DisObj := .queue (Fin.ofNat 262144 q)

/-- Whether the queue manager may read or write a range of DRAM for a partition (R472). DEDUCED (log 33). -/
def Dev.qmOk (d : Dev) (part a n : Nat) (write : Bool) : Bool :=
  decide (a + n ≤ d.dramSize) && (d.refusalAt 720 part (d.initCls 720 part) a n write).isNone

/-- The first check of R135 that fails, as the reason of R156; 0 if every check passes. DEDUCED (log 33). -/
def Dev.qCheck (d : Dev) (q : Nat) : Nat :=
  let c := d.ctx (d.qCtx q)
  let lg := bits (d.qWord q 0) 4 5
  let n := 64 * d.qSize q
  if c.state ≠ 1 then 1
  else if (d.part c.part).static then 2
  else if lg = 0 ∨ 16 < lg ∨ d.qRing q % 64 ≠ 0 then 7
  else if d.dramSize < d.qRing q + n then 3
  else if ¬ d.qmOk c.part (d.qRing q) n false then 8
  else if bit (d.qWord q 0) 3 ∨ bits (d.qWord q 0) 21 43 ≠ 0 ∨ bits (d.qWord q 1) 40 24 ≠ 0 ∨
      bits (d.qWord q 3) 16 48 ≠ 0 then 4
  else 0

/-- The tail that the last doorbell noted for a queue, or the last compute-domain reset, announced. -/
def Dev.lastTail (d : Dev) (q : Nat) : Option Nat :=
  ((d.qm.left.filter (·.1 = q)).map (·.2) ++ (d.qm.announced.filter (·.1 = q)).map (·.2.1)).getLast?

/-- Announcements of a queue that the host has written anew since, as one whose TAIL is not the tail announced last
shows, and of descriptors that it does not hold, are of an earlier life of it (R147). DEDUCED (log 32). -/
def Dev.freshen (d : Dev) (q : Nat) : Dev :=
  let n := (d.qTail q + 2 ^ 32 - d.qHead q) % 2 ^ 32
  let same := d.lastTail q == some (d.qTail q)
  let holds (t : Nat) : Bool :=
    let m := (t + 2 ^ 32 - d.qHead q) % 2 ^ 32
    same && decide (0 < m) && decide (m ≤ n)
  { d with qm := { d.qm with
    left := d.qm.left.filter fun a => a.1 != q || holds a.2
    announced := d.qm.announced.filter fun a => a.1 != q || holds a.2.1 } }

/-- Descriptors that a recovery left unpulled count as announced at the enable of their queue (R147). -/
def Dev.announceLeft (d : Dev) (q : Nat) : Dev :=
  { d with qm := { d.qm with
    left := d.qm.left.filter (·.1 ≠ q)
    announced := ((d.qm.left.filter (·.1 = q)).map fun a => (a.1, a.2, d.wb)) ++ d.qm.announced } }

/-- QUEUE_ENABLE: ignored while BUSY (R152); else MODE is written, and a DISABLED queue is checked and
becomes ENABLED or ERROR (R135). DEDUCED (log 32). -/
def Dev.queueEnable (mode : Bool) (d : Dev) : Dev :=
  doIf (fun d => d.disBusy (queueObj d.qSel) = false)
    (fun d =>
      let q := d.qSel
      let st := d.qState q
      let d := d.qSet q 0 2 1 (b2n mode)
      if st ≠ 0 then d
      else match d.qCheck q with
        | 0 =>
          let d := ((d.qSetState q 1).freshen q).announceLeft q
          if d.qHead q = d.qTail q then d
          else
            let d := d.cacheIn q
            (if d.qm.announced.any fun a => a.1 = q ∧ a.2.1 = d.qTail q then d
              else { d with qm := { d.qm with announced := d.qm.announced ++ [(q, d.qTail q, d.wb)] } }).cqHold
        | r => (d.qSetState q 3).evHub 5 0xA005 [q, r]) d

/-- The host's write (R432, R454). -/
def execQueueEnable (mode : Bool) (s : State) : Res := onHost (Dev.queueEnable mode) s

/-- QUEUE_DISABLE: an ENABLED queue drains or aborts; a queue in ERROR returns to DISABLED; MODE is
written in every case, and a change to abort while STOPPING aborts what remains. DEDUCED (log 32). -/
def Dev.queueDisable (mode : Bool) (d : Dev) : Dev :=
  doDev (fun d =>
    let q := d.qSel
    let d := d.qSet q 0 2 1 (b2n mode)
    match d.qState q with
    | 1 => (d.qSetState q 2).disStart (queueObj q) mode
    | 2 => if mode then (d.abortObj (queueObj q)).disCheck else d
    | 3 => if d.disBusy (queueObj q) then d else d.qSetState q 0
    | _ => d) d

/-- The host's write (R432, R454). -/
def execQueueDisable (mode : Bool) (s : State) : Res := onHost (Dev.queueDisable mode) s

/-! ## Doorbells -/

/-- QM_DOORBELL (R136): accepted under both conditions, else rejected, which stops the queue to
ERROR; a 32-bit write to either half is ignored and counted. DEDUCED (log 32). -/
def Dev.qmDoorbell (v : DWord) (wide : Bool) (d : Dev) : Dev :=
  doDev (fun d =>
    if wide = false then d.bump R.qmDbErr
    else
      let q := bits v.toNat 0 18
      let t := bits v.toNat 32 32
      let old := d.qTail q
      if (t + 2 ^ 32 - d.qHead q) % 2 ^ 32 ≤ d.qSize q ∧ (t + 2 ^ 32 - old) % 2 ^ 32 < 2 ^ 31 then
        let d := ((d.freshen q).qSet q 2 32 32 t).cacheIn q
        if t = old then d.cacheOut q
        else { d with qm := { d.qm with announced := d.qm.announced ++ [(q, t, d.wb)] } }.cqHold
      else
        let d := (d.bump R.qmDbErr).evHub 5 0xA001 [q, old, t]
        match d.qState q with
        | 1 => (d.qSetState q 2).disStart (queueObj q) (d.qMode q) true
        | 2 => d.modDis (queueObj q) fun e => { e with error := true }
        | _ => d.qSetState q 3) d

/-- The host's write (R432, R454). -/
def execQmDoorbell (v : DWord) (wide : Bool) (s : State) : Res := onHost (Dev.qmDoorbell v wide) s

/-- QM_CQ_DOORBELL (R149): a head beyond the tail or below the current head, or for a context that the
sequencer serves (R192), is rejected; a 32-bit write is ignored. -/
def Dev.qmCqDoorbell (v : DWord) (wide : Bool) (d : Dev) : Dev :=
  doDev (fun d =>
    if wide = false then d.bump R.qmDbErr
    else
      let c := bits v.toNat 0 12
      let h := bits v.toNat 32 32
      let x := d.ctx c
      if x.serving = false ∧ (h + 2 ^ 32 - x.head) % 2 ^ 32 ≤ (x.tail + 2 ^ 32 - x.head) % 2 ^ 32 then
        (d.modCtx c fun x => { x with head := h }).cqHold
      else (d.bump R.qmDbErr).evHub 5 0xA011 [c, x.tail, h]) d

/-- The host's write (R432, R454). -/
def execQmCqDoorbell (v : DWord) (wide : Bool) (s : State) : Res := onHost (Dev.qmCqDoorbell v wide) s

/-! ## Contexts -/

/-- Context that QM_CSEL addresses. -/
def Dev.cSel (d : Dev) : Nat := d.fld R.qmCsel 0 12
/-- As an object. -/
def ctxObj (c : Nat) : DisObj := .context (Fin.ofNat 4096 c)
/-- The image address of QM_CIMG. -/
def Dev.cImg (d : Dev) : Nat := d.reg R.qmCimgLo + d.fld R.qmCimgHi 0 8 * 4294967296

/-- Read a context image (R143). -/
def Dev.ctxImage (d : Dev) (a : Nat) : CtxImage :=
  let w i := d.rdN (a + 8 * i) 8
  let pool i := w (16 + i)
  { part := bits (w 0) 0 6, customer := bits (w 0) 6 10, cls := bits (w 0) 16 4
    priority := bits (w 0) 20 3, abortMode := bit (w 0) 23, cqHost := bit (w 0) 24
    cqOverwrite := bit (w 0) 25, cqBase := w 1, cqLog2 := bits (w 2) 0 5
    windows := (List.range 4).map fun i => (w (8 + 2 * i), w (9 + 2 * i))
    pools := (List.range 16).map fun i => ⟨bit (pool i) 0, bits (pool i) 1 3, bits (pool i) 4 19,
      bits (pool i) 23 13, bits (pool i) 36 6⟩
    reserved := bits (w 0) 26 38 ||| bits (w 2) 5 59 ||| w 3 ||| w 4 ||| w 5 ||| w 6 ||| w 7 |||
      ((List.range 4).foldl (fun n i => n ||| bits (w (8 + 2 * i)) 45 17 ||| bits (w (9 + 2 * i)) 36 28) 0) |||
      ((List.range 16).foldl (fun n i => n ||| bits (pool i) 42 22) 0) }

/-- The first case of R144 that applies, as the reason of R156; 0 if the load succeeds. DEDUCED (log 33). -/
def Dev.ctxCheck (d : Dev) (c : Nat) : Nat :=
  let a := d.cImg
  if (d.ctx c).state ≠ 0 then 1
  else if a % 64 ≠ 0 ∨ d.qmOk (d.initPart 720) a 256 false = false then 8
  else
    let i := d.ctxImage a
    if (d.part i.part).declared = false ∨ i.part = d.hostPart then 6
    else if (d.part i.part).static then 2
    else if i.cqOverwrite ∨ i.cqLog2 < 4 ∨ 16 < i.cqLog2 then 5
    else if i.reserved ≠ 0 then 4
    else if i.cqHost = false ∧ d.qmOk i.part i.cqBase (32 * 2 ^ i.cqLog2) true = false then 8
    else 0

/-- A context from its image, ACTIVE with its counts at 0. -/
def ctxOf (i : CtxImage) : Ctx :=
  { state := 1, part := i.part, customer := i.customer, cls := i.cls, prio := i.priority
    abort := i.abortMode, cqHost := i.cqHost, cqOver := i.cqOverwrite, cqBase := i.cqBase
    cqLog2 := i.cqLog2, windows := i.windows, pools := i.pools }

/-- CONTEXT_LOAD: a write that selects a static context is ignored with event 0xA005; one while BUSY
is ignored. -/
def Dev.contextLoad (d : Dev) : Dev :=
  doIf (fun d => !d.disBusy (ctxObj d.cSel))
    (fun d =>
      let c := d.cSel
      if (d.ctx c).static then d.evHub 5 0xA005 [c, 2]
      else match d.ctxCheck c with
        | 0 => d.setCtx c (ctxOf (d.ctxImage d.cImg))
        | r => d.evHub 5 0xA005 [c, r]) d

/-- The host's write (R432, R454). -/
def execContextLoad (s : State) : Res := onHost (Dev.contextLoad) s

/-- The credit pools of a context, by block and number. -/
def Dev.ctxPools (d : Dev) (c : Nat) : List (Nat × Nat) :=
  d.blocks.flatMap fun k => (k.2.pools.filter fun p => p.2.ctx == c && p.2.valid).map fun p => (k.1, p.1)

/-- The credit pools of a context close (R125), those that lie in a saved set too. DEDUCED (log 34). -/
def Dev.closePools (d : Dev) (c : Nat) (abort : Bool) : Dev :=
  let d := (d.ctxPools c).foldl (fun d p => d.closePool p.1 p.2 abort) d
  { d with tiles := d.tiles.map fun t => (t.1, { t.2 with saves := t.2.saves.map fun v => (v.1, { v.2 with
      pools := v.2.pools.map fun q =>
        (q.1, if q.2.ctx = c ∧ q.2.valid then Pool.closeIf { q.2 with closing := true } else q.2) }) }) }

/-- Tasks of other contexts that hold grants of a context's pools, and end with them in abort mode (R125). -/
def Dev.poolWriters (d : Dev) (c : Nat) : List Nat :=
  (((d.ctxPools c).flatMap fun p => d.writersOf p.1 p.2).eraseDups).filter fun k => d.open_ k && (d.op k).ctx != c

/-- CONTEXT_DISABLE. -/
def Dev.contextDisable (d : Dev) : Dev :=
  doDev (fun d =>
    let c := d.cSel
    let x := d.ctx c
    if x.static then d.evHub 5 0xA005 [c, 2]
    else if x.state ≠ 1 then d
    else (d.modCtx c fun x => { x with state := 2 }).disStart (ctxObj c) x.abort
      (close := fun d =>
        let n := if x.abort then (d.poolWriters c).length else 0
        (d.closePools c x.abort).modDis (ctxObj c) fun e => { e with aborted := e.aborted + n })) d

/-- The host's write (R432, R454). -/
def execContextDisable (s : State) : Res := onHost (Dev.contextDisable) s

/-! ## Partitions -/

/-- PARTITION_DISABLE: the fields are those of dynamic partitions (R460), and a static one is not disabled from the
host; while thermal step 1 sheds the partition, the write waits until the step falls (R330). -/
def Dev.partitionDisable (p : Fin 64) (mode : Bool) (d : Dev) : Dev :=
  doDev (fun d =>
    let x := d.part p
    if x.static then d
    else
      let d := (d.setFld (R.qmPctl p) 1 1 (b2n mode)).setFld (R.qmPctl p) 0 1 0
      if x.shed then d
      else match x.off with
        | 1 => (d.modPart p fun x => { x with off := 2 }).disStart (.partition p) mode
        | 2 => if mode then (d.abortObj (.partition p)).disCheck else d
        | _ => d) d

/-- The host's write (R432, R454). -/
def execPartitionDisable (p : Fin 64) (mode : Bool) (s : State) : Res := onHost (Dev.partitionDisable p mode) s

/-- PARTITION_ENABLE: a static partition is enabled always; ignored while BUSY; waits while the partition is shed. -/
def Dev.partitionEnable (p : Fin 64) (mode : Bool) (d : Dev) : Dev :=
  doIf (fun d => !(d.part p).static && (!d.disBusy (.partition p) || (d.part p).shed))
    (fun d =>
      let x := d.part p
      let d := (d.setFld (R.qmPctl p) 1 1 (b2n mode)).setFld (R.qmPctl p) 0 1 1
      if x.shed ∨ x.off ≠ 3 then d else d.modPart p fun x => { x with off := 1 }) d

/-- The host's write (R432, R454). -/
def execPartitionEnable (p : Fin 64) (mode : Bool) (s : State) : Res := onHost (Dev.partitionEnable p mode) s

/-- DRAIN_LIMIT: at the limit, what the object still has in flight is aborted, work on a donor block
whose own limit has come included (R34, R151). DEDUCED (log 34). -/
def execDrainLimit (o : DisObj) (s : State) : Res :=
  onDev (fun d =>
    let d := if d.qm.disabling.any fun e => e.obj = o ∧ e.limit ≤ d.wb then (d.abortObj o).disCheck else d
    let donors := d.tiles.flatMap fun t => t.2.moults.filterMap fun m =>
      if m.limit ≤ d.wb then m.donor else none
    let late := (d.covered o).filter fun k => d.open_ k && ((d.op k).block.map donors.contains).getD false
    late.foldl (fun d k => d.finish k stAborted) d) s

/-! ## Completion (R147, R148) -/

/-- FLAGS of a record: SAT, NAN, repeated and compared, pre-empted, and instar for static items
during instar (R248). DEDUCED (log 36). -/
def Dev.recFlags (d : Dev) (o : Op) : Nat :=
  b2n o.sat + b2n o.nan * 2 + b2n (decide (0 < o.launched) && o.launched == o.checked) * 4 +
    b2n o.preempted * 8 + b2n (o.static && d.fus.instar) * 16

/-- Bytes of a completion record. DEDUCED (log 36). -/
def Dev.record (d : Dev) (k : Nat) (st : Nat) : List Byte :=
  let o := d.op k
  let c := d.ctx o.ctx
  let phase := 1 - c.tail / 2 ^ c.cqLog2 % 2
  toLE 8 o.tag.toNat ++ toLE 8 d.time.now ++ toLE 1 st ++ toLE 1 (d.recFlags o) ++
    toLE 2 (k % 16384) ++ toLE 2 o.ctx ++ toLE 2 o.slot ++ toLE 2 (min 0xFFFF o.waitWb) ++
    toLE 2 (min 0xFFFF o.preempts) ++ toLE 4 (min 0x3FFFF o.queue + phase * 2 ^ 31)

/-- Add an operation to its customer's counters (R170). -/
def Dev.account (d : Dev) (o : Op) (st : Nat) : Dev :=
  if d.qm.acctOn = false ∨ o.static then d
  else { d with qm := { d.qm with acct := tmod (fun _ => {}) d.qm.acct (d.ctx o.ctx).customer fun a =>
    let w := min 0xFFFF o.waitWb
    { a with
      waitSum := (a.waitSum + w) % 2 ^ 64, done := (a.done + 1) % 2 ^ 32
      preempts := (a.preempts + min 0xFFFF o.preempts) % 2 ^ 32, savedWb := (a.savedWb + o.savedWb) % 2 ^ 32
      waitMax := max a.waitMax w, budgetEx := (a.budgetEx + b2n (st == stBudget)) % 2 ^ 32 } } }

/-- Write a record to its context's ring: bytes 0 to 27 first, then bytes 28 to 31; the tail count
follows, also where the firewall refuses the write (R472). DEDUCED (log 36). -/
def Dev.writeRecord (d : Dev) (k st : Nat) : Dev :=
  let o := d.op k
  let c := d.ctx o.ctx
  if c.state = 0 then d
  else
    let bs := d.record k st
    let a := c.cqBase + 32 * (c.tail % 2 ^ c.cqLog2)
    let d := if c.cqHost then (d.hostWrite a (bs.take 28)).hostWrite (a + 28) (bs.drop 28)
      else match d.refusalAt 720 c.part o.cls a 32 true with
        | some (t, r26) => d.deny 720 c.part t r26 a
        | none => d.storeAs c.part a bs
    d.modCtx o.ctx fun c => { c with
      tail := (c.tail + 1) % 2 ^ 32, head := if c.serving then (c.tail + 1) % 2 ^ 32 else c.head }

/-- Whether the record of an operation can be written now (R150). -/
def Dev.canRecord (d : Dev) (k : Nat) : Bool := !(d.ctx (d.op k).ctx).cqHost || d.hostReady

/-- The status of an operation's record: REPLAYED_OK where R343 says so. -/
def finalStatus (o : Op) (st : Nat) : Nat := if o.replayed ∧ st = stDone then stReplayed else st

/-- Count the operation in its partition's frame (R154). -/
def Dev.frameCount (d : Dev) (part st : Nat) : Dev :=
  { d with qm := { d.qm with
    frameOps := tmod (fun _ => 0) d.qm.frameOps part (· + 1)
    frameBad := if outputValid st then d.qm.frameBad else tmod (fun _ => 0) d.qm.frameBad part (· + 1) } }

/-- A step task of an instance reports its status (R193). -/
def Dev.stepTask (d : Dev) (k st : Nat) : Dev :=
  match d.srv.insts.find? fun e => e.2.running.contains k with
  | none => d
  | some (i, _) => d.modInst i fun s => { s with
      running := s.running.filter (· ≠ k), statuses := s.statuses ++ [(k, st)]
      repeated := s.repeated && decide (0 < (d.op k).launched ∧ (d.op k).launched = (d.op k).checked) }

/-- A planner item that fails is noted with its control frame (R279). -/
def Dev.plannerFail (d : Dev) (o : Op) (st : Nat) : Dev :=
  if outputValid st ∧ st ≠ stUnchecked then d
  else { d with pl := { d.pl with failed :=
    if o.static then (o.part * 2 ^ 40 + d.ctrlFrame) :: d.pl.failed else d.pl.failed } }

/-- The record of a decided operation is written and its entry freed. DEDUCED (log 36). -/
def Dev.opRecord (d : Dev) (k : Nat) : Dev :=
  let d := d.sweepAll
  let o := d.op k
  let st := finalStatus o (o.status.getD stDone)
  let d := ((((d.writeRecord k st).account o st).frameCount o.part st).stepTask k st).plannerFail o st
  let d := if o.kind = .request then d.modReq k fun _ => {} else d
  let d := d.setOp k {}
  let d := if o.queue < 262144 ∧ o.static = false then d.cacheOut o.queue else d
  d.disCheck.cqHold

/-- The status with which a running task ends by itself; none for an operation that has another end. -/
def Dev.taskEnd (d : Dev) (k : Nat) : Option Nat :=
  let o := d.op k
  match o.kind, o.block, o.thread with
  | .task, some b, some n =>
    let h := (d.blk b).thr n
    if h.op = some k ∧ (d.blk b).preempt = none ∧ d.tileUp (tileOf b) = true ∧
        (match o.deadline with
          | some w => decide (d.wb < w)
          | none => true) = true then some (taskStatus h o) else none
  | _, _, _ => none

/-- Whether the edge of an operation's deadline has come before its record was written, and it has not ended in
error (R53). -/
def Dev.overdue (d : Dev) (k : Nat) : Bool :=
  let o := d.op k
  o.used && (match o.deadline with
    | some w => decide (w ≤ d.wb)
    | none => false) &&
  (match o.status with
    | some st => outputValid st
    | none => true)

/-- A late operation ends (R53); a request gives back what it holds (R188, R196, R208). -/
def Dev.lateOp (d : Dev) (k : Nat) : Dev :=
  let o := d.op k
  let d := d.lateEnd k
  if o.kind = .request ∧ o.status = none then d.reqGone k else d

/-- Abandon a late operation (R53): at once, or when the residue handling in progress on one of its beats has
finished, on a third pass's engine too (R90). -/
def Dev.abandon (d : Dev) (k : Nat) : Dev :=
  let held := d.blocks.flatMap fun e => (e.2.eng.filter fun x => x.token == k && !x.dead && d.holding e.1 x).map fun x => (e.1, x)
  if held = [] then (d.lateOp k).sweepAll
  else held.foldl (fun d x => d.modEng x.1 x.2 fun y => { y with late := true }) d

/-- TASK_COMPLETE: a running task without engine operations under way ends, and the record of an
operation whose end has come is written once its engine operations have reported. A record that would be written
at or after the edge of the deadline is that of a late operation (R53). DEDUCED (log 36). -/
def execTaskComplete (token : Fin 16384) (s : State) : Res :=
  onDevIf (fun d => (d.op token).used && (d.op token).launches == 0)
    (fun d =>
      let k := token.val
      let d := if d.overdue k then d.abandon k else d
      let d := if (d.op k).status.isNone then (match d.taskEnd k with
        | some st => d.endOp k st false
        | none => d) else d
      if (d.op k).status.isSome ∧ d.canRecord k = true then d.opRecord k else d) s

/-- FENCE_COMPLETE: every earlier operation of the queue has completed (R139). DEDUCED (log 36). -/
def execFenceComplete (token : Fin 16384) (s : State) : Res :=
  onDevIf (fun d =>
    let o := d.op token
    o.used && o.kind == .fence && o.status.isNone &&
      !(d.ops.any fun e => e.2.used && e.2.queue == o.queue && !e.2.static && decide (e.2.order < o.order)))
    (fun d => d.settle token stDone) s

/-- DEADLINE_ABANDON (R53): at the edge a late operation ends with its outputs poisoned. DEDUCED (log 36). -/
def execDeadlineAbandon (token : Fin 16384) (s : State) : Res :=
  onDevIf (fun d => d.overdue token) (fun d => d.abandon token) s

/-! ## Mirror and accounting controls -/

/-- QM_MIRROR_CTL. -/
def Dev.qmMirrorCtl (en : Bool) (d : Dev) : Dev :=
  doDev (fun d => d.setFld R.qmMirrorCtl 0 1 (b2n en)) d

/-- The host's write (R432, R454). -/
def execQmMirrorCtl (en : Bool) (s : State) : Res := onHost (Dev.qmMirrorCtl en) s

/-- QM_ACCT_CTL. -/
def Dev.qmAcctCtl (en : Bool) (d : Dev) : Dev :=
  doDev (fun d => { d.setFld R.qmAcctCtl 0 1 (b2n en) with qm := { d.qm with acctOn := en } }) d

/-- The host's write (R432, R454). -/
def execQmAcctCtl (en : Bool) (s : State) : Res := onHost (Dev.qmAcctCtl en) s

end Sys2Proof.Machine
end

