-- ==== Sys2Proof/Machine/Sched.lean ====
section
/-! DEFINITION. Pulling descriptors under the fairness mode (R139 to R142, R161, R187, R199), placing
operations (R145, R146, R162, R163) and pre-emption (R164 to R169). -/

namespace Sys2Proof.Machine

/-! ## Eligible blocks (R162, R163) -/

/-- Busy threads of a core: running a task or static. -/
def Block.busy (k : Block) (core : Nat) : Nat :=
  (k.threads.filter fun e => e.1 / 8 == core && (e.2.op.isSome || e.2.static.isSome)).length

/-- Whether a thread of a block is free. -/
def Block.freeAt (k : Block) (n : Nat) : Bool := (k.thr n).op.isNone && (k.thr n).static.isNone

/-- The core with the fewest busy threads, and its lowest free thread (R163). -/
def Block.freeThread (k : Block) : Option Nat :=
  let cores := [0, 1, 2, 3].filter fun c => decide (k.busy c < 8)
  match minBy? k.busy cores with
  | some c => (List.range 8).find? (fun t => k.freeAt (8 * c + t)) |>.map (8 * c + ·)
  | none => none

/-- Whether a block is in service, in the dynamic pool, and under no reset. DEDUCED (log 68). -/
def Dev.pooled (d : Dev) (b : Nat) : Bool :=
  let k := d.blk b
  let t := d.tile (tileOf b)
  k.svc == .inService && k.takesWork && !k.donor && k.slotPart.isNone && k.preempt.isNone && k.arbFor.isNone &&
    k.selftest.isNone && !bit (d.reg (R.meEngine b)) 10 && (d.logical b).isSome &&
    t.region != 1 && !t.blkReset.any (·.1 == b)

/-- Whether such a block is open to new work: the block of a suspect replay is not, nor one that hung, until the replay
ends (R343, R344). DEDUCED (log 38, 68). -/
def Dev.inPool (d : Dev) (b : Nat) : Bool :=
  let t := d.tile (tileOf b)
  d.pooled b && t.replayBlk != some b && t.hung != some b && !t.hungMore.contains b

/-- Whether the slots, the partition and the threads of a block leave room for a TASK of a partition. -/
def Dev.roomFor (d : Dev) (b p : Nat) : Bool :=
  d.slotFar b 4 && ((d.blk b).part.isNone || (d.blk b).part == some p) && (d.blk b).freeThread.isSome

/-- R162 without the limit of 256 entries. -/
def Dev.eligible0 (d : Dev) (b p : Nat) : Bool := d.inPool b && d.roomFor b p

/-- Whether a block is eligible for a TASK of a partition (R162). DEDUCED (log 38). -/
def Dev.eligible (d : Dev) (b p : Nat) : Bool := d.eligible0 b p && decide (d.blkCharge b < 256)

/-- The best eligible block of a tile by rule 3 of R163. -/
def Dev.tileBest (d : Dev) (t p : Nat) : Option Nat :=
  minBy? d.blkCharge ((tileBlocks t).filter fun b => d.eligible b p)

/-! ## Descriptors (R139, R140) -/

/-- Device address of descriptor number `n` of a queue. -/
def Dev.descAt (d : Dev) (q n : Nat) : Nat := d.qRing q + 64 * (n % d.qSize q)
/-- Why the queue manager's read of a descriptor is refused, if it is (R472). -/
def Dev.descRefusal (d : Dev) (q n : Nat) : Option (Nat × Bool) :=
  let p := (d.ctx (d.qCtx q)).part
  d.refusalAt 720 p (d.initCls 720 p) (d.descAt q n) 64 false
/-- Word `i` of descriptor number `n` of a queue; a refused read returns zeros (R181). -/
def Dev.descWord (d : Dev) (q n i : Nat) : Nat :=
  if (d.descRefusal q n).isSome then 0 else d.rdN (d.descAt q n + 8 * i) 8

/-- The instance whose block an ENTRY names, loaded or not (R186, R187). -/
def entryInst (entry : Nat) : Option Nat := (List.range 8).find? fun i => Config.instOffset i % hubSize == entry

/-- Tiles a TASK may use: TILES, or all four for 0. -/
def tilesOf (m : Nat) : List Nat := if m = 0 then [0, 1, 2, 3] else (List.range 4).filter (bit m)

/-- The error of R140 for a queue's next descriptor, 0 for none; of several that apply, the lowest code. DEDUCED
(log 37). -/
def Dev.pullError (d : Dev) (q : Nat) : Nat :=
  let w := d.descWord q (d.qHead q)
  let kind := bits (w 0) 0 8
  if kind = 0 ∨ 3 < kind then 1
  else if bits (w 0) 9 3 ≠ 0 ∨ bits (w 0) 21 11 ≠ 0 ∨ bits (w 0) 48 16 ≠ 0 ∨ bits (w 2) 40 24 ≠ 0 ∨
      bits (w 4) 40 24 ≠ 0 ∨ w 5 ≠ 0 then 2
  else if kind = 2 ∧ hubSize ≤ bits (w 2) 0 40 then 3
  else if kind = 1 ∧ (tilesOf (bits (w 0) 12 4)).all (fun t => d.dynShare t = 0) = true then 4
  else 0

/-- CLASS label of a descriptor's operation: its own with CLASS_OVR, else its context's; dynamic work has bit 3 set
(R139, R175). -/
def Dev.descCls (d : Dev) (q w0 : Nat) : Nat := (if bit w0 20 then bits w0 16 4 else (d.ctx (d.qCtx q)).cls) ||| 8

/-- Cost of a queue's next descriptor (R199): a request's PROMPT_LEN rounded up to 16, else 16. A request whose
record may not be read (R472), or holds a length of 0, is no request that R186 allows, and costs 16. DEDUCED
(log 45). -/
def Dev.pullCost (d : Dev) (q : Nat) : Nat :=
  let w := d.descWord q (d.qHead q)
  if bits (w 0) 0 8 = 2 ∧ (entryInst (bits (w 2) 0 40)).isSome ∧
      d.refusalAt 720 (d.ctx (d.qCtx q)).part (d.descCls q (w 0)) (w 3) 128 false = none then
    max 16 (roundUp (bits (d.rdN (w 3 + 8) 8) 0 21) 16)
  else 16

/-- Balance of a customer. -/
def Dev.balance (d : Dev) (c : Nat) : Int := tget (fun _ => 0) d.srv.balance c

/-- Charge a customer; the first time in an epoch that its balance reaches 0, event 0xA056 (R199).
DEDUCED (log 45). -/
def Dev.charge (d : Dev) (c n : Nat) : Dev :=
  if d.srv.fairAct ≠ 1 then d
  else
    let old := d.balance c
    let d := { d with srv := { d.srv with balance := tset (fun _ => 0) d.srv.balance c (old - n) } }
    if 0 < old ∧ old - n ≤ 0 ∧ c ∉ d.srv.zeroEp then
      let d := { d with srv := { d.srv with zeroEp := d.srv.zeroEp ++ [c] } }
      d.event 0 0xA056 4 0x30 [c, d.epoch]
    else d

/-- Whether a queue's next descriptor keeps its place where it is dispatched at the pull: a FENCE, a request and a
rejected descriptor wait for the earlier operations that wait at dispatch, and under ORDERED for all (R139,
R141, R187). DEDUCED (log 37). -/
def Dev.pullInOrder (d : Dev) (q : Nat) : Bool :=
  let w := d.descWord q (d.qHead q)
  let kind := bits (w 0) 0 8
  let err := d.pullError q
  if err = 0 ∧ kind ≠ 3 ∧ ¬ (kind = 2 ∧ (entryInst (bits (w 2) 0 40)).isSome) then true
  else !(d.qm.dispatch.any fun k => (d.op k).used && (d.op k).queue == q && (d.op k).status.isNone) &&
    (err != 0 || !bit (w 0) 8 || d.qOps q == [])

/-- Whether every block of a tile that could take a TASK of a partition has 256 entries (R146): the tile stalls. -/
def Dev.blksFull (d : Dev) (t p : Nat) : Bool :=
  (d.tileBest t p).isNone && (tileBlocks t).any fun b => d.eligible0 b p

/-- Whether the queue manager may pull the next descriptor of a queue now (R141, R146, R149, R150,
R161, R187, R199). DEDUCED (log 37). -/
def Dev.pullable (d : Dev) (q : Nat) : Bool :=
  let c := d.qCtx q
  let x := d.ctx c
  let p := d.part x.part
  let w := d.descWord q (d.qHead q)
  d.live && d.qState q == 1 && d.qm.cache.contains q && d.qHead q != d.qTail q && x.state == 1 &&
    p.off == 1 && !p.shed && !d.cqHeld c && (!x.cqHost || d.host.up) && d.pullInOrder q &&
    (if bits (w 0) 0 8 = 1 ∧ d.pullError q = 0 then
        (tilesOf (bits (w 0) 12 4)).any fun t => decide (0 < d.dynFree t) && !d.blksFull t x.part
      else [0, 1, 2, 3].any fun t => decide (0 < d.dynFree t)) &&
    (match if bits (w 0) 0 8 = 2 then entryInst (bits (w 2) 0 40) else none with
      | some i => (d.inst i).state == 0 || decide ((d.inst i).waiting.length < (d.inst i).maxWait)
      | none => true) &&
    (d.srv.fairAct == 0 || decide (0 < d.balance x.customer))

/-- The queues of highest context PRIORITY among the pullable ones, in ascending ID (R161). -/
def Dev.pullSet (d : Dev) : List Nat :=
  let qs := (sortBy (fun q => q) d.qm.cache).filter d.pullable
  let prio q := (d.ctx (d.qCtx q)).prio
  let top := (qs.map prio).foldl max 0
  qs.filter fun q => prio q == top

/-- Deficit of a queue. -/
def Dev.deficit (d : Dev) (q : Nat) : Nat := tget (fun _ => 0) d.qm.deficits q
/-- Set a deficit. -/
def Dev.setDeficit (d : Dev) (q v : Nat) : Dev :=
  { d with qm := { d.qm with deficits := tset (fun _ => 0) d.qm.deficits q v } }

/-- The next queue of a set after `q` in ascending ID, wrapping round; `q` itself last. -/
def nextQueue (qs : List Nat) (q : Option Nat) : Option Nat :=
  minBy? (fun x => match q with
    | some y => (x + 262144 - y - 1) % 262144
    | none => x) qs

/-- Weighted deficit round-robin (R199): the queue to pull from, with the deficits as they then are.
`fuel` bounds the visits. DEDUCED (log 45). -/
def Dev.wdrr (d : Dev) (qs : List Nat) : (fuel : Nat) → Dev → Option (Nat × Dev)
  | 0, _ => none
  | fuel + 1, e =>
    let stay := match e.qm.scanQ with
      | some q => if qs.contains q && e.qm.scanned && decide (e.pullCost q ≤ e.deficit q) then some q else none
      | none => none
    match stay with
    | some q => some (q, e.setDeficit q (e.deficit q - e.pullCost q))
    | none => match nextQueue qs e.qm.scanQ with
      | none => none
      | some q =>
        let e := e.setDeficit q (e.deficit q + 16 * max 1 (e.qWeight q))
        Dev.wdrr d qs fuel { e with qm := { e.qm with scanQ := some q, scanned := true } }

/-- Token budgets (R199): the next customer in ascending ID after the one served last, then the lowest
context and queue. DEDUCED (log 45). -/
def Dev.budgetPick (d : Dev) (qs : List Nat) : Option (Nat × Dev) :=
  let cust q := (d.ctx (d.qCtx q)).customer
  match minBy? (fun q => (cust q + 1024 - d.qm.scanC - 1) % 1024 * 2 ^ 32 + d.qCtx q * 2 ^ 18 + q) qs with
  | some q => some (q, { d with qm := { d.qm with scanC := cust q } })
  | none => none

/-- The queue from which the queue manager pulls next. DEDUCED (log 37). -/
def Dev.pick (d : Dev) : Option (Nat × Dev) :=
  let qs := d.pullSet
  if d.srv.fairAct = 1 then d.budgetPick qs else d.wdrr qs (qs.length * 131100 + 1) d

/-- The wingbeat of the doorbell that announced a descriptor number. DEDUCED (log 37). -/
def Dev.annWb (d : Dev) (q n : Nat) : Nat :=
  ((d.qm.announced.find? fun a => a.1 = q ∧ (a.2.1 + 2 ^ 32 - n - 1) % 2 ^ 32 < 2 ^ 31).map (·.2.2)).getD d.wb

/-- The tile in whose tracker an operation without a block takes its entry (R145). -/
def Dev.hubTile (d : Dev) : Nat :=
  (minBy? d.trkUsed ([0, 1, 2, 3].filter fun t => 0 < d.dynFree t)).getD 0

/-- First key of operations that wait at dispatch without a tracker entry. -/
def waitKey : Nat := 16384

/-! ## Requests at the pull (R186, R187) -/

/-- The offset of the first field of a request record that breaks R186, if one does. DEDUCED (log 43). -/
def Dev.reqField (d : Dev) (i a : Nat) : Option Nat :=
  let w k := d.rdN (a + k) 8
  let s := d.inst i
  let plen := bits (w 8) 0 21
  let maxNew := bits (w 8) 32 21
  if bits (w 0) 40 24 ≠ 0 then some 0
  else if plen = 0 ∨ maxNew = 0 ∨ s.maxCtx < plen + maxNew ∨ bits (w 8) 21 11 ≠ 0 ∨ bits (w 8) 53 11 ≠ 0 then some 8
  else if w 0x10 % 64 ≠ 0 ∨ (bit (w 0x18) 0 = false ∧ d.dramSize < w 0x10 + 64 + 4 * maxNew) then some 0x10
  else if bits (w 0x18) 3 61 ≠ 0 then some 0x18
  else if bits (w 0x28) 16 48 ≠ 0 then some 0x28
  else (List.range 6).findSome? fun k => if w (0x50 + 8 * k) ≠ 0 then some (0x50 + 8 * k) else none

/-- A pulled request: checked, and it joins the waiting list or completes at once. DEDUCED (log 43). -/
def Dev.pullRequest (d : Dev) (k i q slot : Nat) : Dev :=
  let o := d.op k
  let x := d.ctx o.ctx
  let s := d.inst i
  let a := o.arg0.toNat
  if s.state ≠ 1 ∨ s.part ≠ x.part then d.settle k stDenied
  else match d.refusalAt 720 x.part o.cls a 128 false with
  | some (t, r26) => (d.deny 720 x.part t r26 a).settle k stDenied
  | none =>
  if d.anyPoison a 128 then d.settle k stPoisoned
  else match d.reqField i a with
    | some f => (d.event 2 0xA051 4 0x30 [q, slot, f] x.part o.ctx).settle k stPoisoned
    | none =>
      let w j := d.rdN (a + j) 8
      let plen := bits (w 8) 0 21
      let maxNew := bits (w 8) 32 21
      let prompt := bits (w 0) 0 40
      if d.srv.fairAct = 1 ∧ d.reg (R.qmBudget x.customer) = 0 then d.settle k stBudget
      else match ((d.refusalAt 720 x.part o.cls prompt (4 * plen) false).map fun r => (prompt, r)).or
          (if bit (w 0x18) 0 then none
            else (d.refusalAt 720 x.part o.cls (w 0x10) (64 + 4 * maxNew) true).map fun r => (w 0x10, r)) with
      | some (at_, t, r26) => (d.deny 720 x.part t r26 at_).settle k stDenied
      | none =>
      if d.anyPoison prompt (4 * plen) then d.settle k stPoisoned
      else
        let stop j := d.rdN (a + 0x38 + 4 * j) 4
        let r : Req := { inst := i, customer := x.customer, rec_ := a, prompt := prompt, plen := plen
                         maxNew := maxNew, out := w 0x10, outHost := bit (w 0x18) 0
                         spec := bit (w 0x18) 1 && s.draftEn, pfx := bit (w 0x18) 2
                         stops := ((List.range 4).map stop).filter (· ≠ 0xFFFFFFFF)
                         lookup := bit (w 0x18) 2, order := d.srv.nextOrd }
        let d := d.modReq k fun _ => r
        let d := { d with srv := { d.srv with nextOrd := d.srv.nextOrd + 1 } }
        let d := d.outWrite k r 0 (toLE 64 0)
        d.modInst i fun s => { s with waiting := s.waiting ++ [k] }

/-! ## DESCRIPTOR_PULL -/

/-- Pull the next descriptor of a queue; one that may not be read completes as FIREWALL_DENIED (R181, R472).
DEDUCED (log 37). -/
def Dev.pull (d : Dev) (q : Nat) : Dev :=
  let n := d.qHead q
  let err := d.pullError q
  let no := d.descRefusal q n
  let a := d.descAt q n
  let w := (List.range 8).map (d.descWord q n)
  let g i := w.getD i 0
  let x := d.ctx (d.qCtx q)
  let slot := n % d.qSize q
  let o : Op := {
    used := true, ctx := d.qCtx q, part := x.part, queue := q, slot := slot, tag := BitVec.ofNat 64 (g 1)
    entry := bits (g 2) 0 40, arg0 := BitVec.ofNat 64 (g 3), arg1 := BitVec.ofNat 64 (g 6)
    arg2 := BitVec.ofNat 64 (g 7), cls := d.descCls q (g 0)
    tiles := bits (g 0) 12 4, ordered := bit (g 0) 8, affinity := bits (g 4) 0 40
    deadlineWb := bits (g 0) 32 16, order := d.qm.nextOrder, annW := d.annWb q n }
  let d := d.qSet q 2 0 32 ((n + 1) % 2 ^ 32)
  let d := { d with qm := { d.qm with nextOrder := d.qm.nextOrder + 1 } }
  let d := { d with qm := { d.qm with announced := d.qm.announced.filter fun a =>
    !(a.1 == q && (a.2.1 + 2 ^ 32 - n - 1) % 2 ^ 32 == 0) } }
  let inst := if bits (g 0) 0 8 = 2 ∧ err = 0 then entryInst o.entry else none
  let w := min 0xFFFF (d.wb - o.annW)
  let d := if inst = none then d.charge x.customer 16 else d
  let dl := if o.deadlineWb = 0 then none else some (d.wb + o.deadlineWb)
  let d := if d.qHead q = d.qTail q then d.setDeficit q 0 else d
  if let some (t, r26) := no then
    (d.alloc d.hubTile { o with kind := .rejected, placed := true, waitWb := w, status := some stDenied }).2.deny
      720 x.part t r26 a
  else if err ≠ 0 then
    (d.alloc d.hubTile { o with kind := .rejected, placed := true, waitWb := w, status := some stPoisoned }).2.evHub
      2 0xA010 [q, slot, err]
  else match inst with
    | some i =>
      let (k, d) := d.alloc d.hubTile { o with kind := .request, placed := true, waitWb := w, deadline := dl }
      d.pullRequest k i q slot
    | none =>
      if bits (g 0) 0 8 = 3 then (d.alloc d.hubTile { o with kind := .fence, placed := true, waitWb := w }).2
      else
        let k := waitKey + o.order
        let d := d.setOp k { o with kind := if bits (g 0) 0 8 = 2 then .hubUnit else .task }
        { d with qm := { d.qm with dispatch := d.qm.dispatch ++ [k] } }

/-- DESCRIPTOR_PULL. -/
def execDescriptorPull (s : State) : Res :=
  onDev (fun d => match d.pick with
    | some (q, d) => (d.pull q).cqHold
    | none => d.cqHold) s

/-! ## OPERATION_DISPATCH -/

/-- A block to which a saved set of the tile could return (R168): empty of tasks, its static threads on other
numbers than the set's. DEDUCED (log 39). -/
def Dev.resumeBlock (d : Dev) (t : Nat) (s : SavedSet) : Option Nat :=
  let ok b := d.inPool b && d.slotFar b 7 && (d.blk b).eng == [] &&
    (d.blk b).threads.all fun e => if e.2.static.isSome then !(s.threads.any (·.1 == e.1)) else e.2.op.isNone
  if ok s.block then some s.block else (tileBlocks t).find? ok

/-- The oldest saved set of a tile, with its slot. -/
def Tile.oldest (s : Tile) : Option (Nat × SavedSet) :=
  minBy? (fun e => e.2.order) (s.saves.filter (·.2.used))

/-- Whether a saved set of the tile is due for resumption (R169). -/
def Dev.resumeDue (d : Dev) (t : Nat) : Bool :=
  match (d.tile t).oldest with
  | some e => d.tileUp t && (d.resumeBlock t e.2).isSome
  | none => false

/-- Whether a tile takes a new operation: entries free in its dynamic share, no saved set due first. -/
def Dev.tileTakes (d : Dev) (t : Nat) : Bool := d.tileUp t && decide (0 < d.dynFree t) && !d.resumeDue t

/-- The block for a TASK in some of the tiles (R163), and the tile in which its affinity was missed. DEDUCED
(log 38). -/
def Dev.placeIn (d : Dev) (o : Op) (tiles : List Nat) : Option Nat × Option Nat :=
  let hint := if o.affinity = 0 then none
    else match target o.affinity with
      | .spad b => some b
      | _ => (d.ctx o.ctx).lastBlk
  match hint with
  | some b =>
    if tiles.contains (tileOf b) && d.eligible b o.part then (some b, none)
    else (rule3 tiles, some (tileOf b))
  | none => (rule3 tiles, none)
where
  /-- Rule 3: the tile with the most free dynamic entries first. -/
  rule3 (tiles : List Nat) : Option Nat :=
    (sortBy (fun t => 4096 - d.dynFree t) tiles).findSome? fun t => d.tileBest t o.part

/-- The block for a new TASK, and the tile in which its affinity was missed. -/
def Dev.place (d : Dev) (o : Op) : Option Nat × Option Nat := d.placeIn o ((tilesOf o.tiles).filter d.tileTakes)

/-- Whether a waiting operation may be dispatched under R141: no earlier operation of its queue waits
too, and with ORDERED none is in flight. -/
def Dev.inOrder (d : Dev) (k : Nat) : Bool :=
  let o := d.op k
  o.queue == 0x40000 || !(d.ops.any fun e => e.2.used && !e.2.static && e.2.queue == o.queue && decide (e.2.order < o.order) &&
    (o.ordered || (e.2.kind != .fence && !e.2.placed && e.2.status.isNone)))

/-- Open the credit pools of a context in a block where its first task begins (R110, R121); those of a context that
is being disabled stay closed (R125, R152). -/
def Dev.openPools (d : Dev) (b c : Nat) : Dev :=
  if (d.ctx c).state ≠ 1 then d
  else d.modBlk b fun k => ((d.ctx c).pools.zipIdx).foldl (fun k p =>
    if p.1.valid ∧ (k.pool p.2).valid = false then k.setPool p.2 (openPool p.1 c) else k) k

/-- A step task of the sequencer takes its token. -/
def Dev.retoken (d : Dev) (k tok : Nat) : Dev :=
  { d with srv := { d.srv with insts := d.srv.insts.map fun e =>
    (e.1, { e.2 with running := e.2.running.map fun x => if x = k then tok else x }) } }

/-- Place a waiting TASK on a thread of block `b`. DEDUCED (log 38). -/
def Dev.placeTask (d : Dev) (k b : Nat) : Dev :=
  let o := d.op k
  match (d.blk b).freeThread with
  | none => d
  | some n =>
    let d := d.setOp k {}
    let (tok, d) := d.alloc (tileOf b) { o with
      placed := true, block := some b, thread := some n, waitWb := min 0xFFFF (d.wb - o.annW)
      deadline := if o.deadlineWb = 0 then none else some (d.wb + o.deadlineWb) }
    let d := Dev.retoken { d with qm := { d.qm with dispatch := d.qm.dispatch.filter (· ≠ k) } } k tok
    let fresh := (d.blk b).part.isNone
    let c := d.ctx o.ctx
    let h := startThread c {} tok o.entry
    let x := [(10, o.arg0), (11, o.arg1), (12, o.arg2)].foldl (fun t e => tset (fun _ => 0) t e.1 e.2) h.x
    let d := d.modBlk b fun q => { q.setThr n { h with x := x } with
      part := some o.part, selCnt := if fresh then 0 else q.selCnt }
    (d.openPools b o.ctx).modCtx o.ctx fun c => { c with lastBlk := some b }

/-- Count the placements that a block at 256 entries refused (R146). -/
def Dev.blkStalls (d : Dev) (o : Op) : Dev :=
  (tilesOf o.tiles).foldl (fun d t =>
    d.bump (R.qmBlkStall t) ((tileBlocks t).filter fun b => d.eligible0 b o.part && !d.eligible b o.part).length) d

/-- The unit that a hub descriptor names (R139). DEDUCED (log 38). -/
def Dev.hubUnit (d : Dev) (entry : Nat) : OpKind :=
  if (d.rd (hubBase + entry)).toNat = 0x20 then .ppu
  else if entry = Config.attOffset % hubSize then .attest else .hubUnit

/-- The range that a hub unit's operation writes (R53): the post-processing unit's output. -/
def Dev.hubOuts (d : Dev) (u : OpKind) (entry : Nat) : List (Nat × Nat) :=
  match u with
  | .ppu => let p := d.ppuDesc (hubBase + entry); [(p.outA, p.outBytes)]
  | _ => []

/-- Dispatch one waiting operation if it can be placed; one that was aborted while it waited takes an
entry for its record. DEDUCED (log 37). -/
def Dev.dispatchOne (d : Dev) (k : Nat) : Option Dev :=
  let o := d.op k
  if o.status.isSome then
    if [0, 1, 2, 3].any (fun t => 0 < d.dynFree t) then
      let d := { d.setOp k {} with qm := { d.qm with dispatch := d.qm.dispatch.filter (· ≠ k) } }
      let (tok, d) := d.alloc d.hubTile { o with placed := true }
      some (d.retoken k tok)
    else none
  else if d.inOrder k = false then none
  else if o.kind = .task then
    match d.place o with
    | (some b, miss) =>
      let d := if o.refused then d else d.blkStalls o
      let d := match miss with
        | some t => d.bump (R.qmAffMiss t)
        | none => d
      some (d.placeTask k b)
    | (none, _) =>
      if o.refused = false ∧ (tilesOf o.tiles).any (fun t => d.blksFull t o.part) = true then
        some ((d.blkStalls o).modOp k fun o => { o with refused := true })
      else none
  else if [0, 1, 2, 3].any (fun t => 0 < d.dynFree t) then
    let d := d.setOp k {}
    let d := { d with qm := { d.qm with dispatch := d.qm.dispatch.filter (· ≠ k) } }
    some (d.alloc d.hubTile { o with
      kind := d.hubUnit o.entry, placed := true, began := d.time.now, outs := d.hubOuts (d.hubUnit o.entry) o.entry, waitWb := min 0xFFFF (d.wb - o.annW)
      deadline := if o.deadlineWb = 0 then none else some (d.wb + o.deadlineWb) }).2
  else none

/-- Restart an interrupted task from its descriptor on block `b`, with its original token (R342). -/
def Dev.restartTask (d : Dev) (k b : Nat) : Dev :=
  let o := d.op k
  match (d.blk b).freeThread with
  | none => d
  | some n =>
    let h := startThread (d.ctx o.ctx) {} k o.entry
    let x := [(10, o.arg0), (11, o.arg1), (12, o.arg2)].foldl (fun t e => tset (fun _ => 0) t e.1 e.2) h.x
    let fresh := (d.blk b).part.isNone
    let d := d.modOp k fun o => { o with
      block := some b, thread := some n, interrupted := false, replayed := true
      launches := 0, kids := [], launched := 0, checked := 0, unchecked := false, sat := false, nan := false }
    let d := d.modBlk b fun q => { q.setThr n { h with x := x } with
      part := some o.part, selCnt := if fresh then 0 else q.selCnt }
    ((d.openPools b o.ctx).modCtx o.ctx fun c => { c with lastBlk := some b }).bump (R.qmReplayed (tokTile k))

/-- Interrupted operations of a tile that wait to be placed again, in tracker order: those of no suspect
that is still to be replayed (R343). -/
def Dev.toReplace (d : Dev) (t : Nat) : List Nat :=
  let x := d.tile t
  ((d.tileOps t).filter fun e => e.2.interrupted && e.2.status.isNone && e.2.block.isNone &&
    !(x.suspects.contains e.2.ctx) && x.current != some e.2.ctx).map (·.1)

/-- Interrupted operations of a context in a tile that wait for its replay. DEDUCED (log 68). -/
def Dev.replayOps (d : Dev) (t c : Nat) : List Nat :=
  ((d.tileOps t).filter fun e => e.2.ctx == c && e.2.interrupted && e.2.status.isNone).map (·.1)

/-- Restart the next operation of the suspect under replay, once the block of the replay has room for it; a
retired block gives way to the one of rule 3 (R344). DEDUCED (log 68). -/
def Dev.replayOne (d : Dev) (t : Nat) : Option Dev :=
  let x := d.tile t
  match x.current, x.replayBlk with
  | some c, some b =>
    if x.region ≠ 2 ∨ x.blkReset.any (·.1 == b) = true then none
    else (d.replayOps t c).head?.bind fun k =>
      let p := (d.op k).part
      if (d.blk b).svc = .retired then
        (d.tileBest t p).map fun n => (d.modTile t fun x => { x with replayBlk := some n }).restartTask k n
      else if d.pooled b ∧ d.roomFor b p ∧ d.blkCharge b < 256 then some (d.restartTask k b)
      else none
  | _, _ => none

/-- Place the next interrupted operation of a tile again, in the tile that holds its entry: the suspect's
under replay on its block, the others under R163. -/
def Dev.replaceOne (d : Dev) (t : Nat) : Option Dev :=
  if d.tileUp t = false then none
  else d.replayOne t <|> (d.toReplace t).findSome? fun k =>
    let (at_, miss) := d.placeIn (d.op k) [t]
    at_.map fun b => (match miss with
      | some u => d.bump (R.qmAffMiss u)
      | none => d).restartTask k b

/-- OPERATION_DISPATCH: an interrupted operation that can be placed again, else the oldest waiting
operation that can be placed. DEDUCED (log 38). -/
def execOperationDispatch (s : State) : Res :=
  onDevIf (fun d => d.live)
    (fun d => (([0, 1, 2, 3].findSome? d.replaceOne) <|> (d.qm.dispatch.findSome? d.dispatchOne)).getD d) s

/-! ## Pre-emption (R164 to R169) -/

/-- Threads of a block that run dynamic tasks. -/
def Dev.dynThreads (d : Dev) (b : Nat) : List (Nat × Thread) :=
  (d.blk b).threads.filter fun e => e.2.static.isNone && e.2.op.isSome
/-- Tokens of the dynamic tasks on a block. -/
def Dev.dynToks (d : Dev) (b : Nat) : List Nat := (d.dynThreads b).filterMap (·.2.op)

/-- Abort the dynamic tasks on a block that no completed save holds (R166). -/
def Dev.abortSet (d : Dev) (b : Nat) : Dev :=
  let ks := (d.dynToks b).filter d.open_
  if ks = [] then d.modBlk b fun k => { k with preempt := none }
  else
    let d := ks.foldl (fun d k => d.finish k stAborted) d
    let d := (d.bump (R.qmPreemptAbort (tileOf b))).evBlk 5 0xA041 b [b, ks.length]
    d.modBlk b fun k => { k with preempt := none }

/-- The lowest free save slot of a tile. -/
def Dev.saveSlot (d : Dev) (t : Nat) : Option Nat :=
  let inUse := (tileBlocks t).filterMap fun b => (d.blk b).preempt.map (·.slot)
  (List.range 32).find? fun s => !((d.tile t).saves.any fun e => e.1 = s) && !(inUse.contains s)

/-- Address of a save slot (R164). -/
def Dev.slotAddr (d : Dev) (t s : Nat) : Nat := d.fld R.qmSaveBase 0 28 * 4096 + (32 * t + s) * 0x120000

/-- Steps 1 and 2 of R165: admission stops, threads leave their waits, the engine stops; without a free
save slot the tasks are aborted at once. DEDUCED (log 39). -/
def Dev.preemptStart (d : Dev) (b : Nat) : Dev :=
  match d.saveSlot (tileOf b) with
  | none => d.abortSet b
  | some s =>
    let d := d.modBlk b fun k => { k with
      preempt := some { s := d.wb + (d.nextSlot b).getD 0, start := d.time.now, slot := s }
      threads := k.threads.map fun e => (e.1, if e.2.static.isNone && e.2.op.isSome then { e.2 with wait := .none } else e.2) }
    let toks := d.dynThreads b
    d.unwait fun w => w.1 == b && toks.any fun e => e.1 == w.2

/-- PREEMPTION_START: in the 4 wingbeats before the block's next SLOT_BEGIN. -/
def execPreemptionStart (b : Fin 144) (s : State) : Res :=
  onDevIf (fun d => d.live && (d.blk b).preempt.isNone && !d.slotFar b 4 && d.dynToks b != [] &&
      (d.blk b).beats == [])
    (fun d => d.preemptStart b) s

/-- The thread that holds a grant, on a block or in a saved set: its initiator ID and its task. -/
def Dev.grantWriter (d : Dev) (b p a : Nat) : Option (Nat × Option Nat) :=
  let find (x : Nat) (ts : Table Thread) : Option (Nat × Option Nat) := (ts.find? fun h =>
    h.2.grants.any fun g => g.block == b && g.pool == p && g.addr == a).map fun h => (5 * x + h.1 / 8, h.2.op)
  (d.blocks.findSome? fun k => find k.1 k.2.threads) <|>
    (d.tiles.findSome? fun t => t.2.saves.findSome? fun s => find s.2.block s.2.threads)

/-- Cancel one unpublished grant: its task ends as ABORTED, and its writes that have not landed are dropped (R165
step 3); grants held behind it are published (R124). -/
def Dev.cancelGrant (d : Dev) (b p a : Nat) : Dev :=
  let who := d.grantWriter b p a
  let d := d.evBlk 2 0xA042 b [(who.map (·.1)).getD 0, a]
  let d := match who.bind (·.2) with
    | some k => d.finish k stAborted
    | none => d
  (d.modBlk b fun k => { k with posted := k.posted.filter fun x => who.bind (·.2) != some x.op }).modPool b p fun q =>
    Pool.publish { q with grants := q.grants.filter fun g => g.1 != a } a

/-- GRANT_CANCEL_AT_PREEMPTION: 100 µs after step 1. DEDUCED (log 39). -/
def execGrantCancelAtPreemption (b : Fin 144) (s : State) : Res :=
  onDevIf (fun d => match (d.blk b).preempt with
      | some p => decide (p.start + 100000 ≤ d.time.now)
      | none => false)
    (fun d =>
      let gs := (d.blk b).pools.flatMap fun p => (p.2.grants.filter fun g => !g.2.2).map fun g => (p.1, g.1)
      (gs.foldl (fun d g => d.cancelGrant b g.1 g.2) d).sweepAll) s

/-- Whether a pool of a block belongs to a static context. -/
def Dev.staticPool (d : Dev) (p : Pool) : Bool := (d.ctx p.ctx).static

/-- The save engine has written the block's state to its slot (R165 step 4, R167). DEDUCED (log 39). -/
def Dev.saveDone (d : Dev) (b : Nat) (p : Preempt) : Dev :=
  let t := tileOf b
  let k := d.blk b
  let toks := (d.dynToks b).filter d.open_
  let set : SavedSet := {
    used := true, order := (d.tile t).saveNo, block := b, part := k.part.getD 0, tokens := toks
    threads := d.dynThreads b, eng := k.eng.filter fun e => !e.static
    pools := k.pools.filter fun e => !d.staticPool e.2, sigs := k.sigs, since := d.wb
    waiters := (k.pools.filter fun e => !d.staticPool e.2).flatMap fun e => d.waitersOf b e.1 }
  let a := d.slotAddr t p.slot
  let d := d.copy (blockBase b) a 0x100000
  let gs := if d.encOf set.part = 0 then [] else granules a 0x100000
  let clear := tdrop (a / 64) ((a + 0x100000) / 64) d.enc
  let d := { d with enc := gs.foldl (fun (u : Table Nat) g => tset (fun _ => 0) u g (d.encOf set.part)) clear }
  let d := toks.foldl (fun d x => d.modOp x fun o => { o with
    preempts := o.preempts + 1, preempted := true, block := none, thread := none, saved := some (32 * t + p.slot) }) d
  let d := d.modBlk b fun k => { k with
    threads := k.threads.filter fun e => e.2.static.isSome || e.2.op.isNone
    eng := k.eng.filter (·.static), pools := k.pools.filter fun e => d.staticPool e.2
    waiters := k.waiters.filter fun w => !set.waiters.contains w, part := none, preempt := none }
  let d := d.bump (R.qmPreempt t)
  d.modTile t fun s => { s with saves := tput p.slot (some set) s.saves, saveNo := s.saveNo + 1 }

/-- SAVE_COMPLETE: before S, and once every grant into the block has been published or cancelled (R165), and every
arbitration of its operations has ended, whose copies read and write its scratchpads (R297). DEDUCED (log 39). -/
def execSaveComplete (b : Fin 144) (s : State) : Res :=
  onDevIf (fun d => match (d.blk b).preempt with
      | some p => decide (d.time.now ≤ p.s * wingbeatNs) &&
          (d.blk b).eng.all (fun e => e.static || e.arb.isNone) &&
          (d.blk b).pools.all fun q => q.2.grants.all fun g => g.2.2
      | none => false)
    (fun d => match (d.blk b).preempt with
      | some p => d.saveDone b p
      | none => d) s

/-- Rewrite the base of every LOCAL window to a logical block (R168). DEDUCED (log 39). -/
def relocal (l : Nat) (ws : List (Nat × Nat)) : List (Nat × Nat) :=
  ws.map fun w => if bit w.1 62 then (setBits w.1 40 5 l, w.2) else w

/-- The requests that waited at the pools of a saved set, and wait still, go on at the block it returns to, and are
served as its pools grant again (R122, R165). DEDUCED (log 39). -/
def Dev.resumeWaits (d : Dev) (s : SavedSet) (b : Nat) : Dev :=
  let ws := s.waiters.filter fun w => match ((d.blk w.1).thr w.2).wait with
    | .acq b' p _ _ => b' == s.block && s.pools.any (·.1 == p)
    | _ => false
  let d := ws.foldl (fun d w => d.modThr w.1 w.2 fun h => match h.wait with
    | .acq _ p n rd => { h with wait := .acq b p n rd }
    | _ => h) d
  let d := d.modBlk b fun k => { k with waiters := k.waiters ++ ws }
  s.pools.foldl (fun d p => d.serve b p.1) d

/-- Reload a saved set onto a block (R168). DEDUCED (log 39). -/
def Dev.resumeSet (d : Dev) (t slot b : Nat) (s : SavedSet) : Dev :=
  let l := (d.logical b).getD 0
  let d := d.copy (d.slotAddr t slot) (blockBase b) 0x100000
  let d := s.threads.foldl (fun d h => match h.2.op with
    | some k =>
      let d := d.modOp k fun o => { o with
        block := some b, thread := some h.1, saved := none, savedWb := o.savedWb + (d.wb - s.since) }
      let d := d.modCtx (d.op k).ctx fun c => { c with lastBlk := some b }
      d.modThr b h.1 fun _ => { h.2 with windows := relocal l h.2.windows }
    | none => d) d
  let d := d.modBlk b fun k => { k with
    part := some s.part, eng := k.eng ++ s.eng, stamp := s.eng.foldl (fun n e => max n (e.ord + 1)) k.stamp, pools := tmerge s.pools k.pools, sigs := s.sigs }
  let d := (d.modTile t fun x => { x with saves := tput slot none x.saves }).resumeWaits s b
  (s.eng.filter fun e => e.stage == .firstDone && !e.selected).foldl (fun (d : Dev) e => d.report b e stUnchecked false) d

/-- SAVED_SET_RESUME: the oldest set of the tile, onto the block it came from where that is free. -/
def execSavedSetResume (t : Fin 4) (s : State) : Res :=
  onDevIf (fun d => d.live && d.resumeDue t)
    (fun d => match (d.tile t).oldest with
      | some (slot, set) => match d.resumeBlock t set with
        | some b => d.resumeSet t slot b set
        | none => d
      | none => d) s

end Sys2Proof.Machine
end

