-- ==== Sys2Proof/Machine/Serving.lean ====
section
/-! DEFINITION. The serving sequencer (R183 to R203, R205 to R209, R217, R218): loading and unloading
an instance, prefix lookups, and the step boundary. -/

namespace Sys2Proof.Machine

/-! ## Instances -/

/-- Instance that QM_SRV_ISEL addresses. -/
def Dev.iSel (d : Dev) : Nat := d.fld R.qmSrvIsel 0 3
/-- As an object. -/
def instObj (i : Nat) : DisObj := .inst (Fin.ofNat 8 i)
/-- Address of the instance descriptor. -/
def Dev.idesc (d : Dev) : Nat := d.reg R.qmSrvIdescLo + d.fld R.qmSrvIdescHi 0 8 * 4294967296
/-- A field of QM_SRV_I… whose 0 stands for a default. -/
def orDefault (v dflt : Nat) : Nat := if v = 0 then dflt else v

/-- Bytes of one KV block by a pool descriptor's word 2 (R207). -/
def kvBlockBytes (w2 : Nat) : Nat :=
  let dim := bits w2 16 9
  let fmt := bits w2 25 4
  let e := if fmt = 8 ∨ fmt = 9 then 2 else 1
  let scales := if fmt = 8 ∨ fmt = 9 then 0 else 64 * ceilDiv dim 128 + 64 * ceilDiv dim 64
  bits w2 0 8 * bits w2 8 8 * (2 * (16 * dim * e) + scales)

/-- The areas of an instance in DRAM: pool, free stack, block tables. -/
def Inst.areas (s : Inst) : List (Nat × Nat) :=
  [(s.kvBase, s.kvBlocks * s.kvBytes), (s.kvStack, 4 * s.kvBlocks), (s.kvTable, s.maxSeqs * s.stride)]

/-- The instance that a descriptor describes, with its pool. DEDUCED (log 42). -/
def Dev.instOf (d : Dev) (a : Nat) : Inst :=
  let w i := d.rdN (a + 8 * i) 8
  let kp := bits (w 5) 0 40
  let k i := d.rdN (kp + 8 * i) 8
  { state := 1, part := bits (w 0) 0 6, ctx := bits (w 0) 6 12, draftEn := bit (w 0) 18
    scope := bit (w 0) 19, tiles := bits (w 0) 21 4, entry := bits (w 1) 0 40
    draftEntry := bits (w 2) 0 40, budget := orDefault (bits (w 3) 0 15) 2048
    chunk := orDefault (bits (w 3) 15 14) 1024, maxSeqs := bits (w 3) 29 11
    draftMax := bits (w 3) 40 3, tasks := bits (w 3) 43 8, maxWait := bits (w 3) 51 13
    vocab := bits (w 4) 0 32, maxCtx := bits (w 4) 32 21, plan := bits (w 6) 0 40
    kvBase := bits (k 0) 0 40, kvBlocks := bits (k 1) 0 32, kvBytes := bits (k 5) 0 32
    kvFree := bits (k 1) 0 32, kvStack := bits (k 3) 0 40, kvTable := bits (k 4) 0 40
    kvLow := 0xFFFFFFFF }

/-- Whether a reserved field of the instance descriptor or of the pool descriptor is non-zero. -/
def Dev.instReserved (d : Dev) (a : Nat) : Bool :=
  let w i := d.rdN (a + 8 * i) 8
  let k i := d.rdN (bits (w 5) 0 40 + 8 * i) 8
  bits (w 0) 20 1 != 0 || bits (w 0) 25 39 != 0 || bits (w 1) 40 24 != 0 || bits (w 2) 40 24 != 0 ||
    bits (w 4) 53 11 != 0 || bits (w 5) 40 24 != 0 || bits (w 6) 40 24 != 0 ||
    (List.range 25).any (fun i => w (7 + i) != 0) ||
    bits (k 0) 40 24 != 0 || bits (k 1) 32 32 != 0 || bits (k 2) 29 35 != 0 || bits (k 3) 40 24 != 0 ||
    bits (k 4) 40 24 != 0 || bits (k 5) 32 32 != 0 || k 6 != 0 || k 7 != 0

/-- Whether every field of the descriptor is in range (R183). -/
def Inst.inRange (s : Inst) : Bool :=
  decide (256 ≤ s.budget) && decide (s.budget ≤ 16384) && s.budget % 16 == 0 &&
    decide (256 ≤ s.chunk) && decide (s.chunk ≤ 8192) && s.chunk % 16 == 0 && decide (s.chunk ≤ s.budget) &&
    decide (1 ≤ s.maxSeqs) && decide (s.maxSeqs ≤ 1024) && decide (1 ≤ s.draftMax) &&
    decide (1 ≤ s.tasks) && decide (s.tasks ≤ 128) && decide (1 ≤ s.maxWait) && decide (s.maxWait ≤ 4096) &&
    decide (16 ≤ s.maxCtx) && decide (s.maxCtx ≤ 1048576) && s.plan % 64 == 0

/-- The pool checks of R206, and that the plan area lies in DRAM in service (R183). -/
def Dev.poolOk (d : Dev) (i a : Nat) (s : Inst) : Bool :=
  let kp := bits (d.rdN (a + 40) 8) 0 40
  let w2 := d.rdN (kp + 16) 8
  let inDram (r : Nat × Nat) : Bool := decide (r.1 + r.2 ≤ d.dramSize) && decide (d.safetySize ≤ r.1)
  let meet (x y : Nat × Nat) : Bool := meets x.1 x.2 y.1 y.2
  let others := d.srv.insts.flatMap fun e => if e.1 ≠ i ∧ (e.2.state = 1 ∨ e.2.state = 2) then e.2.areas else []
  let dim := bits w2 16 9
  kp % 64 == 0 && decide (kp + 64 ≤ d.dramSize) && decide (s.plan + 64 + 64 * s.maxSeqs ≤ d.dramSize) && s.kvBase % 4096 == 0 && s.kvStack % 64 == 0 &&
    s.kvTable % 64 == 0 && decide (1 ≤ s.kvBlocks) && decide (s.kvBlocks ≤ 0xFFFFFFFE) &&
    bits w2 0 8 != 0 && decide (1 ≤ bits w2 8 8) && decide (bits w2 8 8 ≤ 64) && decide (32 ≤ dim) &&
    decide (dim ≤ 256) && dim % 32 == 0 && [2, 3, 8, 9].contains (bits w2 25 4) && s.kvBytes == kvBlockBytes w2 &&
    s.areas.all inDram &&
    !(meet (s.areas.getD 0 (0, 0)) (s.areas.getD 1 (0, 0)) || meet (s.areas.getD 0 (0, 0)) (s.areas.getD 2 (0, 0)) ||
      meet (s.areas.getD 1 (0, 0)) (s.areas.getD 2 (0, 0))) &&
    s.areas.all fun x => others.all fun y => !meet x y

/-- The reason for which a load is refused (R184, R204); 0 if it succeeds. DEDUCED (log 42). -/
def Dev.instCheck (d : Dev) (i : Nat) : Nat :=
  let a := d.idesc
  let s := d.instOf a
  let p := d.part s.part
  let c := d.ctx s.ctx
  if (d.inst i).state ≠ 0 then 1
  else if p.declared = false ∨ p.static ∨ c.state ≠ 1 ∨ c.part ≠ s.part then 2
  else if d.instReserved a ∨ s.inRange = false ∨ d.poolOk i a s = false then 3
  else if s.budget < s.maxSeqs * (1 + if s.draftEn then s.draftMax else 0) then 4
  else 0

/-- INSTANCE_LOAD: a write of QM_SRV_ICTL.EN = 1; ignored while BUSY. DEDUCED (log 42). -/
def Dev.instanceLoad (mode : Bool) (d : Dev) : Dev :=
  doIf (fun d => !d.disBusy (instObj d.iSel))
    (fun d =>
      let i := d.iSel
      let d := d.setFld R.qmSrvIctl 0 2 (1 + 2 * b2n mode)
      match d.instCheck i with
      | 0 =>
        let v := d.instOf d.idesc
        let d := d.store (hubBase + Config.instOffset i % hubSize) (d.rdBytes d.idesc 256)
        let insts := tset (fun _ => {}) d.srv.insts i { v with key := Config.sipKey d.free }
        let d := { d with srv := { d.srv with insts := insts }, free := d.free + 1 }
        let d := d.storeAs v.part v.kvStack
          ((List.range v.kvBlocks).flatMap fun n => toLE 4 (v.kvBlocks - 1 - n))
        d.modCtx v.ctx fun c => { c with serving := true }
      | r => d.event 5 0xA050 4 0x30 [i, r]) d

/-- The host's write (R432, R454). -/
def execInstanceLoad (mode : Bool) (s : State) : Res := onHost (Dev.instanceLoad mode) s

/-- INSTANCE_UNLOAD: a write of QM_SRV_ICTL.EN = 0 (R185). -/
def Dev.instanceUnload (mode : Bool) (d : Dev) : Dev :=
  doDev (fun d =>
    let i := d.iSel
    let d := d.setFld R.qmSrvIctl 0 2 (2 * b2n mode)
    match (d.inst i).state with
    | 0 => d
    | 2 => if mode then (d.abortObj (instObj i)).disCheck else d
    | _ => (d.modInst i fun s => { s with state := 2 }).disStart (instObj i) mode) d

/-- The host's write (R432, R454). -/
def execInstanceUnload (mode : Bool) (s : State) : Res := onHost (Dev.instanceUnload mode) s

/-- QM_SRV_CTL.FAIR: takes effect at the next epoch tick. -/
def Dev.qmSrvCtlFair (v : Bool) (d : Dev) : Dev :=
  doDev (fun d => d.setFld R.qmSrvCtl 0 1 (b2n v)) d

/-- The host's write (R432, R454). -/
def execQmSrvCtlFair (v : Bool) (s : State) : Res := onHost (Dev.qmSrvCtlFair v) s

/-- QM_BUDGET_c: takes effect at the next epoch tick. -/
def Dev.qmBudget (c : Fin 1024) (v : Word) (d : Dev) : Dev :=
  doDev (fun d => d.setReg (R.qmBudget c) v.toNat) d

/-- The host's write (R432, R454). -/
def execQmBudget (c : Fin 1024) (v : Word) (s : State) : Res := onHost (Dev.qmBudget c v) s

/-! ## Prefix lookup and insertion -/

/-- PREFIX_LOOKUP_DONE: the lookup of R196 has reached its first miss. -/
def execPrefixLookupDone (token : Fin 16384) (s : State) : Res :=
  onDevIf (fun d => (d.op token).used && (d.op token).status.isNone && (d.req token).lookup)
    (fun d =>
      let k := token.val
      let r := d.req k
      let (d, hits) := d.pfxWalk r (r.plen / 16) 0 0 0x3FFFF []
      let (d, hits) := match hits.getLast? with
        | some e => if 16 * hits.length = r.plen then (d.pfxRelease e, hits.dropLast) else (d, hits)
        | none => (d, hits)
      let d := d.modReq k fun r => { r with
        lookup := false, matched := 16 * hits.length, pos := 16 * hits.length
        entries := (List.range hits.length).zip hits, kv := hits.map fun e => (d.pfx e).kv }
      d.outWrite k r 4 (toLE 4 (16 * hits.length))) s

/-- Age of an entry's LAST_USE, the greatest oldest. -/
def Dev.pfxAge (d : Dev) (e : Nat) : Nat := (d.epoch + 65536 - (d.pfx e).lastUse) % 65536

/-- Evict an entry: its KV block returns to the pool (R197). -/
def Dev.pfxEvict (d : Dev) (e : Nat) : Dev :=
  let p := d.pfx e
  ((d.bump R.qmPfxEvict).kvPush p.inst p.kv).modPfx e fun _ => {}

/-- The way that an insertion into a set takes: a free one, else the one to evict (R197). -/
def Dev.pfxWay (d : Dev) (set : Nat) : Option Nat :=
  let ways := (List.range 12).map (set * 12 + ·)
  let idle := ways.filter fun e => (d.pfx e).refs = 0
  match idle.find? fun e => (d.pfx e).valid = false with
  | some e => some e
  | none => minBy? (fun e => 65535 - d.pfxAge e) idle

/-- Insert block `j` of a request under its parent: the entry that now stands for it, if one does. -/
def Dev.pfxInsert (d : Dev) (k j h parent : Nat) : Dev × Option Nat :=
  let r := d.req k
  let same e := d.rdBytes (d.pfxToks e) 64 == d.blockToks r j
  let ms := d.tagMatch r h
  match ms.find? same with
  | some e => (d, some e)
  | none => match ms with
    | e :: _ => (d.collision r e, none)
    | [] => match d.pfxWay (h % 16384) with
      | none => (d.bump R.qmPfxNoins, none)
      | some e =>
        let d := if (d.pfx e).valid then d.pfxEvict e else d
        let d := d.storeAs (d.initPart 720) (d.pfxToks e) (d.blockToks r j)
        let d := d.modPfx e fun _ => {
          valid := true, tag := h / 16384, inst := r.inst, customer := d.pfxCust r, parent := parent
          refs := 1, lastUse := d.epoch % 65536, kv := r.kv.getD j 0 }
        (d.modReq k fun r => { r with entries := r.entries ++ [(j, e)] }, some e)

/-- Walk the blocks of a request from the first; insert those from `lo` on. The chain ends where a
block has no entry, since PARENT names the entry of the block before. DEDUCED (log 44). -/
def Dev.pfxChain (d : Dev) (k lo : Nat) : (fuel j prev parent : Nat) → Dev
  | 0, _, _, _ => d
  | fuel + 1, j, prev, parent =>
    let r := d.req k
    let h := d.chainHash r prev j
    match r.entries.find? (·.1 = j) with
    | some e => Dev.pfxChain d k lo fuel (j + 1) h e.2
    | none =>
      if j < lo then match (d.lookup r parent h j).1 with
        | some e => Dev.pfxChain d k lo fuel (j + 1) h e
        | none => d
      else match d.pfxInsert k j h parent with
        | (d, some e) => Dev.pfxChain d k lo fuel (j + 1) h e
        | (d, none) => d

/-- Insert the blocks `lo` to `hi - 1` of a request that looks up and records prefixes. -/
def Dev.pfxRecord (d : Dev) (k lo hi : Nat) : Dev :=
  if (d.req k).pfx then d.pfxChain k lo hi 0 0 0x3FFFF else d

/-! ## Applying a step (R193, R200, R201) -/

/-- Draft length of a request (R200). -/
def Dev.draftLen (d : Dev) (r : Req) : Nat :=
  if r.spec then ceilDiv ((d.inst r.inst).draftMax * r.level) 4 else 0

/-- Address of a request's input tokens for decode, and for prompt tokens that a recomputation
appended. DEDUCED (log 44). -/
def tokAddr (i slot : Nat) : Nat := Config.tokBuf i slot % dramTop

/-- New tokens as they join the output: cut at MAX_NEW and after the first stop token (R189). -/
def Req.take (r : Req) (ts : List Nat) : List Nat :=
  let ts := ts.take (r.maxNew - r.gen.length)
  match indexOf? (r.stops.contains ·) ts with
  | some n => ts.take (n + 1)
  | none => ts

/-- Whether a request has reached MAX_NEW or a stop token. -/
def Req.full (r : Req) : Bool :=
  decide (r.maxNew ≤ r.gen.length) || (match r.gen.getLast? with
    | some t => r.stops.contains t
    | none => false)

/-- Accepted drafts: how many agree with the sample slot before them. -/
def accepted : List Nat → List Nat → Nat
  | x :: ds, y :: ss => if x = y then accepted ds ss + 1 else 0
  | _, _ => 0

/-- The level and recovery count after a decode entry (R201). -/
def Req.relevel (r : Req) (l a : Nat) : Req :=
  if r.spec = false then r
  else if 0 < l ∧ a = 0 then { r with level := r.level - 1, recov := 0 }
  else if r.level = 0 then
    if r.recov + 1 = 16 then { r with level := 4, recov := 0 } else { r with recov := r.recov + 1 }
  else r

/-- Whether a request stops at the boundary until its output can be written (R454). -/
def Dev.outStopped (d : Dev) (r : Req) : Bool := r.outHost && !d.hostReady

/-- The status with which a request completes at this boundary, where it does (R202): one whose last tokens wait for
the link completes once they are written (R454). -/
def Dev.reqEnd (d : Dev) (k : Nat) : Option Nat :=
  let r := d.req k
  let c := d.rdN (r.rec_ + 0x48) 8
  if r.ended then
    if d.outStopped r then none else some (if c ≠ 0 then stTooLate else if r.unchecked then stUnchecked else stDone)
  else if c ≠ 0 then some stCancelled else none

/-- The full blocks of what a request has generated are inserted, where it completes as DONE or CANCEL_TOO_LATE
(R197). DEDUCED (log 44). -/
def Dev.pfxEnd (d : Dev) (k : Nat) : Dev :=
  let r := d.req k
  if d.reqEnd k = some stDone ∨ d.reqEnd k = some stTooLate then
    d.pfxRecord k (r.plen / 16) (min r.pos (r.plen + r.gen.length - 1) / 16)
  else d

/-- Apply the result of an entry of the step to its request. -/
def Dev.applyEntry (d : Dev) (i : Nat) (unchecked : Bool) (e : PlanEntry) : Dev :=
  let s := d.inst i
  let k := e.req
  let d := d.modReq k fun r => { r with
    unchecked := r.unchecked || unchecked }
  let r := d.req k
  let slot j := d.rdN (s.planEntry e.idx + 32 + 4 * j) 4
  if e.kind = 2 then
    let drafts := (List.range e.draft).map fun j => d.rdN (tokAddr i r.aslot + 4 + 4 * j) 4
    let a := accepted drafts ((List.range e.draft).map slot)
    let d := d.modInst i fun s => { s with
      drafted := satAdd 0xFFFFFFFF s.drafted e.draft, accepted := satAdd 0xFFFFFFFF s.accepted a }
    let r' : Req := { r.relevel e.draft a with
      gen := r.gen ++ r.take (drafts.take a ++ [slot a]), pos := r.pos + a + 1 }
    let d := d.modReq k fun _ => { r' with ended := r'.full }
    let d := if r.level ≠ 0 ∧ r'.level = 0 then d.event 0 0xA057 4 0x30 [i, k] else d
    (d.stream k).pfxEnd k
  else
    let d := d.modReq k fun r => { r with pos := r.pos + e.count }
    let d := d.pfxRecord k (e.pos / 16) (min (e.pos + e.count) r.plen / 16)
    if e.kind = 1 then
      let d := d.modReq k fun r => { r with gen := r.gen ++ r.take [slot 0] }
      ((d.modReq k fun r => { r with ended := r.full }).stream k).pfxEnd k
    else d

/-- Complete a request at a boundary. DEDUCED (log 43). -/
def Dev.endReq (d : Dev) (k st : Nat) : Dev :=
  let r := d.req k
  let d := d.modOp k fun o => { o with launched := b2n r.entered, checked := b2n (r.entered && r.allRep) }
  d.finish k st

/-- Step 2 of R190: CANCEL is sampled and requests complete (R202). A request whose last step was applied at an
earlier boundary has its generated blocks inserted now. -/
def Dev.cancels (d : Dev) (i : Nat) : Dev :=
  let s := d.inst i
  (s.admitted ++ s.waiting).foldl (fun d k =>
    match d.reqEnd k with
    | some st => (if s.step.any (·.req == k) then d else d.pfxEnd k).endReq k st
    | none => d) d

/-! ## Blocks for a step -/

/-- Remove the most recently admitted request for recomputation (R194). DEDUCED (log 44). -/
def Dev.recompute (d : Dev) (i : Nat) : Dev :=
  match (d.inst i).admitted.getLast? with
  | none => d
  | some k =>
    let d := d.reqHold k
    let d := d.modReq k fun r => { r with
      admitted := false, entries := [], kv := [], pos := 0, ext := r.gen.length, lookup := false }
    let d := d.modOp k fun o => { o with preempts := o.preempts + 1, preempted := true }
    let r := d.req k
    let d := d.modInst i fun s => { s with
      admitted := s.admitted.filter (· ≠ k), waiting := k :: s.waiting
      step := s.step.filter (·.req ≠ k), recomp := satAdd 0xFFFFFFFF s.recomp 1 }
    d.event 5 0xA055 4 0x30 [i, k, r.effLen]

/-- The prefix entry that KV pressure evicts next. -/
def Dev.pfxVictim (d : Dev) (i : Nat) : Option Nat :=
  minBy? (fun e => 65535 - d.pfxAge e)
    ((d.srv.pfx.filter fun e => e.2.valid && e.2.inst == i && e.2.refs == 0).map (·.1))

/-- Give request `k` blocks until it has `n` (R194, R209); it may be removed itself. DEDUCED (log 44). -/
def Dev.assign (k n : Nat) : (fuel : Nat) → Dev → Dev
  | 0, d => d
  | fuel + 1, d =>
    let r := d.req k
    if r.admitted = false ∨ n ≤ r.kv.length then d
    else match d.kvPop r.inst with
      | some (b, d) => Dev.assign k n fuel (d.modReq k fun r => { r with kv := r.kv ++ [b] })
      | none => match d.pfxVictim r.inst with
        | some e => Dev.assign k n fuel (d.pfxEvict e)
        | none => Dev.assign k n fuel (d.recompute r.inst)

/-- Blocks that the pool can supply: the free ones and those an eviction frees. -/
def Dev.supply (d : Dev) (i : Nat) : Nat :=
  (d.inst i).kvFree + (d.srv.pfx.filter fun e => e.2.valid && e.2.inst == i && e.2.refs == 0).length

/-- Step 3 of R190: waiting requests are admitted in order until the first that cannot be. -/
def Dev.admitReqs (i : Nat) : List Nat → Dev → Dev
  | [], d => d
  | k :: ks, d =>
    let s := d.inst i
    let r := d.req k
    let used := s.admitted.map fun x => (d.req x).aslot
    match (List.range s.maxSeqs).find? fun x => !used.contains x with
    | none => d
    | some slot =>
      if r.lookup ∨ d.supply i < ceilDiv (r.effLen + 1) 16 - r.entries.length then d
      else
        let d := d.modReq k fun r => { r with admitted := true, aslot := slot }
        Dev.admitReqs i ks (d.modInst i fun s => { s with
          admitted := s.admitted ++ [k], waiting := s.waiting.filter (· ≠ k) })

/-! ## Composing and starting a step -/

/-- Whether a customer is held by its budget (R199). -/
def Dev.heldCust (d : Dev) (c : Nat) : Bool := d.srv.fairAct == 1 && decide (d.balance c ≤ 0)

/-- Add an entry to the step being composed; the request gets its blocks first. -/
def Dev.addEntry (d : Dev) (i k kind draft count : Nat) : Dev :=
  let r := d.req k
  let n := ceilDiv (r.pos + count) 16
  let d := Dev.assign k n (2 * n + 262144 + (d.inst i).admitted.length) d
  let r := d.req k
  if r.admitted = false then d
  else
    let d := if r.entered then d else (d.modReq k fun r => { r with entered := true }).modOp k fun o =>
      { o with waitWb := min 0xFFFF (d.wb - o.annW) }
    d.modInst i fun s => { s with
      step := s.step ++ [{ req := k, kind := kind, draft := draft, count := count, pos := r.pos }] }

/-- Tokens of the step composed so far. -/
def Inst.tokens (s : Inst) : Nat := s.step.foldl (fun n e => n + e.count) 0

/-- Decode entries in admission order (R191). -/
def Dev.composeDecode (d : Dev) (i : Nat) : Dev :=
  (d.inst i).admitted.foldl (fun d k =>
    let r := d.req k
    if r.admitted = false ∨ r.ended ∨ r.pos < r.effLen ∨ d.heldCust r.customer ∨ d.outStopped r then d
    else d.addEntry i k 2 (d.draftLen r) (1 + d.draftLen r)) d

/-- Prefill chunks in admission order until a count of 0. -/
def Dev.composePrefill (i : Nat) : List Nat → Dev → Dev
  | [], d => d
  | k :: ks, d =>
    let s := d.inst i
    let r := d.req k
    if r.admitted = false ∨ r.ended ∨ r.effLen ≤ r.pos ∨ d.heldCust r.customer ∨ d.outStopped r then Dev.composePrefill i ks d
    else
      let rem := r.effLen - r.pos
      let c := min s.chunk (min rem (s.budget - s.tokens))
      let c := if c < rem then c / 16 * 16 else c
      if c = 0 then d
      else Dev.composePrefill i ks (d.addEntry i k (if c = rem then 1 else 0) 0 c)

/-- Write the plan header (R192): the counts of the plan as it was written. -/
def Dev.planHeader (d : Dev) (i pass : Nat) : Dev :=
  let s := d.inst i
  d.storeAs s.part s.plan (toLE 4 s.stepNo ++ toLE 2 s.planN ++ toLE 2 s.planTok ++ toLE 1 i ++
    toLE 1 pass ++ toLE 6 0 ++ toLE 8 d.time.now ++ toLE 40 0)

/-- Write a plan entry, the block table it names and its input tokens. -/
def Dev.planWrite (d : Dev) (i : Nat) (e : PlanEntry) : Dev :=
  let s := d.inst i
  let r := d.req e.req
  let d := d.writeTable i r.aslot r.kv
  let inPrompt := decide (e.kind ≠ 2) && decide (e.pos + e.count ≤ r.plen)
  let toks := if inPrompt then r.prompt + 4 * e.pos else tokAddr i r.aslot
  let d := if inPrompt then d
    else d.storeAs s.part toks ((List.range (if e.kind = 2 then 1 else e.count)).flatMap fun j =>
      toLE 4 (d.seqTok r (e.pos + j)))
  d.storeAs s.part (s.planEntry e.idx) (toLE 8 (r.aslot + e.kind * 2 ^ 10 + e.draft * 2 ^ 12 +
    e.count * 2 ^ 16 + e.pos * 2 ^ 32) ++ toLE 8 toks ++ toLE 8 (s.table r.aslot) ++ toLE 8 r.rec_)

/-- Number the entries of the step and write them. -/
def Dev.planAll (d : Dev) (i : Nat) : Dev :=
  let d := d.modInst i fun s => { s with
    step := s.step.zipIdx.map fun e => { e.1 with idx := e.2 }, planN := s.step.length, planTok := s.tokens }
  (d.inst i).step.foldl (fun d e => d.planWrite i e) d

/-- Start a pass as STEP_TASKS tasks of STEP_CTX, each in its tile (R192, R217); a context that is being disabled, or
is FREE, stops no step. DEDUCED (log 44). -/
def Dev.startPass (d : Dev) (i pass : Nat) : Dev :=
  let d := d.planHeader i pass
  let d := d.modInst i fun s => { s with pass := pass, steps := if pass = 0 then s.steps else (s.steps + 1) % 2 ^ 32 }
  let s := d.inst i
  let x := d.ctx s.ctx
  let tiles := tilesOf s.tiles
  ((List.range s.tasks).foldl (fun d n =>
    let k := waitKey + d.qm.nextOrder
    let d := d.setOp k {
      used := true, kind := .task, ctx := s.ctx, part := x.part, slot := 0xFFFF, cls := x.cls ||| 8
      entry := if pass = 0 then s.draftEntry else s.entry, arg0 := BitVec.ofNat 64 s.plan
      arg1 := BitVec.ofNat 64 n, arg2 := BitVec.ofNat 64 s.tasks
      tiles := 2 ^ (tiles.getD (n % tiles.length) 0), order := d.qm.nextOrder, annW := d.wb }
    let d := { d with qm := { d.qm with nextOrder := d.qm.nextOrder + 1, dispatch := d.qm.dispatch ++ [k] } }
    d.modInst i fun s => { s with running := s.running ++ [k] }) d).cqHold

/-- Steps 3 to 5 of R190: take in requests, compose, write the plan, start the first pass. -/
def Dev.nextStep (d : Dev) (i : Nat) : Dev :=
  let d := d.modInst i fun s => { s with step := [], statuses := [], repeated := true }
  if (d.inst i).state = 3 then d
  else
    let d := Dev.admitReqs i (d.inst i).waiting d
    let held := ((d.inst i).admitted.filter fun k => d.heldCust (d.req k).customer).length
    let d := d.modInst i fun s => { s with hold := satAdd 0xFFFFFFFF s.hold held }
    let d := d.composeDecode i
    let d := Dev.composePrefill i (d.inst i).admitted d
    let s := d.inst i
    if s.step = [] then d
    else
      let d := d.modInst i fun s => { s with
        stepNo := (s.stepNo + 1) % 2 ^ 32, charges := s.step.map fun e => ((d.req e.req).customer, e.count) }
      (d.planAll i).startPass i (if s.step.any fun e => e.draft ≠ 0 then 0 else 1)

/-! ## The boundary -/

/-- Whether a status counts as POISONED for the step (R193, R218). -/
def stepPoison (st : Nat) : Bool := !outputValid st && st != stMemory && st != stQuarantined

/-- Complete requests of an instance. -/
def Dev.endReqs (d : Dev) (ks : List Nat) (st : Nat) : Dev := ks.foldl (fun d k => d.endReq k st) d

/-- The requests of the step that ended share in whether it was repeated and compared, also where it failed
(R193). -/
def Dev.stepRep (d : Dev) (i : Nat) : Dev :=
  let s := d.inst i
  s.step.foldl (fun (d : Dev) e => d.modReq e.req fun r => { r with allRep := r.allRep && s.repeated }) d

/-- Every request whose block table holds a KV block that returned an uncorrectable error completes as
MEMORY_UNCORRECTABLE (R193, R198): of the step, held or waiting. DEDUCED (log 44). -/
def Dev.memEnds (d : Dev) (i : Nat) : Dev :=
  let s := d.inst i
  let ks := (s.admitted ++ s.waiting).filter fun k => (d.req k).kv.any s.badKv.contains
  (d.endReqs ks stMemory).modInst i fun s => { s with badKv := [] }

/-- Charge the step's entries to their customers (R199). -/
def Dev.chargeStep (d : Dev) (i : Nat) : Dev :=
  let d := (d.inst i).charges.foldl (fun d c => d.charge c.1 c.2) d
  d.modInst i fun s => { s with charges := [] }

/-- The outcome of the step just ended (R193); true when its main pass runs again. DEDUCED (log 44). -/
def Dev.outcome (d : Dev) (i : Nat) : Dev × Bool :=
  let s := d.inst i
  let d := d.stepRep i
  let sts := s.statuses.map (·.2)
  if sts.contains stQuarantined then
    let d := d.endReqs (s.step.map (·.req)) stQuarantined
    let d := d.modInst i fun s => { s with state := 3 }
    (d.endReqs ((d.inst i).admitted ++ (d.inst i).waiting) stAborted, false)
  else
    let d := d.memEnds i
    let s' := d.inst i
    if sts.contains stMemory ∨ sts.any stepPoison = true then
      if s'.step = [] then (d, false)
      else if s.pass = 2 then
        let d := d.event 2 0xA053 4 0x30 [i, s.stepNo, s'.step.length]
        (d.endReqs (s'.step.map (·.req)) stPoisoned, false)
      else
        let first := ((s.statuses.find? fun x => !outputValid x.2).map (·.1)).getD 0
        let d := d.event 2 0xA052 4 0x30 [i, s.stepNo, first]
        let d := d.modInst i fun s => { s with
          retry := satAdd 0xFFFFFFFF s.retry 1, statuses := [], repeated := true }
        let d := if s'.step = s.step then d else d.planAll i
        (d.startPass i 2, true)
    else
      (s'.step.foldl (fun d e => d.applyEntry i (sts.contains stUnchecked) e) d, false)

/-- What happens when no task of instance `i` runs: after a draft pass the main pass; else the boundary
of R190. DEDUCED (log 44). -/
def Dev.boundary (d : Dev) (i : Nat) : Dev :=
  let s := d.inst i
  if s.step ≠ [] ∧ s.pass = 0 then d.startPass i 1
  else
    let (d, again) := if s.statuses = [] then (d.memEnds i, false) else d.outcome i
    if again then d
    else (((d.chargeStep i).cancels i).nextStep i).disCheck

/-- STEP_BOUNDARY: all tasks of the pass have ended. -/
def execStepBoundary (i : Fin 8) (s : State) : Res :=
  onDevIf (fun d => d.live && ((d.inst i).state == 1 || (d.inst i).state == 2) && (d.inst i).running == [])
    (fun d => d.boundary i) s

end Sys2Proof.Machine
end

