-- ==== Sys2Proof/Machine/Redundancy.lean ====
section
/-! DEFINITION. Comparison of a repeat, third-pass arbitration, strikes and the end of a debug session
(R283 to R307). -/

namespace Sys2Proof.Machine

/-- Note an outcome in RX_LAST_n. -/
def Dev.rxOutcome (d : Dev) (b code : Nat) : Dev := d.setFld (R.rxLast b) 18 3 code

/-! ## Choosing an arbitration engine (R295, R296) -/

/-- The logical block that the schedule summary reserves for a partition in a tile. -/
def Dev.arbReserved (d : Dev) (part t : Nat) : Option Nat :=
  ((d.chip.image.map (·.schedule.arbBlocks)).getD []).findSome? fun a =>
    if a.1 = part ∧ a.2.1 = t then some (d.phys t a.2.2) else none

/-- Whether a standby spare is eligible under R32: no retirement of it is asked for and no moult has taken it, and it
is also powered and under no self-test at that moment. DESIGN CHOICE (log 99). -/
def Dev.spareOk (d : Dev) (b : Nat) : Bool :=
  let k := d.blk b
  k.svc == .standby && k.tested && k.arbFor.isNone && k.powered && k.selftest.isNone &&
    !d.retire.any (·.1 == b) && !d.opened b

/-- Whether a block of the dynamic pool may run a third pass of `ns` nanoseconds. -/
def Dev.poolArb (d : Dev) (b ns : Nat) : Bool :=
  d.inPool b && (d.blk b).threads.all (fun e => e.2.op.isNone) && (d.blk b).eng == [] &&
    (match d.nextSlot b with
      | some n => decide (d.time.now + ns < (d.wb + n) * wingbeatNs)
      | none => true)

/-- The arbitration engine that R295 chooses now for an operation of engine `b`. DEDUCED (log 58). -/
def Dev.arbPick (d : Dev) (b : Nat) (e : EngOp) : Option Nat :=
  let t := tileOf b
  if d.fraction e.part = 5 then
    (d.arbReserved e.part t).filter fun a =>
      decide (a ≠ b) && (d.blk a).arbFor.isNone && (d.blk a).svc != .retired
  else
    let spares := (tileBlocks t).filter d.spareOk
    match spares with
    | a :: _ => some a
    | [] => (tileBlocks t).find? fun a => decide (a ≠ b) && d.poolArb a (descOf e.words).arbNs

/-- End a mismatched operation as POISONED for want of time or of an engine (R296). -/
def Dev.arbFail (d : Dev) (b : Nat) (e : EngOp) (reason : Nat) : Dev :=
  let left := match e.deadline with
    | some w => w - d.wb
    | none => 0xFFFF
  let d := ((d.rxOutcome b reason).bump (R.rxArbFail b)).evBlk 2 0x7003 b [e.token, reason, left] e.part e.ctx
  d.report b e stPoisoned false

/-- Whether an arbitration that starts now ends before the operation's deadline edge. -/
def Dev.arbInTime (d : Dev) (e : EngOp) : Bool :=
  match e.deadline with
  | some w => decide (d.time.now + (descOf e.words).arbNs < w * wingbeatNs)
  | none => true

/-- Choose an engine and ask for the copy-in, wait for an engine, or give up (R296, R297). DEDUCED (log 58). -/
def Dev.arbStart (d : Dev) (b : Nat) (e : EngOp) : Dev :=
  if d.arbInTime e = false then d.arbFail b e 4
  else match d.arbPick b e with
    | some a =>
      let d := d.modBlk a fun k => { k with arbFor := some (b, e.token), arbBad := false, part := some e.part }
      let d := d.modEng b e fun x => { x with stage := .copyIn, arb := some a }
      d.modTile (tileOf b) fun t => { t with copies := t.copies ++ [(b, e.token, false)] }
    | none =>
      if e.deadline.isSome then d.arbFail b e 5
      else if e.stage = .arbWait then d
      else d.modEng b e fun x => { x with stage := .arbWait, arbFrame := d.wb }

/-- Operations of any engine that wait for an arbitration engine try again. DEDUCED (log 58). -/
def Dev.arbRetry (d : Dev) : Dev :=
  (d.blocks.flatMap fun k => (k.2.eng.filter (·.stage == .arbWait)).map fun e => (k.1, e)).foldl
    (fun d e => d.arbStart e.1 e.2) d

/-! ## REPEAT_COMPARE -/

/-- The operation of an engine whose repeat has ended. -/
def Dev.repeated (d : Dev) (b : Nat) : Option EngOp := (d.blk b).eng.find? fun e => e.stage = .repeated

/-- REPEAT_COMPARE: the entries of the operation's half that differ, those in which the computed passes differ and
those a fault of the hardware changed, or an entry the signature buffer lost (R291, R292, R295). DEDUCED (log 57). -/
def execRepeatCompare (b : Fin 144) (differ : List (Fin 8192)) (uncorrectable : Option (Fin 8192))
    (s : State) : Res :=
  onDev (fun d => match d.repeated b with
    | none => d
    | some e =>
      match uncorrectable with
      | some x => (d.evBlk 2 0x7006 b [e.token, x.val] e.part e.ctx).report b e stPoisoned false
      | none =>
        let xs := (e.repDiff ++ (differ.map (·.val)).filter fun x => x / 4096 == e.half).eraseDups
        match xs.min? with
        | none => (d.bump (R.rxCompared b)).report b e (d.ownStatus b e) true
        | some lo =>
          let d := (d.bump (R.rxMismatch b)).setReg (R.rxLast b) (e.rot + lo * 32)
          let d := d.modEng b e fun x => { x with differ := xs }
          d.arbStart b { e with differ := xs }) s

/-- ARBITRATION_WAIT_EXPIRY: one control frame without an arbitration engine. -/
def execArbitrationWaitExpiry (b : Fin 144) (s : State) : Res :=
  onDev (fun d => match (d.blk b).eng.find? fun e => e.stage = .arbWait ∧ e.arbFrame + d.lc ≤ d.wb with
    | some e => d.arbFail b e 5
    | none => d) s

/-! ## Third pass -/

/-- The first transfer of a tile's copy path with its operation. -/
def Dev.copyHead (d : Dev) (t : Nat) (back : Bool) : Option (Nat × EngOp × Nat) :=
  match (d.tile t).copies with
  | (b, tok, dir) :: _ =>
    if dir = back then
      ((d.blk b).eng.find? fun e => e.token = tok ∧ e.stage = (if back then .copyBack else .copyIn)).bind fun e =>
        e.arb.map fun a => (b, e, a)
    else none
  | [] => none

/-- Take the first transfer off a tile's copy path. -/
def Dev.copyPop (d : Dev) (t : Nat) : Dev := d.modTile t fun x => { x with copies := x.copies.tail }

/-- Move a range of one block's scratchpad to the same offset of another's, with its poison. -/
def Dev.moveRange (d : Dev) (src dst off n : Nat) : Dev :=
  let bad := (granules (blockBase src + off) n).map fun g =>
    (g - granule (blockBase src) + granule (blockBase dst), d.poisoned (g * 64))
  let d := d.wr (blockBase dst + off) (d.rdBytes (blockBase src + off) n)
  bad.foldl (fun d g => d.setPoison g.1 g.2) d

/-- COPY_IN_DONE: the third pass starts on the arbitration engine. DEDUCED (log 58). -/
def execCopyInDone (t : Fin 4) (s : State) : Res :=
  onDev (fun d => match d.copyHead t false with
    | none => d
    | some (b, e, a) =>
      let c := descOf e.words
      let ins := (c.inputs.filter fun r => !(c.produces r.1 && r.1 != .out) && !(c.accLoad && r.1 == .acc)).map (·.2)
      let pre := (d.preRange b e.half c).toList
      let d := (ins ++ pre).foldl (fun d r => d.moveRange b a r.1 r.2) (d.copyPop t)
      (d.bump (R.rxArb b)).modEng b e fun x => { x with stage := .third }) s

/-- The vote ends without a majority (R298). DEDUCED (log 58). -/
def Dev.arbNeither (d : Dev) (b : Nat) (e : EngOp) : Dev :=
  let d := ((d.rxOutcome b 3).bump (R.rxArbFail b)).evBlk 2 0x7002 b
    [e.token, e.rot, (e.arb.getD 0) % 36] e.part e.ctx
  (d.report b e stPoisoned false).strike b

/-- Detail of event 0x7001. -/
def EngOp.vote (e : EngOp) (minority : Nat) : List Nat :=
  [e.token, e.rot, e.differ.length, minority, (e.arb.getD 0) % 36]

/-- Which passes a third pass agrees with (R298). -/
inductive Vote | first | repeatPass | neither
  deriving DecidableEq, Repr

/-- The vote of the three sets of signatures, entry by entry (R298): `differ` the entries in which first pass and
repeat differ, `f` and `r` those in which the third pass differs from the first and from the repeat. In an entry in
which the first two agree, the third differs from both or from none; in another it differs from one at least. -/
def vote (differ f r : List Nat) : Vote :=
  let notF := f ++ r.filter fun x => !differ.contains x
  let notR := r ++ (f.filter fun x => !differ.contains x) ++ differ.filter fun x => !f.contains x
  if notF = [] then .first else if notR = [] then .repeatPass else .neither

/-- The vote on an operation of engine `b` whose third pass has run on engine `a`: the three passes' signatures as
computed, and the entries in which a fault of the hardware made the third differ (R297, R298). DEDUCED (log 57). -/
def Dev.voteOf (d : Dev) (b a : Nat) (e : EngOp) (v : ThirdSigs) : Vote :=
  let third := d.passSigs b a e
  let in_ (l : List (Fin 8192)) := (l.map (·.val)).filter fun x => x / 4096 == e.half
  vote e.differ (sigDiff e.half (d.blk b).sigs third ++ in_ v.first)
    (sigDiff e.half (d.passSigs b b { e with stage := .repeating }) third ++ in_ v.rep)

/-- Whether a third pass on engine `a` ends POISONED, or its engine has been retired (R88, R298, R299). -/
def Dev.thirdBad (d : Dev) (b a : Nat) (e : EngOp) : Bool :=
  let k := d.blk a
  k.arbBad || k.svc == .retired || (k.chkFault && decide (d.fraction e.part = 5)) || d.readsPoison b a e false

/-- ARBITRATION_OUTCOME: the third pass of an operation of engine `b` has ended; its outputs stand on the arbitration
engine, unless it ended before its end (R283, R297). DEDUCED (log 57). -/
def execArbitrationOutcome (b : Fin 144) (v : ThirdSigs) (poisoned : Bool) (s : State) : Res :=
  onDev (fun d => match (d.blk b).eng.find? fun e => e.stage = .third with
    | none => d
    | some e =>
      let a := e.arb.getD 0
      let k := d.blk a
      if k.beats ≠ [] then d
      else
        let e := { e with unchecked := e.unchecked || k.chkFault }
        let d := d.modEng b e fun _ => e
        let bad := poisoned || d.thirdBad b a e
        let result := if bad then .neither else d.voteOf b a e v
        let r := d.opBeats b a e
        let d := if bad then d.cutBeats b e else d.writeBeats (blockBase a) (descOf e.words) r.1
        match result with
        | .neither => (d.arbNeither b e).arbRetry
        | .first =>
          let d := (d.rxOutcome b 2).evBlk 1 0x7001 b (e.vote 2) e.part e.ctx
          ((d.report b e (d.ownStatus b e) true).strike b).arbRetry
        | .repeatPass =>
          let d := (d.rxOutcome b 1).strike b
          let d := d.modEng b e fun x => { x with stage := .copyBack, sat := r.2.1, nan := r.2.2 }
          d.modTile (tileOf b) fun t => { t with copies := t.copies ++ [(b.val, e.token, true)] }) s

/-- COPY_BACK_DONE: the third pass's producer regions stand over the first pass's. DEDUCED (log 58). -/
def execCopyBackDone (t : Fin 4) (s : State) : Res :=
  onDev (fun d => match d.copyHead t true with
    | none => d
    | some (b, e, a) =>
      let c := descOf e.words
      let outs := (c.regions.filter fun r => c.produces r.1).map (·.2)
      let d := outs.foldl (fun d r => d.moveRange a b r.1 r.2) (d.copyPop t)
      let d := d.evBlk 1 0x7001 b (e.vote 1) e.part e.ctx
      (d.report b e (d.ownStatus b e) true).arbRetry) s

/-! ## Strikes and debug sessions -/

/-- STRIKE_EXPIRY: strikes older than 1,000 powered hours expire (R300). DEDUCED (log 59). -/
def execStrikeExpiry (b : Fin 144) (s : State) : Res :=
  onDev (fun d => d.modBlk b fun k => { k with strikes := k.strikes.filter fun h => decide (d.chip.hours - h ≤ 1000) }) s

/-- DEBUG_SESSION_DETACH: the repeat resumes at the next control-frame tick (R305). DEDUCED (log 59). -/
def execDebugSessionDetach (s : State) : Res :=
  onDevIf (fun d => d.sec.dbgOpen && !d.sec.dbgParts.isEmpty)
    (fun d =>
      let d := d.sec.dbgParts.foldl (fun d p => d.modPart p fun x => { x with resume := x.debug }) d
      { d with sec := { d.sec with dbgParts := [] } }) s

end Sys2Proof.Machine
end

