-- ==== Sys2Proof/Machine/Moult.lean ====
section
/-! DEFINITION. Retirement and moulting of blocks, and the repair record (R30 to R35, R299, R469). -/

namespace Sys2Proof.Machine

/-! ## Ending what runs on a block -/

/-- Whether an operation of an engine runs on although its block is retired: that of an engine retired for a latent
checker fault, until the moult takes effect (R89). DEDUCED (log 20). -/
def Dev.runsOn (d : Dev) (b : Nat) (e : EngOp) : Bool := d.lame b && !e.dead

/-- A static thread that waits for a tag: its next item is due when a WAKE word comes (R33, R470). -/
def Thread.due (h : Thread) : Bool :=
  h.static.isSome && h.op.isNone && (match h.wait with
    | .tag _ _ _ => true
    | _ => false)

/-- Residue handling in progress on a block that a higher level takes over is abandoned with its records, which come
before those of the higher level (R18); the pass of an operation that runs on keeps its handling. -/
def Dev.stopHandling (d : Dev) (b : Nat) : Dev :=
  if ((d.current b).map fun e => d.runsOn b e.2).getD false then d else d.dropBeats b

/-- End everything on a block: static items with one status, dynamic operations with another (R33,
R299, R347); a third pass for another block's operation ends its vote as "neither" (R299). Residue handling in
progress is abandoned with its record (R18). Until the block is power-gated its static threads that wait for a tag are
known, since the items of WAKE words that still come for them are due on it (R33). DEDUCED (log 13). -/
def Dev.killBlock (d : Dev) (b stStatic stDyn : Nat) : Dev :=
  let stay := ((d.blk b).eng.filter fun e => e.src == .launch && d.runsOn b e).map (·.token)
  let lame := d.lame b
  let d := d.stopHandling b
  let ks := (d.ops.filter fun e =>
    e.2.used && e.2.block == some b && e.2.status.isNone && !(stay.contains e.1)).map (·.1)
  let d := match (d.blk b).arbFor with
    | some (h, tok) => match (d.blk h).eng.find? fun (e : EngOp) => e.token = tok ∧ e.arb = some b with
      | some e => d.arbNeither h e
      | none => d
    | none => d
  let d := ks.foldl (fun d k => if (d.op k).static then d.settle k stStatic
    else if lame then d.endOp k stDyn false else d.finish k stDyn) d
  let d := (d.killEng b fun e => !d.runsOn b e).unwait fun w => w.1 == b
  d.modBlk b fun q => { q with
    threads := if q.powered then q.threads.filter fun h => h.2.due else [], pools := [], waiters := [], posted := []
    preempt := none }

/-! ## Planning a moult -/

/-- Whether a logical block carries a static assignment: a slot or an action of a launch word, a static
thread, or a reserved third pass. -/
def Dev.carriesStatic (d : Dev) (t l : Nat) : Bool :=
  d.launchWords.any (fun w => w.names t l && (w.action == 2 || w.action == 3 || w.action == 6)) ||
    d.ctxs.any (fun c => c.2.static && c.2.threads.any fun h => h.tile == t && h.lblock == l) ||
    ((d.chip.image.map (·.schedule.arbBlocks)).getD []).any fun a => a.2.1 == t && a.2.2 == l

/-- The donor of a tile (R34): its lowest-numbered physical block with dynamic-pool time alone. DEDUCED (log 13). -/
def Dev.donorOf (d : Dev) (t : Nat) : Option Nat :=
  (tileBlocks t).find? fun b =>
    let k := d.blk b
    k.svc == .inService && !k.donor && k.slotPart.isNone && (match d.logical b with
      | some l => !d.carriesStatic t l && !((d.tile t).outLb.contains l)
      | none => false)

/-- Change the moult of a retired block. -/
def Dev.modMoult (d : Dev) (b : Nat) (f : Moult → Moult) : Dev :=
  d.modTile (tileOf b) fun t => { t with moults := mapIf (fun m => m.retired == b) f t.moults }

/-- The moult of a retired block. -/
def Dev.moultOf (d : Dev) (b : Nat) : Option Moult := (d.tile (tileOf b)).moults.find? (·.retired = b)

/-- Eligible spares of a tile that no scheduled moult has taken or will take. -/
def Dev.sparesFree (d : Dev) (t : Nat) : Nat :=
  ((tileBlocks t).filter d.spareOk).length -
    ((d.tile t).moults.filter fun m => m.at_.isSome && m.spare.isNone && m.donor.isNone).length

/-- Whether a tested spare of the tile runs an arbitration (R32). -/
def Dev.spareBusy (d : Dev) (t : Nat) : Bool :=
  (tileBlocks t).any fun b => (d.blk b).svc == .standby && (d.blk b).tested && (d.blk b).arbFor.isSome

/-- A block becomes a donor: admission stops, and its work of queues in abort mode is aborted. -/
def Dev.makeDonor (d : Dev) (b x : Nat) : Dev :=
  let d := (d.modBlk x fun k => { k with donor := true, takesWork := false }).modMoult b fun m =>
    { m with donor := some x, limit := d.nextFrame }
  let ks := (d.ops.filter fun e => e.2.used && e.2.block == some x && !e.2.static && e.2.status.isNone &&
    decide (e.2.queue < 262144) && d.qMode e.2.queue).map (·.1)
  ks.foldl (fun d k => d.finish k stAborted) d

/-- A retired block is power-gated and isolated (R28). -/
def Dev.gate (d : Dev) (b : Nat) : Dev :=
  (d.modBlk b fun k => { k with powered := false, part := none, slotPart := none }).killBlock b stPoisoned stAborted

/-- Give a moult without B its B, its donor, or leave it waiting; without any block for it the safe
state is requested (R32 to R34). DEDUCED (log 13). -/
def Dev.planMoult (d : Dev) (b : Nat) : Dev :=
  let t := tileOf b
  match d.moultOf b with
  | none => d
  | some m =>
    if m.at_.isSome ∨ m.donor.isSome then d
    else if 0 < d.sparesFree t then d.modMoult b fun m => { m with at_ := some d.nextFrame }
    else if d.spareBusy t then d
    else match d.donorOf t with
      | some x => d.makeDonor b x
      | none =>
        let d := d.modTile t fun s => { s with moults := s.moults.filter fun m => m.retired != b }
        (d.event 4 0x1073 t 0xFF [b % 36]).gate b

/-- Moults that wait for an arbitration to end look again (R32). -/
def Dev.moultWait (d : Dev) : Dev :=
  (d.tiles.flatMap fun t => t.2.moults.map (·.retired)).foldl Dev.planMoult d

/-! ## The commands -/

/-- Step 1 and 2 of R33 for a block whose retirement has been asked for. DEDUCED (log 13). -/
def Dev.retireBlock (d : Dev) (b cause : Nat) : Dev :=
  let t := tileOf b
  let d := { d with retire := d.retire.filter fun r => r.1 != b }
  let serving := (d.blk b).svc == .inService
  let l := d.logical b
  let pend := (d.tile t).moults.find? fun m => m.spare = some b ∨ m.donor = some b
  let d := d.modBlk b fun k => { k with svc := .retired, takesWork := false, donor := false }
  let again (m : Moult) : Moult := { m with spare := none, donor := none, at_ := none }
  let d := d.modTile t fun s => { s with
    moults := s.moults.map fun m => if m.spare = some b ∨ m.donor = some b then again m else m }
  let moves : Bool := serving && l.isSome && !((d.tile t).outLb.contains (l.getD 0))
  let d : Dev := if moves = true then
      d.modTile t fun s => { s with moults := s.moults ++ [{ retired := b, lblock := l, at_ := none }] }
    else d
  let early : Nat := if moves = true ∧ 0 < d.sparesFree t then (d.nextFrame / d.lc) % 65536 else 0xFFFF
  let d := (d.stopHandling b).evBlk 0 0x1071 b [cause, early]
  let d := d.killBlock b stPoisoned stAborted
  let d := if moves = true then d.planMoult b else d.gate b
  match pend with
  | some m => d.planMoult m.retired
  | none => d

/-- MOULT_DECISION: a block whose retirement was asked for is retired. -/
def execMoultDecision (b : Fin 144) (s : State) : Res :=
  onDev (fun d => match d.retire.find? fun r => r.1 = b.val with
    | some r => d.retireBlock b r.2
    | none => d) s

/-- MOULT_REMAP: step 3 of R33, in the wingbeat before B. DEDUCED (log 13). -/
def execMoultRemap (b : Fin 144) (s : State) : Res :=
  onDev (fun d => match d.moultOf b with
    | none => d
    | some m => match m.at_, m.lblock, m.spare with
      | some w, some l, none =>
        if d.wb + 1 < w then d
        else
          let t := tileOf b
          match m.donor.orElse fun _ => (tileBlocks t).find? fun x => d.spareOk x with
          | none => (d.modMoult b fun m => { m with at_ := none }).planMoult b
          | some x =>
            let given := d.logical x
            let d := d.modTile t fun s => { s with map := tset (fun k => k) s.map l (x % 36) }
            let d := match m.donor, given with
              | some _, some g => d.modTile t fun s => { s with
                  map := tset (fun k => k) s.map g (b.val % 36), outLb := s.outLb ++ [g] }
              | _, _ => d
            let slot := (d.blk b).slotPart
            let d := d.setReg (R.rxPreimg x) (d.reg (R.rxPreimg b))
            (d.modBlk x fun k => { k with slotPart := slot, part := slot }).modMoult b fun m => { m with spare := some x }
      | _, _, _ => d) s

/-- Start the static threads of a logical block on the physical block that serves it, with the credit
pools of their contexts open (R121, R470). -/
def Dev.startThreads (d : Dev) (t l : Nat) : Dev :=
  d.ctxs.foldl (fun d c => if c.2.static then
      (c.2.threads.filter fun h => h.tile = t ∧ h.lblock = l).foldl (fun d h =>
        (d.openPools (d.phys t l) c.1).startStatic (d.phys t l) (8 * h.core + h.thread) c.1) d
    else d) d

/-- MOULT_EFFECT: step 4 of R33, at B. -/
def execMoultEffect (b : Fin 144) (s : State) : Res :=
  onDev (fun d => match d.moultOf b with
    | none => d
    | some m => match m.at_, m.lblock, m.spare with
      | some w, some l, some x =>
        if d.wb < w then d
        else
          let t := tileOf b
          let was := (d.blk x).svc == .standby
          let d := d.modBlk x fun k => { k with svc := .inService, donor := false, takesWork := true }
          let d := d.gate b
          let new := l :: ((d.tile t).outLb.filter fun g => d.phys t g == b.val)
          let d := d.modTile t fun s => { s with
            moults := s.moults.filter fun m => m.retired != b.val
            moved := s.moved.filter (fun g => !new.contains g) ++ new }
          let d := d.evBlk 0 0x1072 x [l, b.val % 36, x % 36]
          let d := d.startThreads t l
          if was && (tileBlocks t).all (fun k => (d.blk k).svc != .standby) then
            d.event 5 0x1070 t 0xFF [t, x % 36]
          else d
      | _, _, _ => d) s

/-- DONOR_EMPTIED: the donor holds nothing; its moult takes effect at the first boundary after this (R34). -/
def execDonorEmptied (b : Fin 144) (s : State) : Res :=
  onDevIf (fun d => (d.blk b).donor && (d.blk b).eng == [] && (d.blk b).threads.all (fun e => e.2.op.isNone))
    (fun d =>
      let w := roundUp (d.wb + 1) d.lc
      let due (m : Moult) : Moult := if m.donor = some b.val ∧ m.at_ = none then { m with at_ := some w } else m
      d.modTile (tileOf b) fun s => { s with moults := s.moults.map due }) s

/-! ## The repair record -/

/-- The repair record as the device's state now gives it (R31, R128, R131, R300, R348, R373, R391, R395 to
R398, R406): hours with the blocks they count against, and units out of service. -/
def Dev.record_ (d : Dev) : Repair :=
  { blocks := allBlocks.filter fun b => (d.blk b).svc = .retired
    moved := d.tiles.flatMap fun t => t.2.moved.map fun l => (t.1, l, d.phys t.1 l % 36)
    outLb := d.tiles.flatMap fun t => t.2.outLb.map fun l => (t.1, l)
    arrEp := d.blocks.flatMap fun k => k.2.arrEp.map fun e => (k.1, e.1, e.2)
    rows := d.blocks.flatMap fun k => k.2.rows.map fun r => (k.1, r)
    strikes := d.blocks.flatMap fun k => k.2.strikes.map fun h => (k.1, h)
    hangs := d.blocks.flatMap fun k => k.2.hangs.map fun h => (k.1, h)
    ranks := d.dram.ranks.map fun r => (r.1, r.2.state)
    safety := d.dram.safety, general := d.dram.general, resv := some d.dram.resv
    mig := d.dram.mig.map fun m => (m.source, m.cause)
    pages := d.dram.chans.flatMap fun c => c.2.marked.map fun p => (c.1, p)
    phases := d.pwr.isolated
    lanes := d.links.mods.flatMap fun m => m.2.repairs.map fun r => (m.1, r.1, r.2)
    laneOut := d.links.mods.flatMap fun m => m.2.retired.map fun r => (m.1, r)
    redUsed := d.links.mods.flatMap fun m => m.2.redUsed.map fun r => (m.1, r)
    opt := (d.links.lanes.filter fun l => l.2.state = 2).map (·.1)
    optKept := (d.links.lanes.filter fun l => l.2.kept).map (·.1)
    optServe := d.links.lanes.filterMap fun l => l.2.serves.map fun x => (l.1, x)
    optLaser := (d.links.lanes.filter fun l => l.2.spareLaser).map (·.1)
    optEol := (d.links.lanes.filter fun l => l.2.eol).map (·.1)
    lasers := d.links.lasers }

/-- REPAIR_RECORD_WRITE: within one epoch of a change (R31). While the compute domain is in reset only
what the floor holds can change: the phases. -/
def execRepairRecordWrite (s : State) : Res :=
  onNv (fun d n =>
    let old := n.store.repair
    if d.chip.computeReset then
      (d, { n with store := { n.store with repairRec := n.store.repairRec.write d.time.now { old with phases := d.pwr.isolated } } })
    else if d.chip.lock = false then (d, n)
    else
      let new := d.record_
      (d, { n with store := { n.store with repairRec := n.store.repairRec.write d.time.now new } })) s

end Sys2Proof.Machine
end

