-- ==== Sys2Proof/Machine/Fusion.lean ====
section
/-! DEFINITION. The fusion front-end (R220 to R253): frames, updates and their input sets, standings,
sector steps, fused outputs, instar, and audio blocks. -/

namespace Sys2Proof

/-- Length of the frame with its FCS. -/
def Avtpdu.frameBytes (p : Avtpdu) : Nat := p.overhead + p.data.length

end Sys2Proof

namespace Sys2Proof.Machine

/-! ## Streams and their registers -/

/-- Stream `n`. -/
def Dev.str (d : Dev) (n : Nat) : Stream := tget (fun _ => {}) d.fus.streams n
/-- Change a stream. -/
def Dev.modStr (d : Dev) (n : Nat) (f : Stream → Stream) : Dev :=
  { d with fus := { d.fus with streams := tmod (fun _ => {}) d.fus.streams n f } }
/-- Change the front-end. -/
def Dev.modFus (d : Dev) (f : Fusion → Fusion) : Dev := { d with fus := f d.fus }

/-- EN. -/
def Dev.strEn (d : Dev) (n : Nat) : Bool := bit (d.reg (R.fuStreamCfg n)) 0
/-- KIND (R223). -/
def Dev.strKind (d : Dev) (n : Nat) : Nat := d.fld (R.fuStreamCfg n) 3 3
/-- FORMAT (R221). -/
def Dev.strFmt (d : Dev) (n : Nat) : Nat := d.fld (R.fuStreamCfg n) 6 4
/-- SLOTS. -/
def Dev.strSlots (d : Dev) (n : Nat) : Nat := d.fld (R.fuStreamCfg n) 10 4
/-- PARTITION. -/
def Dev.strPart (d : Dev) (n : Nat) : Nat := d.fld (R.fuStreamCfg n) 14 6
/-- SECTORS. -/
def Dev.strSect (d : Dev) (n s : Nat) : Bool := bit (d.reg (R.fuStreamSect n)) s
/-- Bytes of a slot. -/
def Dev.slotBytes (d : Dev) (n : Nat) : Nat := d.fld (R.fuStreamSlotb n) 0 16 * 1024
/-- Address of a slot. -/
def Dev.strSlot (d : Dev) (n i : Nat) : Nat := d.fld (R.fuStreamBase n) 0 28 * 4096 + i * d.slotBytes n
/-- Initiator of a stream's ingest path (R178). -/
def Dev.strInit (d : Dev) (n : Nat) : Nat := 724 + d.fld (R.fuStreamCfg n) 1 2
/-- Enabled streams. -/
def Dev.enabled (d : Dev) : List Nat := (List.range 64).filter d.strEn
/-- Whether a kind is triggered (R223). -/
def triggered (kind : Nat) : Bool := kind == 0 || kind == 1 || kind == 4

/-- A write of the front-end for a partition, checked by the firewalls; false where it is refused. -/
def Dev.fuWrite (d : Dev) (init part a : Nat) (bs : List Byte) : Dev × Bool :=
  if bs = [] then (d, true)
  else if d.allowed init part a bs.length true then (d.storeAs part a bs, true)
  else (d.denyN init part a bs.length true, false)

/-- A read of the front-end for a partition, checked by the firewalls; a refused one is recorded and returns zeros
(R181). -/
def Dev.fuRead (d : Dev) (init part a n : Nat) : Dev × List Byte :=
  if n = 0 then (d, [])
  else if d.allowed init part a n false then (d, d.rdBytes a n)
  else (d.denyN init part a n false, List.replicate n 0)

/-! ## Points of an update (R231, R232) -/

/-- tv_k. -/
def Dev.tv (d : Dev) (k : Nat) : Nat :=
  (k * d.lp + d.fld R.fuUpdateCfg 0 10) * wingbeatNs + d.fld R.fuUpdateTvNs 0 17
/-- Wingbeat of the seal of update `k`. -/
def Dev.sealW (d : Dev) (k : Nat) : Nat := k * d.lp + d.fld R.fuUpdateCfg 0 10 + d.fld R.fuUpdateCfg 10 10
/-- Wingbeat of the release deadline of update `k`. -/
def Dev.relW (d : Dev) (k : Nat) : Nat := d.sealW k + d.fld R.fuUpdateCfg 20 10
/-- The update to which an instant belongs. -/
def Dev.updOf (d : Dev) (t : Nat) : Nat := if t ≤ d.tv 0 then 0 else ceilDiv (t - d.tv 0) (d.lp * wingbeatNs)

/-- The 64-bit value nearest to T whose low 32 bits are the timestamp's (R225): none is below 0. -/
def extend (now ts : Nat) : Nat :=
  let mid := now / 2 ^ 32 * 2 ^ 32 + ts
  if now + 2 ^ 31 < mid ∧ 2 ^ 32 ≤ mid then mid - 2 ^ 32 else if mid + 2 ^ 31 < now then mid + 2 ^ 32 else mid

/-! ## Standings (R235) -/

/-- Late updates in a history. -/
def Stream.lates (s : Stream) : Nat := (s.hist.filter id).length

/-- One expected update or audio block enters a stream's history, and its standing follows. DEDUCED (log 49). -/
def Dev.history (d : Dev) (n : Nat) (late missing : Bool) : Dev :=
  let s := d.str n
  let t : Stream := { s with
    hist := (late :: s.hist).take 32, ontime := if late then 0 else min 32 (s.ontime + 1)
    miss := if missing then min 4 (s.miss + 1) else 0 }
  let down := decide (8 ≤ t.lates)
  let out := decide (t.miss = 4)
  let up := decide (t.ontime = 32)
  let new := if out then 2 else if down then min 2 (s.standing + 1) else if up then s.standing - 1 else s.standing
  let d := d.modStr n fun _ => if down || out || up then
    { t with standing := new, hist := [], ontime := 0, miss := 0 } else t
  if new = s.standing then d
  else d.event (if s.standing < new then 5 else 0) 0x5001 4 0x15 [n, s.standing, new, t.lates, t.miss]

/-! ## Frames (R226 to R229) -/

/-- The next slot in ring order that no input set protects and no frame that waits for its de-skewing holds. -/
def Dev.takeSlot (d : Dev) (n : Nat) : Option Nat :=
  let s := d.str n
  let m := d.strSlots n
  (List.range m).findSome? fun i =>
    let x := (s.nextSlot + i) % m
    if s.prot.contains x || s.prevProt.contains x || s.ready.any (·.slot == x) then none else some x

/-- Bytes of a frame header (R226). -/
def frameHeader (instant sensor first commit bytes seq flags no : Nat) : List Byte :=
  toLE 8 instant ++ toLE 8 sensor ++ toLE 8 first ++ toLE 8 commit ++ toLE 4 bytes ++ toLE 2 seq ++
    toLE 1 flags ++ toLE 17 0 ++ toLE 4 no ++ toLE 4 0

/-- Commit a whole frame: late or in time by the seal of its update, or dropped after the next seal
(R232, R233). DEDUCED (log 48). -/
def Dev.commitFrame (d : Dev) (n : Nat) (a : Asm) (instant seq : Nat) (gap : Bool) : Dev :=
  let k := d.updOf instant
  if d.sealW (k + 1) * wingbeatNs ≤ d.time.now then d.bump (R.fuStreamDrop n)
  else
    let late := decide (d.sealW k * wingbeatNs ≤ d.time.now)
    let no := ((d.str n).frameNo + 1) % 2 ^ 32
    let (x, d) := match a.sensor with
      | some x => (x, d)
      | none => d.fresh
    let (d, ok) := d.fuWrite (d.strInit n) (d.strPart n) (d.strSlot n a.slot)
      (frameHeader instant x a.first d.time.now a.bytes seq (b2n gap + 2 * b2n late) no)
    if ok = false then (d.bump (R.fuStreamDrop n)).modStr n fun s => { s with misK := true }
    else
      let d := if late then d.bump (R.fuStreamLate n) else d
      let f : Frame := ⟨a.slot, instant, no, d.time.now, late, a.bytes, false⟩
      d.modStr n fun s => { s with frameNo := no, frames := s.frames ++ [f], newest := some f }

/-- The trigger whose exposure instant lies nearest a sensor time. DEDUCED (log 48). -/
def Dev.nearest (d : Dev) (n x : Nat) : Option Trig :=
  minBy? (fun t => t.instant - x + (x - t.instant)) (d.time.exposures.filter (·.stream = n))

/-- The trigger of a frame (R228): the nearest one, if it lies within 20 µs of the sensor time. DEDUCED (log 48). -/
def Dev.trigOf (d : Dev) (n : Nat) (a : Asm) : Option Trig :=
  a.sensor.bind fun x => (d.nearest n x).filter fun t => t.instant - x + (x - t.instant) ≤ 20000

/-- A triggered frame is whole: it is matched to its trigger and commits, or is mistimed (R228). DEDUCED (log 48). -/
def Dev.wholeFrame (d : Dev) (n : Nat) (a : Asm) (gap : Bool) : Dev :=
  match d.trigOf n a with
  | some t => d.commitFrame n a t.instant t.seq gap
  | none => (d.bump (R.fuStreamMistime n)).modStr n fun s => { s with misK := true }

/-- A frame that begins in a slot; slot 255 stands for none. -/
def Asm.new (slot now : Nat) : Asm :=
  { slot := slot, first := now, sensor := none, bytes := 0, bad := decide (slot = 255), got := 0, total := 0 }

/-- A frame begins in the next free slot, or is discarded and counted where none is free (R229). -/
def Dev.openFrame (d : Dev) (n : Nat) : Dev × Asm :=
  match d.takeSlot n with
  | some i => (d.modStr n fun s => { s with nextSlot := (i + 1) % d.strSlots n }, Asm.new i d.time.now)
  | none => (d.bump (R.fuStreamOverrun n), Asm.new 255 d.time.now)

/-- A frame of a triggered stream begins: an incomplete one before it is counted. -/
def Dev.beginFrame (d : Dev) (n : Nat) : Dev × Asm :=
  let d := match (d.str n).asm with
    | some a => if a.slot < 255 then d.bump (R.fuStreamDrop n) else d
    | none => d
  d.openFrame n

/-- Append the data of an AVTPDU to a frame; data that do not fit or are refused spoil it. DEDUCED (log 48). -/
def Dev.appendData (d : Dev) (n : Nat) (a : Asm) (p : Avtpdu) (data : List Byte) : Dev × Asm :=
  let a := { a with
    sensor := if a.sensor.isNone && p.tv then some (extend d.time.now p.timestamp.toNat) else a.sensor
    got := a.got + 1, total := p.total.val }
  if a.bad ∨ 255 ≤ a.slot then (d, { a with bad := true })
  else if d.slotBytes n < 64 + a.bytes + data.length then (d, { a with bad := true })
  else
    let (d, ok) := d.fuWrite (d.strInit n) (d.strPart n) (d.strSlot n a.slot + 64 + a.bytes) data
    (d, { a with bytes := a.bytes + data.length, bad := !ok })

/-- Whether an AVTPDU goes on with the frame that is open: a lidar one of its FRAME_SEQ, another that is no first
one. -/
def Dev.continues (d : Dev) (n : Nat) (p : Avtpdu) (a : Asm) : Bool :=
  if d.strKind n = 1 then a.fseq == p.frameSeq.toNat else !p.first

/-- The bytes of an AVTPDU that belong to its frame: of a lidar AVTPDU, POINTS records (R222). -/
def Dev.frameData (d : Dev) (n : Nat) (p : Avtpdu) : List Byte :=
  if d.strKind n = 1 then p.data.take (16 * p.points.toNat) else p.data

/-- Whether an AVTPDU spoils its frame (R227): a sequence gap within it, a frame that does not begin with a first
unit, a camera AVTPDU that does not begin with the next line, a lidar fragment of another FRAG_COUNT or shorter
than its POINTS. DEDUCED (log 48). -/
def Dev.spoils (d : Dev) (n : Nat) (p : Avtpdu) (a : Asm) (fresh gap : Bool) : Bool :=
  (gap && !fresh) || match d.strKind n with
    | 1 => (!fresh && p.total.val != a.total) || decide (p.data.length < 16 * p.points.toNat)
    | 0 => if fresh then !p.first else p.lineOrFrag.val != a.next
    | _ => fresh && !p.first

/-- Whether a lidar fragment is none that its frame still needs (R222, R227): it is discarded. DEDUCED (log 48). -/
def Asm.surplus (a : Asm) (p : Avtpdu) : Bool :=
  a.frags.contains p.lineOrFrag.val || decide (p.total.val ≤ p.lineOrFrag.val)

/-- An AVTPDU of a camera, lidar or ultrasonic stream (R222, R227); `gap` says that the AVTP sequence showed a gap
before it. DEDUCED (log 48). -/
def Dev.framePdu (d : Dev) (n : Nat) (p : Avtpdu) (gap : Bool) : Dev :=
  let lidar := d.strKind n == 1
  let cur := (d.str n).asm.filter (d.continues n p)
  let (d, a) := match cur with
    | some a => (d, a)
    | none => d.beginFrame n
  let fresh := cur.isNone
  let a := { a with
    fseq := p.frameSeq.toNat, bad := a.bad || d.spoils n p a fresh gap, next := p.lineOrFrag.val + p.total.val }
  let (d, a) := if lidar ∧ a.surplus p = true then (d, a)
    else d.appendData n { a with frags := if lidar then p.lineOrFrag.val :: a.frags else [] } p (d.frameData n p)
  let done := if lidar then decide (0 < a.total ∧ a.total ≤ a.frags.length) else p.lastUnit
  if done = false ∨ a.bad = true then d.modStr n fun s => { s with asm := some a }
  else
    let d := d.modStr n fun s => { s with asm := none }
    if lidar then d.modStr n fun s => { s with ready := s.ready ++ [{ a with whole := true }] }
    else d.wholeFrame n a false

/-- A sample of an inertial stream joins the frame of the window in which its instant lies (R227, R232); one whose
window has closed is late. -/
def Dev.inertialPdu (d : Dev) (n : Nat) (p : Avtpdu) : Dev :=
  let x := extend d.time.now p.timestamp.toNat
  let k := d.updOf x
  if k < d.fus.win then d.bump (R.fuStreamLate n)
  else
    let (d, a) := match (d.str n).wins.find? (·.1 = k) with
      | some a => (d, a.2)
      | none => d.openFrame n
    let (d, a) := d.appendData n a p p.data
    let a := { a with newest := max a.newest x }
    d.modStr n fun s => { s with wins := tput k (some a) s.wins }

/-! ## Audio (R249 to R252) -/

/-- Bytes of a PCM sample of a format. -/
def pcmBytes : Nat → Nat
  | 7 => 2
  | 8 => 3
  | _ => 4

/-- FP32 pattern of a sample: integer PCM is scaled by 2^-(bits - 1) (R251). -/
def pcm32 (fmt v : Nat) : Nat :=
  if fmt = 10 then v
  else let b := 8 * pcmBytes fmt
    enc32 (ofSig false (signed b v) (1 - (b : Int)))

/-- Block and position of sample `i` after a presentation time (R249). DEDUCED (log 52). -/
def audioPlace (t i : Nat) : Nat × Nat :=
  let x := 3 * t + 62500 * i
  let pos := (x % 3000000 * 16 + 500000) / 1000000
  if pos = 48 then (x / 3000000 + 1, 0) else (x / 3000000, pos)

/-- A sample of the open block is written into the block's slot as it arrives (R230). -/
def Dev.audioWrite (d : Dev) (n j pos c v : Nat) : Dev :=
  let off := 64 + 192 * c + 4 * pos
  if d.slotBytes n < off + 4 then d
  else (d.fuWrite (d.strInit n) (d.strPart n) (d.strSlot n (j % max 1 (d.strSlots n)) + off) (toLE 4 v)).1

/-- Put sample `i` of an AVTPDU, a value per channel (R250): of the open block it is written, of a later block
held. DEDUCED (log 49). -/
def Dev.putSample (d : Dev) (n t i : Nat) (vs : List Nat) : Dev :=
  let (j, pos) := audioPlace t i
  let key c := (j * 48 + pos) * 16 + c
  if j < d.fus.lastBlock then
    let age := d.fus.lastBlock - 1 - j
    let d := d.bump (R.fuStreamLate n)
    d.modStr n fun s => { s with
      hist := (s.hist.zipIdx).map fun e => if e.2 = age then true else e.1, ontime := min s.ontime age }
  else if (List.range 16).any fun c => tget (fun _ => 0) (d.str n).audio (key c) != 0 then
    (d.bump (R.fuStreamSlip n)).modStr n fun s => { s with slips := if j ∈ s.slips then s.slips else s.slips ++ [j] }
  else (vs.zipIdx).foldl (fun (d : Dev) e =>
    let d := if j = d.fus.lastBlock then d.audioWrite n j pos e.2 e.1 else d
    d.modStr n fun s => { s with audio := tset (fun _ => 0) s.audio (key e.2) (e.1 + 1) }) d

/-- Note the times of a block by the first AVTPDU that feeds it (R225, R226). -/
def Dev.noteBlock (d : Dev) (n t j : Nat) : Dev :=
  if j < d.fus.lastBlock ∨ (d.str n).wins.any (·.1 == j) = true then d
  else d.modStr n fun s => { s with wins := tput j (some { Asm.new 0 d.time.now with sensor := some t }) s.wins }

/-- An AVTPDU of a microphone array. Without a valid presentation time it names no block; one of more than 16
channels is of no supported format and is discarded (R221). DEDUCED (log 52). -/
def Dev.audioPdu (d : Dev) (n : Nat) (p : Avtpdu) : Dev :=
  if p.tv = false ∨ p.total.val = 0 ∨ 16 < p.total.val then d
  else
    let t := extend d.time.now p.timestamp.toNat
    let sz := pcmBytes (d.strFmt n)
    let count := p.data.length / (sz * p.total.val)
    let v i c := pcm32 (d.strFmt n) (ofLE ((p.data.drop ((i * p.total.val + c) * sz)).take sz))
    let d := d.modStr n fun s => { s with chans := p.total.val }
    (List.range count).foldl (fun (d : Dev) i =>
      (d.noteBlock n t (audioPlace t i).1).putSample n t i ((List.range p.total.val).map (v i))) d

/-- The samples held for a block that becomes the open one are written into its slot (R230). -/
def Dev.writeHeld (d : Dev) (n j : Nat) : Dev :=
  ((d.str n).audio.filter fun e => e.1 / 768 == j).foldl (fun (d : Dev) e =>
    d.audioWrite n j (e.1 / 16 % 48) (e.1 % 16) (e.2 - 1)) d

/-- Close block `j` of one array (R250, R251): its empty positions are zeroed and it commits, or is dropped where it
does not fit its slot (R227); what is held of the next block is written (R230). DEDUCED (log 52). -/
def Dev.closeArray (d : Dev) (n j : Nat) : Dev :=
  let s := d.str n
  let val pos c := tget (fun _ => 0) s.audio ((j * 48 + pos) * 16 + c)
  let empty := (List.range 48).filter fun p => (List.range s.chans).all fun c => val p c == 0
  let d := d.bump (R.fuStreamSlip n) empty.length
  let no := (s.frameNo + 1) % 2 ^ 32
  let (x, y, d) := match s.wins.find? (·.1 = j) with
    | some a => (a.2.sensor.getD 0, a.2.first, d)
    | none => let (u, d) := d.fresh
      let (v, d) := d.fresh
      (u, v, d)
  let slot := j % max 1 (d.strSlots n)
  let body := (List.range s.chans).flatMap fun c => (List.range 48).flatMap fun p => toLE 4 (val p c - 1)
  let flags := b2n (empty != []) + 2 * b2n (s.standing == 2) + 4 * b2n (s.slips.contains j)
  let fits := decide (64 + 192 * s.chans ≤ d.slotBytes n)
  let (d, ok) := if fits then d.fuWrite (d.strInit n) (d.strPart n) (d.strSlot n slot + 64) body
    else (d.bump (R.fuStreamDrop n), false)
  let (d, ok) := if ok then d.fuWrite (d.strInit n) (d.strPart n) (d.strSlot n slot)
    (frameHeader (j * 1000000) x y d.time.now (192 * s.chans) 0 flags no) else (d, false)
  let f : Frame := ⟨slot, j * 1000000, no, d.time.now, false, 192 * s.chans, false⟩
  let d := d.modStr n fun s => { s with
    wins := s.wins.filter fun e => decide (j < e.1), slips := s.slips.filter (· ≠ j), frameNo := if ok then no else s.frameNo
    newest := if ok then some f else s.newest, audio := tdrop 0 ((j + 1) * 768) s.audio }
  let d := d.writeHeld n (j + 1)
  let miss := decide (empty.length = 48)
  d.history n miss miss

/-- AUDIO_BLOCK_CLOSE: at the start of wingbeat 8(j + 1) + 2. -/
def execAudioBlockClose (s : State) : Res :=
  onDevIf (fun d => d.live && d.time.now % wingbeatNs == 0 && d.wb % 8 == 2 && decide (10 ≤ d.wb) &&
      decide (d.fus.lastBlock ≤ d.wb / 8 - 1))
    (fun d =>
      let j := d.wb / 8 - 1
      let d := ((d.enabled.filter fun n => d.strKind n = 2).foldl (fun d n => d.closeArray n j) d)
      d.modFus fun f => { f with lastBlock := j + 1 }) s

/-! ## AVTPDU_RECEIVED -/

/-- Match an AVTPDU to a stream (R224). -/
def Dev.matchPdu (d : Dev) (p : Avtpdu) : Option Nat :=
  d.enabled.find? fun n => d.fld (R.fuStreamCfg n) 1 2 == p.port.val &&
    d.reg (R.fuStreamIdLo n) + d.reg (R.fuStreamIdHi n) * 2 ^ 32 == p.streamId.toNat

/-- The AVTP subtype of a stream format (R221): RVF, VSF, TSCF or AAF. -/
def subtypeOf (fmt : Nat) : Nat := if fmt < 5 then 0x07 else if fmt = 5 then 0x6F else if fmt = 6 then 0x05 else 0x02

/-- A subtype that the device accepts. -/
def supported (subtype : Nat) : Bool := [0x07, 0x6F, 0x05, 0x02].contains subtype

/-- Whether an AVTPDU is of its stream's format: the subtype, and for lidar the vendor EUI (R221, R222).
DEDUCED (log 48). -/
def Dev.ofFormat (d : Dev) (n : Nat) (p : Avtpdu) : Bool :=
  p.subtype.toNat == subtypeOf (d.strFmt n) &&
    (d.strFmt n != 5 || p.eui.toNat == d.reg R.fuVsfEuiLo + d.fld R.fuVsfEuiHi 0 16 * 2 ^ 32)

/-- Count a frame that a sensor port drops (R220). -/
def Dev.dropFrame (d : Dev) (port kind : Nat) : Dev :=
  d.modFus fun f => { f with badFrames := tmod (fun _ => 0) f.badFrames (port * 2 + kind) (· + 1) }

/-- An AVTPDU of stream `n`: a sequence number that is not the next one shows a gap. -/
def Dev.streamPdu (d : Dev) (n : Nat) (p : Avtpdu) : Dev :=
  let gap := match (d.str n).nextSeq with
    | some x => x != p.seqNum.toNat
    | none => false
  let d := d.modStr n fun s => { s with nextSeq := some ((p.seqNum.toNat + 1) % 256) }
  match d.strKind n with
  | 2 => d.audioPdu n p
  | 3 => d.inertialPdu n p
  | _ => d.framePdu n p gap

/-- AVTPDU_RECEIVED: a frame that is too long or whose FCS fails is dropped and counted, one of another EtherType
dropped (R220), an AVTPDU of a subtype not supported, or not of its stream's format, discarded without a count
(R221), and one of no stream counted (R224). DEDUCED (log 48). -/
def execAvtpduReceived (p : Avtpdu) (s : State) : Res :=
  onDevIf (fun d => !d.chip.computeReset && d.links.up.contains (p.port.val + 1))
    (fun d =>
      if 9216 < p.frameBytes then d.dropFrame p.port.val 0
      else if p.fcsBad then d.dropFrame p.port.val 1
      else if p.etherType.toNat ≠ 0x22F0 ∨ supported p.subtype.toNat = false then d
      else match d.matchPdu p with
        | none => d.bump R.fuUnmatched
        | some n => if d.ofFormat n p then d.streamPdu n p else d) s

/-! ## LIDAR_DESKEW_DONE -/

/-- The data of the newest committed frame of an inertial stream that is not EXCLUDED (R237). -/
def Dev.egoMotion (d : Dev) : Dev × Option (List Byte) :=
  let ns := d.enabled.filter fun n => d.strKind n = 3 ∧ (d.str n).standing < 2
  match ns with
  | [] => (d, none)
  | _ =>
    let fs := ns.filterMap fun n => (d.str n).newest.map fun f => (n, f)
    match minBy? (fun e => 2 ^ 64 - e.2.instant) fs with
    | some (n, f) =>
      let (d, bs) := d.fuRead 721 (d.strPart n) (d.strSlot n f.slot + 64) f.bytes
      (d, some bs)
    | none => (d, some [])

/-- Coordinate `axis` of a point in the vehicle frame (R237): the row of the FP32 rotation, taken from left to right,
then the translation. DEDUCED (log 51). -/
def vehicle (ext : List Byte) (pt : List Nat) (axis : Nat) : Nat :=
  let w i := ofLE ((ext.drop (4 * i)).take 4)
  let m i := mul32 (w (3 * axis + i)) (pt.getD i 0)
  add32 (add32 (add32 (m 0) (m 1)) (m 2)) (w (9 + axis))

/-- A point of a lidar frame in its sensor frame: de-skewed to INSTANT, or as it is where de-skew is skipped. -/
def deskewed (ego : Option (List Byte)) (instant : Nat) (p : List Byte) : List Nat :=
  (List.range 3).map fun x => match ego with
    | some e => Config.deskew e instant p x
    | none => ofLE ((p.drop (4 * x)).take 4)

/-- Transform the points of a lidar frame of an INSTANT in its slot. DEDUCED (log 51). -/
def Dev.transform (d : Dev) (n : Nat) (a : Asm) (ego : Option (List Byte)) (instant : Nat) : Dev :=
  let base := d.strSlot n a.slot + 64
  let (d, ext) := d.fuRead 721 (d.initPart 721) (hubBase + d.fld (R.fuStreamExtr n) 0 25) 48
  let (d, src) := d.fuRead 721 (d.strPart n) base (a.bytes / 16 * 16)
  (List.range (a.bytes / 16)).foldl (fun d i =>
    let p := (src.drop (16 * i)).take 16
    (d.fuWrite 721 (d.strPart n) (base + 16 * i)
      ((List.range 3).flatMap fun x => toLE 4 (vehicle ext (deskewed ego instant p) x))).1) d

/-- LIDAR_DESKEW_DONE: the oldest whole frame of the stream has been de-skewed. -/
def execLidarDeskewDone (stream : Fin 64) (s : State) : Res :=
  onDevIf (fun d => d.live && d.strKind stream == 1)
    (fun d => match (d.str stream).ready with
      | a :: rest =>
        let (d, ego) := d.egoMotion
        let d := match d.trigOf stream a with
          | some t => d.transform stream a ego t.instant
          | none => d
        let d := d.modStr stream fun s => { s with ready := rest }
        d.wholeFrame stream a ego.isNone
      | [] => d) s

/-! ## TIME_OF_VALIDITY -/

/-- The windows of an inertial stream before update `w` close: their frames commit with the newest sample's instant.
A frame that spoiled was still expected (R235). -/
def Dev.closeWindows (d : Dev) (w n : Nat) : Dev :=
  let due := (d.str n).wins.filter fun e => decide (e.1 < w)
  let d := d.modStr n fun s => { s with wins := s.wins.filter fun e => decide (w ≤ e.1) }
  due.foldl (fun (d : Dev) e =>
    if e.2.bad then (if e.2.slot < 255 then d.bump (R.fuStreamDrop n) else d).modStr n fun s => { s with misK := true }
    else d.commitFrame n e.2 e.2.newest 0 false) d

/-- TIME_OF_VALIDITY: at tv_k. -/
def execTimeOfValidity (s : State) : Res :=
  onDevIf (fun d => d.live && decide (d.tv d.fus.win ≤ d.time.now))
    (fun d =>
      let w := max (d.fus.win + 1) (d.updOf (d.time.now + 1))
      ((d.enabled.filter fun n => d.strKind n = 3).foldl (fun (d : Dev) n => d.closeWindows w n) d).modFus fun f =>
        { f with win := w }) s

/-! ## UPDATE_SEAL (R234) -/

/-- What update `k` takes from a stream. -/
structure Taken where
  frames : List Frame
  late   : List Frame
  ticks  : Nat

/-- Frames of a stream for update `k`. DEDUCED (log 49). -/
def Dev.taken (d : Dev) (n k : Nat) : Taken :=
  let fs := (d.str n).frames.filter (!·.used)
  { frames := fs.filter fun f => !f.late && d.updOf f.instant == k
    late := fs.filter fun f => f.late && d.updOf f.instant + 1 == k
    ticks := if triggered (d.strKind n) then
        (d.time.exposures.filter fun t => t.stream = n ∧ d.updOf t.instant = k).length
      else b2n (d.strKind n == 3 && ((d.str n).misK || fs.any fun f => !f.late && d.updOf f.instant == k)) }

/-- An input-set entry. -/
def isetEntry (slot count flags standing no instant : Nat) : List Byte :=
  toLE 1 slot ++ toLE 1 count ++ toLE 1 flags ++ toLE 1 standing ++ toLE 4 no ++ toLE 8 instant

/-- The frame of greatest instant. -/
def newestOf (fs : List Frame) : Option Frame := minBy? (fun f => 2 ^ 64 - f.instant) fs

/-- The entry of a stream, and its part in the update. DEDUCED (log 49). -/
def Dev.sealStream (d : Dev) (k n : Nat) : Dev × List Byte :=
  let s := d.str n
  if d.strEn n = false then (d, isetEntry 0 0 4 0 0 0)
  else if d.strKind n = 2 then
    match s.newest with
    | some f => (d, isetEntry f.slot (if s.standing = 2 then 0 else 1) 0 s.standing f.no f.instant)
    | none => (d, isetEntry 0 0 2 s.standing 0 0)
  else
    let t := d.taken n k
    let all := t.late ++ t.frames
    let use := if s.standing = 2 then [] else all
    let missing := decide (0 < t.ticks) && all.isEmpty
    let late := s.misK || decide (t.frames.length < t.ticks)
    let body := match newestOf use with
      | some f => isetEntry f.slot use.length (b2n (t.late != [])) s.standing f.no f.instant
      | none => isetEntry 0 0 (2 * b2n missing) s.standing 0 0
    let drop := s.asm.any fun a => decide (1 ≤ a.seals ∧ a.slot < 255)
    let d := if drop then d.bump (R.fuStreamDrop n) else d
    let d := d.modStr n fun s => { s with
      prevProt := s.prot, prot := ((newestOf use).map (·.slot)).toList, misK := false
      frames := s.frames.filter fun f => decide (k ≤ d.updOf f.instant) && !all.contains f
      asm := s.asm.map fun a => { a with
        seals := a.seals + 1, slot := if drop then 255 else a.slot, bad := a.bad || drop } }
    let d := if d.strKind n = 3 ∧ t.late ≠ [] then d.history n true false else d
    (if 0 < t.ticks then d.history n late missing else d, body)

/-- The update that a seal opens, by what it takes. -/
def Dev.updateOf (d : Dev) (k : Nat) : Update :=
  let ns := d.enabled.filter fun n => d.strKind n ≠ 2 ∧ (d.str n).standing < 2 ∧
    (d.taken n k).frames ++ (d.taken n k).late ≠ []
  let newest := (ns.filter fun n => d.strKind n ≠ 3).filterMap fun n =>
    (newestOf ((d.taken n k).frames ++ (d.taken n k).late)).map (·.instant)
  { k := k, tv := d.tv k, used := ns, lateUsed := ns.filter fun n => (d.taken n k).late ≠ []
    held := (d.fus.early.filter (·.1 = k % 2 ^ 32)).map (·.2)
    oldest := newest.min?.getD (d.tv k), trusted := d.enabled.filter fun n => (d.str n).standing = 0
    imu := ns.any fun n => d.strKind n == 3 && (d.str n).standing == 0 }

/-- State buffer addresses to read and to write (R247). -/
def Dev.stateBufs (d : Dev) : Nat × Nat :=
  let a := d.fld R.fuStateA 0 28 * 4096
  let b := d.fld R.fuStateB 0 28 * 4096
  if d.fus.bufB then (b, a) else (a, b)

/-- Write a range of the hub store for the front-end. -/
def Dev.hubWrite (d : Dev) (off : Nat) (bs : List Byte) : Dev :=
  (d.fuWrite 721 (d.initPart 721) (hubBase + off) bs).1

/-- UPDATE_SEAL: at the seal's wingbeat start. DEDUCED (log 49). -/
def execUpdateSeal (s : State) : Res :=
  onDevIf (fun d =>
    let lag := d.fld R.fuUpdateCfg 0 10 + d.fld R.fuUpdateCfg 10 10
    let k := (d.wb - lag) / d.lp
    d.live && d.fus.began && d.time.now % wingbeatNs == 0 && decide (lag ≤ d.wb) && (d.wb - lag) % d.lp == 0 &&
      (match d.fus.sealed with
        | some j => decide (j < k)
        | none => true))
    (fun d =>
      let k := (d.wb - (d.fld R.fuUpdateCfg 0 10 + d.fld R.fuUpdateCfg 10 10)) / d.lp
      let u := d.updateOf k
      let bufs := d.stateBufs
      let head := toLE 4 k ++ toLE 4 (b2n d.fus.instar + 2 * b2n d.fus.reinit) ++ toLE 8 u.tv ++
        toLE 8 d.time.now ++ toLE 8 bufs.1 ++ toLE 8 bufs.2 ++ toLE 24 0
      let (d, body) := (List.range 64).foldl (fun (r : Dev × List Byte) n =>
        let (d, e) := r.1.sealStream k n
        (d, r.2 ++ e)) (d, [])
      let d := d.hubWrite (d.fld R.fuIsetBase 6 19 * 64 + k % 2 * 0x800) (head ++ body)
      d.modFus fun f => { f with
        ups := u :: f.ups.take 2, early := f.early.filter (·.1 ≠ k % 2 ^ 32), sealed := some k, reinit := false, upsSince := f.upsSince + 1 }) s

/-! ## Sector steps (R238 to R241) -/

/-- Code of modality `m` in sector `s`, band `b`, from the evidence grid. -/
def evCode (g : List Byte) (m s b : Nat) : Nat :=
  let j := 16 * s + b
  bits (g.getD (64 * m + j / 4) 0).toNat (2 * (j % 4)) 2

/-- Stream kind of a modality. -/
def modKind : Nat → Nat
  | 0 => 0
  | 1 => 1
  | _ => 4

/-- Whether a modality is configured in a sector. -/
def Dev.modConf (d : Dev) (m s : Nat) : Bool := d.enabled.any fun n => d.strKind n == modKind m && d.strSect n s
/-- Whether a modality is present in a sector for an update (R239). -/
def Dev.modPresent (d : Dev) (u : Update) (m s : Nat) : Bool :=
  d.enabled.any fun n => d.strKind n == modKind m && d.strSect n s && u.trusted.contains n && u.used.contains n

/-- Code of a modality as a voter of a cell (R239): 1 or 2 of a present one, else 0. -/
def Dev.voteCode (d : Dev) (u : Update) (g : List Byte) (m s b : Nat) : Nat :=
  let c := evCode g m s b
  if d.modPresent u m s = true ∧ (c = 1 ∨ c = 2) then c else 0

/-- A cell's verdict (R239): 0 unknown, 1 free, 2 occupied, 3 unresolved. Without a voter any code 2 decides, then any
code 1; else the majority of the voters, and a tie is unresolved. -/
def Dev.cellVerdict (d : Dev) (u : Update) (g : List Byte) (s b : Nat) : Nat :=
  let vs := [0, 1, 2].map fun m => d.voteCode u g m s b
  let all := [0, 1, 2].map fun m => evCode g m s b
  let cs := if vs.all (· == 0) then all else vs
  if vs.all (· == 0) then (if cs.contains 2 then 2 else if cs.contains 1 then 1 else 0)
  else if cs.count 1 = cs.count 2 then 3
  else if cs.count 1 < cs.count 2 then 2 else 1

/-- Whether a cell is unresolved: two voters that disagree. -/
def Dev.unresolved (d : Dev) (u : Update) (g : List Byte) (s b : Nat) : Bool := d.cellVerdict u g s b == 3

/-- What a cell counts as (R239): the whole sector of an unresolved cell is occupied. -/
def Dev.cellIn (d : Dev) (u : Update) (g : List Byte) (s b : Nat) : Nat :=
  if (List.range 16).any fun b => d.unresolved u g s b then 2 else d.cellVerdict u g s b

/-- The computed step of a sector (R240). -/
def Dev.sectorStep (d : Dev) (u : Update) (g : List Byte) (s : Nat) : Nat :=
  if (List.range 16).any fun b => d.unresolved u g s b then 2
  else if [0, 1, 2].any fun m => d.modConf m s && (!d.modPresent u m s ||
      (List.range 16).all fun b => evCode g m s b == 0 || evCode g m s b == 3) then 1
  else 0

/-- The step in force and its hold count after one evaluation (R241). DEDUCED (log 50). -/
def stepRule (hold cur cnt new : Nat) : Nat × Nat :=
  if cur < new then (new, 0)
  else if new < cur then (if hold ≤ cnt + 1 then (cur - 1, 0) else (cur, cnt + 1))
  else (cur, 0)

/-- Events of a change of step; `who` is the sector or 0xFF. -/
def Dev.stepEvent (d : Dev) (who old new cause : Nat) : Dev :=
  if old < new then d.event 5 0x5010 4 0x15 [who, old, new, cause]
  else if new < old then d.event 0 0x5011 4 0x15 [who, old, new]
  else d

/-- Apply a computed sector step. -/
def Dev.applySector (d : Dev) (s new : Nat) : Dev :=
  let cur := tget (fun _ => 0) d.fus.sector s
  let r := stepRule (d.fld R.fuSectorCfg 10 8) cur (tget (fun _ => 0) d.fus.secHold s) new
  let d := d.modFus fun f => { f with
    sector := tset (fun _ => 0) f.sector s r.1, secHold := tset (fun _ => 0) f.secHold s r.2 }
  d.stepEvent s cur r.1 (if r.1 = 2 then 2 else 1)

/-- Sector steps as a header shows them (R245). -/
def stepWord (steps : List Nat) : Nat := steps.foldr (fun s v => s + 4 * v) 0

/-- Sector steps in force. -/
def Dev.sectorWord (d : Dev) : Nat := stepWord ((List.range 16).map fun s => tget (fun _ => 0) d.fus.sector s)

/-- Sector steps of an update: those its evaluation left, or those in force where it has none. -/
def Dev.stepsOf (d : Dev) (u : Update) : Nat := if u.sectors = [] then d.sectorWord else stepWord u.sectors

/-- AGE of an update (R245). -/
def Update.age (u : Update) : Nat := min 0xFFFFFFFF (u.tv - u.oldest)

/-- Change the record of update `k`. -/
def Dev.modUp (d : Dev) (k : Nat) (f : Update → Update) : Dev :=
  d.modFus fun x => { x with ups := mapIf (fun u => u.k == k) f x.ups }

/-- The update's step by its computed value and cause; the update counts as released. -/
def Dev.applyUpdate (d : Dev) (k new cause : Nat) : Dev :=
  let cur := d.fus.step
  let r := stepRule (d.fld R.fuSectorCfg 10 8) cur d.fus.stepHold new
  let d := (d.modFus fun f => { f with step := r.1, stepHold := r.2 }).stepEvent 0xFF cur r.1 cause
  let d := d.modUp k fun u => { u with
    step := r.1, sectors := (List.range 16).map fun s => tget (fun _ => 0) d.fus.sector s }
  let age := ((d.fus.ups.find? (·.k = k)).map Update.age).getD 0
  ((d.setReg R.fuSectorSteps d.sectorWord).setReg R.fuUpdateNum k).setReg R.fuAge age

/-- SECTOR_STEP_EVAL for the evidence of update `u`. DEDUCED (log 50). -/
def Dev.evalSteps (d : Dev) (u : Update) (g : List Byte) : Dev :=
  let secs := List.range 16
  let new := secs.map (d.sectorStep u g)
  let d := secs.foldl (fun d s =>
    match (List.range 16).find? fun b => d.unresolved u g s b with
    | some b => d.event 5 0x5012 4 0x15
        [s, b, d.voteCode u g 0 s b + 4 * d.voteCode u g 1 s b + 16 * d.voteCode u g 2 s b, u.k]
    | none => d) d
  let d := (new.zipIdx).foldl (fun d e => d.applySector e.2 e.1) d
  let none_ := secs.any fun s => [0, 1, 2].any (fun m => d.modConf m s) && [0, 1, 2].all (fun m => !d.modPresent u m s)
  let two := decide (d.fld R.fuSectorCfg 5 5 ≤ (new.filter (· = 2)).length)
  let top := new.foldl max 0
  if none_ then d.applyUpdate u.k 3 3
  else if two then d.applyUpdate u.k 3 4
  else if u.imu = false then d.applyUpdate u.k 3 5
  else d.applyUpdate u.k top (if top = 2 then 2 else 1)

/-! ## Fused outputs (R242 to R245) -/

/-- Slots of an output ring. -/
def Dev.outSlots (d : Dev) (kind : Nat) : Nat := max 1 (d.fld (R.fuOutCfg kind) 0 4)
/-- Address of a slot of an output ring. -/
def Dev.outSlot (d : Dev) (kind slot : Nat) : Nat :=
  d.fld (R.fuOutBase kind) 0 28 * 4096 + slot * d.fld (R.fuOutCfg kind) 4 12 * 1024
/-- COUNT of an output kind. -/
def Dev.outCount (d : Dev) (kind : Nat) : Nat := tget (fun _ => 0) d.fus.counts kind
/-- A mask with the bits of a list. -/
def maskOf (l : List Nat) : Nat := l.foldl (fun v n => v ||| 2 ^ n) 0

/-- Count a commit and write its header (R245). -/
def Dev.outHeader (d : Dev) (kind slot field : Nat) (u : Option Update) : Dev :=
  let n := (d.outCount kind + 1) % 2 ^ 32
  let d := d.modFus fun f => { f with counts := tset (fun _ => 0) f.counts kind n }
  if kind = 3 then d
  else
    let ins := b2n d.fus.instar
    let bs := match u with
      | some u => toLE 8 u.tv ++ toLE 8 d.time.now ++ toLE 4 u.age ++ toLE 4 u.k ++ toLE 4 (d.stepsOf u) ++
          toLE 1 u.step ++ toLE 1 (ins + 4 * b2n (u.lateUsed != [])) ++ toLE 1 kind ++ toLE 1 0 ++
          toLE 8 (maskOf u.used) ++ toLE 8 (maskOf u.lateUsed) ++ toLE 8 0 ++ toLE 4 n ++ toLE 4 0
      | none => toLE 8 0 ++ toLE 8 d.time.now ++ toLE 4 0 ++ toLE 4 field ++ toLE 4 0 ++ toLE 1 0 ++
          toLE 1 (ins + 2) ++ toLE 1 kind ++ toLE 1 0 ++ toLE 24 0 ++ toLE 4 n ++ toLE 4 0
    (d.fuWrite 721 (d.initPart 721) (d.outSlot kind slot) bs).1

/-- How far a 32-bit update number lies behind the newest sealed update, modulo 2^32: from 2^31 on it lies ahead. -/
def behind (sealed field : Nat) : Nat := (sealed % 2 ^ 32 + 2 ^ 32 - field) % 2 ^ 32

/-- The update that a 32-bit number names: the one nearest to the newest sealed. -/
def Dev.updNo (d : Dev) (field : Nat) : Nat :=
  match d.fus.sealed with
  | some s => if behind s field < 2 ^ 31 then s - behind s field else s + 2 ^ 32 - behind s field
  | none => field

/-- The record of the update that a commit names. -/
def Dev.upOf (d : Dev) (field : Nat) : Update :=
  let k := d.updNo field
  (d.fus.ups.find? fun u => u.k % 2 ^ 32 = field).getD { k := k, tv := d.tv k, oldest := d.tv k }

/-- Whether a 32-bit number names an update not yet sealed. -/
def Dev.unsealed (d : Dev) (field : Nat) : Bool := d.fus.sealed.all fun s => decide (2 ^ 31 ≤ behind s field)

/-- Headers of the commits held for an update. -/
def Dev.releaseHeld (d : Dev) (k : Nat) : Dev :=
  let u := d.upOf (k % 2 ^ 32)
  let d := u.held.foldl (fun d h => d.outHeader h.1 h.2 0 (some (d.upOf (k % 2 ^ 32)))) d
  d.modUp k fun u => { u with held := [] }

/-- Restart instar (R246, R247). DEDUCED (log 51). -/
def Dev.instar (d : Dev) : Dev :=
  let d := { d with pl := { d.pl with valid := false, prevBuf := none, faults := [] } }
  d.modFus fun f => { f with
    instar := true, left := d.fld R.fuInstarCfg 0 8, advanced := 0, stale := 0, upsSince := 0 }

/-- A STATE commit of the newest update before its release deadline advances the state (R247, R248).
DEDUCED (log 51). -/
def Dev.advance (d : Dev) (k : Nat) : Dev :=
  let d := (d.modUp k fun u => { u with state := true }).modFus fun f => { f with
    bufB := !f.bufB, left := f.left - 1, advanced := f.advanced + 1, stale := 0 }
  if d.fus.instar ∧ d.fus.left = 0 then
    (d.modFus fun f => { f with instar := false }).event 0 0x5022 4 0x15 [k, d.fus.upsSince]
  else d

/-- The reason for which a commit is refused (R243, R244, R253); 0 if it is accepted. DEDUCED (log 50). -/
def Dev.commitReason (d : Dev) (kind w : Nat) : Nat :=
  let k := bits w 16 32
  if kind ≠ 3 ∧ bits w 8 8 ≠ tget (fun _ => 0) d.fus.next kind then 1
  else if bits w 0 3 ≠ kind ∨ bits w 3 5 ≠ 0 ∨ bits w 48 16 ≠ 0 then 2
  else if d.poisoned (hubBase + d.fld R.fuMboxBase 6 19 * 64 + 64 * kind) then 3
  else match d.fus.sealed with
    | some s => if kind ≤ 2 ∧ 1 < behind s k ∧ behind s k < 2 ^ 31 then 4 else 0
    | none => 0

/-- An accepted commit. DEDUCED (log 50). -/
def Dev.accept (d : Dev) (kind slot k : Nat) : Dev :=
  let d := if kind = 3 then d else d.modFus fun f => { f with
    next := tset (fun _ => 0) f.next kind ((slot + 1) % d.outSlots kind) }
  let u := d.upOf k
  match kind with
  | 0 =>
    let d := if u.closed ∨ u.evid ∨ d.fus.ups.all (·.k ≠ u.k) then d
      else
        let (d, g) := d.fuRead 721 (d.initPart 721) (d.outSlot 0 slot + 64) 192
        (d.evalSteps u g).modUp u.k fun u => { u with evid := true }
    (d.outHeader 0 slot k (some (d.upOf k))).releaseHeld u.k
  | 3 =>
    let d := d.outHeader 3 slot k none
    if d.fus.sealed = some u.k ∧ u.closed = false ∧ u.state = false then d.advance u.k else d
  | 4 => d.outHeader 4 slot k none
  | 5 => d.outHeader 5 slot k none
  | _ =>
    if u.evid ∨ u.closed then d.outHeader kind slot k (some u)
    else if d.unsealed k then d.modFus fun f => { f with early := f.early ++ [(k, kind, slot)] }
    else if d.fus.ups.all (·.k ≠ u.k) then d.outHeader kind slot k (some u)
    else d.modUp u.k fun u => { u with held := u.held ++ [(kind, slot)] }

/-- OUTPUT_COMMIT: the front-end takes the word in a kind's mailbox. -/
def execOutputCommit (kind : Fin 6) (s : State) : Res :=
  onDevIf (fun d => d.live && d.fus.began)
    (fun d =>
      let w := d.rdN (hubBase + d.fld R.fuMboxBase 6 19 * 64 + 64 * kind) 8
      match d.commitReason kind w with
      | 0 => d.accept kind (bits w 8 8) (bits w 16 32)
      | r => d.event 2 0x5020 4 0x15 [kind, bits w 8 8, r]) s

/-! ## RELEASE_DEADLINE (R244, R247) -/

/-- Copy the initial state into the current buffer; a refused access copies nothing. -/
def Dev.initState (d : Dev) : Dev :=
  let src := d.fld R.fuStateInit 0 28 * 4096
  let n := d.fld R.fuStateSize 0 7 * mib
  if n = 0 then d
  else if d.allowed 721 (d.initPart 721) src n false = false then d.denyN 721 (d.initPart 721) src n false
  else if d.allowed 721 (d.initPart 721) d.stateBufs.1 n true = false then d.denyN 721 (d.initPart 721) d.stateBufs.1 n true
  else d.copy src d.stateBufs.1 n

/-- The release deadline of an update. DEDUCED (log 50). -/
def Dev.deadlineOf (d : Dev) (u : Update) : Dev :=
  let d := d.modUp u.k fun u => { u with closed := true }
  let d := if u.evid then d else d.applyUpdate u.k 3 6
  let d := if u.evid then d else d.releaseHeld u.k
  if u.state then d
  else
    let d := d.modFus fun f => { f with stale := f.stale + 1 }
    if d.fus.stale < d.fld R.fuInstarCfg 8 4 then d
    else
      let d := d.initState.instar
      (d.modFus fun f => { f with reinit := true }).event 5 0x5021 4 0x15 [u.k]

/-- RELEASE_DEADLINE. -/
def execReleaseDeadline (s : State) : Res :=
  onDevIf (fun d => d.live)
    (fun d => match d.fus.ups.find? fun u => !u.closed && decide (d.relW u.k ≤ d.wb) with
      | some u => d.deadlineOf u
      | none => d) s

/-- A stream is TRUSTED at the start of instar (R235): a change of its standing is an event (R253). -/
def Dev.trustAll (d : Dev) : Dev :=
  d.enabled.foldl (fun (d : Dev) n =>
    let s := d.str n
    if s.standing = 0 then d else d.event 0 0x5001 4 0x15 [n, s.standing, 0, s.lates, s.miss]) d

/-- INSTAR_BEGIN: at the first perception-frame tick after the schedule is enabled (R246). DEDUCED (log 51). -/
def Dev.instarBegin (d : Dev) : Dev :=
  let d := (d.trustAll.modFus fun f => { f with
    bufB := false, began := true, early := [], counts := [], next := [], ups := [], sealed := none, streams := []
    lastBlock := if d.wb < 10 then 0 else (d.wb - 2) / 8, win := d.updOf d.time.now }).initState
  d.instar

end Sys2Proof.Machine
end

