-- ==== Sys2Proof/Machine/Collide.lean ====
section
/-! DEFINITION. What the collision engine computes: candidates, their motion and samples (R261, R263,
R265), the feasibility checks (R262, R275), the octree query (R257, R258, R260), swept boxes (R270),
cocoon compatibility (R276) and eyespots (R272). -/

namespace Sys2Proof.Machine

/-! ## Candidates -/

/-- A segment (R265). -/
structure Seg where
  fam   : Nat
  dur   : Nat
  sigma : Nat
  a     : Nat
  deriving DecidableEq, Repr

/-- A candidate slot (R265); FP32 fields are bit patterns. -/
structure Traj where
  bytes  : List Byte
  cost   : Nat
  nseg   : Nat
  cocoon : Bool
  back   : Bool
  parent : Nat
  start  : Nat
  x      : Nat
  y      : Nat
  th     : Nat
  v0     : Nat
  a0     : Nat
  k0     : Nat
  segs   : List Seg
  deriving DecidableEq, Repr

/-- Little-endian field of a byte list. -/
def field (b : List Byte) (off n : Nat) : Nat := ofLE ((b.drop off).take n)

/-- The candidate in the 256 bytes of a slot. -/
def trajOf (b : List Byte) : Traj :=
  let n := field b 4 1 % 32
  { bytes := b, cost := field b 0 4, nseg := n, cocoon := bit (field b 4 2) 8, back := bit (field b 4 2) 9
    parent := field b 6 2, start := field b 8 8
    x := field b 16 4, y := field b 20 4, th := field b 24 4
    v0 := field b 28 4, a0 := field b 32 4, k0 := field b 36 4
    segs := (List.range (min n 16)).map fun i =>
      { fam := field b (64 + 12 * i) 1, dur := field b (65 + 12 * i) 2
        sigma := field b (68 + 12 * i) 4, a := field b (72 + 12 * i) 4 } }

/-- The rational value of a finite FP32 pattern. -/
def q32 (v : Nat) : Rat := ((dec32 v).rat).getD 0

/-! ## Motion (R261) -/

/-- A segment in motion: time and path length at its start, duration in ns, speed at its start, acceleration and
rate of curvature in force. -/
structure Leg where
  t0  : Nat
  dur : Nat
  s0  : Rat
  v0  : Rat
  a   : Rat
  sig : Rat
  deriving DecidableEq, Repr

/-- FP32 pattern of a rational, to nearest. -/
def to32 (x : Rat) : Nat := ratTo32 (decide (x < 0)) x.num.natAbs x.den

/-- Path travelled `t` ns into a leg. -/
def Leg.arc (l : Leg) (t : Nat) : Rat :=
  let x : Rat := (t : Rat) / 1000000000
  l.v0 * x + l.a * x * x / 2
/-- Speed `t` ns into a leg, in FP32 (R261). DEDUCED (log 53). -/
def Leg.speed (l : Leg) (t : Nat) : Rat :=
  q32 (add32 (to32 l.v0) (mul32 (to32 l.a) (to32 ((t : Rat) / 1000000000))))
/-- Length of a leg. -/
def Leg.len (l : Leg) : Rat := l.arc l.dur

/-- The legs of a candidate: speed and path length continue from segment to segment. -/
def Traj.legs (c : Traj) : List Leg :=
  (c.segs.foldl (fun (acc : List Leg × Leg) g =>
    let p := acc.2
    let l : Leg := { p with
      dur := g.dur * 1000000, a := if g.fam = 2 then 0 else q32 g.a
      sig := if g.fam = 1 then q32 g.sigma else 0 }
    let e : Leg := { l with
      t0 := l.t0 + l.dur, s0 := l.s0 + l.len, v0 := l.speed l.dur }
    (acc.1 ++ [l], e)) ([], ⟨0, 0, 0, q32 c.v0, 0, 0⟩)).1

/-- Duration of a candidate in ns. -/
def Traj.durNs (c : Traj) : Nat := c.segs.foldl (fun n g => n + g.dur * 1000000) 0

/-- Least `n` in [lo, lo + 2^fuel) with `p n`, for a `p` that stays true once it is. -/
def firstTrue (p : Nat → Bool) : (fuel : Nat) → (lo : Nat) → Nat
  | 0, lo => lo
  | f + 1, lo => if p (lo + 2 ^ f - 1) then firstTrue p f lo else firstTrue p f (lo + 2 ^ f)

/-- Nanosecond, rounded down, at which a leg reaches path `s` from its start. DEDUCED (log 53). -/
def Leg.timeAt (l : Leg) (s : Rat) : Nat :=
  let n := firstTrue (fun t => decide (s ≤ l.arc t) || decide (l.dur ≤ t)) 40 0
  if l.arc n = s ∨ n = 0 then n else n - 1

/-- A sample: ns after START, path, leg, speed at that ns. -/
structure Sample where
  t   : Nat
  s   : Rat
  leg : Nat
  v   : Rat
  deriving DecidableEq, Repr

/-- A sample `t` ns into leg number `i`. -/
def Leg.at_ (l : Leg) (i t : Nat) : Sample :=
  { t := l.t0 + t, s := l.s0 + l.arc t, leg := i, v := l.speed t }

/-- A sample where path `s` falls in leg number `i`. -/
def Leg.atPath (l : Leg) (i : Nat) (s : Rat) : Sample :=
  let t := l.timeAt (s - l.s0)
  { t := l.t0 + t, s := s, leg := i, v := l.speed t }

/-- Map geometry in force: leaf side in metres, depth, layers, layer length in ns, T0. -/
structure Geom where
  leaf   : Rat
  depth  : Nat
  layers : Nat
  delta  : Nat
  t0     : Nat
  deriving DecidableEq, Repr

/-- DS of R263. -/
def Geom.ds (g : Geom) : Rat := g.leaf / 2

/-- The layer of an instant (R258). -/
def Geom.layer (g : Geom) (t : Nat) : Nat :=
  if t < g.t0 then 0 else min (g.layers - 1) ((t - g.t0) / (max g.delta 1))

/-- Multiples of DS in (lo, hi]. -/
def Geom.marks (g : Geom) (lo hi : Rat) : List Rat :=
  let a := (lo / g.ds).floor
  let b := (hi / g.ds).floor
  (List.range (b - a).toNat).map fun i => ((a + 1 + (i : Int) : Int) : Rat) * g.ds

/-- The samples of R263 in order of time. DEDUCED (log 53). -/
def Traj.samples (c : Traj) (g : Geom) : List Sample :=
  let ls := c.legs.zipIdx
  let first := (ls.take 1).map fun e => e.1.at_ 0 0
  let travel := ls.flatMap fun e => (g.marks e.1.s0 (e.1.s0 + e.1.len)).map fun s => e.1.atPath e.2 s
  let bounds := ls.flatMap fun e =>
    ((List.range (g.layers + 1)).map fun j => g.t0 + j * g.delta).filterMap fun t =>
      let lo := c.start + e.1.t0
      if lo < t ∧ t ≤ lo + e.1.dur then some (e.1.at_ e.2 (t - lo)) else none
  let last := (ls.reverse.take 1).map fun e => e.1.at_ e.2 e.1.dur
  sortBy (·.t) (first ++ travel ++ bounds ++ last)

/-! ## Pose: midpoint integration in FP32 (R261) -/

/-- Position, heading and curvature, FP32 patterns. -/
structure Pose where
  x  : Nat
  y  : Nat
  th : Nat
  k  : Nat
  deriving DecidableEq, Repr

/-- Rate of curvature at a path length. -/
def Traj.sigmaAt (c : Traj) (s : Rat) : Rat :=
  match (c.legs.filter fun l => decide (l.s0 ≤ s)).getLast? with
  | some l => l.sig
  | none => 0

/-- One midpoint step of length `h` from path `s`: the rate of curvature is that of the midpoint. -/
def Traj.midpoint (c : Traj) (s h : Rat) (p : Pose) : Pose :=
  let sig := to32 (c.sigmaAt (s + h / 2))
  let mid := add32 p.th (mul32 (to32 (h / 2)) p.k)
  let dx := mul32 (to32 h) (Config.cos32 mid % 2 ^ 32)
  let dy := mul32 (to32 h) (Config.sin32 mid % 2 ^ 32)
  { x := if c.back then sub32 p.x dx else add32 p.x dx
    y := if c.back then sub32 p.y dy else add32 p.y dy
    th := add32 p.th (mul32 (to32 h) (add32 p.k (mul32 (to32 (h / 2)) sig)))
    k := add32 p.k (mul32 (to32 h) sig) }

/-- The pose at a path length, by steps of DS/4. DEDUCED (log 53). -/
def Traj.pose (c : Traj) (g : Geom) (s : Rat) : Pose :=
  let h := g.ds / 4
  let n := (s / h).floor.toNat
  let p := (List.range n).foldl (fun p i => c.midpoint ((i : Rat) * h) h p) ⟨c.x, c.y, c.th, c.k0⟩
  if (n : Rat) * h = s then p else c.midpoint ((n : Rat) * h) (s - (n : Rat) * h) p

/-! ## The footprint (R263) -/

/-- A query region: centre, radius, height span, in metres. -/
structure Region where
  cx : Rat
  cy : Rat
  r  : Rat
  lo : Rat
  hi : Rat
  deriving DecidableEq, Repr

/-- The enabled discs: offset and radius in metres, inflation included. -/
def Dev.discs (d : Dev) : List (Rat × Rat) :=
  (List.range 8).filterMap fun k =>
    let w := d.reg (R.plDisc k)
    if bit w 31 then
      some (((signed 16 w : Int) : Rat) / 1000, ((bits w 16 15 + d.fld R.plInflate 0 12 : Nat) : Rat) / 1000)
    else none

/-- Height span of the body above the reference point. -/
def Dev.bodyZ (d : Dev) : Rat × Rat :=
  (((signed 16 (d.fld R.plBodyZ 0 16) : Int) : Rat) / 100, ((signed 16 (d.fld R.plBodyZ 16 16) : Int) : Rat) / 100)

/-- The disc regions of a candidate at a path length. DEDUCED (log 53). -/
def Dev.regionsAt (d : Dev) (g : Geom) (c : Traj) (s : Rat) : List Region :=
  let p := c.pose g s
  let z := q32 (Config.refZ c.bytes % 2 ^ 32)
  let cs := q32 (Config.cos32 p.th % 2 ^ 32)
  let sn := q32 (Config.sin32 p.th % 2 ^ 32)
  d.discs.map fun k =>
    ⟨q32 p.x + k.1 * cs, q32 p.y + k.1 * sn, k.2, z + d.bodyZ.1, z + d.bodyZ.2⟩

/-! ## The map (R255 to R260) -/

/-- Address of map buffer `i`. -/
def Dev.mapBuf (d : Dev) (i : Nat) : Nat := d.fld R.plMapBase 0 28 * 4096 + i * (d.fld R.plMapBuf 0 7 * mib)
/-- Partition MAP_PART. -/
def Dev.mapPart (d : Dev) : Nat := d.fld R.plCfg 1 6
/-- A little-endian number that the collision engine reads: zeros where its firewall refuses (R181). -/
def Dev.plN (d : Dev) (a n : Nat) : Nat := if d.allowed 722 d.mapPart a n false then d.rdN a n else 0
/-- Partition PLAN_PART. -/
def Dev.planPart (d : Dev) : Nat := d.fld R.plCfg 7 6

/-- Geometry of the generation in a buffer. -/
def Dev.geom (d : Dev) (buf : Nat) : Geom :=
  { leaf := (2 : Rat) ^ d.fld R.plMapCfg 0 2 / 20, depth := d.fld R.plMapCfg 2 4
    layers := max 1 (d.fld R.plMapCfg 6 5), delta := d.fld R.plMapCfg 11 13 * wingbeatNs
    t0 := d.plN (d.mapBuf buf + 8) 8 }

/-- What a query found: a hit, a node that cannot be read for poison or firewall, the address of a node whose read
was refused, a malformed node. -/
structure Found where
  hit    : Bool := false
  poison : Bool := false
  deny   : Option Nat := none
  bad    : Option Nat := none
  deriving DecidableEq, Repr

/-- Whether nothing was found so far. -/
def Found.clear (f : Found) : Bool := !f.hit && !f.poison && f.bad.isNone

/-- Distance from a coordinate to an interval. -/
def gap (x lo hi : Rat) : Rat := if x < lo then lo - x else if hi < x then x - hi else 0

/-- A region touches a cube: a point in common, boundaries included (R258). -/
def Region.touches (r : Region) (x y z side : Rat) : Bool :=
  let gx := gap r.cx x (x + side)
  let gy := gap r.cy y (y + side)
  decide (gx * gx + gy * gy ≤ r.r * r.r) && decide (r.lo ≤ z + side) && decide (z ≤ r.hi)

/-- Present octants of a CHILD byte below octant `o`. -/
def octsBelow (child o : Nat) : Nat := ((List.range o).filter fun i => bit child i).length

/-- Descent into the cube of a node (R257, R258, R260). -/
def Dev.descend (d : Dev) (buf lay : Nat) (r : Region) :
    (fuel : Nat) → (node : Nat) → (x y z side : Rat) → Found
  | 0, _, _, _, _, _ => {}
  | fuel + 1, n, x, y, z, side =>
    let a := d.mapBuf buf + 0x4000 + 8 * n
    if r.touches x y z side = false then {}
    else if d.allowed 722 d.mapPart a 8 false = false then { poison := true, deny := some a }
    else if d.poisoned a = true then { poison := true }
    else
      let w := d.rdN a 8
      let occ := bit w lay
      let unk := bit w (16 + lay)
      let child := bits w 32 8
      let first := bits w 40 24
      let nodes := d.plN (d.mapBuf buf + 4) 4
      if fuel ≠ 0 ∧ child ≠ 0 ∧ (first ≤ n ∨ nodes < first + octsBelow child 8) then { bad := some n }
      else if occ = false ∧ unk = false then {}
      else if fuel = 0 ∨ child = 0 then { hit := occ || (unk && bit (d.reg R.plCfg) 0) }
      else
        let h := side / 2
        (List.range 8).foldl (fun (f : Found) o =>
          if f.clear ∧ bit child o then
            d.descend buf lay r fuel (first + octsBelow child o) (x + if bit o 0 then h else 0)
              (y + if bit o 1 then h else 0) (z + if bit o 2 then h else 0) h
          else f) {}

/-- Lowest corner of the root cube and its side. -/
def Dev.root (d : Dev) (buf : Nat) (g : Geom) : (Rat × Rat × Rat) × Rat :=
  let o (i : Nat) : Rat := q32 (d.plN (d.mapBuf buf + 16 + 4 * i) 4)
  ((o 0, o 1, o 2), g.leaf * 2 ^ g.depth)

/-- A query of a region in a layer: space outside the root cube is unknown (R258). DEDUCED (log 53). -/
def Dev.query (d : Dev) (buf : Nat) (g : Geom) (lay : Nat) (r : Region) : Found :=
  let ((x, y, z), side) := d.root buf g
  let out := decide (r.cx - r.r < x) || decide (x + side < r.cx + r.r) ||
    decide (r.cy - r.r < y) || decide (y + side < r.cy + r.r) || decide (r.lo < z) || decide (z + side < r.hi)
  if out && bit (d.reg R.plCfg) 0 then { hit := true }
  else d.descend buf lay r (g.depth + 1) 0 x y z side

/-- The first sample whose queries find something, with what they find. -/
def Dev.collide (d : Dev) (buf : Nat) (g : Geom) (c : Traj) : Option (Sample × Found) :=
  (c.samples g).findSome? fun s =>
    ((d.regionsAt g c s.s).findSome? fun r =>
      let f := d.query buf g (g.layer (c.start + s.t)) r
      if f.clear then none else some (s, f))

/-! ## Feasibility (R262, R275) -/

/-- PL_LIMIT_k. -/
def Dev.limit (d : Dev) (k : Nat) : Rat := q32 (d.reg (R.plLimit k))

/-- due(f) (the output gate). -/
def Dev.due (d : Dev) (f : Nat) : Nat := (f * d.lc + d.fld R.plGateCfg 8 8) * wingbeatNs

/-- Reason 9: count, duration, family, a non-finite field, COST NaN. -/
def Traj.malformed (c : Traj) : Bool :=
  c.nseg == 0 || decide (16 < c.nseg) || isNan32 c.cost ||
  !([c.x, c.y, c.th, c.v0, c.a0, c.k0].all isFin32) ||
  c.segs.any fun g => g.dur == 0 || decide (2 < g.fam) || !isFin32 g.sigma || !isFin32 g.a

/-- Magnitude of a rational. -/
def rabs (x : Rat) : Rat := if x < 0 then -x else x

/-- Reasons that the segments give, in segment order: 8, 2, 3, 5, 7 of the segment, then 1, 4, 6 at its
samples. The speed is linear in time, so it falls below 0 within a segment where it does at an end. DEDUCED (log 54). -/
def Dev.segReason (d : Dev) (c : Traj) (g : Geom) : Nat :=
  let ss := c.samples g
  let legs := c.legs
  ((c.segs.zip legs).zipIdx.findSome? fun e =>
    let s := e.1.1
    let l := e.1.2
    let a := q32 s.a
    let before := if e.2 = 0 then q32 c.a0 else ((legs.map (·.a)).getD (e.2 - 1) 0)
    let mine := ss.filter (·.leg = e.2)
    if s.fam = 2 ∧ (l.v0 ≠ 0 ∨ a ≠ 0) then some 8
    else if a < d.limit 2 ∨ d.limit 1 < a then some 2
    else if d.limit 3 < rabs (a - before) then some 3
    else if d.limit 5 < rabs (q32 s.sigma) then some 5
    else if l.v0 < 0 ∨ l.speed l.dur < 0 then some 7
    else if mine.any (fun x => decide (d.limit 0 < x.v)) then some 1
    else if mine.any (fun x => decide (d.limit 4 < rabs (q32 (c.pose g x.s).k))) then some 4
    else if mine.any (fun x => decide (d.limit 6 < x.v * x.v * rabs (q32 (c.pose g x.s).k))) then some 6
    else none).getD 0

/-- The state of a candidate `t` ns after its start, or at its end: pose, speed, acceleration. -/
def Traj.stateAt (c : Traj) (g : Geom) (t : Nat) : Pose × Rat × Rat :=
  let t := min t c.durNs
  match (c.legs.filter fun l => decide (l.t0 ≤ t)).getLast? with
  | some l =>
    let u := min (t - l.t0) l.dur
    (c.pose g (l.s0 + l.arc u), l.speed u, l.a)
  | none => (⟨c.x, c.y, c.th, c.k0⟩, q32 c.v0, q32 c.a0)

/-- R275 for a cocoon candidate and its parent, where one is there. DEDUCED (log 54). -/
def Dev.badCocoon (d : Dev) (c : Traj) (g : Geom) (p : Option Traj) : Bool :=
  match p with
  | none => true
  | some p =>
    let s := p.stateAt g (d.lc * wingbeatNs)
    let dx := q32 c.x - q32 s.1.x
    let dy := q32 c.y - q32 s.1.y
    decide (c.durNs < d.fld R.plCocoonCfg 0 14 * 1000000) ||
    (c.segs.getLast?.map (·.fam)) != some 2 || p.cocoon ||
    decide ((1 / 400 : Rat) < dx * dx + dy * dy) ||
    decide ((1 / 100 : Rat) < rabs (q32 c.th - q32 s.1.th)) ||
    decide ((1 / 10 : Rat) < rabs (q32 c.v0 - s.2.1)) ||
    decide ((1 / 10 : Rat) < rabs (q32 c.a0 - s.2.2)) ||
    decide ((1 / 1000 : Rat) < rabs (q32 c.k0 - q32 s.1.k))

/-- The reason of R262, 0 for a feasible candidate of set `f`. `poison` says that a granule of the
slot is poisoned; `p` is the parent's candidate of a cocoon candidate. DEDUCED (log 54). -/
def Dev.reason (d : Dev) (f : Nat) (c : Traj) (g : Geom) (poison : Bool) (p : Option Traj) : Nat :=
  if poison then 12
  else if c.malformed then 9
  else if c.start ≠ d.due (if c.cocoon then f + 1 else f) then 10
  else if d.segReason c g ≠ 0 then d.segReason c g
  else if c.cocoon ∧ d.badCocoon c g p = true then 11
  else 0

/-! ## Compatibility (R276) -/

/-- Speed of a trajectory at an epoch instant: 0 after its end. -/
def Traj.speedAt (c : Traj) (t : Nat) : Rat :=
  if t < c.start then q32 c.v0
  else match c.legs.find? fun l => decide (t ≤ c.start + l.t0 + l.dur) with
    | some l => l.speed (t - c.start - l.t0)
    | none => 0

/-- Whether a primary candidate is compatible with the cocoon in force: it ends at standstill no later than the cocoon
ends. With no cocoon in force the speed, linear in each leg, is 0 throughout. DEDUCED (log 56). -/
def compatible (g : Geom) (c : Traj) (force : Option Traj) : Bool :=
  let ss := c.samples g
  match force with
  | none => c.legs.all fun l => l.v0 == 0 && l.speed l.dur == 0
  | some k =>
    ss.all (fun s => decide (s.v ≤ k.speedAt (c.start + s.t) + 1 / 10)) &&
    (match ss.getLast? with
      | some s => s.v == 0
      | none => false) &&
    decide (c.start + c.durNs ≤ k.start + k.durNs)

/-! ## Swept boxes (R270, R271) -/

/-- A closed box by its corners. -/
structure Box where
  lo : List Rat
  hi : List Rat
  deriving DecidableEq, Repr

/-- Whether two boxes share a point. -/
def Box.shares (a b : Box) : Bool :=
  ((a.lo.zip b.hi).all fun e => decide (e.1 ≤ e.2)) && ((b.lo.zip a.hi).all fun e => decide (e.1 ≤ e.2))

/-- The swept box of a segment with the layers its samples use: the box around what every sample queries, its disc
centres over the footprint's height, widened by the largest radius on every axis. DEDUCED (log 55). -/
def Dev.swept (d : Dev) (g : Geom) (c : Traj) (leg : Nat) : Option (Box × List Nat) :=
  let ss := (c.samples g).filter (·.leg = leg)
  let rs := ss.flatMap fun s => d.regionsAt g c s.s
  match rs with
  | [] => none
  | r :: t =>
    let big := rs.foldl (fun m x => max m x.r) 0
    let lo (f : Region → Rat) : Rat := t.foldl (fun m x => min m (f x)) (f r)
    let hi (f : Region → Rat) : Rat := t.foldl (fun m x => max m (f x)) (f r)
    some (⟨[lo (·.cx) - big, lo (·.cy) - big, lo (·.lo) - big],
        [hi (·.cx) + big, hi (·.cy) + big, hi (·.hi) + big]⟩,
      (ss.map fun s => g.layer (c.start + s.t)).eraseDups)

/-- Change box `i` of the newest generation with its layer mask (R271). -/
def Dev.changeBox (d : Dev) (i : Nat) : Box × Nat :=
  let a := d.mapBuf d.pl.buf + 0x100 + 32 * i
  let v (k : Nat) : Rat := q32 (d.plN (a + 4 * k) 4)
  (⟨[v 0, v 1, v 2], [v 3, v 4, v 5]⟩, d.plN (a + 24) 2)

/-- Whether a candidate intersects the change of the newest generation (R270). -/
def Dev.intersects (d : Dev) (c : Traj) : Bool :=
  let g := d.geom d.pl.buf
  (List.range c.segs.length).any fun i =>
    match d.swept g c i with
    | none => false
    | some (b, lays) => (List.range d.pl.boxes).any fun k =>
        let x := d.changeBox k
        b.shares x.1 && lays.any fun l => bit x.2 l

/-! ## Eyespots (R272) -/

/-- An entry of the eyespot table of a buffer: indices, layer, expected verdict, reserved bytes. -/
def Dev.eyespot (d : Dev) (buf i : Nat) : (Nat × Nat × Nat) × Nat × Nat × Nat :=
  let a := d.mapBuf buf + 0x2100 + 16 * i
  ((d.plN a 2, d.plN (a + 2) 2, d.plN (a + 4) 2), d.plN (a + 6) 1, d.plN (a + 7) 1, d.plN (a + 8) 8)

/-- OCC and UNK of a leaf voxel in a layer (R257), by its indices from the node of its cube down; none where a node
cannot be read or is malformed. -/
def Dev.voxel (d : Dev) (buf lay : Nat) (i : Nat × Nat × Nat) : (fuel : Nat) → (node : Nat) → Option (Bool × Bool)
  | fuel, n =>
    let a := d.mapBuf buf + 0x4000 + 8 * n
    if d.allowed 722 d.mapPart a 8 false = false ∨ d.poisoned a = true then none
    else
      let w := d.rdN a 8
      let child := bits w 32 8
      let first := bits w 40 24
      match fuel with
      | 0 => some (bit w lay, bit w (16 + lay))
      | f + 1 =>
        let o := b2n (bit i.1 f) + 2 * b2n (bit i.2.1 f) + 4 * b2n (bit i.2.2 f)
        if child = 0 then some (bit w lay, bit w (16 + lay))
        else if first ≤ n ∨ d.plN (d.mapBuf buf + 4) 4 < first + octsBelow child 8 then none
        else if bit child o then d.voxel buf lay i f (first + octsBelow child o)
        else some (false, false)

/-- Whether an eyespot names a voxel of its verdict (R272): occupied for COLLIDING, free and known for FREE. A voxel
that cannot be read is left to the eyespot's run. DEDUCED (log 55). -/
def Dev.eyeNames (d : Dev) (buf : Nat) (e : (Nat × Nat × Nat) × Nat × Nat × Nat) : Bool :=
  match d.voxel buf e.2.1 e.1 (d.geom buf).depth 0 with
  | some (occ, unk) => if e.2.2.1 = 2 then occ else !occ && !unk
  | none => true

/-- The rule of R272: 16 entries of each expected verdict, indices within the root cube, a layer of the map, reserved
bytes 0, and voxels of the expected verdicts. -/
def Dev.eyeTableOk (d : Dev) (buf : Nat) : Bool :=
  let g := d.geom buf
  let es := (List.range 32).map (d.eyespot buf)
  es.all (d.eyeNames buf) &&
  (es.all fun e => decide (e.1.1 < 2 ^ g.depth) && decide (e.1.2.1 < 2 ^ g.depth) &&
    decide (e.1.2.2 < 2 ^ g.depth) && decide (e.2.1 < g.layers) && e.2.2.2 == 0) &&
  (es.filter (·.2.2.1 = 1)).length == 16 && (es.filter (·.2.2.1 = 2)).length == 16

/-- What the probe of eyespot `i` finds. -/
def Dev.probe (d : Dev) (buf i : Nat) : Found :=
  let g := d.geom buf
  let e := d.eyespot buf i
  let o := (d.root buf g).1
  let c (b : Rat) (n : Nat) : Rat := b + ((n : Rat) + 1 / 2) * g.leaf
  let z := c o.2.2 e.1.2.2
  d.query buf g e.2.1 ⟨c o.1 e.1.1, c o.2.1 e.1.2.1, g.leaf / 4, z - g.leaf / 4, z + g.leaf / 4⟩

end Sys2Proof.Machine
end

