-- ==== Sys2Proof/Machine/Planner.lean ====
section
/-! DEFINITION. The collision engine's work and the output gate (R254 to R282): map and set commits,
checks in their order, delta scans, eyespots, the choice, the cutoff and the release. -/

namespace Sys2Proof.Machine

/-- Change the planner. -/
def Dev.modPl (d : Dev) (f : Planner → Planner) : Dev := { d with pl := f d.pl }
/-- Checking state of a slot. -/
def Dev.cand (d : Dev) (i : Nat) : Cand := tget (fun _ => {}) d.pl.cands i
/-- Change the checking state of a slot. -/
def Dev.modCand (d : Dev) (i : Nat) (f : Cand → Cand) : Dev :=
  d.modPl fun p => { p with cands := tmod (fun _ => {}) p.cands i f }
/-- Address of the open set's buffer (R264). -/
def Dev.setBuf (d : Dev) : Nat := hubBase + d.fld R.plSetBase 6 19 * 64 + d.pl.frame % 2 * 0x110000
/-- The candidate in a slot of the open set. -/
def Dev.candidate (d : Dev) (i : Nat) : Traj := trajOf (d.rdBytes (d.setBuf + 256 * i) 256)
/-- Slots filled. -/
def Dev.slots (d : Dev) : List Nat := List.range d.pl.count
/-- The planner's mailbox. -/
def Dev.plMail (d : Dev) : Nat := hubBase + d.fld R.plMbox 6 19 * 64
/-- A planner event (R282). -/
def Dev.evPl (d : Dev) (cls code : Nat) (detail : List Nat) : Dev := d.evHub cls code detail 0x22
/-- The cocoon in force for the gate (R276). -/
def Dev.inForce (d : Dev) : Option Traj := if d.pl.cocoon = [] then none else some (trajOf d.pl.cocoon)

/-- Write a slot's result entry (R266). -/
def Dev.writeResult (d : Dev) (i : Nat) : Dev :=
  let c := d.cand i
  (d.fuWrite 722 d.mapPart (d.setBuf + 0x100000 + 16 * i)
    (toLE 1 (c.verdict + 4 * c.reason) ++ toLE 1 (b2n c.compat + 2 * b2n c.recheck) ++ toLE 2 c.stamp ++
      toLE 4 c.hit ++ toLE 2 c.checks ++ toLE 6 0)).1

/-! ## The order of costs (R267, R277) -/

/-- A natural number in the order of FP32 values; both zeros are equal. DEDUCED (log 54). -/
def costKey (v : Nat) : Nat :=
  if v % 2 ^ 31 = 0 then 2 ^ 31 else if bit v 31 then 2 ^ 32 - 1 - v else v + 2 ^ 31

/-- Slots in ascending COST, ties by the lower slot. -/
def Dev.byCost (d : Dev) (l : List Nat) : List Nat := sortBy (fun i => costKey (d.candidate i).cost) l

/-! ## The choice (R277 to R279) -/

/-- Whether the newest generation is faulty (R260). -/
def Dev.faultyMap (d : Dev) : Bool := d.pl.faults.contains d.pl.newest

/-- Verdict FREE and current; none is FREE against a faulty generation (R260, R269). -/
def Dev.isCurrent (d : Dev) (i : Nat) : Bool :=
  (d.cand i).verdict == 1 && (d.cand i).stamp == d.pl.newest && d.pl.valid && !d.faultyMap

/-- Children of a primary that satisfy `p`, best first. -/
def Dev.children (d : Dev) (i : Nat) (p : Nat → Bool) : List Nat :=
  d.byCost (d.slots.filter fun k => (d.candidate k).cocoon && (d.candidate k).parent == i && p k)

/-- The map header's flags and STEP of the newest generation. -/
def Dev.mapInstar (d : Dev) : Bool := d.pl.valid && bit (d.plN (d.mapBuf d.pl.buf + 2) 2) 0
/-- See `mapInstar`. -/
def Dev.mapStep (d : Dev) : Nat := d.plN (d.mapBuf d.pl.buf + 32) 1

/-- Compatibility is required (R279). -/
def Dev.compatReq (d : Dev) : Bool := d.mapInstar || d.chA.playout || d.chB.playout || d.pl.playedOut

/-- A candidate that meets every condition of R277. -/
def Dev.canChoose (d : Dev) (i : Nat) : Bool :=
  !(d.candidate i).cocoon && d.isCurrent i && !(d.children i d.isCurrent).isEmpty &&
  (!d.compatReq || compatible (d.geom d.pl.buf) (d.candidate i) d.inForce)

/-- The best candidate now. DEDUCED (log 56). -/
def Dev.best (d : Dev) : Option Nat := (d.byCost (d.slots.filter d.canChoose)).head?

/-- A recheck of the slot is due or runs. -/
def Dev.rechecking (d : Dev) (i : Nat) : Bool :=
  (d.cand i).due == 2 || d.pl.lanes.any fun l => l.slot == i

/-- The gate evaluates its choice; a choice whose recheck is pending is kept. -/
def Dev.rechoose (d : Dev) : Dev :=
  if d.pl.selected = false ∨ d.pl.closed = true then d
  else match d.pl.choice with
    | some c => if (d.cand c).verdict = 1 ∧ d.rechecking c = true then d
        else d.modPl fun p => { p with choice := d.best }
    | none => d.modPl fun p => { p with choice := d.best }

/-- Send a slot that is not current to the recheck queue. -/
def Dev.recheckNow (d : Dev) (i : Nat) : Dev :=
  if d.isCurrent i ∨ d.rechecking i = true then d
  else d.modCand i fun c => { c with due := 2, recheck := true }

/-- The best FREE primary that is not current and its best FREE child go to the head of the recheck
queue (R277); the primary is the one to take next. -/
def Dev.headRechecks (d : Dev) : Dev :=
  let free (i : Nat) : Bool := (d.cand i).verdict == 1
  match (d.byCost (d.slots.filter fun i => !(d.candidate i).cocoon && free i && !d.isCurrent i)).head? with
  | none => d.modPl fun q => { q with heir := none }
  | some p =>
    let l := p :: (d.children p free).take 1
    (l.foldl Dev.recheckNow d).modPl fun q => { q with head := l, heir := some p }

/-! ## Work order (R267, R275) -/

/-- A cocoon candidate whose parent has no verdict yet waits. -/
def Dev.waits (d : Dev) (i : Nat) : Bool :=
  let c := d.candidate i
  c.cocoon && decide (c.parent < d.pl.count) && !(d.candidate c.parent).cocoon &&
    (d.cand c.parent).verdict == 0

/-- The next candidate a lane takes. -/
def Dev.nextCheck (d : Dev) : Option Nat :=
  let order (l : List Nat) : List Nat := if d.pl.selected then d.byCost l else l
  let due (k : Nat) : List Nat := d.slots.filter fun i => (d.cand i).due == k
  (d.pl.head.find? fun i => (d.cand i).due == 2) <|> (order (due 2)).head? <|>
    (order ((due 1).filter fun i => !d.waits i)).head?

/-- Free lanes take work: each check runs against the generation that is newest at its start (R269).
DEDUCED (log 55). -/
def Dev.fillLanes (d : Dev) : Dev :=
  (List.range 16).foldl (fun (d : Dev) _ =>
    if d.pl.valid = false ∨ d.pl.closed = true ∨ 16 ≤ d.pl.lanes.length then d
    else match d.nextCheck with
      | none => d
      | some i => (d.modCand i fun c => { c with due := 0 }).modPl fun p =>
          { p with lanes := p.lanes ++ [⟨i, p.newest, p.buf⟩], head := p.head.filter (· ≠ i) }) d

/-! ## Delta scan (R270) -/

/-- Send a candidate to the recheck queue, counted. -/
def Dev.deltaCheck (d : Dev) (i : Nat) : Dev :=
  (d.modCand i fun c => { c with due := 2, recheck := true }).bump R.plDelta

/-- The test of R270 for a candidate with a verdict against an earlier generation. -/
def Dev.deltaTest (d : Dev) (i : Nat) : Dev :=
  if d.pl.allBox = true ∨ ((d.cand i).stamp + 1) % 65536 ≠ d.pl.newest ∨ d.intersects (d.candidate i) = true then
    d.deltaCheck i
  else (d.modCand i fun c => { c with stamp := d.pl.newest }).writeResult i

/-- The scan of the open set after a generation has been accepted. DEDUCED (log 55). -/
def Dev.deltaScan (d : Dev) : Dev :=
  d.slots.foldl (fun d i =>
    let c := d.cand i
    if c.verdict = 0 ∨ c.due ≠ 0 ∨ d.pl.lanes.any (fun l => l.slot == i) = true then d else d.deltaTest i) d

/-! ## Eyespots (R272 to R274) -/

/-- No candidate is FREE against a faulty generation (R260): its FREE verdicts become COLLIDING. DEDUCED (log 55). -/
def Dev.unfree (d : Dev) (gen : Nat) : Dev :=
  (d.slots.filter fun i => (d.cand i).verdict == 1 && (d.cand i).stamp == gen).foldl (fun (d : Dev) i =>
    (d.modCand i fun c => { c with verdict := 2 }).writeResult i) d

/-- A malformed node makes its generation faulty (R260). -/
def Dev.badNode (d : Dev) (gen node : Nat) : Dev :=
  if d.pl.faults.contains gen then d
  else ((d.modPl fun p => { p with faults := gen :: p.faults }).unfree gen).evPl 2 0x6002 [gen, node]

/-- Run the 32 eyespots of the newest generation; whether every verdict is right. A wrong one is held for the frame's
cutoff, also if another generation becomes newest before it (R274). DEDUCED (log 55). -/
def Dev.runEyes (d : Dev) : Dev × Bool :=
  (List.range 32).foldl (fun (acc : Dev × Bool) i =>
    let f := acc.1.probe acc.1.pl.buf i
    let found := if f.clear then 1 else 2
    let d := match f.bad with
      | some n => acc.1.badNode acc.1.pl.newest n
      | none => acc.1
    let d := match f.deny with
      | some a => d.denyN 722 d.mapPart a 8 false
      | none => d
    if found = (d.eyespot d.pl.buf i).2.2.1 then (d, acc.2)
    else (((d.modPl fun p => { p with eyeWrong := true }).evPl 2 0x6020 [d.pl.newest, i, found]).bump
      R.plEyeFail, false)) (d, true)

/-- The eyespot run at a control-frame tick for the newest generation. -/
def Dev.tickEyes (d : Dev) : Dev :=
  let d := d.modPl fun p => { p with eyeWrong := false }
  if d.pl.valid then
    let (d, ok) := d.runEyes
    d.modPl fun p => { p with eyeTick := ok }
  else d.modPl fun p => { p with eyeTick := false }

/-! ## MAP_COMMIT (R259) -/

/-- The reason for which a map commit is refused, 0 if it is accepted. DEDUCED (log 55). -/
def Dev.mapReason (d : Dev) (w : Nat) : Nat :=
  let gen := bits w 0 16
  let buf := bits w 26 2
  if d.pl.valid ∧ gen ≠ (d.pl.newest + 1) % 65536 then 1
  else if buf ≠ d.pl.freeBuf then 2
  else if d.plN (d.mapBuf buf) 2 ≠ gen then 3
  else if bits w 28 36 ≠ 0 ∨ 256 < bits w 16 9 then 4
  else if d.eyeTableOk buf = false then 5
  else if d.poisoned d.plMail then 6
  else if d.pl.lastW = some d.wb then 7
  else 0

/-- ORIGIN of a buffer. -/
def Dev.origin (d : Dev) (buf : Nat) : Nat := d.plN (d.mapBuf buf + 16) 12

/-- The engine's reads of a commit: its mailbox word, and the header, the change boxes and the eyespot table of the
buffer; the refused ones are recorded (R26, R181). DEDUCED (log 55). -/
def Dev.mapReads (d : Dev) (w : Nat) : Dev :=
  let a := d.mapBuf (bits w 26 2)
  let rd (d : Dev) (x : Nat × Nat) : Dev := if x.2 = 0 then d else d.denyN 722 d.mapPart x.1 x.2 false
  [(d.plMail, 8), (a, 256), (a + 0x100, 32 * min 256 (bits w 16 9)), (a + 0x2100, 512)].foldl rd d

/-- Acceptance of a generation. -/
def Dev.acceptMap (d : Dev) (w : Nat) : Dev :=
  let p := d.pl
  let buf := bits w 26 2
  let d := d.modPl fun p => { p with
    newest := bits w 0 16, buf := buf, lastW := some d.wb, boxes := bits w 16 9, valid := true
    faults := p.faults.filter (· ≠ bits w 0 16)
    allBox := bit w 25 || !p.valid || d.origin buf != d.origin p.buf
    prevBuf := if p.valid then some p.buf else none
    freeBuf := if p.valid then 3 - buf - p.buf else (buf + 1) % 3 }
  let (d, ok) := d.runEyes
  let d := d.modPl fun p => { p with eyeAcc := ok }
  let d := if p.opened ∧ p.closed = false then d.deltaScan else d
  d.fillLanes.rechoose

/-- MAP_COMMIT: the engine takes the word in the map mailbox. -/
def execMapCommit (s : State) : Res :=
  onDevIf (fun d => d.live)
    (fun d =>
      let w := d.plN d.plMail 8
      let d := d.mapReads w
      match d.mapReason w with
      | 0 => d.acceptMap w
      | r => d.evPl 2 0x6001 [bits w 0 16, r]) s

/-! ## SET_COMMIT (R264) -/

/-- At the tick of frame `f` its set opens: every result entry PENDING, COUNT 0; the random-number
generator reseeds the LFSR. -/
def Dev.openSet (d : Dev) (f : Nat) : Dev :=
  let (x, d) := d.fresh
  let d := d.modPl fun p => { p with
    frame := f, opened := true, closed := false, count := 0, cands := [], lanes := [], head := []
    selected := false, choice := none, heir := none, lfsr := x % 65535 + 1 }
  if d.allowed 722 d.mapPart (d.setBuf + 0x100000) 0x10000 true then d.zero (d.setBuf + 0x100000) 0x10000
  else d.denyN 722 d.mapPart (d.setBuf + 0x100000) 0x10000 true

/-- The reason for which a set commit is refused. -/
def Dev.setReason (d : Dev) (w : Nat) : Nat :=
  if d.pl.opened = false ∨ d.pl.closed = true ∨ bits w 16 32 ≠ d.pl.frame % 2 ^ 32 then 1
  else if bits w 0 13 < d.pl.count ∨ 4096 < bits w 0 13 then 2
  else if bits w 13 3 ≠ 0 ∨ bits w 48 16 ≠ 0 then 3
  else if d.poisoned (d.plMail + 0x40) then 4
  else 0

/-- SET_COMMIT: the engine takes the word in the set mailbox. -/
def execSetCommit (s : State) : Res :=
  onDevIf (fun d => d.live)
    (fun d =>
      let w := d.plN (d.plMail + 0x40) 8
      let d := d.denyN 722 d.mapPart (d.plMail + 0x40) 8 false
      match d.setReason w with
      | 0 =>
        let n := bits w 0 13
        let new := (List.range (n - d.pl.count)).map (d.pl.count + ·)
        let d := new.foldl (fun d i => d.modCand i fun _ => { due := 1 }) d
        (d.modPl fun p => { p with count := n }).fillLanes
      | r => d.evPl 2 0x6010 [bits w 16 32, bits w 0 13, r]) s

/-! ## CANDIDATE_CHECK_DONE (R262 to R270) -/

/-- The verdict of a check: verdict, reason, hit time, malformed node, address and length of a read that the firewall
refused. DEDUCED (log 55). -/
def Dev.verdict (d : Dev) (l : InCheck) : Nat × Nat × Nat × Option Nat × Option (Nat × Nat) :=
  let c := d.candidate l.slot
  let g := d.geom l.buf
  let a := d.setBuf + 256 * l.slot
  let shut := !d.allowed 722 d.mapPart a 256 false
  let poison := d.anyPoison a 256 || shut
  let parent := if c.cocoon ∧ c.parent < d.pl.count then some (d.candidate c.parent) else none
  match d.reason d.pl.frame c g poison parent with
  | 0 => match d.collide l.buf g c with
    | none => (if d.pl.faults.contains l.gen then 2 else 1, 0, 0xFFFFFFFF, none, none)
    | some (s, f) => if f.poison then (3, 12, 0xFFFFFFFF, none, f.deny.map (·, 8))
        else (2, 0, s.t / 1000000, f.bad, none)
  | r => (3, r, 0xFFFFFFFF, none, if shut then some (a, 256) else none)

/-- The choice, or the primary at the head of the recheck queue, fails its recheck and gives way to the next candidate
in order (R277). DEDUCED (log 56). -/
def Dev.choiceFailed (d : Dev) (slot : Nat) : Dev :=
  let d := (d.modPl fun p => { p with choice := p.choice.filter (· ≠ slot) }).headRechecks.rechoose
  (d.bump R.plRevalFail).evPl 0 0x6031 [d.pl.frame, slot, (d.pl.choice <|> d.pl.heir).getD 0xFFFF]

/-- Record a verdict for a slot. -/
def Dev.recordVerdict (d : Dev) (l : InCheck) (v r hit : Nat) : Dev :=
  let compat := v != 3 && !(d.candidate l.slot).cocoon &&
    compatible (d.geom l.buf) (d.candidate l.slot) d.inForce
  let d := d.modCand l.slot fun c => { c with
    verdict := v, reason := r, hit := hit, stamp := l.gen, compat := compat, checks := c.checks + 1 }
  let d := d.bump R.plChecks
  let d := if v = 3 then d.bump R.plInfeasible else d
  d.writeResult l.slot

/-- A generation accepted during the check puts the candidate through the test of R270. -/
def Dev.lateTest (d : Dev) (l : InCheck) : Dev :=
  if l.gen = d.pl.newest then d else d.deltaTest l.slot

/-- A choice, or a primary that is next, with another verdict than FREE gives way; one that passes is next no more. -/
def Dev.checkChoice (d : Dev) (slot v : Nat) : Dev :=
  if d.pl.selected = true ∧ (d.pl.choice = some slot ∨ d.pl.heir = some slot) ∧ v ≠ 1 then d.choiceFailed slot
  else d.modPl fun p => { p with heir := p.heir.filter (· ≠ slot) }

/-- A lane ends its check with a verdict, a reason, a hit time, a malformed node and a refused read (R181). -/
def Dev.giveVerdict (d : Dev) (l : InCheck) (x : Nat × Nat × Nat × Option Nat × Option (Nat × Nat)) : Dev :=
  let e := match x.2.2.2.1 with
    | some n => d.badNode l.gen n
    | none => d
  let e := match x.2.2.2.2 with
    | some (a, n) => e.denyN 722 e.mapPart a n false
    | none => e
  ((e.recordVerdict l x.1 x.2.1 x.2.2.1).lateTest l).checkChoice l.slot x.1

/-- A lane ends its check. DEDUCED (log 55). -/
def Dev.finishCheck (d : Dev) (l : InCheck) : Dev := d.giveVerdict l (d.verdict l)

/-- CANDIDATE_CHECK_DONE: the lane that has run longest gives its verdict. -/
def execCandidateCheckDone (s : State) : Res :=
  onDevIf (fun d => d.live && d.pl.opened && !d.pl.closed)
    (fun d => match d.pl.lanes with
      | [] => d
      | l :: rest => ((d.modPl fun p => { p with lanes := rest }).finishCheck l).fillLanes.rechoose) s

/-! ## SELECTION_INSTANT (R277) -/

/-- SELECTION_INSTANT. -/
def execSelectionInstant (s : State) : Res :=
  onDevIf (fun d => d.live && d.pl.opened && !d.pl.closed && !d.pl.selected &&
      decide ((d.pl.frame * d.lc + d.fld R.plGateCfg 0 8) * wingbeatNs ≤ d.time.now))
    (fun d => (d.modPl fun p => { p with selected := true }).headRechecks.fillLanes.rechoose) s

/-! ## GATE_CUTOFF (R278, R279) -/

/-- The causes of R279 that hold. DEDUCED (log 56). -/
def Dev.gateCauses (d : Dev) : List Nat :=
  let f := d.pl.frame
  let failed := d.pl.failed.any fun e =>
    (e / 2 ^ 40 == d.mapPart || e / 2 ^ 40 == d.planPart) &&
      (e % 2 ^ 40 == f || e % 2 ^ 40 + 1 == f)
  [(1, !d.chip.primaryEn || d.chA.inhibit || d.chB.inhibit), (2, !(d.pl.eyeTick && d.pl.eyeAcc) || d.pl.eyeWrong),
   (3, !d.pl.valid || d.faultyMap), (4, d.pl.valid && d.mapStep == 3), (5, failed), (6, d.best.isNone)].filterMap
    fun e => if e.2 then some e.1 else none

/-- The report of a cutoff reaches an island that is not in reset (R314). -/
def Island.report (i : Island) (f cause gen stp : Nat) (cocoon : List Byte) : Island :=
  if i.state = .reset then i
  else { i with
    prevRep := i.repFrame.map fun g => (g, i.repCause), repFrame := some f, repCause := cause, repGen := gen, repStep := stp, repCocoon := cocoon }

/-- The frame report to both islands. -/
def Dev.reportFrame (d : Dev) (f cause mask gen : Nat) (cocoon : List Byte) : Dev :=
  let d := d.emit (.frameReport f cause mask gen)
  { d with chA := d.chA.report f cause gen d.mapStep cocoon
           chB := d.chB.report f cause gen d.mapStep cocoon }

/-- The eyespot condition of the frame; three failures in a row request the safe state (R274). DEDUCED (log 56). -/
def Dev.eyeCount (d : Dev) : Dev :=
  let ok := d.pl.eyeTick && d.pl.eyeAcc
  let d := d.modPl fun p => { p with
    eyeOk := ok, eyeFails := if ok || !p.valid then 0 else p.eyeFails + 1 }
  if d.pl.eyeFails = 3 then d.evPl 4 0x6021 [d.pl.newest, d.pl.frame] else d

/-- PRIMARY_WITHHOLD (R279). -/
def Dev.withhold (d : Dev) (first : Nat) (causes : List Nat) : Dev :=
  let f := d.pl.frame
  let mask := causes.foldl (fun m c => m + 2 ^ (c - 1)) 0
  let d := (d.evPl 5 0x6030 [f, first, mask]).bump R.plWithheld
  let d := d.setReg R.plLastOut (2 ^ 12 + first % 8 * 2 ^ 13 + f % 65536 * 65536)
  (d.setReg R.plLastCauses mask).reportFrame f first mask d.pl.newest []

/-- The release of a choice. -/
def Dev.releaseChoice (d : Dev) (c : Nat) : Dev :=
  let f := d.pl.frame
  let slot (i : Nat) : List Byte := d.rdBytes (d.setBuf + 256 * i) 256
  let child := ((d.children c d.isCurrent).head?.map slot).getD []
  let flags := b2n d.mapInstar + 2 * b2n d.compatReq
  let d := d.modPl fun p => { p with
    released := some (f, c, p.newest, flags, d.mapStep), relPrimary := slot c, relCocoon := child }
  let d := (d.setReg R.plLastOut (c % 4096 + f % 65536 * 65536)).setReg R.plLastCauses 0
  d.reportFrame f 0 0 d.pl.newest child

/-- The cutoff of the open set. DEDUCED (log 56). -/
def Dev.cutoff (d : Dev) : Dev :=
  let d := d.eyeCount
  let d := d.bump R.plCutoffPending (d.slots.filter fun i => (d.cand i).verdict = 0).length
  let d := match d.gateCauses, d.best with
    | [], some c => d.releaseChoice c
    | [], none => d
    | first :: t, _ => d.withhold first (first :: t)
  d.modPl fun p => { p with closed := true, lanes := [], head := [], choice := none, heir := none }

/-- GATE_CUTOFF. -/
def execGateCutoff (s : State) : Res :=
  onDevIf (fun d => d.live && d.pl.opened && !d.pl.closed &&
      decide (d.due d.pl.frame - d.fld R.plGateCfg 16 8 * 1000 ≤ d.time.now))
    Dev.cutoff s

/-! ## PRIMARY_RELEASE and TRANSMIT_CONFIRMATION (R280, R314) -/

/-- The 288-byte payload of R280. -/
def payload (frame gen flags step now : Nat) (slot : List Byte) : List Byte :=
  toLE 4 frame ++ toLE 2 gen ++ toLE 1 flags ++ toLE 1 step ++ toLE 8 now ++ toLE 16 0 ++ slot

/-- Actuation ports enabled in PL_ACT_CFG.PORTS. -/
def Dev.actPorts (d : Dev) : List Nat := (List.range 2).filter fun p => bit (d.reg R.plActCfg) (7 + p)

/-- The valid gate-control entries in order: queue open, interval in µs (R281). -/
def Dev.qbv (d : Dev) : List (Bool × Nat) :=
  ((List.range 4).filter fun k => bit (d.reg (R.plQbv k)) 16).map fun k =>
    (bit (d.reg (R.plQbv k)) 0, d.fld (R.plQbv k) 1 15)

/-- Whether a gate control list holds the queue open `u` µs into its cycle. -/
def qbvOpen : List (Bool × Nat) → Nat → Bool
  | [], _ => false
  | (o, n) :: t, u => if u < n then o else qbvOpen t (u - n)

/-- Whether both islands have the cocoon of frame `f` (R276): neither was in reset at its report, nor is now. -/
def Dev.delivered (d : Dev) (f : Nat) : Bool :=
  [d.chA, d.chB].all fun i => i.repFrame == some f && i.state != .reset

/-- PRIMARY_RELEASE: the released primary leaves at due(f), while the gate control list holds the primary queue open
(R281); under a gate inhibit it is dropped. DEDUCED (log 56). -/
def execPrimaryRelease (s : State) : Res :=
  onDevIf (fun d => d.live && qbvOpen d.qbv (d.time.now % (d.lc * wingbeatNs) / 1000) &&
      (match d.pl.released with
      | some r => decide (d.due r.1 ≤ d.time.now)
      | none => false))
    (fun d => match d.pl.released with
      | none => d
      | some (f, _, gen, flags, step) =>
        let drop := d.chA.inhibit || d.chB.inhibit
        let p := d.pl
        let ports := d.actPorts
        let d := d.modPl fun p => { p with released := none, relPrimary := [], relCocoon := [] }
        if drop then d
        else
          let d := ports.foldl (fun d q =>
            d.emit (.primary q f (d.fld R.plActCfg 0 7) (d.fld R.plActCfg 9 12) (d.fld R.plActCfg 21 3)
              (payload f gen flags step d.time.now p.relPrimary))) d
          d.modPl fun q => { q with
            sent := q.sent ++ ports.map fun x => (x, f)
            cocoon := if d.delivered f then p.relCocoon else q.cocoon, playedOut := false }) s

/-- TRANSMIT_CONFIRMATION of an actuation port to both islands. -/
def execTransmitConfirmation (port : Fin 2) (s : State) : Res :=
  onDevIf (fun d => d.pl.sent.any fun e => e.1 == port.val)
    (fun d => match d.pl.sent.find? fun e => e.1 == port.val with
      | none => d
      | some (q, f) =>
        let hear (i : Island) : Island := if i.state = .reset then i else { i with confirmed := f :: i.confirmed.take 7 }
        { (d.modPl fun p => { p with sent := p.sent.erase (q, f) }).emit (.confirmation q f) with
          chA := hear d.chA, chB := hear d.chB }) s

end Sys2Proof.Machine
end

