-- ==== Sys2Proof/Machine/Islands.lean ====
section
/-! DEFINITION. The islands: votes, heartbeats, frame evaluation, playout, the cocoon exchange, the
commit to the safe state, thermal steps, and the periodic self-test (R308 to R336). -/

namespace Sys2Proof.Machine

/-! ## Votes (R313) -/

/-- Causes that are still active: those not yet committed and those whose condition lasts (R323). DEDUCED (log 61). -/
def Dev.stillActive (d : Dev) (i : Isl) (c : Nat) : Bool :=
  let s := d.isl i
  c ∈ s.req || (c == 2 && !s.peerOk) || (c == 4 && !s.wbOk) || (c == 9 && decide (112 * 16 ≤ s.res.tj)) ||
    (c == 10 && d.pwr.tripBit)

/-- Drop the causes that are over. DEDUCED (log 61). -/
def Dev.clearCauses (d : Dev) (i : Isl) : Dev :=
  let keep := (d.isl i).active.filter (d.stillActive i)
  d.modIsl i fun s => { s with active := keep }

/-- The first condition of R313 that an island does not meet, 0 if it votes. DEDUCED (log 60). -/
def Dev.voteBad (d : Dev) (i : Isl) : Nat :=
  let s := d.isl i
  if s.state ≠ .monitoring then 1
  else if s.peerOk = false then 2
  else if (s.injected && (s.peerHb.map (·.injected)).getD false) = false then 3
  else if 3 ≤ s.step then 4
  else if (d.chip.lock && d.chip.sched) = false then 5
  else if s.active ≠ [] then 6
  else 0

/-- An island casts its vote anew; a withdrawn vote disables primary output at once. A cause that has ended while the
island monitors is active no more. DEDUCED (log 60). -/
def Dev.revoteOne (d : Dev) (i : Isl) : Dev :=
  let was := (d.isl i).vote
  let d := if (d.isl i).state = .monitoring then d.clearCauses i else d
  let c := d.voteBad i
  let d := d.modIsl i fun s => { s with vote := c == 0 }
  if was = true ∧ c ≠ 0 then
    ({ d with chip := { d.chip with primaryEn := false } }).evIsl i 5 0x8003 [islNum i, c]
  else d

/-- Both islands cast their votes anew. DEDUCED (log 60). -/
def Dev.revote (d : Dev) : Dev := (d.revoteOne .a).revoteOne .b

/-- A cause of safe state becomes active at an island. -/
def Island.activate (s : Island) (c : Nat) : Island :=
  if c ∈ s.active then s else { s with active := s.active ++ [c] }

/-- A cause that an island finds itself: it requests the safe state, and withdraws its vote at once (R313, R321).
DEDUCED (log 61). -/
def Dev.islReq (d : Dev) (i : Isl) (cause : Nat) : Dev :=
  if (d.isl i).loaded = false ∨ (d.isl i).state = .halted then d
  else ((d.askSafe i cause).modIsl i fun s => s.activate cause).revoteOne i

/-- Both islands end the safe state: outputs released, inhibits cleared (R322 step 7). -/
def Island.release (s : Island) : Island := { s with safeOut := false, inhibit := false }

/-- VOTE_EVALUATION at a control-frame tick: both votes enable primary output. DEDUCED (log 60). -/
def Dev.enableVote (d : Dev) : Dev :=
  let d := d.revote
  if d.chip.primaryEn = false ∧ d.chA.vote = true ∧ d.chB.vote = true then
    let d := { d with
      chip := { d.chip with primaryEn := true, noPrimary := 0, lastTwo := [], safeActive := false }
      chA := d.chA.release, chB := d.chB.release }
    d.evIsl .a 0 0x8002 [d.ctrlFrame]
  else d

/-! ## Safe state (R321 to R323) -/

/-- An island halts: its inhibit stays set and its safe output low. -/
def Island.halt (s : Island) : Island :=
  if s.loaded then { s with state := .halted, inhibit := true, safeOut := true } else s

/-- Both islands halt after two consecutive recoveries without primary output (R323). DEDUCED (log 61). -/
def Dev.halt (d : Dev) : Dev :=
  let two := [d.chip.lastTwo.getD 0 0, d.chip.lastTwo.getD 1 0]
  let d := if d.chA.loaded then d.evIsl .a 4 0x8060 two else d
  let d := if d.chB.loaded then d.evIsl .b 4 0x8060 two else d
  ({ d with chA := d.chA.halt, chB := d.chB.halt, chip := { d.chip with phase := .halted } }).revote

/-- Whether the recovery from the safe state in force has ended and the schedule runs (R322 steps 6 and 7). -/
def Dev.resumed (d : Dev) : Bool :=
  d.chip.safeActive && d.chip.resetDone && !d.chip.computeReset && d.chip.phase == .running

/-- Residue handling in progress on every block is abandoned as the chip acts: the lower records come first (R18). -/
def Dev.lowerFirst (d : Dev) : Dev :=
  ((d.blocks.filter fun e => e.2.beats != []).map (·.1)).foldl (fun (d : Dev) b => d.dropBeats b) d

/-- An island commits to the safe state: inhibit, safe output, request to the peer, record naming the
requesting island (R322). DEDUCED (log 61). -/
def Dev.commitSafe (d : Dev) (i : Isl) (cause who : Nat) : Dev :=
  let d := d.lowerFirst.evIsl i 4 0x8001 [cause, who, d.ctrlFrame]
  let d := (d.modIsl i fun s => { s with
    state := .safe, inhibit := true, safeOut := true, lastCause := cause
    entries := min 0xFFFF (s.entries + 1), lifeDue := true }).emit (.safeReq i cause)
  let d := d.modIsl (islPeer i) fun s => if s.loaded then { s with peerReq := some cause } else s
  let d := if d.chip.safeActive = true ∧ d.resumed = false then d
    else { d with chip := { d.chip with safeActive := true, safeAt := d.time.now, resetDone := d.chip.computeReset } }
  if 2 ≤ d.chip.noPrimary then d.halt else d.revote

/-- Whether a commit begins a safe state; in the safe state and its recovery a request is recorded. -/
def Island.running (s : Island) : Bool := s.state == .monitoring || s.state == .starting

/-- SAFE_STATE_COMMIT: an island commits the oldest cause it has found itself, or records it (R323).
DEDUCED (log 61). -/
def execSafeStateCommit (i : Isl) (s : State) : Res :=
  onDev (fun d => match (d.isl i).req with
    | [] => d
    | c :: rest =>
      let d := d.modIsl i fun s => { s with req := rest }
      if (d.isl i).state = .halted then d
      else
        let d := d.modIsl i fun s => s.activate c
        if (d.isl i).running then d.commitSafe i c (islNum i)
        else d.evIsl i 4 0x8001 [c, islNum i, d.ctrlFrame]) s

/-- SAFE_STATE_REQUEST_RECEIVED: the peer commits on a request over the island link; one that has found
the cause itself commits on its own detection. DEDUCED (log 61). -/
def execSafeStateRequestReceived (i : Isl) (s : State) : Res :=
  onDev (fun d => match (d.isl i).peerReq with
    | none => d
    | some c =>
      let d := d.modIsl i fun s => { s with peerReq := none }
      if (d.isl i).running ∧ c ∉ (d.isl i).req then d.commitSafe i c (islNum (islPeer i)) else d) s

/-! ## Thermal steps (R330, R332) -/

/-- The step that sheds load: the higher of the two islands' shed commands, which are ORed (R308).
DEDUCED (log 62). -/
def Dev.shedStep (d : Dev) : Nat := max d.chA.step d.chB.step

/-- Step 1 begins: every dynamic partition is shed (R330). DEDUCED (log 62). -/
def Dev.shedAll (d : Dev) : Dev :=
  (List.range 64).foldl (fun d p =>
    let x := d.part p
    if x.declared = true ∧ x.static = false ∧ x.shed = false then
      (d.modPart p fun x => { x with shed := true }).disStart (.partition (Fin.ofNat 64 p))
        (bit (d.reg (R.qmPctl p)) 1) false true
    else d) d

/-- Step 1 ends: admission resumes, and a write of EN made meanwhile takes effect. DEDUCED (log 62). -/
def Dev.unshedAll (d : Dev) : Dev :=
  (List.range 64).foldl (fun d p =>
    let x := d.part p
    if x.shed then
      let en := bit (d.reg (R.qmPctl p)) 0
      let d := d.modPart p fun x => { x with shed := false }
      if en = true ∧ x.off = 3 then d.modPart p fun x => { x with off := 1 }
      else if en = false ∧ x.off = 1 then
        (d.modPart p fun x => { x with off := 2 }).disStart (.partition (Fin.ofNat 64 p))
          (bit (d.reg (R.qmPctl p)) 1)
      else d
    else d) d

/-- The load follows the step: step 1 at once; step 2 from the next control-frame tick
(`Dev.reduceTick`). -/
def Dev.shedLoad (d : Dev) (old : Nat) : Dev :=
  let new := d.shedStep
  if old = 0 ∧ 1 ≤ new then d.shedAll else if 1 ≤ old ∧ new = 0 then d.unshedAll else d

/-- Step 2 reduces a static partition: its items in flight are aborted at once, or drain to the drain limit, as the
image's mode for the partition says (R151, R153, R330). -/
def Dev.reducePart (d : Dev) (p : Nat) : Dev :=
  (d.modPart p fun x => { x with reduced := true }).disStart (.partition (Fin.ofNat 64 p)) (d.part p).shedAbort false true

/-- The reduction of a static partition ends, and with it the drain of what it had in flight. DEDUCED (log 62). -/
def Dev.unreducePart (d : Dev) (p : Nat) : Dev :=
  let d := d.modPart p fun x => { x with reduced := false }
  { d with qm := { d.qm with disabling := d.qm.disabling.filter fun e => e.obj != .partition (Fin.ofNat 64 p) } }

/-- At a control-frame tick the non-safety static partitions follow step 2. DEDUCED (log 62). -/
def Dev.reduceTick (d : Dev) : Dev :=
  let on : Bool := decide (2 ≤ d.shedStep)
  (List.range 64).foldl (fun d p =>
    let x := d.part p
    if x.declared = false ∨ x.static = false ∨ x.safety = true ∨ x.reduced = on then d
    else if on then d.reducePart p else d.unreducePart p) d

/-- Readings that a step record carries: Tj, Q in 0.05 L/min, S in mK/s. DEDUCED (log 62). -/
def Island.stepDetail (s : Island) : List Nat :=
  [unsigned 16 s.res.tj, s.flow, unsigned 16 (s.slope * 1000).floor]

/-- The step in force of an island follows its own and its peer's (R332). DEDUCED (log 62). -/
def Dev.stepEval (d : Dev) (i : Isl) : Dev :=
  let s := d.isl i
  let old := s.step
  let new := max s.ownStep ((s.peerHb.map (·.therm.val)).getD 0)
  if new = old then d
  else
    let shed := d.shedStep
    let d := d.modIsl i fun s => { s with step := new }
    let d := if old < new then d.evIsl i 5 0x8050 ([old, new] ++ s.stepDetail)
      else d.evIsl i 0 0x8051 [old, new]
    let d := if 3 ≤ new ∧ old < 3 then d.islReq i 9 else d
    (d.shedLoad shed).revoteOne i

/-! ## Playout and the cocoon (R315 to R320) -/

/-- The frame whose control frame runs. -/
def Dev.nowFrame (d : Dev) : Nat := d.ctrlFrame

/-- Playout starts. DEDUCED (log 63). -/
def Dev.playStart (d : Dev) (i : Isl) (f reason : Nat) : Dev :=
  if (d.isl i).playout then d
  else (d.modIsl i fun s => { s with playout := true }).evIsl i 5 0x8010 [f, reason]

/-- Playout ends; the next frame released must be compatible (R279). DEDUCED (log 63). -/
def Dev.playEnd (d : Dev) (i : Isl) (f : Nat) : Dev :=
  if (d.isl i).playout = false then d
  else
    let run := (d.isl i).run
    ((d.modIsl i fun s => { s with playout := false, run := 0, runOut := 0 }).modPl fun p =>
      { p with playedOut := true }).evIsl i 0 0x8011 [f, run]

/-- A cocoon becomes the cocoon in force. -/
def Island.take (s : Island) (f gen stp : Nat) (c : List Byte) : Island :=
  { s with cocoonF := f, cocoonGen := gen, cocoonStep := stp, cocoon := c
           cocoonCrc := Config.crc32 c % 2 ^ 32, expired := false }

/-- Whether the cocoon in force has ended (R318). -/
def Island.ended (s : Island) (now : Nat) : Bool :=
  !s.cocoon.isEmpty && decide ((trajOf s.cocoon).start + (trajOf s.cocoon).durNs < now)

/-- An island that evaluates frames: in service, in the safe state, or halted with its playout. -/
def Island.judges (s : Island) : Bool :=
  s.loaded && (s.state == .monitoring || s.state == .safe || s.state == .halted || s.playout)

/-- An island that works outside the safe state (R317): in service, with no safe state in force. DEDUCED (log 63). -/
def Dev.outside (d : Dev) (i : Isl) : Bool := (d.isl i).state == .monitoring && !d.chip.safeActive

/-- The frame counts of R317 after an evaluation; the limit requests the safe state. DEDUCED (log 63). -/
def Dev.playCount (d : Dev) (i : Isl) : Dev :=
  let s := d.isl i
  if s.playout = false then d
  else
    let out := if d.outside i then s.runOut + 1 else 0
    let d := d.modIsl i fun s => { s with run := min 0xFFFF (s.run + 1), runOut := out }
    if d.outside i ∧ out = (d.chip.image.map (·.island.playoutLimit)).getD 100 then d.islReq i 1 else d

/-- Playout starts for a missing report after the frame's evaluation (R315): the frame is played, and counts (R317). -/
def Dev.playLate (d : Dev) (i : Isl) (f : Nat) : Dev :=
  if (d.isl i).playout then d else (d.playStart i f 3).playCount i

/-- A frame report that fails its check is discarded: the last report is the one before it (R309). -/
def Island.discard (s : Island) (f : Nat) : Island :=
  if s.repFrame ≠ some f then s
  else { s with
    repFrame := s.prevRep.map (·.1), repCause := (s.prevRep.map (·.2)).getD 0, repGen := 0, repStep := 0
    repCocoon := [], prevRep := none }

/-- A record of the event feed that fails its check is discarded: what the feed asked and no island has committed is
dropped (R309). DEDUCED (log 61). -/
def Island.dropFeed (s : Island) : Island := { s with req := s.req.filter fun c => c ∉ [5, 6, 7] }

/-- CRC failures of frame reports and event feed in consecutive control frames (R321 cause 11). -/
def Dev.feedCount (d : Dev) (i : Isl) (bad : Bool) : Dev :=
  let n := if bad then (d.isl i).badFeeds + 1 else 0
  let d := d.modIsl i fun s => { s with badFeeds := n }
  if n = 3 then d.islReq i 11 else d

/-- Whether frame `f` was released and confirmed at an island (R315). -/
def Island.gotFrame (s : Island) (f : Nat) : Bool := s.repFrame == some f && s.repCause == 0 && s.confirmed.contains f

/-- The judgement of R315 on frame `f`. In the safe state a frame that was released and confirmed before the commit
still brings its cocoon, and playout goes on or begins at the next due instant. DEDUCED (log 63). -/
def Dev.judge (d : Dev) (i : Isl) (f : Nat) : Dev :=
  let s := d.isl i
  if s.gotFrame f then
    let d := d.modIsl i fun s => s.take f s.repGen s.repStep s.repCocoon
    if s.state = .monitoring then d.playEnd i f else d
  else if s.state ≠ .monitoring then (if s.playout then d else d.playStart i f 4)
  else if s.repFrame ≠ some f then d.modIsl i fun s => { s with awaiting := some f }
  else d.playStart i f (if s.repCause ≠ 0 then 1 else 2)

/-- FRAME_EVALUATION at due(f) + 20 µs. A copy asked for in an earlier frame that never came starts
playout. A report or a feed record that fails its check is discarded (R309); a report that the frame's cocoon message
has acted on had passed it. DEDUCED (log 63). -/
def execFrameEvaluation (i : Isl) (reportOk feedOk : Bool) (s : State) : Res :=
  onDevIf (fun d => (d.isl i).judges && (d.isl i).evalFrame != d.nowFrame &&
      decide (d.due d.nowFrame + 20000 ≤ d.time.now))
    (fun d =>
      let f := d.nowFrame
      let d := match (d.isl i).want with
        | some g => (d.playLate i g).modIsl i fun s => { s with want := none }
        | none => d
      let now := d.time.now
      let ok := reportOk || (d.isl i).repUsed == some f
      let d := if ok then d else d.modIsl i fun s => s.discard f
      let d := if feedOk then d else d.modIsl i Island.dropFeed
      let d := d.modIsl i fun s => { s with evalFrame := f, awaiting := none, expired := s.ended now }
      ((d.judge i f).feedCount i (!ok || !feedOk)).playCount i) s

/-- The payload of a cocoon message (R320). -/
def Dev.cocoonPayload (d : Dev) (i : Isl) (f : Nat) : List Byte :=
  let s := d.isl i
  let run := if s.evalFrame = f then s.run else s.run + 1
  let flags := 4 + 8 * islNum i + 16 * b2n d.chip.safeActive + 32 * b2n (s.ended d.time.now)
  toLE 4 f ++ toLE 2 s.cocoonGen ++ toLE 1 flags ++ toLE 1 s.cocoonStep ++ toLE 8 d.time.now ++
    toLE 4 s.cocoonF ++ toLE 4 run ++ toLE 8 0 ++ s.cocoon

/-- The ACF message type, VLAN ID and priority of an island's messages: PL_ACT_CFG and the image's island parameters
(R319, R320). -/
def Dev.islHead (d : Dev) : Nat × Nat × Nat :=
  (d.fld R.plActCfg 0 7, (d.chip.image.map (·.island.vid)).getD 0, (d.chip.image.map (·.island.pcp)).getD 0)

/-- COCOON_MESSAGE_SEND at a due instant during playout, or where playout is already known. DEDUCED (log 63). -/
def execCocoonMessageSend (i : Isl) (s : State) : Res :=
  onDevIf (fun d =>
      let s := d.isl i
      let f := d.nowFrame
      s.judges && s.lastMsg != some f && decide (d.due f ≤ d.time.now) &&
        (s.playout || s.state != .monitoring || (s.repFrame == some f && s.repCause != 0)))
    (fun d =>
      let f := d.nowFrame
      let used : Bool := !(d.isl i).playout && (d.isl i).state == .monitoring
      let d := d.playStart i f (if (d.isl i).state ≠ .monitoring then 4 else 1)
      let d := d.modIsl i fun s => { s with lastMsg := some f, repUsed := if used then some f else s.repUsed }
      if (d.isl i).cocoon = [] then d else d.emit (.cocoonMsg i d.islHead.1 d.islHead.2.1 d.islHead.2.2 (d.cocoonPayload i f))) s

/-- Word `k` of an island's CH_ area: its last copy, or the reset values before the first (R335). -/
def Island.areaWord (s : Island) (k : Nat) : Nat :=
  if s.mirror = [] then (if k = 0 then 0x40 else 0) else (s.mirror.getD k 0).toNat

/-- STATUS_MESSAGE_SEND at due(f) + 50 µs, in every control frame. -/
def execStatusMessageSend (i : Isl) (s : State) : Res :=
  onDevIf (fun d => (d.isl i).loaded && (d.isl i).lastStatus != some d.nowFrame &&
      decide (d.due d.nowFrame + 50000 ≤ d.time.now))
    (fun d =>
      let f := d.nowFrame
      let area := (List.range 12).flatMap fun k => toLE 4 ((d.isl i).areaWord k)
      (d.modIsl i fun s => { s with lastStatus := some f }).emit (.statusMsg i d.islHead.1 d.islHead.2.1 d.islHead.2.2
        (toLE 4 f ++ toLE 1 (islNum i) ++ toLE 3 0 ++ area ++ toLE 8 d.time.now))) s

/-! ## Heartbeats (R311, R312, R318) -/

/-- Outcome code of the last frame report. -/
def Island.outcome (s : Island) : Nat :=
  match s.repFrame with
  | none => 0
  | some f => if s.repCause ≠ 0 then 2 else if f ∈ s.confirmed then 1 else 3

/-- STATE as a code. -/
def islCode : IslState → Nat
  | .reset => 0
  | .starting => 1
  | .injecting => 2
  | .monitoring => 3
  | .safe => 4
  | .halted => 5

/-- The heartbeat of an island. DEDUCED (log 64). -/
def Island.beat (s : Island) : Heartbeat :=
  { w := BitVec.ofNat 16 s.ownW, state := islCode s.state, vote := s.vote, playout := s.playout
    injected := s.injected, therm := Fin.ofNat 4 s.ownStep, cocoonF := s.cocoonF % 2 ^ 32, cocoonCrc := s.cocoonCrc
    reportF := (s.repFrame.getD 0) % 2 ^ 30, outcome := s.outcome }

/-- The 32 bytes of a heartbeat (R311). -/
def hbBytes (h : Heartbeat) : List Byte :=
  let b := toLE 2 h.w.toNat ++ toLE 1 h.state ++
    toLE 1 (b2n h.vote + 2 * b2n h.playout + 4 * b2n h.injected + 8 * h.therm.val) ++ toLE 4 h.cocoonF ++
    toLE 4 h.cocoonCrc ++ toLE 4 (h.reportF % 2 ^ 30 + 2 ^ 30 * h.outcome) ++ toLE 12 0
  b ++ toLE 4 (Config.crc32 b)

/-- HEARTBEAT_SEND: once per wingbeat, 40 µs after its start. DEDUCED (log 64). -/
def execHeartbeatSend (i : Isl) (s : State) : Res :=
  onDevIf (fun d => (d.isl i).loaded && (d.isl i).lastHbW != d.wb && decide (40000 ≤ d.time.now % wingbeatNs))
    (fun d =>
      let w := d.wb
      (d.modIsl i fun s => { s with lastHbW := w }).emit (.heartbeat i (hbBytes (d.isl i).beat))) s

/-- Ask the peer for frame `f`'s cocoon (R318). DEDUCED (log 64). -/
def Dev.askCocoon (d : Dev) (i : Isl) (f : Nat) : Dev :=
  (d.modIsl i fun s => { s with want := some f, awaiting := none }).emit (.cocoonReq i f)

/-- COCOON_EXCHANGE at the heartbeat of due(f) + 40 µs; `h` is none where the peer's heartbeat did not
come. DEDUCED (log 64). -/
def Dev.exchange (d : Dev) (i : Isl) (h : Option Heartbeat) : Dev :=
  let f := d.nowFrame
  let s := d.isl i
  if d.wb ≠ f * d.lc + d.fld R.plGateCfg 8 8 then d
  else
    let sent : Bool := (h.map fun h => h.reportF == f % 2 ^ 30 && h.outcome == 1).getD false
    if s.awaiting = some f then
      if sent then d.askCocoon i f
      else (d.modIsl i fun s => { s with awaiting := none }).playLate i f
    else match h with
      | none => d
      | some h =>
        if sent = true ∧ s.cocoonF ≠ f then d.askCocoon i f
        else if s.cocoonF = f ∧ h.cocoonF = f % 2 ^ 32 ∧ h.cocoonCrc ≠ s.cocoonCrc then
          let a := d.chA
          let d := if i = .b then
              d.modIsl .b fun s => s.take a.cocoonF a.cocoonGen a.cocoonStep a.cocoon
            else d
          d.islReq i 3
        else d

/-- A valid heartbeat: the peer is found again after 16 of them. DEDUCED (log 64). -/
def Island.hear (s : Island) (h : Heartbeat) : Island :=
  let n := min 16 (s.okHb + 1)
  { s with missHb := 0, okHb := n, peerHb := some h, peerOk := s.peerOk || n == 16 }

/-- A heartbeat that did not come, or failed its CRC. DEDUCED (log 64). -/
def Island.hearNot (s : Island) (bad : Bool) : Island :=
  { s with missHb := min 2 (s.missHb + 1), okHb := 0
           crcErr := if bad then min 0xFFFF (s.crcErr + 1) else s.crcErr
           missing := if bad then s.missing else min 0xFFFF (s.missing + 1) }

/-- HEARTBEAT_RECEIVE. DEDUCED (log 64). -/
def execHeartbeatReceive (i : Isl) (h : HbObs) (s : State) : Res :=
  onDevIf (fun d => (d.isl i).loaded)
    (fun d => match h with
      | .ok h =>
        let d := d.modIsl i fun s => s.hear h
        let d := if h.w.toNat ≠ (d.isl i).ownW % 65536 then d.islReq i 3 else d
        ((d.exchange i (some h)).stepEval i).revoteOne i
      | .badCrc => (d.modIsl i fun s => s.hearNot true).exchange i none
      | .missing => (d.modIsl i fun s => s.hearNot false).exchange i none) s

/-- PEER_LOST after two consecutive heartbeats missing or bad. DEDUCED (log 64). -/
def execPeerLost (i : Isl) (s : State) : Res :=
  onDevIf (fun d => (d.isl i).loaded && (d.isl i).peerOk && decide ((d.isl i).missHb = 2))
    (fun d =>
      let last := ((d.isl i).peerHb.map (·.w.toNat)).getD 0
      let d := (d.modIsl i fun s => { s with peerOk := false }).evIsl i 5 0x8020 [last]
      (d.islReq i 2).revoteOne i) s

/-- COCOON_REQUEST_RECEIVED: the island sends its copy of the frame asked for. -/
def execCocoonRequestReceived (i : Isl) (frame : Fin 140737488355328) (s : State) : Res :=
  onDevIf (fun d => (d.isl i).loaded && !(d.isl i).cocoon.isEmpty && decide ((d.isl i).cocoonF = frame.val))
    (fun d => d.emit (.cocoonCopy i frame (d.isl i).cocoonCrc)) s

/-- Whether a received copy agrees with the frame report's CRC-32 where the island holds one (R318).
DEDUCED (log 64). -/
def Island.copyOk (s : Island) (frame : Nat) (data : List Byte) : Bool :=
  s.repFrame != some frame || s.repCause != 0 || Config.crc32 data == Config.crc32 s.repCocoon

/-- COCOON_COPY_RECEIVED: by due(f) + 125 µs and with a good CRC the copy becomes the cocoon in force;
else playout starts. DEDUCED (log 63). -/
def execCocoonCopyReceived (i : Isl) (frame : Fin 140737488355328) (gen : BitVec 16) (crcOk : Bool) (data : List Byte)
    (s : State) : Res :=
  onDevIf (fun d => decide ((d.isl i).want = some frame.val))
    (fun d =>
      let s := d.isl i
      let ok := crcOk && s.copyOk frame data && data.length == 256 &&
        decide (d.time.now ≤ d.due frame + 125000)
      let d := d.modIsl i fun s => { s with want := none }
      if ok then
        let d := d.modIsl i fun s => s.take frame gen.toNat (d.isl (islPeer i)).cocoonStep data
        (if s.state = .monitoring then d.playEnd i frame else d).evIsl i 5 0x8012
          [frame, Config.crc32 data % 2 ^ 32]
      else d.playLate i frame) s

/-! ## Periodic self-test (R326 to R328) -/

/-- The diagnostic test interval in ns. -/
def Dev.dti (d : Dev) : Nat := ((d.chip.image.map (·.island.dtiS)).getD 1) * 1000000000

/-- Time from which the age of a block's last pass counts. DEDUCED (log 65). -/
def Dev.passSince (d : Dev) (b : Nat) : Nat := max (d.blk b).lastPass d.chip.enabledAt

/-- Age of a block's last pass in ms; one that completed none counts from the schedule enable. DEDUCED (log 65). -/
def Dev.passAge (d : Dev) (b : Nat) : Nat :=
  let k := d.blk b
  (d.time.now - if k.tested then k.lastPass else d.chip.enabledAt) / 1000000

/-- In-service blocks. -/
def Dev.inService (d : Dev) : List Nat := allBlocks.filter fun b => (d.blk b).svc = .inService

/-- LATENT at both islands while some engine is overdue. DEDUCED (log 65). -/
def Dev.latentNow (d : Dev) : Dev :=
  let late := d.inService.any fun b => (d.blk b).overdue
  { d with chA := { d.chA with latent := late }, chB := { d.chB with latent := late } }

/-- Version of the test content in force. -/
def Dev.testPkg (d : Dev) : Nat := if d.chA.loaded then d.chA.pkg else d.chB.pkg

/-- The checkpoint record of a block's slot: pattern, pass number, block, signature, begin, version
(R326). DEDUCED (log 65). -/
def Dev.checkpoint (d : Dev) (b : Nat) : Dev :=
  match (d.blk b).selftest with
  | none => d
  | some x => d.store (hubBase + x.addr) (toLE 4 x.pattern ++ toLE 2 x.pass ++ toLE 2 b ++ toLE 8 x.sig ++
      toLE 8 x.since ++ toLE 4 d.testPkg ++ toLE 36 0)

/-- SELFTEST opens a block's slot: the pass goes on at the pattern its checkpoint saved (R158). A checkpoint of another
block, of other content or of no pass begun starts a pass at pattern 0 (R326). DEDUCED (log 65). -/
def Dev.openTest (d : Dev) (b addr : Nat) : Dev :=
  let f (o n : Nat) : Nat := d.rdN (hubBase + addr + o) n
  let x : SelfTest :=
    if f 6 2 = b ∧ f 24 4 = d.testPkg ∧ f 16 8 ≠ 0 then ⟨addr, f 0 4, f 4 2, f 16 8, f 8 8⟩
    else ⟨addr, 0, (d.blk b).passNo, d.time.now, 0⟩
  d.modBlk b fun k => { k with selftest := some x }

/-- SELFTEST_PASS_END: a good pass restarts the interval, and the next begins at pattern 0; a wrong signature retires
the block. DEDUCED (log 65). -/
def execSelftestPassEnd (b : Fin 144) (good : Bool) (pattern : Word) (s : State) : Res :=
  onDevIf (fun d => ((d.blk b).svc == .inService && (d.blk b).selftest.isSome) || (d.blk b).svc == .standby)
    (fun d =>
      let no := (((d.blk b).selftest.map (·.pass)).getD (d.blk b).passNo)
      if good then
        let now := d.time.now
        let d := d.modBlk b fun k => { k with
          tested := true, lastPass := now, passNo := (no + 1) % 65536, overdue := false
          selftest := k.selftest.map fun x => { x with pattern := 0, pass := (no + 1) % 65536, since := now, sig := 0 } }
        (d.checkpoint b).latentNow
      else ((d.modBlk b fun k => { k with tested := false }).evIsl (if d.chA.loaded then .a else .b) 2 0x8041 [b, pattern.toNat, no]).retireReq b 0x8041) s

/-- SELFTEST_OVERDUE: no pass within the diagnostic test interval. DEDUCED (log 65). -/
def execSelftestOverdue (b : Fin 144) (s : State) : Res :=
  onDevIf (fun d => d.live && (d.blk b).svc == .inService && !(d.blk b).overdue &&
      decide (d.passSince b + d.dti < d.time.now))
    (fun d =>
      let age := d.passAge b
      let d := d.modBlk b fun k => { k with overdue := true }
      let d := if d.chA.loaded then d.evIsl .a 5 0x8042 [b, age] else d
      (if d.chB.loaded then d.evIsl .b 5 0x8042 [b, age] else d).latentNow) s

/-! ## The CH_ area (R335) -/

/-- A temperature in 1/16 °C as the CH_x_THERM code. -/
def thermCode (t : Int) : Nat := (max 0 (min 255 (t / 16 + 40))).toNat

/-- USED: the larger part of consumed life in units of 0.01 % (R419). DEDUCED (log 66). -/
def Island.used (s : Island) : Nat :=
  min 0xFFFF ((max s.lifeTime (s.lifeCyc.foldl max 0)) * 10000).floor.toNat

/-- The twelve words of an island's area. DEDUCED (log 66). -/
def Dev.chWords (d : Dev) (i : Isl) : List Nat :=
  let s := d.isl i
  let blocks := d.inService
  let late := (blocks.filter fun b => (d.blk b).overdue).length
  let oldest := (blocks.filter fun b => (d.blk b).tested).foldl (fun m b => max m (d.passAge b)) 0
  [islCode s.state + 8 * b2n s.vote + 16 * b2n d.chip.primaryEn + 32 * b2n s.playout + 64 * b2n s.safeOut +
     128 * b2n s.peerOk + 256 * b2n s.wbOk + 512 * s.step + 2048 * b2n s.latent + 4096 * b2n s.expired +
     65536 * s.lastCause,
   s.evalFrame % 2 ^ 32, s.cocoonF % 2 ^ 32, s.cocoonCrc, s.run + 65536 * s.entries,
   s.passBits + 65536 * s.failBits,
   min late 255 + 256 * min 0xFFFF oldest,
   thermCode s.res.tj + 256 * thermCode s.tin + 65536 * thermCode s.tout + 16777216 * s.flow,
   s.used, s.pkg, s.crcErr + 65536 * s.missing, 0]

/-- Each island copies its status into its CH_ area at a control-frame tick. DEDUCED (log 66). -/
def Dev.mirrorIslands (d : Dev) : Dev :=
  let w (i : Isl) : List Word :=
    if (d.isl i).state == .reset then (d.isl i).mirror else (d.chWords i).map (BitVec.ofNat 32)
  { d with chA := { d.chA with mirror := w .a }, chB := { d.chB with mirror := w .b } }

end Sys2Proof.Machine
end

