-- ==== Sys2Proof/Machine/Reset.lean ====
section
/-! DEFINITION. The compute-domain reset and the end of a recovery that fails (R29, R41, R322, R323,
R350, R351, R467), and the loss of synchronisation (R44). -/

namespace Sys2Proof.Machine

/-- RW registers that a recovery keeps (R455); the HP_ registers are held in the floor. -/
def keptRw : List Nat :=
  [R.qmMirrorLo, R.qmMirrorHi, R.qmMirrorCtl, R.qmAcctLo, R.qmAcctHi, R.qmAcctCtl]

/-- RX_PREIMG_n, which a moult can have changed: recovery writes them again from the image (R286). -/
def isPreimg (off : Nat) : Bool := (List.range 144).any fun n => off == R.rxPreimg n

/-- A register across a compute-domain reset (R467): floor-held registers and those of R455 keep their
value; elsewhere RWL fields are written again from the same image and every other field takes its
reset value. -/
def regAcross (off : Nat) (v : Word) : Word :=
  if regFloorHeld off ∨ off ∈ keptRw then v
  else if isPreimg off then regReset off
  else
    let m := BitVec.ofNat 32 (rwlMask off)
    (v &&& m) ||| (regReset off &&& ~~~m)

/-- The register table across a compute-domain reset. -/
def regsAcross (t : Table Word) : Table Word :=
  t.filterMap fun e => if regAcross e.1 e.2 = regReset e.1 then none else some (e.1, regAcross e.1 e.2)

/-- The follower leaves synchronisation: Holdover, but for Mismatch (R44). DEDUCED (log 18). -/
def Dev.holdover (d : Dev) : Dev :=
  let st := d.fld R.tkSyncStatus 0 3
  if st = 1 ∨ st = 2 then (d.setFld R.tkSyncStatus 0 3 3).evFloor 5 0x3040 [d.reg R.tkFreqAdj] else d

/-- A rank across the reset keeps its histories; the record gives its state again (R467). -/
def Rank.across (n : Nat) (r : Rank) : Rank :=
  { state := if n ∈ [89, 91, 93, 95] then 0 else 1, scrubbed := r.scrubbed, ce := r.ce, ue := r.ue }
/-- A channel across the reset: histories stay (R467). -/
def Chan.across (c : Chan) : Chan := { retrains := c.retrains, marked := c.marked, noRow := c.noRow }
/-- The memory subsystem across the reset: contents and histories stay; requests, cache lines and the migration go,
and ranks and pool lists are set again from the repair record (R467). -/
def Dram.across (m : Dram) : Dram :=
  { ranks := m.ranks.map fun e => (e.1, e.2.across e.1)
    chans := m.chans.map fun e => (e.1, e.2.across), patrol := m.patrol }
/-- Links and lanes across the reset: every link, and every port but the island ports, is down; the lanes' histories
stay, and repairs, lane states and lasers are set again from the repair record (R467). -/
def Links.across (l : Links) : Links :=
  { lanes := l.lanes.map fun e => (e.1, { laneDef e.1 with flaps := e.2.flaps, outside := e.2.outside, moultAt := e.2.moultAt })
    up := l.up.filter fun p => decide (8 ≤ p) }

/-- The chip across the reset. -/
def Chip.across (c : Chip) : Chip :=
  { c with
    phase := if c.phase = .halted then .halted else .safe
    lock := false, injected := false, sched := false, launching := false, computeReset := true, selfRef := true
    primaryEn := false, resetDone := true, inRec := false, lastRecMs := 0, lastRecStep := 0 }

/-- Queues that hold descriptors not pulled, with their tails (R147). -/
def Dev.leftTails (d : Dev) : List (Nat × Nat) :=
  (dedup (d.qm.live ++ d.qm.announced.map (·.1) ++ d.qm.left.map (·.1))).filterMap fun q =>
    if d.qHead q = d.qTail q then none else some (q, d.qTail q)

/-- The compute-domain reset with DRAM in self-refresh (R29): compute and optical domains lose their
state, dynamic work writes no record (R351), and neither island is touched but that its injection has to
run again (R313). Trigger messages that are queued then go without a count or a record, and the sequence numbers of
the streams stay: R57 names neither case. The mirror's SEQ restarts at 0, which R155 leaves open. DESIGN CHOICE
(log 4, 101, 103). -/
def Dev.computeReset (d : Dev) : Dev :=
  let d := d.lowerFirst.holdover
  { d with
    regs := regsAcross d.regs
    mem := d.mem.filter fun e => decide (e.1 < dramTop)
    poison := d.poison.filter fun e => decide (e.1 < dramTop / 64)
    blocks := [], tiles := [], ops := [], ctxs := [], parts := [], retire := []
    qm := { acctOn := d.qm.acctOn, acct := d.qm.acct, left := d.leftTails }
    srv := {}, fus := {}
    pl := { cocoon := d.pl.cocoon, playedOut := d.pl.playedOut }
    dram := d.dram.across, links := d.links.across
    host := { d.host with up := false, lit := false, owed := [], bar2 := [] }
    time := { d.time with trigs := [], exposures := [], once := [] }
    chA := { d.chA with injected := false }
    chB := { d.chB with injected := false }
    chip := d.chip.across }

/-- The reset that a safe state, a rail fault or the trip asserts, once (R322 step 3). -/
def Dev.assertReset (d : Dev) : Dev := if d.chip.computeReset then d else d.computeReset.revote

/-- An island that injects, or that has ended its injection, is in the safe state again as the recovery fails. -/
def Island.resafe (s : Island) : Island :=
  if s.loaded = true ∧ (s.state = .injecting ∨ s.state = .monitoring) then { s with state := .safe } else s

/-- A recovery fails: a further recovery starts, or after two without primary output both islands halt
(R323). QM_LAST_RECOV takes its length after the reset of the further recovery. DESIGN CHOICE (log 103). -/
def Dev.recoveryFails (d : Dev) : Dev :=
  let d := { d with chA := d.chA.resafe, chB := d.chB.resafe }
  let d := d.computeReset.revote
  let d := { d with chip := { d.chip with lastRecMs := (d.time.now - d.chip.recStart) / 1000000 } }
  if 2 ≤ d.chip.noPrimary then d.halt else d

/-- Whether a recovery runs, its injection included. -/
def Dev.recovering (d : Dev) : Bool :=
  d.chip.phase == .recovering || (d.chip.phase == .injecting && d.chip.inRec)

/-- COMPUTE_RESET_ASSERT at the next wingbeat start after the first commit, once for a safe state. -/
def execComputeResetAssert (s : State) : Res :=
  onDevIf (fun d => d.chip.safeActive && !d.chip.computeReset && !d.chip.resetDone && d.chip.phase != .modReset &&
      !d.recovering && decide (d.chip.safeAt / wingbeatNs < d.wb))
    Dev.assertReset s

/-- The end of a step of R350 in ms after the start of recovery; the last is that of the recovery as a whole. -/
def stepEnd (step : Nat) : Option Nat := [none, some 1, some 21, some 321, some 121, some 621, some 1521, some 1621,
  some 2850, some 3000].getD step none

/-- Milliseconds since the start of recovery. -/
def Dev.recMs (d : Dev) : Nat := (d.time.now - d.chip.recStart) / 1000000

/-- A recovery exceeds a bound: event 0x8071 of each island, and it fails (R350, R352). -/
def Dev.recoveryLate (d : Dev) (step : Nat) : Dev :=
  let ms := min 65535 d.recMs
  let d := if d.chA.loaded then d.evIsl .a 4 0x8071 [step, ms] else d
  let d := if d.chB.loaded then d.evIsl .b 4 0x8071 [step, ms] else d
  d.recoveryFails

/-- RECOVERY_STEP_TIMEOUT: a step of R350 has not ended at its bound, `ms` after the start of recovery, and the recovery
fails. DEDUCED (log 85). -/
def execRecoveryStepTimeout (step : Fin 16) (ms : Fin 65536) (s : State) : Res :=
  onDevIf (fun d => d.recovering && ms.val == min 65535 d.recMs &&
      ((stepEnd step).any fun n => decide (d.chip.recStart + n * 1000000 < d.time.now)))
    (fun d => d.recoveryLate step) s

end Sys2Proof.Machine
end

