-- ==== Sys2Proof/Machine/Thermal.lean ====
section
/-! DEFINITION. Rails, phases, power, the temperature sensors and their resolution, the analog trip, the
islands' thermal decisions and life counting (R331 to R333, R404 to R422). -/

namespace Sys2Proof.Machine

/-! ## Sensors (R411 to R415) -/

/-- A reading in 1/16 °C is valid between −55 and +150 °C. -/
def validT (x : Int) : Bool := decide (-880 ≤ x) && decide (x ≤ 2400)

/-- Pair `p` of a resolver. -/
def Resolver.pair (r : Resolver) (p : Nat) : Pair := tget (fun _ => {}) r.pairs p
/-- Change a pair. -/
def Resolver.mod (r : Resolver) (p : Nat) (f : Pair → Pair) : Resolver :=
  { r with pairs := tmod (fun _ => {}) r.pairs p f }
/-- A sensor of the pair is marked failed. -/
def Pair.failed (q : Pair) : Bool := q.failLo || q.failHi

/-- Die of a pair: 0 to 3 the compute tiles, 4 the hub, 5 the floor, 6 and 7 the islands. -/
def dieOf (p : Nat) : Nat := if p < 48 then p / 12 else if p < 56 then 4 else if p < 60 then 5 else p - 54

/-- Places and numbers of a pair's neighbours (TH_NBR_p). -/
def Dev.nbrs (d : Dev) (p : Nat) : List (Nat × Nat) :=
  (List.range 4).filterMap fun k =>
    if bit (d.reg (R.thNbr p)) (24 + k) then some (k, d.fld (R.thNbr p) (6 * k) 6) else none

/-- What the two readings of a pair without marks give: its value where one is valid, and whether the
read disagrees (R412). -/
def look (lo hi : Int) : Option Int × Bool :=
  match validT lo, validT hi with
  | true, true => (some (max lo hi), decide (64 < max lo hi - min lo hi))
  | true, false => (some lo, true)
  | false, true => (some hi, true)
  | false, false => (none, false)

/-- The nearest 1/16 °C to a rational. DEDUCED (log 77). -/
def near (x : Rat) : Int := (x + 1 / 2).floor

/-- The model estimate M of R413; `calm q` gives the value of a pair that is not flagged. DEDUCED (log 77). -/
def Dev.estimate (d : Dev) (r : Resolver) (calm : Nat → Option Int) (p : Nat) : Rat :=
  let ok (q : Nat) : Option Int := if (r.pair q).failed then none else calm q
  let ns := (d.nbrs p).filterMap fun e => (ok e.2).map fun v => (v : Rat) + (r.pair p).delta.getD e.1 0
  let die := ((List.range 62).filter fun q => dieOf q = dieOf p ∧ q ≠ p).filterMap calm
  if ns ≠ [] then ns.foldl (· + ·) 0 / ns.length
  else match die.max? with
    | some v => v
    | none => r.tj

/-- The reading that remains of a pair with one sensor marked failed. -/
def Pair.rest (q : Pair) (lo hi : Int) : Int := if q.failLo then hi else lo

/-- A pair's resolution from its readings and M, with its counts (R412, R414). DEDUCED (log 77). -/
def Pair.resolve (q : Pair) (lo hi : Int) (m : Rat) : Pair :=
  let sub := near (m + 80)
  if q.failLo ∧ q.failHi then { q with value := sub, flag := false, run := 0, run2 := 0 }
  else if q.failed then
    let x := q.rest lo hi
    let bad : Bool := !validT x || decide ((x : Rat) < m - 64)
    { q with value := if validT x then max x sub else sub, flag := bad, run := 0
             run2 := if bad then min 100 (q.run2 + 1) else 0 }
  else
    let l := look lo hi
    { q with value := l.1.getD sub, flag := l.2 || l.1.isNone, run := if l.2 then min 100 (q.run + 1) else 0 }

/-- A pair that these readings do not flag gives its value; one with a failed sensor, that of its last
resolution. DEDUCED (log 77). -/
def Resolver.calm (r : Resolver) (raw : List Int) (p : Nat) : Option Int :=
  let q := r.pair p
  if q.failed then (if q.flag then none else some q.value)
  else
    let l := look (raw.getD (2 * p) 0) (raw.getD (2 * p + 1) 0)
    if l.2 then none else l.1

/-- The resolved value of a pair that is not flagged. -/
def Resolver.calmNow (r : Resolver) (p : Nat) : Option Int :=
  let q := r.pair p
  if q.flag then none else some q.value

/-- The learned offsets of a pair after a wingbeat's resolution, where neither it nor the neighbour is flagged
(R413). DEDUCED (log 77). -/
def Dev.learn (d : Dev) (r : Resolver) (p : Nat) : List Rat :=
  let old := (r.pair p).delta
  let ok := r.calmNow
  let step (k : Nat) : Rat :=
    let x : Rat := old.getD k 0
    match ok p, ((d.nbrs p).find? fun e => e.1 = k).bind fun e => ok e.2 with
    | some v, some n => x + ((v : Rat) - (n : Rat) - x) / 1024
    | _, _ => x
  if d.nbrs p = [] ∧ old = [] then [] else (List.range 4).map step

/-- Tj and its pair: the highest of pairs 0 to 59 (R415). -/
def Resolver.hottest (r : Resolver) : Resolver :=
  let m := (List.range 60).foldl (fun m p => max m (r.pair p).value) (r.pair 0).value
  { r with tj := m, tjPair := ((List.range 60).find? fun p => (r.pair p).value = m).getD 0 }

/-- One wingbeat's resolution of every pair, then what the pairs learn from it. -/
def Dev.resolve (d : Dev) (r : Resolver) (raw : List Int) : Resolver :=
  let now := (List.range 62).foldl (fun (n : Resolver) p => n.mod p fun q =>
    q.resolve (raw.getD (2 * p) 0) (raw.getD (2 * p + 1) 0) (d.estimate r (r.calm raw) p)) r
  ((List.range 62).foldl (fun (n : Resolver) p => n.mod p fun q => { q with delta := d.learn now p }) now).hottest

/-- Whether a pair's count has reached 100 (R414). -/
def Pair.due (q : Pair) : Bool :=
  !(q.failLo && q.failHi) && (if q.failed then q.run2 == 100 else q.run == 100)

/-- The sensor that a mark falls on: false the lower-numbered, true the higher (R414). DEDUCED (log 77). -/
def Pair.victim (q : Pair) (lo hi : Int) (m : Rat) : Bool :=
  if q.failed then q.failLo
  else if validT lo = false then false
  else if validT hi = false then true
  else
    let a := rabs ((lo : Rat) - m)
    let b := rabs ((hi : Rat) - m)
    if a = b then decide (hi < lo) else decide (a < b)

/-- Mark a sensor of a pair whose count has reached 100; its place is taken at once by M + 5 K. -/
def Dev.mark (d : Dev) (r : Resolver) (raw : List Int) (p : Nat) : Resolver :=
  let lo := raw.getD (2 * p) 0
  let hi := raw.getD (2 * p + 1) 0
  let m := d.estimate r r.calmNow p
  let w := d.wb
  let put (q : Pair) : Pair :=
    let v := q.victim lo hi m
    let q := { q with failHi := q.failHi || v, failLo := q.failLo || !v, changed := w, run2 := 0 }
    let n := q.resolve lo hi m
    { n with run2 := 0, delta := q.delta }
  if (r.pair p).due then (r.mod p put).hottest else r

/-- SENSOR_MARK_FAILED: the floor and the islands mark by their own counts; none marks in the first
epoch after MOD_RESET_N. DEDUCED (log 77). -/
def execSensorMarkFailed (pair : Fin 62) (s : State) : Res :=
  onDevIf (fun d => decide (d.chip.t0 + 1000000000 ≤ (d.time.now : Int)))
    (fun d =>
      let p := pair.val
      let raw := d.pwr.raw
      let old := d.pwr.floor
      let m := unsigned 16 (near (d.estimate old old.calmNow p))
      let q := old.pair p
      let hi := q.victim (raw.getD (2 * p) 0) (raw.getD (2 * p + 1) 0) (d.estimate old old.calmNow p)
      let was := q.failed
      let due := q.due
      let d := { d with
        pwr := { d.pwr with floor := d.mark old raw p }
        chA := { d.chA with res := d.mark d.chA.res raw p }
        chB := { d.chB with res := d.mark d.chB.res raw p } }
      let n := 2 * p + b2n hi
      let d := if due then d.evFloor 5 0x4002 [n, unsigned 16 (raw.getD n 0), m] else d
      if due = true ∧ was = true then d.evFloor 5 0x4003 [p, m] else d) s

/-- The floor's flag records, at most one per pair and epoch. -/
def Dev.flagRecords (d : Dev) : Dev :=
  let e := d.epoch + 1
  (List.range 62).foldl (fun d p =>
    let q := d.pwr.floor.pair p
    if q.flag = true ∧ q.flagEp ≠ e then
      let d := { d with pwr := { d.pwr with floor := d.pwr.floor.mod p fun q => { q with flagEp := e } } }
      d.evFloor 5 0x4001 [p, unsigned 16 (d.pwr.raw.getD (2 * p) 0), unsigned 16 (d.pwr.raw.getD (2 * p + 1) 0)]
    else d) d

/-! ## An island's wingbeat (R332, R333, R415, R416) -/

/-- Raise an island's own step. -/
def Dev.ownRaise (d : Dev) (i : Isl) (n : Nat) : Dev :=
  if n ≤ (d.isl i).ownStep then d
  else (d.modIsl i fun s => { s with ownStep := n, absent := 0 }).stepEval i

/-- JUNCTION_LIMIT: Tj at or above 112 °C. -/
def Dev.junction (d : Dev) (i : Isl) : Dev :=
  if 112 * 16 ≤ (d.isl i).res.tj ∧ 9 ∉ (d.isl i).active then (d.ownRaise i 3).islReq i 9 else d

/-- Pairs that have risen by more than 0.5 K in 100 ms, with their rises in 1/16 K; a pair whose failed
mark changed meanwhile is left out. -/
def Island.rises (s : Island) (w : Nat) : List (Nat × Int) :=
  match s.history.find? fun h => h.1 + 800 = w with
  | none => []
  | some h => (List.range 60).filterMap fun p =>
      let q := s.res.pair p
      let x := q.value - h.2.getD p 0
      if 8 < x ∧ !(q.failed && decide (w < q.changed + 800)) then some (p, x) else none

/-- SUDDEN_COOLANT_LOSS. -/
def Dev.sudden (d : Dev) (i : Isl) : Dev :=
  match (d.isl i).rises d.wb with
  | a :: b :: c :: _ =>
    if 8 ∈ (d.isl i).active then d
    else
      let k (x : Nat × Int) : Nat := (x.2 * 100 / 16).toNat
      (d.evIsl i 4 0x8052 [a.1, b.1, c.1, k a, k b, k c]).islReq i 8
  | _ => d

/-- An island whose own pair reaches 125 °C. -/
def Dev.islandHot (d : Dev) (i : Isl) : Dev :=
  let v := ((d.isl i).res.pair (60 + islNum i)).value
  if 125 * 16 ≤ v ∧ (d.isl i).hotEp ≠ some d.epoch then
    let e := d.epoch
    (d.modIsl i fun s => { s with hotEp := some e }).evIsl i 5 0x4012 [islNum i, unsigned 16 v]
  else d

/-- An island reads its feed and its thermistors; a wingbeat whose feed fails its CRC is skipped, and a thermistor's
reading that fails its range check is discarded (R308, R309). -/
def Dev.islandSense (d : Dev) (i : Isl) (ok : Bool) (tin tout : Int) : Dev :=
  if (d.isl i).loaded = false then d
  else
    let d := d.modIsl i fun s => { s with
      tin := if Config.coolantOk tin then tin else s.tin, tout := if Config.coolantOk tout then tout else s.tout }
    if ok = false then d
    else
      let r := d.resolve (d.isl i).res d.pwr.raw
      let w := d.wb
      let d := d.modIsl i fun s => { s with res := r, tjSum := s.tjSum + r.tj, tjN := s.tjN + 1 }
      let d := ((d.junction i).sudden i).islandHot i
      let vals := (List.range 60).map fun p => (r.pair p).value
      let d := d.modIsl i fun s => { s with history := (w, vals) :: s.history.take 800 }
      if d.pwr.tripBit = true ∧ 10 ∉ (d.isl i).active then d.islReq i 10 else d

/-! ## Power (R405, R407) -/

/-- Module power of a wingbeat in 0.1 W: voltages in mV times currents in 10 mA. -/
def wbPower (rails : List (Nat × Nat)) : Nat := rails.foldl (fun n r => n + r.1 * r.2) 0 / 10000

/-- VIN_CORE above 300 A, or above 265 A for more than 1 ms in any 10 ms; once per epoch. DEDUCED (log 78). -/
def Dev.coreCurrent (d : Dev) (amps : Nat) : Dev :=
  let w := d.wb
  let recent := (if 26500 < amps then [w] else []) ++ d.pwr.over265.filter fun x => decide (w < x + 80)
  let d := { d with pwr := { d.pwr with over265 := recent, peakI := max d.pwr.peakI amps } }
  if (30000 < amps ∨ 8 < recent.length) ∧ d.pwr.coreOver = false then
    ({ d with pwr := { d.pwr with coreOver := true } }).evFloor 5 0x4021 [d.pwr.peakI]
  else d

/-- The rail telemetry of a wingbeat. DEDUCED (log 78). -/
def Dev.power (d : Dev) (rails : List (Nat × Nat)) : Dev :=
  let p := wbPower rails
  let d := { d with pwr := { d.pwr with rails := rails, wbPower := p, epSum := d.pwr.epSum + p, epN := d.pwr.epN + 1 } }
  let d := d.setFld R.pwrPeak 0 16 (max (d.fld R.pwrPeak 0 16) (min 0xFFFF p))
  d.coreCurrent (rails.getD 0 (0, 0)).2

/-- SENSOR_SAMPLE and the rest of what the floor and the islands read in a wingbeat. -/
def Dev.sense (d : Dev) (inp : TickIn) : Dev :=
  let d := { d with pwr := { d.pwr with raw := inp.sensors } }
  let d := { d with pwr := { d.pwr with floor := d.resolve d.pwr.floor inp.sensors } }
  let d := d.flagRecords.power inp.rails
  let t (k : Nat) : Int := inp.coolant.getD k 0
  (d.islandSense .a inp.feedOkA (t 0) (t 1)).islandSense .b inp.feedOkB (t 2) (t 3)

/-- POWER_EPOCH_CHECK: the epoch's mean in W, and event 0x4020 where the mean exceeds PWR_LIMIT.WATTS (R407). -/
def Dev.powerEpoch (d : Dev) : Dev :=
  let high := decide (d.fld R.pwrLimit 0 10 * (10 * d.pwr.epN) < d.pwr.epSum)
  let m := if d.pwr.epN = 0 then 0 else d.pwr.epSum / d.pwr.epN / 10
  let d := { d with pwr := { d.pwr with
    epMean := m, epSum := 0, epN := 0, peakI := 0, coreOver := false } }
  if high then d.evFloor 5 0x4020 [m] else d

/-- Operating windows of the rails in mV (R404). -/
def railWindow : Nat → Nat × Nat
  | 0 => (1710, 1890)
  | 1 => (1700, 1950)
  | 2 => (870, 950)
  | 3 => (470, 570)
  | _ => (3140, 3460)

/-- RAIL_FAULT: more than 10 samples outside the window. DEDUCED (log 78). -/
def execRailFault (rail : Fin 5) (mv : BitVec 16) (s : State) : Res :=
  onDevIf (fun d => d.chip.phase != .modReset &&
      (decide (mv.toNat < (railWindow rail).1) || decide ((railWindow rail).2 < mv.toNat)))
    (fun d =>
      let lost : Bool := decide (1 ≤ rail.val) && decide (rail.val ≤ 3)
      let d := (d.lowerFirst.bump R.pwrRailFault).evFloor 4 0x4030 [rail, mv.toNat]
      let d := { d with chip := { d.chip with coldNext := d.chip.coldNext || lost } }
      if d.recovering then d.recoveryFails else d.assertReset) s

/-- Group of a hub or floor phase: 12 groups of the hub, then 6 of the floor. DEDUCED (log 78). -/
def phaseGroup (n : Nat) : Nat := (n - 432) / 8

/-- Isolated phases of a group. -/
def Dev.groupOut (d : Dev) (g : Nat) : Nat :=
  (d.pwr.isolated.filter fun n => decide (432 ≤ n) && phaseGroup n == g).length

/-- A second isolated phase in one group keeps primary output disabled (R406). -/
def Dev.phasesOk (d : Dev) : Bool := (List.range 18).all fun g => decide (d.groupOut g ≤ 1)

/-- Code of a phase's report. -/
def phaseCode : PhaseCause → Nat
  | .overcurrent => 1
  | .regulation => 2
  | .overtemperature => 3

/-- PHASE_FAULT: a block's work ends at once, as at step 2 of R33. DEDUCED (log 78). -/
def execPhaseFault (phase : Fin 576) (cause : PhaseCause) (s : State) : Res :=
  onDevIf (fun d => d.chip.phase != .modReset && !(d.pwr.isolated.contains phase.val))
    (fun d =>
      let n := phase.val
      let d := { d with pwr := { d.pwr with isolated := d.pwr.isolated ++ [n], lastPh := n } }
      if n < 432 then
        (((d.stopHandling (n / 3)).evBlk 2 0x4031 (n / 3) [n, phaseCode cause]).killBlock (n / 3) stPoisoned stAborted).retireReq (n / 3) 0x4031
      else d.evFloor 4 0x4032 [n, phaseGroup n, d.groupOut (phaseGroup n)]) s

/-! ## The analog trip (R417, R418) -/

/-- A pair trips: both sensors at or above 118 °C, or one with the other invalid. DEDUCED (log 78). -/
def Dev.trips (d : Dev) (p : Nat) : Bool :=
  let lo := d.pwr.raw.getD (2 * p) 0
  let hi := d.pwr.raw.getD (2 * p + 1) 0
  let hot (x : Int) : Bool := decide (118 * 16 ≤ x)
  (validT lo && hot lo && validT hi && hot hi) || (validT lo && hot lo && !validT hi) ||
    (validT hi && hot hi && !validT lo)

/-- ANALOG_TRIP. DEDUCED (log 78). -/
def execAnalogTrip (pair : Fin 60) (s : State) : Res :=
  onDevIf (fun d => d.chip.phase != .modReset && !d.pwr.tripped && d.trips pair)
    (fun d =>
      let r (k : Nat) : Nat := unsigned 16 (d.pwr.raw.getD k 0)
      let d := { d with pwr := { d.pwr with
        tripped := true, tripBit := true, tripPair := pair, trips := min 0xFFFF (d.pwr.trips + 1) } }
      let d := d.lowerFirst.evFloor 4 0x4010 [pair, r (2 * pair), r (2 * pair + 1)]
      if d.recovering then d.recoveryFails else d.assertReset) s

/-- TRIP_RELEASE: when the islands release the reset the trip releases below 100 °C, else the recovery
fails. DEDUCED (log 78). -/
def execTripRelease (s : State) : Res :=
  onDevIf (fun d => d.pwr.tripped && !d.chip.computeReset && (d.recovering || d.chip.phase == .loading ||
      d.chip.phase == .locked))
    (fun d =>
      if (d.pwr.raw.take 120).all fun x => validT x && decide (x < 1600) then
        { d with pwr := { d.pwr with tripped := false, tripBit := false } }
      else if d.recovering then d.recoveryFails else d) s

/-! ## Thermal steps at the epoch (R331, R332) -/

/-- The flow estimate in L/min, where P is at least 100 W and the coolant warms. DEDUCED (log 79). -/
def flowQ (p : Nat) (tin tout : Int) : Option Rat :=
  if 100 ≤ p ∧ tin < tout then some ((p : Rat) / ((303 : Rat) / 5 * (((tout - tin : Int) : Rat) / 16))) else none

/-- FLOW of CH_x_THERM. DEDUCED (log 79). -/
def flowCode : Option Rat → Nat
  | some q => min 254 (q * 20).floor.toNat
  | none => 255

/-- Least-squares slope of 30 samples one second apart, newest first. DEDUCED (log 79). -/
def slopeOf (es : List Rat) : Rat :=
  let n : Rat := 30
  let ys := es.reverse.zipIdx
  let sx : Rat := 435
  let sxx : Rat := 8555
  let sy := ys.foldl (fun a e => a + e.1) 0
  let sxy := ys.foldl (fun a e => a + e.1 * (e.2 : Rat)) 0
  (n * sxy - sx * sy) / (n * sxx - sx * sx)

/-- The highest step whose condition holds. DEDUCED (log 79). -/
def stepLevel (tj : Int) (q : Option Rat) (e : Rat) (run : Nat) : Nat :=
  let below (x : Rat) : Bool := (q.map fun q => decide (q < x)).getD false
  if 112 * 16 ≤ tj then 3
  else if below (6 / 5) ∨ 10 < e ∨ 105 * 16 ≤ tj then 2
  else if 10 ≤ run ∨ below (3 / 2) = true then 1
  else 0

/-- An island's samples of an epoch. DEDUCED (log 79). -/
def Dev.sampleEpoch (d : Dev) (s : Island) : Island :=
  let p := d.pwr.epMean
  let theta : Rat := (((d.chip.image.map (·.island.theta)).getD 0 : Nat) : Rat) / 1000000
  let e : Rat := ((s.res.tj - s.tin : Int) : Rat) / 16 - theta * p
  let es := (e :: s.es).take 30
  let sl : Rat := if es.length = 30 then slopeOf es else 0
  { s with es := es, slope := sl, slopeRun := if 1 / 50 < sl then s.slopeRun + 1 else 0
           flow := flowCode (flowQ p s.tin s.tout) }

/-- THERMAL_STEP_EVAL at an epoch. DEDUCED (log 79). -/
def Dev.thermalEpoch (d : Dev) (i : Isl) : Dev :=
  if (d.isl i).loaded = false then d
  else
    let d := d.modIsl i d.sampleEpoch
    let s := d.isl i
    let n := stepLevel s.res.tj (flowQ d.pwr.epMean s.tin s.tout) (s.es.headD 0) s.slopeRun
    if s.ownStep < n then d.ownRaise i n
    else if n = s.ownStep then d.modIsl i fun s => { s with absent := 0 }
    else if s.absent + 1 < 30 then d.modIsl i fun s => { s with absent := s.absent + 1 }
    else (d.modIsl i fun s => { s with absent := 0, ownStep := s.ownStep - 1 }).stepEval i

/-! ## Life (R419, R420) -/

/-- Regions of the cycle count: CT0 to CT3, hub, floor. DEDUCED (log 80). -/
def regionHot (r : Resolver) (k : Nat) : Int :=
  let ps := (List.range 60).filter fun p => dieOf p = k
  ps.foldl (fun m p => max m (r.pair p).value) ((ps.head?.map fun p => (r.pair p).value).getD 0)

/-- A sample joins the reversals, newest first: the last extreme moves on, a turn of less than 2 K is
filtered, a larger one is a new reversal. -/
def turn (rs : List Int) (x : Int) : List Int :=
  match rs with
  | [] => [x]
  | [a] => if 32 ≤ max a x - min a x then [x, a] else [a]
  | a :: b :: t =>
    if (b < a ∧ a ≤ x) ∨ (a < b ∧ x ≤ a) then x :: b :: t
    else if 32 ≤ max a x - min a x then x :: a :: b :: t
    else rs

/-- Close full cycles at the new end of the reversals: an inner range no larger than both its
neighbours. Gives the ranges and the residue. DEDUCED (log 80). -/
def rainflow : (fuel : Nat) → List Int → List Int × List Int
  | 0, rs => ([], rs)
  | f + 1, d :: c :: b :: a :: t =>
    let r (x y : Int) : Int := max x y - min x y
    if r b c ≤ r c d ∧ r b c ≤ r a b then
      let n := rainflow f (d :: a :: t)
      (r b c :: n.1, n.2)
    else ([], d :: c :: b :: a :: t)
  | _ + 1, rs => ([], rs)

/-- Life of a full cycle of a range in 1/16 K. DEDUCED (log 80). -/
def cycleLife (r : Int) : Rat := if r < 320 then 0 else ((r : Rat) / 640) * ((r : Rat) / 640) / 60000

/-- The cycle part of one region after an epoch: life, residue, cycles counted. DEDUCED (log 80). -/
def Island.cycleEpoch (s : Island) (k : Nat) : Rat × List Int × Nat :=
  let rs := turn (s.residue.getD k []) (regionHot s.res k)
  let c := rainflow 64 rs
  (s.lifeCyc.getD k 0 + c.1.foldl (fun a r => a + cycleLife r) 0, c.2.take 64,
   (c.1.filter fun r => decide (320 ≤ r)).length)

/-- The acceleration factor of R419 at a mean junction temperature in 1/16 °C, to a relative error below 2^−100.
DEDUCED (log 80). -/
def lifeAf (mean : Rat) : Rat :=
  let k : Rat := mean / 16 + 27315 / 100
  if k ≤ 0 then 0
  else
    let x := (8123 * (100 / 36815 - 1 / k) * (fixOne : Rat)).floor
    let n := x / (fixLn2 : Int)
    let y : Rat := (fixExp (x - n * fixLn2).toNat : Rat) / (fixOne : Rat)
    if 0 ≤ n then y * ((2 : Rat) ^ n.toNat) else y / ((2 : Rat) ^ (-n).toNat)

/-- Life after an epoch. DEDUCED (log 80). -/
def Island.lifeEpoch (s : Island) : Island :=
  let mean : Rat := if s.tjN = 0 then s.res.tj else (s.tjSum : Rat) / (s.tjN : Rat)
  let cs := (List.range 6).map s.cycleEpoch
  { s with lifeTime := s.lifeTime + lifeAf mean / 473040000
           lifeCyc := cs.map (·.1), residue := cs.map (·.2.1)
           cycles := cs.foldl (fun n c => n + c.2.2) s.cycles, tjSum := 0, tjN := 0 }

/-- The epoch's life count of an island with its warnings at 80 % and 100 %. -/
def Dev.life (d : Dev) (i : Isl) : Dev :=
  if (d.isl i).loaded = false then d
  else
    let due : Bool := decide (d.epoch % 600 = 0)
    let d := d.modIsl i fun s => { s.lifeEpoch with lifeDue := s.lifeDue || due }
    let u := (d.isl i).used
    let a : Bool := decide (8000 ≤ u) && !(d.isl i).life80
    let b : Bool := decide (10000 ≤ u) && !(d.isl i).life100
    let d := d.modIsl i fun s => { s with life80 := s.life80 || a, life100 := s.life100 || b }
    let d := if a then d.evIsl i 5 0x4041 [u] else d
    if b then d.evIsl i 5 0x4041 [u] else d

/-- The life record of an island. -/
def Island.lifeRec (s : Island) : LifeRec := ⟨s.lifeTime, s.lifeCyc, s.cycles, s.residue⟩

/-- LIFE_RECORD_SEND: every 600 epochs and at a safe-state entry; the hub stores it. DEDUCED (log 80). -/
def execLifeRecordSend (i : Isl) (s : State) : Res :=
  onNv (fun d n =>
    if (d.isl i).loaded = true ∧ (d.isl i).lifeDue = true ∧ d.chip.computeReset = false then
      let r := (d.isl i).lifeRec
      ((d.modIsl i fun s => { s with lifeDue := false }).emit (.lifeRecord i),
       { n with store := n.store.putLife i d.time.now r })
    else (d, n)) s

/-- LIFE_REPORT every 1,000 powered hours: both parts in units of 0.01 % and the cycles counted. DEDUCED (log 80). -/
def execLifeReport (i : Isl) (s : State) : Res :=
  onDevIf (fun d => (d.isl i).loaded && decide ((d.isl i).lifeRep + 1000 ≤ d.chip.hours))
    (fun d =>
      let s := d.isl i
      let h := d.chip.hours / 1000 * 1000
      let u (x : Rat) : Nat := (x * 10000).floor.toNat
      (d.modIsl i fun s => { s with lifeRep := h }).evIsl i 0 0x4040
        [u s.lifeTime, u (s.lifeCyc.foldl max 0), s.cycles]) s

end Sys2Proof.Machine
end

