-- ==== Sys2Proof/Machine/Hang.lean ====
section
/-! DEFINITION. Hang detection, region reset, suspect replay and quarantine (R337 to R349). -/

namespace Sys2Proof.Machine

/-! ## The watchdog (R337, R338) -/

/-- A no-progress count after an interval. -/
def watchCount (n : Nat) (moved watched : Bool) : Nat := if moved || !watched then 0 else min 16 (n + 1)

/-- The operation of another block whose third pass an engine runs, if one has begun there (R295). -/
def Dev.thirdOn (d : Dev) (b : Nat) : Option EngOp :=
  (d.blk b).arbFor.bind fun x => (d.blk x.1).eng.find? fun e => e.token = x.2 ∧ e.arb = some b ∧ e.stage = .third

/-- The engine has a running or pending operation, a repeat that is due and a third pass among them (R60, R297); one that
waits for an arbitration engine is not watched. -/
def Dev.engWatched (d : Dev) (b : Nat) : Bool :=
  (d.thirdOn b).isSome || (d.blk b).eng.any fun e =>
    e.stage == .pending || e.stage == .running || e.stage == .repeating ||
      (e.stage == .firstDone && (e.src != .launch || e.repReq))

/-- A thread runs a task and is not in a tick wait. -/
def Thread.watched (t : Thread) : Bool :=
  t.op.isSome && (match t.wait with
    | .tag _ _ _ => false
    | .cls _ _ _ => false
    | _ => true)

/-- The counts of a block at a wingbeat tick. -/
def Block.watch (k : Block) (watched eng : Bool) (thr : List Nat) : Block :=
  { k with
    engStuck := watchCount k.engStuck (k.engMoved || eng) watched
    engMoved := false
    ending := []
    threads := k.threads.map fun e =>
      (e.1, { e.2 with stuck := watchCount e.2.stuck (e.2.moved || thr.contains e.1) e.2.watched, moved := false }) }

/-- The watch of every block in use, with the units that the tick says moved. -/
def Dev.watchAll (d : Dev) (prog : List WatchUnit) : Dev :=
  (d.blocks.map (·.1)).foldl (fun d b =>
    let eng := prog.any fun u => match u with
      | .engine c => c.val == b
      | .thread _ => false
    let thr := prog.filterMap fun u => match u with
      | .engine _ => none
      | .thread t => if t.block.val = b then some (thrNum t) else none
    let watched := d.engWatched b
    d.modBlk b fun k => k.watch watched eng thr) d

/-- A unit of a tile at a wingbeat tick: it has advanced none of its work when all it held is still there (R339). -/
def UnitWatch.next (u : UnitWatch) (work : List Nat) : UnitWatch :=
  { work := work
    stuck := if !u.work.isEmpty && !work.isEmpty && u.work.all work.contains then min 16 (u.stuck + 1) else 0 }

/-- What a tile's dispatcher could place now: interrupted operations, and new TASKs. DEDUCED (log 67). -/
def Dev.dispWork (d : Dev) (t : Nat) : List Nat :=
  let x := d.tile t
  let again := (match x.current with
    | some c => d.replayOps t c
    | none => []) ++ d.toReplace t
  (if (d.replaceOne t).isSome then again else []) ++ d.qm.dispatch.filter fun k =>
    let o := d.op k
    o.kind == .task && (tilesOf o.tiles).contains t && d.tileTakes t && d.inOrder k && (d.placeIn o [t]).1.isSome

/-- Operations of a tile whose records its tracker could have written. DEDUCED (log 67). -/
def Dev.trkWork (d : Dev) (t : Nat) : List Nat :=
  ((d.tileOps t).filter fun e => e.2.status.isSome && e.2.launches == 0 && d.canRecord e.1).map (·.1)

/-- The units of a tile at a wingbeat tick (R339). DEDUCED (log 67). -/
def Dev.watchUnits (d : Dev) (t : Nat) : Dev :=
  let disp := d.dispWork t
  let trk := d.trkWork t
  d.modTile t fun x => { x with watch :=
    { dispatcher := x.watch.dispatcher.next disp
      tracker := x.watch.tracker.next trk
      copyPath := x.watch.copyPath.next (x.copies.map fun c => 2 * (144 * c.2.1 + c.1) + b2n c.2.2) } }

/-- Units of a block whose count has reached 16: 4 for the engine with thread 0, or core and thread. -/
def Block.hung (k : Block) : List (Nat × Nat) :=
  (if 16 ≤ k.engStuck then [(4, 0)] else []) ++
    (k.threads.filter fun e => decide (16 ≤ e.2.stuck)).map fun e => (e.1 / 8, e.1 % 8)

/-- The contexts active on a hung unit (R340): for an engine also that of a third pass it runs for another block, and
those of abandonments that have not finished (R338). -/
def Dev.activeOn (d : Dev) (b : Nat) (u : Nat × Nat) : List Nat :=
  if u.1 = 4 then ((d.blk b).eng.map (·.ctx) ++ ((d.thirdOn b).map (·.ctx)).toList ++ (d.blk b).ending).eraseDups
  else match ((d.blk b).thr (8 * u.1 + u.2)).op with
    | some k => [(d.op k).ctx]
    | none => []

/-- Contexts on the hung units of a block. DEDUCED (log 67). -/
def Dev.hungCtxs (d : Dev) (b : Nat) : List Nat := ((d.blk b).hung.flatMap (d.activeOn b)).eraseDups

/-! ## Resetting blocks (R341) -/

/-- Step 2: what runs on a block stops. Static items complete as POISONED; dynamic operations are marked
interrupted and keep their entries. The engine operations of each are gone, and their entries free. -/
def Dev.interrupt (d : Dev) (b : Nat) : Dev :=
  let ks := (d.ops.filter fun e => e.2.used && e.2.block == some b).map (·.1)
  ks.foldl (fun d k =>
    let d := d.modOp k fun o => { o with launches := 0, kids := [] }
    if (d.op k).status.isSome then d
    else if (d.op k).static then d.settle k stPoisoned
    else d.modOp k fun o => { o with interrupted := true, block := none, thread := none }) d

/-- Step 3 for a block: engine, cores, scoreboard and pools are reset and the scratchpads zeroed. Static
threads wait for step 4. Residue handling in progress is abandoned with its record (R18), on the engines that arbitrate
for the block too, which are free again. -/
def Dev.resetBlock (d : Dev) (b : Nat) : Dev :=
  let d := (d.dropBeats b).interrupt b
  let d := ((d.blk b).eng.foldl (fun (d : Dev) e => (d.dropArb e).freeArb b e) d).unwait fun w => w.1 == b
  let d := d.modBlk b fun k =>
    { k with eng := [], beats := [], threads := [], pools := [], waiters := [], posted := [], engStuck := 0, ending := [], engMoved := false
             preempt := none, withdraw := none, sigs := [], arbFor := none, arbBad := false }
  d.zero (blockBase b) 0x100000

/-- Grants that threads elsewhere, on a block or in a saved set, hold into blocks `inside` are cancelled, and their
tasks end as ABORTED. -/
def Dev.cancelInto (d : Dev) (inside : Nat → Bool) : Dev :=
  let held (x : Nat) (ts : Table Thread) : List Nat := if inside x then [] else
    (ts.filter fun h => h.2.grants.any fun g => inside g.block).filterMap (·.2.op)
  let ks := (d.blocks.flatMap fun k => held k.1 k.2.threads) ++
    d.tiles.flatMap fun t => t.2.saves.flatMap fun s => if s.2.used then held s.2.block s.2.threads else []
  (ks.foldl (fun d k => if (d.op k).static then d.endOp k stAborted true else d.finish k stAborted) d).sweepAll

/-- The slot assignment that the launch table gives a block for wingbeat `w`: the latest SLOT_BEGIN or
SLOT_END on it at or before `w` (R341 step 4). -/
def Dev.slotAt (d : Dev) (b w : Nat) : Option Nat :=
  match d.logical b with
  | none => none
  | some l =>
    let occ := d.launchWords.filterMap fun x =>
      let n := d.classLen x.cls
      if (x.action = 3 ∨ x.action = 4) ∧ x.names (tileOf b) l = true ∧ n ≠ 0 ∧ x.offset ≤ w then
        some ((w - x.offset) / n * n + x.offset, x)
      else none
    let last := occ.foldl (fun (best : Option (Nat × LWord)) e => match best with
      | none => some e
      | some v => if v.1 ≤ e.1 then some e else some v) none
    match last with
    | some (_, x) => if x.action = 3 then some x.part else none
    | none => none

/-- Static threads of a block restart at their entries (R470). -/
def Dev.restartStatic (d : Dev) (b : Nat) : Dev :=
  match d.logical b with
  | none => d
  | some l => d.startThreads (tileOf b) l

/-- Step 4 for a block. -/
def Dev.resumeBlk (d : Dev) (b : Nat) : Dev :=
  let slot := d.slotAt b d.wb
  let d := d.modBlk b fun k => { k with slotPart := slot, part := slot }
  if (d.blk b).svc = .inService then d.restartStatic b else d

/-! ## Suspects (R344 to R348) -/

/-- Record the hung units and their static contexts; a static context hung in two consecutive control
frames takes event 0x1066 (R347). -/
def Dev.staticHangs (d : Dev) (t b : Nat) (cs : List Nat) : Dev :=
  let f := d.ctrlFrame
  (cs.filter fun c => (d.ctx c).static).foldl (fun d c =>
    let again := d.tiles.any fun x => x.2.staticHung.any fun h => h.1 == c && h.2 + 1 == f
    let d := d.modTile t fun x => { x with
      staticHung := (c, f) :: x.staticHung.filter (fun h => h ≠ (c, f) ∧ f ≤ h.2 + 1) }
    if again then (d.modTile t fun x => { x with explained := true }).evBlk 4 0x1066 b [c, f] else d) d

/-- An unexplained hang counts against its block; the third retires it (R348). DEDUCED (log 69). -/
def Dev.unexplained (d : Dev) (b : Nat) : Dev :=
  let h := d.chip.hours
  let live := h :: (d.blk b).hangs.filter fun x => decide (h - x ≤ 1000)
  let d := d.modBlk b fun k => { k with hangs := live }
  if 3 ≤ live.length then (d.evBlk 5 0x1063 b (live.take 3)).retireReq b 0x1063 else d

/-- The end of a region's recovery: the hung block returns to the pool. DEDUCED (log 67). -/
def Dev.replayEnd (d : Dev) (t : Nat) : Dev :=
  let x := d.tile t
  let d := d.modTile t fun x => { x with
    region := 0, replayBlk := none, current := none, suspects := [], doneSus := [], hung := none
    hungMore := [], explained := false }
  match x.hung with
  | none => d
  | some b =>
    let d := if x.replayBlk.isSome then d.evBlk 0 0x1062 b [x.replayed, x.quar] else d
    if x.explained then d else (b :: x.hungMore).foldl Dev.unexplained d

/-- Whether the current suspect still has operations that wait for the replay or take part in it. DEDUCED (log 68). -/
def Dev.replaying (d : Dev) (t c : Nat) : Bool :=
  (d.tileOps t).any fun e => e.2.ctx == c && !e.2.static && (e.2.interrupted || e.2.replayed)

/-- The next suspect's replay begins with what its block has room for, or the recovery ends. DEDUCED (log 68). -/
def Dev.nextSuspect (d : Dev) (t : Nat) : Dev :=
  match (d.tile t).suspects, (d.tile t).hung with
  | c :: rest, some h =>
    let b := (d.tile t).replayBlk.getD h
    let d := d.modTile t fun x => { x with region := 2, current := some c, suspects := rest, replayBlk := some b }
    (d.replayOps t c).foldl (fun d _ => (d.replayOne t).getD d) d
  | _, _ => d.replayEnd t

/-- A context is quarantined (R345): its operations are decided, its admission stops, its queues go to
DISABLED, and it is FREE with event 0xA060, which names block `b`, once its last record is written.
DEDUCED (log 69). -/
def Dev.quarantine (d : Dev) (t c b : Nat) : Dev :=
  let ks := (d.ops.filter fun e => e.2.used && e.2.ctx == c && !e.2.static && e.2.status.isNone).map (·.1)
  let d := (ks.foldl (fun d k => d.finish k stQuarantined) d).sweepAll
  let d := (d.ctxQueues c).foldl (fun d q => d.qSetState q 0) d
  let d := ((d.modCtx c fun x => { x with state := 2 }).closePools c true).modTile t fun x =>
    { x with quar := x.quar + 1, explained := true }
  let d := d.bump (R.qmQuar t)
  let e : Disabling := { obj := ctxObj c, abort := true, limit := d.nextFrame, aborted := ks.length, quar := some b }
  Dev.disCheck { d with qm := { d.qm with disabling := d.qm.disabling ++ [e] } }

/-! ## The commands -/

/-- Hung blocks of a tile. DEDUCED (log 67). -/
def Dev.hungBlocks (d : Dev) (t : Nat) : List Nat := (tileBlocks t).filter fun b => !(d.blk b).hung.isEmpty

/-- Steps 1 to 3 of R341 for a tile whose units `bs` hang. The fourth region reset of an epoch fails as it begins (R349).
DEDUCED (log 67, 69). -/
def Dev.regionReset (d : Dev) (t : Nat) (bs : List Nat) : Dev :=
  let all := (bs.flatMap d.hungCtxs).eraseDups
  let sus := sortBy (fun c => c) (all.filter fun c => !(d.ctx c).static && decide (c < 4096))
  let n := ((d.tileOps t).filter fun e => !e.2.static && e.2.status.isNone && e.2.block.isSome).length
  let b := bs.headD 0
  let u := (d.blk b).hung.headD (4, 0)
  let d := ((tileBlocks t).foldl Dev.dropBeats d).evBlk 3 0x1060 b [u.1, u.2, sus.length, n]
  let d := d.modBlk b fun k => { k with lastUnit := u.1, lastThread := u.2 }
  let now := d.time.now
  let d := d.modTile t fun x => { x with
    region := 1, resetAt := now, resets := x.resets + 1, suspects := sus, hung := some b
    hungMore := bs.drop 1, replayBlk := none, current := none, replayed := 0, quar := 0, explained := false, doneSus := [], copies := [], blkReset := []
    failed := decide (4 ≤ x.resets + 1) }
  let d := bs.foldl (fun d b => d.staticHangs t b all) (d.bump (R.qmHangs t))
  let d := if (d.tile t).failed then d.event 4 0x1064 t 0xFF [4] else d
  let d := (tileBlocks t).foldl Dev.resetBlock d
  d.cancelInto fun b => tileOf b == t

/-- Blocks of a tile whose scoreboard or credit state is corrupt: their poison cannot be confined, and the error
passes to the region as a hang of the engine (R17). DEDUCED (log 67). -/
def Dev.corruptAt (d : Dev) (t : Nat) (corrupt : List (Fin 36)) : Dev :=
  corrupt.foldl (fun (d : Dev) b => d.modBlk (36 * t + b.val) fun k => { k with engStuck := 16 }) d

/-- A reset of a tile or of one of its blocks has failed: event 0x1064, once in a recovery (R349). DEDUCED (log 69). -/
def Dev.resetFails (d : Dev) (t reason : Nat) : Dev :=
  if (d.tile t).failed then d
  else (d.modTile t fun x => { x with failed := true }).event 4 0x1064 t 0xFF [reason]

/-- The bound of a reset that began at `since` has passed (R349). -/
def Dev.resetLate (d : Dev) (since : Nat) : Bool := decide (since + 1000000 < d.time.now)

/-- The replay of a tile goes on where it can: the next suspect begins once its block is up, and the recovery ends once
no block is under reset any more (R344, R346). DEDUCED (log 68). -/
def Dev.replayOn (d : Dev) (t : Nat) : Dev :=
  let x := d.tile t
  let up : Bool := x.replayBlk.all fun b => !x.blkReset.any (·.1 == b)
  if x.current.isNone && ((!x.suspects.isEmpty && up) || x.blkReset.isEmpty) then d.nextSuspect t else d

/-- A single block under reset is back. -/
def Dev.blockBack (d : Dev) (t b : Nat) : Dev :=
  ((d.modTile t fun x => { x with blkReset := x.blkReset.filter (·.1 ≠ b) }).resumeBlk b).replayOn t

/-- REGION_RESUME: step 4 of R341 for a region, or for the one block of R345; past its bound the reset has failed
(R349). -/
def execRegionResume (t : Fin 4) (s : State) : Res :=
  onDevIf (fun d => d.live && decide (d.time.now % wingbeatNs = 0) &&
      (((d.tile t).region == 1 && decide ((d.tile t).resetAt < d.time.now)) || !(d.tile t).blkReset.isEmpty))
    (fun d =>
      if (d.tile t).region = 1 then
        if d.resetLate (d.tile t).resetAt then d.resetFails t 1
        else ((tileBlocks t).foldl Dev.resumeBlk (d.modTile t fun x => { x with region := 0 })).nextSuspect t
      else match (d.tile t).blkReset with
        | (b, since) :: _ => if d.resetLate since then d.resetFails t 2 else d.blockBack t b
        | [] => d) s

/-- The reset of one block during replay (R345, R346): a hang on the block of the replay quarantines the
suspect under replay, one elsewhere a suspect whose replay has completed. A third pass that the block runs for
another ends POISONED (R298). DEDUCED (log 67). -/
def Dev.blockReset (d : Dev) (t b : Nat) : Dev :=
  let u := (d.blk b).hung.headD (4, 0)
  let cs := d.hungCtxs b
  let dyn := cs.filter fun c => !(d.ctx c).static && decide (c < 4096)
  let cur := (d.tile t).current
  let isReplay : Bool := (d.tile t).replayBlk == some b
  let again := if isReplay then cur.toList else []
  let gone := again ++ dyn.filter fun c => (d.tile t).doneSus.contains c && !again.contains c
  let add := dyn.filter fun c => !gone.contains c && !((d.tile t).suspects.contains c) && cur != some c
  let now := d.time.now
  let d := (d.dropBeats b).evBlk 3 0x1061 b [(gone ++ dyn).headD 0xFFFF, u.1, u.2]
  let d := d.modBlk b fun k => { k with lastUnit := u.1, lastThread := u.2 }
  let d := (d.bump (R.qmHangs t)).staticHangs t b cs
  let d := match (d.blk b).arbFor with
    | some (h, tok) => ((d.blk h).eng.find? fun (e : EngOp) => e.token = tok ∧ e.arb = some b).elim d (d.arbNeither h)
    | none => d
  let d := d.resetBlock b
  let d := d.cancelInto fun x => x == b
  let d := gone.foldl (fun d c => d.quarantine t c b) d
  d.modTile t fun x => { x with
    blkReset := x.blkReset ++ [(b, now)], suspects := x.suspects ++ add
    hungMore := if isReplay ∨ x.hungMore.contains b then x.hungMore else x.hungMore ++ [b]
    current := if isReplay then none else x.current }

/-- Blocks of a tile that a reset of one block contains: those that hang and are under none. DEDUCED (log 68). -/
def Dev.hangsAlone (d : Dev) (t : Nat) : List Nat :=
  (d.hungBlocks t).filter fun b => !(d.tile t).blkReset.any (·.1 == b)

/-- REPLAY_HANG: a hang during replay resets one block; a suspect that hangs again is quarantined.
DEDUCED (log 68). -/
def execReplayHang (b : Fin 144) (s : State) : Res :=
  onDevIf (fun d => d.live && (d.tile (tileOf b)).region == 2 && (d.hangsAlone (tileOf b)).contains b.val)
    (fun d => d.blockReset (tileOf b) b) s

/-- HANG_DETECTED: a count has reached 16, or the state of a block is corrupt, in a tile that runs; during a replay a
corrupt block is contained by its own reset (R17, R346). DEDUCED (log 67). -/
def execHangDetected (h : HangIn) (s : State) : Res :=
  onDevIf (fun d => d.live && (match (d.tile h.tile).region with
      | 0 => !((d.corruptAt h.tile h.corrupt).hungBlocks h.tile).isEmpty
      | 2 => !h.corrupt.isEmpty
      | _ => false))
    (fun d =>
      let d := d.corruptAt h.tile h.corrupt
      if (d.tile h.tile).region = 0 then d.regionReset h.tile (d.hungBlocks h.tile)
      else ((d.hangsAlone h.tile).filter fun b => h.corrupt.any fun c => 36 * h.tile.val + c.val == b).foldl
        (fun (d : Dev) b => d.blockReset h.tile b) d) s

/-- SUSPECT_REPLAY_COMPLETE: every operation of the current suspect has completed. DEDUCED (log 68). -/
def execSuspectReplayComplete (t : Fin 4) (s : State) : Res :=
  onDevIf (fun d => (d.tile t).region == 2 && (match (d.tile t).current with
      | some c => !d.replaying t c
      | none => false))
    (fun d =>
      let d := d.modTile t fun x => { x with
        replayed := x.replayed + 1, doneSus := x.doneSus ++ x.current.toList, current := none }
      d.replayOn t) s

/-- Whether a unit is hung (R339): a dispatcher, tracker or copy path whose count has reached 16; the post-processing
unit, 0x20, with an operation 16 wingbeats over its 50 µs (R100). The spec gives the other hub units no bound that the
model follows, and the watch on them is the command's. DEDUCED (log 67). -/
def Dev.unitHung (d : Dev) (region unit : Nat) : Bool :=
  if region = 4 then
    if unit = 0x20 then d.ops.any fun e => e.2.used && e.2.kind == .ppu && e.2.placed && e.2.status.isNone &&
      decide (e.2.began + 50000 + 16 * wingbeatNs ≤ d.time.now)
    else decide (0x20 < unit)
  else
    let w := (d.tile region).watch
    match unit with
    | 0 => decide (16 ≤ w.dispatcher.stuck)
    | 1 => decide (16 ≤ w.tracker.stuck)
    | 2 => decide (16 ≤ w.copyPath.stuck)
    | _ => false

/-- UNIT_HANG_DETECTED: a dispatcher, tracker or copy path of a tile, or a hub unit. DEDUCED (log 67). -/
def execUnitHangDetected (region : Fin 5) (unit : Fin 256) (s : State) : Res :=
  onDevIf (fun d => d.live && d.unitHung region unit)
    (fun d => d.event 4 0x1065 region 0xFF [unit]) s

/-- Whether a reset of the tile has failed for a reason that event 0x1064 has not told (R349): the fourth reset of an
epoch tells its own as it begins. DEDUCED (log 69). -/
def Dev.resetFailed (d : Dev) (t reason : Nat) : Bool :=
  let x := d.tile t
  !x.failed && (match reason with
  | 1 => x.region == 1 && d.resetLate x.resetAt
  | 2 => x.blkReset.any fun r => d.resetLate r.2
  | 3 => x.region == 1 || !x.blkReset.isEmpty
  | _ => false)

/-- REGION_RESET_FAIL. DEDUCED (log 69). -/
def execRegionResetFail (t : Fin 4) (reason : Fin 5) (s : State) : Res :=
  onDevIf (fun d => d.live && d.resetFailed t reason)
    (fun d => d.resetFails t reason) s

/-- UNEXPLAINED_HANG_EXPIRY. DEDUCED (log 69). -/
def execUnexplainedHangExpiry (b : Fin 144) (s : State) : Res :=
  onDev (fun d =>
    let h := d.chip.hours
    d.modBlk b fun k => { k with hangs := k.hangs.filter fun x => decide (h - x ≤ 1000) }) s

/-- Whether an abandonment on an engine may not have finished: one that began since the last tick, or one that waits for
residue handling on its beats (R53, R90). DEDUCED (log 69). -/
def Dev.abandoning (d : Dev) (b : Nat) : Bool :=
  !(d.blk b).ending.isEmpty || (d.blk b).eng.any (fun e => e.late || e.dead) || (d.thirdOn b).any fun e => e.late || e.dead

/-- ABANDONMENT_TIMEOUT: an abandonment that has not finished in its bound is a hang of the engine at
once (R338). DEDUCED (log 69). -/
def execAbandonmentTimeout (b : Fin 144) (s : State) : Res :=
  onDevIf (fun d => d.live && (d.tile (tileOf b)).region != 1 && !(d.tile (tileOf b)).blkReset.any (·.1 == b.val) &&
      d.abandoning b)
    (fun d =>
      let d := d.modBlk b fun k => { k with engStuck := 16 }
      if (d.tile (tileOf b)).region = 0 then d.regionReset (tileOf b) (d.hungBlocks (tileOf b))
      else d.blockReset (tileOf b) b) s

end Sys2Proof.Machine
end

