-- ==== Sys2Proof/Machine/Dram.lean ====
section
/-! DEFINITION. The memory subsystem (R353 to R382): reads and writes of a granule through the class
regulator, the firewall and the memory-side cache, the correcting code's outcomes, refresh and scrub,
command parity, rank sparing, and page retirement. -/

namespace Sys2Proof.Machine

/-! ## Ranks, channels and pages -/

/-- The spare ranks at shipment (R356). -/
def rankDef (r : Nat) : Rank := if r ∈ [89, 91, 93, 95] then { state := 0 } else {}
/-- Physical rank `r`. -/
def Dev.rank (d : Dev) (r : Nat) : Rank := tget rankDef d.dram.ranks r
/-- Change a physical rank. -/
def Dev.modRank (d : Dev) (r : Nat) (f : Rank → Rank) : Dev :=
  { d with dram := { d.dram with ranks := tmod rankDef d.dram.ranks r f } }
/-- Channel `k`. -/
def Dev.chan (d : Dev) (k : Nat) : Chan := tget (fun _ => {}) d.dram.chans k
/-- Change a channel. -/
def Dev.modChan (d : Dev) (k : Nat) (f : Chan → Chan) : Dev :=
  { d with dram := { d.dram with chans := tmod (fun _ => {}) d.dram.chans k f } }

/-- An event of the migration engine. -/
def Dev.evMig (d : Dev) (cls code : Nat) (detail : List Nat) : Dev := d.event cls code 4 0x72 detail

/-- DRAM out of self-refresh. -/
def Dev.dramUp (d : Dev) : Bool := d.chip.phase != .modReset && !d.chip.selfRef

/-- Logical rank that a physical rank serves (MC_RANK_r.LOGICAL). -/
def Dev.logicalRank (d : Dev) (r : Nat) : Option Nat :=
  indexOf? (fun x => x == r) (d.dram.safety ++ d.dram.general)

/-- The rank that a migration brings up and copies to is out of self-refresh from step 2 on (R375). -/
def Dev.risen (d : Dev) (r : Nat) : Bool := d.dram.mig.any fun m => m.spare == r && decide (2 ≤ m.step)

/-- Whether a rank is in self-refresh (R356, R361, R375): every rank in the safe state, a spare, and one that a migration
has retired. -/
def Dev.selfRefreshes (d : Dev) (r : Nat) : Bool :=
  d.chip.selfRef || ((d.rank r).state == 0 && !d.risen r) || ((d.rank r).state == 2 && !(d.chan (r / 2)).failed)

/-- Key of a page (R378): channel, rank within it, sub-channel, bank, row. -/
def pageKey (r off sub : Nat) : Nat :=
  let p := Config.dramRow off
  ((r * 2 + sub) * 256 + p.1 % 256) * 2 ^ 32 + p.2 % 2 ^ 32
/-- The detail of a page's events: physical rank, sub-channel, bank, row. -/
def pageDetail (p : Nat) : List Nat := [p / 2 ^ 41, p / 2 ^ 40 % 2, p / 2 ^ 32 % 256, p % 2 ^ 32]

/-- Corrected codewords of a rank in the sliding window of 24 powered hours that ends now (R373). -/
def Rank.window (r : Rank) (hours : Nat) : Nat :=
  r.ce.foldl (fun n e => if hours < e.1 + 24 then n + e.2 else n) 0

/-- Count corrected codewords in this powered hour, leaving out what has left the window. -/
def Rank.count (r : Rank) (hours n : Nat) : Rank :=
  let kept := r.ce.filter fun e => decide (hours < e.1 + 24) && e.1 != hours
  let now := (r.ce.filter fun e => e.1 = hours).foldl (fun m e => m + e.2) n
  { r with ce := kept ++ [(hours, now)] }

/-- A rank waits for sparing, once (R374). -/
def Dev.spareReq (d : Dev) (r cause : Nat) : Dev :=
  if d.dram.queue.any (·.1 = r) ∨ (d.dram.mig.any (·.source = r)) = true ∨ (d.logicalRank r).isNone then d
  else { d with dram := { d.dram with queue := d.dram.queue ++ [(r, cause)] } }

/-- Mark a page for repair, up to 32 to a channel (R378). DEDUCED (log 71). -/
def Dev.markPage (d : Dev) (r page : Nat) : Dev :=
  d.modChan (r / 2) fun c =>
    if page ∈ c.marked ∨ 32 ≤ c.marked.length then c else { c with marked := c.marked ++ [page] }

/-- The channel answers: a run of alerts of one retry-buffer entry ends, and writes that were queued
before this time have been issued, since no read stood against them (R368, R371). -/
def Dev.chanServes (d : Dev) (k : Nat) : Dev :=
  d.modChan k fun c => { c with entryRun := none, wq := c.wq.filter fun w => w.2.2 == d.time.now }

/-- A write enters the write queue of its sub-channel; at 24 entries 8 of them are issued (R368). DEDUCED (log 72). -/
def Dev.queueWrite (d : Dev) (a : Nat) : Dev :=
  match d.locate a with
  | none => d
  | some (r, _, sub) =>
    let d := d.chanServes (r / 2)
    d.modChan (r / 2) fun c =>
      let wq := c.wq ++ [(sub, a / 64, d.time.now)]
      let mine := wq.filter fun w => w.1 = sub
      if 24 ≤ mine.length then { c with wq := wq.filter fun w => !(mine.take 8).contains w } else { c with wq := wq }

/-- A granule is written back, unless a write to it is already queued (R359). -/
def Dev.writeBack (d : Dev) (a : Nat) : Dev :=
  match d.locate a with
  | some (r, _, _) => if (d.chan (r / 2)).wq.any fun w => w.2.1 == a / 64 && w.2.2 == d.time.now then d else d.queueWrite a
  | none => d

/-- `n` corrected codewords of a granule, which is written back corrected (R359, R373, R378). DEDUCED (log 70). -/
def Dev.dramCorrected (d : Dev) (a n symbol : Nat) : Dev :=
  match d.locate a with
  | none => d
  | some (r, off, sub) =>
    let d := d.writeBack a
    let d := (d.setReg R.mcLastErr (r + sub * 128 + symbol % 64 * 512)).setReg R.mcLastAddr (a / 256)
    let d := d.evChan 1 0x2001 (r / 2) [r, sub, symbol, a / 64]
    let page := pageKey r off sub
    let c := d.chan (r / 2)
    let d :=
      if page ∈ c.marked ∧ page ∉ c.noRow then d
      else
        let old := (d.rank r).window d.chip.hours
        let d := d.modRank r fun x => x.count d.chip.hours n
        if old < d.fld R.mcCeThr 0 16 ∧ d.fld R.mcCeThr 0 16 ≤ old + n then d.spareReq r 2 else d
    let m := tget (fun _ => 0) c.rowCe page + n
    let d := d.modChan (r / 2) fun c => { c with rowCe := tset (fun _ => 0) c.rowCe page m }
    if 8 ≤ m then d.markPage r page else d

/-- The KV blocks that an address lies in are lost (R193, R198): the sequencer hears of it, and a prefix entry that
holds the block is invalidated; without a request on it the block returns to the pool. DEDUCED (log 44). -/
def Dev.kvLost (d : Dev) (a : Nat) : Dev :=
  (List.range 8).foldl (fun (d : Dev) (i : Nat) =>
    let s := d.inst i
    if s.state ≠ 0 ∧ s.kvBase ≤ a ∧ a < s.kvBase + s.kvBlocks * s.kvBytes then
      let n := (a - s.kvBase) / s.kvBytes
      let d := if n ∈ s.badKv then d else d.modInst i fun x => { x with badKv := x.badKv ++ [n] }
      (d.srv.pfx.filter fun e => e.2.valid && e.2.inst == i && e.2.kv == n).foldl (fun (d : Dev) e =>
        if e.2.refs = 0 then (d.kvPush i n).modPfx e.1 fun _ => {}
        else d.modPfx e.1 fun p => { p with valid := false }) d
    else d) d

/-- An operation's access fails: its own end; a request's rules are those of the sequencer (R193). -/
def Dev.accessEnds (d : Dev) (token : Option Nat) (st : Nat) : Dev :=
  match token with
  | some k => if (d.op k).kind = .request then d else d.endOp k st false
  | none => d

/-- An entry of the poison list (R434), for a granule that is poisoned. DEDUCED (log 85). -/
def Dev.listPoison (d : Dev) (g : Nat) : Dev :=
  if d.sec.poisonList.contains g || !d.poisoned (g * 64) then d
  else if d.sec.poisonList.length < 4096 then { d with sec := { d.sec with poisonList := d.sec.poisonList ++ [g] } }
  else { d with sec := { d.sec with poisonOver := true } }

/-- An uncorrectable read (R359, R360): the granule is written back as zeros with POISON = 1, the operation ends as
MEMORY_UNCORRECTABLE, and sparing of the rank begins. MC_LAST_ERR's symbol is a free value: there is no one
wrong symbol to name. DEDUCED (log 70). -/
def Dev.dramLost (d : Dev) (a : Nat) (token : Option Nat) : Dev :=
  match d.locate a with
  | none => d
  | some (r, _, sub) =>
    let (v, d) := d.fresh
    let d := (d.setReg R.mcLastErr (r + sub * 128 + 256 + v % 64 * 512)).setReg R.mcLastAddr (a / 256)
    let d := d.modRank r fun x => { x with ue := satAdd 0xFFFFFFFF x.ue 1 }
    let d := (((d.zero (a / 64 * 64) 64).setPoison (a / 64) true).listPoison (a / 64)).writeBack a
    let d := d.evChan 2 0x2002 (r / 2) [r, sub, a / 64, token.getD 0xFFFF]
    ((d.kvLost a).spareReq r 1).accessEnds token stMemory

/-! ## The memory-side cache -/

/-- The lines of the set of a granule. -/
def Dev.cacheSetOf (d : Dev) (g : Nat) : List Line :=
  tget (fun _ => []) d.dram.cache (Config.cacheSet g % 65536)
/-- Replace the lines of the set of a granule, with the clock of the least-recently-used order. -/
def Dev.putSet (d : Dev) (g : Nat) (l : List Line) : Dev :=
  { d with dram := { d.dram with
    cache := tset (fun _ => []) d.dram.cache (Config.cacheSet g % 65536) l, clock := d.dram.clock + 1 } }

/-- Ways in which a partition may allocate (R174). -/
def Dev.ways (d : Dev) (part : Nat) : List Nat :=
  (List.range 16).filter fun w => bit (d.reg R.mcResvWays) w == (d.part part).safety

/-- A line leaves the cache: a dirty one is written back, and the poison of a clean line that was lost
goes with the line. -/
def Dev.evictLine (d : Dev) (l : Line) : Dev :=
  if l.dirty then d.writeBack (64 * l.granule) else if l.lost then d.setPoison l.granule false else d

/-- A request that missed takes a line in its allowed ways: an empty way, else the least recently used
line's (R379). -/
def Dev.allocLine (d : Dev) (part label g : Nat) (dirty : Bool) : Dev :=
  let ls := d.cacheSetOf g
  let ws := d.ways part
  if bit (d.fld R.mcCacheNoalloc 0 16) label ∨ ws = [] then d
  else
    let new (w : Nat) : Line := { granule := g, way := w, dirty := dirty, used := d.dram.clock }
    match ws.find? fun w => !(ls.any (·.way = w)) with
    | some w => d.putSet g (ls ++ [new w])
    | none => match minBy? (·.used) (ls.filter fun l => ws.contains l.way) with
      | some l => (d.evictLine l).putSet g (mapIf (fun x => x.way == l.way) (fun _ => new l.way) ls)
      | none => d

/-- What the cache's code found on a hit (R380): 0 nothing, 1 to 8 a corrected word 0 to 7, else an
uncorrectable one, which poisons the line. True where the access is lost. DEDUCED (log 70). -/
def Dev.cacheEcc (d : Dev) (bad : Nat) (token : Option Nat) (l : Line) : Dev × Bool :=
  let set := Config.cacheSet l.granule % 65536
  if bad = 0 then (d, false)
  else if bad ≤ 8 then
    ((d.bump R.mcCacheCe).event 1 0x2040 4 0x70 [set, l.way, bad - 1], false)
  else
    let d := ((d.bump R.mcCacheUe).event 2 0x2041 4 0x70 [set, l.way, b2n l.dirty]).kvLost (l.granule * 64)
    let was := d.poisoned (l.granule * 64)
    let d := d.setPoison l.granule true
    let d := if l.dirty then d.listPoison l.granule else d
    let ls := mapIf (fun (x : Line) => x.way == l.way)
      (fun x => { x with lost := x.lost || (!x.dirty && !was) }) (d.cacheSetOf l.granule)
    ((d.putSet l.granule ls).accessEnds token stMemory, true)

/-! ## Reads and writes -/

/-- The operation that a request serves, unless it has ended and its token names another (R145). -/
def Dev.reqToken (d : Dev) (r : DramReq) : Option Nat :=
  (r.acc.token.map (·.val)).filter fun k => (d.op k).used && (d.op k).order == r.order

/-- The request that an access makes: the partition ID of R113 and R178, and the label of R175. -/
def Dev.dramReq (d : Dev) (a : DramAcc) (w : Option DramData) : DramReq :=
  let o := d.op ((a.token.map (·.val)).getD 0)
  let part := match a.token with
    | some _ => if a.init.val < 720 then d.idPart (a.init.val / 5) o.static o.part else o.part
    | none => d.initPart a.init
  { acc := a, data := w, part := part, cls := if a.token.isSome then d.label part o.cls else d.initCls a.init part
    order := o.order, port := portOf a.init, since := d.time.now }

/-- Place of a request's class at its port. -/
def DramReq.key (r : DramReq) : Nat := 16 * r.port + r.cls

/-- A request is refused: its TARGET code of SEC_FW_LAST, and whether R26 applies. -/
def Dev.dramDeny (d : Dev) (r : DramReq) (tgt : Nat) (r26 : Bool) : Dev :=
  (d.deny r.acc.init r.part tgt r26 r.acc.addr).accessEnds (d.reqToken r) stDenied

/-- The state in which an access goes on, or in which it has ended: the firewall (R173, R179), and an address that no
rank of its pool backs (R26). DEDUCED (log 40, 72). -/
def Dev.dramAdmit (d : Dev) (r : DramReq) : Dev × Bool :=
  let deny (tgt : Nat) (r26 : Bool) : Dev × Bool := (d.dramDeny r tgt r26, false)
  match d.refusal r.acc.init r.part r.acc.addr r.data.isSome false with
    | some (tgt, r26) => deny tgt r26
    | none => if (d.locate r.acc.addr).isNone then deny 6 true else (d, true)

/-- The decode of a granule's two codewords (R358, R359): 0 clean, n corrected in n codewords, 3 uncorrectable.
The ranks of a channel whose retraining failed cannot be read (R372). -/
def Dev.decodeOf (d : Dev) (a : DramAcc) : Nat :=
  let failed := ((d.locate a.addr).map fun l => (d.chan (l.1 / 2)).failed && (d.rank l.1).state != 1).getD false
  if a.wrong0 = 2 ∨ a.wrong1 = 2 ∨ a.metaDiff ∨ failed then 3
  else (if a.wrong0 = 1 then 1 else 0) + (if a.wrong1 = 1 then 1 else 0)

/-- Three or more wrong symbols of a codeword that decode as another word: its 32 bytes are delivered as correct, and
which they are is a free value (R359). DEDUCED (log 70). -/
def Dev.miscorrect (d : Dev) (a : DramAcc) : Dev :=
  let one (d : Dev) (i : Nat) (wrong : Bool) : Dev :=
    if wrong then
      let (v, d) := d.fresh
      d.wr (a.addr / 64 * 64 + 32 * i) (toLE 32 v)
    else d
  one (one d 0 (a.wrong0 = 3)) 1 (a.wrong1 = 3)

/-- The DRAM side of a read of a granule: true where it is lost. DEDUCED (log 70). -/
def Dev.dramFetch (d : Dev) (a : DramAcc) (token : Option Nat) : Dev × Bool :=
  let n := d.decodeOf a
  if n = 3 then (d.dramLost a.addr token, true)
  else
    let d := d.miscorrect a
    if n = 0 then (d, false) else (d.dramCorrected a.addr n a.symbol, false)

/-- A read that overlaps a write queued at this instant waits until it has been issued, in batches of
up to 8 (R364, R368). DEDUCED (log 72). -/
def Dev.rawWait (d : Dev) (k sub g : Nat) : Dev :=
  let ws := (d.chan k).wq.filter fun w => w.1 = sub
  match indexOf? (fun (w : Nat × Nat × Nat) => w.2.1 == g) ws with
  | none => d
  | some i =>
    let gone := ws.take ((i / 8 + 1) * 8)
    (d.bump R.mcRawWait).modChan k fun c => { c with wq := c.wq.filter fun w => !gone.contains w }

/-- A read of a granule by an initiator. -/
def Dev.dramGet (d : Dev) (r : DramReq) : Dev :=
  let a := r.acc
  let token := d.reqToken r
  match d.dramAdmit r with
  | (d, false) => d
  | (d, true) =>
    match d.keyGone a.addr 1 with
    | some g => (d.keyEvent a.init r.part g).accessEnds token stDenied
    | none =>
      let g := a.addr.val / 64
      match (d.cacheSetOf g).find? fun l => l.granule = g with
      | some l =>
        match d.cacheEcc a.cacheBad token l with
        | (d, true) => d
        | (d, false) =>
          d.putSet g (mapIf (fun (x : Line) => x.way == l.way) (fun x => { x with used := d.dram.clock }) (d.cacheSetOf g))
      | none =>
        match d.locate a.addr with
        | none => d
        | some (q, _, sub) =>
          let d := (d.chanServes (q / 2)).rawWait (q / 2) sub g
          (d.dramFetch a token).1.allocLine r.part r.cls g false

/-- A write of bytes of a granule (R360): a write of all 64 replaces data and POISON; a shorter one is
merged into what a read of the granule delivers. -/
def Dev.dramPut (d : Dev) (r : DramReq) (w : DramData) : Dev :=
  let a := r.acc
  let token := d.reqToken r
  match d.dramAdmit r with
  | (d, false) => d
  | (d, true) =>
    let g := a.addr.val / 64
    let whole := decide (w.bytes.length = 64)
    let hit := (d.cacheSetOf g).find? fun l => l.granule = g
    let d := match hit with
      | some l => if whole then d else (d.cacheEcc a.cacheBad token l).1
      | none => if whole then d else (d.dramFetch a token).1
    let d := (d.storeAs r.part a.addr w.bytes w.poison).listPoison g
    match hit with
    | some l => d.putSet g (mapIf (fun (x : Line) => x.way == l.way)
        (fun x => { x with used := d.dram.clock, dirty := true, lost := false }) (d.cacheSetOf g))
    | none => (d.queueWrite a.addr).allocLine r.part r.cls g true

/-- A request is served. -/
def Dev.serveReq (d : Dev) (r : DramReq) : Dev :=
  match r.data with
  | some w => d.dramPut r w
  | none => d.dramGet r

/-! ## Waiting: at a channel, and at a class's cap -/

/-- Whether a refresh of a bank of a sub-channel is at the limit to which it may be postponed (R361). DEDUCED (log 72). -/
def Chan.dueRefresh (c : Chan) (sub : Nat) : Bool :=
  c.refresh.any fun e => e.1 / 256 == sub && decide (0 < e.2) && decide (Config.refreshLimit ≤ e.2)

/-- A channel that retrains, and a sub-channel with a refresh at its limit, which goes before any other command, let
their requests wait (R361, R368, R371). DEDUCED (log 72). -/
def Dev.chanWaits (d : Dev) (a : Nat) : Bool :=
  ((d.locate a).map fun l =>
    let c := d.chan (l.1 / 2)
    c.retraining.isSome || c.dueRefresh l.2.2).getD false

/-- A request reaches its channel: it is served, or waits there. -/
def Dev.issueReq (d : Dev) (r : DramReq) : Dev :=
  if d.chanWaits r.acc.addr then
    d.modChan (((d.locate r.acc.addr).map (·.1 / 2)).getD 0) fun c => { c with held := c.held ++ [r] }
  else d.serveReq r

/-- The urgency of a request by its port's mode (R365, R366): the time since it arrived against the port's target,
the port's constant, or 3 while the port's panic signal is raised. -/
def Dev.urgency (d : Dev) (r : DramReq) : Nat :=
  let q := R.mcQos r.port
  let e := 4 * ((d.time.now - r.since) : Nat)
  let l := d.fld q 8 16
  if d.fld q 0 2 = 1 then d.fld q 2 2
  else if d.fld q 0 2 = 2 ∧ d.dram.panic.contains r.port then 3
  else if e < 2 * l then 0 else if e < 3 * l then 1 else if e < 4 * l then 2 else 3

/-- Requests in the order a channel issues them (R364, R368): the most urgent first, the oldest among equals, and
none before an older one of its own granule. Rows that hit are timing. DEDUCED (log 72). -/
def Dev.issueOrder (d : Dev) (l : List DramReq) : List DramReq :=
  let urg (i : Nat) (r : DramReq) : Nat :=
    (l.drop i).foldl (fun m x => if x.acc.addr.val / 64 = r.acc.addr.val / 64 then max m (d.urgency x) else m) 0
  [3, 2, 1, 0].flatMap fun u => (l.zipIdx.filter fun x => urg x.2 x.1 = u).map (·.1)

/-- The requests that waited at a channel go on, as far as nothing holds them any more. -/
def Dev.chanGoes (d : Dev) (k : Nat) : Dev :=
  let (stay, go) := ((d.chan k).held).partition fun r => d.chanWaits r.acc.addr
  (d.issueOrder go).foldl Dev.serveReq (if go = [] then d else d.modChan k fun c => { c with held := stay })

/-- The oldest request that waits at a class's cap leaves the regulator if the cap allows it; a cap of 0 refuses it
(R176). -/
def Dev.release (d : Dev) (k : Nat) : Dev :=
  let cap := d.fld (R.mcReg k) 0 8
  match tget (fun _ => []) d.dram.wait k with
  | [] => d
  | r :: t =>
    let n := tget (fun _ => 0) d.dram.out k
    if cap = 0 then { d with dram := { d.dram with wait := tset (fun _ => []) d.dram.wait k t } }.dramDeny r 5 false
    else if n < cap then
      { d with dram := { d.dram with
        wait := tset (fun _ => []) d.dram.wait k t, out := tset (fun _ => 0) d.dram.out k (n + 1) } }.issueReq r
    else d

/-! ## The host's accesses through BAR2 (R452) -/

/-- An event of the host port (R461). -/
def Dev.evHost (d : Dev) (cls code : Nat) (detail : List Nat) : Dev := d.event cls code 8 0xFF detail

/-- Complete a request. -/
def Dev.complete (d : Dev) (status : Nat) (data : List Byte := []) (ep : Bool := false) : Dev :=
  d.emit (.completion status ep data)

/-- Device address of a BAR2 offset. -/
def Dev.bar2Addr (d : Dev) (off : Nat) : Nat := d.fld R.hpBar2Win 0 8 * gib + off

/-- Why an access of `n` bytes is refused: outside DRAM in service, the safety pool, the firewall, or a class that
the host's regulator refuses (R176). DEDUCED (log 40, 91). -/
def Dev.bar2Refuse (d : Dev) (a n : Nat) (write : Bool) : Option (Nat × Bool) :=
  if d.dramSize < a + n then some (6, true)
  else d.refusalAt 728 d.hostPart (d.initCls 728 d.hostPart) a n write

/-- BAR2_READ: data with EP set where a granule is poisoned; a refused read, and one of a granule whose key has
been erased (R381), completes as Completer Abort. DEDUCED (log 91). -/
def Dev.bar2Get (d : Dev) (off n : Nat) : Dev :=
  let a := d.bar2Addr off
  match d.bar2Refuse a n false with
  | some (t, r26) => ((d.deny 728 d.hostPart t r26 a).bump R.hpCa).complete 2
  | none => match d.keyGone a n with
    | some g => ((d.keyEvent 728 d.hostPart g).bump R.hpCa).complete 2
    | none =>
      let ep := d.anyPoison a n
      let d := if ep then d.bump R.hpEpOut else d
      d.complete 0 (d.rdBytes a n) ep

/-- A poisoned write is reported through AER as an advisory non-fatal error, with the correctable-error bit of
Device Status. PRESUMED (log 89). -/
def Dev.aerAdvisory (d : Dev) : Dev :=
  let st (t : Table Word) (i b : Nat) : Table Word := tset cfgDef t i (BitVec.ofNat 32 ((tget cfgDef t i).toNat ||| 2 ^ b))
  { d with host := { d.host with cfg := st (st d.host.cfg 0x44 13) 0x12 16 } }

/-- BAR2_WRITE: a refused write is dropped; one with EP set poisons every granule it touches. DEDUCED (log 91). -/
def Dev.bar2Put (d : Dev) (off : Nat) (data : List Byte) (ep : Bool) : Dev :=
  let a := d.bar2Addr off
  match d.bar2Refuse a data.length true with
  | some (t, r26) => d.deny 728 d.hostPart t r26 a
  | none =>
    let d := d.storeAs d.hostPart a data ep
    if ep then ((d.bump R.hpEpIn).aerAdvisory).evHost 5 0x3033 [a / 64, data.length] else d

/-- A BAR2 access that leaves the regulator. -/
def Dev.bar2Do (d : Dev) (r : Bar2Req) : Dev :=
  match r.data with
  | some (bs, ep) => d.bar2Put r.off bs ep
  | none => d.bar2Get r.off r.len

/-- Whether a BAR2 access waits at the regulator: its class is at its cap, which is not 0 (R176). -/
def Dev.bar2Waits (d : Dev) (r : Bar2Req) : Bool :=
  let a := d.bar2Addr r.off
  let c := d.initCls 728 d.hostPart
  !d.shut 728 c a && d.capped 728 c a

/-- A BAR2 access arrives: it goes on, or waits behind those before it. DEDUCED (log 40). -/
def Dev.bar2Arrive (d : Dev) (r : Bar2Req) : Dev :=
  if d.host.bar2 ≠ [] ∨ d.bar2Waits r = true then { d with host := { d.host with bar2 := d.host.bar2 ++ [r] } }
  else d.bar2Do r

/-- The BAR2 accesses that wait leave the regulator as far as the cap lets them. -/
def Dev.bar2Drain (d : Dev) : Dev :=
  d.host.bar2.foldl (fun (d : Dev) r =>
    if d.host.bar2.head? = some r ∧ d.bar2Waits r = false then
      { d with host := { d.host with bar2 := d.host.bar2.tail } }.bar2Do r
    else d) d

/-! ## Responses, and arrival at a port -/

/-- Every request of a class that may leave the regulator does. -/
def Dev.drainReqs (d : Dev) (k : Nat) : Dev :=
  ((tget (fun _ => []) d.dram.wait k).foldl (fun (d : Dev) _ => d.release k) d).bar2Drain

/-- The last response of a transaction of a class has returned: its slot is free (R176). -/
def Dev.respond (d : Dev) (k : Nat) : Dev :=
  { d with dram := { d.dram with out := tmod (fun _ => 0) d.dram.out k (· - 1) } }.drainReqs k

/-- The panic signal of a port after its buffer's fill, its mode or its level has changed: a rising edge counts in
MC_PANIC (R367). DESIGN CHOICE (log 73). -/
def Dev.panicAt (d : Dev) (p : Nat) : Dev :=
  let q := R.mcQos p
  let up := d.fld q 0 2 = 2 ∧ d.fld q 4 4 ≤ tget (fun _ => 0) d.dram.fill p
  let was := d.dram.panic.contains p
  if up ∧ was = false then { d.bump R.mcPanic with dram := { d.dram with panic := p :: d.dram.panic } }
  else if ¬ up ∧ was then { d with dram := { d.dram with panic := d.dram.panic.filter (· ≠ p) } }
  else d

/-- The input buffer of a port holds so many sixteenths of its capacity (R367). -/
def Dev.portFill (d : Dev) (p n : Nat) : Dev :=
  { d with dram := { d.dram with fill := tset (fun _ => 0) d.dram.fill p n } }.panicAt p

/-- A request arrives at its port: slots are freed first, then it takes its place behind those of its class (R176). -/
def Dev.arrive (d : Dev) (a : DramAcc) (w : Option DramData) : Dev :=
  let p := portOf a.init
  let d := (d.portFill p a.low).portFill p a.fill
  let d := a.returned.foldl (fun (d : Dev) c => d.respond (16 * p + c)) d
  let r := d.dramReq a w
  let d := { d with dram := { d.dram with wait := tmod (fun _ => []) d.dram.wait r.key (· ++ [r]) } }
  d.drainReqs r.key

/-- DRAM_READ. DEDUCED (log 70). -/
def execDramRead (a : DramAcc) (s : State) : Res :=
  checked (Sys2Proof.Instr.wf (.dramRead a)) (onDevIf Dev.dramUp (fun d => d.arrive a none) s)

/-- DRAM_WRITE. DEDUCED (log 70). -/
def execDramWrite (a : DramAcc) (w : DramData) (s : State) : Res :=
  checked (Sys2Proof.Instr.wf (.dramWrite a w)) (onDevIf Dev.dramUp (fun d => d.arrive a (some w)) s)

/-! ## Refresh, re-centring and scrub -/

/-- DRAM_REFRESH: what the refresh-rate indication has called for is owed, and one refresh of the bank is issued unless
it is postponed (R361). Requests that waited for it go on. A channel whose ranks are all in self-refresh has none to
issue. -/
def execDramRefresh (k : Fin 48) (sub : Fin 2) (demand : RefreshIn) (s : State) : Res :=
  onDevIf (fun d => d.dramUp && !(d.chan k).failed && (d.chan k).retraining.isNone &&
      !(d.selfRefreshes (2 * k) && d.selfRefreshes (2 * k + 1)))
    (fun d =>
      let owed (n : Nat) : Nat := n + demand.calls - b2n (!demand.postponed)
      (d.modChan k fun c =>
        { c with refresh := tmod (fun _ => 0) c.refresh (256 * sub.val + demand.bank) owed }).chanGoes k) s

/-- TIMING_RECENTRE: every 100 ms (R362). -/
def execTimingRecentre (k : Fin 48) (s : State) : Res :=
  onDevIf (fun d => d.dramUp && !(d.chan k).failed && decide ((d.chan k).recentre + 100000000 ≤ d.time.now))
    (fun d => d.modChan k fun c => { c with recentre := d.time.now }) s

/-- A granule address of a scrub report: the low six bits carry the first wrong symbol. DEDUCED (log 71). -/
def scrubAt (x : Nat) : Nat := x / 64 * 64

/-- Whether the scrub reads a granule: of a rank in service that is not being migrated (R363). -/
def Dev.scrubs (d : Dev) (x : Nat) : Bool :=
  ((d.locate x).map fun l => !(d.dram.mig.any (·.source = l.1))).getD false

/-- One corrected granule of the scrub, with one or both of its codewords: its page is marked where the last pass
corrected it too. DEDUCED (log 71). -/
def Dev.scrubOne (d : Dev) (y : Nat × Bool) : Dev :=
  let x := y.1
  let a := scrubAt x
  let d := d.dramCorrected a (1 + b2n y.2) (x % 64)
  match d.locate a with
  | none => d
  | some (r, off, sub) =>
    if a / 64 ∈ (d.chan (r / 2)).lastPass then d.markPage r (pageKey r off sub) else d

/-- Granules of a scrub report, each once. -/
def eachOnce {α : Type} (f : α → Nat) (l : List α) : List α :=
  l.foldl (fun kept x => if kept.any fun y => f y / 64 == f x / 64 then kept else kept ++ [x]) []

/-- Whether the scrub's reads, which are initiator 733's at port 7, pass the regulator: its class is neither refused nor
at its cap (R176, R363). DEDUCED (log 71). -/
def Dev.scrubPasses (d : Dev) : Bool := !d.capped 733 (d.initCls 733 (d.initPart 733)) 0

/-- PATROL_SCRUB_PASS: one pass in MC_SCRUB_CFG.HOURS powered hours (R363, R378). DEDUCED (log 71). -/
def execPatrolScrubPass (corrected : List (Fin 1099511627776 × Bool)) (poisoned : List (Fin 1099511627776)) (s : State) : Res :=
  onDevIf (fun d => d.dramUp && d.live && d.scrubPasses && decide (d.dram.patrol + d.fld R.mcScrubCfg 0 16 ≤ d.chip.hours))
    (fun d =>
      let ys := eachOnce (·.1) ((corrected.map fun y => (y.1.val, y.2)).filter fun y => d.scrubs y.1)
      let cs := ys.map (·.1)
      let ps := eachOnce id ((poisoned.map (·.val)).filter d.scrubs)
      let d := { d with dram := { d.dram with patrol := d.chip.hours } }
      let d := ys.foldl Dev.scrubOne d
      let d := ps.foldl (fun (d : Dev) x => d.dramLost (scrubAt x) none) d
      let last (k : Nat) : List Nat := (cs.filter fun x => ((d.locate x).map (·.1 / 2)) = some k).map (· / 64)
      let d := (List.range 48).foldl (fun (d : Dev) k =>
        if last k = [] ∧ (d.chan k).lastPass = [] then d else d.modChan k fun c => { c with lastPass := last k }) d
      d.evHub 0 0x2050 [cs.length, ps.length, d.chip.hours]) s

/-- A spare rank is retired without having entered service (R356, R375). DEDUCED (log 71). -/
def Dev.retireSpare (d : Dev) (r reason : Nat) : Dev :=
  (d.modRank r fun x => { x with state := 2 }).evMig 5 0x2012 [r, reason]

/-- SPARE_RANK_SCRUB: once in 24 powered hours (R356). DEDUCED (log 71). -/
def execSpareRankScrub (r : Fin 96) (ok : Bool) (s : State) : Res :=
  onDevIf (fun d => d.live && decide ((d.rank r).state = 0) && !(d.dram.mig.any (·.spare = r.val)) &&
      decide ((d.rank r).scrubbed + 24 ≤ d.chip.hours))
    (fun d =>
      let d := d.modRank r fun x => { x with scrubbed := d.chip.hours }
      if ok then d else d.retireSpare r 1) s

/-! ## Command parity -/

/-- COMMAND_PARITY_ALERT: the retry buffer is replayed, or at the same entry's alert on the fourth
consecutive replay the channel retrains in place (R370, R371). DEDUCED (log 72). -/
def execCommandParityAlert (k : Fin 48) (entry : Fin 64) (s : State) : Res :=
  onDevIf (fun d => d.dramUp && !(d.chan k).failed && (d.chan k).retraining.isNone)
    (fun d =>
      let n := match (d.chan k).entryRun with
        | some (e, n) => if e = entry.val then n + 1 else 0
        | none => 0
      if n = 4 then
        d.modChan k fun c => { c with entryRun := none, retraining := some d.time.now, retrains := satAdd 255 c.retrains 1 }
      else
        ((d.bump16 (R.mcChan k) 0).evChan 1 0x2020 k [k, entry]).modChan k fun c =>
          { c with entryRun := some (entry.val, n) }) s

/-! ## Rank sparing -/

/-- The lowest-numbered spare rank on a channel other than the failing rank's (R374). -/
def Dev.spareFor (d : Dev) (r : Nat) : Option Nat :=
  (List.range 96).find? fun x => (d.rank x).state == 0 && x / 2 != r / 2

/-- Step 1 of R375, or event 0x2013 where no spare remains: the rank stays in service. DEDUCED (log 71). -/
def Dev.migrate (d : Dev) (r cause : Nat) : Dev :=
  match d.spareFor r with
  | none =>
    let st := if (d.chan (r / 2)).failed then 2 else 1
    (d.modRank r fun x => { x with state := st }).evMig 5 0x2013 [r, cause]
  | some x =>
    let m : Mig :=
      { logical := (d.logicalRank r).getD 0, source := r, spare := x, cause := cause, start := d.time.now }
    let d := { d with dram := { d.dram with mig := some m } }
    (d.modRank r fun q => { q with state := 3 }).evMig 5 0x2010 [r, x, cause]

/-- The spare of the migration is abandoned, and the migration starts again with the next (R375). -/
def Dev.abandonSpare (d : Dev) (reason : Nat) : Dev :=
  match d.dram.mig with
  | none => d
  | some m =>
    let d := d.retireSpare m.spare reason
    let d := { d with dram := { d.dram with mig := none } }
    d.migrate m.source m.cause

/-- RANK_SPARING_DECISION: one migration at a time, in the order of the causes (R374, R375). -/
def execRankSparingDecision (s : State) : Res :=
  onDevIf (fun d => d.live && d.dram.mig.isNone)
    (fun d => match d.dram.queue with
      | [] => d
      | (r, cause) :: t => { d with dram := { d.dram with queue := t } }.migrate r cause) s

/-- A spare does not come up in step 2: the manual gives the case no reason code. DEDUCED (log 71). -/
def Dev.spareDead (d : Dev) : Dev :=
  let (reason, d) := d.fresh
  d.abandonSpare reason

/-- SPARE_RANK_TRAINED: step 2 of R375. -/
def execSpareRankTrained (ok : Bool) (s : State) : Res :=
  onDevIf (fun d => d.live && d.dram.mig.any (·.step = 1))
    (fun d => if ok then { d with dram := { d.dram with mig := d.dram.mig.map fun m => { m with step := 2 } } }
      else d.spareDead) s

/-- Device address of an offset of a logical rank (R355). -/
def Dev.rankAddr (d : Dev) (l off : Nat) : Nat :=
  let n := d.dram.safety.length
  if l < n then (off / 256 * n + l) * 256 + off % 256
  else d.safetySize + (off / 256 * d.dram.general.length + (l - n)) * 256 + off % 256

/-- Granules of a page that the source does not give become zeros with POISON = 1 (R375). -/
def Dev.copyBad (d : Dev) (m : Mig) (gs : List Nat) : Dev :=
  gs.foldl (fun (d : Dev) g =>
    let a := d.rankAddr m.logical (m.page * 4096 + g * 64)
    ((d.zero a 64).setPoison (a / 64) true).listPoison (a / 64)) d

/-- A page is done: the next, or the commit after the last of the 524,288. -/
def Mig.nextPage (m : Mig) (bad : Nat) : Mig :=
  { m with page := m.page + 1, bad := m.bad + bad, retried := false, step := if m.page + 1 = 524288 then 3 else 2 }

/-- PAGE_COPY_DONE: step 3 of R375. DEDUCED (log 71). -/
def execPageCopyDone (unreadable : List (Fin 64)) (readBack : Bool) (spareBad : Bool) (s : State) : Res :=
  onDevIf (fun d => d.live && d.dram.mig.any (·.step = 2))
    (fun d => match d.dram.mig with
      | none => d
      | some m =>
        let put (d : Dev) (f : Mig → Mig) : Dev := { d with dram := { d.dram with mig := some (f m) } }
        if spareBad then d.abandonSpare 3
        else if readBack = false then
          if m.retried then d.abandonSpare 2 else put d fun m => { m with retried := true }
        else
          let gs := if (d.chan (m.source / 2)).failed then List.range 64
            else (List.range 64).filter fun g => unreadable.any (·.val = g)
          put (d.copyBad m gs) fun m => m.nextPage gs.length) s

/-- Replace a physical rank in a pool's list. -/
def swapRank (x y : Nat) (l : List Nat) : List Nat := l.map fun r => if r = x then y else r

/-- MIGRATION_COMMIT: steps 4 and 5 of R375, and the warning of R35 for the last spare. DEDUCED (log 71). -/
def execMigrationCommit (s : State) : Res :=
  onDevIf (fun d => d.live && d.dram.mig.any (·.step = 3))
    (fun d => match d.dram.mig with
      | none => d
      | some m =>
        let d := { d with dram := { d.dram with
          mig := none, safety := swapRank m.source m.spare d.dram.safety
          general := swapRank m.source m.spare d.dram.general } }
        let d := (d.modRank m.source fun r => { r with state := 2 }).modRank m.spare fun r => { r with state := 1 }
        let d := d.evMig 0 0x2011 [m.source, m.spare, m.bad, (d.time.now - m.start) / 1000000]
        if (List.range 96).any fun r => (d.rank r).state == 0 then d
        else d.evMig 5 0x2015 [m.spare, m.source]) s

/-- A rank of a failed channel is retired: one in service is spared with cause 3, the spare of a migration
is abandoned (R372, R374, R377). -/
def Dev.rankDead (d : Dev) (r : Nat) : Dev :=
  if d.dram.mig.any (·.spare = r) then d.abandonSpare 3
  else if d.dram.mig.any (·.source = r) then d
  else (d.modRank r fun x => { x with state := 2 }).spareReq r 3

/-- CHANNEL_RETRAIN_DONE (R371, R372). DEDUCED (log 72). -/
def execChannelRetrainDone (k : Fin 48) (ok : Bool) (s : State) : Res :=
  onDevIf (fun d => (d.chan k).retraining.isSome)
    (fun d =>
      let from_ := (d.chan k).retraining.getD 0
      let d := d.evChan 3 0x2021 k [k, (d.time.now - from_) / 1000]
      let d := d.modChan k fun c => { c with retraining := none, failed := !ok }
      let d := if ok then d else ((d.evChan 5 0x2022 k [k]).rankDead (2 * k)).rankDead (2 * k + 1)
      d.chanGoes k) s

/-! ## Start -/

/-- Both ranks of the channels that fail training are retired (R362). -/
def Dev.trainDram (d : Dev) (failed : List (Fin 48)) : Dev :=
  (failed.map (·.val)).foldl (fun (d : Dev) (k : Nat) =>
    ((d.modRank (2 * k) fun x => { x with state := 2 }).modRank (2 * k + 1)
      fun x => { x with state := 2 }).modChan k fun c => { c with failed := true }) d

/-- The ranks in service on the channels that `p` selects: rank 0 of each in ascending channel order, then
rank 1 (R354). -/
def Dev.poolRanks (d : Dev) (p : Nat → Bool) : List Nat :=
  (((List.range 48).map (2 * ·)) ++ (List.range 48).map (2 * · + 1)).filter fun r =>
    p (r / 2) && ((d.rank r).state == 1 || (d.rank r).state == 3)

/-- The reservation of the image (R172). -/
def Dev.resvChans (d : Dev) : Nat := d.reg R.mcResvChanLo + d.fld R.mcResvChanHi 0 16 * 4294967296

/-- The pool lists at a cold start (R354): built where the record holds none, rebuilt with event 0x2014
where the reservation differs. -/
def Dev.poolLists (d : Dev) (recorded : Option Nat) : Dev :=
  let v := d.resvChans
  if recorded = some v then d
  else
    let sp := d.poolRanks fun k => bit v k
    let gp := d.poolRanks fun k => !bit v k
    let d := { d with dram := { d.dram with safety := sp, general := gp, resv := v } }
    if recorded.isNone then d else d.evHub 0 0x2014 [sp.length, gp.length, v]

/-- One marked page is repaired, or its bank has no repair row left, a matter of the DRAM's fuses that the
manual leaves open (R378). -/
def Dev.repairPage (d : Dev) (k page : Nat) : Dev :=
  let (v, d) := d.fresh
  if v % 2 = 1 then
    (d.evChan 0 0x2030 k (pageDetail page)).modChan k fun c => { c with marked := c.marked.filter (· ≠ page) }
  else
    (d.evChan 5 0x2031 k (pageDetail page)).modChan k fun c => { c with noRow := c.noRow ++ [page] }

/-- Page repair at a start: up to 8 marked pages of each channel (R378). DEDUCED (log 85). -/
def Dev.repairPages (d : Dev) : Dev :=
  (List.range 48).foldl (fun (d : Dev) k =>
    (((d.chan k).marked.filter fun p => !(d.chan k).noRow.contains p).take 8).foldl
      (fun (d : Dev) p => d.repairPage k p) d) d

/-- A migration that a reset abandoned restarts once the schedule is enabled, if its decision was recorded
(R377). -/
def Dev.resumeMig (d : Dev) (m : Option (Nat × Nat)) : Dev :=
  match m with
  | some (r, cause) => if (d.rank r).state = 2 ∧ (d.chan (r / 2)).failed = false then d else d.spareReq r cause
  | none => d

end Sys2Proof.Machine
end

