-- ==== Sys2Proof/Machine/Links.lean ====
section
/-! DEFINITION. Die-to-die links and light engines (R383 to R403): lane roles, flits and retry, attributed
errors, lane repair, in-place retraining, optical lanes with their spares, and the optical ports. -/

namespace Sys2Proof.Machine

/-! ## Modules, links and lanes -/

/-- Change a link module. -/
def Dev.modLmod (d : Dev) (m : Nat) (f : Lmod → Lmod) : Dev :=
  { d with links := { d.links with mods := tmod (fun _ => {}) d.links.mods m f } }
/-- Change a link. -/
def Dev.modLink (d : Dev) (k : Nat) (f : Link → Link) : Dev :=
  { d with links := { d.links with links := tmod (fun _ => {}) d.links.links k f } }

/-- An event of a link module (R403). DEDUCED (log 74). -/
def Dev.evLink (d : Dev) (cls code k : Nat) (detail : List Nat) : Dev :=
  let m := linkMod k
  if m < 16 then d.event cls code (m / 4) (0xE0 + m % 4) detail else d.event cls code (8 + (m - 16)) 0xE0 detail

/-- Hub lanes of a tile in service (R386). -/
def Dev.hubLanes (d : Dev) (t : Nat) : Nat :=
  [4 * t, 4 * t + 1, 4 * t + 2, 4 * t + 3].foldl
    (fun n k => if (d.link k).state = 0 then n else n + (d.linkLanes k).length) 0

/-- Event 0x3005 where a tile's hub lanes have fallen below TILE_t (R386). -/
def Dev.hubCheck (d : Dev) (before : Dev) (k : Nat) : Dev :=
  let t := k / 4
  if k < 16 ∧ d.hubLanes t < d.fld R.lnkHubMin (8 * t) 8 ∧ d.fld R.lnkHubMin (8 * t) 8 ≤ before.hubLanes t then
    d.event 5 0x3005 t 0xFF [t, d.hubLanes t]
  else d

/-- A counter of both ends' modules. -/
def Dev.linkCount (d : Dev) (k : Nat) (r : Nat → Nat) : Dev := (linkMods k).foldl (fun (d : Dev) m => d.bump (r m)) d
/-- A field of LNK_m_LAST of both ends' modules. -/
def Dev.linkLast (d : Dev) (k lo lane : Nat) : Dev :=
  (linkMods k).foldl (fun (d : Dev) m => d.setFld (R.lnkLast m) lo 6 lane) d

/-- R_t of ring link t. -/
def Dev.ringCfg (d : Dev) (t : Nat) : Nat := d.fld R.lnkRoleCfg (8 * t) 7

/-- The floor assigns ring and hub roles and trains every link (R385). DEDUCED (log 74). -/
def Dev.assignRoles (d : Dev) : Dev :=
  let d := (List.range 4).foldl (fun (d : Dev) t =>
    let a := 4 * t + 2
    let b := 4 * ((t + 1) % 4) + 3
    let lanes := ((List.range 64).filter fun l => !(d.lmod a).retired.contains l && !(d.lmod b).retired.contains l).take (d.ringCfg t)
    (d.modLmod a fun q => { q with ring := lanes }).modLmod b fun q => { q with ring := lanes }) d
  (List.range 24).foldl (fun (d : Dev) k =>
    d.modLink k fun _ => { state := if (d.linkLanes k).isEmpty then 0 else 2 }) d

/-! ## Flits -/

/-- A direction of a link. -/
def Link.dir (x : Link) (i : Nat) : LinkDir := if i = 0 then x.dir0 else x.dir1
/-- Change a direction of a link. -/
def Link.modDir (x : Link) (i : Nat) (f : LinkDir → LinkDir) : Link :=
  if i = 0 then { x with dir0 := f x.dir0 } else { x with dir1 := f x.dir1 }

/-- A lane needs repair, once (R391). -/
def Link.needs (x : Link) (lane : Nat) : Link :=
  if lane ∈ x.due then x else { x with due := x.due ++ [lane] }

/-- Attributed errors (R389, R391): each lane counts one; a retry also counts its lanes' runs and ends
those of the others. DEDUCED (log 74). -/
def Link.attribute (x : Link) (lanes : List Nat) (retry : Bool) : Link :=
  let x := if retry then { x with attrRun := x.attrRun.filter fun e => lanes.contains e.1 } else x
  lanes.foldl (fun (x : Link) l =>
    let n := tget (fun _ => 0) x.attrs l + 1
    let r := tget (fun _ => 0) x.attrRun l + 1
    let x := { x with attrs := tset (fun _ => 0) x.attrs l n }
    let x := if retry then { x with attrRun := tset (fun _ => 0) x.attrRun l r } else x
    if n = 4 ∨ (retry = true ∧ r = 3) then x.needs l else x) x

/-- Attributed errors with their counters. DEDUCED (log 74). -/
def Dev.attributed (d : Dev) (k : Nat) (lanes : List Nat) (retry : Bool) : Dev :=
  let d := lanes.foldl (fun (d : Dev) l => (d.linkCount k R.lnkAttr).linkLast k 0 l) d
  d.modLink k fun x => x.attribute lanes retry

/-- The 288 bytes of a flit (R387). -/
def flitBytes (head ack : BitVec 16) (credits : BitVec 32) (slots : List Byte) (crc : DWord) : List Byte :=
  toLE 2 head.toNat ++ toLE 2 ack.toNat ++ toLE 4 credits.toNat ++ slots ++ toLE 8 crc.toNat
/-- SEQ of a flit (R387). -/
def flitSeq (f : List Byte) : Nat := bits (ofLE (f.take 2)) 0 12
/-- TYPE of a flit (R387). -/
def flitType (f : List Byte) : Nat := bits (ofLE (f.take 2)) 12 4
/-- The ACK field of a flit (R387). -/
def flitAck (f : List Byte) : Nat := ofLE ((f.drop 2).take 2)

/-- The CRC-64 over bytes in the order of their flit bits (R387). DEDUCED (log 74). -/
def crc64 (bytes : List Byte) : BitVec 64 := crc64From Config.crc64Start (byteBits bytes) ^^^ Config.crc64End
/-- Whether a flit passes its check (R388). -/
def flitOk (f : List Byte) : Bool := decide (f.drop 280 = toLE 8 (crc64 (f.take 280)).toNat)

/-- The numbers of the flit bits in which two byte strings differ, the first at `k`. -/
def diffBits (k : Nat) : List Byte → List Byte → List Nat
  | x :: xs, y :: ys => ((List.range 8).filter fun i => x.getLsbD i != y.getLsbD i).map (k + ·) ++ diffBits (k + 8) xs ys
  | _, _ => []
/-- The logical lanes that carried differing bits: bit k travels on lane k mod W of the link's W lanes (R387, R389). -/
def Dev.diffLanes (d : Dev) (k : Nat) (diff : List Nat) : List Nat :=
  let ls := d.linkLanes k
  (ls.zipIdx.filter fun x => diff.any fun b => b % ls.length = x.2).map (·.1)
/-- The flit bits in which an idle flit's slots differ from the known idle pattern (R389). DEDUCED (log 74). -/
def idleDiff (f : List Byte) : List Nat :=
  diffBits 64 ((f.drop 8).take 272) ((List.range 272).map fun i => Config.idleByte (8 + i))

/-- A flit that fails its CRC (R388, R389): an idle flit's errors are attributed at once; another is
discarded with a NAK, and a replay that fails counts. -/
def Dev.flitBad (d : Dev) (l : Nat) (f : List Byte) : Dev :=
  let k := l / 2
  let q := (d.link k).dir (l % 2)
  if flitType f = 0 then d.attributed k (d.diffLanes k (idleDiff f)) false
  else if q.naking ∧ q.replaying = false then d
  else
    (d.modLink k fun x => x.modDir (l % 2) fun q =>
      { q with naking := true, kept := if q.replaying then q.kept ++ [f] else [f], replaying := false, fails := if q.replaying then q.fails + 1 else 0 }).emit
        (.linkAck l q.expect true)

/-- A data flit whose CRC is good (R388): delivered once, in SEQ order, and acknowledged; the replay of a
flit that had failed is compared with each bad copy. -/
def Dev.flitData (d : Dev) (l : Nat) (f : List Byte) : Dev :=
  let k := l / 2
  let q := (d.link k).dir (l % 2)
  let seq := flitSeq f
  if seq = q.expect then
    let d := q.kept.foldl (fun (d : Dev) bad => d.attributed k (d.diffLanes k (diffBits 0 bad f)) true) d
    (d.modLink k fun x => x.modDir (l % 2) fun q =>
      { q with expect := (q.expect + 1) % 4096, naking := false, kept := [], replaying := false, fails := 0 }).emit
        (.linkAck l seq false)
  else if q.naking ∨ 2048 ≤ (seq + 4096 - q.expect) % 4096 then d
  else (d.modLink k fun x => x.modDir (l % 2) fun q => { q with naking := true }).emit (.linkAck l q.expect true)

/-- FLIT_RECEIVE (R387 to R389). DEDUCED (log 74). DESIGN CHOICE (log 92). -/
def execFlitReceive (l : Fin 48) (head ack : BitVec 16) (credits : BitVec 32) (slots : List Byte) (crc : DWord)
    (s : State) : Res :=
  let flit := flitBytes head ack credits slots crc
  checked (Sys2Proof.Instr.wf (.flitReceive l head ack credits slots crc))
    (onDevIf (fun d => decide (2 ≤ (d.link (l / 2)).state))
      (fun d =>
        if flitOk flit = false then d.flitBad l flit
        else
          let a := flitAck flit
          let last := if bit a 13 then (bits a 0 12 + 4095) % 4096 else bits a 0 12
          let d := if bit a 12 || bit a 13 then
              d.modLink (l / 2) fun x => x.modDir (1 - l.val % 2) fun q => { q with acked := last }
            else d
          if flitType flit = 1 then d.flitData l flit else d) s)

/-- FLIT_REPLAY: the sender replays from the SEQ named, also as a lane's repair begins, where a retry in progress
completes (R391); beyond 8 in a wingbeat event 0x3002 (R388, R390).
DEDUCED (log 74). -/
def execFlitReplay (l : Fin 48) (seq : Fin 4096) (s : State) : Res :=
  onDevIf (fun d =>
      let q := (d.link (l / 2)).dir (l.val % 2)
      (decide ((d.link (l / 2)).state = 2) || (d.link (l / 2)).repairing.isSome) && q.naking && !q.replaying && decide (seq.val = q.expect) && decide (q.fails < 4))
    (fun d =>
      let k := l.val / 2
      let n := (d.link k).retries + 1
      let d := (d.linkCount k R.lnkRetry).modLink k fun x =>
        { (x.modDir (l.val % 2) fun q => { q with replaying := true }) with retries := n, retriesEp := x.retriesEp + 1 }
      let d := d.emit (.flitResent l seq)
      if 8 < n then d.evLink 5 0x3002 k [linkMod k, n, d.wb] else d) s

/-! ## Retraining and the loss of a link -/

/-- LINK_RETRAIN: after 4 failed replays of one flit (R390). -/
def execLinkRetrain (k : Fin 24) (s : State) : Res :=
  onDevIf (fun d => decide ((d.link k).state = 2) && (decide (4 ≤ (d.link k).dir0.fails) || decide (4 ≤ (d.link k).dir1.fails)))
    (fun d => (d.linkCount k R.lnkRetrain).modLink k fun x => { x with state := 3, retrainAt := d.time.now }) s

/-- A link goes down (R390): ring traffic takes the hub path, a hub link's share moves to the tile's others,
and without another path the islands request the safe state with cause 5. -/
def Dev.linkDown (d : Dev) (k : Nat) : Dev :=
  let was := d
  let d := d.modLink k fun x => { x with state := 0, due := [], repairing := none }
  let left := k < 16 ∧ 0 < d.hubLanes (k / 4)
  if isRing k then d.evLink 5 0x3008 k [linkMod k, 1]
  else if left then (d.evLink 5 0x3008 k [linkMod k, 0]).hubCheck was k
  else d.evLink 4 0x3006 k [linkMod k]

/-- LINK_RETRAIN_DONE (R390). DEDUCED (log 74). -/
def execLinkRetrainDone (k : Fin 24) (ok : Bool) (s : State) : Res :=
  onDevIf (fun d => decide ((d.link k).state = 3) && (d.link k).repairing.isNone)
    (fun d =>
      let d := d.evLink 3 0x3007 k [linkMod k, (d.time.now - (d.link k).retrainAt) / 1000]
      if ok then d.modLink k fun x =>
        { ((x.modDir 0 fun q => { q with fails := 0, replaying := false }).modDir 1
            fun q => { q with fails := 0, replaying := false }) with state := 2 }
      else d.linkDown k) s

/-! ## Lane repair -/

/-- The lowest-numbered redundant lane free at both ends (R391). -/
def Dev.redLane (d : Dev) (k : Nat) : Option Nat :=
  (List.range 4).find? fun r => (linkMods k).all fun m => !(d.lmod m).redUsed.contains r

/-- A lane is retired for want of a redundant lane (R392); a link left without a lane is down (R390). DEDUCED (log 74). -/
def Dev.retireLane (d : Dev) (k lane : Nat) : Dev :=
  let was := d
  let d := (linkMods k).foldl (fun (d : Dev) m => d.modLmod m fun q => { q with retired := q.retired ++ [lane] }) d
  let d := d.modLink k fun x => { x with due := x.due.filter (· ≠ lane), repairF := some d.ctrlFrame }
  let d := (d.evLink 5 0x3004 k [linkMod k, lane, (d.linkLanes k).length]).hubCheck was k
  if (d.linkLanes k).isEmpty then d.linkDown k else d

/-- LANE_REPAIR_START: at a wingbeat's start, and in a control frame that has had a repair of the link not
before the next control-frame tick (R391, R392). -/
def execLaneRepairStart (k : Fin 24) (lane : Fin 64) (s : State) : Res :=
  onDevIf (fun d => let x := d.link k
      decide (x.state = 2) && x.due.contains lane.val && decide (x.repairF ≠ some d.ctrlFrame) &&
      decide (d.time.now % wingbeatNs = 0))
    (fun d => match d.redLane k with
      | none => d.retireLane k lane
      | some r =>
        let d := (linkMods k).foldl (fun (d : Dev) m => d.modLmod m fun q => { q with redUsed := q.redUsed ++ [r] }) d
        d.modLink k fun x => { x with state := 3, repairing := some (lane.val, r), repairF := some d.ctrlFrame }) s

/-- The repair that ended well: step 4 of R391, and the warning of R35 for a module's last redundant lane. -/
def Dev.laneRepaired (d : Dev) (k lane r : Nat) : Dev :=
  let d := (linkMods k).foldl (fun (d : Dev) m =>
    d.modLmod m fun q => { q with repairs := q.repairs.filter (·.1 ≠ lane) ++ [(lane, r)] }) d
  let d := d.modLink k fun x => { x with
    due := x.due.filter (· ≠ lane), attrs := tset (fun _ => 0) x.attrs lane 0
    attrRun := tset (fun _ => 0) x.attrRun lane 0 }
  let d := (d.linkCount k R.lnkRepair).linkLast k 6 lane
  let d := d.evLink 0 0x3003 k [linkMod k, lane, r, 4 - (d.lmod (linkMod k)).redUsed.length]
  (linkMods k).foldl (fun (d : Dev) m =>
    if (d.lmod m).redUsed.length = 4 then d.evLink 5 0x3009 m [m, lane] else d) d

/-- LANE_REPAIR_DONE: the redundant lane takes over, or it is marked failed and the lane goes back (R391). -/
def execLaneRepairDone (k : Fin 24) (ok : Bool) (s : State) : Res :=
  onDevIf (fun d => (d.link k).repairing.isSome)
    (fun d => match (d.link k).repairing with
      | none => d
      | some (lane, r) =>
        let d := d.modLink k fun x => { x with state := 2, repairing := none }
        if ok then d.laneRepaired k lane r else d) s

/-- The retries in a wingbeat start afresh. -/
def Dev.linksTick (d : Dev) : Dev :=
  { d with links := { d.links with links := d.links.links.map fun e => (e.1, { e.2 with retries := 0 }) } }

/-- At an epoch tick: event 0x3001 once per link with retries, and the epoch's counts start afresh. -/
def Dev.linksEpoch (d : Dev) : Dev :=
  let d := d.links.links.foldl (fun (d : Dev) e =>
    if e.2.retriesEp = 0 then d
    else d.evLink 1 0x3001 e.1 [linkMod e.1, e.2.retriesEp, e.2.attrs.foldl (fun n a => n + 2 ^ a.1) 0]) d
  { d with links := { d.links with links := d.links.links.map fun e => (e.1, { e.2 with retriesEp := 0, attrs := [] }) } }

/-! ## Optical lanes (R393 to R399) -/

/-- The spare lanes of a port, in order (R393); the management port has none. -/
def portSpares (port : Nat) : List Nat :=
  match port with
  | 0 => [16, 17]
  | 1 => [32]
  | 2 => [32]
  | 3 => [56]
  | 4 => [56]
  | 5 => [74]
  | 6 => [74]
  | _ => []

/-- Optical lane `n`. -/
def Dev.lane (d : Dev) (n : Nat) : OptLane := tget laneDef d.links.lanes n
/-- Change an optical lane. -/
def Dev.modLane (d : Dev) (n : Nat) (f : OptLane → OptLane) : Dev :=
  { d with links := { d.links with lanes := tmod laneDef d.links.lanes n f } }
/-- The port that a lane serves now: its own, or that of the lane whose fibres it took over. -/
def Dev.servesPort (d : Dev) (n : Nat) : Option Nat :=
  match (d.lane n).serves with
  | some x => lanePort x
  | none => lanePort n
/-- The laser group of a lane: light engine × 3 + group. DEDUCED (log 75). -/
def laserGroup (n : Nat) : Nat := n / 24 * 3 + n % 24 / 8
/-- An event of an optical lane: the light engine, with the lane position as block byte (R403). -/
def Dev.evLane (d : Dev) (cls code n : Nat) (detail : List Nat) : Dev := d.event cls code (8 + n / 24) (n % 24) detail
/-- The light engine that carries a port. -/
def portEngine (port : Nat) : Nat := if port = 0 then 0 else if port < 3 then 1 else if port < 5 then 2 else 3
/-- An event of an optical port. -/
def Dev.evPort (d : Dev) (cls code port : Nat) (detail : List Nat) : Dev :=
  d.event cls code (8 + portEngine port) 0xFF detail

/-- The follower's slave port (R42, R44). -/
def Dev.slavePort (d : Dev) : Option Nat :=
  if bit (d.reg R.tkGptpCfg) 0 then some (d.fld R.tkGptpCfg 2 2 + 1) else none

/-- A port's link goes down: event 0x3027; the slave port takes the time base into Holdover (R44, R397). -/
def Dev.portDown (d : Dev) (port : Nat) : Dev :=
  let d := d.evPort 5 0x3027 port [port]
  let d := { d with links := { d.links with up := d.links.up.filter (· ≠ port) } }
  let d := if port = 0 then { d with host := { d.host with up := false, lit := false, bar2 := [] } } else d
  if d.slavePort = some port then d.holdover else d

/-- A port's link comes up: event 0x3028; what waits for the host goes out (R454). -/
def Dev.portUp (d : Dev) (port width : Nat) : Dev :=
  let d := { d with links := { d.links with up := if port = 0 ∨ port ∈ d.links.up then d.links.up else d.links.up ++ [port] } }
  let d := if port = 0 then { d with host := { d.host with up := true, lit := true }, links := { d.links with hostW := width } } else d
  let d := d.evPort 0 0x3028 port [port, width]
  if port = 0 then d.payOwed else d

/-- Lanes of the host port that carry the link: each position by itself or by the spare that serves it. -/
def Dev.hostLane (d : Dev) (i : Nat) : Bool :=
  !d.links.hostOut.contains i &&
    ((d.lane i).state == 1 || [16, 17].any fun sp => (d.lane sp).state == 1 && (d.lane sp).serves == some i)

/-- The width at which the host link can form: x16, x8 on a half with every lane, or none (R399). DEDUCED (log 76). -/
def Dev.hostWidth (d : Dev) : Nat :=
  let lo := (List.range 8).all d.hostLane
  let hi := (List.range 8).all fun i => d.hostLane (8 + i)
  if lo && hi then 16 else if lo || hi then 8 else 0

/-- The host link enters Recovery (HP_LINK.RECOVERIES). DEDUCED (log 76). -/
def Dev.hostRecovery (d : Dev) : Dev := { d with host := { d.host with recov := satAdd 0xFFFF d.host.recov 1 } }

/-- A host lane that is lost narrows the link to x8, or leaves it no half with every lane (R399). DEDUCED (log 76). -/
def Dev.hostNarrow (d : Dev) (n : Nat) : Dev :=
  let d := d.evLane 5 0x3026 n [n]
  if d.host.up = false then d
  else if d.hostWidth = 0 then d.portDown 0
  else { d.hostRecovery with links := { d.links with hostW := d.hostWidth } }

/-- A port starts to retrain for a moult (R397): sensor and management ports go down. -/
def Dev.startRetrain (d : Dev) (port : Nat) : Dev :=
  if port ∈ d.links.retrain then d
  else
    let d := { d with links := { d.links with retrain := d.links.retrain ++ [port] } }
    if port = 0 then (if d.host.up then d.hostRecovery else d)
    else if port = 5 ∨ port = 6 then d
    else if port ∈ d.links.up then d.portDown port else d

/-- A free spare lane of a port. -/
def Dev.freeSpare (d : Dev) (port : Nat) : Option Nat := (portSpares port).find? fun n => (d.lane n).state == 3

/-- Whether a lane's group has its spare laser. -/
def Dev.laserLeft (d : Dev) (n : Nat) : Bool := !d.links.lasers.contains (laserGroup n)

/-- The spare laser of a lane's group takes its place (R394, R396, R398). DEDUCED (log 75). -/
def Dev.moultLaser (d : Dev) (n reason : Nat) : Dev :=
  let g := laserGroup n
  let d := { d with links := { d.links with lasers := d.links.lasers ++ [g] } }
  let d := d.modLane n fun x =>
    { x with state := 1, spareLaser := true, flaps := [], moult := none, eol := false, moultAt := some d.time.now }
  (d.evLane 0 0x3022 n [g % 3, reason]).evLane 5 0x3029 n [g % 3, 2]

/-- A spare lane takes over a lane's fibres (R394, R396). DEDUCED (log 75). -/
def Dev.moultLane (d : Dev) (n sp port : Nat) : Dev :=
  let d := d.modLane n fun x => { x with state := 2, flaps := [], moult := none }
  let d := d.modLane sp fun x =>
    { x with state := 1, serves := some ((d.lane n).serves.getD n), moultAt := some d.time.now }
  let left := ((portSpares port).filter fun x => (d.lane x).state == 3).length
  let d := d.evLane 0 0x3021 sp [port, sp % 24, left]
  if left = 0 then d.evLane 5 0x3029 sp [port, 1] else d

/-- One lane's moult by the order of R396 and R398; a lane left without a spare stays in use, but for a
host-port lane, which is taken out of service (R399). DEDUCED (log 75). -/
def Dev.moultOne (d : Dev) (port n : Nat) : Dev :=
  match (d.lane n).moult with
  | none => d
  | some 2 => if d.laserLeft n then d.moultLaser n 2 else d.modLane n fun x => { x with moult := none }
  | some c =>
    if c = 0 ∧ d.laserLeft n = true then d.moultLaser n 1
    else match d.freeSpare port with
      | some sp => d.moultLane n sp port
      | none =>
        if d.laserLeft n then d.moultLaser n 1
        else
          let d := d.modLane n fun x => { x with state := 2, kept := decide (port ≠ 0), moult := none }
          if port = 0 then d.hostNarrow n else d

/-- The lanes that serve a port, lowest position first. -/
def Dev.portLanes (d : Dev) (port : Nat) : List Nat := (List.range 96).filter fun n => d.servesPort n == some port

/-- The lanes of a port's link, each by its own position or by the spare that serves it (R393, R394, R399). -/
def portLink (port : Nat) : Nat := ((List.range 96).filter fun n => lanePort n == some port).length

/-- The width at which a port's link forms: that of the host link, else every lane of the port (R399, R402).
DEDUCED (log 76). -/
def Dev.portWidth (d : Dev) (port : Nat) : Nat := if port = 0 then d.hostWidth else portLink port

/-- PORT_RETRAIN_DONE: one retraining serves every lane of the port that is due, lower positions first;
AP0 and AP1 never in one control frame (R396, R397). DEDUCED (log 75). -/
def execPortRetrainDone (port : Fin 8) (s : State) : Res :=
  onDevIf (fun d => d.links.retrain.contains port.val &&
      !(decide (port.val = 5 ∨ port.val = 6) && decide (d.links.lastAp = some (11 - port.val, d.ctrlFrame))))
    (fun d =>
      let p := port.val
      let d := (d.portLanes p).foldl (fun (d : Dev) n => d.moultOne p n) d
      let d := { d with links := { d.links with retrain := d.links.retrain.filter (· ≠ p) } }
      if p = 0 then d
      else if p = 5 ∨ p = 6 then { d with links := { d.links with lastAp := some (p, d.ctrlFrame) } }
      else d.portUp p (portLink p)) s

/-- Whether a flap counts as transmit-side: a laser-fault shutdown, a bias above 2 × BIAS0 or a transmit OMA
below −3.0 dBm (R396). -/
def OptLane.txSide (x : OptLane) (laserFault : Bool) : Bool :=
  laserFault || decide (2 * x.bias0 < x.bias) || decide (x.tx < -30)

/-- The lane reached 3 flaps within 10 s (R396, R399): a fault outside the module takes no further spare; a
lane kept without a spare is named when it reaches the threshold again. DEDUCED (log 75). -/
def Dev.lanePast (d : Dev) (n port : Nat) : Dev :=
  let x := d.lane n
  let tx := x.flaps.any (·.2)
  if x.outside || x.moultAt.any (fun t => decide (d.time.now < t + 60000000000)) then
    (d.modLane n fun x => { x with outside := true, flaps := [] }).evLane 5 0x3025 n [port]
  else if x.kept then (if x.flaps.length = 3 then d.evLane 5 0x3024 n [port, x.flaps.length] else d)
  else
    let d := d.evLane 5 0x3020 n [port, if tx then 1 else 2]
    let d := d.modLane n fun x => { x with moult := some (if tx then 0 else 1) }
    d.startRetrain port

/-- LANE_FLAP (R396). DEDUCED (log 75). -/
def execLaneFlap (lane : Fin 96) (laserFault : Bool) (s : State) : Res :=
  onDevIf (fun d => let x := d.lane lane
      d.chip.phase != .modReset && !d.chip.selfRef && (x.state == 1 || x.kept) && x.moult.isNone && (d.servesPort lane).isSome)
    (fun d =>
      let now := d.time.now
      let d := d.modLane lane fun x =>
        { x with flaps := (x.flaps.filter fun f => decide (now < f.1 + 10000000000)) ++ [(now, x.txSide laserFault)] }
      if 3 ≤ (d.lane lane).flaps.length then d.lanePast lane ((d.servesPort lane).getD 0) else d) s

/-! ## Telemetry -/

/-- One lane's sample: telemetry registers, one margin warning, and the end of a laser's life (R395, R398).
DEDUCED (log 75). -/
def Dev.laneSample (d : Dev) (q : LaneSample) : Dev :=
  let n := q.lane.val
  let x := d.lane n
  if x.state ≠ 1 ∧ x.kept = false then d
  else
    let d := d.modLane n fun x => { x with tx := q.txOma.toInt, rx := q.rxOma.toInt, eye := q.eye, bias := q.bias }
    let d := d.setReg (R.optLane n)
      (q.txOma.toNat + q.rxOma.toNat * 256 + q.eye * 65536 + q.bias * 16777216)
    let d := if q.rxOma.toInt < signed 8 (d.fld R.optThr 0 8) then d.evLane 5 0x3023 n [1, q.rxOma.toNat]
      else if q.eye < d.fld R.optThr 8 7 then d.evLane 5 0x3023 n [2, q.eye] else d
    if d.fld R.optThr 15 9 * x.bias0 < q.bias * 100 ∧ x.spareLaser = false then
      let d := d.modLane n fun x => { x with eol := true }
      if d.servesPort n = some 0 ∧ d.laserLeft n = true ∧ x.moult = none then
        (d.modLane n fun x => { x with moult := some 2 }).startRetrain 0
      else d
    else d

/-- The optical telemetry of an epoch: one sample of each lane (R395). DEDUCED (log 75). -/
def Dev.telemetry (d : Dev) (lanes : List LaneSample) : Dev :=
  ((List.range 96).filterMap fun n => lanes.find? fun q => q.lane.val = n).foldl Dev.laneSample d

/-- Lasers in service past their end of life are replaced at a cold start and at step 6 of a recovery (R398). -/
def Dev.startLasers (d : Dev) : Dev :=
  (List.range 96).foldl (fun (d : Dev) n => if (d.lane n).eol && (d.lane n).state == 1 && d.laserLeft n then d.moultLaser n 2 else d) d

/-- Sensor, actuation and management ports train at a start. -/
def Dev.startPorts (d : Dev) : Dev :=
  [1, 2, 3, 4, 5, 6, 7].foldl (fun (d : Dev) p => d.portUp p (portLink p)) d

/-! ## Ports -/

/-- Whether the light engines are lit: from the start of the optical ports on. -/
def Dev.lit (d : Dev) : Bool := d.chip.phase != .modReset && !d.chip.selfRef

/-- PORT_LINK_DOWN (R403, R454). -/
def execPortLinkDown (port : Fin 10) (s : State) : Res :=
  onDevIf (fun d => if port.val = 0 then d.host.up else d.links.up.contains port.val)
    (fun d => if 8 ≤ port.val then { d with links := { d.links with up := d.links.up.filter (· ≠ port.val) } }
      else d.portDown port) s

/-- PORT_LINK_UP, at the width of the lanes that serve the port (R393, R399, R403). DEDUCED (log 76). -/
def execPortLinkUp (port : Fin 10) (width : Fin 17) (s : State) : Res :=
  onDevIf (fun d => (decide (8 ≤ port.val) || width.val == d.portWidth port) && (if port.val = 0 then !d.host.up && !d.host.held && d.lit && width != 0
      else !d.links.up.contains port.val && (decide (8 ≤ port.val) || d.lit)))
    (fun d => if 8 ≤ port.val then { d with links := { d.links with up := d.links.up ++ [port.val] } }
      else d.portUp port width) s

/-- The host link enters L0 at the width its lanes allow. DEDUCED (log 76). -/
def Dev.hostUp (d : Dev) : Dev := if d.hostWidth = 0 then d else d.portUp 0 d.hostWidth

/-- HOST_LINK_LIGHT: both ends are lit; with every lane locked the link comes up (R402). DEDUCED (log 76). -/
def execHostLinkLight (unlocked : List (Fin 16)) (s : State) : Res :=
  onDevIf (fun d => d.lit && !d.host.lit && !d.host.up)
    (fun d =>
      let u := (unlocked.map (·.val)).filter d.hostLane
      let d := { d with host := { d.host with lit := true, held := false }
                        links := { d.links with unlocked := u, hostOut := [] } }
      if u = [] then d.hostUp else d) s

/-- HOST_LANE_LOCK_TIMEOUT: a lane that has not locked is left out; after the last of them the link forms at
x8 (R399, R402). DEDUCED (log 76). -/
def execHostLaneLockTimeout (lane : Fin 16) (s : State) : Res :=
  onDevIf (fun d => d.host.lit && !d.host.up && d.links.unlocked.contains lane.val)
    (fun d =>
      let d := { d with links := { d.links with
        unlocked := d.links.unlocked.filter (· ≠ lane.val), hostOut := d.links.hostOut ++ [lane.val] } }
      let d := d.hostNarrow lane
      if d.links.unlocked = [] then d.hostUp else d) s

end Sys2Proof.Machine
end

