-- ==== Sys2Proof/Machine/Image.lean ====
section
/-! DEFINITION. Verification of signed images and the checks that a configuration image must pass (R2, R37,
R38, R48, R50, R160, R223, R231, R287, R317, R426 to R429, R470, R472). Every check of the registers reads
the device with the image's registers loaded. -/

namespace Sys2Proof.Machine

/-! ## Signed images (R426 to R428) -/

end Sys2Proof.Machine

namespace Sys2Proof

open Machine

/-- Step 1 of R428: MAGIC, VERSION, TYPE, the range of SVN and the fields that must be 0. DEDUCED (log 82). -/
def ImgHeader.headOk (h : ImgHeader) (type : Nat) : Bool :=
  h.magic == 0x4D495747 && h.version == 1 && h.type == type && decide (h.svn ≤ 64) && h.reserved == 0 &&
    decide (h.flags < 2) && decide (h.profile < 2) && (type == 2 || h.profile == 0) &&
    (decide (5 ≤ type) || h.nonce == 0)

end Sys2Proof

namespace Sys2Proof.Machine

/-- The fuse counter of a type; types without one count from 0 (R428). -/
def Fuses.svn (f : Fuses) : Nat → Nat
  | 1 => f.svnFw
  | 2 => f.svnCfg
  | 4 => f.svnTest
  | _ => 0

end Sys2Proof.Machine

namespace Sys2Proof

open Machine

/-- Step 5 of R428: BIND names any module or this one; a token that opens keys or debug is bound to the serial
number (R439, R444), and every token carries the current nonce. DEDUCED (log 82). -/
def ImgHeader.boundOk (h : ImgHeader) (f : Fuses) (nonce : Option Nat) : Bool :=
  (h.bind == f.serial || (h.bind == 0 && !(decide (5 ≤ h.type) && decide (h.type ≤ 7)))) &&
    (decide (h.type < 5) || nonce == some h.nonce)

end Sys2Proof

namespace Sys2Proof.Machine

/-- The reason of event 0x9001 for which an image is rejected, at the first failure (R428); 0 if it passes.
DEDUCED (log 82). -/
def Fuses.verify (f : Fuses) (nonce : Option Nat) (type : Nat) (h : ImgHeader) : Nat :=
  if h.headOk type = false then 1
  else if (h.crypto.keyOk && h.crypto.sigOk) = false then 2
  else if (h.crypto.tableOk && h.crypto.sectionsOk) = false then 3
  else if h.svn < f.svn type then 4
  else if h.boundOk f nonce = false then 5
  else 0

/-- An image in the module store that is missing does not read (reason 8). DEDUCED (log 82). -/
def Fuses.verifyStored (f : Fuses) (type : Nat) (h : Option ImgHeader) : Nat :=
  match h with
  | none => 8
  | some h => f.verify none type h

/-! ## Section 0x01, REGS -/

/-- Whether a stored dword lies within the ranges its register table states. -/
def regOk (off v : Nat) : Bool :=
  let f lo n := bits v lo n
  let within (x lo hi : Nat) : Bool := decide (lo ≤ x) && decide (x ≤ hi)
  let copy (base n stride : Nat) : Bool :=
    decide (base ≤ off) && decide (off < base + n * stride) && decide ((off - base) % stride = 0)
  if off = R.tkClassCfg then
    within (f 0 8) 40 160 && within (f 16 10) 160 800
  else if off = R.tkGptpCfg then within (f 8 4) 3 5 && decide (f 12 8 ≤ 25)
  else if off = R.tkLaunchBase then decide (f 12 13 * 4096 + 0x50000 ≤ hubSize)
  else if copy (R.tkTrig 0) 64 8 then decide (f 1 3 ≤ 4) && within (f 17 7) 1 80
  else if copy (R.tkTrigHi 0) 64 8 then decide (f 0 17 ≤ 124999)
  else if copy (R.qmTrkReserve 0) 4 (R.qmTrkReserve 1 - R.qmTrkReserve 0) then decide (f 0 13 ≤ 4096)
  else if off = R.mcScrubCfg then within (f 0 16) 1 24
  else if off = R.mcCeThr then decide (1 ≤ f 0 16)
  else if copy (R.mcQos 0) 8 4 then f 0 2 != 3 && decide (1 ≤ f 4 4) && decide (100 ≤ f 8 16)
  else if off = R.fuUpdateTvNs then decide (f 0 17 ≤ 124999)
  else if off = R.fuSectorCfg then within (f 0 5) 1 16 && within (f 5 5) 1 16 && decide (1 ≤ f 10 8)
  else if off = R.fuInstarCfg then decide (1 ≤ f 0 8) && decide (1 ≤ f 8 4)
  else if off = R.fuStateSize then within (f 0 7) 1 64
  else if off = R.fuIsetBase then decide (f 6 19 % 64 = 0)
  else if off = R.fuMboxBase then decide (f 6 19 * 64 + 512 ≤ hubSize)
  else if copy (R.fuOutCfg 0) 6 8 then decide (2 ≤ f 0 4) && decide (1 ≤ f 4 12)
  else if copy (R.fuStreamCfg 0) 64 0x40 then decide (f 3 3 ≤ 4) && decide (f 6 4 ≤ 10) && within (f 10 4) 3 8
  else if copy (R.fuStreamSlotb 0) 64 0x40 then decide (1 ≤ f 0 16)
  else if copy (R.fuStreamExtr 0) 64 0x40 then decide (f 0 25 % 64 = 0)
  else if off = R.plMapCfg then within (f 2 4) 8 11 && within (f 6 5) 1 16 && within (f 11 13) 8 8000
  else if off = R.plMapBuf then within (f 0 7) 1 64
  else if off = R.plSetBase then decide (f 6 19 % 1024 = 0) && decide (f 6 19 * 64 + 0x220000 ≤ hubSize)
  else if off = R.plMbox then decide (f 6 19 * 64 + 128 ≤ hubSize)
  else if off = R.plGateCfg then within (f 16 8) 20 200
  else if off = R.plCocoonCfg then within (f 0 14) 8000 16000
  else if copy (R.plDisc 0) 8 4 then decide (1 ≤ f 16 15)
  else if copy (R.plQbv 0) 4 4 then within (f 1 15) 1 20000
  else if copy (R.rxPreimg 0) 144 0x40 then decide (f 7 7 ≤ 64) && decide (f 7 7 % 2 = 0)
  else if off = R.pwrLimit then within (f 0 10) 200 520
  else if copy (R.thNbr 0) 62 4 then
    (List.range 4).all fun k =>
      !bit v (24 + k) || (decide (f (6 * k) 6 < 62) && dieOf (f (6 * k) 6) == dieOf ((off - R.thNbr 0) / 4))
  else if off = R.lnkRoleCfg then (List.range 4).all fun t => decide (f (8 * t) 7 ≤ 64)
  else if off = R.optThr then within (f 15 9) 110 250
  else true

/-- A REGS pair: RWL fields alone, within their ranges. DEDUCED (log 81). -/
def regPairOk (p : Nat × Nat) : Bool :=
  p.1 % 4 == 0 && decide (p.2 < 2 ^ 32) && rwlMask p.1 != 0 && (p.2 &&& rwlMask p.1) == p.2 && regOk p.1 p.2

/-- Load the REGS pairs in order: their RWL fields take the values. DEDUCED (log 81). -/
def Dev.loadRegs (d : Dev) (ps : List (Nat × Nat)) : Dev :=
  ps.foldl (fun (d : Dev) p =>
    let keep := d.reg p.1 - (d.reg p.1 &&& rwlMask p.1)
    d.setReg p.1 (keep + (p.2 &&& rwlMask p.1))) d

end Sys2Proof.Machine

namespace Sys2Proof

open Machine

/-- Whether partition `p` is declared as a safety partition. -/
def CfgImage.safe (c : CfgImage) (p : Nat) : Bool := c.parts.any fun x => x.pid == p && x.safety

end Sys2Proof

namespace Sys2Proof.Machine


/-- Lc, Lp and the update points (R38, R231, R246). -/
def Dev.frameRegsOk (d : Dev) : Bool :=
  let tv := d.fld R.fuUpdateCfg 0 10
  let lag := d.fld R.fuUpdateCfg 10 10
  let rel := d.fld R.fuUpdateCfg 20 10
  d.lp % d.lc == 0 && decide (tv < d.lp) && decide (1 ≤ lag) && decide (lag < d.lp) && decide (1 ≤ rel) &&
    decide (rel ≤ d.lp) && decide (2000 ≤ (tv + lag) * 125)

/-- Triggers: OFFSET_WB below the class length (R37, R55). -/
def Dev.trigRegsOk (d : Dev) : Bool :=
  (List.range 64).all fun n => decide (d.fld (R.tkTrig n) 4 13 < d.classLen (d.fld (R.tkTrig n) 1 3))

/-- Memory areas: the queue table, the token area, the save area, the map buffers, the reservation and the
encrypted partitions (R164, R172, R381). -/
def Dev.memRegsOk (d : Dev) (c : CfgImage) : Bool :=
  let q := d.fld R.qmQtableBase 0 28 * 4096
  let tok := d.fld R.qmPfxTokbase 0 28 * 4096
  let sv := d.fld R.qmSaveBase 0 28 * 4096
  let map := d.fld R.plMapBase 0 28 * 4096
  let chans := ((List.range 48).filter (bit d.resvChans)).length
  let ways := ((List.range 16).filter (bit (d.reg R.mcResvWays))).length
  decide (q + 8 * mib ≤ d.dramSize) && decide (tok + 12 * mib ≤ d.dramSize) &&
    decide (d.safetySize ≤ sv) && decide (sv + 144 * mib ≤ d.dramSize) &&
    decide (map + 3 * (d.fld R.plMapBuf 0 7 * mib) ≤ d.safetySize) &&
    decide (1 ≤ chans) && decide (chans < 48) && decide (1 ≤ ways) && decide (ways < 16) &&
    (c.header.profile == 1 || (d.reg R.mcEncPartLo == 0 && d.reg R.mcEncPartHi == 0))

/-- Streams: limits by kind, formats by kind, SLOTS (R221, R223). -/
def Dev.streamRegsOk (d : Dev) : Bool :=
  let most : Nat → Nat
    | 0 => 24
    | 1 => 12
    | 2 => 16
    | 3 => 4
    | 4 => 8
    | _ => 0
  let fmtOk (kind f : Nat) : Bool := match kind with
    | 0 => decide (f ≤ 4)
    | 1 => f == 5
    | 2 => decide (7 ≤ f) && decide (f ≤ 10)
    | _ => f == 6
  d.enabled.all (fun n => fmtOk (d.strKind n) (d.strFmt n) && decide (3 ≤ d.strSlots n) &&
      decide (d.strSlots n ≤ 8)) &&
    (List.range 8).all fun k => decide ((d.enabled.filter fun n => d.strKind n == k).length ≤ most k)

/-- The planner, its gate and its port (R266, R277, R281 and the PL_ tables). -/
def Dev.planRegsOk (d : Dev) (c : CfgImage) : Bool :=
  let sel := d.fld R.plGateCfg 0 8
  let due := d.fld R.plGateCfg 8 8
  let l := d.qbv
  let discs := (List.range 8).filter fun k => bit (d.reg (R.plDisc k)) 31
  c.safe d.mapPart && c.safe d.planPart && decide (sel < due) && decide (due < d.lc) &&
    decide (d.fld R.plGateCfg 16 8 < (due - sel) * 125) &&
    ((List.range 7).all fun k => if k = 2 then lt32 (d.reg (R.plLimit 2)) 0 else lt32 0 (d.reg (R.plLimit k))) &&
    !discs.isEmpty && (discs.all fun k => decide (1 ≤ d.fld (R.plDisc k) 16 15)) &&
    decide (signed 16 (d.fld R.plBodyZ 0 16) < signed 16 (d.fld R.plBodyZ 16 16)) &&
    l.foldl (fun n e => n + e.2) 0 == d.lc * 125 &&
    (List.range 20).all fun u => qbvOpen l (due * 125 + u)

/-- Hub lanes that the static proofs assume (R386). -/
def Dev.laneRegsOk (d : Dev) : Bool :=
  (List.range 4).all fun t =>
    decide (d.fld R.lnkHubMin (8 * t) 8 ≤ 128 + (64 - d.ringCfg t) + (64 - d.ringCfg ((t + 3) % 4)))

/-- Section 0x01. DEDUCED (log 81). -/
def Dev.regsOk (d : Dev) (c : CfgImage) : Bool :=
  c.regs.all regPairOk && d.frameRegsOk && d.trigRegsOk && d.memRegsOk c && d.streamRegsOk && d.planRegsOk c &&
    d.laneRegsOk

/-! ## Sections 0x02 and 0x03 -/

/-- No two elements are equal. -/
def distinct : List Nat → Bool
  | [] => true
  | a :: t => !t.contains a && distinct t

end Sys2Proof.Machine

namespace Sys2Proof

open Machine

/-- The image's launch words, decoded: tables 0 to 3 of the tiles, 4 of the hub. -/
def CfgImage.words (c : CfgImage) : List LWord :=
  (c.launch.zipIdx).flatMap fun t => (t.1.zipIdx).map fun w => lword t.2 w.2 w.1

/-- PARTITIONS (R20, R178): safety partitions are static; the host's partition runs no work: no static context and no
launch word is of it, and the host loads none. DEDUCED (log 43). -/
def CfgImage.partsOk (c : CfgImage) : Bool :=
  c.contexts.all (fun x => x.image.part != c.hostPart) && c.words.all (fun w => w.part != c.hostPart) &&
    distinct (c.parts.map (·.pid)) && decide (c.hostPart < 64) &&
    c.parts.all fun p => decide (p.pid < 64) && decide (p.fraction ≤ 5) && decide (p.cls < 16) &&
      (!p.safety || p.static)

/-- Number of a static thread among those of the module's logical blocks. -/
def StaticThread.num (h : StaticThread) : Nat := ((h.tile * 32 + h.lblock) * 4 + h.core) * 8 + h.thread

/-- CONTEXTS (R143, R470): contexts of static partitions, no hardware thread named for two. -/
def CfgImage.ctxsOk (c : CfgImage) : Bool :=
  distinct (c.contexts.map (·.ctx)) && distinct (c.contexts.flatMap fun x => x.threads.map (·.num)) &&
    c.contexts.all fun x => decide (x.ctx < 4096) && (c.parts.any fun p => p.pid == x.image.part && p.static) &&
      x.image.reserved == 0 && decide (x.image.priority < 8) && decide (4 ≤ x.image.cqLog2) &&
      decide (x.image.cqLog2 ≤ 16) && decide (x.image.cqBase % 64 = 0) &&
      x.threads.all fun h => decide (h.tile < 4) && decide (h.lblock < 32) && decide (h.core < 4) && decide (h.thread < 8)

end Sys2Proof

namespace Sys2Proof.Machine

/-! ## Section 0x04, LAUNCH -/

/-- Reserved bits of a launch word are 0 (R47). -/
def LaunchBits.clean (b : LaunchBits) : Bool :=
  decide (b.w0 < 2 ^ 46) && bits b.w0 9 7 == 0 && bits b.w0 29 3 == 0 && decide (b.w1 < 2 ^ 32) &&
    decide (b.w2 < 2 ^ 64) && decide (b.w3 < 2 ^ 13)

/-- One launch word against R37, R47, R48 and R50. -/
def Dev.wordOk (d : Dev) (c : CfgImage) (w : LWord) : Bool :=
  let n := d.classLen w.cls
  let named := ((List.range 4).filter (bit w.tiles)).length
  decide (w.cls ≤ 4) && decide (1 ≤ w.action) && decide (w.action ≤ 6) && decide (w.offset < n) &&
    decide (1 ≤ w.deadline) && decide (w.deadline ≤ n - w.offset) &&
    (c.parts.any fun p => p.pid == w.part && (p.static || w.action == 1 || w.action == 4)) &&
    (if w.table = 4 then w.hub || decide (1 ≤ named) else !w.hub && w.tiles == 2 ^ w.table)

/-- Whether two words fall in one wingbeat at some W: their ticks meet. -/
def Dev.fallTogether (d : Dev) (x y : Nat × Nat) : Bool :=
  let g := Nat.gcd (d.classLen x.1) (d.classLen y.1)
  x.2 % g == y.2 % g

/-- The most words, one (class, offset) for each class of `cs`, that fall in one wingbeat with `chosen`. -/
def Dev.fallMax (d : Dev) (ws : List LWord) : List Nat → List (Nat × Nat) → Nat
  | [], _ => 0
  | c :: cs, chosen =>
    let mine := ws.filter (·.cls = c)
    let offs := (mine.map (·.offset)).eraseDups.filter fun o => chosen.all fun x => d.fallTogether x (c, o)
    offs.foldl (fun m o =>
      max m ((mine.filter (·.offset = o)).length + d.fallMax ws cs ((c, o) :: chosen)))
      (d.fallMax ws cs chosen)

/-- No two SLOT_BEGIN words name one block in one wingbeat (R50). -/
def Dev.slotsApart (d : Dev) : List LWord → Bool
  | [] => true
  | w :: t => (t.all fun v => (w.tiles &&& v.tiles) == 0 || (w.blocks &&& v.blocks) == 0 ||
      !d.fallTogether (w.cls, w.offset) (v.cls, v.offset)) && d.slotsApart t

/-- The deadline wingbeats of a repeat word and its pair are the same (R287). -/
def LWord.sameDeadline (r p : LWord) : Bool := r.offset + r.deadline == p.offset + p.deadline

/-- Repeat words and their pairs (R287). -/
def repeatsOk (c : CfgImage) (ws : List LWord) : Bool :=
  (ws.all fun r => r.action != 6 || match pairOf ws r with
      | some p => r.sameDeadline p
      | none => false) &&
    ws.all fun w => w.action != 2 || w.hub || !(c.parts.any fun p => p.pid == w.part && p.fraction == 5) ||
      ws.any fun r => r.action == 6 && pairOf ws r == some w

/-- Section 0x04. DEDUCED (log 81). -/
def Dev.launchOk (d : Dev) (c : CfgImage) : Bool :=
  let ws := c.words
  decide (c.launch.length ≤ 5) && (c.launch.all fun t => decide (t.length ≤ 2048) && t.all LaunchBits.clean) &&
    ws.all (d.wordOk c) &&
    ((List.range 5).all fun t => decide (d.fallMax (ws.filter (·.table = t)) [4, 3, 2, 1, 0] [] ≤ 16)) &&
    d.slotsApart (ws.filter (·.action = 3)) && repeatsOk c ws

/-! ## Sections 0x05 to 0x09 -/

end Sys2Proof.Machine

namespace Sys2Proof

open Machine

/-- Whether a fraction-1 partition has items in a tile: engine words or static threads (R160). -/
def CfgImage.hasItems (c : CfgImage) (ws : List LWord) (p t : Nat) : Bool :=
  (ws.any fun w => w.part == p && bit w.tiles t && (w.action == 2 || w.action == 6)) ||
    c.contexts.any fun x => x.image.part == p && x.threads.any fun h => h.tile == t

/-- SCHEDULE (R22, R160, R286). `poolTime` names the SLOT_BEGIN words, by table and index, and the blocks
(tile × 32 + logical block) that the summary says have dynamic-pool time in the 4 wingbeats before them;
`preemptLead` the words whose 4 wingbeats it marks as pre-emption lead. DEDUCED (log 81). -/
def CfgImage.scheduleOk (c : CfgImage) : Bool :=
  let ws := c.words
  let s := c.schedule
  s.blockMap.length == 4 &&
    (s.blockMap.all fun m => m.length == 32 && distinct m && m.all fun b => decide (b < 36)) &&
    (s.preimg.all fun a => decide (a.1 < 4) && decide (a.2.1 < 32) && decide (a.2.2.2 ≤ 64) &&
      decide (a.2.2.2 % 2 = 0) && decide (a.2.2.1 + a.2.2.2 ≤ 128)) &&
    (c.parts.all fun p => p.fraction != 5 || (List.range 4).all fun t => !c.hasItems ws p.pid t ||
      s.arbBlocks.any fun a => a.1 == p.pid && a.2.1 == t) &&
    ws.all fun w => w.action != 3 || !(s.poolTime.any fun q => q.1 == w.table && q.2.1 == w.index) ||
      s.preemptLead.contains (w.table, w.index)

end Sys2Proof

namespace Sys2Proof.Machine

/-- The queue manager reaches its whole table with its own partition (R472). -/
def Dev.tableReach (d : Dev) (c : CfgImage) : Bool :=
  let p := ((c.initParts.find? (·.1 = 720)).map (·.2)).getD 0
  let q := d.fld R.qmQtableBase 0 28 * 4096
  (List.range 2048).all fun k =>
    let a := q + 4096 * k
    (decide (d.safetySize ≤ a) || c.safe p) && fwAllows c.fwDram 720 p a false && fwAllows c.fwDram 720 p a true

/-- FIREWALL (R179, R472). -/
def Dev.firewallOk (d : Dev) (c : CfgImage) : Bool :=
  decide (c.fwDram.length ≤ 256) && decide (c.fwHub.length ≤ 64) && d.tableReach c

end Sys2Proof.Machine

namespace Sys2Proof

open Machine

/-- HUBSTORE: within the hub store. DEDUCED (log 81). -/
def CfgImage.hubOk (c : CfgImage) : Bool := c.hubstore.all fun h => decide (h.1 + h.2.length ≤ hubSize)

end Sys2Proof

namespace Sys2Proof.Machine

/-- ISLAND (R317, R328). DEDUCED (log 81). -/
def Dev.islandOk (d : Dev) (c : CfgImage) : Bool :=
  let p := c.island
  decide (10 ≤ p.playoutLimit) && decide (p.playoutLimit ≤ 400) && decide (1 ≤ p.dtiS) && decide (p.dtiS ≤ 10) &&
    decide (p.vid < 4096) && decide (p.pcp < 8) &&
    decide ((p.playoutLimit * d.lc + d.fld R.fuInstarCfg 0 8 * d.lp) * 125 + 3500000 ≤
      d.fld R.plCocoonCfg 0 14 * 1000)

/-- The first section that fails its checks, in the order in which the sections load; 0 where all pass.
DEDUCED (log 81). -/
def Dev.badSection (d : Dev) (c : CfgImage) : Nat :=
  if d.regsOk c = false then 1
  else if c.partsOk = false then 2
  else if c.ctxsOk = false then 3
  else if d.launchOk c = false then 4
  else if c.scheduleOk = false then 5
  else if d.firewallOk c = false then 6
  else if c.hubOk = false then 7
  else if d.islandOk c = false then 8
  else 0

end Sys2Proof.Machine
end

