-- ==== Sys2Proof/Machine/Boot.lean ====
section
/-! DEFINITION. Module reset, cold start, the recovery loader's entry, the configuration lock, start-up
injection, island start, and the recovery of the compute domain (R29, R31, R324, R325, R350, R351, R423 to
R439). -/

namespace Sys2Proof.Machine

/-! ## MOD_RESET_N and the islands' resets -/

/-- An island under MOD_RESET_N, which does not reset it (R29): it goes on in its state, with its cocoon, its peer and
its requests, but without a vote: the configuration lock and the schedule are gone (R313), and the event log that
would take a record of that is in reset. The halted state ends (R323); the counts and marks that last until MOD_RESET_N start afresh (R335,
R414); the injection has to run again (R313); and what it noted under wingbeats and frames of the lattice that ends
is dropped. DEDUCED (log 76, 85). -/
def Island.modReset (s : Island) : Island :=
  { s with
    state := if s.state = .halted then .starting else s.state
    vote := false, injected := false, entries := 0, crcErr := 0, missing := 0, mirror := []
    res := { tj := s.res.tj, tjPair := s.res.tjPair }, history := [], hotEp := none
    repFrame := none, confirmed := [], awaiting := none, want := none, lastMsg := none, lastStatus := none }

/-- The device under MOD_RESET_N (R29): every domain but the islands is reset, DRAM contents are lost, and
T stands at 0 (R43). A safe state in force stays so at the islands. What has left the module, the trip latch (R418)
and the counter of free values stay. DEDUCED (log 85). -/
def Dev.modReset (d : Dev) : Dev :=
  { chA := d.chA.modReset, chB := d.chB.modReset, out := d.out, free := d.free
    chip := { safeActive := d.chip.safeActive, safeAt := d.chip.safeAt, resetDone := true }
    pwr := { tripped := d.pwr.tripped, tripBit := d.pwr.tripBit, tripPair := d.pwr.tripPair } }

/-- MOD_RESET_ASSERT: a power loss holds it low, and can interrupt the writes of records that have not ended (R425).
DESIGN CHOICE (log 4, 100). -/
def execModResetAssert (s : State) : Res :=
  onNv (fun d n =>
    let (x, d) := d.fresh
    (d.modReset, { n with store := n.store.cut d.time.now x })) s

/-- An island in reset or without supply: its state goes, its error counts stay since MOD_RESET_N.
DEDUCED (log 66). -/
def Island.down (s : Island) (rail : Bool) : Island :=
  { railLow := rail || s.railLow, entries := s.entries, crcErr := s.crcErr, missing := s.missing,
    mirror := s.mirror }

/-- ISLAND_RESET: CHx_RESET_N resets its island alone (R29); the vote is gone. DEDUCED (log 66). -/
def execIslandReset (i : Isl) (s : State) : Res := onDev (fun d => (d.modIsl i fun s => s.down false).revote) s

/-- ISLAND_RAIL_LOW: the island is unpowered. -/
def execIslandRailLow (i : Isl) (s : State) : Res := onDev (fun d => (d.modIsl i fun s => s.down true).revote) s

/-! ## Applying the repair record (R31) -/

/-- Apply a list of record entries. -/
def applyAll {α : Type} (f : Dev → α → Dev) (l : List α) (d : Dev) : Dev := l.foldl f d

/-- Blocks, rows, strikes, array-error epochs and hangs of the record. DESIGN CHOICE (log 14). -/
def Dev.repairBlocks (d : Dev) (r : Repair) : Dev :=
  let d := applyAll (fun (d : Dev) b => d.modBlk b fun k => { k with svc := .retired, powered := false, takesWork := false }) r.blocks d
  let d := applyAll (fun (d : Dev) (x : Nat × Nat) => d.modBlk x.1 fun k =>
    { k with rows := k.rows ++ [x.2], spares := tmod (fun _ => 0) k.spares (x.2 / 64) (· + 1) }) r.rows d
  let d := applyAll (fun (d : Dev) (x : Nat × Nat) => d.modBlk x.1 fun k => { k with strikes := k.strikes ++ [x.2] }) r.strikes d
  let d := applyAll (fun (d : Dev) (x : Nat × Nat × Nat) => d.modBlk x.1 fun k => { k with arrEp := k.arrEp ++ [x.2] }) r.arrEp d
  applyAll (fun (d : Dev) (x : Nat × Nat) => d.modBlk x.1 fun k => { k with hangs := k.hangs ++ [x.2] }) r.hangs d

/-- Ranks and pool lists of the record. -/
def Dev.repairRanks (d : Dev) (r : Repair) : Dev :=
  let d := applyAll (fun (d : Dev) (x : Nat × Nat) =>
    d.modRank x.1 fun q => { q with state := if x.2 = 3 then 1 else x.2 }) r.ranks d
  { d with dram := { d.dram with safety := r.safety, general := r.general, resv := r.resv.getD 0 } }

/-- Marked pages and phases of the record, which a compute-domain reset leaves as they are (R467). -/
def Dev.repairMarks (d : Dev) (r : Repair) : Dev :=
  let d := applyAll (fun (d : Dev) (x : Nat × Nat) => d.modChan x.1 fun c => { c with marked := c.marked ++ [x.2] }) r.pages d
  { d with pwr := { d.pwr with isolated := r.phases } }

/-- Die-to-die and optical lanes and lasers of the record. -/
def Dev.repairLanes (d : Dev) (r : Repair) : Dev :=
  let d := applyAll (fun (d : Dev) (x : Nat × Nat × Nat) =>
    d.modLmod x.1 fun q => { q with repairs := q.repairs ++ [x.2] }) r.lanes d
  let d := applyAll (fun (d : Dev) (x : Nat × Nat) => d.modLmod x.1 fun q => { q with retired := q.retired ++ [x.2] }) r.laneOut d
  let d := applyAll (fun (d : Dev) (x : Nat × Nat) => d.modLmod x.1 fun q => { q with redUsed := q.redUsed ++ [x.2] }) r.redUsed d
  let d := (List.range 96).foldl (fun (d : Dev) n => d.modLane n fun x => { x with bias0 := Config.shipBias n % 256 }) d
  let d := applyAll (fun (d : Dev) n => d.modLane n fun x => { x with state := 2 }) r.opt d
  let d := applyAll (fun (d : Dev) n => d.modLane n fun x => { x with kept := true }) r.optKept d
  let d := applyAll (fun (d : Dev) (x : Nat × Nat) => d.modLane x.1 fun q => { q with state := 1, serves := some x.2 }) r.optServe d
  let d := applyAll (fun (d : Dev) n => d.modLane n fun x => { x with spareLaser := true }) r.optLaser d
  let d := applyAll (fun (d : Dev) n => d.modLane n fun x => { x with eol := true }) r.optEol d
  { d with links := { d.links with lasers := r.lasers } }

/-! ## Loading the configuration image -/

/-- The lowest-numbered spare of a tile at a start: in standby, whatever the self-test (R31, R325).
DEDUCED (log 83). -/
def Dev.startSpare (d : Dev) (t : Nat) : Option Nat := (tileBlocks t).find? fun b => (d.blk b).svc == .standby

/-- A start maps logical block `l` of a retired block to block `x`: event 0x1072, and the warning 0x1070 where `x` was
the last standby spare of the tile (R31, R35, R325, R469). DEDUCED (log 83). -/
def Dev.moultStart (d : Dev) (b l x : Nat) : Dev :=
  let t := tileOf b
  let was := (d.blk x).svc == .standby
  let d := d.modTile t fun s => { s with map := tset (fun k => k) s.map l (x % 36), moved := s.moved.filter (· != l) ++ [l] }
  let d := (d.modBlk x fun k => { k with svc := .inService }).setReg (R.rxPreimg x) (d.reg (R.rxPreimg b))
  let d := d.evBlk 0 0x1072 x [l, b % 36, x % 36]
  if was && (tileBlocks t).all (fun k => (d.blk k).svc != .standby) then d.event 5 0x1070 t 0xFF [t, x % 36] else d

/-- Map a retired block's logical block to a spare before the schedule is enabled, or to a donor (R34), or
write event 0x1073 (R31, R325); says whether a spare took it. DEDUCED (log 83). -/
def Dev.remapStart (d : Dev) (b : Nat) : Dev × Bool :=
  let t := tileOf b
  match d.logical b with
  | none => (d, true)
  | some l =>
    if (d.tile t).outLb.contains l then (d, true)
    else match d.startSpare t with
    | some x => (d.moultStart b l x, true)
    | none => match d.donorOf t with
      | none => (d.event 4 0x1073 t 0xFF [b % 36], false)
      | some x =>
        let d := match d.logical x with
          | some g => d.modTile t fun s => { s with
              map := tset (fun k => k) s.map g (b % 36), outLb := s.outLb ++ [g], moved := s.moved.filter (· != g) ++ [g] }
          | none => d
        (d.moultStart b l x, false)

/-- The block moults of the record in one tile: they apply where they leave each logical block on a block of its own,
and on one in service unless it is out of service. DEDUCED (log 83). -/
def Dev.applyMoved (d : Dev) (r : Repair) (t : Nat) : Dev :=
  let mine := r.moved.filter (·.1 = t)
  let out := (r.outLb.filter (·.1 = t)).map (·.2)
  let new := mine.foldl (fun (d : Dev) m => d.modTile t fun s => { s with
    map := tset (fun k => k) s.map m.2.1 m.2.2, moved := s.moved ++ [m.2.1] }) (d.modTile t fun s => { s with outLb := out })
  let at_ := (List.range 32).map (new.phys t)
  if distinct at_ && (List.range 32).all fun l => out.contains l || (d.blk (new.phys t l)).svc != .retired then new else d

/-- The block map of the image with the moults of the record (R22, R31); a retired block that is left is mapped anew
among the spares that pass the start-up injection. -/
def Dev.loadMap (d : Dev) (c : CfgImage) (r : Repair) : Dev :=
  let d := (c.schedule.blockMap.zipIdx).foldl (fun (d : Dev) m =>
    (m.1.zipIdx).foldl (fun (d : Dev) e =>
      d.modTile m.2 fun t => { t with map := tset (fun k => k) t.map e.2 e.1 }) d) d
  let d := [0, 1, 2, 3].foldl (fun (d : Dev) t => d.applyMoved r t) d
  let d := allBlocks.foldl (fun (d : Dev) b =>
    if (d.blk b).svc = .retired then d
    else
      let v : Svc := if (d.logical b).isSome then .inService else .standby
      d.modBlk b fun k => { k with svc := v }) d
  c.schedule.preimg.foldl (fun (d : Dev) a =>
    d.setReg (R.rxPreimg (d.phys a.1 a.2.1)) (a.2.2.1 + a.2.2.2 * 128)) d

/-- Bytes of a launch word (R47). -/
def launchBytes (b : LaunchBits) : List Byte := toLE 8 b.w0 ++ toLE 8 b.w1 ++ toLE 8 b.w2 ++ toLE 8 b.w3

/-- The launch tables and the initial contents of the hub store (R50, R429). -/
def Dev.loadStore (d : Dev) (c : CfgImage) : Dev :=
  let d := c.hubstore.foldl (fun (d : Dev) h => d.store (hubBase + h.1) h.2) d
  let base := d.launchBase
  (c.launch.zipIdx).foldl (fun (d : Dev) t =>
    (t.1.zipIdx).foldl (fun (d : Dev) w => d.store (base + 0x10000 * t.2 + 32 * w.2) (launchBytes w.1)) d) d

/-- Partitions and static contexts of the image (R20, R143): a static context has CQ_OVERWRITE 1 and its ring in DRAM
(R150). -/
def Dev.loadParts (d : Dev) (c : CfgImage) : Dev :=
  let d := c.parts.foldl (fun (d : Dev) p => d.setPart p.pid
    { declared := true, static := p.static, fraction := p.fraction, safety := p.safety, cls := p.cls
      shedAbort := p.shedAbort, off := 1 }) d
  c.contexts.foldl (fun (d : Dev) x => d.setCtx x.ctx
    { ctxOf x.image with static := true, entry := x.entry, threads := x.threads, cqOver := true, cqHost := false }) d

/-- Step 3 of R430 and R350 once the image is verified. -/
def Dev.loadImage (d : Dev) (c : CfgImage) (r : Repair) : Dev :=
  let d := { d with chip := { d.chip with image := some c, profile := c.header.profile } }
  (((d.loadRegs c.regs).loadParts c).loadStore c).loadMap c r

/-! ## Models (R429, R430 step 7) -/

/-- Bytes in a chunk. -/
def chunkBytes : Nat := 4 * mib

end Sys2Proof.Machine

namespace Sys2Proof

open Machine

/-- Whether every chunk of a model matches its digest at its first or second reading (R430, R437). -/
def Model.whole (m : Model) : Bool := m.chunks.all fun c => c.1 || c.2.1

/-- Whether every chunk of a model passes, with its key at hand (R430, R446). -/
def Model.good (m : Model) (keys : Nat) : Bool := (m.slot == 0xFF || decide (m.slot < keys)) && m.whole

end Sys2Proof

namespace Sys2Proof.Machine

/-- Write a model's chunks to DRAM. -/
def Dev.loadModel (d : Dev) (m : Model) : Dev :=
  (m.chunks.zipIdx).foldl (fun (d : Dev) c => d.store (m.load + c.2 * chunkBytes) c.1.2.2) d

/-- Load the manifests in order and extend M3 with each; the reason of the first rejected one. -/
def Dev.loadModels (n : Nv) : List Nat → Dev → Dev × Nat
  | [], d => (d, 0)
  | k :: t, d =>
    if n.store.modelIn.contains k = false then (d, 8)
    else
      let m := tget (fun _ => ⟨⟨0, 0, 0, 0, 0, 0, 0, 0, 0, 0, ⟨false, false, false, false, 0⟩⟩, []⟩) n.store.models k
      match n.fuses.verify none 3 m.header with
      | 0 =>
        if m.models.all (fun x => x.good n.store.slots.length) = false then (d, 3)
        else
          let m3 := measure (d.sec.m.getD 3 0) m.header.crypto.digest
          let d := { d with sec := { d.sec with m := d.sec.m.set 3 m3 } }
          Dev.loadModels n t (m.models.foldl Dev.loadModel d)
      | r => (d, r)

/-- Extend a measurement register (R438). -/
def Dev.extend (d : Dev) (k : Nat) (x : BitVec 256) : Dev :=
  { d with sec := { d.sec with m := d.sec.m.set k (measure (d.sec.m.getD k 0) x) } }

/-! ## The recovery loader (R435) -/

/-- The boot ROM enters its loader: event 0x9005. DEDUCED (log 83). -/
def Dev.enterLoader (d : Dev) (reason : Nat) : Dev :=
  ({ d with chip := { d.chip with phase := .loader } }).evSec 5 0x9005 [reason]

/-- An image is rejected (R428): event 0x9001. The offset within the section is a matter
of the sections' formats, which the manual does not give. DEDUCED (log 81). -/
def Dev.rejected (d : Dev) (type reason sec : Nat) : Dev :=
  let (off, d) := d.fresh
  let det := [type, reason, sec, if reason = 6 then off else 0]
  let d := { d with chip := { d.chip with lastReason := reason }, sec := { d.sec with lastRej := det } }
  d.evSec 5 0x9001 det

/-- A rejected image takes the start into the loader (R435). -/
def Dev.rejectImage (d : Dev) (type reason sec : Nat) : Dev :=
  (d.rejected type reason sec).enterLoader (if reason = 7 then 2 else 1)

/-- Whether the loader is entered before any image is read, with its reason (R435). DEDUCED (log 83). -/
def Nv.loaderReason (n : Nv) : Nat :=
  if n.store.loaderReq then 5
  else if n.fuses.rootKey.isNone then 3
  else if n.store.seeds = false ∧ n.store.slots = [] ∧ n.fuses.opened = false then 4
  else 0

/-! ## COLD_START -/

/-- The test-content package in force from this start on, and its measurement (R329, R438). DEDUCED (log 83). -/
def Dev.testContent (d : Dev) (n : Nv) : Dev × Nv :=
  let n := match n.store.testStaged with
    | some p => { n with store := { n.store with testPkg := some p, testStaged := none } }
    | none => n
  match n.store.testPkg with
  | some p => (((d.extend 4 p.1.crypto.digest).modIsl .a fun s => { s with pkg := p.2 }).modIsl .b fun s => { s with pkg := p.2 }, n)
  | none => (d, n)

/-- The safety and general pools, DRAM training and page repair of a start (R354, R362, R378). DEDUCED (log 83). -/
def Dev.startDram (d : Dev) (failed : List (Fin 48)) (recorded : Option Nat) : Dev :=
  ((d.trainDram failed).poolLists recorded).repairPages

/-- Steps 3 to 8 of R430 with verified images. -/
def Dev.coldLoad (d : Dev) (n : Nv) (failed : List (Fin 48)) (fw : ImgHeader) (c : CfgImage) : Dev × Nv :=
  let d := (d.extend 1 fw.crypto.digest).extend 2 c.header.crypto.digest
  let d := (d.loadImage c n.store.repair).assignRoles.startDram failed n.store.repair.resv
  let keys := (List.range 64).filter fun p => c.header.profile = 1 ∧ bit (d.reg R.mcEncPartLo + d.reg R.mcEncPartHi * 4294967296) p
  let d := { d with
    chip := { d.chip with fwDigest := fw.crypto.digest.toNat, cfgDigest := c.header.crypto.digest.toNat }
    sec := { d.sec with memKeys := keys, erased := [] } }
  match Dev.loadModels n c.models d with
  | (d, 0) =>
    let (d, n) := d.testContent n
    let d := d.startLasers.startPorts
    let d := if bit (d.reg R.tkGptpCfg) 0 then d.setFld R.tkSyncStatus 0 3 1 else d
    ({ d with chip := { d.chip with phase := .loading } }, n)
  | (d, r) => (d.rejectImage 3 r 9, n)

/-- The configuration image against its checks, on the device with the record and the image's registers. -/
def Dev.configBad (d : Dev) (n : Nv) (c : CfgImage) : Nat × Nat :=
  match n.fuses.verify none 2 c.header with
  | 0 =>
    if n.fuses.grade != (c.header.profile == 1) then (7, 0)
    else match ((d.loadRegs c.regs).poolLists n.store.repair.resv).badSection c with
      | 0 => (0, 0)
      | k => (6, k)
  | r => (r, 0)

/-- At a start the epochs of the record's array errors are those of earlier starts: T begins anew (R43, R131).
DEDUCED (log 31). -/
def Repair.newStart (r : Repair) : Repair := { r with arrEp := r.arrEp.map fun x => (x.1, 0, x.2.2) }

/-- The start from the release of MOD_RESET_N up to the end of acquisition (R430 steps 1 to 8). DEDUCED (log 83). -/
def Dev.coldStart (d : Dev) (n : Nv) (failed : List (Fin 48)) : Dev × Nv :=
  let d := { d with chip := { d.chip with t0 := d.time.now, hours := n.store.hours }
                    sec := { d.sec with next := n.store.lmsEnd } }
  let d := d.extend 0 n.fuses.romDigest
  let n := { n with store := { n.store with writeProt := false } }
  let r := n.store.repair.newStart
  let d := (((d.repairBlocks r).repairRanks r).repairMarks r).repairLanes r
  let clear (n : Nv) : Nv := { n with store := { n.store with loaderReq := false } }
  match n.loaderReason with
  | 0 => match n.fuses.verifyStored 1 n.store.firmware, n.store.firmware, n.store.config with
    | 0, some fw, some c => match d.configBad n c with
      | (0, _) => d.coldLoad n failed fw c
      | (r, k) => ((d.extend 1 fw.crypto.digest).rejectImage 2 r k, n)
    | 0, some fw, none => ((d.extend 1 fw.crypto.digest).rejectImage 2 8 0, n)
    | r, _, _ => (d.rejectImage 1 r 0, n)
  | r => (d.enterLoader r, clear n)

/-- COLD_START: MOD_RESET_N is released. DEDUCED (log 83). -/
def execColdStart (failed : List (Fin 48)) (s : State) : Res :=
  onNv (fun d n => if d.chip.phase = .modReset then d.coldStart n failed else (d, n)) s

/-! ## CONFIGURATION_LOCK_SET -/

/-- Raise a fuse counter where the image asks for it (R428). -/
def advance (h : Option ImgHeader) (svn : Nat) : Nat :=
  match h with
  | some h => if h.flags = 1 then max svn h.svn else svn
  | none => svn

/-- CONFIGURATION_LOCK_SET: step 9 of R430, once acquisition has ended. -/
def execConfigurationLockSet (s : State) : Res :=
  onNv (fun d n =>
    if d.chip.phase ≠ .loading ∨ d.fld R.tkSyncStatus 0 3 = 1 then (d, n)
    else
      let ms := min 8191 (((d.time.now : Int) - d.chip.t0) / 1000000).toNat
      ({ d with chip := { d.chip with lock := true, lockMs := ms, phase := .locked } },
       { fuses := { n.fuses with
           svnFw := advance n.store.firmware n.fuses.svnFw
           svnCfg := advance (n.store.config.map (·.header)) n.fuses.svnCfg }
         store := { n.store with writeProt := true } })) s

/-! ## Start-up injection (R324, R325) -/

/-- Drop what the scratchpads hold: step 10 of R430 zeroes them. -/
def Dev.zeroSpads (d : Dev) : Dev := d.zero 0x4000000000 0x9000000

/-- A row fails: the island's result, and the first failure that no spare absorbs. DEDUCED (log 84). -/
def Island.rowFails (s : Island) (f : InjFail) (absorbed : Bool) : Island :=
  { s with failBits := s.failBits ||| 2 ^ f.row.val
           injBad := if absorbed ∨ s.injBad.isSome then s.injBad else some (f.row.val, f.region.val, f.block.val) }

/-- The physical block that a failure of a block's row names. -/
def injBlk (f : InjFail) : Option Nat :=
  if (f.row.val ≤ 3 ∨ f.row.val = 10) ∧ f.region.val < 4 ∧ f.block.val < 36 then some (36 * f.region.val + f.block.val)
  else none

/-- A block that failed an injection is retired with event 0x1071, whose cause is the injection's 0x8030 and whose B is
the control frame that runs (R325, R469). DEDUCED (log 84). -/
def Dev.injRetire (d : Dev) (b : Nat) : Dev :=
  if (d.blk b).svc = .retired then d
  else
    let d := d.modBlk b fun k => { k with svc := .retired, powered := false, takesWork := false }
    d.evBlk 0 0x1071 b [0x8030, d.ctrlFrame % 65536]

/-- The logical blocks of every retired block, of the repair record and of this injection, are mapped to the spares that
passed it (R31, R325); with the blocks that no spare replaces. DEDUCED (log 84). -/
def Dev.remapAll (d : Dev) : Dev × List Nat :=
  allBlocks.foldl (fun (acc : Dev × List Nat) b =>
    if (acc.1.blk b).svc = .retired then
      let (d, ok) := acc.1.remapStart b
      (d, if ok then acc.2 else acc.2 ++ [b])
    else acc) (d, [])

/-- The failure action of a row (R324), and whether a spare absorbs it; `left` are the retired blocks that no spare
replaces. DEDUCED (log 84). -/
def Dev.injAction (d : Dev) (left : List Nat) (f : InjFail) : Dev × Bool :=
  match f.row.val with
  | 5 =>
    let k := f.block.val % 48
    let left := ((List.range 96).filter fun r => (d.rank r).state = 0 ∧ r / 2 ≠ k).length
    let ok : Bool := decide (d.dram.queue.length + 2 ≤ left)
    ((d.spareReq (2 * k) 3).spareReq (2 * k + 1) 3, ok)
  | 6 =>
    let m := f.region.val % 20
    let ring : Nat := if m % 4 = 2 then 20 + m / 4 else 20 + (m / 4 + 3) % 4
    let k : Nat := if (d.lmod m).ring.contains (f.block.val % 64) then ring else m
    (d.modLink k fun x => x.needs (f.block.val % 64), (d.redLane k).isSome)
  | _ => (d, (injBlk f).any fun b => !left.contains b)

/-- A test cutoff of the gate (R324): cause 1 holds and comes first, the cause under test is in the mask, and which
others hold is left open. DEDUCED (log 84). -/
def Dev.testCutoff (d : Dev) (c : Nat) : Dev :=
  let (x, d) := d.fresh
  d.withhold 1 ([1, 2, 3, 4, 5, 6].filter fun k => k == 1 || k == c || bit x k)

/-- What the checkers that pass report (R324): 0x1002 for every cell of every engine in service or in standby, a wrong
verdict 0x6020 of the test generation with the gate's cause 2, the gate's cause 5, and a heartbeat with a bad CRC at each
island. The token, the generation and the eyespot of a test are left open. DEDUCED (log 84). -/
def Dev.injReports (d : Dev) (fails : List InjFail) : Dev :=
  let ok (row : Nat) : Bool := fails.all fun f => f.row.val != row
  let latch := allBlocks.filter fun b => ((d.blk b).svc == .inService || (d.blk b).svc == .standby) &&
    fails.all fun f => f.row.val != 1 || injBlk f != some b
  let d := latch.foldl (fun (d : Dev) b =>
    let (x, d) := d.fresh
    (List.range 32).foldl (fun (d : Dev) cell => d.evBlk 1 0x1002 b [cell, x % 16384]) d) d
  let d := if ok 7 then
      let (x, d) := d.fresh
      ((d.evPl 2 0x6020 [x % 65536, x / 65536 % 32, x / 2097152 % 2 + 1]).bump R.plEyeFail).testCutoff 2
    else d
  let d := if ok 8 then d.testCutoff 5 else d
  let hear (i : Isl) (s : Island) : Island :=
    if s.loaded && fails.all fun f => f.row.val != 11 || f.island != i then s.hearNot true else s
  { d with chA := hear .a d.chA, chB := hear .b d.chB }

/-- START_UP_INJECTION: tick check and zeroed scratchpads, then the rows; `fails` are those that failed. The blocks that
fail are retired, the retired blocks are mapped to the spares that pass, and the checkers that pass report.
DEDUCED (log 84). -/
def execStartUpInjection (fails : List InjFail) (s : State) : Res :=
  onDevIf (fun d => (d.chip.phase == .locked || d.chip.phase == .recovering) && !d.pwr.tripped)
    (fun d =>
      let go (s : Island) : Island :=
        if s.loaded = true ∧ s.state ≠ .halted then
          { s with state := .injecting, passBits := 0, failBits := 0, injBad := none, injected := false } else s
      let d := { d.zeroSpads with chA := go d.chA, chB := go d.chB }
      let d := d.injReports fails
      let (d, left) := ((fails.filterMap injBlk).foldl Dev.injRetire d).remapAll
      let d := fails.foldl (fun (d : Dev) f =>
        let (d, ok) := d.injAction left f
        d.modIsl f.island fun s => s.rowFails f ok) d
      let pass (s : Island) : Island := { s with passBits := 4095 - s.failBits }
      let d := { d with chA := pass d.chA, chB := pass d.chB, chip := { d.chip with phase := .injecting } }
      d.revote) s

/-- An island ends its injection: its flag is set, or it writes event 0x8030 (R325). DEDUCED (log 84). -/
def Dev.injEnd (d : Dev) (i : Isl) : Dev :=
  let s := d.isl i
  if s.state ≠ .injecting then d
  else
    let d := d.modIsl i fun s => { s with state := .monitoring, injected := s.injBad.isNone }
    match s.injBad with
    | some (row, region, block) => d.evIsl i 5 0x8030 [row, region, block]
    | none => d

/-- An island that started while the injection ran without it joins and requests the safe state with cause 12,
so that the injection runs again with both (R312). DEDUCED (log 61). -/
def Dev.injJoin (d : Dev) (i : Isl) : Dev :=
  if (d.isl i).loaded = true ∧ (d.isl i).state = .starting then
    (d.modIsl i fun s => { s with state := .monitoring }).islReq i 12
  else d

/-- SCHEDULE_ENABLE: the schedule runs, and every static thread starts at its entry (R470); load that a
thermal step sheds is shed again (R330); a migration whose decision was recorded resumes (R377). -/
def Dev.enable (d : Dev) (mig : Option (Nat × Nat)) : Dev :=
  let d := { d with chip := { d.chip with
    sched := true, launching := false, phase := .running, enabledAt := d.time.now, injected := true, inRec := false } }
  let d := (d.clearCauses .a).clearCauses .b
  let d := (List.range 4).foldl (fun (d : Dev) t => (List.range 32).foldl (fun (d : Dev) l => d.startThreads t l) d) d
  let d := (d.shedLoad 0).resumeMig mig
  let d := d.sec.dbgParts.foldl (fun (d : Dev) p => d.modPart p fun x => { x with debug := true }) d
  d.revote

/-- A recovery that ends writes its length in QM_LAST_RECOV and in each island's event 0x8070 (R352); which of its steps
took longest is a matter of times that an indivisible step does not show. DEDUCED (log 85). -/
def Dev.recovered (d : Dev) : Dev :=
  let (v, d) := d.fresh
  let ms := d.recMs
  let d := { d with chip := { d.chip with lastRecMs := min 4095 ms, lastRecStep := v % 16 } }
  let d := if d.chA.loaded then d.evIsl .a 0 0x8070 [ms] else d
  if d.chB.loaded then d.evIsl .b 0 0x8070 [ms] else d

/-- INJECTION_COMPLETE: the run ends. A failure that disables primary output during a recovery, or a recovery longer
than 3.0 s, starts a further recovery (R323, R350); else the schedule is enabled. DEDUCED (log 84). -/
def execInjectionComplete (s : State) : Res :=
  onDevIf (fun d => d.chip.phase == .injecting)
    (fun d =>
      let bad : Bool := [d.chA, d.chB].any fun s => s.state == .injecting && s.injBad.isSome
      let again : Bool := d.chip.inRec
      let tooLong : Bool := again && decide (d.chip.recStart + 3000000000 < d.time.now)
      let d := (d.injEnd .a).injEnd .b
      if bad = true ∧ again = true then d.recoveryFails
      else if tooLong then d.recoveryLate 9
      else
        let d := if again then d.recovered else d
        let d := (d.injJoin .a).injJoin .b
        d.enable s.nv.store.repair.mig) s

/-! ## Island start (R433) -/

/-- The life record read back at an island's start (R420). -/
def Island.restore (s : Island) (r : LifeRec) : Island :=
  let s := { s with lifeTime := r.time, lifeCyc := r.cyc, cycles := r.cycles, residue := r.residue }
  { s with life80 := decide (8000 ≤ s.used), life100 := decide (10000 ≤ s.used) }

/-- State of an island that has its firmware, by what the module is doing. -/
def Chip.islState (c : Chip) : IslState :=
  match c.phase with
  | .running => .monitoring
  | .safe => .safe
  | .recovering => .safe
  | .halted => .halted
  | _ => .starting

/-- ISLAND_FIRMWARE_LOAD: the island verifies its firmware against its own copy of the key digest and the
fuse counter (R433); an island that starts after the injection ran without it requests the safe state
with cause 12 (R312). DEDUCED (log 66). -/
def execIslandFirmwareLoad (i : Isl) (s : State) : Res :=
  onDevIf (fun d => !(d.isl i).loaded && d.chip.phase != .modReset && s.nv.store.firmware.isSome)
    (fun d =>
      if s.nv.fuses.verifyStored 1 s.nv.store.firmware ≠ 0 then
        d.modIsl i fun s => { s with state := .starting, railLow := false }
      else
        let st := d.chip.islState
        let unsafe_ := d.chip.safeActive || st == .halted
        let r := s.nv.store.life i
        let h := d.chip.hours / 1000 * 1000
        let pkg := (s.nv.store.testPkg.map (·.2)).getD 0
        let w := d.wb
        let d := d.modIsl i fun s => { (s.restore r) with
          loaded := true, railLow := false, state := st, inhibit := unsafe_, lifeRep := h, pkg := pkg, ownW := w }
        if st = .monitoring ∧ d.chip.injected = true then d.islReq i 12 else d) s

/-! ## Recovery (R350, R351, R434) -/

/-- After causes 8, 9 and 10 recovery waits until the hottest junction reads below 90 °C (R322). -/
def Dev.coolEnough (d : Dev) : Bool :=
  let hot (c : Nat) : Bool := c == 8 || c == 9 || c == 10
  !(hot d.chA.lastCause || hot d.chB.lastCause) ||
    ([d.chA, d.chB].all fun s => !s.loaded || decide (s.res.tj < 90 * 16))

/-- Each queue of the table is DISABLED, HEAD and TAIL kept (step 5 of R350). -/
def Dev.queuesOff (d : Dev) : Dev :=
  let base := d.fld R.qmQtableBase 0 28 * 4096
  let qs := dedup ((d.mem.filter fun e => decide (base ≤ e.1) && decide (e.1 < base + 8 * mib)).map fun e => (e.1 - base) / 32)
  qs.foldl (fun (d : Dev) q => d.qSet q 0 0 2 0) d

/-- The chunks of reloadable models that hold a listed granule: the model, and the chunk's number (R434).
DEDUCED (log 85). -/
def Dev.badChunks (d : Dev) (ms : List Model) : List (Model × Nat) :=
  ms.flatMap fun m => ((List.range m.chunks.length).filter fun k =>
    m.reloadable && d.sec.poisonList.any fun g =>
      decide (m.load + k * chunkBytes ≤ g * 64) && decide (g * 64 < m.load + (k + 1) * chunkBytes)).map fun k => (m, k)

/-- Every poisoned granule of DRAM joins the poison list by the time a recovery reads it (R360, R434): a model region
that holds one is reloaded, whoever wrote it. DEDUCED (log 85). -/
def Dev.listAll (d : Dev) : Dev :=
  (d.poison.filter fun e => e.2 && decide (e.1 * 64 < d.dramSize)).foldl (fun (d : Dev) e => d.listPoison e.1) d

/-- Reload one chunk and drop its entries; a chunk that fails its digest stays as it is. DEDUCED (log 85). -/
def Dev.reloadChunk (d : Dev) (keys : Nat) (x : Model × Nat) : Dev :=
  match x.1.chunks[x.2]? with
  | none => d
  | some c =>
    if (c.1 || c.2.1) = true ∧ (x.1.slot = 0xFF ∨ x.1.slot < keys) then
      let a := x.1.load + x.2 * chunkBytes
      let d := d.store a c.2.2
      { d with sec := { d.sec with poisonList := d.sec.poisonList.filter fun g => !(decide (a ≤ g * 64) && decide (g * 64 < a + chunkBytes)) } }
    else d

/-- The cause of the safe state that the recovery follows. -/
def Dev.safeCause (d : Dev) : Nat := if d.chA.lastCause ≠ 0 then d.chA.lastCause else d.chB.lastCause

/-- Steps 2 to 8 of R350 with verified images. DEDUCED (log 85). -/
def Dev.recover (d : Dev) (n : Nv) (failed : List (Fin 48)) (c : CfgImage) : Dev :=
  let cause := d.safeCause
  let two := (d.chip.lastTwo ++ [cause]).drop ((d.chip.lastTwo.length + 1) - 2)
  let d := { d with chip := { d.chip with
    phase := .recovering, inRec := true, computeReset := false, selfRef := false, recStart := d.time.now, lock := true
    recoveries := d.chip.recoveries + 1, noPrimary := d.chip.noPrimary + 1, lastTwo := two } }
  let r := n.store.repair
  let d := (((d.repairBlocks r).repairRanks r).repairLanes r).loadImage c r
  let d := (((d.trainDram failed).poolLists r.resv).repairPages).assignRoles
  d.queuesOff.startLasers.startPorts

/-- The models of every manifest in the image's list. -/
def Nv.modelsOf (n : Nv) (c : CfgImage) : List Model :=
  c.models.flatMap fun k => (n.store.models.filter fun e => e.1 = k).flatMap fun e => e.2.models

/-- A recovery that becomes a cold start as if MOD_RESET_N had been pulsed (R434). DEDUCED (log 85). -/
def Dev.pulse (d : Dev) (n : Nv) (failed : List (Fin 48)) (type : Option Nat) : Dev × Nv :=
  let d := d.modReset
  let d := match type with
    | some t => d.evSec 4 0x9060 [t]
    | none => d
  d.coldStart n failed

/-- Whether the images verify again and are those of the cold start: the TYPE that is not (R434). -/
def Dev.imageChanged (d : Dev) (n : Nv) : Option Nat :=
  if n.fuses.verifyStored 1 n.store.firmware ≠ 0 ∨
      (n.store.firmware.map (·.crypto.digest.toNat)) ≠ some d.chip.fwDigest then some 1
  else match n.store.config with
    | none => some 2
    | some c => if n.fuses.verify none 2 c.header ≠ 0 ∨ c.header.crypto.digest.toNat ≠ d.chip.cfgDigest then some 2 else none

/-- RECOVERY_START: the compute domain recovers; `failed` are the channels that fail their training.
DEDUCED (log 85). -/
def execRecoveryStart (failed : List (Fin 48)) (s : State) : Res :=
  onNv (fun d n =>
    if (d.chip.phase != .safe || !d.chip.computeReset || !d.coolEnough) = true then (d, n)
    else if d.chip.coldNext then d.pulse n failed none
    else match d.imageChanged n, n.store.config with
      | none, some c =>
        let d := d.listAll
        let bad := d.badChunks (n.modelsOf c)
        if d.sec.poisonOver = true ∨ 256 < bad.length then d.pulse n failed none
        else (bad.foldl (fun (d : Dev) x => d.reloadChunk n.store.slots.length x) (d.recover n failed c), n)
      | t, _ => d.pulse n failed t) s

end Sys2Proof.Machine
end

