-- ==== Sys2Proof/Machine/Security.lean ====
section
/-! DEFINITION. The management port: the recovery loader and the in-service functions, provisioning, debug
unlock and sessions, test content, attestation and the LMS journal (R304, R329, R436 to R446, R458). -/

namespace Sys2Proof.Machine

/-! ## Answers (R436) -/

/-- Answer a command. -/
def Dev.answer (d : Dev) (seq : BitVec 16) (status : Nat) (data : List Nat := []) : Dev :=
  d.emit (.mgmt seq status data)

/-- Whether the module is in the loader. -/
def Dev.inLoader (d : Dev) : Bool := d.chip.phase == .loader

/-- Whether the module is in operation: its cold start has set the configuration lock. -/
def Dev.inOperation (d : Dev) : Bool :=
  !(d.chip.phase == .modReset || d.chip.phase == .loading || d.chip.phase == .loader)

/-- A management command: while the port is down nothing arrives; where the command is not available in this
state the answer is 2. DEDUCED (log 86). DESIGN CHOICE (log 2). -/
def onMgmt (seq : BitVec 16) (loader operation : Bool) (f : Dev → Nv → Dev × Nv) (s : State) : Res :=
  onNv (fun d n =>
    if d.links.up.contains 7 = false then (d, n)
    else if ((loader && d.inLoader) || (operation && d.inOperation)) = false then (d.answer seq 2, n)
    else f d n) s

/-- A token is refused: event 0x9040, and nothing else changes (R444). -/
def Dev.refuse (d : Dev) (seq : BitVec 16) (type reason : Nat) : Dev :=
  (d.evSec 5 0x9040 [type, reason]).answer seq 1

/-- A token refused on a ground for which the event's table has no reason: which of its eight it names is open.
DEDUCED (log 86). -/
def Dev.refuseFree (d : Dev) (seq : BitVec 16) (type : Nat) : Dev :=
  let (v, d) := d.fresh
  d.refuse seq type (v % 8 + 1)

/-- SEC_STATE. -/
def Dev.secState (d : Dev) (n : Nv) : Nat :=
  b2n d.chip.lock + 2 * b2n n.fuses.rootKey.isSome + 4 * b2n n.fuses.opened + 8 * b2n n.fuses.grade +
    16 * d.chip.profile + 32 * b2n n.store.seeds + 64 * b2n d.sec.dbgOpen + 128 * b2n n.store.loaderReq +
    256 * n.fuses.provUsed

/-- SEC_SVN. -/
def Fuses.svnWord (f : Fuses) : Nat := f.svnFw + 256 * f.svnCfg + 65536 * f.svnTest

/-! ## The commands -/

/-- MGMT_IDENTIFY: serial number, grade, SEC_STATE, SEC_SVN, the detail of the last event 0x9001 and the MAC
address (R458). -/
def execMgmtIdentify (seq : BitVec 16) (s : State) : Res :=
  onMgmt seq true true (fun d n =>
    (d.answer seq 0 ([n.fuses.serial, b2n n.fuses.grade, d.secState n, n.fuses.svnWord, n.fuses.mac] ++ d.sec.lastRej), n)) s

/-- MGMT_CHALLENGE: a new nonce of 32 bytes. DEDUCED (log 86). -/
def execMgmtChallenge (seq : BitVec 16) (s : State) : Res :=
  onMgmt seq true true (fun d n =>
    let (v, d) := d.fresh
    let v := v % 2 ^ 256
    (({ d with sec := { d.sec with nonce := some v } }).answer seq 0 [v], n)) s

/-- MGMT_STAGE: data into the staging area at an offset. -/
def execMgmtStage (seq : BitVec 16) (off : Fin 274877906944) (data : List Byte) (s : State) : Res :=
  checked (Sys2Proof.Instr.wf (.mgmtStage seq off data)) (onMgmt seq true false (fun d n =>
    (({ d with sec := { d.sec with staging := memPut d.sec.staging off data } }).answer seq 0, n)) s)

/-- An image fails its verification: event 0x9001, answer 1, and no logical unit is written. -/
def Dev.commitFails (d : Dev) (seq : BitVec 16) (type reason sec : Nat) : Dev :=
  (d.rejected type reason sec).answer seq 1

/-- An image is written to its logical unit: event 0x9006. -/
def Dev.committed (d : Dev) (seq : BitVec 16) (lu : Nat) (h : ImgHeader) : Dev :=
  (d.evSec 0 0x9006 [lu, h.type, h.svn]).answer seq 0

/-- MGMT_COMMIT: the staged image, verified under R428 (a configuration image under R429 as well), goes to LU 0,
1 or 4; model data are checked against their digests, and none that fails is written (R437). An image of another TYPE
than its unit's fails at step 1 of R428. DEDUCED (log 86). -/
def execMgmtCommit (seq : BitVec 16) (lu : Fin 256) (img : Staged) (s : State) : Res :=
  onMgmt seq true false (fun d n =>
    match lu.val, img with
    | 0, .firmware h => match n.fuses.verify none 1 h with
      | 0 => (d.committed seq 0 h, { n with store := { n.store with firmware := some h } })
      | r => (d.commitFails seq 1 r 0, n)
    | 1, .config c => match ({ d with regs := [] }).configBad n c with
      | (0, _) => (d.committed seq 1 c.header, { n with store := { n.store with config := some c } })
      | (r, k) => (d.commitFails seq 2 r k, n)
    | 4, .manifest slot m => match n.fuses.verify none 3 m.header with
      | 0 => if m.models.all Model.whole = false then (d.commitFails seq 3 3 0, n) else (d.committed seq 4 m.header, { n with store := { n.store with
          models := tput slot (some m) n.store.models
          modelIn := if n.store.modelIn.contains slot then n.store.modelIn else n.store.modelIn ++ [slot] } })
      | r => (d.commitFails seq 3 r 0, n)
    | _, .firmware h => (d.commitFails seq h.type 1 0, n)
    | _, .config c => (d.commitFails seq c.header.type 1 0, n)
    | _, .manifest _ m => (d.commitFails seq m.header.type 1 0, n)) s

/-- The keys of a provisioning: new attestation seeds with their first lower tree, the token's key slots, and the
certificate signed with the next identity-root index (R439). -/
def Nv.provision (n : Nv) (now : Nat) (tok : Token) : Nv :=
  { fuses := { n.fuses with provUsed := n.fuses.provUsed + 1 }
    store := { n.store with
      seeds := true, slots := tok.keySlots.take 16, certRec := n.store.certRec.write now true
      lmsRec := n.store.lmsRec.write now 0, topRec := n.store.topRec.write now 0 } }

/-- MGMT_PROVISION: a module without an integrator root key takes a token of TYPE 6. DEDUCED (log 86). -/
def execMgmtProvision (seq : BitVec 16) (tok : Token) (s : State) : Res :=
  onMgmt seq true false (fun d n =>
    match n.fuses.verify d.sec.nonce 6 tok.header with
    | 0 =>
      if n.fuses.rootKey.isSome ∨ 32 ≤ n.fuses.provUsed then (d.refuseFree seq 6, n)
      else
        let n := n.provision d.time.now tok
        (({ d with sec := { d.sec with next := 0 } }).answer seq 0,
         { n with fuses := { n.fuses with rootKey := some tok.rootKey } })
    | r => (d.refuse seq 6 r, n)) s

/-- MGMT_REPROVISION: a module whose opened fuse is blown takes a token of TYPE 7 and keeps its root key.
DEDUCED (log 86). -/
def execMgmtReprovision (seq : BitVec 16) (tok : Token) (s : State) : Res :=
  onMgmt seq true false (fun d n =>
    match n.fuses.verify d.sec.nonce 7 tok.header with
    | 0 =>
      if n.fuses.opened = false ∨ 32 ≤ n.fuses.provUsed then (d.refuseFree seq 7, n)
      else (({ d with sec := { d.sec with next := 0 } }).answer seq 0, n.provision d.time.now tok)
    | r => (d.refuse seq 7 r, n)) s

/-! ## Debug (R304, R444, R445) -/

/-- Whether an operation's repeat, arbitration included, has begun or will begin with a launch word. -/
def EngOp.repeats (e : EngOp) : Bool :=
  e.byWord || !(e.stage == .waiting || e.stage == .pending || e.stage == .running || e.stage == .firstDone)

/-- An operation of an observed partition runs without a repeat. -/
def EngOp.unrepeat (e : EngOp) : EngOp := { e with selected := false, unchecked := true }

/-- An operation of an observed partition that is not yet pending at the attach ends unchecked (R304). -/
def EngOp.observed (p : Nat) (e : EngOp) : EngOp :=
  if e.part = p ∧ e.stage = .waiting then { e with unchecked := true } else e

/-- The repeat of a partition stops in one block: operations held for a repeat that no launch word starts are
released as DONE_UNCHECKED, those before it lose their selection, and those that wait at the engine end unchecked. Says
how many were released. -/
def Dev.endFirstPass (d : Dev) (p b : Nat) : Dev × Nat :=
  let es := (d.blk b).eng.filter fun e => e.part == p && e.selected && !e.repeats
  let held := es.filter fun e => e.stage == .firstDone
  let d := (es.foldl (fun (d : Dev) e => d.modEng b e EngOp.unrepeat) d).modBlk b fun k =>
    { k with eng := k.eng.map (EngOp.observed p) }
  (held.foldl (fun (d : Dev) e => d.report b e.unrepeat stUnchecked false) d, held.length)

/-- The operations of a partition in saved sets lose their selection too; one held there is released as DONE_UNCHECKED
when its set is resumed (R304). DEDUCED (log 86). -/
def SavedSet.observed (p : Nat) (s : SavedSet) : SavedSet :=
  { s with eng := s.eng.map fun e => if e.part = p ∧ e.selected = true ∧ e.repeats = false then e.unrepeat else e.observed p }

/-- DEBUG_SESSION_ATTACH for one partition (R304): event 0x7010 names it with the operations released.
DEDUCED (log 86). -/
def Dev.attach (d : Dev) (p : Nat) : Dev :=
  let d := d.modPart p fun x => { x with debug := true, resume := false }
  let (d, n) := (d.blocks.map (·.1)).foldl (fun (x : Dev × Nat) b =>
    let (d, n) := x.1.endFirstPass p b
    (d, x.2 + n)) (d, 0)
  let d := { d with tiles := (d.tiles.map fun (t : Nat × Tile) =>
    (t.1, { t.2 with saves := (t.2.saves.map fun (s : Nat × SavedSet) => (s.1, s.2.observed p)) })) }
  d.event 5 0x7010 4 0xFF [p, n] p

/-- The two words of a set of partitions. -/
def partWords (ps : List Nat) : Nat × Nat :=
  let w := ((List.range 64).filter ps.contains).foldl (fun n p => n + 2 ^ p) 0
  (w % 2 ^ 32, w / 2 ^ 32)

/-- Steps 1 to 4 of R445: secrets are erased, the opened fuse is blown, debug opens, and the session attaches
to the token's partitions. DEDUCED (log 86). -/
def Dev.unlock (d : Dev) (seq : BitVec 16) (ps : List Nat) : Dev :=
  let d := d.evSec 5 0x9041 [(partWords ps).1, (partWords ps).2]
  let d := { d with sec := { d.sec with
    erased := d.sec.memKeys, dbgOpen := true, dbgEver := true
    dbgParts := d.sec.dbgParts ++ ps.filter fun p => !d.sec.dbgParts.contains p } }
  (ps.foldl Dev.attach d).answer seq 0

/-- MGMT_UNLOCK: a token of TYPE 5 under the integrator root key, bound to the serial number, with the current
nonce. DEDUCED (log 86). -/
def execMgmtUnlock (seq : BitVec 16) (tok : Token) (s : State) : Res :=
  onMgmt seq false true (fun d n =>
    match n.fuses.verify d.sec.nonce 5 tok.header with
    | 0 => (d.unlock seq (tok.parts.map (·.val)).eraseDups,
        { fuses := { n.fuses with opened := true }, store := { n.store with seeds := false, slots := [] } })
    | r => (d.refuse seq 5 r, n)) s

/-! ## Test content, loader request, restart -/

/-- MGMT_TEST_PKG: a verified package is staged in LU 2 and takes effect at the next cold start (R329); another
is a rejected image (R428). DEDUCED (log 86). -/
def execMgmtTestPkg (seq : BitVec 16) (h : ImgHeader) (version : Word) (s : State) : Res :=
  onMgmt seq true true (fun d n =>
    match n.fuses.verify none 4 h with
    | 0 => ((d.evSec 0 0x9050 [version.toNat, h.svn]).answer seq 0,
        { n with store := { n.store with testStaged := some (h, version.toNat) } })
    | r => (d.commitFails seq 4 r 0, n)) s

/-- MGMT_ENTER_LOADER: a loader request of TYPE 8 is recorded in LU 3. -/
def execMgmtEnterLoader (seq : BitVec 16) (tok : Token) (s : State) : Res :=
  onMgmt seq false true (fun d n =>
    match n.fuses.verify d.sec.nonce 8 tok.header with
    | 0 => (d.answer seq 0, { n with store := { n.store with loaderReq := true } })
    | r => (d.refuse seq 8 r, n)) s

/-- MGMT_RESTART: as if MOD_RESET_N had been pulsed; `failed` are the channels that fail their training. -/
def execMgmtRestart (seq : BitVec 16) (failed : List (Fin 48)) (s : State) : Res :=
  onMgmt seq true false (fun d n => (d.answer seq 0).pulse n failed none) s

/-! ## Attestation (R440 to R443) -/

/-- Indices that the attestation key gives. -/
def hssIndices : Nat := 2 ^ 30

/-- Bytes of a 32-byte register in order. -/
def keyBytes (k : BitVec 256) : List Byte := digestBytes k

/-- FLAGS of a report. -/
def Dev.repFlags (d : Dev) (n : Nv) : Nat :=
  b2n n.fuses.opened + 2 * b2n d.chip.lock + 4 * b2n d.sec.dbgEver + 8 * b2n d.chip.safeActive + 16 * b2n n.fuses.grade

/-- The 512 bytes of a report. DEDUCED (log 87). -/
def Dev.reportBody (d : Dev) (n : Nv) (nonce : List Byte) (index : Nat) : List Byte :=
  toLE 4 0x52545441 ++ toLE 2 1 ++ toLE 2 (d.repFlags n) ++ toLE 16 n.fuses.serial ++ nonce ++
    toLE 8 d.time.now ++ toLE 4 d.chip.hours ++ toLE 4 n.fuses.svnWord ++ toLE 4 d.chip.recoveries ++
    toLE 4 n.fuses.provUsed ++ toLE 8 index ++ toLE 8 0 ++ (d.sec.m.take 5).flatMap keyBytes ++ toLE 256 0

/-- The HSS signature of a message at an index. DEDUCED (log 87). -/
def hssSign (index : Nat) (msg : List Byte) : List Byte := (List.range 3284).map fun i => Config.hssByte index msg i

/-- The stored certificate of the provisioning in force, 1,408 bytes: keys and a signature, which the manual
gives no value. DEDUCED (log 87). -/
def Nv.certBytes (n : Nv) : List Byte :=
  (List.range 1408).map fun i => Config.hssByte (hssIndices + n.fuses.provUsed) (toLE 16 n.fuses.serial) i

/-- The next index is taken; one at or beyond END first reserves a block (R441). DEDUCED (log 87). -/
def Dev.takeIndex (d : Dev) (n : Nv) : Nat × Dev × Nv :=
  let i := d.sec.next
  let (d, n) := if n.store.lmsEnd ≤ i then
      let e := n.store.lmsEnd + 1024
      (d.evSec 0 0x9030 [e], { n with store := { n.store with lmsRec := n.store.lmsRec.write d.time.now e } })
    else (d, n)
  (i, { d with sec := { d.sec with next := i + 1 } }, n)

/-- The security unit writes an output as initiator 720 and the operation completes. -/
def Dev.attWrite (d : Dev) (k part cls out : Nat) (bs : List Byte) : Dev :=
  match d.refusalAt 720 part cls out bs.length true with
  | some (t, r26) => (d.deny 720 part t r26 out).settle k stDenied
  | none => (d.storeAs part out bs).settle k stDone

/-- A request record is well formed: KIND 0 or 1, OUT_ADDR 64-byte aligned, every other byte 0 (R442).
DEDUCED (log 87). -/
def attOk (r : List Byte) : Bool :=
  decide ((r.getD 0 0).toNat ≤ 1) && decide (ofLE ((r.drop 8).take 8) % 64 = 0) &&
    ((List.range 64).all fun i => i == 0 || (decide (8 ≤ i) && decide (i < 48)) || r.getD i 0 == 0)

/-- ATTESTATION_REQUEST: a report, the certificate, or BUDGET_EXHAUSTED (R443). A report whose index lies in a
lower tree not yet generated waits. DEDUCED (log 87). -/
def Dev.attest (d : Dev) (n : Nv) (k : Nat) : Dev × Nv :=
  let o := d.op k
  let a := o.arg0.toNat
  match d.refusalAt 720 o.part o.cls a 64 false with
  | some (t, r26) => ((d.deny 720 o.part t r26 a).settle k stDenied, n)
  | none =>
    let r := d.rdBytes a 64
    let out := ofLE ((r.drop 8).take 8)
    if (d.anyPoison a 64 || !attOk r) = true then (d.settle k stPoisoned, n)
    else if (r.getD 0 0).toNat = 1 then (d.attWrite k o.part o.cls out n.certBytes, n)
    else if n.store.seeds = false ∨ 4 ≤ d.sec.reports ∨ hssIndices ≤ d.sec.next then (d.settle k stBudget, n)
    else if n.store.topSig < d.sec.next / 2 ^ 20 then (d, n)
    else
      let (i, d, n) := d.takeIndex n
      let d := { d with sec := { d.sec with reports := d.sec.reports + 1 } }
      let body := d.reportBody n ((r.drop 16).take 32) i
      (d.attWrite k o.part o.cls out (body ++ hssSign i body), n)

/-- ATTESTATION_REQUEST. DEDUCED (log 87). -/
def execAttestationRequest (token : Fin 16384) (s : State) : Res :=
  onNv (fun d n =>
    let o := d.op token
    if (o.used && o.placed && o.kind == .attest && o.status.isNone && !d.chip.computeReset) = true then d.attest n token
    else (d, n)) s

/-- LOWER_TREE_GENERATE: the next lower tree is ready once the current one has used 786,432 indices, and its
top-tree signature is stored (R440). DEDUCED (log 87). -/
def execLowerTreeGenerate (s : State) : Res :=
  onNv (fun d n =>
    let t := d.sec.next / 2 ^ 20 + (if 786432 ≤ d.sec.next % 2 ^ 20 then 1 else 0)
    if n.store.seeds = true ∧ n.store.topSig < t ∧ t < 1024 then (d, { n with store := { n.store with topRec := n.store.topRec.write d.time.now t } })
    else (d, n)) s

/-- ATTESTATION_INDICES_NEARLY_EXHAUSTED: event 0x9032 once per 1,000 powered hours (R443). -/
def execAttestationIndicesNearlyExhausted (s : State) : Res :=
  onNv (fun d n =>
    let left := hssIndices - d.sec.next
    let due : Bool := match n.store.nearH with
      | none => true
      | some h => decide (h + 1000 ≤ d.chip.hours)
    if n.store.seeds = true ∧ left ≤ 10737418 ∧ due = true ∧ d.chip.phase ≠ .modReset then
      (d.evSec 5 0x9032 [left], { n with store := { n.store with nearH := some d.chip.hours } })
    else (d, n)) s

end Sys2Proof.Machine
end

