-- ==== Sys2Proof/Machine/View.lean ====
section
/-! DEFINITION. What a read of the register space returns (R6, R451, R459): the stored dwords, and for the fields
that report the state of a unit the value that the unit's state gives them. -/

namespace Sys2Proof.Machine

/-- Index of the copy at `off` of a register with `n` copies `stride` bytes apart from `base`. -/
def idx (off base stride n : Nat) : Option Nat :=
  if base ≤ off ∧ off < base + n * stride ∧ (off - base) % stride = 0 then some ((off - base) / stride) else none

/-- TK_ registers that the time base gives. -/
def Dev.viewTk (d : Dev) (off : Nat) : Option Nat :=
  if off = R.tkTimeLo then some (d.time.now % 2 ^ 32)
  else if off = R.tkTimeHi then some d.time.hi.toNat
  else if off = R.tkPosition then some (pack [(d.wb % d.lc, 0, 8), (d.wb % d.lp, 8, 10), (d.wb % epochWb, 18, 13)])
  else if off = R.tkCtrlFrame then some (d.ctrlFrame % 2 ^ 32)
  else none

/-- QM_ registers of queues, contexts, partitions and trackers. -/
def Dev.viewQueue (d : Dev) (off : Nat) : Option Nat :=
  let q := d.qSel
  let c := d.cSel
  let x := d.ctx c
  let st := d.qState q
  if off = R.qmQctl then
    some (pack [(b2n (st == 1), 0, 1), (b2n (d.qMode q), 1, 1), (b2n (d.disBusy (queueObj q)), 2, 1), (st, 3, 2)])
  else if off = R.qmQhead then some (d.qHead q)
  else if off = R.qmQtail then some (d.qTail q)
  else if off = R.qmCctl then
    some (pack [(b2n (x.state == 1), 0, 1), (b2n (d.disBusy (ctxObj c)), 1, 1), (x.state, 2, 2), (b2n x.static, 4, 1)])
  else if off = R.qmCqtail then some x.tail
  else
    ((idx off (R.qmPctl 0) 4 64).map fun p =>
      let s := (d.part p).static
      pack [(if s then 1 else d.fld (R.qmPctl p) 0 1, 0, 1), (d.fld (R.qmPctl p) 1 1, 1, 1),
        (b2n (d.disBusy (.partition (Fin.ofNat 64 p))), 2, 1), (b2n s, 3, 1)]) <|>
    ((idx off (R.qmTrkUsed 0) 16 4).map fun t => pack [(d.trkUsed t, 0, 13), (d.fld (R.qmTrkUsed t) 16 13, 16, 13)]) <|>
    ((idx off (R.qmSaveUsed 0) 16 4).map fun t =>
      (d.tile t).saves.length + ((tileBlocks t).filter fun b => (d.blk b).preempt.isSome).length) <|>
    ((idx off (R.qmRegion 0) 16 4).map fun t =>
      let x := d.tile t
      pack [(x.region, 0, 2), (min 63 x.suspects.length, 2, 6), (x.replayBlk.getD 0, 8, 8), (min 3 x.resets, 16, 2)]) <|>
    (if off = R.qmLastRecov then some (pack [(min 4095 d.chip.lastRecMs, 0, 12), (d.chip.lastRecStep, 12, 4)]) else none)

/-- QM_ registers of the serving sequencer; those of an instance read the selected one. -/
def Dev.viewServe (d : Dev) (off : Nat) : Option Nat :=
  let i := d.iSel
  let s := d.inst i
  let live : Bool := s.state != 0
  if off = R.qmSrvCtl then some (pack [(d.fld R.qmSrvCtl 0 1, 0, 1), (d.srv.fairAct, 1, 1)])
  else if off = R.qmSrvIctl then
    some (pack [(d.fld R.qmSrvIctl 0 2, 0, 2), (b2n (d.disBusy (instObj i)), 2, 1), (s.state, 3, 2)])
  else if off = R.qmSrvIoff then some (if live then Config.instOffset i % 2 ^ 25 else 0)
  else if off = R.qmSrvIstat then some (pack [(s.admitted.length, 0, 11), (s.waiting.length, 11, 13)])
  else if off = R.qmSrvSteps then some (s.steps % 2 ^ 32)
  else if off = R.qmPfxUsed then some (d.srv.pfx.filter fun e => e.2.valid).length
  else if off = R.qmSrvRecomp then some (min s.recomp 0xFFFFFFFF)
  else if off = R.qmSrvRetry then some (min s.retry 0xFFFFFFFF)
  else if off = R.qmSrvDraft then some (min s.drafted 0xFFFFFFFF)
  else if off = R.qmSrvAccept then some (min s.accepted 0xFFFFFFFF)
  else if off = R.qmSrvHold then some (min s.hold 0xFFFFFFFF)
  else if off = R.qmKvBlocks then some (if live then s.kvBlocks else 0)
  else if off = R.qmKvFree then some s.kvFree
  else if off = R.qmKvLow then some (if live ∨ s.kvRead = true then s.kvLow else 0xFFFFFFFF)
  else if off = R.qmKvShared then some (d.srv.pfx.filter fun e => e.2.valid && e.2.inst == i).length
  else (idx off (R.qmBudgetLeft 0) 8 1024).map fun c => unsigned 32 (d.balance c)

/-- Code of a block's service state. -/
def svcCode : Svc → Nat
  | .standby => 0
  | .inService => 1
  | .retired => 2

/-- Fewest spare rows left in the banks of a scratchpad: 4 per bank at shipment. -/
def Block.spareMin (k : Block) (sp banks : Nat) : Nat :=
  (List.range banks).foldl (fun m i => min m (4 - tget (fun _ => 0) k.spares (sp * 16 + i))) 4

/-- ME_, GC_ and SP_ registers of the blocks. -/
def Dev.viewBlock (d : Dev) (off : Nat) : Option Nat :=
  if off = R.mePpuStatus then
    let busy := d.ops.any fun e => e.2.used && e.2.kind == .ppu && e.2.placed && e.2.status.isNone
    some (pack [(b2n busy, 0, 1), (d.fld R.mePpuStatus 16 16, 16, 16)])
  else
    ((idx off (R.meEngine 0) 64 144).map fun b =>
      let k := d.blk b
      pack [(svcCode k.svc, 0, 2), (b2n (d.engBusy b), 2, 1), (b2n k.chkFault, 3, 1),
        (((d.current b).map (·.2.part)).getD 0, 4, 6), (d.fld (R.meEngine b) 10 2, 10, 2)]) <|>
    ((idx off (R.gcActive 0) 64 144).map fun b =>
      (d.blk b).threads.foldl (fun n e => if e.2.op.isSome then n + 2 ^ e.1 else n) 0) <|>
    ((idx off (R.gcStatus 0) 64 144).map fun b =>
      let k := d.blk b
      pack [(k.sbUsed, 0, 6), ((k.pools.filter fun e => e.2.valid).length, 6, 5),
        (d.ops.foldl (fun n e => if e.2.used && e.2.block == some b then n + e.2.launches else n) 0, 16, 8)]) <|>
    ((idx off (R.gcWdog 0) 64 144).map fun b =>
      let k := d.blk b
      pack [(k.engStuck, 0, 5), (k.threads.foldl (fun m e => max m e.2.stuck) 0, 5, 5),
        (min 3 (k.hangs.filter fun h => decide (d.chip.hours - h ≤ 1000)).length, 10, 2), (k.lastUnit, 12, 3), (k.lastThread, 15, 3)]) <|>
    ((idx off (R.spSpare 0) 64 144).map fun b =>
      let k := d.blk b
      pack [(k.spareMin 4 16, 0, 4), (k.spareMin 0 4, 4, 4), (k.spareMin 1 4, 8, 4), (k.spareMin 2 4, 12, 4),
        (k.spareMin 3 4, 16, 4), (k.rows.length, 20, 8)]) <|>
    ((idx off (R.spScrub 0) 64 144).map fun b => (d.blk b).passes % 65536)

/-- MC_ registers of ranks, channels and the migration. DEDUCED (log 72). -/
def Dev.viewDram (d : Dev) (off : Nat) : Option Nat :=
  if off = R.mcMigStatus then
    let left := min 3 ((List.range 96).filter fun r => (d.rank r).state == 0).length
    let waits := min 15 d.dram.queue.length
    some (match d.dram.mig with
      | none => pack [(waits, 26, 4), (left, 30, 2)]
      | some m => pack [(m.step, 0, 2), (m.source, 2, 7), (m.spare, 9, 7), (m.page / 1024, 16, 10), (waits, 26, 4), (left, 30, 2)])
  else if off = R.mcResvSize then some (d.safetySize / gib)
  else
    ((idx off (R.mcRank 0) 16 96).map fun r => pack [((d.rank r).state, 0, 2), ((d.logicalRank r).getD 0x7F, 2, 7)]) <|>
    ((idx off (R.mcRankCe 0) 16 96).map fun r => min ((d.rank r).window d.chip.hours) 0xFFFFFFFF) <|>
    ((idx off (R.mcRankUe 0) 16 96).map fun r => (d.rank r).ue) <|>
    ((idx off (R.mcChan 0) 16 48).map fun k =>
      let c := d.chan k
      pack [(d.fld (R.mcChan k) 0 16, 0, 16), (min 255 c.retrains, 16, 8), (c.marked.length, 24, 6), (b2n c.failed, 30, 1)]) <|>
    ((idx off (R.mcRemap 0) 4 92).map fun l =>
      pack [((d.dram.safety ++ d.dram.general).getD l 0x7F, 0, 7), (b2n (decide (l < d.dram.safety.length)), 7, 1)])

/-- FU_ and PL_ registers. -/
def Dev.viewFusion (d : Dev) (off : Nat) : Option Nat :=
  if off = R.fuStatus then
    some (pack [(d.fus.step, 0, 2), (b2n d.fus.instar, 2, 1), (d.fus.left, 3, 8), (b2n d.fus.bufB, 11, 1)])
  else if off = R.plStatus then
    some (pack [(d.pl.newest, 0, 16), (d.pl.freeBuf, 16, 2), (b2n d.pl.valid, 18, 1), (b2n d.faultyMap, 19, 1),
      (b2n d.pl.eyeOk, 20, 1), (b2n d.compatReq, 21, 1)])
  else
    ((idx off (R.fuOutCount 0) 4 6).map fun k => tget (fun _ => 0) d.fus.counts k % 2 ^ 32) <|>
    ((idx off (R.fuStreamStat 0) 64 64).map fun n =>
      let s := d.str n
      pack [(s.standing, 0, 2), ((s.hist.filter id).length, 2, 6), (s.ontime, 8, 6), (s.miss, 14, 3)])

/-- An arbitration engine is reserved in every tile where the partition has items (RX_PART_p.ARB_RESV). -/
def Dev.arbResv (d : Dev) (p : Nat) : Bool :=
  match d.chip.image with
  | none => false
  | some c =>
    let ws := c.words
    let ts := (List.range 4).filter fun t => c.hasItems ws p t
    !ts.isEmpty && ts.all fun t => (d.arbReserved p t).isSome

/-- RX_ registers. -/
def Dev.viewRx (d : Dev) (off : Nat) : Option Nat :=
  let live (b : Nat) : List Nat := (d.blk b).strikes.filter fun h => decide (d.chip.hours - h ≤ 1000)
  if off = R.rxHours then some d.chip.hours
  else
    ((idx off (R.rxPart 0) 4 64).map fun p =>
      let x := d.part p
      pack [(x.fraction, 0, 3), (b2n x.safety, 3, 1), (b2n x.debug, 4, 1), (b2n (d.arbResv p), 5, 1)]) <|>
    ((idx off (R.rxEngine 0) 64 144).map fun b =>
      let k := d.blk b
      pack [(k.held, 0, 2), (min 3 (live b).length, 2, 2), (b2n k.arbFor.isSome, 4, 1), (k.selCnt, 5, 4)]) <|>
    ((idx off (R.rxStrike 0) 64 144).map fun b => match (live b).min? with
      | some h => h % 2 ^ 18
      | none => Config.freeNat d.free % 2 ^ 18)

/-- CH_ registers: the last copy of R335. -/
def Dev.viewCh (d : Dev) (off : Nat) : Option Nat :=
  let of_ (l : List Word) (k : Nat) : Option Nat := l[k]?.map (·.toNat)
  ((idx off R.chAState 4 24).bind (of_ d.chA.mirror)) <|> ((idx off R.chBState 4 24).bind (of_ d.chB.mirror))

/-- SEC_ registers. -/
def Dev.viewSec (d : Dev) (n : Nv) (off : Nat) : Option Nat :=
  if off = R.secState then some (d.secState n)
  else if off = R.secBoot then some (pack [(d.chip.lockMs, 0, 13), (d.chip.lastReason, 13, 4)])
  else if off = R.secSvn then some n.fuses.svnWord
  else if off = R.secAttUnit then some (Config.attOffset % hubSize)
  else if off = R.secLmsNext then some (d.sec.next % 2 ^ 30)
  else if off = R.secLmsEnd then some (n.store.lmsEnd % 2 ^ 30)
  else if off = R.secDbgPartLo then some (partWords d.sec.dbgParts).1
  else if off = R.secDbgPartHi then some (partWords d.sec.dbgParts).2
  else (idx off (R.secMeas 0) 4 40).map fun i => ofLE (((digestBytes (d.sec.m.getD (i / 8) 0)).drop (4 * (i % 8))).take 4)

/-- PWR_ and TH_ registers. -/
def Dev.viewPower (d : Dev) (off : Nat) : Option Nat :=
  if off = R.pwrModule then some (pack [(min 0xFFFF d.pwr.wbPower, 0, 16), (min 1023 d.pwr.epMean, 16, 10)])
  else if off = R.pwrPhase then some (pack [(d.pwr.lastPh, 0, 10), (d.pwr.isolated.length, 10, 10)])
  else if off = R.thTj then some (pack [(unsigned 16 d.pwr.floor.tj, 0, 16), (d.pwr.floor.tjPair, 16, 6)])
  else if off = R.thTrip then
    some (pack [(b2n (d.chip.phase != .modReset), 0, 1), (b2n d.pwr.tripped, 1, 1), (d.pwr.tripPair, 2, 6), (d.pwr.trips, 8, 16)])
  else
    ((idx off (R.pwrRail 0) 4 5).map fun k =>
      let r := d.pwr.rails.getD k (0, 0)
      pack [(r.1, 0, 16), (r.2, 16, 16)]) <|>
    ((idx off (R.thPair 0) 4 62).map fun p =>
      let q := d.pwr.floor.pair p
      pack [(unsigned 16 q.value, 0, 16), (b2n q.flag, 16, 1), (b2n q.failLo, 17, 1), (b2n q.failHi, 18, 1), (q.run, 19, 7)]) <|>
    ((idx off (R.thSensor 0) 4 124).map fun s =>
      let v := d.pwr.raw.getD s 0
      pack [(unsigned 16 v, 0, 16), (b2n (!validT v), 16, 1)])

/-- LNK_ and OPT_ registers. -/
def Dev.viewLinks (d : Dev) (off : Nat) : Option Nat :=
  if off = R.optPorts then
    some ((List.range 7).foldl (fun n p => if d.links.up.contains (p + 1) then n + 2 ^ (p + 1) else n) (b2n d.host.up) +
      256 * b2n (d.host.up && d.links.hostW == 8))
  else
    ((idx off (R.lnkStatus 0) 32 20).map fun m =>
      let q := d.lmod m
      let ring := (List.range 4).filter fun t => (linkMods (20 + t)).contains m
      pack [(ring.foldl (fun x t => max x (d.link (20 + t)).state) (d.link m).state, 0, 2), ((d.linkLanes m).length, 2, 7),
        ((q.ring.filter fun l => !q.retired.contains l).length, 9, 7), (4 - q.redUsed.length, 16, 3), (q.retired.length, 19, 7)]) <|>
    ((idx off (R.optLe 0) 4 4).map fun e =>
      let g := (List.range 3).foldl (fun n g => if d.links.lasers.contains (e * 3 + g) then n else n + 2 ^ g) 0
      let l := ((List.range 24).filter fun i => (d.lane (e * 24 + i)).state == 3).length
      pack [(g, 0, 3), (min l 2, 3, 2)]) <|>
    ((idx off (R.optLaneStat 0) 16 96).map fun n =>
      let x := d.lane n
      let f := (x.flaps.filter fun f => decide (d.time.now ≤ f.1 + 10000000000)).length
      pack [(x.state, 0, 2), (min 3 f, 2, 2), (b2n x.spareLaser, 4, 1), (b2n x.outside, 5, 1)]) <|>
    ((idx off (R.optLaneBias0 0) 16 96).map fun n => (d.lane n).bias0 % 256)

/-- HP_ registers. -/
def Dev.viewHp (d : Dev) (off : Nat) : Option Nat :=
  if off = R.hpLink then
    some (pack [(b2n d.host.up, 0, 1), (if d.host.up then d.links.hostW else 0, 1, 5), (b2n (bit (d.cfg 1) 2), 6, 1),
      (b2n d.host.d3, 7, 1), (d.host.recov, 8, 16)])
  else if off = R.hpEvlogPend then some d.log.buf.length
  else none

/-- The value that a unit's state gives the dword at `off`, by its window (R459). DEDUCED (log 90). -/
def Dev.viewUnit (d : Dev) (n : Nv) (off : Nat) : Option Nat :=
  match off / 0x10000 with
  | 0 => d.viewTk off
  | 1 => d.viewQueue off <|> d.viewServe off
  | 2 => d.viewBlock off
  | 3 => d.viewBlock off
  | 4 => d.viewBlock off
  | 5 => d.viewDram off
  | 6 => d.viewFusion off
  | 7 => d.viewFusion off
  | 8 => d.viewRx off
  | 9 => d.viewCh off
  | 10 => d.viewSec n off
  | 11 => d.viewPower off
  | 12 => d.viewPower off
  | 13 => d.viewLinks off
  | 14 => d.viewLinks off
  | 15 => d.viewHp off
  | _ => none

/-- The dword at a 4-byte-aligned BAR0 offset: 0 where no register stands (R451). DEDUCED (log 11). -/
def Dev.view (d : Dev) (n : Nv) (off : Nat) : Nat :=
  if (regDef? off).isNone then 0 else (d.viewUnit n off).getD (d.reg off)

/-- What a read of the dword leaves: TK_TIME_LO captures the high half of T, and an RC register is cleared (R6);
QM_KV_LOW is 0 until the least number of free blocks is measured again. DEDUCED (log 11, 46). -/
def Dev.afterRead (d : Dev) (off : Nat) : Dev :=
  let sel (f : Inst → Inst) : Dev := d.modInst d.iSel f
  if off = R.tkTimeLo then { d with time := { d.time with hi := BitVec.ofNat 32 (d.time.now / 2 ^ 32) } }
  else if off = R.qmSrvRecomp then sel fun s => { s with recomp := 0 }
  else if off = R.qmSrvRetry then sel fun s => { s with retry := 0 }
  else if off = R.qmSrvDraft then sel fun s => { s with drafted := 0 }
  else if off = R.qmSrvAccept then sel fun s => { s with accepted := 0 }
  else if off = R.qmSrvHold then sel fun s => { s with hold := 0 }
  else if off = R.qmKvLow then sel fun s => { s with kvLow := 0, kvRead := true }
  else if (idx off (R.rxStrike 0) 64 144).isSome then { d with free := d.free + 1 }
  else if rcMask off = 0 then d
  else d.setReg off (d.reg off - (d.reg off &&& rcMask off))

/-- Read a dword: its value, and the device afterwards. -/
def Dev.readDword (d : Dev) (n : Nv) (off : Nat) : Nat × Dev := (d.view n off, d.afterRead off)

end Sys2Proof.Machine
end

