-- ==== Sys2Proof/Machine/HostPort.lean ====
section
/-! DEFINITION. The host port: resets and Bus Master Enable, configuration space, BAR0 reads and writes with the
lock, BAR2, and the event log (R432, R449 to R461, R466). -/

namespace Sys2Proof.Machine

/-! ## Resets (R455) -/

/-- Configuration space returns to its reset values. -/
def Dev.cfgReset (d : Dev) : Dev := { d with host := { d.host with cfg := [], d3 := false } }

/-- HOT_RESET: the link goes down and retrains under R402. -/
def execHotReset (s : State) : Res :=
  onDevIf (fun d => d.host.up) (fun d => ((d.evHost 0 0x3032 [1]).portDown 0).cfgReset) s

/-- LINK_DISABLE: the link stays down until the host's port stops signalling. -/
def execLinkDisable (s : State) : Res :=
  onDevIf (fun d => d.host.up)
    (fun d =>
      let d := ((d.evHost 0 0x3032 [2]).portDown 0).cfgReset
      { d with host := { d.host with held := true } }) s

/-- Bus Master Enable is cleared: event 0x3032 where it was set. -/
def Dev.bmeOff (d : Dev) : Dev :=
  if bit (d.cfg 1) 2 then
    ({ d with host := { d.host with cfg := tset cfgDef d.host.cfg 1 (BitVec.ofNat 32 (d.cfg 1 - 4)) } }).evHost 0 0x3032 [3]
  else d

/-- BME_CLEAR. -/
def execBmeClear (s : State) : Res := onDevIf (fun d => d.host.up) Dev.bmeOff s

/-! ## Configuration space (R449, R450) -/

/-- The read-only part of configuration dword `i`; what the manual does not give is open. The capabilities
stand at 0x40 (PCI Express) and 0x80 (power management, No_Soft_Reset = 1). PRESUMED (log 89). -/
def cfgFixed (i : Nat) : Nat :=
  match i with
  | 0 => 0x08801F47
  | 1 => 0x00100000
  | 2 => 0x12000000 + (Config.cfgReset 2).toNat % 256
  | 4 => 0x4
  | 6 => 0xC
  | 0xB => (Config.cfgReset 0xB).toNat
  | 0xD => 0x40
  | 0x10 => 0x00028010
  | 0x12 => 0
  | 0x20 => 0x00000001
  | 0x21 => 0x8
  | 0x44 => 0
  | _ => if i < 0x10 then 0 else (Config.cfgReset i).toNat

/-- The bits of configuration dword `i` that the host writes: Command, the sizes of BAR0 and BAR2, Interrupt Line
and Device Control. PRESUMED (log 89). -/
def cfgMask (i : Nat) : Nat :=
  match i with
  | 1 => 0x546
  | 4 => 0xF0000000
  | 5 => 0xFFFFFFFF
  | 7 => 0xFFFFFFF0
  | 0xF => 0xFF
  | 0x12 => 0x71EF
  | _ => 0

/-- The bits of dword `i` that a write of 1 clears: Device Status and the AER correctable error status.
PRESUMED (log 89). -/
def cfgClear (i : Nat) : Nat :=
  match i with
  | 0x12 => 0xF0000
  | 0x44 => 0xFFFF
  | _ => 0

/-- The value of configuration dword `i`. PRESUMED (log 89). -/
def Dev.cfgRead (d : Dev) (i : Nat) : Nat :=
  let m := cfgMask i ||| cfgClear i
  let fixed := cfgFixed i - (cfgFixed i &&& m)
  fixed + (d.cfg i &&& m) + (if i = 0x21 then 3 * b2n d.host.d3 else 0)

/-- A write to configuration dword `i`; in the power-management register it moves the Function between D0 and
D3hot (R454), and clearing Bus Master Enable is the event of R455; what waits for the host goes out once nothing stands
against it. PRESUMED (log 89). -/
def Dev.cfgWrite (d : Dev) (i v : Nat) : Dev :=
  if i = 0x21 then
    if v % 4 = 0 then { d with host := { d.host with d3 := false } }.payOwed
    else if v % 4 = 3 then { d with host := { d.host with d3 := true } } else d
  else
    let d := if i = 1 ∧ bit v 2 = false then d.bmeOff else d
    let keep := d.cfg i &&& cfgClear i
    let x := (v &&& cfgMask i) + (keep - (keep &&& v))
    { d with host := { d.host with cfg := tset cfgDef d.host.cfg i (BitVec.ofNat 32 x) } }.payOwed

/-- CONFIG_REQUEST: completed at once while the link is in L0. PRESUMED (log 89). -/
def execConfigRequest (write : Bool) (off : Fin 4096) (v : Word) (s : State) : Res :=
  onDevIf (fun d => d.host.up)
    (fun d =>
      let i := off.val / 4
      if write then (d.cfgWrite i v.toNat).complete 0 else d.complete 0 (toLE 4 (d.cfgRead i))) s

/-! ## BAR0 reads (R451) -/

/-- A request of the host that must be answered: `f` where it is taken, Unsupported Request before the lock and in
D3hot (R432, R454). DEDUCED (log 90). -/
def onHostRead (f : Dev → Nv → Dev) (s : State) : Res :=
  onNv (fun d n => match d.hostReq with
    | 0 => (f d n, n)
    | 1 => ((d.bump R.hpUr).complete 1, n)
    | _ => (d, n)) s

/-- Count an access to an offset without a register. DEDUCED (log 90). -/
def Dev.unused (d : Dev) (offs : List Nat) : Dev :=
  if offs.any fun o => (regDef? o).isNone then d.bump R.hpUnused else d

/-- A read of one dword, or of the two that 8 bytes cover. DEDUCED (log 90). -/
def Dev.bar0Read (d : Dev) (n : Nv) (off : Nat) (wide : Bool) : Dev :=
  let (x, d1) := d.readDword n off
  if wide then
    let (y, d2) := d1.readDword n (off + 4)
    (d2.unused [off, off + 4]).complete 0 (toLE 4 x ++ toLE 4 y)
  else (d1.unused [off]).complete 0 (toLE 4 x)

/-- RC_REGISTER_READ: the value from before, then the register is cleared. -/
def execRcRegisterRead (off : Fin 268435456) (wide : Bool) (s : State) : Res :=
  checked (Sys2Proof.Instr.wf (.rcRegisterRead off wide)) (onHostRead (fun d n => d.bar0Read n off wide) s)

/-- TK_TIME_LO_READ: T[31:0], capturing T[63:32]. -/
def execTkTimeLoRead (s : State) : Res := onHostRead (fun d n => d.bar0Read n R.tkTimeLo false) s

/-- BAR0_BAD_REQUEST: Completer Abort, counted; event 0x3030 for the first of an epoch. DEDUCED (log 90). -/
def execBar0BadRequest (off : Fin 268435456) (len : Fin 4097) (s : State) : Res :=
  checked (Sys2Proof.Instr.wf (.bar0BadRequest off len)) (onHostRead (fun d _ =>
    let k := d.host.caEp + 1
    let d := ({ d with host := { d.host with caEp := k } }).bump R.hpCa
    (if k = 1 then d.evHost 5 0x3030 [off.val, len.val, k] else d).complete 2) s)

/-! ## Registers of the host port with an effect of their own -/

/-- HP_BAR2_WIN: a base above 128 GiB is ignored. -/
def Dev.bar2Win (v : Nat) (d : Dev) : Dev := if v % 256 ≤ 128 then d.setReg R.hpBar2Win (v % 256) else d

/-- HP_EVLOG_CFG (R457): SIZE_LOG2 is taken only while EN reads 0, a write of EN = 1 with a size out of range is
ignored whole, and EN from 0 to 1 starts a new ring. -/
def Dev.evlogCfg (v : Nat) (d : Dev) : Dev :=
  let on := bit (d.reg R.hpEvlogCfg) 0
  let size := bits v 1 5
  if on then d.setReg R.hpEvlogCfg (2 * d.fld R.hpEvlogCfg 1 5 + v % 2)
  else if bit v 0 then
    if 7 ≤ size ∧ size ≤ 16 then
      ((d.setReg R.hpEvlogCfg (2 * size + 1)).setReg R.hpEvlogTail 0).setReg R.hpEvlogHead 0
    else d
  else d.setReg R.hpEvlogCfg (2 * size)

/-- HP_EVLOG_HEAD: a value above TAIL or below HEAD is ignored; the counts run freely modulo 2^32.
DEDUCED (log 90). -/
def Dev.evlogHead (v : Nat) (d : Dev) : Dev :=
  let h := d.reg R.hpEvlogHead
  let t := d.reg R.hpEvlogTail
  if (v + 2 ^ 32 - h) % 2 ^ 32 ≤ (t + 2 ^ 32 - h) % 2 ^ 32 then d.setReg R.hpEvlogHead v else d

/-- HP_BAR2_WIN. -/
def execHpBar2Win (v : Word) (s : State) : Res := onHost (Dev.bar2Win v.toNat) s
/-- HP_EVLOG_CFG. -/
def execHpEvlogCfg (v : Word) (s : State) : Res := onHost (Dev.evlogCfg v.toNat) s
/-- HP_EVLOG_HEAD. -/
def execHpEvlogHead (v : Word) (s : State) : Res := onHost (Dev.evlogHead v.toNat) s

/-! ## BAR0 writes (R6, R451, R460, R466) -/

/-- The bits of a dword that byte enables select. -/
def beMask (be : Nat) : Nat := (List.range 4).foldl (fun n i => if bit be i then n + 0xFF * 256 ^ i else n) 0

/-- A write to a field of a register whose write has an effect of its own, where one stands at `off`. -/
def Dev.writeUnit (d : Dev) (off v : Nat) : Option Dev :=
  let en := bit v 0
  let mode := bit v 1
  if off = R.qmQctl then some (if en then d.queueEnable mode else d.queueDisable mode)
  else if off = R.qmCctl then some (if en then d.contextLoad else d.contextDisable)
  else if off = R.qmMirrorCtl then some (d.qmMirrorCtl en)
  else if off = R.qmAcctCtl then some (d.qmAcctCtl en)
  else if off = R.qmSrvCtl then some (d.qmSrvCtlFair en)
  else if off = R.qmSrvIctl then some (if en then d.instanceLoad mode else d.instanceUnload mode)
  else if off = R.hpBar2Win then some (d.bar2Win v)
  else if off = R.hpEvlogCfg then some (d.evlogCfg v)
  else if off = R.hpEvlogHead then some (d.evlogHead v)
  else
    ((idx off (R.qmPctl 0) 4 64).map fun p =>
      if en then d.partitionEnable (Fin.ofNat 64 p) mode else d.partitionDisable (Fin.ofNat 64 p) mode) <|>
    ((idx off (R.qmBudget 0) 8 1024).map fun c => d.qmBudget (Fin.ofNat 1024 c) (BitVec.ofNat 32 v)) <|>
    ((idx off (R.mcQos 0) 4 8).map fun p => (d.setReg off v).panicAt p) <|>
    ((idx off (R.mcReg 0) 4 128).map fun k => (d.setReg off v).drainReqs k) <|>
    ((idx off (R.meEngine 0) 64 144).map fun b =>
      (d.dynMode (Fin.ofNat 144 b) (bit v 11)).dynDisable (Fin.ofNat 144 b) (bit v 10))

/-- Write a dword under byte enables: RW fields, and RWL fields before the lock, take the bytes enabled; the others
keep their values (R6). -/
def Dev.writeDword (d : Dev) (off v be : Nat) : Dev :=
  let open_ := rwMask off ||| (if d.chip.lock then 0 else rwlMask off)
  let m := open_ &&& beMask be
  if m = 0 then d
  else
    let x := (d.reg off - (d.reg off &&& m)) + (v &&& m)
    (d.writeUnit off x).getD (d.setReg off x)

/-- The lowest register a write covers with a byte of an RWL field in it (R466). -/
def rwlHit (parts : List (Nat × Nat × Nat)) : Option Nat :=
  (parts.find? fun p => (rwlMask p.1 &&& beMask p.2.2) != 0).map (·.1)

/-- A register write of the host or of machine-mode code: recorded once where it covers an RWL field after the
lock. The doorbells take only 8-byte writes (R136). DEDUCED (log 90). -/
def Dev.regWrite (d : Dev) (off v be : Nat) (wide : Bool) (init : Nat) : Dev :=
  let parts := if wide then [(off, v % 2 ^ 32, be % 16), (off + 4, v / 2 ^ 32, be / 16)] else [(off, v % 2 ^ 32, be % 16)]
  let whole := wide && be == 255
  if off / 8 * 8 = R.qmDoorbell then d.qmDoorbell (BitVec.ofNat 64 v) whole
  else if off / 8 * 8 = R.qmCqDoorbell then d.qmCqDoorbell (BitVec.ofNat 64 v) whole
  else
    let d := match rwlHit parts, d.chip.lock with
      | some o, true => (d.bump R.secRwlDeny).evSec 5 0x9011 [o, init]
      | _, _ => d
    let d := if init = 728 then d.unused (parts.map (·.1)) else d
    parts.foldl (fun (d : Dev) p => d.writeDword p.1 p.2.1 p.2.2) d

/-- REGISTER_WRITE: from the host, or from machine-mode code of a core (R460). DEDUCED (log 90). -/
def execRegisterWrite (off : Fin 268435456) (v : DWord) (be : BitVec 8) (wide : Bool) (init : Nat) (s : State) : Res :=
  checked (Sys2Proof.Instr.wf (.registerWrite off v be wide init))
    (if init = 728 then onHost (fun d => d.regWrite off v.toNat be.toNat wide init) s
     else onDevIf (fun d => d.live) (fun d => d.regWrite off v.toNat be.toNat wide init) s)

/-! ## BAR2 (R452) -/

/-- BAR2_READ. DEDUCED (log 91). -/
def execBar2Read (off : Fin 68719476736) (len : Fin 4097) (s : State) : Res :=
  checked (Sys2Proof.Instr.wf (.bar2Read off len)) (onHostRead (fun d _ => d.bar2Arrive ⟨off, len, none⟩) s)

/-- BAR2_WRITE. DEDUCED (log 91). -/
def execBar2Write (off : Fin 68719476736) (data : List Byte) (ep : Bool) (s : State) : Res :=
  checked (Sys2Proof.Instr.wf (.bar2Write off data ep)) (onHost (fun d => d.bar2Arrive ⟨off, data.length, some (data, ep)⟩) s)

/-! ## The event log (R457) -/

/-- EVENT_RECORD_WRITE: a source writes a record (R10); it goes to the retention buffer, or is discarded. -/
def execEventRecordWrite (code cls region block part ctx : Nat) (detail : List Nat) (s : State) : Res :=
  checked (Sys2Proof.Instr.wf (.eventRecordWrite code cls region block part ctx detail))
    (onDevIf (fun d => d.chip.phase != .modReset) (fun d => d.event cls code region block detail part ctx) s)

/-- The 16 detail bytes of a record (R10): a single field stands there little-endian, zeros after it; the widths of
several fields are the code's. DEDUCED (log 7). -/
def EventRecord.detailBytes (r : EventRecord) : List Byte :=
  match r.detail with
  | [] => toLE 16 0
  | [x] => toLE 16 x
  | _ => (List.range 16).map (Config.detailByte r.code r.detail)

/-- The 32 bytes of a record (R10). DEDUCED (log 7). -/
def EventRecord.bytes (r : EventRecord) : List Byte :=
  toLE 8 r.time ++ toLE 2 (r.block % 256 + 256 * r.region) ++ toLE 1 r.cls ++ toLE 2 r.code ++ toLE 1 r.part ++
    toLE 2 r.ctx ++ r.detailBytes

/-- Whether the oldest buffered record may be moved to host memory. -/
def Dev.evlogGo (d : Dev) : Bool :=
  bit (d.reg R.hpEvlogCfg) 0 && d.hostReady &&
    decide ((d.reg R.hpEvlogTail + 2 ^ 32 - d.reg R.hpEvlogHead) % 2 ^ 32 < 2 ^ d.fld R.hpEvlogCfg 1 5)

/-- EVENT_RECORD_DELIVER: record k to its place in the ring, then TAIL; when that makes space after records were
discarded, event 0x3031 tells how many. -/
def Dev.deliver (d : Dev) : Dev :=
  match d.log.buf with
  | [] => d
  | r :: rest =>
    let k := d.reg R.hpEvlogTail
    let a := d.reg R.hpEvlogLo + d.reg R.hpEvlogHi * 2 ^ 32 + 32 * (k % 2 ^ d.fld R.hpEvlogCfg 1 5)
    let d := (d.hostWrite a r.bytes).setReg R.hpEvlogTail ((k + 1) % 2 ^ 32)
    let lost := d.log.lost
    let at_ := d.log.lostAt
    let d := { d with log := { d.log with buf := rest, lost := 0, lostAt := 0 } }
    if lost = 0 then d else d.evHost 5 0x3031 [lost, at_]

/-- EVENT_RECORD_DELIVER. -/
def execEventRecordDeliver (s : State) : Res := onDevIf Dev.evlogGo Dev.deliver s

end Sys2Proof.Machine
end

