-- ==== Sys2Proof/Machine/Tick.lean ====
section
/-! DEFINITION. The wingbeat tick: tick checks, launch words, sensor triggers, and what the device counts
once per wingbeat (R45 to R57, R146, R177, R310, R468). -/

namespace Sys2Proof.Machine

/-! ## Tick checks (R46, R310, R468) -/

/-- Region of a checking unit: 0 to 3 the tiles, 4 the hub; an island checks for itself. -/
def TickUnit.region : TickUnit → Nat
  | .block b => b.val / 36
  | .hub => 4
  | .island .a => 6
  | .island .b => 7

/-- The kind of a tick by when it came, whether in, before or after the window of the tick awaited, and by the W[15:0]
it carries against the one expected; none where it passes, and where no tick has come, whose fault is decided later
(R468). -/
def tickKind (when_ : TickWhen) (expected received : Nat) : Option Nat :=
  match when_ with
  | .early => some (if received = expected then 2 else 3)
  | .inWindow => if received = expected then none else some 3
  | .late | .next => some (if received = expected then 2 else 1)
  | .absent => none

/-- The fault that a checker makes of a tick. The W awaited is the one that begins now, or the one before it where
its tick never came and this one is the next (R468). DEDUCED (log 15). -/
def Dev.tickRec (d : Dev) (f : TickFault) : Option TickRec :=
  let w := (if f.when_ = .next then d.wb + 65535 else d.wb) % 65536
  (tickKind f.when_ w f.received.toNat).map fun k => ⟨f.unit, k, w, f.received.toNat⟩

/-- Regions that saw faults, lowest first. -/
def faultRegions (fs : List TickRec) : List Nat :=
  (List.range 5).filter fun r => fs.any fun f => TickUnit.region f.unit == r

/-- Whether faults of one wingbeat are the fabric's: the hub saw one, or blocks of two regions did. -/
def fabricFault (fs : List TickRec) : Bool :=
  (faultRegions fs).contains 4 || decide (2 ≤ (faultRegions fs).length)

/-- A fault that one block saw: its static items are poisoned, and its retirement is asked for. -/
def Dev.blockTick (d : Dev) (b : Nat) (f : TickRec) : Dev :=
  let d := d.evBlk 2 0x1022 b [f.expected, f.received, f.kind]
  let ks := (d.ops.filter fun e => e.2.used && e.2.static && e.2.block == some b && e.2.status.isNone).map (·.1)
  (ks.foldl (fun (d : Dev) k => d.endOp k stPoisoned true) d).retireReq b 0x1022

/-- Event 0x1023: with the fault of the hub, or else that of the lowest region that saw one. DEDUCED (log 15). -/
def Dev.fabricTick (d : Dev) (fs : List TickRec) : Dev :=
  let rs := faultRegions fs
  let hub := rs.contains 4
  let who := if hub then 4 else rs.headD 4
  match fs.find? fun f => TickUnit.region f.unit == who with
  | none => d
  | some f => d.event 4 0x1023 (if hub then 4 else 0xFF) 0xFF
      [f.expected, f.received, f.kind, rs.foldl (fun n r => n + 2 ^ r) 0]

/-- Faults that blocks and the hub decided together: each counts; a fault of the fabric goes to the
islands once per wingbeat, any other is contained at its block (R46). DEDUCED (log 15). -/
def Dev.tickFaults (d : Dev) (fs : List TickRec) : Dev :=
  let old := d.time.tickBad
  let d := { d with time := { d.time with tickBad := old ++ fs } }
  let d := d.bump R.tkTickFault fs.length
  if fs = [] ∨ fabricFault old = true then d
  else if fabricFault (old ++ fs) = true then d.fabricTick (old ++ fs)
  else fs.foldl (fun (d : Dev) f => match f.unit with
    | .block b => d.blockTick b f
    | _ => d) d

/-- An island's check fails: the second failure in a row requests the safe state (R310). -/
def Dev.islTickBad (d : Dev) (i : Isl) (f : TickRec) (cycles : Nat) : Dev :=
  let s := d.isl i
  let n := min 2 (s.wbBad + 1)
  let d := d.modIsl i fun s => { s with wbBad := n, wbGood := 0 }
  if n = 2 ∧ s.wbOk = true then
    ((d.modIsl i fun s => { s with wbOk := false }).evIsl i 5 0x8021
      [f.expected, f.received, f.kind, cycles]).islReq i 4
  else d

/-- An island's check passes: after 8,000 in a row the line is trusted again. -/
def Island.tickGood (s : Island) : Island :=
  let n := min 8000 (s.wbGood + 1)
  { s with wbBad := 0, wbGood := n, wbOk := s.wbOk || n == 8000 }

/-- An island's check of a wingbeat tick (R310, R468); of one that has not come, TICK_MISSING or the next tick decides.
While the line is not trusted the island counts on its own lattice. DEDUCED (log 15). -/
def Dev.islTick (d : Dev) (i : Isl) (fs : List TickFault) : Dev :=
  if (d.isl i).loaded = false then d
  else
    let seen := fs.find? fun f => f.unit = .island i
    let d := match seen.bind fun f => (d.tickRec f).map fun r => (r, f.cycles) with
      | none => if seen.any (fun (f : TickFault) => f.when_ == TickWhen.absent) then d else d.modIsl i Island.tickGood
      | some (r, n) => d.islTickBad i r n
    let w := d.wb
    d.modIsl i fun s => { s with ownW := if s.wbOk then w else s.ownW + 1 }

/-- TICK_MISSING: a fault of kind 4, decided at the end of the following window; an island's check runs in a module
reset too (R29). DEDUCED (log 15). -/
def execTickMissing (unit : TickUnit) (cycles : Fin 4294967296) (s : State) : Res :=
  onDevIf (fun d => (d.chip.phase != .modReset || decide (5 ≤ TickUnit.region unit)) &&
      !d.time.tickBad.any fun f => f.unit = unit)
    (fun d =>
      let f : TickRec := ⟨unit, 4, (d.wb + 65535) % 65536, 0⟩
      match unit with
      | .island i =>
        if (d.isl i).loaded then
          ({ d with time := { d.time with tickBad := d.time.tickBad ++ [f] } }).islTickBad i f cycles
        else d
      | _ => d.tickFaults [f]) s

/-! ## Waits for a tick class (R108) -/

/-- Threads of the device whose wait satisfies `p`. -/
def Dev.waiting (d : Dev) (p : Wait → Bool) : List (Nat × Nat) :=
  d.blocks.flatMap fun e => (e.2.threads.filter fun h => p h.2.wait).map fun h => (e.1, h.1)

/-- A tick of a class wakes the threads that wait for it. -/
def Dev.wakeClass (d : Dev) (c : Nat) : Dev :=
  (d.waiting fun w => match w with
    | .cls x _ _ => x == c
    | _ => false).foldl (fun (d : Dev) h =>
      if d.tileUp (tileOf h.1) then d.wake h.1 h.2 false none 0xFFFF else d) d

/-! ## Launch words (R47 to R52) -/

/-- A word skipped for one region (R52). -/
def Dev.skipWord (d : Dev) (w : LWord) (region : Nat) : Dev :=
  (d.bump R.tkLaunchSkip).event 5 0x1021 w.table 0xFF [w.index, d.wb, region]

/-- Tracker entry of an action on a static partition's behalf. -/
def Dev.wordOp (d : Dev) (w : LWord) : Op :=
  { static := true, ctx := d.staticCtx w.part, part := w.part, slot := w.index, placed := true
    deadline := some (d.wb + w.deadline), cls := (d.part w.part).cls }

/-- The item that a WAKE word makes due for a static thread of a retired block: it completes as POISONED (R33). -/
def Dev.lostItem (d : Dev) (w : LWord) (b : Nat) (h : Thread) : Dev :=
  match h.static with
  | none => d
  | some c =>
    let x := d.ctx c
    let (k, d) := d.alloc (tileOf b)
      { kind := .item, static := true, ctx := c, part := x.part, slot := w.index, placed := true, block := some b
        entry := x.entry, cls := (d.part x.part).cls, deadline := some (d.wb + w.deadline) }
    d.settle k stPoisoned

/-- WAKE on a block: every thread that waits on the tag. On a block retired and not yet replaced the items come to
nothing. -/
def Dev.wordWake (d : Dev) (w : LWord) (b : Nat) : Dev :=
  ((d.blk b).threads.filter fun h => match h.2.wait with
    | .tag x _ _ => x == w.arg0 % 65536
    | _ => false).foldl (fun (d : Dev) h =>
      if (d.blk b).svc = .retired then d.lostItem w b h.2
      else d.wake b h.1 false (some (d.wb + w.deadline)) w.index) d

/-- ENGINE on a block (R48, R287, R289, R304): the operation becomes pending, or waits at the engine while the
scoreboard or four pending operations stand against it (R60, R118). On a block retired and not yet replaced the item
completes as POISONED (R33). DEDUCED (log 16). -/
def Dev.wordEngine (d : Dev) (w : LWord) (t l b : Nat) : Dev :=
  let dbg := (d.part w.part).debug
  let ws := d.descWords b w.arg0
  let bad : Bool := ws != [] && d.inelig b (descOf ws)
  let pair := d.hasRepeat w t l && !dbg
  if 4096 ≤ d.trkUsed t then d
  else
    let d := if pair && bad && d.fraction w.part != 5 then d.bump (R.rxInelig b) else d
    let (k, d) := d.alloc t { d.wordOp w with kind := .engine, block := some b }
    let sel := pair && !bad
    let e := d.mkEng b {
      token := k, ctx := d.staticCtx w.part, part := w.part, desc := w.arg0, issueW := d.wb, static := true
      byWord := sel, unchecked := dbg, deadline := some (d.wb + w.deadline), ord := (d.blk b).stamp, word := some w.id } sel
    if (d.blk b).svc = .retired ∧ d.lame b = false then d.report b e stPoisoned false
    else
      let ok := (d.blk b).sbFits e.entries && decide ((d.blk b).pendingOps < 4)
      d.modBlk b fun q => { q with
        eng := q.eng ++ [{ e with stage := if ok then .pending else .waiting }], stamp := q.stamp + 1 }

/-- The operation that an ENGINE_REPEAT word names on a block: the latest that its pair has started and whose repeat is
not yet asked for (R287). -/
def Dev.repeatOf (d : Dev) (w : LWord) (b : Nat) : Option EngOp :=
  (pairOf d.launchWords w).bind fun p =>
    ((d.blk b).eng.filter fun e => e.src == .launch && e.word == some p.id && e.byWord && !e.repReq).getLast?

/-- ENGINE_REPEAT on a block: the repeat takes its place by this word's execution (R60); under a debug session a held operation is released unchecked (R304). -/
def Dev.wordRepeat (d : Dev) (w : LWord) (b : Nat) : Dev :=
  match d.repeatOf w b with
  | none => d
  | some e =>
    if (d.part w.part).debug = false then (d.modEng b e fun x => { x with repReq := true, repOrd := (d.blk b).stamp }).modBlk b fun q =>
      { q with stamp := q.stamp + 1 }
    else if e.stage = .firstDone then d.report b e.unrepeat stUnchecked false
    else d.modEng b e fun x => { x.unrepeat with byWord := false }

/-- The open self-test slot of a block is suspended: its checkpoint holds the pattern reached, some further than where
the slot began, and the signature so far, which the test content decides (R158, R326). DEDUCED (log 65). -/
def Dev.suspendTest (d : Dev) (b : Nat) : Dev :=
  if (d.blk b).selftest.isNone then d
  else
    let (p, d) := d.fresh
    let (g, d) := d.fresh
    let d := d.modBlk b fun k => { k with
      selftest := k.selftest.map fun x => { x with pattern := (x.pattern + p) % 2 ^ 32, sig := g % 2 ^ 64 } }
    (d.checkpoint b).modBlk b fun k => { k with selftest := none }

/-- Dynamic work that is on a block at S and in no completed save is aborted (R166). DEDUCED (log 93). -/
def Dev.clearDyn (d : Dev) (b : Nat) : Dev :=
  let ks := (d.dynToks b).filter d.open_
  let left := (d.blk b).eng.any fun e => !e.static && !ks.contains e.token
  let d := d.abortSet b
  let d := d.killEng b fun e => !e.static
  if ks = [] ∧ left = true then (d.bump (R.qmPreemptAbort (tileOf b))).evBlk 5 0xA041 b [b, 0] else d

/-- SLOT_BEGIN on a block. DEDUCED (log 93). -/
def Dev.slotBegin (d : Dev) (w : LWord) (b : Nat) : Dev :=
  ((d.clearDyn b).suspendTest b).modBlk b fun k => { k with
    part := if k.arbFor.isSome then k.part else some w.part, slotPart := some w.part, selCnt := 0 }

/-- SLOT_END on a block: the dynamic pool has it again. -/
def Dev.slotEnd (d : Dev) (b : Nat) : Dev :=
  (d.suspendTest b).modBlk b fun k => { k with part := if k.arbFor.isSome then k.part else none, slotPart := none }

/-- Whether a block takes an action of a word: ENGINE, ENGINE_REPEAT and SELFTEST only in their partition's slot, and
a block that runs a third pass for the partition executes none of its words (R21). DEDUCED (log 16). -/
def Dev.wordRuns (d : Dev) (w : LWord) (b : Nat) : Bool :=
  let k := d.blk b
  !(k.arbFor.isSome && k.part == some w.part) && (match w.action with
  | 2 | 5 | 6 => k.slotPart == some w.part
  | _ => true)

/-- A SLOT_BEGIN or SLOT_END that a block does not execute: which partition the schedule assigns it stands as the
schedule says, for when the third pass has ended (R21). DEDUCED (log 16). -/
def Dev.assigned (d : Dev) (w : LWord) (b : Nat) : Dev :=
  match w.action with
  | 3 => d.modBlk b fun k => { k with slotPart := some w.part }
  | 4 => d.modBlk b fun k => { k with slotPart := none }
  | _ => d

/-- The action of a word on logical block `l` of tile `t`. -/
def Dev.wordBlock (d : Dev) (w : LWord) (t l : Nat) : Dev :=
  let b := d.phys t l
  if d.wordRuns w b = false then d.assigned w b
  else match w.action with
  | 1 => d.wordWake w b
  | 2 => d.wordEngine w t l b
  | 3 => d.slotBegin w b
  | 4 => d.slotEnd b
  | 5 => d.openTest b (w.arg0 % 2 ^ 32 + 64 * l)
  | 6 => d.wordRepeat w b
  | _ => d

/-- Whether the chip is in the safe state (R52): an island has committed it, or halts in it. The schedule that a recovery
has enabled again runs, whether or not both islands have yet enabled primary output (R51, R322). DEDUCED (log 16). -/
def Dev.inSafe (d : Dev) : Bool :=
  let safe (s : Island) : Bool := s.state == .safe || s.state == .halted
  (d.chip.safeActive && !d.resumed) || safe d.chA || safe d.chB

/-- The part of a word for one tile: skipped in reset or in the safe state, and for a block out of service.
DEDUCED (log 16). -/
def Dev.wordTile (d : Dev) (w : LWord) (t : Nat) : Dev :=
  if d.inSafe = true ∨ d.tileUp t = false then d.skipWord w t
  else
    let gone := (d.tile t).outLb
    let ls := (List.range 32).filter (bit w.blocks)
    let d := if ls.any gone.contains then d.skipWord w t else d
    (ls.filter fun l => !gone.contains l).foldl (fun (d : Dev) l => d.wordBlock w t l) d

/-- The part of a word for the hub: ENGINE starts the unit that the descriptor names. DEDUCED (log 16). -/
def Dev.wordHub (d : Dev) (w : LWord) : Dev :=
  if d.inSafe then d.skipWord w 4
  else if w.action = 2 then
    let t := (minBy? d.trkUsed [0, 1, 2, 3]).getD 0
    let e := w.arg0 % hubSize
    if 4096 ≤ d.trkUsed t then d
    else (d.alloc t { d.wordOp w with kind := d.hubUnit e, began := d.time.now, entry := e, outs := d.hubOuts (d.hubUnit e) e }).2
  else d

/-- A due word: thermal step 2 suppresses the words of a reduced partition other than SLOT_END (R330).
DEDUCED (log 16). -/
def Dev.runWord (d : Dev) (w : LWord) : Dev :=
  let d := if w.once then { d with time := { d.time with once := d.time.once ++ [w.id] } } else d
  let p := d.part w.part
  if p.reduced = true ∧ w.action ≠ 4 then d
  else
    let d := if w.action = 6 ∧ p.debug = true ∧ d.inSafe = false then d.bump R.rxDbgSkip else d
    let d := ((List.range 4).filter (bit w.tiles)).foldl (fun (d : Dev) t => d.wordTile w t) d
    if w.hub then d.wordHub w else d

/-- A word that falls while the compute domain is in reset is skipped for each region it names (R52). A once-only word
has its next occurrence after the recovery (R51). DEDUCED (log 16). -/
def Dev.wordInReset (d : Dev) (w : LWord) : Dev :=
  let d := ((List.range 4).filter (bit w.tiles)).foldl (fun (d : Dev) t => d.skipWord w t) d
  if w.hub then d.skipWord w 4 else d

/-- The words due in this wingbeat. The tables run from the first perception-frame tick after the schedule
is enabled (R51); in a reset after that their words are skipped (R52). DEDUCED (log 16). -/
def Dev.runWords (d : Dev) : Dev :=
  if d.live = false then
    if d.chip.launched then
      let ws := ((d.chip.image.map CfgImage.words).getD []).filter fun w => !w.once && d.wordDue w
      (ws.filter (·.table = 4) ++ ws.filter (·.table < 4)).foldl Dev.wordInReset d
    else d
  else
    let d := if d.wb % d.lp = 0 then { d with chip := { d.chip with launching := true, launched := true } } else d
    if d.chip.launching then (d.launchWords.filter d.wordDue).foldl Dev.runWord d else d

/-! ## Sensor triggers (R55 to R57) -/

/-- The sensor port, 1 to 4 among the optical ports, that carries a stream. -/
def Dev.trigPort (d : Dev) (n : Nat) : Nat := d.fld (R.fuStreamCfg n) 1 2 + 1

/-- FLAGS of a trigger message. -/
def Dev.trigFlags (d : Dev) : Nat :=
  let st := d.fld R.tkSyncStatus 0 3
  b2n (st == 3) + 2 * b2n (st == 4)

/-- Queue the trigger message of a stream where W is LEAD_WB before an exposure's wingbeat. DEDUCED (log 17). -/
def Dev.queueTrig (d : Dev) (n : Nat) : Dev :=
  let r := R.tkTrig n
  let l := d.classLen (d.fld r 1 3)
  let w := d.wb + d.fld r 17 7
  if d.fld r 0 1 = 1 ∧ l ≠ 0 ∧ w % l = d.fld r 4 13 then
    let q := tget (fun _ => 0) d.time.trigSeq n
    let m : Trig := ⟨n, w * wingbeatNs + d.fld (R.tkTrigHi n) 0 17, q⟩
    { d with time := { d.time with
      trigs := d.time.trigs ++ [m], exposures := d.time.exposures ++ [m]
      trigSeq := tset (fun _ => 0) d.time.trigSeq n ((q + 1) % 65536) } }
  else d

/-- Whether a queued message can leave: its port is up, at least 100 µs before the exposure instant. -/
def Dev.trigLeaves (d : Dev) (m : Trig) : Bool :=
  d.links.up.contains (d.trigPort m.stream) && decide (d.time.now + 100000 ≤ m.instant)

/-- The payload of a trigger message (R56). -/
def Dev.trigPayload (d : Dev) (m : Trig) : List Byte :=
  toLE 8 m.instant ++ toLE 1 (m.stream % 64) ++ toLE 1 d.trigFlags ++ toLE 2 m.seq ++ toLE 4 0

/-- Messages that can leave do so, as ACF messages of the type in TK_TRIG_CFG (R56). DEDUCED (log 17). -/
def Dev.sendTrigs (d : Dev) : Dev :=
  let go := d.time.trigs.filter d.trigLeaves
  let d := go.foldl (fun (d : Dev) m => d.emit (.trigger (d.trigPort m.stream) (d.fld R.tkTrigCfg 0 7) (d.trigPayload m))) d
  { d with time := { d.time with trigs := d.time.trigs.filter fun m => !go.contains m } }

/-- The triggers of a wingbeat. -/
def Dev.triggers (d : Dev) : Dev :=
  if d.chip.lock = false ∨ d.chip.computeReset = true then d
  else ((List.range 64).foldl Dev.queueTrig d).sendTrigs

/-- TRIGGER_MESSAGE_DROP: the oldest message of a stream that can no longer leave in time. DEDUCED (log 17). -/
def execTriggerMessageDrop (stream : Fin 64) (s : State) : Res :=
  onDev (fun d => match d.time.trigs.find? fun m => m.stream = stream.val ∧ m.instant < d.time.now + 100000 with
    | none => d
    | some m =>
      let d := { d with time := { d.time with trigs := d.time.trigs.filter (· ≠ m) } }
      (d.bump R.tkTrigLate).evHub 5 0x5030 [m.stream, m.seq] 0x15) s

/-! ## Counts of a wingbeat -/

/-- Whether a TASK that waits at dispatch or is next in its queue finds no block of a tile only because each that
could take it has 256 entries. -/
def Dev.blkFull (d : Dev) (t : Nat) : Bool :=
  (d.qm.dispatch.any fun k =>
    let o := d.op k
    o.kind == .task && (tilesOf o.tiles).contains t && d.blksFull t o.part) ||
  d.qm.cache.any fun q =>
    let w := d.descWord q (d.qHead q) 0
    d.qState q == 1 && d.qHead q != d.qTail q && bits w 0 8 == 1 && (tilesOf (bits w 12 4)).contains t &&
      d.blksFull t (d.ctx (d.qCtx q)).part

/-- Tiles stalled in this wingbeat (R146). DEDUCED (log 19). -/
def Dev.stalls (d : Dev) : Dev :=
  if d.live = false then d
  else (List.range 4).foldl (fun (d : Dev) t =>
    if 0 < d.dynShare t ∧ (d.dynFree t = 0 ∨ d.blkFull t = true) then
      (d.bump (R.qmTrkStall t)).modTile t fun x => { x with stallEp := x.stallEp + 1 }
    else d) d

/-- GUAR of port × 16 + class, in bytes per wingbeat. -/
def Dev.guar (d : Dev) (k : Nat) : Nat := d.fld (R.mcReg k) 8 16 * 256

/-- The traffic of the wingbeat just ended joins that of the control frame (R177). DESIGN CHOICE (log 92). -/
def Dev.traffic (d : Dev) (l : List (Fin 8 × Fin 16 × Fin 16777216 × Bool)) : Dev :=
  let one (t : Table (Nat × Bool)) (k : Nat) : Table (Nat × Bool) :=
    let mine := l.filter fun x => x.1.val * 16 + x.2.1.val == k
    let old := tget (fun _ => (0, true)) t k
    tset (fun _ => (0, true)) t k
      (old.1 + mine.foldl (fun n x => n + x.2.2.1.val) 0, old.2 && mine.any fun x => x.2.2.2)
  { d with dram := { d.dram with traffic := (List.range 128).foldl one d.dram.traffic } }

/-- Transactions whose last responses have returned free their slots (R176). -/
def Dev.responses (d : Dev) (l : List (Fin 8 × Fin 16)) : Dev :=
  l.foldl (fun (d : Dev) x => d.respond (16 * x.1.val + x.2.val)) d

/-! ## WINGBEAT_TICK -/

/-- The wingbeat begins: T, of 64 bits, reaches the next multiple of 125,000 ns (R36). -/
def Dev.beginWb (d : Dev) : Dev :=
  { d with time := { d.time with now := (d.wb + 1) * wingbeatNs % 2 ^ 64, tickBad := [], ticked := [] } }

/-- Posted writes that wait at a shared port take effect by the next tick, as far as the scoreboard lets them (R114).
DEDUCED (log 28). -/
def Dev.flushAll (d : Dev) : Dev :=
  ((d.blocks.filter fun e => e.2.posted != []).map (·.1)).foldl Dev.flushBlk d

/-- What happens at the start of a wingbeat. DEDUCED (log 19). -/
def Dev.wingbeat (inp : TickIn) (d : Dev) : Dev :=
  let d := d.beginWb
  let d := d.tickFaults ((inp.seen.filter fun f => decide (TickUnit.region f.unit < 5)).filterMap d.tickRec)
  let d := (d.islTick .a inp.seen).islTick .b inp.seen
  let d := d.flushAll
  let d := [0, 1, 2, 3].foldl Dev.watchUnits ((d.sense inp).watchAll inp.progress)
  let d := (((d.linksTick.arbRetry.moultWait).stalls).traffic inp.traffic).responses inp.returned
  (d.wakeClass 0).runWords.triggers

/-- WINGBEAT_TICK. DESIGN CHOICE (log 3). -/
def execWingbeatTick (inp : TickIn) (s : State) : Res :=
  checked (Sys2Proof.Instr.wf (.wingbeatTick inp)) (onDevIf (fun d => d.chip.phase != .modReset) (Dev.wingbeat inp) s)

end Sys2Proof.Machine
end

