-- ==== Sys2Proof/Machine/Time.lean ====
section
/-! DEFINITION. The ticks of the longer classes with what the device does once per control frame, per
perception frame and per epoch, and IEEE 802.1AS (R37, R42 to R44, R154, R155, R171, R177, R199). -/

namespace Sys2Proof.Machine

/-- Whether the tick of a class falls now and has not been given yet (R37). DEDUCED (log 19). -/
def Dev.tickDue (d : Dev) (c : Nat) : Bool :=
  d.chip.phase != .modReset && decide (d.time.now % wingbeatNs = 0) && decide (d.wb % d.classLen c = 0) &&
    !d.time.ticked.contains c
/-- The tick of a class is given. -/
def Dev.tick (d : Dev) (c : Nat) : Dev := { d with time := { d.time with ticked := d.time.ticked ++ [c] } }

/-! ## The status mirror (R154, R155) -/

/-- State of a partition in its mirror entry. DEDUCED (log 93). -/
def Part.code (p : Part) : Nat := if p.declared = false then 0 else if p.shed then 4 else if p.static then 1 else p.off

/-- Mirror entry of a partition. DEDUCED (log 93). -/
def Dev.mirrorPart (d : Dev) (p : Nat) : List Byte :=
  let x := d.part p
  let n := (d.ops.filter fun e => e.2.used && e.2.part == p).length
  toLE 1 x.code ++ toLE 1 x.fraction ++ toLE 2 (min 0xFFFF n) ++ toLE 4 (tget (fun _ => 0) d.qm.frameOps p) ++
    toLE 4 (tget (fun _ => 0) d.qm.frameBad p) ++ toLE 4 0

/-- FLAGS of the mirror. -/
def Dev.mirrorFlags (d : Dev) : Nat :=
  let st := d.fld R.tkSyncStatus 0 3
  b2n d.chip.primaryEn + 2 * b2n d.chip.safeActive + 4 * b2n d.fus.instar + 8 * b2n d.chip.lock +
    16 * b2n (st == 0 || st == 2)

/-- Words of an island's half of the CH_ area. -/
def areaBytes (s : Island) : List Byte := (List.range 24).flatMap fun k => toLE 4 (s.areaWord k)

/-- The mirror after SEQ: VERSION at offset 4 to the end at 20 KiB. DEDUCED (log 93). -/
def Dev.mirrorBody (d : Dev) : List Byte :=
  toLE 2 1 ++ toLE 2 d.mirrorFlags ++ toLE 8 d.time.now ++ toLE 4 d.ctrlFrame ++ toLE 4 d.log.total ++
    ([0, 1, 2, 3].flatMap fun t => toLE 2 (d.trkUsed t)) ++ toLE 32 0 ++ areaBytes d.chA ++ areaBytes d.chB ++ (List.range 64).flatMap d.mirrorPart ++
    ((List.range 4096).flatMap fun c => toLE 4 (d.ctx c).tail) ++ toLE 2816 0

/-- STATUS_MIRROR_WRITE: SEQ odd, the body, SEQ even; or the frame's mirror is skipped. -/
def Dev.mirrorWrite (d : Dev) : Dev :=
  if d.fld R.qmMirrorCtl 0 1 = 0 then d
  else if d.hostReady = false then (d.bump R.qmMirrorSkip).evHub 5 0xA020 [d.ctrlFrame]
  else
    let a := d.reg R.qmMirrorLo + d.reg R.qmMirrorHi * 4294967296
    let q := d.qm.mirrorSeq
    let d := (d.hostWrite a (toLE 4 (q + 1))).hostWrite (a + 4) d.mirrorBody
    let d := d.hostWrite a (toLE 4 (q + 2))
    { d with qm := { d.qm with mirrorSeq := (q + 2) % 4294967296 } }

/-! ## CONTROL_FRAME_TICK -/

/-- A guarantee missed in the control frame just ended (R177). -/
def Dev.guarMiss (d : Dev) (k : Nat) : Dev :=
  let x := tget (fun _ => (0, true)) d.dram.traffic k
  if d.guar k ≠ 0 ∧ x.2 = true ∧ x.1 < d.guar k * d.lc then
    (d.bump (R.mcGuarMiss (k / 16))).evHub 5 0x20A0 [k / 16, k % 16, x.1, d.ctrlFrame - 1] 0x73
  else d

/-- The check of every port and class; the next frame's counts start afresh. -/
def Dev.guarantees (d : Dev) : Dev :=
  let d := (List.range 128).foldl Dev.guarMiss d
  { d with dram := { d.dram with traffic := [] } }

/-- The repeat of a detached session's partition resumes (R305). -/
def Dev.resumeRepeat (d : Dev) (p : Nat) : Dev :=
  let x := d.part p
  if x.resume then
    let d := d.modPart p fun x => { x with debug := false, resume := false }
    let bs := (d.blocks.filter fun e => e.2.part == some p).map (·.1)
    let d := bs.foldl (fun (d : Dev) b => d.modBlk b fun k => { k with selCnt := 0 }) d
    d.event 0 0x7011 4 0xFF [p, d.ctrlFrame] p
  else d

/-- Whether every logical block with a static assignment is on a block in service. -/
def Dev.staticPlaced (d : Dev) : Bool :=
  (List.range 4).all fun t => (List.range 32).all fun l =>
    (d.blk (d.phys t l)).svc == .inService || !d.carriesStatic t l

/-- VOTE_EVALUATION at the tick: an enable needs the phases of R406 and every static assignment placed.
DEDUCED (log 60). -/
def Dev.voteTick (d : Dev) : Dev := if d.phasesOk && d.staticPlaced then d.enableVote else d.revote

/-- The schedule's part of a control-frame tick. -/
def Dev.frameLive (d : Dev) : Dev :=
  if d.live = false then d
  else
    let d := (d.wakeClass 2).reduceTick
    ((List.range 64).foldl Dev.resumeRepeat d).openSet d.ctrlFrame |>.tickEyes

/-- The hub's part, outside a compute-domain reset. -/
def Dev.frameHub (d : Dev) : Dev :=
  if d.chip.computeReset then d
  else
    let d := d.frameLive.guarantees.mirrorWrite
    { d with qm := { d.qm with frameOps := [], frameBad := [] } }

/-- What happens at a control-frame tick: the islands copy their status and vote first, so that the mirror
shows what the tick leaves. DEDUCED (log 19). -/
def Dev.controlFrame (d : Dev) : Dev := (((d.tick 2).voteTick).mirrorIslands).frameHub

/-- CONTROL_FRAME_TICK. -/
def execControlFrameTick (s : State) : Res := onDevIf (fun d => d.tickDue 2) Dev.controlFrame s

/-! ## PERCEPTION_FRAME_TICK and AUDIO_BLOCK_TICK -/

/-- What happens at a perception-frame tick: instar begins at the first one after the schedule is enabled. -/
def Dev.perceptionFrame (d : Dev) : Dev :=
  let d := d.tick 3
  if d.live = false then d
  else
    let d := d.wakeClass 3
    if d.fus.began then d else d.instarBegin

/-- PERCEPTION_FRAME_TICK. -/
def execPerceptionFrameTick (s : State) : Res := onDevIf (fun d => d.tickDue 3) Dev.perceptionFrame s

/-- AUDIO_BLOCK_TICK: threads that wait for the class wake; AUDIO_BLOCK_CLOSE closes the block. -/
def execAudioBlockTick (s : State) : Res :=
  onDevIf (fun d => d.tickDue 1) (fun d => doIf Dev.live (fun d => d.wakeClass 1) (d.tick 1)) s

/-! ## EPOCH_TICK -/

/-- A customer's accounting entry (R170). DEDUCED (log 93). -/
def Acct.bytes (a : Acct) (epoch : Nat) : List Byte :=
  toLE 8 a.waitSum ++ toLE 4 a.done ++ toLE 4 a.preempts ++ toLE 4 a.savedWb ++ toLE 2 a.waitMax ++ toLE 2 0 ++
    toLE 4 a.budgetEx ++ toLE 4 epoch

/-- ACCOUNTING_WRITE: each entry's bytes 0 to 27, then 28 to 31; or the write is skipped. -/
def Dev.acctWrite (d : Dev) : Dev :=
  if d.qm.acctOn = false then d
  else if d.hostReady = false then d.evHub 5 0xA043 [d.epoch] 0x73
  else
    let a := d.reg R.qmAcctLo + d.reg R.qmAcctHi * 4294967296
    let d := (List.range 1024).foldl (fun (d : Dev) c =>
      let bs := (tget (fun _ => {}) d.qm.acct c).bytes d.epoch
      (d.hostWrite (a + 32 * c) (bs.take 28)).hostWrite (a + 32 * c + 28) (bs.drop 28)) d
    { d with qm := { d.qm with acct := (d.qm.acct.map fun e => (e.1, { e.2 with waitMax := 0 })).filter fun e =>
      e.2 != ({} : Acct) } }

/-- BUDGET_REFILL (R199): a change of FAIR takes effect with deficits and balances afresh. -/
def Dev.refill (d : Dev) : Dev :=
  let fair := d.fld R.qmSrvCtl 0 1
  let same : Bool := fair == d.srv.fairAct
  let bal := if fair = 0 then d.srv.balance else
    (List.range 1024).filterMap fun c =>
      let v : Int := (if same then min (d.balance c) 0 else 0) + (d.reg (R.qmBudget c) : Int)
      if v = 0 then none else some (c, v)
  let qm := if same then d.qm else { d.qm with deficits := [], scanQ := none, scanned := false, scanC := 1023 }
  { d with qm := qm, srv := { d.srv with fairAct := fair, balance := bal, zeroEp := [] } }

/-- Requests of held customers count the tick; the eighth in a row ends one as BUDGET_EXHAUSTED. -/
def Dev.holdTick (d : Dev) : Dev :=
  (d.srv.insts.flatMap fun e => e.2.waiting ++ e.2.admitted).foldl (fun (d : Dev) k =>
    let n := if d.heldCust (d.req k).customer then (d.req k).heldTicks + 1 else 0
    let d := d.modReq k fun r => { r with heldTicks := n }
    if 8 ≤ n then d.finish k stBudget else d) d

/-- Tiles that stalled in the epoch (R146): event 0xA030. -/
def Dev.stallEpoch (d : Dev) : Dev :=
  (List.range 4).foldl (fun (d : Dev) t =>
    let n := (d.tile t).stallEp
    let d := d.modTile t fun x => { x with stallEp := 0, resets := 0 }
    if n = 0 then d else d.event 0 0xA030 t 0xFF [n, d.fld (R.qmTrkUsed t) 16 13]) d

/-- Counts per epoch start afresh. -/
def Dev.epochCounts (d : Dev) : Dev :=
  { d with
    blocks := d.blocks.map fun e => (e.1, { e.2 with rowCe := [] })
    dram := { d.dram with chans := d.dram.chans.map fun e => (e.1, { e.2 with rowCe := [] }) }
    host := { d.host with caEp := 0 }
    sec := { d.sec with reports := 0 } }

/-- Enabled sensor ports whose link is up (R42). -/
def Dev.gptpPorts (d : Dev) : List Nat := [1, 2, 3, 4].filter fun p => bit (d.reg R.tkGptpCfg) (3 + p) && d.links.up.contains p
/-- Master ports: the enabled sensor ports but the slave port. -/
def Dev.masterPorts (d : Dev) : List Nat := d.gptpPorts.filter fun p => d.slavePort != some p

/-- Once a second a peer delay request leaves every enabled sensor port, and Announce every master port: with
timeSource 0xA0 as grandmaster, and as follower with that of the grandmaster, which the model leaves free (R42).
DEDUCED (log 18). -/
def Dev.gptpEpoch (d : Dev) : Dev :=
  let d := d.gptpPorts.foldl (fun (d : Dev) p => d.emit (.pdelayReq p 0)) d
  let (x, d) := if d.slavePort.isNone then (0xA0, d) else
    let (v, d) := d.fresh
    (v % 256, d)
  d.masterPorts.foldl (fun (d : Dev) p => d.emit (.announce p 0 x)) d

/-- A powered epoch: 3,600 of them are a powered hour, which the module store keeps. -/
def Dev.hourTick (d : Dev) : Dev :=
  let c := d.chip
  if c.hourEp + 1 < 3600 then { d with chip := { c with hourEp := c.hourEp + 1 } }
  else { d with chip := { c with hourEp := 0, hours := min 0xFFFFFFFF (c.hours + 1) } }

/-- A follower in Mismatch writes event 0x3041 every epoch (R44). -/
def Dev.mismatchTick (d : Dev) : Dev :=
  if d.fld R.tkSyncStatus 0 3 = 4 then d.evFloor 5 0x3041 [unsigned 64 d.time.lastOff] else d

/-- What happens at an epoch tick. DEDUCED (log 19, 45). -/
def Dev.epochTick (lanes : List LaneSample) (d : Dev) : Dev :=
  let d := (((d.tick 4).hourTick).mismatchTick).gptpEpoch
  let d := doIf Dev.live (fun d => d.wakeClass 4) d
  let d := if d.chip.computeReset then d else (d.acctWrite.refill).holdTick
  let d := d.stallEpoch.powerEpoch
  let d := (d.thermalEpoch .a).thermalEpoch .b
  let d := (d.life .a).life .b
  (d.telemetry lanes).linksEpoch.epochCounts

/-- EPOCH_TICK. -/
def execEpochTick (lanes : List LaneSample) (s : State) : Res :=
  onNv (fun d n =>
    if d.tickDue 4 then
      let d := Dev.epochTick lanes d
      (d, if d.chip.hours = n.store.hours then n
        else { n with store := { n.store with hoursRec := n.store.hoursRec.write d.time.now d.chip.hours } })
    else (d, n)) s

/-! ## IEEE 802.1AS (R42 to R44) -/

/-- 2^31 − 1 either way. -/
def satOff (x : Int) : Int := max (-2147483647) (min 2147483647 x)
/-- The correction stays within ±200 ppm (R39). -/
def satFreq (x : Int) : Int := max (-200000) (min 200000 x)

/-- T is set to the grandmaster's time once, in Acquiring; the lattice goes on from there. DEDUCED (log 18). -/
def Dev.acquire (d : Dev) (gm : Nat) : Dev :=
  let off : Int := (gm : Int) - d.time.now
  let d := { d with
    time := { d.time with now := gm, ticked := [], stepped := d.time.stepped + off }
    chip := { d.chip with t0 := d.chip.t0 + off } }
  let w := d.wb
  let go (s : Island) : Island := { s with ownW := w }
  { d with chA := go d.chA, chB := go d.chB }

/-- Enter Locked: event 0x3042 with the offset at entry. -/
def Dev.enterLocked (d : Dev) (off : Int) : Dev :=
  (d.setFld R.tkSyncStatus 0 3 2).evFloor 0 0x3042 [unsigned 64 off]

/-- A Sync whose offset is within 1 ms, in Locked or Holdover: the discipline loop corrects the rate. -/
def Dev.discipline (d : Dev) (off : Int) : Dev :=
  let d := if d.fld R.tkSyncStatus 0 3 = 3 then d.enterLocked off else d
  d.setReg R.tkFreqAdj (unsigned 32 (satFreq (Config.freqLoop off d.time.lastOff)))

/-- End of the wait for Sync: SYNC_WAIT after the ports are trained in Acquiring (R430 step 8), three sync
intervals in Locked. DEDUCED (log 18). -/
def Dev.syncEnd (d : Dev) : Option Int :=
  match d.fld R.tkSyncStatus 0 3 with
  | 1 => some (d.chip.t0 + 1521000000 + (d.fld R.tkGptpCfg 12 8 * 100000000 : Nat))
  | 2 => some (d.time.lastSync + 3 * (1000000000 / 2 ^ d.fld R.tkGptpCfg 8 4) : Nat)
  | _ => none
/-- The wait for Sync has reached its end. -/
def Dev.syncLate (d : Dev) : Bool := d.syncEnd.any fun x => decide (x ≤ (d.time.now : Int))
/-- The wait for Sync is past its end: a Sync that comes now finds the follower in Holdover (R44). DEDUCED (log 18). -/
def Dev.syncOver (d : Dev) : Bool := d.syncEnd.any fun x => decide (x < (d.time.now : Int))

/-- A Sync at the slave port: the grandmaster's time at its receipt. DEDUCED (log 18). -/
def Dev.syncIn (gm : Nat) (d : Dev) : Dev :=
  let d := if d.syncOver then d.holdover else d
  let off : Int := (gm : Int) - d.time.now
  let st := d.fld R.tkSyncStatus 0 3
  let d := d.setReg R.tkOffset (unsigned 32 (satOff off))
  let d :=
    if st = 1 then (d.acquire gm).enterLocked off
    else if st = 4 then d
    else if 1000000 < off ∨ off < -1000000 then
      (d.setFld R.tkSyncStatus 0 3 4).setReg R.tkFreqAdj 0 |>.evFloor 5 0x3041 [unsigned 64 off]
    else d.discipline off
  { d with time := { d.time with lastOff := off, lastSync := d.time.now } }

/-- SYNC_RECEIVED: with the slave port up. -/
def execSyncReceived (gm : DWord) (s : State) : Res :=
  onDevIf (fun d => d.chip.phase != .modReset && (match d.slavePort with
      | some p => d.links.up.contains p && bit (d.reg R.tkGptpCfg) (3 + p)
      | none => false))
    (Dev.syncIn gm.toNat) s

/-- SYNC_TIMEOUT. -/
def execSyncTimeout (s : State) : Res :=
  onDevIf (fun d => d.chip.phase != .modReset && d.syncLate) Dev.holdover s

/-- SYNC_TRANSMIT: Sync and Follow_Up on every master port. DEDUCED (log 18). -/
def execSyncTransmit (s : State) : Res :=
  onDevIf (fun d => d.chip.phase != .modReset)
    (fun d => d.masterPorts.foldl (fun (d : Dev) p => d.emit (.sync p 0 d.time.now)) d) s

end Sys2Proof.Machine
end

