-- ==== Sys2Proof/Machine/Dispatch.lean ====
section
/-! DEFINITION. One arm for each command: a direct call of its meaning. -/

namespace Sys2Proof.Machine

/-- DESIGN CHOICE (log 9). -/
def exec (i : Instr) (s : State) : Host.Outcome State Fault Refusal :=
  match i with
  | .modResetAssert => Sys2Proof.Machine.execModResetAssert s
  | .coldStart failedChannels => Sys2Proof.Machine.execColdStart failedChannels s
  | .configurationLockSet => Sys2Proof.Machine.execConfigurationLockSet s
  | .startUpInjection fails => Sys2Proof.Machine.execStartUpInjection fails s
  | .injectionComplete => Sys2Proof.Machine.execInjectionComplete s
  | .islandReset isl => Sys2Proof.Machine.execIslandReset isl s
  | .islandFirmwareLoad isl => Sys2Proof.Machine.execIslandFirmwareLoad isl s
  | .islandRailLow isl => Sys2Proof.Machine.execIslandRailLow isl s
  | .railFault rail mv => Sys2Proof.Machine.execRailFault rail mv s
  | .phaseFault phase cause => Sys2Proof.Machine.execPhaseFault phase cause s
  | .analogTrip pair => Sys2Proof.Machine.execAnalogTrip pair s
  | .tripRelease => Sys2Proof.Machine.execTripRelease s
  | .wingbeatTick inp => Sys2Proof.Machine.execWingbeatTick inp s
  | .tickMissing unit cycles => Sys2Proof.Machine.execTickMissing unit cycles s
  | .controlFrameTick => Sys2Proof.Machine.execControlFrameTick s
  | .perceptionFrameTick => Sys2Proof.Machine.execPerceptionFrameTick s
  | .audioBlockTick => Sys2Proof.Machine.execAudioBlockTick s
  | .epochTick lanes => Sys2Proof.Machine.execEpochTick lanes s
  | .triggerMessageDrop stream => Sys2Proof.Machine.execTriggerMessageDrop stream s
  | .syncReceived gm => Sys2Proof.Machine.execSyncReceived gm s
  | .syncTimeout => Sys2Proof.Machine.execSyncTimeout s
  | .deadlineAbandon token => Sys2Proof.Machine.execDeadlineAbandon token s
  | .engineOpStart b latch ecc => Sys2Proof.Machine.execEngineOpStart b latch ecc s
  | .residueMismatch b cell syndrome => Sys2Proof.Machine.execResidueMismatch b cell syndrome s
  | .residueRetryCheck b cell r => Sys2Proof.Machine.execResidueRetryCheck b cell r s
  | .checkerInjectionDone b cell missed => Sys2Proof.Machine.execCheckerInjectionDone b cell missed s
  | .engineOpComplete b => Sys2Proof.Machine.execEngineOpComplete b s
  | .ppuOpComplete token lockstep => Sys2Proof.Machine.execPpuOpComplete token lockstep s
  | .dynDisable b v => Sys2Proof.Machine.execDynDisable b v s
  | .dynMode b v => Sys2Proof.Machine.execDynMode b v s
  | .engineDrainLimit b => Sys2Proof.Machine.execEngineDrainLimit b s
  | .gwElaunch t rd rs1 => Sys2Proof.Machine.execGwElaunch t rd rs1 s
  | .gwCreditAcq t rd rs1 rs2 => Sys2Proof.Machine.execGwCreditAcq t rd rs1 rs2 s
  | .gwCreditPub t rs1 => Sys2Proof.Machine.execGwCreditPub t rs1 s
  | .gwCreditTake t rd rs1 rs2 => Sys2Proof.Machine.execGwCreditTake t rd rs1 rs2 s
  | .gwCreditRel t rs1 rs2 => Sys2Proof.Machine.execGwCreditRel t rs1 rs2 s
  | .gwRfence t rs1 rs2 => Sys2Proof.Machine.execGwRfence t rs1 rs2 s
  | .gwTwaitTag t rd rs1 rs2 => Sys2Proof.Machine.execGwTwaitTag t rd rs1 rs2 s
  | .gwTwaitClass t rd rs1 rs2 => Sys2Proof.Machine.execGwTwaitClass t rd rs1 rs2 s
  | .twaitLimitExpiry t => Sys2Proof.Machine.execTwaitLimitExpiry t s
  | .gwPtest t rd rs1 => Sys2Proof.Machine.execGwPtest t rd rs1 s
  | .threadLoad t rd rs1 imm width sext kind ecc => Sys2Proof.Machine.execThreadLoad t rd rs1 imm width sext kind ecc s
  | .threadStore t rs1 rs2 imm width kind rd ecc => Sys2Proof.Machine.execThreadStore t rs1 rs2 imm width kind rd ecc s
  | .taskException t cause => Sys2Proof.Machine.execTaskException t cause s
  | .coreArrayParity t array => Sys2Proof.Machine.execCoreArrayParity t array s
  | .scrubPassComplete b ecc => Sys2Proof.Machine.execScrubPassComplete b ecc s
  | .rowRepair b sp bank row => Sys2Proof.Machine.execRowRepair b sp bank row s
  | .queueEnable mode => Sys2Proof.Machine.execQueueEnable mode s
  | .queueDisable mode => Sys2Proof.Machine.execQueueDisable mode s
  | .qmDoorbell v wide => Sys2Proof.Machine.execQmDoorbell v wide s
  | .qmCqDoorbell v wide => Sys2Proof.Machine.execQmCqDoorbell v wide s
  | .contextLoad => Sys2Proof.Machine.execContextLoad s
  | .contextDisable => Sys2Proof.Machine.execContextDisable s
  | .partitionDisable p mode => Sys2Proof.Machine.execPartitionDisable p mode s
  | .partitionEnable p mode => Sys2Proof.Machine.execPartitionEnable p mode s
  | .drainLimit o => Sys2Proof.Machine.execDrainLimit o s
  | .descriptorPull => Sys2Proof.Machine.execDescriptorPull s
  | .operationDispatch => Sys2Proof.Machine.execOperationDispatch s
  | .taskComplete token => Sys2Proof.Machine.execTaskComplete token s
  | .fenceComplete token => Sys2Proof.Machine.execFenceComplete token s
  | .qmMirrorCtl en => Sys2Proof.Machine.execQmMirrorCtl en s
  | .qmAcctCtl en => Sys2Proof.Machine.execQmAcctCtl en s
  | .preemptionStart b => Sys2Proof.Machine.execPreemptionStart b s
  | .grantCancelAtPreemption b => Sys2Proof.Machine.execGrantCancelAtPreemption b s
  | .saveComplete b => Sys2Proof.Machine.execSaveComplete b s
  | .savedSetResume t => Sys2Proof.Machine.execSavedSetResume t s
  | .instanceLoad mode => Sys2Proof.Machine.execInstanceLoad mode s
  | .instanceUnload mode => Sys2Proof.Machine.execInstanceUnload mode s
  | .prefixLookupDone token => Sys2Proof.Machine.execPrefixLookupDone token s
  | .stepBoundary isl => Sys2Proof.Machine.execStepBoundary isl s
  | .qmSrvCtlFair v => Sys2Proof.Machine.execQmSrvCtlFair v s
  | .qmBudget c v => Sys2Proof.Machine.execQmBudget c v s
  | .avtpduReceived p => Sys2Proof.Machine.execAvtpduReceived p s
  | .lidarDeskewDone stream => Sys2Proof.Machine.execLidarDeskewDone stream s
  | .updateSeal => Sys2Proof.Machine.execUpdateSeal s
  | .releaseDeadline => Sys2Proof.Machine.execReleaseDeadline s
  | .outputCommit kind => Sys2Proof.Machine.execOutputCommit kind s
  | .audioBlockClose => Sys2Proof.Machine.execAudioBlockClose s
  | .mapCommit => Sys2Proof.Machine.execMapCommit s
  | .setCommit => Sys2Proof.Machine.execSetCommit s
  | .candidateCheckDone => Sys2Proof.Machine.execCandidateCheckDone s
  | .selectionInstant => Sys2Proof.Machine.execSelectionInstant s
  | .gateCutoff => Sys2Proof.Machine.execGateCutoff s
  | .primaryRelease => Sys2Proof.Machine.execPrimaryRelease s
  | .transmitConfirmation port => Sys2Proof.Machine.execTransmitConfirmation port s
  | .repeatCompare b differ uncorrectable => Sys2Proof.Machine.execRepeatCompare b differ uncorrectable s
  | .arbitrationWaitExpiry b => Sys2Proof.Machine.execArbitrationWaitExpiry b s
  | .copyInDone t => Sys2Proof.Machine.execCopyInDone t s
  | .arbitrationOutcome b v poisoned => Sys2Proof.Machine.execArbitrationOutcome b v poisoned s
  | .copyBackDone t => Sys2Proof.Machine.execCopyBackDone t s
  | .strikeExpiry b => Sys2Proof.Machine.execStrikeExpiry b s
  | .moultDecision b => Sys2Proof.Machine.execMoultDecision b s
  | .moultRemap b => Sys2Proof.Machine.execMoultRemap b s
  | .moultEffect b => Sys2Proof.Machine.execMoultEffect b s
  | .donorEmptied b => Sys2Proof.Machine.execDonorEmptied b s
  | .repairRecordWrite => Sys2Proof.Machine.execRepairRecordWrite s
  | .debugSessionDetach => Sys2Proof.Machine.execDebugSessionDetach s
  | .heartbeatSend isl => Sys2Proof.Machine.execHeartbeatSend isl s
  | .heartbeatReceive isl h => Sys2Proof.Machine.execHeartbeatReceive isl h s
  | .peerLost isl => Sys2Proof.Machine.execPeerLost isl s
  | .frameEvaluation isl reportOk feedOk => Sys2Proof.Machine.execFrameEvaluation isl reportOk feedOk s
  | .cocoonMessageSend isl => Sys2Proof.Machine.execCocoonMessageSend isl s
  | .statusMessageSend isl => Sys2Proof.Machine.execStatusMessageSend isl s
  | .safeStateCommit isl => Sys2Proof.Machine.execSafeStateCommit isl s
  | .safeStateRequestReceived isl => Sys2Proof.Machine.execSafeStateRequestReceived isl s
  | .computeResetAssert => Sys2Proof.Machine.execComputeResetAssert s
  | .recoveryStart failedChannels => Sys2Proof.Machine.execRecoveryStart failedChannels s
  | .recoveryStepTimeout step ms => Sys2Proof.Machine.execRecoveryStepTimeout step ms s
  | .selftestPassEnd b good pattern => Sys2Proof.Machine.execSelftestPassEnd b good pattern s
  | .selftestOverdue b => Sys2Proof.Machine.execSelftestOverdue b s
  | .sensorMarkFailed pair => Sys2Proof.Machine.execSensorMarkFailed pair s
  | .lifeRecordSend isl => Sys2Proof.Machine.execLifeRecordSend isl s
  | .lifeReport isl => Sys2Proof.Machine.execLifeReport isl s
  | .hangDetected h => Sys2Proof.Machine.execHangDetected h s
  | .regionResume t => Sys2Proof.Machine.execRegionResume t s
  | .replayHang b => Sys2Proof.Machine.execReplayHang b s
  | .suspectReplayComplete t => Sys2Proof.Machine.execSuspectReplayComplete t s
  | .unitHangDetected region unit => Sys2Proof.Machine.execUnitHangDetected region unit s
  | .regionResetFail t reason => Sys2Proof.Machine.execRegionResetFail t reason s
  | .unexplainedHangExpiry b => Sys2Proof.Machine.execUnexplainedHangExpiry b s
  | .dramRead a => Sys2Proof.Machine.execDramRead a s
  | .dramWrite a d => Sys2Proof.Machine.execDramWrite a d s
  | .dramRefresh k sub demand => Sys2Proof.Machine.execDramRefresh k sub demand s
  | .timingRecentre k => Sys2Proof.Machine.execTimingRecentre k s
  | .patrolScrubPass corrected poisoned => Sys2Proof.Machine.execPatrolScrubPass corrected poisoned s
  | .spareRankScrub r ok => Sys2Proof.Machine.execSpareRankScrub r ok s
  | .commandParityAlert k entry => Sys2Proof.Machine.execCommandParityAlert k entry s
  | .channelRetrainDone k ok => Sys2Proof.Machine.execChannelRetrainDone k ok s
  | .rankSparingDecision => Sys2Proof.Machine.execRankSparingDecision s
  | .spareRankTrained ok => Sys2Proof.Machine.execSpareRankTrained ok s
  | .pageCopyDone unreadable readBack spareBad => Sys2Proof.Machine.execPageCopyDone unreadable readBack spareBad s
  | .migrationCommit => Sys2Proof.Machine.execMigrationCommit s
  | .flitReceive l head ack credits slots crc => Sys2Proof.Machine.execFlitReceive l head ack credits slots crc s
  | .flitReplay l seq => Sys2Proof.Machine.execFlitReplay l seq s
  | .linkRetrain k => Sys2Proof.Machine.execLinkRetrain k s
  | .laneRepairStart k lane => Sys2Proof.Machine.execLaneRepairStart k lane s
  | .laneRepairDone k ok => Sys2Proof.Machine.execLaneRepairDone k ok s
  | .laneFlap lane laserFault => Sys2Proof.Machine.execLaneFlap lane laserFault s
  | .portRetrainDone port => Sys2Proof.Machine.execPortRetrainDone port s
  | .hostLinkLight unlocked => Sys2Proof.Machine.execHostLinkLight unlocked s
  | .hostLaneLockTimeout lane => Sys2Proof.Machine.execHostLaneLockTimeout lane s
  | .hotReset => Sys2Proof.Machine.execHotReset s
  | .linkDisable => Sys2Proof.Machine.execLinkDisable s
  | .bmeClear => Sys2Proof.Machine.execBmeClear s
  | .configRequest write off v => Sys2Proof.Machine.execConfigRequest write off v s
  | .rcRegisterRead off wide => Sys2Proof.Machine.execRcRegisterRead off wide s
  | .tkTimeLoRead => Sys2Proof.Machine.execTkTimeLoRead s
  | .registerWrite off v be wide init => Sys2Proof.Machine.execRegisterWrite off v be wide init s
  | .bar0BadRequest off len => Sys2Proof.Machine.execBar0BadRequest off len s
  | .bar2Read off len => Sys2Proof.Machine.execBar2Read off len s
  | .bar2Write off data ep => Sys2Proof.Machine.execBar2Write off data ep s
  | .hpBar2Win v => Sys2Proof.Machine.execHpBar2Win v s
  | .hpEvlogCfg v => Sys2Proof.Machine.execHpEvlogCfg v s
  | .hpEvlogHead v => Sys2Proof.Machine.execHpEvlogHead v s
  | .eventRecordWrite code cls region block part ctx detail => Sys2Proof.Machine.execEventRecordWrite code cls region block part ctx detail s
  | .eventRecordDeliver => Sys2Proof.Machine.execEventRecordDeliver s
  | .mgmtIdentify seq => Sys2Proof.Machine.execMgmtIdentify seq s
  | .mgmtChallenge seq => Sys2Proof.Machine.execMgmtChallenge seq s
  | .mgmtStage seq off data => Sys2Proof.Machine.execMgmtStage seq off data s
  | .mgmtCommit seq lu img => Sys2Proof.Machine.execMgmtCommit seq lu img s
  | .mgmtProvision seq tok => Sys2Proof.Machine.execMgmtProvision seq tok s
  | .mgmtReprovision seq tok => Sys2Proof.Machine.execMgmtReprovision seq tok s
  | .mgmtUnlock seq tok => Sys2Proof.Machine.execMgmtUnlock seq tok s
  | .mgmtTestPkg seq h version => Sys2Proof.Machine.execMgmtTestPkg seq h version s
  | .mgmtEnterLoader seq tok => Sys2Proof.Machine.execMgmtEnterLoader seq tok s
  | .mgmtRestart seq failedChannels => Sys2Proof.Machine.execMgmtRestart seq failedChannels s
  | .attestationRequest token => Sys2Proof.Machine.execAttestationRequest token s
  | .lowerTreeGenerate => Sys2Proof.Machine.execLowerTreeGenerate s
  | .portLinkDown port => Sys2Proof.Machine.execPortLinkDown port s
  | .portLinkUp port width => Sys2Proof.Machine.execPortLinkUp port width s
  | .linkRetrainDone k ok => Sys2Proof.Machine.execLinkRetrainDone k ok s
  | .cocoonRequestReceived isl frame => Sys2Proof.Machine.execCocoonRequestReceived isl frame s
  | .cocoonCopyReceived isl frame gen crcOk data => Sys2Proof.Machine.execCocoonCopyReceived isl frame gen crcOk data s
  | .timeOfValidity => Sys2Proof.Machine.execTimeOfValidity s
  | .abandonmentTimeout b => Sys2Proof.Machine.execAbandonmentTimeout b s
  | .syncTransmit => Sys2Proof.Machine.execSyncTransmit s
  | .attestationIndicesNearlyExhausted => Sys2Proof.Machine.execAttestationIndicesNearlyExhausted s

end Sys2Proof.Machine
end

