-- ==== Sys2Proof/Machine/Idle.lean ====
section
/-! DEFINITION. What the block does while no command waits. -/

namespace Sys2Proof.Machine

/-- Idling: T advances by 1 ns (R43) unless that reaches a wingbeat boundary, which WINGBEAT_TICK
brings, or passes the 64 bits of T (R36); while MOD_RESET_N is asserted T is held (R29). DESIGN CHOICE (log 3). -/
def idle (s : State) : Res :=
  onDevIf (fun d => d.chip.phase ≠ .modReset ∧ (d.time.now + 1) % wingbeatNs ≠ 0 ∧ d.time.now + 1 < 2 ^ 64)
    (fun d => { d with time := { d.time with now := d.time.now + 1 } }) s

end Sys2Proof.Machine
end

