-- ==== Sys2Proof/Safety.lean ====
section
/-! DEFINITION. The terms in which claims about the module are stated: a command that completes with a
result, and which parts of the state it may change. -/

namespace Sys2Proof

open Machine

/-- The parts of the device state (the fields of `Machine.Dev`). -/
inductive DevField
  | time | chip | regs | mem | poison | enc | blocks | tiles | ops | qm | ctxs | parts | srv | fus | pl
  | chA | chB | dram | links | pwr | sec | host | log | retire | out | free
  deriving DecidableEq, Repr

/-- Two devices agree on a part. -/
def DevField.same (a b : Dev) : DevField → Prop
  | time => b.time = a.time
  | chip => b.chip = a.chip
  | regs => b.regs = a.regs
  | mem => b.mem = a.mem
  | poison => b.poison = a.poison
  | enc => b.enc = a.enc
  | blocks => b.blocks = a.blocks
  | tiles => b.tiles = a.tiles
  | ops => b.ops = a.ops
  | qm => b.qm = a.qm
  | ctxs => b.ctxs = a.ctxs
  | parts => b.parts = a.parts
  | srv => b.srv = a.srv
  | fus => b.fus = a.fus
  | pl => b.pl = a.pl
  | chA => b.chA = a.chA
  | chB => b.chB = a.chB
  | dram => b.dram = a.dram
  | links => b.links = a.links
  | pwr => b.pwr = a.pwr
  | sec => b.sec = a.sec
  | host => b.host = a.host
  | log => b.log = a.log
  | retire => b.retire = a.retire
  | out => b.out = a.out
  | free => b.free = a.free

/-- A device changes in the listed parts alone. -/
structure Kept (parts : List DevField) (a b : Dev) : Prop where
  same : ∀ f, f ∉ parts → f.same a b

/-- A step changes the listed parts of the device alone: not what survives power, not the queue. -/
def Only (parts : List DevField) (s t : State) : Prop := Kept parts s.dev t.dev ∧ t.nv = s.nv ∧ t.pending = s.pending

/-- The command completes, in a state with the property. -/
def Runs (c : Instr) (s : State) (P : State → Prop) : Prop := ∃ t, exec c s = .next t ∧ P t

/-- The device has written one event record as its newest (R10), or, with the retention buffer of 4,096
records full, discarded and counted it (R457). -/
def Wrote (a b : Dev) (r : EventRecord) : Prop :=
  b.log.total = a.log.total + 1 ∧
    (a.log.buf.length < 4096 → b.log.buf = a.log.buf ++ [r] ∧ b.log.lost = a.log.lost) ∧
    (4096 ≤ a.log.buf.length → b.log.buf = a.log.buf ∧ b.log.lost = a.log.lost + 1)

/-- The device has written no event record. -/
def Quiet (a b : Dev) : Prop := b.log = a.log

/-- The event record of a physical block as a device would write it now (R10, R11). -/
def blkRec (d : Dev) (cls code b : Nat) (detail : List Nat) (part : Nat := 0xFF) (ctx : Nat := 0xFFFF) :
    EventRecord := ⟨d.time.now, b / 36, b % 36, cls, code, part, ctx, detail⟩

/-- The event record of a region's unit as a device would write it now (R10, R11). -/
def regRec (d : Dev) (cls code region block : Nat) (detail : List Nat) (part : Nat := 0xFF)
    (ctx : Nat := 0xFFFF) : EventRecord := ⟨d.time.now, region, block, cls, code, part, ctx, detail⟩

/-- The event record of an island as it would write it now (R10, R11). -/
def islRec (d : Dev) (i : Isl) (cls code : Nat) (detail : List Nat) : EventRecord :=
  regRec d cls code (islRegion i) 0xFF detail

/-- The event record of a link module as it would be written now (R403). -/
def linkRec (d : Dev) (cls code k : Nat) (detail : List Nat) : EventRecord :=
  if linkMod k < 16 then regRec d cls code (linkMod k / 4) (0xE0 + linkMod k % 4) detail
  else regRec d cls code (8 + (linkMod k - 16)) 0xE0 detail

/-- The event record of an optical lane as it would be written now (R403). -/
def laneRec (d : Dev) (cls code n : Nat) (detail : List Nat) : EventRecord :=
  regRec d cls code (8 + n / 24) (n % 24) detail

/-- The event record of an optical port as it would be written now (R403). -/
def portRec (d : Dev) (cls code port : Nat) (detail : List Nat) : EventRecord :=
  regRec d cls code (8 + portEngine port) 0xFF detail

/-- Where the retention buffer has room for them, these records and no others have been written. -/
def Logged (a b : Dev) (rs : List EventRecord) : Prop :=
  a.log.buf.length + rs.length ≤ 4096 → b.log.buf = a.log.buf ++ rs ∧ b.log.lost = a.log.lost

/-- Where the retention buffer has room for them, these records have been written, before any others. -/
def Recorded (a b : Dev) (rs : List EventRecord) : Prop :=
  a.log.buf.length + rs.length ≤ 4096 → ∃ l, b.log.buf = a.log.buf ++ rs ++ l

/-- A saturating 32-bit counter register has counted `n` more. -/
def Counted (a b : Dev) (off : Nat) (n : Nat := 1) : Prop := b.reg off = min 0xFFFFFFFF (a.reg off + n)

/-- Every register but those named reads as before. -/
def RegsBut (offs : List Nat) (a b : Dev) : Prop := ∀ o, o ∉ offs → b.reg o = a.reg o

/-- Every byte of memory outside `n` bytes from `lo` reads as before. -/
def MemBut (lo n : Nat) (a b : Dev) : Prop := ∀ x, ¬ (lo ≤ x ∧ x < lo + n) → b.rd x = a.rd x

/-- Every block but one is as before. -/
def BlocksBut (n : Nat) (a b : Dev) : Prop := ∀ k, k ≠ n → b.blk k = a.blk k

/-- The bytes from `lo` on read as `bs`. -/
def Holds (d : Dev) (lo : Nat) (bs : List Byte) : Prop := ∀ i (h : i < bs.length), d.rd (lo + i) = bs[i]

/-- Nothing of the blocks but one thread has changed, and the mark of which thread of its core issued last. -/
def ThreadOnly (θ : ThreadId) (a b : Dev) : Prop :=
  (∀ n, n ≠ thrNum θ → (b.blk θ.b).thr n = (a.blk θ.b).thr n) ∧
    { b.blk θ.b with threads := [], lastIssue := [] } = { a.blk θ.b with threads := [], lastIssue := [] } ∧
    (∀ c, c ≠ θ.core.val → tget (fun _ => 0) (b.blk θ.b).lastIssue c = tget (fun _ => 0) (a.blk θ.b).lastIssue c) ∧
    BlocksBut θ.b a b

/-- A thread has completed an instruction that writes `v` into `rd` (x0 discards it), and of its other
state nothing but its wait and its mark of progress has changed. -/
def Returned (θ : ThreadId) (rd : XReg) (v : Nat) (a b : Dev) : Prop :=
  (∀ r, (b.thr θ).rx r = if r = rd ∧ r.val ≠ 0 then v % 2 ^ 64 else (a.thr θ).rx r) ∧
    (b.thr θ).wait = .none ∧ (b.thr θ).moved = true ∧
    { b.thr θ with x := [], wait := .none, moved := true } = { a.thr θ with x := [], wait := .none, moved := true }

/-- An engine operation of block `n` has ended with a status and has reported to the tracker (R61): it has
left the engine, its operation has one launched operation more that ended, a launch-word operation's
status is decided, and the thread that launched it reads its status in gwelast (R107). -/
def Reported (a b : Dev) (n : Nat) (e : EngOp) (st : Nat) : Prop :=
  (∀ x ∈ (b.blk n).eng, e.same x = false) ∧
    (b.op e.token).launched = (a.op e.token).launched + 1 ∧
    (e.src = .launch → (a.op e.token).used = true → (a.op e.token).status = none →
      (b.op e.token).status = some st) ∧
    (∀ c t, e.src = .core c t → ((a.blk n).thr (8 * c + t)).op = some e.token →
      ((b.blk n).thr (8 * c + t)).poison = (((a.blk n).thr (8 * c + t)).poison || !outputValid st) ∧
      ((b.blk n).thr (8 * c + t)).elast =
        e.seq + st * 65536 + b2n e.sat * 16777216 + b2n e.nan * 33554432 + 2147483648)

/-- Nothing that waited for the residue handling on engine `b` is to take place when it ends: no end as POISONED or
ABORTED, no deadline abandonment, no removal with the task (R62, R88, R90). -/
def NothingDue (d : Dev) (b : Nat) : Prop :=
  ∀ h e, d.current b = some (h, e) → e.dead = false ∧ e.stop = false ∧ e.abortReq = false ∧ e.late = false

/-- No beat of engine `b` is held but that of a cell. -/
def LastBeat (d : Dev) (b cell : Nat) : Prop := ∀ y ∈ (d.blk b).beats, y.cell = cell

/-- No dynamic operation of engine `b` is under residue handling, or already removed with its task. -/
def NoDynHeld (d : Dev) (b : Nat) : Prop :=
  ∀ e ∈ (d.blk b).eng, e.static = false → d.holding b e = false ∧ e.dead = false

/-- Every tile's tracker has a free entry. -/
def TrackersFree (d : Dev) : Prop := ∀ t, (d.op (d.freeToken t)).used = false

/-- The canonical form of device memory. -/
def MemOk (d : Dev) : Prop := twf memDef d.mem = true

/-- The canonical form of the trackers' operations: one entry for a token, in token order. -/
def OpsOk (d : Dev) : Prop := twf (fun _ => ({} : Op)) d.ops = true

/-- What a compute-domain reset leaves (R29, R322, R351, R467): the compute domain empty, memory kept in
DRAM alone, registers the floor holds as they were and others without RWL fields at their reset values,
every port but the island ports down, no vote and no primary output. -/
def ComputeDomainReset (a b : Dev) : Prop :=
  b.chip.computeReset = true ∧ b.chip.lock = false ∧ b.chip.sched = false ∧ b.chip.injected = false ∧
  b.chip.primaryEn = false ∧ b.blocks = [] ∧ b.tiles = [] ∧ b.ops = [] ∧ b.ctxs = [] ∧ b.parts = [] ∧
  b.retire = [] ∧ b.srv = {} ∧ b.fus = {} ∧ b.qm.dispatch = [] ∧ b.host.up = false ∧
  (∀ p ∈ b.links.up, 8 ≤ p ∧ p ∈ a.links.up) ∧ b.dram.ranks.map Prod.fst = a.dram.ranks.map Prod.fst ∧
  (∀ x, x < dramTop → b.rd x = a.rd x) ∧ (∀ x, dramTop ≤ x → b.rd x = 0) ∧
  (∀ o, regFloorHeld o = true → o ≠ R.hpEvlogLost → o ≠ R.tkSyncStatus → o ≠ R.pwrRailFault → b.reg o = a.reg o) ∧
  (∀ o, regFloorHeld o = false → o ∉ keptRw → rwlMask o = 0 → b.reg o = (regReset o).toNat) ∧
  b.chA.vote = false ∧ b.chB.vote = false ∧ b.time.now = a.time.now

/-- A request finds nothing in its way: no response comes with it, nobody of its class and none of the host's waits, the
class is below its cap or refused, and its channel serves (R176, R361, R371). -/
def PortFree (d : Dev) (r : DramReq) : Prop :=
  let cap := d.fld (R.mcReg r.key) 0 8
  r.acc.returned = [] ∧ tget (fun _ => []) d.dram.wait r.key = [] ∧ d.host.bar2 = [] ∧
    (cap = 0 ∨ tget (fun _ => 0) d.dram.out r.key < cap) ∧ d.chanWaits r.acc.addr = false

/-- Two devices agree in the memory subsystem but for what stands at the ports. -/
def SameDram (a b : Dev) : Prop :=
  { b.dram with out := [], wait := [], fill := [], panic := [] } =
    { a.dram with out := [], wait := [], fill := [], panic := [] }

/-- No instance of model serving has a KV block at an address (R206). -/
def NotKv (d : Dev) (a : Nat) : Prop :=
  ∀ i, i < 8 → (d.inst i).state ≠ 0 →
    ¬ ((d.inst i).kvBase ≤ a ∧ a < (d.inst i).kvBase + (d.inst i).kvBlocks * (d.inst i).kvBytes)

/-- A well-formed attestation request of a kind waits at the security unit: the placed operation `k`, whose
64-byte request record can be read and is as R442 gives it (OUT_ADDR in bytes 8 to 15, the nonce in 16 to 47). -/
def AttRequest (d : Dev) (k kind : Nat) : Prop :=
  let o := d.op k
  let a := o.arg0.toNat
  o.used = true ∧ o.placed = true ∧ o.kind = .attest ∧ o.status = none ∧ d.chip.computeReset = false ∧
    d.refusalAt 720 o.part o.cls a 64 false = none ∧ d.anyPoison a 64 = false ∧
    (d.rd a).toNat = kind ∧ d.rdN (a + 8) 8 % 64 = 0 ∧
    ∀ i < 64, 1 ≤ i → (i < 8 ∨ 48 ≤ i) → d.rd (a + i) = 0

/-- A command that writes a register through BAR0, or memory through BAR2, for the host. -/
def Instr.hostWrites : Instr → Bool
  | .dynDisable _ _ | .dynMode _ _ | .queueEnable _ | .queueDisable _ | .qmDoorbell _ _ | .qmCqDoorbell _ _
  | .contextLoad | .contextDisable | .partitionDisable _ _ | .partitionEnable _ _ | .qmMirrorCtl _ | .qmAcctCtl _
  | .instanceLoad _ | .instanceUnload _ | .qmSrvCtlFair _ | .qmBudget _ _ | .hpBar2Win _ | .hpEvlogCfg _
  | .hpEvlogHead _ | .bar2Write _ _ _ => true
  | .registerWrite _ _ _ _ init => init == 728
  | _ => false

/-- A command that reads through BAR0 or BAR2 for the host and is answered with a completion. -/
def Instr.hostReads : Instr → Bool
  | .rcRegisterRead _ _ | .tkTimeLoRead | .bar0BadRequest _ _ | .bar2Read _ _ => true
  | _ => false

/-- Whether bits of two dwords agree outside a mask. -/
def SameBits (mask a b : Nat) : Prop := ∀ i, bit mask i = false → bit a i = bit b i

/-- The answer to a management command is all that has left the module. -/
def Answered (a b : Dev) (seq : BitVec 16) (status : Nat) (data : List Nat := []) : Prop :=
  b.out = a.out ++ [.mgmt seq status data]

/-- A token has been refused: event 0x9040 with its TYPE and the reason, answer 1, and nothing else. -/
def Refused (s t : State) (seq : BitVec 16) (type reason : Nat) : Prop :=
  Wrote s.dev t.dev (regRec s.dev 5 0x9040 4 0x80 [type, reason]) ∧ Answered s.dev t.dev seq 1 ∧
    RegsBut [R.hpEvlogLost] s.dev t.dev ∧ Only [.regs, .log, .out] s t

/-- A management command's sequence number, and whether the loader and the module in operation take it (R436). -/
def Instr.mgmt : Instr → Option (BitVec 16 × Bool × Bool)
  | .mgmtIdentify q | .mgmtChallenge q | .mgmtTestPkg q _ _ => some (q, true, true)
  | .mgmtStage q _ _ | .mgmtCommit q _ _ | .mgmtProvision q _ | .mgmtReprovision q _ | .mgmtRestart q _ =>
    some (q, true, false)
  | .mgmtUnlock q _ | .mgmtEnterLoader q _ => some (q, false, true)
  | _ => none

/-- The management port is up and the module takes the command in its present state. -/
def MgmtTakes (d : Dev) (loader operation : Bool) : Prop :=
  7 ∈ d.links.up ∧ ((loader = true ∧ d.chip.phase = .loader) ∨
    (operation = true ∧ d.chip.phase ≠ .modReset ∧ d.chip.phase ≠ .loading ∧ d.chip.phase ≠ .loader))

end Sys2Proof
end

