-- ==== Sys2Proof/Certificates/Slice0/Obligations.lean ====
section
/-! DEFINITION. The statements about the module that are put to proof, family by family of its
commands. Each command's statement says under which conditions on the state and the operands it has
its own effect, what that effect is, and what it leaves unchanged. -/

open Sys2Proof Sys2Proof.Machine

/-! ## Matrix engines -/

/-- R86, R88 steps 1 to 4. A change of a beat's value whose residue modulo 31 is not 0 holds the beat and is noted in ME_LAST_ERR_n; the retry's check ends
the handling with 0x1001 and a count where it passes, ends the operation as POISONED with 0x1003 where
the syndrome differs, once no other beat of the engine is held, and goes on to the checker injection where it
is the same. An abort that came while the beat was held takes effect when its handling has ended (R62). -/
def Obligations.ResidueStepsOneToFour : Prop :=
  (∀ (b : Fin 144) (cell : Fin 32) (u : Upset) (s : State), s.dev.cellRuns b cell u.tile = true →
    residueSyn u.change ≠ 0 → (∀ x ∈ (s.dev.blk b).beats, x.cell ≠ cell.val) →
    Runs (.residueMismatch b cell u) s fun t =>
      (t.dev.blk b).beats = (s.dev.blk b).beats ++ [⟨cell, u.tile, residueSyn u.change, 2, s.dev.time.now⟩] ∧
      t.dev.fld (R.meLastErr b) 0 5 = cell.val ∧ t.dev.fld (R.meLastErr b) 5 5 = residueSyn u.change ∧
      t.dev.fld (R.meLastErr b) 10 22 = s.dev.fld (R.meLastErr b) 10 22 ∧
      { t.dev.blk b with beats := [] } = { s.dev.blk b with beats := [] } ∧
      RegsBut [R.meLastErr b] s.dev t.dev ∧ BlocksBut b s.dev t.dev ∧ Only [.regs, .blocks] s t) ∧
  (∀ (b : Fin 144) (cell : Fin 32) (x : HeldBeat) (s : State),
    (s.dev.blk b).beats.find? (fun y => y.cell = cell.val ∧ y.stage = 2) = some x →
    (LastBeat s.dev b cell → NothingDue s.dev b) → Runs (.residueRetryCheck b cell .passed) s fun t =>
      Counted s.dev t.dev (R.meRetry b) ∧
      Wrote s.dev t.dev (blkRec s.dev 1 0x1001 b [cell.val, x.syndrome, (s.dev.curTok b).1]
        (s.dev.curTok b).2.1 (s.dev.curTok b).2.2) ∧
      (t.dev.blk b).beats = (s.dev.blk b).beats.filter (·.cell ≠ cell.val) ∧
      { t.dev.blk b with beats := [] } = { s.dev.blk b with beats := [] } ∧
      RegsBut [R.meRetry b, R.hpEvlogLost] s.dev t.dev ∧ BlocksBut b s.dev t.dev ∧
      Only [.regs, .blocks, .log] s t) ∧
  (∀ (b : Fin 144) (cell : Fin 32) (x : HeldBeat) (e : EngOp) (s : State),
    (s.dev.blk b).beats.find? (fun y => y.cell = cell.val ∧ y.stage = 2) = some x → LastBeat s.dev b cell →
    s.dev.current b = some (b.val, e) → e.abortReq = true → e.stop = false → e.dead = false → e.late = false →
    Runs (.residueRetryCheck b cell .passed) s fun t =>
      Reported s.dev t.dev b e (e.status.getD stAborted) ∧
      Only [.mem, .free, .poison, .regs, .blocks, .tiles, .ops, .log] s t) ∧
  (∀ (b : Fin 144) (cell : Fin 32) (x y : HeldBeat) (e : EngOp) (s : State),
    (s.dev.blk b).beats.find? (fun y => y.cell = cell.val ∧ y.stage = 2) = some x →
    y ∈ (s.dev.blk b).beats → y.cell ≠ cell.val → s.dev.current b = some (b.val, e) →
    Runs (.residueRetryCheck b cell .differs) s fun t =>
      Wrote s.dev t.dev (blkRec s.dev 2 0x1003 b [cell.val, x.syndrome, e.token] e.part e.ctx) ∧
      (t.dev.blk b).beats = (s.dev.blk b).beats.filter (·.cell ≠ cell.val) ∧
      (∃ z ∈ (t.dev.blk b).eng, e.same z = true ∧ z.stop = true ∧ z.stage = e.stage) ∧
      BlocksBut b s.dev t.dev ∧ RegsBut [R.hpEvlogLost] s.dev t.dev ∧ Only [.regs, .blocks, .log] s t) ∧
  (∀ (b : Fin 144) (cell : Fin 32) (x : HeldBeat) (e : EngOp) (s : State),
    (s.dev.blk b).beats.find? (fun y => y.cell = cell.val ∧ y.stage = 2) = some x → LastBeat s.dev b cell →
    s.dev.current b = some (b.val, e) → e.dead = false → e.late = false →
    Runs (.residueRetryCheck b cell .differs) s fun t =>
      Wrote s.dev t.dev (blkRec s.dev 2 0x1003 b [cell.val, x.syndrome, e.token] e.part e.ctx) ∧
      (t.dev.blk b).beats = [] ∧ Reported s.dev t.dev b e (e.status.getD stPoisoned) ∧
      RegsBut [R.mePoison b, R.rxUnchecked b, R.meSat b, R.meNan b, R.hpEvlogLost] s.dev t.dev ∧
      Only [.mem, .free, .regs, .blocks, .tiles, .poison, .ops, .log] s t) ∧
  ∀ (b : Fin 144) (cell : Fin 32) (x : HeldBeat) (s : State),
    (s.dev.blk b).beats.find? (fun y => y.cell = cell.val ∧ y.stage = 2) = some x →
    Runs (.residueRetryCheck b cell .same) s fun t =>
      (∃ y ∈ (t.dev.blk b).beats, y.cell = cell.val ∧ y.stage = 4) ∧
      (t.dev.blk b).beats.map (fun y => (y.cell, y.syndrome)) = (s.dev.blk b).beats.map (fun y => (y.cell, y.syndrome)) ∧
      { t.dev.blk b with beats := [] } = { s.dev.blk b with beats := [] } ∧
      BlocksBut b s.dev t.dev ∧ Only [.blocks] s t

/-- R88 steps 5 and 6, R293, R300, R301. Where no other beat of the engine is held, an injection that the checker
passes ends the operation as POISONED with 0x1004; it gives the engine a strike, and the third unexpired strike asks for its
retirement; an injection it misses marks the checker, writes 0x1005, asks for the retirement of the
block, and the operation goes on as unchecked, or ends as POISONED in a partition whose every operation
is checked. -/
def Obligations.CheckerInjectionJudgesTheBeat : Prop :=
  (∀ (b : Fin 144) (cell : Fin 32) (x : HeldBeat) (e : EngOp) (s : State),
    (s.dev.blk b).beats.find? (fun y => y.cell = cell.val ∧ y.stage = 4) = some x → LastBeat s.dev b cell →
    s.dev.current b = some (b.val, e) → e.dead = false → e.late = false →
    Runs (.checkerInjectionDone b cell 0) s fun t =>
      (t.dev.blk b).beats = [] ∧ Reported s.dev t.dev b e (e.status.getD stPoisoned) ∧
      (t.dev.blk b).strikes =
        ((s.dev.blk b).strikes.filter fun h => s.dev.chip.hours - h ≤ 1000) ++ [s.dev.chip.hours] ∧
      ((t.dev.blk b).strikes.length ≠ 3 → t.dev.retire = s.dev.retire ∧
        Wrote s.dev t.dev (blkRec s.dev 2 0x1004 b [cell.val, x.syndrome, e.token] e.part e.ctx)) ∧
      ((t.dev.blk b).strikes.length = 3 → (s.dev.blk b).svc ≠ .retired → t.dev.retire.any (·.1 = b.val) = true) ∧
      RegsBut [R.mePoison b, R.rxUnchecked b, R.meSat b, R.meNan b, R.hpEvlogLost] s.dev t.dev ∧
      Only [.mem, .free, .regs, .blocks, .tiles, .poison, .ops, .log, .retire] s t) ∧
  (∀ (b : Fin 144) (cell : Fin 32) (missed : Fin 65) (x : HeldBeat) (h : Nat) (e : EngOp) (s : State),
    missed ≠ 0 → (s.dev.blk b).beats.find? (fun y => y.cell = cell.val ∧ y.stage = 4) = some x →
    s.dev.current b = some (h, e) → s.dev.fraction e.part ≠ 5 → (LastBeat s.dev b cell → NothingDue s.dev b) →
    Runs (.checkerInjectionDone b cell missed) s fun t =>
      (t.dev.blk b).chkFault = true ∧ (∀ y ∈ (t.dev.blk b).beats, y.cell ≠ cell.val) ∧
      Wrote s.dev t.dev (blkRec s.dev 5 0x1005 b [cell.val, missed.val] e.part e.ctx) ∧
      ((s.dev.blk b).svc ≠ .retired → t.dev.retire.any (·.1 = b.val) = true) ∧
      (∃ y ∈ (t.dev.blk h).eng, e.same y = true ∧ y.unchecked = true) ∧
      RegsBut [R.hpEvlogLost] s.dev t.dev ∧ Only [.regs, .blocks, .log, .retire] s t) ∧
  ∀ (b : Fin 144) (cell : Fin 32) (missed : Fin 65) (x : HeldBeat) (e : EngOp) (s : State),
    missed ≠ 0 → (s.dev.blk b).beats.find? (fun y => y.cell = cell.val ∧ y.stage = 4) = some x →
    LastBeat s.dev b cell → s.dev.current b = some (b.val, e) → s.dev.fraction e.part = 5 →
    e.dead = false → e.late = false →
    Runs (.checkerInjectionDone b cell missed) s fun t =>
      (t.dev.blk b).chkFault = true ∧ (t.dev.blk b).beats = [] ∧
      Reported s.dev t.dev b e (e.status.getD stPoisoned) ∧
      Wrote s.dev t.dev (blkRec s.dev 5 0x1005 b [cell.val, missed.val] e.part e.ctx) ∧
      ((s.dev.blk b).svc ≠ .retired → t.dev.retire.any (·.1 = b.val) = true) ∧
      Only [.mem, .free, .regs, .blocks, .tiles, .poison, .ops, .log, .retire] s t

/-- R60, R76, R286. An engine that is free, in service and not stopped starts its next operation: with a
descriptor error the operation ends with the error's status, 0x1006 and a count; where its scratchpad refuses its
accesses it ends as FIREWALL_DENIED (R113); else its pass begins, with the pre-image copied for a selected first
pass, and POISONED where an input it reads is poisoned (a fully masked step reads no operand, R215), whatever its
reads find in the scratchpad (R126) and whatever latch test was due. -/
def Obligations.EngineStartsItsNextOperation : Prop :=
  ∀ (b : Fin 144) (latch : Option (Fin 32)) (ecc : List EccFinding) (e : EngOp) (s : State),
    s.dev.current b = none → (s.dev.blk b).arbFor = none →
    ((s.dev.blk b).svc ≠ .retired ∨ s.dev.lame b = true) →
    (s.dev.blk b).preempt = none → s.dev.tileUp (tileOf b) = true →
    (s.dev.blk b).admitWaiting.nextOp = some e →
    (e.stage = .pending → s.dev.engError b e ≠ 0 →
      Runs (.engineOpStart b latch ecc) s fun t =>
        t.dev.fld (R.meLastErr b) 16 8 = s.dev.engError b e ∧ Counted s.dev t.dev (R.meDescErr b) ∧
        Wrote s.dev t.dev (blkRec s.dev 2 0x1006 b [s.dev.engError b e, e.token] e.part e.ctx) ∧
        Reported s.dev t.dev b e (descStatus (s.dev.engError b e)) ∧
        RegsBut [R.meLastErr b, R.meDescErr b, R.mePoison b, R.rxUnchecked b, R.meSat b, R.meNan b, R.hpEvlogLost]
          s.dev t.dev ∧
        (∀ k, k ≠ b.val → e.arb ≠ some k → t.dev.blk k = s.dev.blk k) ∧
        Only [.regs, .blocks, .tiles, .poison, .ops, .log] s t) ∧
    (∀ tgt r26, (e.stage = .pending → s.dev.engError b e = 0) →
      s.dev.refusal (5 * b + 4) (s.dev.idPart b e.static e.part) (blockBase b) false false = some (tgt, r26) →
      Runs (.engineOpStart b latch ecc) s fun t =>
        Counted s.dev t.dev R.secFwDeny ∧ Reported s.dev t.dev b e stDenied ∧
        Only [.regs, .blocks, .tiles, .poison, .ops, .log] s t) ∧
    ((e.stage = .pending → s.dev.engError b e = 0) →
      s.dev.refusal (5 * b + 4) (s.dev.idPart b e.static e.part) (blockBase b) false false = none →
      let half := if e.stage = .pending ∧ e.selected = true then (s.dev.blk b).admitWaiting.half else e.half
      Runs (.engineOpStart b latch ecc) s fun t =>
        (∃ y ∈ (t.dev.blk b).eng, e.same y = true ∧ y.half = half ∧
          y.stage = (if e.stage = .pending then .running else .repeating) ∧
          y.status = if (s.dev.sramEccs b ecc).readsPoison b b e (e.stage == .pending) = true ∧
            e.status = none then some stPoisoned else e.status) ∧
        (latch = none → ecc = [] → t.dev.log = s.dev.log) ∧
        (∀ c, latch = some c → ecc = [] →
          Wrote s.dev t.dev (blkRec s.dev 1 0x1002 b [c.val, e.token] e.part e.ctx)) ∧
        (e.stage ≠ .pending ∨ e.selected = false ∨ s.dev.preRange b half (descOf e.words) = none →
          t.dev.mem = s.dev.mem) ∧
        (∀ r, s.dev.preRange b half (descOf e.words) = some r → MemBut (blockBase b + r.1)
          (((descOf e.words).region .acc).2 +
            if (descOf e.words).attn then ((descOf e.words).region .cscale).2 else 0) s.dev t.dev) ∧
        RegsBut [R.hpEvlogLost, R.spLastErr b, R.spUe b, R.spCe b] s.dev t.dev ∧ BlocksBut b s.dev t.dev ∧
        Only [.mem, .poison, .regs, .blocks, .log] s t)

/-- R61, R86, R92, R286, R293. A pass that ends stores its beats and nothing else in memory. An operation
whose status was decided reports it; one that is not selected reports DONE, or DONE_UNCHECKED; the
first pass of a selected one waits for its repeat, and a repeat for its comparison. -/
def Obligations.EnginePassEndsByItsKind : Prop :=
  ∀ (b : Fin 144) (e : EngOp) (s : State),
    (s.dev.blk b).beats = [] → (s.dev.blk b).preempt = none → s.dev.tileUp (tileOf b) = true →
    (s.dev.blk b).eng.find? (fun x => x.stage = .running ∨ x.stage = .repeating) = some e →
    let r := s.dev.engBeats (blockBase b) (descOf e.words) (blockBase b + (descOf e.words).acc)
      (blockBase b + (descOf e.words).cs)
    let u := e.unchecked || (s.dev.blk b).chkFault
    (∀ st, e.status = some st → Runs (.engineOpComplete b) s fun t =>
      Reported s.dev t.dev b e st ∧
      RegsBut [R.mePoison b, R.rxUnchecked b, R.meSat b, R.meNan b] s.dev t.dev ∧
      Only [.poison, .regs, .blocks, .ops, .tiles] s t) ∧
    (e.status = none → e.stage = .running → ((s.dev.blk b).chkFault = true → s.dev.fraction e.part ≠ 5) →
      Runs (.engineOpComplete b) s fun t =>
        t.dev.mem = (r.1.foldl (fun d x => d.wr (blockBase b + x.1) x.2) s.dev).mem ∧
        (∀ a, (∀ x ∈ r.1, ¬ (blockBase b + x.1 ≤ a ∧ a < blockBase b + x.1 + x.2.length)) → t.dev.rd a = s.dev.rd a) ∧
        (e.selected = false → Reported s.dev t.dev b { e with sat := r.2.1, nan := r.2.2, unchecked := u }
          (if u then stUnchecked else stDone)) ∧
        (e.selected = true → (t.dev.blk b).sigs = addSigs (s.dev.blk b).sigs e.half r.1 ∧
          ∃ y ∈ (t.dev.blk b).eng, e.same y = true ∧ y.stage = .firstDone ∧ y.sat = r.2.1 ∧ y.nan = r.2.2) ∧
        RegsBut [R.meMaskSkip b, R.mePoison b, R.rxUnchecked b, R.meSat b, R.meNan b] s.dev t.dev ∧
        Only [.mem, .poison, .regs, .blocks, .ops, .tiles] s t) ∧
    (e.status = none → e.stage = .repeating → ((s.dev.blk b).chkFault = true → s.dev.fraction e.part ≠ 5) →
      Runs (.engineOpComplete b) s fun t =>
        (∃ y ∈ (t.dev.blk b).eng, e.same y = true ∧ y.stage = .repeated ∧ y.unchecked = u) ∧
        BlocksBut b s.dev t.dev ∧ Only [.blocks] s t)

/-- R62. DYN_DISABLE sets its bit and withdraws the engine at the next control frame, or returns it;
DYN_MODE sets its bit; in abort mode, and when the limit of a drain has passed, no dynamic operation
remains on an engine without residue handling; one under residue handling is to end with it. -/
def Obligations.DynamicWithdrawalOfAnEngine : Prop :=
  ∀ (b : Fin 144) (s : State),
    (∀ v, s.dev.hostReq = 0 → (s.dev.blk b).svc = .inService → (v = true → bit (s.dev.reg (R.meEngine b)) 11 = false) →
      Runs (.dynDisable b v) s fun t =>
        t.dev.fld (R.meEngine b) 10 1 = b2n v ∧
        (∀ i, i ≠ 10 → bit (t.dev.reg (R.meEngine b)) i = bit (s.dev.reg (R.meEngine b)) i) ∧
        (t.dev.blk b).withdraw = (if v then
          (if bit (s.dev.reg (R.meEngine b)) 10 then (s.dev.blk b).withdraw else some s.dev.nextFrame) else none) ∧
        { t.dev.blk b with withdraw := none } = { s.dev.blk b with withdraw := none } ∧
        RegsBut [R.meEngine b] s.dev t.dev ∧ BlocksBut b s.dev t.dev ∧ Only [.regs, .blocks] s t) ∧
    (s.dev.hostReq = 0 → (s.dev.blk b).svc = .inService → bit (s.dev.reg (R.meEngine b)) 11 = true →
      NoDynHeld s.dev b → Runs (.dynDisable b true) s fun t =>
        t.dev.fld (R.meEngine b) 10 1 = 1 ∧ (∀ e ∈ (t.dev.blk b).eng, e.static = true) ∧
        Only [.mem, .free, .poison, .regs, .blocks, .ops, .tiles] s t) ∧
    (∀ v, s.dev.hostReq = 0 → (v = true → bit (s.dev.reg (R.meEngine b)) 10 = false) → Runs (.dynMode b v) s fun t =>
        t.dev.fld (R.meEngine b) 11 1 = b2n v ∧
        (∀ i, i ≠ 11 → bit (t.dev.reg (R.meEngine b)) i = bit (s.dev.reg (R.meEngine b)) i) ∧
        RegsBut [R.meEngine b] s.dev t.dev ∧ Only [.regs] s t) ∧
    (s.dev.hostReq = 0 → bit (s.dev.reg (R.meEngine b)) 10 = true → bit (s.dev.reg (R.meEngine b)) 11 = false →
      NoDynHeld s.dev b → Runs (.dynMode b true) s fun t =>
        t.dev.fld (R.meEngine b) 11 1 = 1 ∧ (∀ e ∈ (t.dev.blk b).eng, e.static = true) ∧
        Only [.mem, .free, .poison, .regs, .blocks, .ops, .tiles] s t) ∧
    (∀ w e, (s.dev.blk b).withdraw = some w → w ≤ s.dev.wb → (s.dev.blk b).eng = [e] → e.static = false →
      e.dead = false → s.dev.holding b e = true → Runs (.engineDrainLimit b) s fun t =>
        (t.dev.blk b).eng = [{ e with abortReq := true }] ∧ BlocksBut b s.dev t.dev ∧ Only [.blocks] s t) ∧
    ∀ w, (s.dev.blk b).withdraw = some w → w ≤ s.dev.wb → NoDynHeld s.dev b →
      Runs (.engineDrainLimit b) s fun t =>
        (∀ e ∈ (t.dev.blk b).eng, e.static = true) ∧
        (∀ e ∈ (s.dev.blk b).eng, e.static = false → e.src = .launch → (s.dev.op e.token).used = true →
          (s.dev.op e.token).status = none → (∀ x ∈ (s.dev.blk b).eng, x.status = none) →
          (t.dev.op e.token).status = some stAborted) ∧
        RegsBut [R.mePoison b, R.rxUnchecked b, R.meSat b, R.meNan b] s.dev t.dev ∧
        Only [.mem, .free, .poison, .regs, .blocks, .ops, .tiles] s t

/-- R96 to R100. The post-processing unit ends an operation with a valid descriptor and granted accesses
by writing its box list and deciding its status: DONE, or POISONED for a poisoned input; a lockstep
mismatch ends it as POISONED with 0x1007 and a count, its output poisoned. -/
def Obligations.PostProcessingWritesItsBoxes : Prop :=
  ∀ (k : Fin 16384) (s : State), (s.dev.op k).used = true → (s.dev.op k).placed = true → (s.dev.op k).status = none →
    ((s.dev.op k).kind = .ppu ∨ (s.dev.op k).kind = .hubUnit) → s.dev.ppuWaits k = false →
    let p := s.dev.ppuDesc (hubBase + (s.dev.op k).entry)
    (p.ok = true → s.dev.ppuDenied (s.dev.op k).part (s.dev.op k).cls p = none → Runs (.ppuOpComplete k none) s fun t =>
      Holds t.dev p.outA (s.dev.ppuOut p) ∧ MemBut p.outA (s.dev.ppuOut p).length s.dev t.dev ∧
      (t.dev.op k).status = some (if s.dev.anyPoison (hubBase + (s.dev.op k).entry) 64 = true ∨
        s.dev.anyPoison p.inA p.inBytes = true ∨
        (p.decode ≠ 2 ∧ s.dev.anyPoison p.anchorA (16 * p.positions) = true) then stPoisoned else stDone) ∧
      { t.dev.op k with status := none } = s.dev.op k ∧
      (∀ j, j ≠ k.val → { t.dev.op j with began := 0 } = { s.dev.op j with began := 0 }) ∧
      Only [.mem, .poison, .enc, .ops] s t) ∧
    (p.ok = true → s.dev.ppuDenied (s.dev.op k).part (s.dev.op k).cls p = none → ∀ off, Runs (.ppuOpComplete k (some off)) s fun t =>
      Wrote s.dev t.dev (regRec s.dev 2 0x1007 4 0x20 [off.val] (s.dev.op k).part (s.dev.op k).ctx) ∧ (t.dev.op k).status = some stPoisoned ∧
      (∀ g ∈ granules p.outA (s.dev.ppuOut p).length, t.dev.poisoned (g * 64) = true) ∧
      MemBut p.outA (s.dev.ppuOut p).length s.dev t.dev ∧
      RegsBut [R.mePpuStatus, R.hpEvlogLost] s.dev t.dev ∧
      (∀ j, j ≠ k.val → { t.dev.op j with began := 0 } = { s.dev.op j with began := 0 }) ∧
      Only [.mem, .poison, .enc, .ops, .regs, .log] s t) ∧
    (p.ok = false → Runs (.ppuOpComplete k none) s fun t =>
      (t.dev.op k).status = some stPoisoned ∧
      (∀ j, j ≠ k.val → { t.dev.op j with began := 0 } = { s.dev.op j with began := 0 }) ∧ Only [.ops] s t)

/-! ## General cores and scratchpads -/

/-- R104 to R106, R110 to R119. A load whose access is granted and free of the scoreboard writes the bytes
at the relocated address into its register, sign-extended or not, into an f register under NaN boxing, or into the low
bytes of a vector register, each element from its own place, and sets the thread's poison flag with a count where a
granule is poisoned; an LR also reserves them.
A CSR read that the thread's mode may make returns the CSR, and a CSR write that it may make writes it: a swap, a set
or a clear of bits, and one of gwpool opens the pool that gwpoolsel selects.
R105, R109, R111 to R119, R126. A store whose access is granted and free of the scoreboard writes exactly its
bytes, with the poison of a thread that carries poison, and breaks the reservations on their granules; a remote one
lies in grants of the thread, and where it meets a scoreboard entry it is posted to the target while the thread runs on.
An SC under its reservation writes and returns 0, another returns 1 and writes nothing; an AMO returns the number in
memory and writes its operation's result. GW.PTEST returns the thread's poison flag, or that of the granule. -/
def Obligations.ThreadAccessesMemory : Prop :=
  (∀ (θ : ThreadId) (rd rs1 rs2 : XReg) (imm : BitVec 12) (width : Fin 4) (a : Nat) (s : State),
     let w := 2 ^ width.val
     let reach (ea n : Nat) := 0 < n ∧ crosses ea w n = false ∧ s.dev.linear θ ea w n = true ∧
       s.dev.relocate θ ea = .addr a ∧ s.dev.threadRefusal θ a n true = none ∧
       s.dev.capped θ.init (s.dev.tCls θ) a = false ∧ s.dev.pathStalls θ.b a = false
     let clear (n : Nat) := s.dev.sbHit a n (fun _ => true) = false ∧
       (remoteSpad θ a = true → (s.dev.blk (spadBlk a)).posted = [])
     (∀ kind : StoreKind, (kind = .plain ∨ kind = .float ∨ ∃ n, kind = .vector n) →
       let n := match kind with
         | .vector v => v.val / w * w
         | _ => w
       let v := match kind with
         | .vector _ => (tget (fun _ => 0) (s.dev.thr θ).v rs2.val).toNat
         | .float => (tget (fun _ => 0) (s.dev.thr θ).f rs2.val).toNat
         | _ => s.dev.tx θ rs2
       s.dev.canRun θ (.threadStore θ rs1 rs2 imm width kind rd []) = true → reach (s.dev.ea θ rs1 imm) n →
       (remoteSpad θ a = true → (s.dev.thr θ).outside w [(a, n)] = none) →
       (clear n → Runs (.threadStore θ rs1 rs2 imm width kind rd []) s fun t =>
         Holds t.dev a (toLE n v) ∧ MemBut a n s.dev t.dev ∧ Returned θ 0 0 (s.dev.breakResv a n) t.dev ∧
         ((s.dev.thr θ).poison = true → t.dev.anyPoison a n = true) ∧
         ThreadOnly θ (s.dev.breakResv a n) t.dev ∧ Only [.mem, .poison, .enc, .blocks] s t) ∧
       (remoteSpad θ a = true → (s.dev.blk (spadBlk a)).posted = [] → s.dev.sbHit a n (fun _ => true) = true →
         Runs (.threadStore θ rs1 rs2 imm width kind rd []) s fun t =>
           (t.dev.blk (spadBlk a)).posted =
             [⟨s.dev.tok θ, a, toLE n v, s.dev.tPart θ, (s.dev.thr θ).poison⟩] ∧
           Returned θ 0 0 s.dev t.dev ∧ (∀ k, k ≠ θ.b → k ≠ spadBlk a → t.dev.blk k = s.dev.blk k) ∧
           Only [.blocks] s t)) ∧
     (s.dev.canRun θ (.threadStore θ rs1 rs2 imm width .cond rd []) = true → reach (s.dev.tx θ rs1) w → clear w →
       remoteSpad θ a = false →
       ((s.dev.thr θ).resv = some (a, w) → Runs (.threadStore θ rs1 rs2 imm width .cond rd []) s fun t =>
         Holds t.dev a (toLE w (s.dev.tx θ rs2)) ∧ MemBut a w s.dev t.dev ∧
         Returned θ rd 0 (s.dev.breakResv a w) t.dev ∧ (t.dev.thr θ).resv = none ∧
         ThreadOnly θ (s.dev.breakResv a w) t.dev ∧ Only [.mem, .poison, .enc, .blocks] s t) ∧
       ((s.dev.thr θ).resv ≠ some (a, w) → Runs (.threadStore θ rs1 rs2 imm width .cond rd []) s fun t =>
         (∀ r, (t.dev.thr θ).rx r = if r = rd ∧ r.val ≠ 0 then 1 else (s.dev.thr θ).rx r) ∧
         (t.dev.thr θ).resv = none ∧ ThreadOnly θ s.dev t.dev ∧ Only [.blocks] s t)) ∧
     (∀ f, s.dev.canRun θ (.threadStore θ rs1 rs2 imm width (.amo f) rd []) = true → reach (s.dev.tx θ rs1) w →
       clear w → remoteSpad θ a = false → Runs (.threadStore θ rs1 rs2 imm width (.amo f) rd []) s fun t =>
         Holds t.dev a (toLE w (amo f w (s.dev.rdN a w) (s.dev.tx θ rs2 % 2 ^ (8 * w)))) ∧ MemBut a w s.dev t.dev ∧
         (t.dev.thr θ).rx rd = (if rd.val = 0 then 0 else unsigned 64 (signed (8 * w) (s.dev.rdN a w)) % 2 ^ 64) ∧
         (∀ r, r ≠ rd → (t.dev.thr θ).rx r = (s.dev.thr θ).rx r) ∧
         (t.dev.thr θ).poison = ((s.dev.thr θ).poison || s.dev.anyPoison a w) ∧
         ThreadOnly θ (s.dev.breakResv a w) t.dev ∧ Only [.mem, .poison, .enc, .blocks] s t) ∧
     (rs1.val = 0 → s.dev.canRun θ (.gwPtest θ rd rs1) = true → Runs (.gwPtest θ rd rs1) s fun t =>
       Returned θ rd (b2n (s.dev.thr θ).poison) s.dev t.dev ∧ ThreadOnly θ s.dev t.dev ∧ Only [.blocks] s t) ∧
     (rs1.val ≠ 0 → s.dev.canRun θ (.gwPtest θ rd rs1) = true → s.dev.relocate θ (s.dev.tx θ rs1) = .addr a →
       s.dev.threadRefusal θ a 1 false = none → Runs (.gwPtest θ rd rs1) s fun t =>
       Returned θ rd (b2n (s.dev.poisoned a)) s.dev t.dev ∧ ThreadOnly θ s.dev t.dev ∧ Only [.blocks] s t)) ∧
  (∀ (θ : ThreadId) (rd rs1 : XReg) (imm : BitVec 12) (width : Fin 4) (sext : Bool) (s : State),
    let w := 2 ^ width.val
    let free (p : Nat × Nat) := s.dev.capped θ.init (s.dev.tCls θ) p.1 = false ∧
      s.dev.sbHit p.1 p.2 (·.producer) = false ∧ s.dev.postedOn (s.dev.tok θ) p.1 p.2 = false ∧
      (remoteSpad θ p.1 = true → (s.dev.blk (spadBlk p.1)).posted = []) ∧ s.dev.keyGone p.1 p.2 = none
    (∀ a kind, (kind = .plain ∨ kind = .float ∨ kind = .reserved ∧ remoteSpad θ a = false) →
      let ea := if kind = .reserved then s.dev.tx θ rs1 else s.dev.ea θ rs1 imm
      s.dev.canRun θ (.threadLoad θ rd rs1 imm width sext kind []) = true → crosses ea w w = false →
      s.dev.relocate θ ea = .addr a → s.dev.threadRefusal θ a w false = none → free (a, w) →
      Runs (.threadLoad θ rd rs1 imm width sext kind []) s fun t =>
        (kind ≠ .float → (t.dev.thr θ).rx rd = (if rd.val = 0 then 0 else
          (if sext then unsigned 64 (signed (8 * w) (s.dev.rdN a w)) else s.dev.rdN a w) % 2 ^ 64)) ∧
        (∀ r, r ≠ rd ∨ kind = .float → (t.dev.thr θ).rx r = (s.dev.thr θ).rx r) ∧
        (kind = .float → (tget (fun _ => 0) (t.dev.thr θ).f rd.val).toNat =
          s.dev.rdN a w % 2 ^ (8 * w) + (2 ^ 64 - 2 ^ (8 * w))) ∧
        (kind ≠ .float → (t.dev.thr θ).f = (s.dev.thr θ).f) ∧
        (t.dev.thr θ).poison = ((s.dev.thr θ).poison || s.dev.anyPoison a w) ∧
        (t.dev.thr θ).resv = (if kind = .reserved then some (a, w) else (s.dev.thr θ).resv) ∧
        { t.dev.thr θ with x := [], f := [], wait := .none, moved := true, poison := false, resv := none } =
          { s.dev.thr θ with x := [], f := [], wait := .none, moved := true, poison := false, resv := none } ∧
        (s.dev.anyPoison a w = true → Counted s.dev t.dev (R.gcPoisonLd θ.b)) ∧
        (s.dev.anyPoison a w = false → t.dev.regs = s.dev.regs) ∧
        RegsBut [R.gcPoisonLd θ.b] s.dev t.dev ∧ ThreadOnly θ s.dev t.dev ∧ Only [.regs, .blocks] s t) ∧
    (∀ (n : Fin 65) ps, let k := n.val / w * w
      s.dev.canRun θ (.threadLoad θ rd rs1 imm width sext (.vector n) []) = true → 0 < k →
      crosses (s.dev.ea θ rs1 imm) w k = false →
      s.dev.thAddrs θ false (s.dev.pieces θ (s.dev.ea θ rs1 imm) w k) = (s.dev, some ps) → (∀ p ∈ ps, free p) →
      Runs (.threadLoad θ rd rs1 imm width sext (.vector n) []) s fun t =>
        (tget (fun _ => 0) (t.dev.thr θ).v rd.val).toNat % 2 ^ (8 * k) = s.dev.rdPieces ps ∧
        (tget (fun _ => 0) (t.dev.thr θ).v rd.val).toNat / 2 ^ (8 * k) =
          (tget (fun _ => 0) (s.dev.thr θ).v rd.val).toNat / 2 ^ (8 * k) ∧
        (∀ r, (t.dev.thr θ).rx r = (s.dev.thr θ).rx r) ∧ ThreadOnly θ s.dev t.dev ∧ Only [.regs, .blocks] s t) ∧
    ∀ n v, s.dev.canRun θ (.threadLoad θ rd rs1 imm width sext (.csr n) []) = true → s.dev.csr θ n.val = some v →
      Runs (.threadLoad θ rd rs1 imm width sext (.csr n) []) s fun t =>
        Returned θ rd v s.dev t.dev ∧ ThreadOnly θ s.dev t.dev ∧ Only [.blocks, .free] s t) ∧
  ∀ (θ : ThreadId) (rd rs1 rs2 : XReg) (imm : BitVec 12) (width : Fin 4) (f : CsrOp) (number : Bool) (n : Fin 4096)
    (v : Nat) (s : State),
    let i := Instr.threadStore θ rs1 rs2 imm width (.csr f number n) rd []
    let x := if number then rs1.val else s.dev.tx θ rs1
    s.dev.canRun θ i = true → s.dev.csr θ n.val = some v →
    (f ≠ .swap → rs1.val = 0 → Runs i s fun t =>
      Returned θ rd v s.dev t.dev ∧ ThreadOnly θ s.dev t.dev ∧ Only [.blocks, .free] s t) ∧
    (f = .swap ∨ rs1.val ≠ 0 → bits n.val 10 2 ≠ 3 →
      let y := match f with
        | .swap => x
        | .set => v ||| x
        | .clear => v &&& (2 ^ 64 - 1 - x)
      (n.val ≠ 0x7C9 → Runs i s fun t =>
        { t.dev.thr θ with x := [], wait := .none, moved := true } =
          { (s.dev.thr θ).setCsr n.val y with x := [], wait := .none, moved := true } ∧
        (∀ r, (t.dev.thr θ).rx r = if r = rd ∧ r.val ≠ 0 then v % 2 ^ 64 else (s.dev.thr θ).rx r) ∧
        ThreadOnly θ s.dev t.dev ∧ Only [.blocks, .free] s t) ∧
      (n.val = 0x7C9 → ((s.dev.blk θ.b).pool (s.dev.thr θ).poolsel).valid = false → bit y 0 = true → bits y 1 3 ≤ 4 →
        bits y 23 13 ≠ 0 → Runs i s fun t =>
        (t.dev.blk θ.b).pool (s.dev.thr θ).poolsel = { valid := true, sp := bits y 1 3, base := bits y 4 19
                                                       size := bits y 23 13, part := bits y 36 6
                                                       ctx := s.dev.tCtx θ, free := bits y 23 13 } ∧
        Returned θ rd v s.dev t.dev ∧ BlocksBut θ.b s.dev t.dev ∧ Only [.blocks, .free] s t))

/-- R107, R111, R113, R132. An access of which a piece is refused by the target's firewall moves no data: the
refusal is counted in SEC_FW_DENY, and the task ends as FIREWALL_DENIED with a count and GC_LAST_EXC_n. -/
def Obligations.RefusedThreadAccessEndsTheTask : Prop :=
  ∀ (θ : ThreadId) (rd rs1 rs2 : XReg) (imm : BitVec 12) (width : Fin 4) (a e m tgt : Nat) (r26 : Bool)
    (pre post : List (Nat × Nat)) (s : State),
    let w := 2 ^ width.val
    let refused (n : Nat) (write : Bool) := 0 < n ∧ crosses (s.dev.ea θ rs1 imm) w n = false ∧
      s.dev.pieces θ (s.dev.ea θ rs1 imm) w n = pre ++ (e, m) :: post ∧
      (∀ q ∈ pre, (s.dev.thAccess θ q.1 q.2 write).2.isSome = true) ∧ s.dev.relocate θ e = .addr a ∧
      s.dev.threadRefusal θ a m write = some (tgt, r26)
    TrackersFree s.dev →
    (∀ sext (kind : LoadKind),
      let n := match kind with
        | .vector v => v.val / w * w
        | _ => w
      (kind = .plain ∨ kind = .float ∨ ∃ v, kind = .vector v) → refused n false →
      s.dev.canRun θ (.threadLoad θ rd rs1 imm width sext kind []) = true →
      Runs (.threadLoad θ rd rs1 imm width sext kind []) s fun t =>
        Counted s.dev t.dev R.secFwDeny ∧ Counted s.dev t.dev (R.gcExc θ.b) ∧
        t.dev.reg (R.gcLastExc θ.b) = θ.core.val + θ.thread.val * 4 + 5 * 256 ∧
        ((s.dev.op (s.dev.tok θ)).used = true → (s.dev.op (s.dev.tok θ)).status = none →
          (t.dev.op (s.dev.tok θ)).status = some stDenied) ∧
        t.dev.mem = s.dev.mem ∧ t.nv = s.nv ∧ t.pending = s.pending) ∧
    ∀ kind : StoreKind,
      let n := match kind with
        | .vector v => v.val / w * w
        | _ => w
      (kind = .plain ∨ kind = .float ∨ ∃ v, kind = .vector v) → refused n true →
      s.dev.canRun θ (.threadStore θ rs1 rs2 imm width kind rd []) = true →
      Runs (.threadStore θ rs1 rs2 imm width kind rd []) s fun t =>
        Counted s.dev t.dev R.secFwDeny ∧ Counted s.dev t.dev (R.gcExc θ.b) ∧
        t.dev.reg (R.gcLastExc θ.b) = θ.core.val + θ.thread.val * 4 + 7 * 256 ∧
        ((s.dev.op (s.dev.tok θ)).used = true → (s.dev.op (s.dev.tok θ)).status = none →
          (t.dev.op (s.dev.tok θ)).status = some stDenied) ∧
        t.dev.mem = s.dev.mem ∧ t.nv = s.nv ∧ t.pending = s.pending

/-- R107, R117, R118, R120. GW.ELAUNCH with room at the engine, in the tracker and at the scoreboard
returns the thread's sequence number, issues the operation at the engine's tail and charges a tracker
entry; on a withdrawn engine a dynamic launch completes as ABORTED at once; GW.RFENCE returns where no
producer entry that it covers is left. -/
def Obligations.EngineLaunchAndFence : Prop :=
  ∀ (θ : ThreadId) (rd rs1 rs2 : XReg) (s : State),
    let k := s.dev.tok θ
    let o := s.dev.op k
    (s.dev.canRun θ (.gwElaunch θ rd rs1) = true → (o.static = true ∨ s.dev.withdrawn θ.b = false) → (s.dev.blk θ.b).pendingOps < 4 → s.dev.blkCharge θ.b < 256 →
      (o.static = true → s.dev.trkUsed (tileOf θ.b) < 4096) → (o.static = false → s.dev.dynFree (tileOf θ.b) ≠ 0) →
      (s.dev.blk θ.b).sbFits (s.dev.mkEng θ.b { desc := s.dev.tx θ rs1 }
        (s.dev.coreSelect θ.b o.part (s.dev.tx θ rs1)).1).entries = true →
      Runs (.gwElaunch θ rd rs1) s fun t =>
        (t.dev.thr θ).rx rd = (if rd.val = 0 then 0 else (s.dev.thr θ).seq % 2 ^ 64) ∧
        (∀ r, r ≠ rd → (t.dev.thr θ).rx r = (s.dev.thr θ).rx r) ∧
        (t.dev.thr θ).seq = ((s.dev.thr θ).seq + 1) % 65536 ∧
        (∃ e, (t.dev.blk θ.b).eng = (s.dev.blk θ.b).eng ++ [e] ∧ e.token = k ∧ e.part = o.part ∧ e.ctx = o.ctx ∧
          e.src = .core θ.core θ.thread ∧ e.seq = (s.dev.thr θ).seq ∧ e.desc = s.dev.tx θ rs1 ∧
          e.stage = .pending ∧ e.selected = (s.dev.coreSelect θ.b o.part (s.dev.tx θ rs1)).1) ∧
        (t.dev.op k).launches = o.launches + 1 ∧ (∀ j, j ≠ k → t.dev.op j = s.dev.op j) ∧
        (∀ n, n ≠ thrNum θ → (t.dev.blk θ.b).thr n = (s.dev.blk θ.b).thr n) ∧ BlocksBut θ.b s.dev t.dev ∧
        RegsBut [R.rxInelig θ.b, R.qmTrkUsed (tileOf θ.b)] s.dev t.dev ∧ Only [.regs, .blocks, .ops] s t) ∧
    (s.dev.canRun θ (.gwElaunch θ rd rs1) = true → o.static = false → s.dev.withdrawn θ.b = true → Runs (.gwElaunch θ rd rs1) s fun t =>
      (t.dev.thr θ).rx rd = (if rd.val = 0 then 0 else (s.dev.thr θ).seq % 2 ^ 64) ∧
      (t.dev.thr θ).poison = true ∧ (t.dev.thr θ).elast = (s.dev.thr θ).seq + stAborted * 65536 + 2147483648 ∧
      (t.dev.op k).launched = o.launched + 1 ∧ (∀ j, j ≠ k → t.dev.op j = s.dev.op j) ∧
      ThreadOnly θ s.dev t.dev ∧ Only [.blocks, .ops] s t) ∧
    (s.dev.canRun θ (.gwRfence θ rs1 rs2) = true → (s.dev.tx θ rs2 = 0 → ∀ e ∈ (s.dev.blk θ.b).eng, e.stage ≠ .waiting → e.src = .core θ.core θ.thread →
        ∀ x ∈ e.entries, x.producer = false) →
      (s.dev.tx θ rs2 ≠ 0 → ∀ e ∈ (s.dev.blk θ.b).eng, e.stage ≠ .waiting → ∀ x ∈ e.entries, x.producer = true →
        meets x.lo (x.hi - x.lo) (s.dev.tx θ rs1) (s.dev.tx θ rs2) = false) →
      Runs (.gwRfence θ rs1 rs2) s fun t => Returned θ 0 0 s.dev t.dev ∧ ThreadOnly θ s.dev t.dev ∧ Only [.blocks] s t)

/-- R121 to R125. GW.CREDIT.ACQ with credit at once takes the granules at the ring's write pointer for the
thread; PUB publishes the thread's grant and completes; TAKE hands out published granules at the read
pointer; REL gives taken granules back. -/
def Obligations.CreditsMoveThroughThePool : Prop :=
  ∀ (θ : ThreadId) (rd rs1 rs2 : XReg) (a b p : Nat) (s : State),
    s.dev.relocate θ (s.dev.tx θ rs1) = .addr a →
    let q := (s.dev.blk b).pool p
    let n := bits (s.dev.tx θ rs2) 0 13
    (s.dev.canRun θ (.gwCreditAcq θ rd rs1 rs2) = true → s.dev.poolAt a = some (b, p) → q.closing = false → q.part = s.dev.tPart θ → (s.dev.thr θ).grants.length < 4 →
      (s.dev.blk b).waiters = [] → (s.dev.blk b).preempt = none → 0 < n → q.wptr + n ≤ q.size → n ≤ q.free →
      Runs (.gwCreditAcq θ rd rs1 rs2) s fun t =>
        (t.dev.thr θ).rx rd = (if rd.val = 0 then 0 else (q.ring b + 64 * q.wptr) % 2 ^ 64) ∧
        (∀ r, r ≠ rd → (t.dev.thr θ).rx r = (s.dev.thr θ).rx r) ∧
        (t.dev.blk b).pool p = { q with
          free := q.free - n, wptr := (q.wptr + n) % q.size
          grants := q.grants ++ [(q.ring b + 64 * q.wptr, n, false)] } ∧
        (∀ j, j ≠ p → (t.dev.blk b).pool j = (s.dev.blk b).pool j) ∧
        (t.dev.thr θ).grants = (s.dev.thr θ).grants ++ [⟨q.ring b + 64 * q.wptr, b, p, n⟩] ∧ Only [.blocks] s t) ∧
    (∀ g, s.dev.canRun θ (.gwCreditPub θ rs1) = true → (s.dev.thr θ).grants.find? (·.addr = a) = some g →
      (g.block = θ.b ∨ s.dev.pathStalls θ.b a = false) → (s.dev.blk g.block).posted = [] →
      s.dev.postedOn (s.dev.tok θ) a (64 * g.n) = false → Runs (.gwCreditPub θ rs1) s fun t =>
      (t.dev.thr θ).grants = (s.dev.thr θ).grants.filter (·.addr ≠ a) ∧
      (∀ r, (t.dev.thr θ).rx r = (s.dev.thr θ).rx r) ∧
      (t.dev.blk g.block).pool g.pool = ((s.dev.blk g.block).pool g.pool).publish a ∧ Only [.blocks] s t) ∧
    (s.dev.canRun θ (.gwCreditTake θ rd rs1 rs2) = true → s.dev.poolAt a = some (b, p) → b = θ.b → 0 < n →
      n ≤ q.filled → Runs (.gwCreditTake θ rd rs1 rs2) s fun t =>
      (t.dev.blk b).pool p = { q with
        filled := q.filled - n, taken := q.taken + n, rptr := (q.rptr + n) % q.size } ∧
      (∀ j, j ≠ p → (t.dev.blk b).pool j = (s.dev.blk b).pool j) ∧
      Returned θ rd (q.ring b + 64 * q.rptr) s.dev t.dev ∧ BlocksBut b s.dev t.dev ∧ Only [.blocks] s t) ∧
    (s.dev.canRun θ (.gwCreditRel θ rs1 rs2) = true → s.dev.poolAt a = some (b, p) → (s.dev.blk b).waiters = [] → Runs (.gwCreditRel θ rs1 rs2) s fun t =>
      (t.dev.blk b).pool p = { q with free := q.free + min n q.taken, taken := q.taken - min n q.taken } ∧
      (∀ j, j ≠ p → (t.dev.blk b).pool j = (s.dev.blk b).pool j) ∧ Returned θ 0 0 s.dev t.dev ∧ Only [.blocks] s t)

/-- R37, R108, R470. GW.TWAIT.TAG and GW.TWAIT.CLASS make the thread wait, and end a static thread's item;
a class above 4 is an illegal instruction; a wait whose limit has passed ends with W[15:0] and bit 16. -/
def Obligations.TickWaitsAndTheirLimit : Prop :=
  ∀ (θ : ThreadId) (rd rs1 rs2 : XReg) (s : State),
    (s.dev.canRun θ (.gwTwaitTag θ rd rs1 rs2) = true → Runs (.gwTwaitTag θ rd rs1 rs2) s fun t =>
      (t.dev.thr θ).wait = .tag (bits (s.dev.tx θ rs1) 0 16)
        (if s.dev.tx θ rs2 = 0 then none else some (s.dev.wb + s.dev.tx θ rs2)) rd.val ∧
      (∀ r, (t.dev.thr θ).rx r = (s.dev.thr θ).rx r) ∧
      ((s.dev.thr θ).static = none → (t.dev.thr θ).op = (s.dev.thr θ).op ∧ t.dev.ops = s.dev.ops) ∧
      ((s.dev.thr θ).static ≠ none → (t.dev.thr θ).op = none ∧
        ((s.dev.op (s.dev.tok θ)).used = true → (s.dev.op (s.dev.tok θ)).status = none →
          (t.dev.op (s.dev.tok θ)).status = some (taskStatus (s.dev.thr θ) (s.dev.op (s.dev.tok θ))))) ∧
      (∀ j, j ≠ s.dev.tok θ → t.dev.op j = s.dev.op j) ∧ ThreadOnly θ s.dev t.dev ∧ Only [.blocks, .ops] s t) ∧
    (s.dev.canRun θ (.gwTwaitClass θ rd rs1 rs2) = true → bits (s.dev.tx θ rs1) 0 3 ≤ 4 → Runs (.gwTwaitClass θ rd rs1 rs2) s fun t =>
      (t.dev.thr θ).wait = .cls (bits (s.dev.tx θ rs1) 0 3)
        (if s.dev.tx θ rs2 = 0 then none else some (s.dev.wb + s.dev.tx θ rs2)) rd.val ∧
      { t.dev.thr θ with wait := .none, moved := true } = { s.dev.thr θ with wait := .none, moved := true } ∧
      ThreadOnly θ s.dev t.dev ∧ Only [.blocks] s t) ∧
    (s.dev.canRun θ (.gwTwaitClass θ rd rs1 rs2) = true → 4 < bits (s.dev.tx θ rs1) 0 3 → Runs (.gwTwaitClass θ rd rs1 rs2) s fun t =>
      Wrote s.dev t.dev (blkRec s.dev 2 0x1041 θ.b [θ.core.val, θ.thread.val, 2, s.dev.tok θ] (s.dev.tPart θ)
        (s.dev.tCtx θ)) ∧ Counted s.dev t.dev (R.gcExc θ.b)) ∧
    (∀ l, s.dev.tileUp (tileOf θ.b) = true → (s.dev.blk θ.b).svc ≠ .retired →
      ((∃ tag, (s.dev.thr θ).wait = .tag tag (some l) rd.val ∧ (s.dev.thr θ).static = none) ∨
        ∃ c, (s.dev.thr θ).wait = .cls c (some l) rd.val ∧
          (c = 0 ∨ s.dev.wb % s.dev.classLen c ≠ 0 ∨ c ∈ s.dev.time.ticked)) → l ≤ s.dev.wb →
      Runs (.twaitLimitExpiry θ) s fun t =>
        Returned θ rd (s.dev.wb % 65536 + 65536) s.dev t.dev ∧ ThreadOnly θ s.dev t.dev ∧ Only [.blocks] s t) ∧
    (∀ l tag c, s.dev.tileUp (tileOf θ.b) = true → (s.dev.blk θ.b).svc ≠ .retired → (s.dev.thr θ).wait = .tag tag (some l) rd.val →
      (s.dev.thr θ).static = some c → l ≤ s.dev.wb → Runs (.twaitLimitExpiry θ) s fun t =>
        let k := s.dev.freeToken (tileOf θ.b)
        (t.dev.thr θ).wait = .none ∧ (t.dev.thr θ).op = some k ∧ (t.dev.thr θ).poison = false ∧
        (t.dev.thr θ).rx rd = (if rd.val = 0 then 0 else s.dev.wb % 65536 + 65536) ∧
        (t.dev.op k).used = true ∧ (t.dev.op k).kind = .item ∧ (t.dev.op k).ctx = c ∧ (t.dev.op k).slot = 0xFFFF ∧
        (t.dev.op k).deadline = none ∧ (t.dev.op k).status = none ∧ (∀ j, j ≠ k → t.dev.op j = s.dev.op j) ∧
        ThreadOnly θ s.dev t.dev ∧ Only [.blocks, .ops, .regs] s t)

/-- R104, R130, R131. An exception of a thread writes 0x1041, counts in GC_EXC_n, names core, thread and cause in
GC_LAST_EXC_n and ends the task as POISONED; an ECALL takes the thread to machine mode, from which MRET returns, and a
word that spells a Gwynnath instruction runs as that instruction; an array parity error does so with cause 0x42 under 0x1043,
and errors in three epochs within 1,000 powered hours ask for the block's retirement. -/
def Obligations.ExceptionsEndTheTask : Prop :=
  (∀ (θ : ThreadId) (cause : ExcCause) (s : State), s.dev.canRun θ (.taskException θ cause) = true → TrackersFree s.dev →
    (cause = .ebreak → s.dev.observed (s.dev.tPart θ) = false) → (∀ w, cause = .illegal w → gwDecode θ w = none) →
    cause ≠ .ecall → (cause = .mret → (s.dev.thr θ).machine = false) →
    let n := match cause with
      | .misaligned => 4
      | .ebreak => 3
      | _ => 2
    Runs (.taskException θ cause) s fun t =>
      Wrote s.dev t.dev (blkRec s.dev 2 0x1041 θ.b [θ.core.val, θ.thread.val, n, s.dev.tok θ] (s.dev.tPart θ)
        (s.dev.tCtx θ)) ∧
      Counted s.dev t.dev (R.gcExc θ.b) ∧
      t.dev.reg (R.gcLastExc θ.b) = θ.core.val + θ.thread.val * 4 + n * 256 ∧
      ((s.dev.op (s.dev.tok θ)).used = true → (s.dev.op (s.dev.tok θ)).status = none →
        (t.dev.op (s.dev.tok θ)).status = some stPoisoned ∧
        ((s.dev.op (s.dev.tok θ)).block = some θ.b → (s.dev.op (s.dev.tok θ)).thread = some (thrNum θ) →
          (s.dev.thr θ).static = none → (t.dev.thr θ).op = none)) ∧
      t.dev.retire = s.dev.retire ∧ Only [.poison, .blocks, .tiles, .ops, .regs, .log] s t) ∧
  (∀ (θ : ThreadId) (w : BitVec 32) (s : State), s.dev.canRun θ (.taskException θ (.illegal w)) = true →
    ∀ i, gwDecode θ w = some i → exec (.taskException θ (.illegal w)) s = exec i s) ∧
  (∀ (θ : ThreadId) (s : State),
    (s.dev.canRun θ (.taskException θ .ecall) = true → Runs (.taskException θ .ecall) s fun t =>
      t.dev.thr θ = { s.dev.thr θ with machine := true, moved := true } ∧ ThreadOnly θ s.dev t.dev ∧ Only [.blocks] s t) ∧
    (s.dev.canRun θ (.taskException θ .mret) = true → (s.dev.thr θ).machine = true →
      Runs (.taskException θ .mret) s fun t =>
      t.dev.thr θ = { s.dev.thr θ with machine := false, moved := true } ∧ ThreadOnly θ s.dev t.dev ∧ Only [.blocks] s t)) ∧
  ∀ (θ : ThreadId) (array : Fin 256) (s : State), (s.dev.blk θ.b).svc ≠ .retired → s.dev.tileUp (tileOf θ.b) = true →
    TrackersFree s.dev →
    let h := s.dev.chip.hours
    let old := (s.dev.blk θ.b).arrEp.filter fun e => h - e.2 ≤ 1000
    let all := if old.any (·.1 = s.dev.epoch + 1) then old else old ++ [(s.dev.epoch + 1, h)]
    Runs (.coreArrayParity θ array) s fun t =>
      Counted s.dev t.dev (R.gcArrayErr θ.b) ∧ (t.dev.blk θ.b).arrEp = all ∧
      (∀ k, (s.dev.thr θ).op = some k → (s.dev.op k).used = true → (s.dev.op k).status = none →
        (t.dev.op k).status = some stPoisoned ∧ Counted s.dev t.dev (R.gcExc θ.b)) ∧
      (¬ (old.length < 3 ∧ all.length = 3) → t.dev.retire = s.dev.retire ∧
        Wrote s.dev t.dev (blkRec s.dev 2 0x1043 θ.b [θ.core.val, θ.thread.val, array.val])) ∧
      (old.length < 3 → all.length = 3 → t.dev.retire.any (·.1 = θ.b) = true) ∧
      Only [.poison, .blocks, .tiles, .ops, .regs, .log, .retire] s t

/-- R126 to R129. A scrub pass counts in SP_SCRUB_n and its block, and a word corrected in two passes
running makes its row due; a repair takes the lowest free spare row of the bank with 0x2082, the last
one with 0x2084 besides, and with none left it asks for the block's retirement with 0x2083. -/
def Obligations.ScrubAndRowRepair : Prop :=
  (∀ (b : Fin 144) (s : State), (s.dev.blk b).svc ≠ .retired → Runs (.scrubPassComplete b []) s fun t =>
    t.dev.reg (R.spScrub b) = (s.dev.reg (R.spScrub b) + 1) % 65536 ∧
    (t.dev.blk b).passes = ((s.dev.blk b).passes + 1) % 65536 ∧ (t.dev.blk b).scrubbed = [] ∧
    (t.dev.blk b).rowDue = (s.dev.blk b).rowDue ∧ RegsBut [R.spScrub b] s.dev t.dev ∧
    BlocksBut b s.dev t.dev ∧ Only [.regs, .blocks] s t) ∧
  (∀ (b : Fin 144) (f : EccFinding) (s : State), (s.dev.blk b).svc ≠ .retired → target f.addr = .spad b →
    f.double = false → Runs (.scrubPassComplete b [f]) s fun t =>
    let p := spPlace (spadOff f.addr)
    Counted s.dev t.dev (R.spCe b) ∧
    Wrote s.dev t.dev (blkRec s.dev 1 0x2080 b [p.1, p.2.1, p.2.2.1, p.2.2.2, f.syndrome.val]) ∧
    (t.dev.blk b).scrubbed = [f.addr.val / 8] ∧
    (f.addr.val / 8 ∈ (s.dev.blk b).scrubbed → rowKey p.1 p.2.1 p.2.2.1 ∈ (t.dev.blk b).rowDue) ∧
    RegsBut [R.spScrub b, R.spCe b, R.spLastErr b, R.hpEvlogLost] s.dev t.dev ∧
    BlocksBut b s.dev t.dev ∧ Only [.regs, .blocks, .log] s t) ∧
  ∀ (b : Fin 144) (sp : Fin 5) (bank : Fin 16) (row : Fin 64) (s : State),
    let r := rowKey sp bank row
    let used := tget (fun _ => 0) (s.dev.blk b).spares (sp.val * 16 + bank.val)
    r ∈ (s.dev.blk b).rowDue → Runs (.rowRepair b sp bank row) s fun t =>
      r ∉ (t.dev.blk b).rowDue ∧ BlocksBut b s.dev t.dev ∧ RegsBut [R.hpEvlogLost] s.dev t.dev ∧
      Only [.regs, .blocks, .log, .retire] s t ∧
      (used < 4 → (t.dev.blk b).rows = (s.dev.blk b).rows ++ [r] ∧
        tget (fun _ => 0) (t.dev.blk b).spares (sp.val * 16 + bank.val) = used + 1 ∧ t.dev.retire = s.dev.retire) ∧
      (used < 3 → Wrote s.dev t.dev (blkRec s.dev 0 0x2082 b [sp.val, bank.val, row.val, 3 - used])) ∧
      (used = 3 → t.dev.log.total = s.dev.log.total + 2) ∧
      (4 ≤ used → (t.dev.blk b).rows = (s.dev.blk b).rows ∧
        Wrote s.dev t.dev (blkRec s.dev 5 0x2083 b [sp.val, bank.val, row.val]) ∧
        ((s.dev.blk b).svc ≠ .retired → t.dev.retire.any (·.1 = b.val) = true))

/-! ## Queues, contexts and partitions -/

/-- R133 to R135, R151, R152, R156. QM_QENABLE on a DISABLED queue checks its entry: it becomes ENABLED, or
ERROR with 0xA005 and the first reason that applies; QM_QDISABLE drains or ends an ENABLED queue with 0xA002
at its end, and returns a queue in ERROR to DISABLED. No byte of memory outside word 0 of the entry changes. -/
def Obligations.QueueEnableAndDisable : Prop :=
  ∀ (mode : Bool) (s : State), s.dev.hostReq = 0 →
    let q := s.dev.qSel
    let d := s.dev.qSet q 0 2 1 (b2n mode)
    (s.dev.qState q = 0 → s.dev.disBusy (queueObj q) = false → Runs (.queueEnable mode) s fun t =>
      t.dev.qState q = (if d.qCheck q = 0 then 1 else 3) ∧ t.dev.qMode q = mode ∧
      (d.qCheck q = 0 → t.dev.log = s.dev.log ∧ (q ∈ t.dev.qm.live) ∧
        (s.dev.qHead q ≠ s.dev.qTail q → q ∈ t.dev.qm.cache ∨ q ∈ t.dev.qm.pendMap)) ∧
      (d.qCheck q ≠ 0 → Wrote s.dev t.dev (regRec s.dev 5 0xA005 4 0xFF [q, d.qCheck q])) ∧
      MemBut (s.dev.qAddr q) 8 s.dev t.dev ∧ RegsBut [R.qmDbMiss, R.qmCqHold, R.hpEvlogLost] s.dev t.dev ∧
      Only [.mem, .poison, .enc, .qm, .regs, .log] s t) ∧
    (s.dev.qState q = 1 → (∀ e ∈ s.dev.qm.disabling, s.dev.covered e.obj ≠ []) → Runs (.queueDisable mode) s fun t =>
      (s.dev.covered (queueObj q) = [] → t.dev.qState q = 0 ∧ q ∉ t.dev.qm.live ∧
        t.dev.qm.disabling = s.dev.qm.disabling ∧ Wrote s.dev t.dev (regRec s.dev 0 0xA002 4 0xFF [q, 0]) ∧
        MemBut (s.dev.qAddr q) 8 s.dev t.dev ∧ RegsBut [R.hpEvlogLost] s.dev t.dev) ∧
      (s.dev.covered (queueObj q) ≠ [] → mode = false → t.dev.qState q = 2 ∧ t.dev.log = s.dev.log ∧
        t.dev.qm.disabling = s.dev.qm.disabling ++ [{ obj := queueObj q, abort := false, limit := s.dev.nextFrame }] ∧
        MemBut (s.dev.qAddr q) 8 s.dev t.dev ∧ t.dev.regs = s.dev.regs ∧ t.dev.ops = s.dev.ops)) ∧
    (s.dev.qState q = 3 → s.dev.disBusy (queueObj q) = false → Runs (.queueDisable mode) s fun t =>
      t.dev.qState q = 0 ∧ t.dev.qMode q = mode ∧ MemBut (s.dev.qAddr q) 8 s.dev t.dev ∧
      Only [.mem, .poison, .enc, .qm] s t)

/-- R136, R138, R149. A 64-bit doorbell within the ring and not behind the tail sets TAIL and is announced;
another is counted and recorded, and a queue that is not enabled goes to ERROR; a completion doorbell sets
the context's head, or is counted and recorded; a 32-bit write of either is counted and does nothing else. -/
def Obligations.DoorbellsAreAcceptedOrRejected : Prop :=
  ∀ (v : DWord) (s : State), s.dev.hostReq = 0 →
    let q := bits v.toNat 0 18
    let tl := bits v.toNat 32 32
    let c := bits v.toNat 0 12
    let ok := (tl + 2 ^ 32 - s.dev.qHead q) % 2 ^ 32 ≤ s.dev.qSize q ∧ (tl + 2 ^ 32 - s.dev.qTail q) % 2 ^ 32 < 2 ^ 31
    (ok → Runs (.qmDoorbell v true) s fun t =>
      t.dev.qTail q = tl ∧ t.dev.qHead q = s.dev.qHead q ∧
      (tl ≠ s.dev.qTail q → (q ∈ t.dev.qm.cache ∨ q ∈ t.dev.qm.pendMap) ∧ (q, tl, s.dev.wb) ∈ t.dev.qm.announced) ∧
      (tl = s.dev.qTail q → s.dev.qHead q = tl → s.dev.qOps q = [] → q ∉ t.dev.qm.cache) ∧
      MemBut (s.dev.qAddr q + 16) 8 s.dev t.dev ∧ RegsBut [R.qmDbMiss, R.qmCqHold] s.dev t.dev ∧
      Only [.mem, .poison, .enc, .qm, .regs] s t) ∧
    (¬ ok → s.dev.qState q = 0 ∨ s.dev.qState q = 3 → Runs (.qmDoorbell v true) s fun t =>
      t.dev.qState q = 3 ∧ t.dev.qTail q = s.dev.qTail q ∧ Counted s.dev t.dev R.qmDbErr ∧
      Wrote s.dev t.dev (regRec s.dev 5 0xA001 4 0xFF [q, s.dev.qTail q, tl]) ∧
      MemBut (s.dev.qAddr q) 8 s.dev t.dev ∧ RegsBut [R.qmDbErr, R.hpEvlogLost] s.dev t.dev ∧
      Only [.mem, .poison, .enc, .qm, .regs, .log] s t) ∧
    (¬ ok → s.dev.qState q = 1 → (∀ e ∈ s.dev.qm.disabling, s.dev.covered e.obj ≠ []) →
      s.dev.covered (queueObj q) = [] → Runs (.qmDoorbell v true) s fun t =>
      t.dev.qState q = 3 ∧ t.dev.qTail q = s.dev.qTail q ∧ Counted s.dev t.dev R.qmDbErr ∧
      t.dev.log.total = s.dev.log.total + 2 ∧ MemBut (s.dev.qAddr q) 8 s.dev t.dev ∧
      RegsBut [R.qmDbErr, R.hpEvlogLost] s.dev t.dev) ∧
    (Runs (.qmDoorbell v false) s fun t =>
      Counted s.dev t.dev R.qmDbErr ∧ RegsBut [R.qmDbErr] s.dev t.dev ∧ Only [.regs] s t) ∧
    ((s.dev.ctx c).serving = false →
      (tl + 2 ^ 32 - (s.dev.ctx c).head) % 2 ^ 32 ≤ ((s.dev.ctx c).tail + 2 ^ 32 - (s.dev.ctx c).head) % 2 ^ 32 →
      Runs (.qmCqDoorbell v true) s fun t =>
        t.dev.ctx c = { s.dev.ctx c with head := tl } ∧ (∀ k, k ≠ c → t.dev.ctx k = s.dev.ctx k) ∧
        RegsBut [R.qmCqHold] s.dev t.dev ∧ Only [.ctxs, .qm, .regs] s t) ∧
    ((s.dev.ctx c).serving = true ∨
      ((s.dev.ctx c).tail + 2 ^ 32 - (s.dev.ctx c).head) % 2 ^ 32 < (tl + 2 ^ 32 - (s.dev.ctx c).head) % 2 ^ 32 →
      Runs (.qmCqDoorbell v true) s fun t =>
        Counted s.dev t.dev R.qmDbErr ∧ Wrote s.dev t.dev (regRec s.dev 5 0xA011 4 0xFF [c, (s.dev.ctx c).tail, tl]) ∧
        RegsBut [R.qmDbErr, R.hpEvlogLost] s.dev t.dev ∧ Only [.regs, .log] s t) ∧
    (Runs (.qmCqDoorbell v false) s fun t =>
      Counted s.dev t.dev R.qmDbErr ∧ RegsBut [R.qmDbErr] s.dev t.dev ∧ Only [.regs] s t)

/-- R143, R144, R152, R156. CONTEXT_LOAD of a free context takes the image or writes 0xA005 with the first
reason; CONTEXT_DISABLE of an active one begins its disable, which ends at once with 0xA003 where nothing
is in flight; a static context answers with 0xA005, reason 2. -/
def Obligations.ContextLoadAndDisable : Prop :=
  ∀ (s : State), s.dev.hostReq = 0 →
    let c := s.dev.cSel
    ((s.dev.ctx c).static = false → s.dev.disBusy (ctxObj c) = false → s.dev.ctxCheck c = 0 →
      Runs .contextLoad s fun t =>
        t.dev.ctx c = ctxOf (s.dev.ctxImage s.dev.cImg) ∧ (∀ k, k ≠ c → t.dev.ctx k = s.dev.ctx k) ∧ Only [.ctxs] s t) ∧
    ((s.dev.ctx c).static = false → s.dev.disBusy (ctxObj c) = false → s.dev.ctxCheck c ≠ 0 →
      Runs .contextLoad s fun t =>
        Wrote s.dev t.dev (regRec s.dev 5 0xA005 4 0xFF [c, s.dev.ctxCheck c]) ∧
        RegsBut [R.hpEvlogLost] s.dev t.dev ∧ Only [.regs, .log] s t) ∧
    ((s.dev.ctx c).static = true → Runs .contextDisable s fun t =>
        Wrote s.dev t.dev (regRec s.dev 5 0xA005 4 0xFF [c, 2]) ∧ RegsBut [R.hpEvlogLost] s.dev t.dev ∧
        Only [.regs, .log] s t) ∧
    ((s.dev.ctx c).static = false → (s.dev.ctx c).state = 1 → (∀ e ∈ s.dev.qm.disabling, s.dev.covered e.obj ≠ []) →
      s.dev.ctxPools c = [] → (∀ x ∈ s.dev.tiles, ∀ v ∈ x.2.saves, ∀ q ∈ v.2.pools, q.2.ctx ≠ c) → OpsOk s.dev →
      s.dev.ctxQueues c = [] →
      (s.dev.covered (ctxObj c) = [] → Runs .contextDisable s fun t =>
        t.dev.ctx c = {} ∧ (∀ k, k ≠ c → t.dev.ctx k = s.dev.ctx k) ∧
        Wrote s.dev t.dev (regRec s.dev 0 0xA003 4 0xFF [c, 0]) ∧ t.dev.qm = s.dev.qm ∧ t.dev.mem = s.dev.mem) ∧
      (s.dev.covered (ctxObj c) ≠ [] → (s.dev.ctx c).abort = false → Runs .contextDisable s fun t =>
        t.dev.ctx c = { s.dev.ctx c with state := 2 } ∧ (∀ k, k ≠ c → t.dev.ctx k = s.dev.ctx k) ∧
        t.dev.qm.disabling = s.dev.qm.disabling ++ [{ obj := ctxObj c, abort := false, limit := s.dev.nextFrame }] ∧
        Only [.ctxs, .qm] s t))

/-- R151 to R153. PARTITION_DISABLE of an enabled dynamic partition clears EN and begins its disable, which
ends at once with 0xA004 where nothing is in flight; the writes change nothing of a static partition (R460);
PARTITION_ENABLE sets EN and returns a stopped partition; at the limit of a drain nothing of the object stays in flight. -/
def Obligations.PartitionsStopAndStart : Prop :=
  (∀ (p : Fin 64) (mode : Bool) (s : State), s.dev.hostReq = 0 →
    ((s.dev.part p).static = true → exec (.partitionDisable p mode) s = .next s ∧ exec (.partitionEnable p mode) s = .next s) ∧
    ((s.dev.part p).static = false → (s.dev.part p).shed = false → (s.dev.part p).off = 1 →
      (∀ e ∈ s.dev.qm.disabling, s.dev.covered e.obj ≠ []) →
      (s.dev.covered (.partition p) = [] → Runs (.partitionDisable p mode) s fun t =>
        t.dev.part p = { s.dev.part p with off := 3 } ∧ (∀ k, k ≠ p.val → t.dev.part k = s.dev.part k) ∧
        t.dev.fld (R.qmPctl p) 0 1 = 0 ∧ t.dev.fld (R.qmPctl p) 1 1 = b2n mode ∧
        Wrote s.dev t.dev (regRec s.dev 0 0xA004 4 0xFF [p.val, 0]) ∧
        RegsBut [R.qmPctl p, R.hpEvlogLost] s.dev t.dev ∧ t.dev.qm = s.dev.qm ∧ t.dev.mem = s.dev.mem) ∧
      (s.dev.covered (.partition p) ≠ [] → mode = false → Runs (.partitionDisable p mode) s fun t =>
        t.dev.part p = { s.dev.part p with off := 2 } ∧ (∀ k, k ≠ p.val → t.dev.part k = s.dev.part k) ∧
        t.dev.fld (R.qmPctl p) 0 1 = 0 ∧ RegsBut [R.qmPctl p] s.dev t.dev ∧
        t.dev.qm.disabling = s.dev.qm.disabling ++ [{ obj := .partition p, abort := false, limit := s.dev.nextFrame }] ∧
        Only [.parts, .qm, .regs] s t)) ∧
    ((s.dev.part p).static = false → (s.dev.disBusy (.partition p) = false ∨ (s.dev.part p).shed = true) → Runs (.partitionEnable p mode) s fun t =>
      t.dev.fld (R.qmPctl p) 0 1 = 1 ∧ t.dev.fld (R.qmPctl p) 1 1 = b2n mode ∧
      t.dev.part p = (if (s.dev.part p).shed = false ∧ (s.dev.part p).off = 3 then
        { s.dev.part p with off := 1 } else s.dev.part p) ∧
      (∀ k, k ≠ p.val → t.dev.part k = s.dev.part k) ∧ RegsBut [R.qmPctl p] s.dev t.dev ∧ Only [.parts, .regs] s t)) ∧
  ∀ (o : DisObj) (s : State), (∃ e ∈ s.dev.qm.disabling, e.obj = o ∧ e.limit ≤ s.dev.wb) →
    (∀ k ∈ s.dev.covered o, (s.dev.op k).kind ≠ .request) →
    (∀ b n, ((s.dev.blk b).thr n).static = none) → OpsOk s.dev →
    Runs (.drainLimit o) s fun t =>
      (∀ k ∈ s.dev.covered o, (t.dev.op k).used = true ∧
        (t.dev.op k).status = some (((s.dev.op k).status).getD stAborted)) ∧
      (∀ k, k ∉ s.dev.covered o → (t.dev.op k).status = (s.dev.op k).status)

/-- R153, R154, R170. QM_MIRROR_CTL and QM_ACCT_CTL write their enable bit alone, and the second decides
whether operations are accounted. -/
def Obligations.MirrorAndAccountingControls : Prop :=
  ∀ (en : Bool) (s : State),
    (s.dev.hostReq = 0 → (Runs (.qmMirrorCtl en) s fun t =>
      t.dev.fld R.qmMirrorCtl 0 1 = b2n en ∧ t.dev.fld R.qmMirrorCtl 1 31 = s.dev.fld R.qmMirrorCtl 1 31 ∧
      RegsBut [R.qmMirrorCtl] s.dev t.dev ∧ Only [.regs] s t) ∧
    Runs (.qmAcctCtl en) s fun t =>
      t.dev.fld R.qmAcctCtl 0 1 = b2n en ∧ t.dev.fld R.qmAcctCtl 1 31 = s.dev.fld R.qmAcctCtl 1 31 ∧
      t.dev.qm = { s.dev.qm with acctOn := en } ∧ RegsBut [R.qmAcctCtl] s.dev t.dev ∧ Only [.regs, .qm] s t) ∧
    (s.dev.hostReq = 1 → ∀ c ∈ [Instr.qmMirrorCtl en, .qmAcctCtl en, .queueEnable en, .queueDisable en, .contextLoad,
        .contextDisable], Runs c s fun t =>
      Counted s.dev t.dev R.hpUr ∧ RegsBut [R.hpUr] s.dev t.dev ∧ Only [.regs] s t)

/-- R139 to R141. A pull takes the next descriptor of the queue the fairness mode picks: HEAD advances by
one modulo 2^32, a TASK waits at dispatch with what its descriptor says, a FENCE or a request takes a
tracker entry, and a descriptor in error ends as POISONED with 0xA010, or as FIREWALL_DENIED where it may not be read
(R181, R472).
R139 to R142, R146, R149, R150, R161. A module in operation whose doorbell cache holds one queue, enabled, with a
valid TASK next that its context, its partition and a tile it may use take, pulls that descriptor: DESCRIPTOR_PULL
completes, HEAD advances, and the TASK waits at dispatch. -/
def Obligations.DescriptorPullTakesTheNextDescriptor : Prop :=
  (∀ (q : Nat) (s : State),
     let w := s.dev.descWord q (s.dev.qHead q)
     let x := s.dev.ctx (s.dev.qCtx q)
     let p := s.dev.part x.part
     s.dev.live = true → s.dev.qm.cache = [q] → s.dev.qState q = 1 → s.dev.qHead q ≠ s.dev.qTail q → x.state = 1 →
     p.off = 1 → p.shed = false → s.dev.cqHeld (s.dev.qCtx q) = false → (x.cqHost = true → s.dev.host.up = true) →
     s.dev.srv.fairAct = 0 → bits (w 0) 0 8 = 1 → s.dev.pullError q = 0 →
     (∃ t ∈ tilesOf (bits (w 0) 12 4), 0 < s.dev.dynFree t ∧ s.dev.blksFull t x.part = false) →
     ∃ t, exec .descriptorPull s = .next t ∧
       t.dev.qHead q = (s.dev.qHead q + 1) % 2 ^ 32 ∧ t.dev.qTail q = s.dev.qTail q ∧
       t.dev.qm.dispatch = s.dev.qm.dispatch ++ [waitKey + s.dev.qm.nextOrder] ∧
       (t.dev.op (waitKey + s.dev.qm.nextOrder)).used = true ∧ (t.dev.op (waitKey + s.dev.qm.nextOrder)).kind = .task ∧
       (t.dev.op (waitKey + s.dev.qm.nextOrder)).queue = q ∧
       (t.dev.op (waitKey + s.dev.qm.nextOrder)).entry = bits (w 2) 0 40 ∧
       t.dev.log = s.dev.log ∧ Only [.mem, .poison, .enc, .qm, .ops, .regs] s t) ∧
  ∀ (q : Nat) (d : Dev) (s : State), s.dev.pick = some (q, d) →
    let n := s.dev.qHead q
    let w := fun i => s.dev.descWord q n i
    let x := s.dev.ctx (s.dev.qCtx q)
    (bits (w 0) 0 8 = 1 → s.dev.pullError q = 0 → Runs .descriptorPull s fun t =>
      let k := waitKey + s.dev.qm.nextOrder
      t.dev.qHead q = (n + 1) % 2 ^ 32 ∧ t.dev.qTail q = s.dev.qTail q ∧ MemBut (s.dev.qAddr q + 16) 8 s.dev t.dev ∧
      t.dev.qm.nextOrder = s.dev.qm.nextOrder + 1 ∧ t.dev.qm.dispatch = s.dev.qm.dispatch ++ [k] ∧
      (t.dev.op k).used = true ∧ (t.dev.op k).kind = .task ∧ (t.dev.op k).queue = q ∧
      (t.dev.op k).ctx = s.dev.qCtx q ∧ (t.dev.op k).part = x.part ∧ (t.dev.op k).slot = n % s.dev.qSize q ∧
      (t.dev.op k).tag = BitVec.ofNat 64 (w 1) ∧ (t.dev.op k).entry = bits (w 2) 0 40 ∧
      (t.dev.op k).arg0 = BitVec.ofNat 64 (w 3) ∧ (t.dev.op k).arg1 = BitVec.ofNat 64 (w 6) ∧
      (t.dev.op k).arg2 = BitVec.ofNat 64 (w 7) ∧ (t.dev.op k).ordered = bit (w 0) 8 ∧
      (t.dev.op k).deadlineWb = bits (w 0) 32 16 ∧ (t.dev.op k).status = none ∧
      (∀ j, j ≠ k → t.dev.op j = s.dev.op j) ∧ Only [.mem, .poison, .enc, .qm, .srv, .ops, .regs, .log] s t) ∧
    (∀ g r26, s.dev.descRefusal q n = some (g, r26) → s.dev.srv.fairAct ≠ 1 → Runs .descriptorPull s fun t =>
      t.dev.qHead q = (n + 1) % 2 ^ 32 ∧ MemBut (s.dev.qAddr q + 16) 8 s.dev t.dev ∧ Counted s.dev t.dev R.secFwDeny ∧
      ∃ k, (t.dev.op k).used = true ∧ (t.dev.op k).kind = .rejected ∧ (t.dev.op k).status = some stDenied ∧
        (t.dev.op k).queue = q) ∧
    (s.dev.pullError q ≠ 0 → s.dev.descRefusal q n = none → s.dev.srv.fairAct ≠ 1 → Runs .descriptorPull s fun t =>
      t.dev.qHead q = (n + 1) % 2 ^ 32 ∧ MemBut (s.dev.qAddr q + 16) 8 s.dev t.dev ∧
      Wrote s.dev t.dev (regRec s.dev 2 0xA010 4 0xFF [q, n % s.dev.qSize q, s.dev.pullError q]) ∧
      (∃ k, (t.dev.op k).used = true ∧ (t.dev.op k).kind = .rejected ∧ (t.dev.op k).status = some stPoisoned ∧
        (t.dev.op k).queue = q ∧ (t.dev.op k).tag = BitVec.ofNat 64 (w 1)) ∧
      Only [.mem, .poison, .enc, .qm, .ops, .regs, .log] s t) ∧
    (bits (w 0) 0 8 = 3 → s.dev.pullError q = 0 → Runs .descriptorPull s fun t =>
      t.dev.qHead q = (n + 1) % 2 ^ 32 ∧ MemBut (s.dev.qAddr q + 16) 8 s.dev t.dev ∧
      (∃ k, (t.dev.op k).used = true ∧ (t.dev.op k).kind = .fence ∧ (t.dev.op k).status = none ∧
        (t.dev.op k).queue = q ∧ (t.dev.op k).order = s.dev.qm.nextOrder) ∧
      Only [.mem, .poison, .enc, .qm, .srv, .ops, .regs, .log] s t) ∧
    (bits (w 0) 0 8 = 2 → s.dev.pullError q = 0 → (entryInst (bits (w 2) 0 40)).isSome = true →
      Runs .descriptorPull s fun t =>
        ∃ k, (t.dev.op k).used = true ∧ (t.dev.op k).kind = .request ∧ (t.dev.op k).queue = q ∧
          (t.dev.op k).tag = BitVec.ofNat 64 (w 1))

/-- R110, R139, R145, R162, R163. The first waiting operation that can be placed leaves the list: a TASK
takes a tracker entry and the thread the placement rules give it, with its arguments in x10 to x12 and the
pc at its entry; an operation of a hub unit takes an entry. -/
def Obligations.DispatchPlacesTheOldestOperation : Prop :=
  ∀ (k : Nat) (rest : List Nat) (s : State), s.dev.live = true → (∀ t < 4, s.dev.replaceOne t = none) →
    s.dev.qm.dispatch = k :: rest → k ∉ rest → (s.dev.op k).status = none → s.dev.inOrder k = true →
    let o := s.dev.op k
    (∀ b m n, o.kind = .task → s.dev.place o = (some b, m) → (s.dev.blk b).freeThread = some n →
      Runs .operationDispatch s fun t =>
        let tok := (s.dev.setOp k {}).freeToken (tileOf b)
        t.dev.qm.dispatch = rest ∧
        t.dev.op tok = { o with
          used := true, placed := true, block := some b, thread := some n, waitWb := min 0xFFFF (s.dev.wb - o.annW)
          deadline := if o.deadlineWb = 0 then none else some (s.dev.wb + o.deadlineWb) } ∧
        (k ≠ tok → (t.dev.op k).used = false) ∧ (∀ j, j ≠ tok → j ≠ k → t.dev.op j = s.dev.op j) ∧
        ((t.dev.blk b).thr n).op = some tok ∧ ((t.dev.blk b).thr n).pc = o.entry ∧
        ((t.dev.blk b).thr n).rx 10 = o.arg0.toNat ∧ ((t.dev.blk b).thr n).rx 11 = o.arg1.toNat ∧
        ((t.dev.blk b).thr n).rx 12 = o.arg2.toNat ∧ ((t.dev.blk b).thr n).windows = (s.dev.ctx o.ctx).windows ∧
        (t.dev.blk b).part = some o.part ∧ (∀ m, m ≠ n → (t.dev.blk b).thr m = (s.dev.blk b).thr m) ∧
        (t.dev.ctx o.ctx).lastBlk = some b ∧ BlocksBut b s.dev t.dev ∧
        Only [.ops, .qm, .srv, .blocks, .ctxs, .regs] s t) ∧
    (o.kind = .hubUnit → (∃ t < 4, 0 < s.dev.dynFree t) → Runs .operationDispatch s fun t =>
        t.dev.qm.dispatch = rest ∧ t.dev.blocks = s.dev.blocks ∧
        (∃ tok, t.dev.op tok = { o with
          used := true, kind := s.dev.hubUnit o.entry, placed := true, began := s.dev.time.now
          outs := s.dev.hubOuts (s.dev.hubUnit o.entry) o.entry, waitWb := min 0xFFFF (s.dev.wb - o.annW)
          deadline := if o.deadlineWb = 0 then none else some (s.dev.wb + o.deadlineWb) }) ∧
        Only [.ops, .qm, .regs] s t)

/-- R53, R77, R139, R147 to R149. A decided operation writes its record at its context's tail, in DRAM or to
the host in two writes, counts the tail and frees its tracker entry; a write that the firewall refuses leaves memory
as it is and is counted (R181, R472); a running task that ends by itself
does so with its own status; a fence whose queue's earlier operations are gone is DONE; a late operation, also one
that has ended well and whose record is not yet written, ends at the edge with DEADLINE_MISSED, a count and 0x1020,
and what it wrote is poisoned; a late request leaves its instance. -/
def Obligations.OperationsEndWithARecord : Prop :=
  (∀ (k : Fin 16384) (st : Nat) (s : State), (s.dev.op k).used = true → (s.dev.op k).launches = 0 →
    (s.dev.op k).status = some st → s.dev.overdue k = false → s.dev.qm.disabling = [] →
    let o := s.dev.op k
    let c := s.dev.ctx o.ctx
    let a := c.cqBase + 32 * (c.tail % 2 ^ c.cqLog2)
    (∀ g r26, c.state ≠ 0 → c.cqHost = false → s.dev.refusalAt 720 c.part o.cls a 32 true = some (g, r26) →
      Runs (.taskComplete k) s fun t => (t.dev.op k).used = false ∧ t.dev.mem = s.dev.mem ∧
        Counted s.dev t.dev R.secFwDeny) ∧
    (c.state ≠ 0 → (c.cqHost = true → s.dev.hostReady = true) →
     (c.cqHost = false → s.dev.refusalAt 720 c.part o.cls a 32 true = none) → Runs (.taskComplete k) s fun t =>
      (t.dev.op k).used = false ∧
      (∀ j, j ≠ k.val → { t.dev.op j with launches := 0, kids := [], savedWb := 0 } =
        { s.dev.op j with launches := 0, kids := [], savedWb := 0 }) ∧
      ((∀ x < 4, (s.dev.tile x).saves = []) → ∀ j, j ≠ k.val → t.dev.op j = s.dev.op j) ∧
      (t.dev.ctx o.ctx).tail = (c.tail + 1) % 2 ^ 32 ∧ (∀ j, j ≠ o.ctx → t.dev.ctx j = s.dev.ctx j) ∧
      (c.cqHost = false → Holds t.dev a (s.dev.record k (finalStatus o st)) ∧ MemBut a 32 s.dev t.dev ∧
        t.dev.out = s.dev.out) ∧
      (c.cqHost = true → t.dev.mem = s.dev.mem ∧
        t.dev.out = ((s.dev.hostWrite a ((s.dev.record k (finalStatus o st)).take 28)).hostWrite (a + 28)
          ((s.dev.record k (finalStatus o st)).drop 28)).out) ∧
      RegsBut [R.qmCqHold] s.dev t.dev ∧
      Only [.mem, .poison, .enc, .out, .qm, .ctxs, .ops, .srv, .pl, .tiles, .regs] s t)) ∧
  (∀ (k : Fin 16384) (st b n : Nat) (s : State), (s.dev.op k).used = true → (s.dev.op k).launches = 0 →
    (s.dev.op k).status = none → (s.dev.op k).block = some b → (s.dev.op k).thread = some n →
    s.dev.taskEnd k = some st → ((s.dev.blk b).thr n).static = none → s.dev.qm.disabling = [] →
    let o := s.dev.op k
    let c := s.dev.ctx o.ctx
    let a := c.cqBase + 32 * (c.tail % 2 ^ c.cqLog2)
    c.state ≠ 0 → c.cqHost = false → s.dev.refusalAt 720 c.part o.cls a 32 true = none →
    (∀ x, a ≤ x → x < a + 32 → target x = .dram) → Runs (.taskComplete k) s fun t =>
      (t.dev.op k).used = false ∧ ((t.dev.blk b).thr n).op = none ∧
      (t.dev.ctx o.ctx).tail = (c.tail + 1) % 2 ^ 32 ∧
      (t.dev.rd (a + 16)).toNat = finalStatus o st % 256 ∧ MemBut a 32 s.dev t.dev ∧
      ∀ j, j ≠ b → { t.dev.blk j with waiters := [] } = { s.dev.blk j with waiters := [] }) ∧
  (∀ (k : Fin 16384) (s : State), (s.dev.op k).used = true → (s.dev.op k).kind = .fence → (s.dev.op k).status = none →
    (∀ e ∈ s.dev.ops, e.2.used = true → e.2.queue = (s.dev.op k).queue → e.2.static = false →
      (s.dev.op k).order ≤ e.2.order) → Runs (.fenceComplete k) s fun t =>
      t.dev.op k = { s.dev.op k with status := some stDone } ∧ (∀ j, j ≠ k.val → t.dev.op j = s.dev.op j) ∧
      Only [.ops] s t) ∧
  ∀ (k : Fin 16384) (w : Nat) (s : State), (s.dev.op k).used = true →
    (∀ st, (s.dev.op k).status = some st → outputValid st = true) →
    (s.dev.op k).deadline = some w → w ≤ s.dev.wb → TrackersFree s.dev →
    (∀ e ∈ s.dev.blocks, ∀ x ∈ e.2.eng, x.token = k.val → s.dev.holding e.1 x = false) → Runs (.deadlineAbandon k) s fun t =>
      (t.dev.op k).status = some stDeadline ∧ Counted s.dev t.dev R.tkDeadlineMiss ∧
      Wrote s.dev t.dev (match (s.dev.op k).block with
        | some b => blkRec s.dev 2 0x1020 b [k.val, w] (s.dev.op k).part (s.dev.op k).ctx
        | none => regRec s.dev 2 0x1020 (tokTile k) 0xFF [k.val, w] (s.dev.op k).part (s.dev.op k).ctx) ∧
      ((s.dev.op k).kind ≠ .request →
        (∀ r ∈ (s.dev.op k).outs, ∀ g ∈ granules r.1 r.2, t.dev.poisoned (g * 64) = true) ∧
        ((∀ e ∈ s.dev.blocks, ∀ x ∈ e.2.eng, x.token ≠ k.val) → t.dev.mem = s.dev.mem)) ∧
      ((s.dev.op k).kind = .request → (s.dev.op k).status = none →
        let i := (s.dev.req k).inst
        t.dev.req k = { inst := i } ∧ k.val ∉ (t.dev.inst i).waiting ∧ k.val ∉ (t.dev.inst i).admitted)

/-- R164 to R169. A pre-emption stops the block's engine and its dynamic tasks with a save slot, or aborts
them with 0xA041 where no slot is free; its save copies the block's window into the slot and frees the
block; the oldest saved set returns from its slot; grants not published 100 µs after the start end with
0xA042. -/
def Obligations.PreemptionSavesAndResumes : Prop :=
  (∀ (b : Fin 144) (s : State), s.dev.live = true → (s.dev.blk b).preempt = none → s.dev.slotFar b 4 = false →
    s.dev.dynToks b ≠ [] → (s.dev.blk b).beats = [] →
    (∀ n, s.dev.saveSlot (tileOf b) = some n → Runs (.preemptionStart b) s fun t =>
      (t.dev.blk b).preempt = some { s := s.dev.wb + (s.dev.nextSlot b).getD 0, start := s.dev.time.now, slot := n } ∧
      (∀ e ∈ (t.dev.blk b).threads, e.2.static = none → e.2.op ≠ none → e.2.wait = .none) ∧
      (∀ j, { t.dev.blk j with preempt := none, threads := [], waiters := [] } =
        { s.dev.blk j with preempt := none, threads := [], waiters := [] }) ∧
      (∀ j, j ≠ b.val → (t.dev.blk j).threads = (s.dev.blk j).threads ∧ (t.dev.blk j).preempt = (s.dev.blk j).preempt) ∧
      Only [.blocks] s t) ∧
    (s.dev.saveSlot (tileOf b) = none → ((s.dev.dynToks b).filter s.dev.open_) ≠ [] → Runs (.preemptionStart b) s fun t =>
      (t.dev.blk b).preempt = none ∧ Counted s.dev t.dev (R.qmPreemptAbort (tileOf b)) ∧
      Wrote s.dev t.dev (blkRec s.dev 5 0xA041 b [b.val, ((s.dev.dynToks b).filter s.dev.open_).length]))) ∧
  (∀ (b : Fin 144) (p : Preempt) (s : State), (s.dev.blk b).preempt = some p → MemOk s.dev →
    (∀ q ∈ (s.dev.blk b).pools, ∀ g ∈ q.2.grants, g.2.2 = true) →
    (∀ e ∈ (s.dev.blk b).eng, e.static = true ∨ e.arb = none) → s.dev.time.now ≤ p.s * wingbeatNs → Runs (.saveComplete b) s fun t =>
      let a := s.dev.slotAddr (tileOf b) p.slot
      (∀ i, i < 0x100000 → t.dev.rd (a + i) = s.dev.rd (blockBase b + i)) ∧ MemBut a 0x100000 s.dev t.dev ∧
      (t.dev.blk b).preempt = none ∧ (t.dev.blk b).part = none ∧ (∀ e ∈ (t.dev.blk b).eng, e.static = true) ∧
      (∀ e ∈ (t.dev.blk b).threads, e.2.static = none → e.2.op = none) ∧
      (∃ x, (p.slot, x) ∈ (t.dev.tile (tileOf b)).saves ∧ x.block = b.val ∧ x.threads = s.dev.dynThreads b ∧
        x.sigs = (s.dev.blk b).sigs ∧ x.eng = (s.dev.blk b).eng.filter fun e => !e.static) ∧
      (∀ k ∈ (s.dev.dynToks b).filter s.dev.open_, (t.dev.op k).preempted = true ∧ (t.dev.op k).block = none ∧
        (t.dev.op k).saved = some (32 * tileOf b + p.slot)) ∧
      Counted s.dev t.dev (R.qmPreempt (tileOf b)) ∧ RegsBut [R.qmPreempt (tileOf b)] s.dev t.dev ∧
      BlocksBut b s.dev t.dev ∧ Only [.mem, .poison, .enc, .blocks, .tiles, .ops, .regs] s t) ∧
  (∀ (n : Fin 4) (slot b : Nat) (x : SavedSet) (s : State), s.dev.live = true → s.dev.tileUp n = true → MemOk s.dev →
    (s.dev.tile n).oldest = some (slot, x) → s.dev.resumeBlock n x = some b → Runs (.savedSetResume n) s fun t =>
      (∀ i, i < 0x100000 → t.dev.rd (blockBase b + i) = s.dev.rd (s.dev.slotAddr n slot + i)) ∧
      MemBut (blockBase b) 0x100000 s.dev t.dev ∧ (∀ e ∈ (t.dev.tile n).saves, e.1 ≠ slot) ∧
      (∀ h ∈ x.threads, ∀ k, h.2.op = some k → (t.dev.op k).block = some b ∧ (t.dev.op k).saved = none) ∧
      (x.waiters = [] → (s.dev.blk b).waiters = [] → (∀ e ∈ x.eng, e.stage = .firstDone → e.selected = true) →
        (t.dev.blk b).part = some x.part ∧ (t.dev.blk b).eng = (s.dev.blk b).eng ++ x.eng ∧ (t.dev.blk b).sigs = x.sigs ∧
        BlocksBut b s.dev t.dev ∧ Only [.mem, .poison, .blocks, .tiles, .ops, .ctxs] s t)) ∧
  ∀ (b : Fin 144) (p : Preempt) (s : State), (s.dev.blk b).preempt = some p → p.start + 100000 ≤ s.dev.time.now →
    Runs (.grantCancelAtPreemption b) s fun t =>
      (∀ n, ∀ g ∈ ((t.dev.blk b).pool n).grants, g.2.2 = true) ∧
      t.dev.log.total = s.dev.log.total +
        ((s.dev.blk b).pools.flatMap fun p => p.2.grants.filter fun g => !g.2.2).length

/-! ## Model serving -/

/-- R183 to R185, R199, R204 to R206. INSTANCE_LOAD with every check passed takes the descriptor, fills the
free stack and gives the context to the sequencer, or writes 0xA050 with its reason; INSTANCE_UNLOAD frees
an instance with nothing in flight at once; FAIR and the budgets are register writes.
R183 to R185, R199, R204. With the link up, the configuration locked and the Function in D0, the host's writes of
the sequencer's registers complete: a load that passes every check makes the instance ACTIVE with the parameters its
descriptor gives and its free stack full; an unload of an ACTIVE instance with nothing in flight frees it; QM_SRV_CTL.FAIR and
QM_BUDGET_c take the value written. -/
def Obligations.InstancesLoadAndUnload : Prop :=
  (∀ (s : State), s.dev.host.up = true → s.dev.chip.lock = true → s.dev.host.d3 = false →
     let i := s.dev.iSel
     let a := s.dev.idesc
     (∀ mode, s.dev.disBusy (instObj i) = false → s.dev.instCheck i = 0 →
       ∃ t, exec (.instanceLoad mode) s = .next t ∧ (t.dev.inst i).state = 1 ∧
         (t.dev.inst i).part = bits (s.dev.rdN a 8) 0 6 ∧ (t.dev.inst i).ctx = bits (s.dev.rdN a 8) 6 12 ∧
         (t.dev.inst i).entry = bits (s.dev.rdN (a + 8) 8) 0 40 ∧
         (t.dev.inst i).maxSeqs = bits (s.dev.rdN (a + 24) 8) 29 11 ∧
         (t.dev.inst i).kvFree = (t.dev.inst i).kvBlocks ∧ t.dev.log = s.dev.log) ∧
     (∀ mode, (s.dev.inst i).state = 1 → s.dev.qm.disabling = [] → s.dev.covered (instObj i) = [] →
       ∃ t, exec (.instanceUnload mode) s = .next t ∧ t.dev.inst i = {} ∧
         (∀ e, (t.dev.pfx e).valid = true → (t.dev.pfx e).inst ≠ i) ∧ t.dev.qm.disabling = [] ∧ t.dev.log = s.dev.log) ∧
     (∀ v, ∃ t, exec (.qmSrvCtlFair v) s = .next t ∧ t = { s with dev := s.dev.setFld R.qmSrvCtl 0 1 (b2n v) } ∧
       t.dev.fld R.qmSrvCtl 0 1 = b2n v) ∧
     ∀ (c : Fin 1024) (v : Word), ∃ t, exec (.qmBudget c v) s = .next t ∧
       t = { s with dev := s.dev.setReg (R.qmBudget c) v.toNat } ∧ t.dev.reg (R.qmBudget c) = v.toNat) ∧
  ∀ (s : State), s.dev.hostReq = 0 →
    let i := s.dev.iSel
    let v := s.dev.instOf s.dev.idesc
    (∀ mode, s.dev.disBusy (instObj i) = false → s.dev.instCheck i = 0 → Runs (.instanceLoad mode) s fun t =>
      t.dev.inst i = { v with key := Config.sipKey s.dev.free } ∧ (∀ j, j ≠ i → t.dev.inst j = s.dev.inst j) ∧
      (t.dev.ctx v.ctx).serving = true ∧ (∀ c, c ≠ v.ctx → t.dev.ctx c = s.dev.ctx c) ∧
      t.dev.fld R.qmSrvIctl 0 2 = 1 + 2 * b2n mode ∧ RegsBut [R.qmSrvIctl] s.dev t.dev ∧
      (∀ n, n < v.kvBlocks → t.dev.rdN (v.kvStack + 4 * n) 4 = v.kvBlocks - 1 - n) ∧
      (∀ x, ¬ (hubBase + Config.instOffset i % hubSize ≤ x ∧ x < hubBase + Config.instOffset i % hubSize + 256) →
        ¬ (v.kvStack ≤ x ∧ x < v.kvStack + 4 * v.kvBlocks) → t.dev.rd x = s.dev.rd x) ∧
      Only [.mem, .poison, .enc, .srv, .ctxs, .regs, .free] s t) ∧
    (∀ mode, s.dev.disBusy (instObj i) = false → s.dev.instCheck i ≠ 0 → Runs (.instanceLoad mode) s fun t =>
      Wrote s.dev t.dev (regRec s.dev 5 0xA050 4 0x30 [i, s.dev.instCheck i]) ∧
      RegsBut [R.qmSrvIctl, R.hpEvlogLost] s.dev t.dev ∧ Only [.regs, .log] s t) ∧
    (∀ mode, (s.dev.inst i).state = 0 → Runs (.instanceUnload mode) s fun t =>
      t.dev.fld R.qmSrvIctl 0 2 = 2 * b2n mode ∧ RegsBut [R.qmSrvIctl] s.dev t.dev ∧ Only [.regs] s t) ∧
    (∀ mode, (s.dev.inst i).state = 1 → (∀ e ∈ s.dev.qm.disabling, s.dev.covered e.obj ≠ []) →
      (s.dev.covered (instObj i) = [] → Runs (.instanceUnload mode) s fun t =>
        t.dev.inst i = {} ∧ (∀ j, j ≠ i → t.dev.inst j = s.dev.inst j) ∧
        (t.dev.ctx (s.dev.inst i).ctx).serving = ((List.range 8).any fun j => j != i && (s.dev.inst j).state != 0 &&
          (s.dev.inst j).ctx == (s.dev.inst i).ctx) ∧ t.dev.mem = s.dev.mem ∧ t.dev.log = s.dev.log) ∧
      (s.dev.covered (instObj i) ≠ [] → mode = false → Runs (.instanceUnload mode) s fun t =>
        t.dev.inst i = { s.dev.inst i with state := 2 } ∧ (∀ j, j ≠ i → t.dev.inst j = s.dev.inst j) ∧
        t.dev.qm.disabling = s.dev.qm.disabling ++ [{ obj := instObj i, abort := false, limit := s.dev.nextFrame }] ∧
        Only [.srv, .qm, .regs] s t)) ∧
    (∀ v, Runs (.qmSrvCtlFair v) s fun t =>
      t.dev.fld R.qmSrvCtl 0 1 = b2n v ∧ t.dev.fld R.qmSrvCtl 1 31 = s.dev.fld R.qmSrvCtl 1 31 ∧
      RegsBut [R.qmSrvCtl] s.dev t.dev ∧ Only [.regs] s t) ∧
    ∀ (c : Fin 1024) (v : Word), Runs (.qmBudget c v) s fun t =>
      t.dev.reg (R.qmBudget c) = v.toNat ∧ RegsBut [R.qmBudget c] s.dev t.dev ∧ Only [.regs] s t

/-- R189 to R193, R196, R202. A prefix lookup leaves a request with whole blocks matched and at least one
token to compute; a step boundary starts the main pass after a draft pass, runs a poisoned main pass once
more with 0xA052, and completes a request that has ended, whose KV blocks return to the pool. -/
def Obligations.LookupsAndStepBoundaries : Prop :=
  (∀ (k : Fin 16384) (s : State), (s.dev.op k).used = true → (s.dev.op k).status = none →
    (s.dev.req k).lookup = true → Runs (.prefixLookupDone k) s fun t =>
      let m := (t.dev.req k).matched
      (t.dev.req k).lookup = false ∧ m % 16 = 0 ∧ m ≤ (s.dev.req k).plen ∧
      (0 < (s.dev.req k).plen → m < (s.dev.req k).plen) ∧ (t.dev.req k).pos = m ∧
      (t.dev.req k).entries.length = m / 16 ∧ (t.dev.req k).kv.length = m / 16 ∧
      ((s.dev.req k).outHost = false → t.dev.rdN ((s.dev.req k).out + 4) 4 = m % 2 ^ 32) ∧
      (∀ j, j ≠ k.val → t.dev.req j = s.dev.req j) ∧
      Only [.mem, .poison, .enc, .srv, .regs, .log, .out, .host] s t) ∧
  (∀ (i : Fin 8) (s : State), s.dev.live = true → (s.dev.inst i).state = 1 ∨ (s.dev.inst i).state = 2 →
    (s.dev.inst i).running = [] → (s.dev.inst i).badKv = [] →
    let v := s.dev.inst i
    let ks := (List.range v.tasks).map (waitKey + s.dev.qm.nextOrder + ·)
    (v.step ≠ [] → v.pass = 0 → Runs (.stepBoundary i) s fun t =>
      (t.dev.inst i).pass = 1 ∧ (t.dev.inst i).steps = (v.steps + 1) % 2 ^ 32 ∧ (t.dev.inst i).running = ks ∧
      (t.dev.inst i).step = v.step ∧ t.dev.qm.dispatch = s.dev.qm.dispatch ++ ks ∧
      t.dev.qm.nextOrder = s.dev.qm.nextOrder + v.tasks ∧
      (∀ n, n < v.tasks → (t.dev.op (waitKey + s.dev.qm.nextOrder + n)).kind = .task ∧
        (t.dev.op (waitKey + s.dev.qm.nextOrder + n)).entry = v.entry ∧
        (t.dev.op (waitKey + s.dev.qm.nextOrder + n)).arg1 = BitVec.ofNat 64 n) ∧
      MemBut v.plan 64 s.dev t.dev ∧ (∀ j, j ≠ i.val → t.dev.inst j = s.dev.inst j) ∧
      RegsBut [R.qmCqHold] s.dev t.dev ∧ Only [.mem, .poison, .enc, .srv, .ops, .qm, .regs] s t) ∧
    (∀ x, v.step ≠ [] → v.pass = 1 → v.statuses.find? (fun e => !outputValid e.2) = some x →
      (∀ e ∈ v.statuses, e.2 ≠ stQuarantined ∧ e.2 ≠ stMemory) → Runs (.stepBoundary i) s fun t =>
      (t.dev.inst i).pass = 2 ∧ (t.dev.inst i).retry = min 0xFFFFFFFF (v.retry + 1) ∧ (t.dev.inst i).running = ks ∧
      (t.dev.inst i).step = v.step ∧ Wrote s.dev t.dev (regRec s.dev 2 0xA052 4 0x30 [i.val, v.stepNo, x.1]) ∧
      MemBut v.plan 64 s.dev t.dev ∧ RegsBut [R.qmCqHold, R.hpEvlogLost] s.dev t.dev) ∧
    (∀ k, v.statuses = [] → (v.step = [] ∨ v.pass ≠ 0) → v.charges = [] → v.waiting = [] → v.admitted = [k] →
      s.dev.qm.disabling = [] → (s.dev.req k).ended = true → (s.dev.req k).inst = i.val → (s.dev.req k).pfx = false →
      (s.dev.req k).entries = [] → s.dev.outStopped (s.dev.req k) = false → s.dev.rdN ((s.dev.req k).rec_ + 0x48) 8 = 0 →
      (s.dev.op k).used = true → (s.dev.op k).status = none → (s.dev.op k).kind = .request →
      Runs (.stepBoundary i) s fun t =>
        (t.dev.op k).status = some (if (s.dev.req k).unchecked then stUnchecked else stDone) ∧
        t.dev.req k = { inst := i.val } ∧ (t.dev.inst i).admitted = [] ∧ (t.dev.inst i).step = [] ∧
        (t.dev.inst i).kvFree = v.kvFree + (s.dev.req k).kv.length ∧ t.dev.log = s.dev.log ∧ t.dev.regs = s.dev.regs))

/-! ## Temporal redundancy -/

/-- R291, R292, R295, R296, R300, R305. A comparison without a difference ends the operation with its own
status and a count, one whose signatures were lost as POISONED with 0x7006; with a difference the operation
goes to the engine chosen for its third pass, waits for one, or ends as POISONED with 0x7003 for want of
time. Strikes expire after 1,000 powered hours; a detach ends the observation of its partitions. -/
def Obligations.RepeatComparison : Prop :=
  (∀ (b : Fin 144) (differ : List (Fin 8192)) (e : EngOp) (s : State), s.dev.repeated b = some e →
    let xs := (e.repDiff ++ (differ.map (·.val)).filter fun x => x / 4096 == e.half).eraseDups
    (∀ x, Runs (.repeatCompare b differ (some x)) s fun t =>
      Wrote s.dev t.dev (blkRec s.dev 2 0x7006 b [e.token, x.val] e.part e.ctx) ∧
      Reported s.dev t.dev b e stPoisoned ∧ Only [.poison, .regs, .blocks, .ops, .tiles, .log] s t) ∧
    (xs = [] → Runs (.repeatCompare b differ none) s fun t =>
      Counted s.dev t.dev (R.rxCompared b) ∧ Reported s.dev t.dev b e (s.dev.ownStatus b e) ∧ t.dev.log = s.dev.log ∧
      Only [.poison, .regs, .blocks, .ops, .tiles] s t) ∧
    (∀ lo a, xs.min? = some lo → s.dev.arbInTime e = true → s.dev.arbPick b e = some a →
      Runs (.repeatCompare b differ none) s fun t =>
        Counted s.dev t.dev (R.rxMismatch b) ∧ t.dev.reg (R.rxLast b) = (e.rot + lo * 32) % 2 ^ 32 ∧
        (∃ y ∈ (t.dev.blk b).eng, e.same y = true ∧ y.stage = .copyIn ∧ y.arb = some a ∧ y.differ = xs) ∧
        (t.dev.blk a).arbFor = some (b.val, e.token) ∧
        (t.dev.tile (tileOf b)).copies = (s.dev.tile (tileOf b)).copies ++ [(b.val, e.token, false)] ∧
        RegsBut [R.rxMismatch b, R.rxLast b] s.dev t.dev ∧
        (∀ k, k ≠ b.val → k ≠ a → t.dev.blk k = s.dev.blk k) ∧ Only [.regs, .blocks, .tiles] s t) ∧
    (∀ lo, xs.min? = some lo → e.deadline = none → s.dev.arbPick b e = none →
      Runs (.repeatCompare b differ none) s fun t =>
        (∃ y ∈ (t.dev.blk b).eng, e.same y = true ∧ y.stage = .arbWait ∧ y.arbFrame = s.dev.wb) ∧
        RegsBut [R.rxMismatch b, R.rxLast b] s.dev t.dev ∧ BlocksBut b s.dev t.dev ∧ Only [.regs, .blocks] s t) ∧
    (∀ lo w, xs.min? = some lo → e.deadline = some w → s.dev.arbInTime e = false →
      Runs (.repeatCompare b differ none) s fun t =>
        Wrote s.dev t.dev (blkRec s.dev 2 0x7003 b [e.token, 4, w - s.dev.wb] e.part e.ctx) ∧
        Reported s.dev t.dev b e stPoisoned ∧ Counted s.dev t.dev (R.rxArbFail b) ∧
        Only [.poison, .regs, .blocks, .ops, .tiles, .log] s t)) ∧
  (∀ (b : Fin 144) (e : EngOp) (s : State),
    (s.dev.blk b).eng.find? (fun x => x.stage = .arbWait ∧ x.arbFrame + s.dev.lc ≤ s.dev.wb) = some e →
    Runs (.arbitrationWaitExpiry b) s fun t =>
      Wrote s.dev t.dev (blkRec s.dev 2 0x7003 b [e.token, 5, match e.deadline with
        | some w => w - s.dev.wb
        | none => 0xFFFF] e.part e.ctx) ∧
      Reported s.dev t.dev b e stPoisoned ∧ Counted s.dev t.dev (R.rxArbFail b) ∧
      Only [.poison, .regs, .blocks, .ops, .tiles, .log] s t) ∧
  (∀ (b : Fin 144) (s : State), Runs (.strikeExpiry b) s fun t =>
    (∀ h, h ∈ (t.dev.blk b).strikes ↔ h ∈ (s.dev.blk b).strikes ∧ s.dev.chip.hours - h ≤ 1000) ∧
    { t.dev.blk b with strikes := [] } = { s.dev.blk b with strikes := [] } ∧
    BlocksBut b s.dev t.dev ∧ Only [.blocks] s t) ∧
  ∀ (s : State), s.dev.sec.dbgOpen = true → s.dev.sec.dbgParts ≠ [] → Runs .debugSessionDetach s fun t =>
    t.dev.sec = { s.dev.sec with dbgParts := [] } ∧
    (∀ p ∈ s.dev.sec.dbgParts, t.dev.part p = { s.dev.part p with resume := (s.dev.part p).debug }) ∧
    (∀ p, p ∉ s.dev.sec.dbgParts → t.dev.part p = s.dev.part p) ∧ Only [.parts, .sec] s t

/-- R297 to R300. The copy-in moves the operation's inputs to the third engine and starts the third pass; the
vote ends the operation with its own status where the third pass agrees with the first, orders a copy-back
where it agrees with the repeat, and ends it as POISONED where it agrees with neither, and gives the engine a
strike in each case; the copy-back replaces the outputs and reports. -/
def Obligations.ThirdPassDecides : Prop :=
  (∀ (n : Fin 4) (b a : Nat) (e : EngOp) (s : State), s.dev.copyHead n false = some (b, e, a) →
    let c := descOf e.words
    let ins := (c.inputs.filter fun r => !(c.produces r.1 && r.1 != .out) && !(c.accLoad && r.1 == .acc)).map (·.2)
    Runs (.copyInDone n) s fun t =>
      (∃ y ∈ (t.dev.blk b).eng, e.same y = true ∧ y.stage = .third) ∧ Counted s.dev t.dev (R.rxArb b) ∧
      (t.dev.tile n).copies = (s.dev.tile n).copies.tail ∧
      (∀ x, (∀ r ∈ ins ++ (s.dev.preRange b e.half c).toList, ¬ (blockBase a + r.1 ≤ x ∧ x < blockBase a + r.1 + r.2)) →
        t.dev.rd x = s.dev.rd x) ∧
      RegsBut [R.rxArb b] s.dev t.dev ∧ BlocksBut b s.dev t.dev ∧ Only [.mem, .poison, .regs, .blocks, .tiles] s t) ∧
  (∀ (b : Fin 144) (v : ThirdSigs) (poisoned : Bool) (a : Nat) (e : EngOp) (s : State),
    (s.dev.blk b).eng.find? (fun x => x.stage = .third) = some e → e.arb = some a → (s.dev.blk a).beats = [] →
    (∀ k ∈ s.dev.blocks, ∀ x ∈ k.2.eng, x.stage ≠ .arbWait) →
    let live := (s.dev.blk b).strikes.filter fun h => s.dev.chip.hours - h ≤ 1000
    let e' := { e with unchecked := e.unchecked || (s.dev.blk a).chkFault }
    let bad := poisoned || s.dev.thirdBad b a e
    let w := s.dev.voteOf b a e' v
    live.length ≠ 2 → Runs (.arbitrationOutcome b v poisoned) s fun t =>
      (t.dev.blk b).strikes = live ++ [s.dev.chip.hours] ∧ t.dev.retire = s.dev.retire ∧
      (bad = true ∨ w = .neither → Reported s.dev t.dev b e' stPoisoned ∧
        Wrote s.dev t.dev (blkRec s.dev 2 0x7002 b [e.token, e.rot, a % 36] e.part e.ctx)) ∧
      (bad = false → w = .first → Reported s.dev t.dev b e' (s.dev.ownStatus b e') ∧
        Wrote s.dev t.dev (blkRec s.dev 1 0x7001 b (e'.vote 2) e.part e.ctx)) ∧
      (bad = false → w = .repeatPass → t.dev.log = s.dev.log ∧
        (∃ y ∈ (t.dev.blk b).eng, e.same y = true ∧ y.stage = .copyBack) ∧
        (t.dev.tile (tileOf b)).copies = (s.dev.tile (tileOf b)).copies ++ [(b.val, e.token, true)]) ∧
      (∀ x, (∀ y ∈ (s.dev.opBeats b a e').1, ¬ (blockBase a + y.1 ≤ x ∧ x < blockBase a + y.1 + y.2.length)) →
        t.dev.rd x = s.dev.rd x) ∧
      Only [.mem, .poison, .regs, .blocks, .ops, .tiles, .log, .free] s t) ∧
  ∀ (n : Fin 4) (b a : Nat) (e : EngOp) (s : State), s.dev.copyHead n true = some (b, e, a) →
    (∀ k ∈ s.dev.blocks, ∀ x ∈ k.2.eng, x.stage ≠ .arbWait) →
    let c := descOf e.words
    Runs (.copyBackDone n) s fun t =>
      Reported s.dev t.dev b e (s.dev.ownStatus b e) ∧ Wrote s.dev t.dev (blkRec s.dev 1 0x7001 b (e.vote 1) e.part e.ctx) ∧
      (∀ x, (∀ r ∈ c.regions.filter fun r => c.produces r.1,
        ¬ (blockBase b + r.2.1 ≤ x ∧ x < blockBase b + r.2.1 + r.2.2)) → t.dev.rd x = s.dev.rd x) ∧
      Only [.mem, .poison, .regs, .blocks, .ops, .tiles, .log] s t

/-! ## Retirement and moulting -/

/-- R30 to R35, R469. A block whose retirement was asked for leaves service with everything it runs ended, but for
static threads whose next item is due at a WAKE word, and 0x1071; before B the spare takes its place in the block map with its pre-image area and partition; at B the
spare is in service with 0x1072; an emptied donor's moult takes the next control-frame tick; the repair
record keeps which blocks are retired. -/
def Obligations.RetirementMovesToASpare : Prop :=
  (∀ (b : Fin 144) (r : Nat × Nat) (s : State), s.dev.retire.find? (fun r => r.1 = b.val) = some r →
    s.dev.log.buf.length + (s.dev.blk b).beats.length < 4096 → (s.dev.blk b).chkFault = false →
    (∀ e ∈ (s.dev.blk b).eng, e.dead = false ∧ ∀ a, e.stage = .third → e.arb = some a → (s.dev.blk a).beats = []) →
    Runs (.moultDecision b) s fun t =>
      (t.dev.blk b).svc = .retired ∧ (t.dev.blk b).takesWork = false ∧ (∀ h ∈ (t.dev.blk b).threads, h.2.due = true) ∧
      (t.dev.blk b).eng = [] ∧ (t.dev.blk b).posted = [] ∧ (∀ x ∈ t.dev.retire, x.1 ≠ b.val) ∧
      (∃ early, blkRec s.dev 0 0x1071 b [r.2, early] ∈ t.dev.log.buf)) ∧
  (∀ (b : Fin 144) (m : Moult) (w l x : Nat) (s : State), s.dev.moultOf b = some m → m.at_ = some w →
    m.lblock = some l → m.spare = none → m.donor = none → w ≤ s.dev.wb + 1 →
    (tileBlocks (tileOf b)).find? s.dev.spareOk = some x → Runs (.moultRemap b) s fun t =>
      t.dev.phys (tileOf b) l = tileOf b * 36 + x % 36 ∧ (t.dev.moultOf b).map (·.spare) = some (some x) ∧
      (t.dev.blk x).slotPart = (s.dev.blk b).slotPart ∧ (t.dev.blk x).part = (s.dev.blk b).slotPart ∧
      t.dev.reg (R.rxPreimg x) = s.dev.reg (R.rxPreimg b) ∧ RegsBut [R.rxPreimg x] s.dev t.dev ∧
      BlocksBut x s.dev t.dev ∧ Only [.tiles, .regs, .blocks] s t) ∧
  (∀ (b : Fin 144) (m : Moult) (w l x : Nat) (s : State), s.dev.moultOf b = some m → m.at_ = some w →
    m.lblock = some l → m.spare = some x → w ≤ s.dev.wb → x ≠ b.val → (∀ c ∈ s.dev.ctxs, c.2.static = false) →
    (s.dev.blk b).eng = [] → (s.dev.blk b).beats = [] → (s.dev.blk b).arbFor = none →
    (∀ e ∈ s.dev.ops, e.2.used = true → e.2.block = some b.val → e.2.status ≠ none) →
    Runs (.moultEffect b) s fun t =>
      (t.dev.blk x).svc = .inService ∧ (t.dev.blk x).takesWork = true ∧ (t.dev.blk x).donor = false ∧
      (t.dev.blk b).powered = false ∧ (t.dev.blk b).part = none ∧
      (∀ y ∈ (t.dev.tile (tileOf b)).moults, y.retired ≠ b.val) ∧
      (((∃ k ∈ tileBlocks (tileOf b), k ≠ x ∧ (s.dev.blk k).svc = .standby) ∨ (s.dev.blk x).svc ≠ .standby) →
        Wrote s.dev t.dev (blkRec s.dev 0 0x1072 x [l, b.val % 36, x % 36])) ∧
      (∀ k, k ≠ b.val → k ≠ x → { t.dev.blk k with waiters := [] } = { s.dev.blk k with waiters := [] }) ∧
      RegsBut [R.hpEvlogLost] s.dev t.dev ∧ Only [.blocks, .tiles, .log, .regs] s t) ∧
  (∀ (b : Fin 144) (s : State), (s.dev.blk b).donor = true → (s.dev.blk b).eng = [] →
    (∀ e ∈ (s.dev.blk b).threads, e.2.op = none) → Runs (.donorEmptied b) s fun t =>
      (∀ m ∈ (s.dev.tile (tileOf b)).moults, m.donor = some b.val → m.at_ = none →
        { m with at_ := some (roundUp (s.dev.wb + 1) s.dev.lc) } ∈ (t.dev.tile (tileOf b)).moults) ∧
      (∀ m ∈ (s.dev.tile (tileOf b)).moults, m.donor ≠ some b.val → m ∈ (t.dev.tile (tileOf b)).moults) ∧
      (∀ n, n ≠ tileOf b → t.dev.tile n = s.dev.tile n) ∧ Only [.tiles] s t) ∧
  ∀ (s : State), (s.dev.chip.computeReset = false → s.dev.chip.lock = true → Runs .repairRecordWrite s fun t =>
      (∀ b, b < 144 → (b ∈ t.nv.store.repair.blocks ↔ (s.dev.blk b).svc = .retired)) ∧
      t.nv.store.repair.phases = s.dev.pwr.isolated ∧ t.nv.store.repair.safety = s.dev.dram.safety ∧
      t.nv.store.repair.general = s.dev.dram.general ∧
      t.nv.store.repairRec = s.nv.store.repairRec.write s.dev.time.now t.nv.store.repair ∧
      t.nv = { s.nv with store := { s.nv.store with repairRec := t.nv.store.repairRec } } ∧ t.dev = s.dev ∧
      t.pending = s.pending) ∧
    (s.dev.chip.computeReset = true → Runs .repairRecordWrite s fun t =>
      t.nv.store.repair = { s.nv.store.repair with phases := s.dev.pwr.isolated } ∧
      t.nv = { s.nv with store := { s.nv.store with repairRec := t.nv.store.repairRec } } ∧ t.dev = s.dev ∧
      t.pending = s.pending)

/-! ## The fusion front-end -/

/-- R220 to R232, R237, R249 to R251. A frame that is too long or has an FCS error is dropped and counted, an AVTPDU
of a subtype that is not supported discarded, one of no stream counted; one that continues a frame appends exactly
its data to the frame's slot; a deskewed lidar frame commits with its trigger's instant or is counted as mistimed; at
the time of validity the inertial windows before it close; a closed audio block leaves no sample of itself behind. -/
def Obligations.SensorDataBecomeFrames : Prop :=
  (∀ (p : Avtpdu) (s : State), s.dev.chip.computeReset = false → (s.dev.links.up.contains (p.port.val + 1)) = true →
    (9216 < p.frameBytes ∨ p.fcsBad = true → Runs (.avtpduReceived p) s fun t =>
      let x := p.port.val * 2 + (if 9216 < p.frameBytes then 0 else 1)
      tget (fun _ => 0) t.dev.fus.badFrames x = tget (fun _ => 0) s.dev.fus.badFrames x + 1 ∧
      (∀ y, y ≠ x → tget (fun _ => 0) t.dev.fus.badFrames y = tget (fun _ => 0) s.dev.fus.badFrames y) ∧
      { t.dev.fus with badFrames := [] } = { s.dev.fus with badFrames := [] } ∧ Only [.fus] s t) ∧
    (p.frameBytes ≤ 9216 → p.fcsBad = false → p.etherType.toNat = 0x22F0 →
      (supported p.subtype.toNat = false → exec (.avtpduReceived p) s = .next s) ∧
      (supported p.subtype.toNat = true → s.dev.matchPdu p = none → Runs (.avtpduReceived p) s fun t =>
        Counted s.dev t.dev R.fuUnmatched ∧ RegsBut [R.fuUnmatched] s.dev t.dev ∧ Only [.regs] s t) ∧
      ∀ n a, supported p.subtype.toNat = true → s.dev.matchPdu p = some n → s.dev.ofFormat n p = true →
        s.dev.strKind n ≠ 2 → s.dev.strKind n ≠ 3 → (s.dev.str n).asm = some a → s.dev.continues n p a = true →
        a.bad = false → a.slot < 255 → (∀ q, (s.dev.str n).nextSeq = some q → q = p.seqNum.toNat) →
        (s.dev.strKind n = 1 → p.total.val = a.total ∧ a.surplus p = false ∧ a.frags.length + 1 < p.total.val ∧
          16 * p.points.toNat ≤ p.data.length) → (s.dev.strKind n = 0 → p.lineOrFrag.val = a.next) →
        (s.dev.strKind n ≠ 1 → p.lastUnit = false) → s.dev.frameData n p ≠ [] →
        64 + a.bytes + (s.dev.frameData n p).length ≤ s.dev.slotBytes n →
        s.dev.allowed (s.dev.strInit n) (s.dev.strPart n) (s.dev.strSlot n a.slot + 64 + a.bytes)
          (s.dev.frameData n p).length true = true →
        Runs (.avtpduReceived p) s fun t =>
          Holds t.dev (s.dev.strSlot n a.slot + 64 + a.bytes) (s.dev.frameData n p) ∧
          MemBut (s.dev.strSlot n a.slot + 64 + a.bytes) (s.dev.frameData n p).length s.dev t.dev ∧
          (∃ a', (t.dev.str n).asm = some a' ∧ a'.bytes = a.bytes + (s.dev.frameData n p).length ∧
            a'.got = a.got + 1 ∧ a'.slot = a.slot ∧ a'.bad = false) ∧
          (t.dev.str n).nextSeq = some ((p.seqNum.toNat + 1) % 256) ∧
          (∀ m, m ≠ n → t.dev.str m = s.dev.str m) ∧ Only [.mem, .poison, .enc, .fus] s t)) ∧
  (∀ (n : Fin 64) (a : Asm) (rest : List Asm) (s : State), s.dev.live = true → s.dev.strKind n = 1 →
    (s.dev.str n).ready = a :: rest → s.dev.egoMotion.1 = s.dev →
    s.dev.allowed 721 (s.dev.initPart 721) (hubBase + s.dev.fld (R.fuStreamExtr n) 0 25) 48 false = true →
    (0 < a.bytes / 16 → s.dev.allowed 721 (s.dev.strPart n) (s.dev.strSlot n a.slot + 64) (a.bytes / 16 * 16) false = true) →
    (∀ i, i < a.bytes / 16 →
      s.dev.allowed 721 (s.dev.strPart n) (s.dev.strSlot n a.slot + 64 + 16 * i) 12 true = true) →
    let hit := a.sensor.bind fun x => (s.dev.nearest n x).filter fun t => t.instant - x + (x - t.instant) ≤ 20000
    (hit = none → Runs (.lidarDeskewDone n) s fun t =>
      Counted s.dev t.dev (R.fuStreamMistime n) ∧ (t.dev.str n).ready = rest ∧ (t.dev.str n).misK = true ∧
      RegsBut [R.fuStreamMistime n] s.dev t.dev ∧ Only [.fus, .regs] s t) ∧
    (∀ g, hit = some g → s.dev.time.now < s.dev.sealW (s.dev.updOf g.instant + 1) * wingbeatNs →
      s.dev.allowed (s.dev.strInit n) (s.dev.strPart n) (s.dev.strSlot n a.slot) 64 true = true →
      Runs (.lidarDeskewDone n) s fun t =>
        let late := decide (s.dev.sealW (s.dev.updOf g.instant) * wingbeatNs ≤ s.dev.time.now)
        let no := ((s.dev.str n).frameNo + 1) % 2 ^ 32
        (t.dev.str n).ready = rest ∧ (t.dev.str n).frameNo = no ∧
        (t.dev.str n).frames = (s.dev.str n).frames ++ [⟨a.slot, g.instant, no, s.dev.time.now, late, a.bytes, false⟩] ∧
        (late = true → Counted s.dev t.dev (R.fuStreamLate n)) ∧ RegsBut [R.fuStreamLate n] s.dev t.dev ∧
        MemBut (s.dev.strSlot n a.slot) (64 + a.bytes / 16 * 16) s.dev t.dev ∧
        Only [.mem, .poison, .enc, .fus, .regs] s t)) ∧
  (∀ (s : State), s.dev.live = true → s.dev.tv s.dev.fus.win ≤ s.dev.time.now → Runs .timeOfValidity s fun t =>
    let w := max (s.dev.fus.win + 1) (s.dev.updOf (s.dev.time.now + 1))
    t.dev.fus.win = w ∧
    (∀ n, n < 64 → s.dev.strEn n = true → s.dev.strKind n = 3 →
      (t.dev.str n).wins = (s.dev.str n).wins.filter fun e => decide (w ≤ e.1)) ∧
    (∀ n, ¬ (n < 64 ∧ s.dev.strEn n = true ∧ s.dev.strKind n = 3) → t.dev.str n = s.dev.str n) ∧
    Only [.mem, .poison, .enc, .fus, .regs, .log, .free] s t) ∧
  ∀ (s : State), s.dev.live = true → s.dev.time.now % wingbeatNs = 0 → s.dev.wb % 8 = 2 → 10 ≤ s.dev.wb →
    s.dev.fus.lastBlock ≤ s.dev.wb / 8 - 1 → Runs .audioBlockClose s fun t =>
      t.dev.fus.lastBlock = s.dev.wb / 8 ∧
      (∀ n, n < 64 → s.dev.strEn n = true → s.dev.strKind n = 2 →
        (t.dev.str n).wins = (s.dev.str n).wins.filter (fun e => decide (s.dev.wb / 8 - 1 < e.1)) ∧ ∀ k, k < s.dev.wb / 8 * 768 → tget (fun _ => 0) (t.dev.str n).audio k = 0) ∧
      (∀ n, ¬ (n < 64 ∧ s.dev.strEn n = true ∧ s.dev.strKind n = 2) → t.dev.str n = s.dev.str n) ∧
      Only [.mem, .poison, .enc, .fus, .regs, .log, .free] s t

/-- R234, R238 to R241, R243 to R247, R253. The seal opens its update and writes the input set alone; an
accepted commit counts, writes its header and, for evidence, moves each sector's step by the step rule; a
refused one writes 0x5020; a release deadline closes the oldest update that is due, sets its step without
evidence, and without a state counts it stale or starts instar again with 0x5021. -/
def Obligations.UpdatesAreSealedCommittedAndReleased : Prop :=
  (∀ (k : Nat) (s : State), s.dev.live = true → s.dev.fus.began = true → s.dev.time.now = s.dev.sealW k * wingbeatNs →
    (∀ j, s.dev.fus.sealed = some j → j < k) → 0 < s.dev.lp → Runs .updateSeal s fun t =>
      let base := hubBase + (s.dev.fld R.fuIsetBase 6 19 * 64 + k % 2 * 0x800)
      t.dev.fus.sealed = some k ∧ t.dev.fus.reinit = false ∧ t.dev.fus.upsSince = s.dev.fus.upsSince + 1 ∧
      t.dev.fus.ups.head? = some (s.dev.updateOf k) ∧
      (s.dev.allowed 721 (s.dev.initPart 721) base 1088 true = true →
        t.dev.rdN base 4 = k % 2 ^ 32 ∧ t.dev.rdN (base + 8) 8 = s.dev.tv k % 2 ^ 64) ∧
      MemBut base 1088 s.dev t.dev ∧ Only [.mem, .poison, .enc, .fus, .regs, .log] s t) ∧
  (∀ (kind : Fin 6) (s : State), s.dev.live = true → s.dev.fus.began = true →
    let w := s.dev.rdN (hubBase + s.dev.fld R.fuMboxBase 6 19 * 64 + 64 * kind.val) 8
    let slot := bits w 8 8
    let u := s.dev.upOf (bits w 16 32)
    (s.dev.commitReason kind w ≠ 0 → Runs (.outputCommit kind) s fun t =>
      Wrote s.dev t.dev (regRec s.dev 2 0x5020 4 0x15 [kind.val, slot, s.dev.commitReason kind w]) ∧
      RegsBut [R.hpEvlogLost] s.dev t.dev ∧ Only [.regs, .log] s t) ∧
    (s.dev.commitReason kind w = 0 → kind = 4 ∨ kind = 5 ∨ ((kind = 1 ∨ kind = 2) ∧ (u.evid = true ∨ u.closed = true ∨
        (s.dev.unsealed (bits w 16 32) = false ∧ ∀ x ∈ s.dev.fus.ups, x.k ≠ u.k))) →
      Runs (.outputCommit kind) s fun t =>
        t.dev.outCount kind = (s.dev.outCount kind + 1) % 2 ^ 32 ∧
        tget (fun _ => 0) t.dev.fus.next kind.val = (slot + 1) % s.dev.outSlots kind ∧
        MemBut (s.dev.outSlot kind slot) 64 s.dev t.dev ∧
        (s.dev.allowed 721 (s.dev.initPart 721) (s.dev.outSlot kind slot) 64 true = true →
          t.dev.rdN (s.dev.outSlot kind slot + 8) 8 = s.dev.time.now % 2 ^ 64 ∧
          t.dev.rdN (s.dev.outSlot kind slot + 56) 4 = (s.dev.outCount kind + 1) % 2 ^ 32) ∧
        t.dev.fus.step = s.dev.fus.step ∧ t.dev.fus.streams = s.dev.fus.streams ∧
        Only [.mem, .poison, .enc, .fus, .regs, .log] s t) ∧
    (s.dev.commitReason kind w = 0 → (kind = 1 ∨ kind = 2) → u.evid = false → u.closed = false →
      (s.dev.unsealed (bits w 16 32) = false → (∃ x ∈ s.dev.fus.ups, x.k = u.k) → Runs (.outputCommit kind) s fun t =>
        (∀ x ∈ s.dev.fus.ups, x.k = u.k →
          { x with held := x.held ++ [(kind.val, slot)] } ∈ t.dev.fus.ups) ∧ Only [.fus] s t) ∧
      (s.dev.unsealed (bits w 16 32) = true → Runs (.outputCommit kind) s fun t =>
        t.dev.fus.early = s.dev.fus.early ++ [(bits w 16 32, kind.val, slot)] ∧ t.dev.fus.ups = s.dev.fus.ups ∧
        Only [.fus] s t)) ∧
    (s.dev.commitReason kind w = 0 → kind = 3 → s.dev.fus.sealed = some u.k → u.closed = false → u.state = false →
      Runs (.outputCommit kind) s fun t =>
        t.dev.fus.bufB = !s.dev.fus.bufB ∧ t.dev.fus.stale = 0 ∧ t.dev.fus.advanced = s.dev.fus.advanced + 1 ∧
        t.dev.fus.left = s.dev.fus.left - 1 ∧
        t.dev.fus.instar = (s.dev.fus.instar && decide (s.dev.fus.left - 1 ≠ 0)) ∧
        (s.dev.fus.instar = true → s.dev.fus.left - 1 = 0 →
          Wrote s.dev t.dev (regRec s.dev 0 0x5022 4 0x15 [u.k, s.dev.fus.upsSince])) ∧
        t.dev.mem = s.dev.mem ∧ Only [.fus, .regs, .log] s t) ∧
    (s.dev.commitReason kind w = 0 → kind = 0 → u.closed = false → u.evid = false → (∃ x ∈ s.dev.fus.ups, x.k = u.k) →
      s.dev.allowed 721 (s.dev.initPart 721) (s.dev.outSlot 0 slot + 64) 192 false = true → Runs (.outputCommit kind) s fun t =>
        (∀ x, x < 16 → tget (fun _ => 0) t.dev.fus.sector x =
          (stepRule (s.dev.fld R.fuSectorCfg 10 8) (tget (fun _ => 0) s.dev.fus.sector x)
            (tget (fun _ => 0) s.dev.fus.secHold x)
            (s.dev.sectorStep u (s.dev.rdBytes (s.dev.outSlot 0 slot + 64) 192) x)).1) ∧
        t.dev.reg R.fuUpdateNum = u.k % 2 ^ 32 ∧ t.dev.fus.streams = s.dev.fus.streams ∧
        (∀ x ∈ t.dev.fus.ups, x.k = u.k → x.evid = true) ∧
        Only [.mem, .poison, .enc, .fus, .regs, .log] s t)) ∧
  ∀ (u : Update) (s : State), s.dev.live = true →
    s.dev.fus.ups.find? (fun u => !u.closed && decide (s.dev.relW u.k ≤ s.dev.wb)) = some u →
    (∀ x ∈ s.dev.fus.ups, x.held = []) →
    (u.evid = true → u.state = true → Runs .releaseDeadline s fun t =>
      (∀ x ∈ t.dev.fus.ups, x.k = u.k → x.closed = true) ∧
      t.dev.fus = { s.dev.fus with ups := t.dev.fus.ups } ∧ Only [.fus] s t) ∧
    (u.evid = false → u.state = true → Runs .releaseDeadline s fun t =>
      (∀ x ∈ t.dev.fus.ups, x.k = u.k → x.closed = true) ∧
      t.dev.fus.step = (stepRule (s.dev.fld R.fuSectorCfg 10 8) s.dev.fus.step s.dev.fus.stepHold 3).1 ∧
      t.dev.reg R.fuUpdateNum = u.k % 2 ^ 32 ∧
      RegsBut [R.fuSectorSteps, R.fuUpdateNum, R.fuAge, R.hpEvlogLost] s.dev t.dev ∧ Only [.fus, .regs, .log] s t) ∧
    (u.evid = true → u.state = false → s.dev.fus.stale + 1 < s.dev.fld R.fuInstarCfg 8 4 → Runs .releaseDeadline s fun t =>
      t.dev.fus.stale = s.dev.fus.stale + 1 ∧ t.dev.fus.instar = s.dev.fus.instar ∧ Only [.fus] s t) ∧
    (u.evid = true → u.state = false → s.dev.fld R.fuInstarCfg 8 4 ≤ s.dev.fus.stale + 1 → MemOk s.dev →
      s.dev.allowed 721 (s.dev.initPart 721) (s.dev.fld R.fuStateInit 0 28 * 4096) (s.dev.fld R.fuStateSize 0 7 * mib)
        false = true →
      s.dev.allowed 721 (s.dev.initPart 721) s.dev.stateBufs.1 (s.dev.fld R.fuStateSize 0 7 * mib) true = true →
      Runs .releaseDeadline s fun t =>
        t.dev.fus.instar = true ∧ t.dev.fus.reinit = true ∧ t.dev.fus.left = s.dev.fld R.fuInstarCfg 0 8 ∧
        t.dev.fus.stale = 0 ∧ t.dev.pl.valid = false ∧
        Wrote s.dev t.dev (regRec s.dev 5 0x5021 4 0x15 [u.k]) ∧
        (∀ i, i < s.dev.fld R.fuStateSize 0 7 * mib →
          t.dev.rd (s.dev.stateBufs.1 + i) = s.dev.rd (s.dev.fld R.fuStateInit 0 28 * 4096 + i)) ∧
        MemBut s.dev.stateBufs.1 (s.dev.fld R.fuStateSize 0 7 * mib) s.dev t.dev ∧
        Only [.mem, .poison, .fus, .pl, .regs, .log] s t)

/-! ## The collision engine and the output gate -/

/-- R259, R260, R264 to R270. An accepted map generation becomes the newest and valid, with the buffers turned
round; an accepted set commit gives the new slots their first check and keeps earlier verdicts; a check
against the newest generation records its verdict, reason and stamp in the slot and in its result entry
alone; refused commits write 0x6001 and 0x6010. -/
def Obligations.MapsSetsAndChecks : Prop :=
  (∀ (s : State), s.dev.live = true →
    let w := s.dev.plN s.dev.plMail 8
    let p := s.dev.pl
    s.dev.mapReads w = s.dev →
    (s.dev.mapReason w ≠ 0 → Runs .mapCommit s fun t =>
      Wrote s.dev t.dev (regRec s.dev 2 0x6001 4 0x22 [bits w 0 16, s.dev.mapReason w]) ∧
      RegsBut [R.hpEvlogLost] s.dev t.dev ∧ Only [.regs, .log] s t) ∧
    (s.dev.mapReason w = 0 → Runs .mapCommit s fun t =>
      t.dev.pl.newest = bits w 0 16 ∧ t.dev.pl.valid = true ∧ t.dev.pl.buf = bits w 26 2 ∧
      t.dev.pl.lastW = some s.dev.wb ∧ t.dev.pl.prevBuf = (if p.valid then some p.buf else none) ∧
      t.dev.pl.freeBuf = (if p.valid then 3 - bits w 26 2 - p.buf else (bits w 26 2 + 1) % 3) ∧
      (p.opened = false ∨ p.closed = true → (∀ i, i < p.count → (s.dev.cand i).stamp ≠ bits w 0 16) →
        t.dev.mem = s.dev.mem) ∧
      (p.lanes.length ≤ 16 → t.dev.pl.lanes.length ≤ 16) ∧ t.dev.pl.count = p.count ∧ t.dev.pl.frame = p.frame ∧
      Only [.pl, .mem, .poison, .enc, .regs, .log] s t)) ∧
  (∀ (s : State), s.dev.live = true →
    let w := s.dev.plN (s.dev.plMail + 0x40) 8
    s.dev.allowed 722 s.dev.mapPart (s.dev.plMail + 0x40) 8 false = true →
    (s.dev.setReason w ≠ 0 → Runs .setCommit s fun t =>
      Wrote s.dev t.dev (regRec s.dev 2 0x6010 4 0x22 [bits w 16 32, bits w 0 13, s.dev.setReason w]) ∧
      RegsBut [R.hpEvlogLost] s.dev t.dev ∧ Only [.regs, .log] s t) ∧
    (s.dev.setReason w = 0 → Runs .setCommit s fun t =>
      t.dev.pl.count = bits w 0 13 ∧
      (∀ i, i < s.dev.pl.count → (t.dev.cand i).verdict = (s.dev.cand i).verdict ∧
        (t.dev.cand i).stamp = (s.dev.cand i).stamp) ∧
      (∀ i, s.dev.pl.count ≤ i → i < bits w 0 13 → (t.dev.cand i).verdict = 0 ∧
        ((t.dev.cand i).due = 1 ∨ ∃ l ∈ t.dev.pl.lanes, l.slot = i ∧ l.gen = s.dev.pl.newest)) ∧ Only [.pl] s t)) ∧
  ∀ (l : InCheck) (rest : List InCheck) (s : State), s.dev.live = true → s.dev.pl.opened = true →
    s.dev.pl.closed = false → s.dev.pl.lanes = l :: rest → l.gen = s.dev.pl.newest →
    let v := s.dev.verdict l
    v.2.2.2.1 = none → v.2.2.2.2 = none → Runs .candidateCheckDone s fun t =>
      (t.dev.cand l.slot).verdict = v.1 ∧ (t.dev.cand l.slot).reason = v.2.1 ∧ (t.dev.cand l.slot).hit = v.2.2.1 ∧
      (t.dev.cand l.slot).stamp = l.gen ∧ (t.dev.cand l.slot).checks = (s.dev.cand l.slot).checks + 1 ∧
      (∀ i, i ≠ l.slot → (t.dev.cand i).verdict = (s.dev.cand i).verdict ∧
        (t.dev.cand i).stamp = (s.dev.cand i).stamp) ∧
      Counted s.dev t.dev R.plChecks ∧ (v.1 = 3 → Counted s.dev t.dev R.plInfeasible) ∧
      MemBut (s.dev.setBuf + 0x100000 + 16 * l.slot) 16 s.dev t.dev ∧
      RegsBut [R.plChecks, R.plInfeasible, R.plRevalFail, R.secFwDeny, R.secFwLast, R.hpEvlogLost] s.dev t.dev ∧
      Only [.pl, .mem, .poison, .enc, .regs, .log] s t

/-- R274, R277 to R280, R314. At the selection instant the gate chooses a primary that meets every condition;
the cutoff closes the set and either releases the best primary or withholds it with 0x6030 and a count, and
reports the frame to the islands; a released primary leaves on the enabled ports from due(f) while the gate control
list holds the primary queue open, and is dropped under an inhibit; a confirmation reaches both islands. -/
def Obligations.GateSelectsReleasesAndReports : Prop :=
  (∀ (s : State), s.dev.live = true → s.dev.pl.opened = true → s.dev.pl.closed = false → s.dev.pl.selected = false →
    s.dev.pl.choice = none →
    (s.dev.pl.frame * s.dev.lc + s.dev.fld R.plGateCfg 0 8) * wingbeatNs ≤ s.dev.time.now →
    Runs .selectionInstant s fun t =>
      t.dev.pl.selected = true ∧ t.dev.pl.choice = t.dev.best ∧
      (∀ c, t.dev.pl.choice = some c → t.dev.canChoose c = true ∧ c < s.dev.pl.count) ∧
      t.dev.pl.count = s.dev.pl.count ∧ Only [.pl] s t) ∧
  (∀ (s : State), s.dev.live = true → s.dev.pl.opened = true → s.dev.pl.closed = false →
    s.dev.due s.dev.pl.frame - s.dev.fld R.plGateCfg 16 8 * 1000 ≤ s.dev.time.now →
    let f := s.dev.pl.frame
    (∀ c, s.dev.gateCauses = [] → s.dev.best = some c → Runs .gateCutoff s fun t =>
      t.dev.pl.closed = true ∧ t.dev.pl.lanes = [] ∧ t.dev.pl.eyeFails = 0 ∧
      t.dev.pl.relPrimary = s.dev.rdBytes (s.dev.setBuf + 256 * c) 256 ∧
      t.dev.pl.released.map (fun r => (r.1, r.2.1, r.2.2.1)) = some (f, c, s.dev.pl.newest) ∧
      t.dev.out = s.dev.out ++ [.frameReport f 0 0 s.dev.pl.newest] ∧
      t.dev.reg R.plLastOut = c % 4096 + f % 65536 * 65536 ∧ t.dev.reg R.plLastCauses = 0 ∧
      (s.dev.chA.state ≠ .reset → t.dev.chA.repFrame = some f ∧ t.dev.chA.repCause = 0) ∧
      (s.dev.chB.state ≠ .reset → t.dev.chB.repFrame = some f ∧ t.dev.chB.repCause = 0) ∧
      RegsBut [R.plCutoffPending, R.plLastOut, R.plLastCauses] s.dev t.dev ∧
      Only [.pl, .out, .regs, .chA, .chB] s t) ∧
    (∀ first rest, s.dev.gateCauses = first :: rest →
      (s.dev.pl.eyeTick = true ∧ s.dev.pl.eyeAcc = true) ∨ s.dev.pl.valid = false ∨ s.dev.pl.eyeFails ≠ 2 →
      Runs .gateCutoff s fun t =>
        let mask := (first :: rest).foldl (fun m c => m + 2 ^ (c - 1)) 0
        t.dev.pl.closed = true ∧ t.dev.pl.lanes = [] ∧ t.dev.pl.released = s.dev.pl.released ∧
        Wrote s.dev t.dev (regRec s.dev 5 0x6030 4 0x22 [f, first, mask]) ∧ Counted s.dev t.dev R.plWithheld ∧
        t.dev.reg R.plLastOut = 2 ^ 12 + first % 8 * 2 ^ 13 + f % 65536 * 65536 ∧ t.dev.reg R.plLastCauses = mask ∧
        t.dev.out = s.dev.out ++ [.frameReport f first mask s.dev.pl.newest] ∧
        (s.dev.chA.state ≠ .reset → t.dev.chA.repFrame = some f ∧ t.dev.chA.repCause = first) ∧
        RegsBut [R.plCutoffPending, R.plLastOut, R.plLastCauses, R.plWithheld, R.hpEvlogLost] s.dev t.dev ∧
        Only [.pl, .out, .regs, .log, .chA, .chB] s t)) ∧
  (∀ (f c gen flags step : Nat) (s : State), s.dev.live = true →
    s.dev.pl.released = some (f, c, gen, flags, step) → s.dev.due f ≤ s.dev.time.now →
    qbvOpen s.dev.qbv (s.dev.time.now % (s.dev.lc * wingbeatNs) / 1000) = true →
    (s.dev.chA.inhibit = true ∨ s.dev.chB.inhibit = true → Runs .primaryRelease s fun t =>
      t.dev.pl.released = none ∧ t.dev.pl.sent = s.dev.pl.sent ∧ t.dev.pl.cocoon = s.dev.pl.cocoon ∧ Only [.pl] s t) ∧
    (s.dev.chA.inhibit = false → s.dev.chB.inhibit = false → Runs .primaryRelease s fun t =>
      t.dev.pl.released = none ∧ t.dev.pl.playedOut = false ∧
      t.dev.pl.cocoon = (if s.dev.delivered f then s.dev.pl.relCocoon else s.dev.pl.cocoon) ∧
      t.dev.pl.sent = s.dev.pl.sent ++ s.dev.actPorts.map (fun q => (q, f)) ∧
      t.dev.out = s.dev.out ++ s.dev.actPorts.map (fun q =>
        Out.primary q f (s.dev.fld R.plActCfg 0 7) (s.dev.fld R.plActCfg 9 12) (s.dev.fld R.plActCfg 21 3) (payload f gen flags step s.dev.time.now s.dev.pl.relPrimary)) ∧
      Only [.pl, .out] s t)) ∧
  ∀ (port : Fin 2) (q f : Nat) (s : State), s.dev.pl.sent.find? (fun e => e.1 == port.val) = some (q, f) →
    Runs (.transmitConfirmation port) s fun t =>
      t.dev.out = s.dev.out ++ [.confirmation q f] ∧ t.dev.pl.sent = s.dev.pl.sent.erase (q, f) ∧
      (s.dev.chA.state ≠ .reset → f ∈ t.dev.chA.confirmed) ∧ (s.dev.chB.state ≠ .reset → f ∈ t.dev.chB.confirmed) ∧
      (s.dev.chA.state = .reset → t.dev.chA = s.dev.chA) ∧ (s.dev.chB.state = .reset → t.dev.chB = s.dev.chB) ∧
      Only [.pl, .out, .chA, .chB] s t

/-! ## Islands -/

/-- R18, R321 to R323. An island that runs commits the oldest cause it has found, or its peer's request: inhibit
and safe output, a count, a request to the peer, its record, and its vote withdrawn; residue handling in progress leaves
its records first (R18); after two recoveries without primary output the commit halts both islands. In the safe state a
cause is recorded, in the halted state dropped. -/
def Obligations.SafeStateIsCommitted : Prop :=
  ∀ (i : Isl) (c : Nat) (rest : List Nat) (s : State),
    let committed (who : Nat) (t : State) : Prop :=
      (t.dev.isl i).inhibit = true ∧ (t.dev.isl i).safeOut = true ∧ (t.dev.isl i).vote = false ∧
      (t.dev.isl i).lastCause = c ∧ (t.dev.isl i).entries = min 0xFFFF ((s.dev.isl i).entries + 1) ∧
      (t.dev.isl i).lifeDue = true ∧ ((s.dev.isl i).vote = true → t.dev.chip.primaryEn = false) ∧
      ((s.dev.isl (islPeer i)).loaded = true → (t.dev.isl (islPeer i)).peerReq = some c) ∧
      t.dev.out = s.dev.out ++ [.safeReq i c] ∧ t.dev.chip.safeActive = true ∧
      t.dev.chip.safeAt = (if s.dev.chip.safeActive && !s.dev.resumed then s.dev.chip.safeAt else s.dev.time.now) ∧
      ((∀ e ∈ s.dev.blocks, e.2.beats = []) →
        Recorded s.dev t.dev [islRec s.dev i 4 0x8001 [c, who, s.dev.ctrlFrame]] ∧
        Only [.chA, .chB, .chip, .out, .log, .regs] s t) ∧
      (s.dev.log.buf.length + (s.dev.blocks.map fun e => e.2.beats.length).sum < 4096 →
        ∃ l m, (∀ r ∈ l, r.code = 0x1003) ∧
          t.dev.log.buf = s.dev.log.buf ++ l ++ [islRec s.dev i 4 0x8001 [c, who, s.dev.ctrlFrame]] ++ m) ∧
      (s.dev.chip.noPrimary < 2 → (t.dev.isl i).state = .safe ∧
        (t.dev.isl (islPeer i)).state = (s.dev.isl (islPeer i)).state ∧ t.dev.chip.phase = s.dev.chip.phase) ∧
      (2 ≤ s.dev.chip.noPrimary → t.dev.chip.phase = .halted ∧ ∀ j, (s.dev.isl j).loaded = true →
        (t.dev.isl j).state = .halted ∧ (t.dev.isl j).inhibit = true ∧ (t.dev.isl j).safeOut = true) ∧
      RegsBut [R.hpEvlogLost] s.dev t.dev ∧ Only [.chA, .chB, .chip, .out, .log, .regs, .blocks] s t
    ((s.dev.isl i).req = c :: rest → (s.dev.isl i).running = true →
      Runs (.safeStateCommit i) s fun t => (t.dev.isl i).req = rest ∧ committed (islNum i) t) ∧
    ((s.dev.isl i).req = c :: rest → (s.dev.isl i).running = false → (s.dev.isl i).state ≠ .halted →
      Runs (.safeStateCommit i) s fun t =>
        t.dev.isl i = ({ s.dev.isl i with req := rest }).activate c ∧ t.dev.isl (islPeer i) = s.dev.isl (islPeer i) ∧
        Wrote s.dev t.dev (islRec s.dev i 4 0x8001 [c, islNum i, s.dev.ctrlFrame]) ∧
        RegsBut [R.hpEvlogLost] s.dev t.dev ∧ Only [.chA, .chB, .log, .regs] s t) ∧
    ((s.dev.isl i).req = c :: rest → (s.dev.isl i).state = .halted → Runs (.safeStateCommit i) s fun t =>
        t.dev.isl i = { s.dev.isl i with req := rest } ∧ t.dev.isl (islPeer i) = s.dev.isl (islPeer i) ∧
        Only [.chA, .chB] s t) ∧
    ((s.dev.isl i).peerReq = some c → (s.dev.isl i).running = true → c ∉ (s.dev.isl i).req →
      Runs (.safeStateRequestReceived i) s fun t =>
        (t.dev.isl i).peerReq = none ∧ committed (islNum (islPeer i)) t) ∧
    ((s.dev.isl i).peerReq = some c → (s.dev.isl i).running = false ∨ c ∈ (s.dev.isl i).req →
      Runs (.safeStateRequestReceived i) s fun t =>
        t.dev.isl i = { s.dev.isl i with peerReq := none } ∧ t.dev.isl (islPeer i) = s.dev.isl (islPeer i) ∧
        Only [.chA, .chB] s t)

/-- R29, R322, R323, R404, R417, R418. The reset that follows a commit, a recovery step past its bound, a
rail fault and the analog trip leave the compute domain in reset; the trip releases with every sensor
below 100 degrees. -/
def Obligations.ComputeDomainIsReset : Prop :=
  (∀ (s : State), s.dev.chip.safeActive = true → s.dev.chip.computeReset = false → s.dev.chip.phase ≠ .modReset →
    s.dev.chip.resetDone = false → s.dev.recovering = false → s.dev.chip.safeAt / wingbeatNs < s.dev.wb →
    Runs .computeResetAssert s fun t =>
      ComputeDomainReset s.dev t.dev ∧ t.dev.chA.state = s.dev.chA.state ∧ t.dev.chB.state = s.dev.chB.state ∧
      t.dev.enc = s.dev.enc ∧ t.dev.pwr = s.dev.pwr ∧ t.dev.sec = s.dev.sec ∧ t.dev.out = s.dev.out ∧ t.nv = s.nv) ∧
  (∀ (step : Fin 16) (ms : Fin 65536) (n : Nat) (s : State), s.dev.recovering = true → ms.val = min 65535 s.dev.recMs →
    stepEnd step = some n → s.dev.chip.recStart + n * 1000000 < s.dev.time.now →
    Runs (.recoveryStepTimeout step ms) s fun t =>
      ComputeDomainReset s.dev t.dev ∧
      t.dev.chip.lastRecMs = (s.dev.time.now - s.dev.chip.recStart) / 1000000 ∧
      (s.dev.chA.loaded = true → Recorded s.dev t.dev [islRec s.dev .a 4 0x8071 [step, ms]]) ∧
      (s.dev.chip.noPrimary < 2 → t.dev.chA.state = s.dev.chA.resafe.state ∧ t.dev.chB.state = s.dev.chB.resafe.state) ∧
      (2 ≤ s.dev.chip.noPrimary → t.dev.chip.phase = .halted ∧ ∀ j, (s.dev.isl j).loaded = true →
        (t.dev.isl j).state = .halted ∧ (t.dev.isl j).inhibit = true) ∧
      t.dev.enc = s.dev.enc ∧ t.dev.pwr = s.dev.pwr ∧ t.dev.sec = s.dev.sec ∧ t.dev.out = s.dev.out ∧ t.nv = s.nv) ∧
  (∀ (rail : Fin 5) (mv : BitVec 16) (s : State), s.dev.chip.phase ≠ .modReset →
    mv.toNat < (railWindow rail).1 ∨ (railWindow rail).2 < mv.toNat → Runs (.railFault rail mv) s fun t =>
      ((∀ e ∈ s.dev.blocks, e.2.beats = []) →
        Recorded s.dev t.dev [regRec s.dev 4 0x4030 5 0xFF [rail, mv.toNat]]) ∧ Counted s.dev t.dev R.pwrRailFault ∧
      t.dev.chip.coldNext = (s.dev.chip.coldNext || (decide (1 ≤ rail.val) && decide (rail.val ≤ 3))) ∧
      (∀ j, (s.dev.isl j).loaded = true → (s.dev.isl j).state ≠ .halted → 5 ∈ (t.dev.isl j).req) ∧
      (s.dev.chip.computeReset = false ∨ s.dev.recovering = true → ComputeDomainReset s.dev t.dev) ∧
      (s.dev.chip.computeReset = true → s.dev.recovering = false →
        RegsBut [R.pwrRailFault, R.hpEvlogLost] s.dev t.dev ∧ Only [.regs, .log, .chA, .chB, .chip, .blocks] s t)) ∧
  (∀ (pair : Fin 60) (s : State), s.dev.chip.phase ≠ .modReset → s.dev.pwr.tripped = false →
    s.dev.trips pair = true → Runs (.analogTrip pair) s fun t =>
      t.dev.pwr = { s.dev.pwr with
        tripped := true, tripBit := true, tripPair := pair, trips := min 0xFFFF (s.dev.pwr.trips + 1) } ∧
      ((∀ e ∈ s.dev.blocks, e.2.beats = []) →
        Recorded s.dev t.dev [regRec s.dev 4 0x4010 5 0xFF [pair, unsigned 16 (s.dev.pwr.raw.getD (2 * pair) 0),
          unsigned 16 (s.dev.pwr.raw.getD (2 * pair + 1) 0)]]) ∧
      (s.dev.chip.computeReset = false ∨ s.dev.recovering = true → ComputeDomainReset s.dev t.dev) ∧
      (s.dev.chip.computeReset = true → s.dev.recovering = false → Only [.pwr, .regs, .log, .blocks] s t)) ∧
  ∀ (s : State), s.dev.pwr.tripped = true → s.dev.chip.computeReset = false →
    s.dev.recovering = true ∨ s.dev.chip.phase = .loading ∨ s.dev.chip.phase = .locked →
    let cool := (s.dev.pwr.raw.take 120).all fun x => validT x && decide (x < 1600)
    (cool = true → Runs .tripRelease s fun t =>
      t.dev.pwr = { s.dev.pwr with tripped := false, tripBit := false } ∧ Only [.pwr] s t) ∧
    (cool = false → s.dev.recovering = true → Runs .tripRelease s fun t =>
      ComputeDomainReset s.dev t.dev ∧ t.dev.pwr = s.dev.pwr)

/-- R315 to R320. An island in service evaluates a frame once: the confirmed cocoon of a released frame
becomes the one in force, a withheld or unconfirmed frame starts playout with its reason, and a frame
without a report waits for the peer's heartbeat. Messages leave at their instants; a copy asked for and
received in order becomes the cocoon in force, and one that is late or bad starts playout. -/
def Obligations.FramesAreEvaluated : Prop :=
  ∀ (i : Isl) (s : State),
    let f := s.dev.ctrlFrame
    let x := s.dev.isl i
    (x.judges = true → x.evalFrame ≠ f → s.dev.due f + 20000 ≤ s.dev.time.now → x.want = none →
      (x.state = .monitoring → x.repFrame = some f → x.repCause = 0 → f ∈ x.confirmed →
        Runs (.frameEvaluation i true true) s fun t =>
          (t.dev.isl i).cocoon = x.repCocoon ∧ (t.dev.isl i).cocoonF = f ∧ (t.dev.isl i).cocoonGen = x.repGen ∧
          (t.dev.isl i).cocoonCrc = Config.crc32 x.repCocoon % 2 ^ 32 ∧ (t.dev.isl i).evalFrame = f ∧
          (t.dev.isl i).playout = false ∧ (t.dev.isl i).req = x.req ∧ (t.dev.isl i).badFeeds = 0 ∧
          t.dev.isl (islPeer i) = s.dev.isl (islPeer i) ∧
          (x.playout = true → Wrote s.dev t.dev (islRec s.dev i 0 0x8011 [f, x.run]) ∧ t.dev.pl.playedOut = true) ∧
          (x.playout = false → Only [.chA, .chB] s t) ∧
          RegsBut [R.hpEvlogLost] s.dev t.dev ∧ Only [.chA, .chB, .pl, .log, .regs] s t) ∧
      (x.state ≠ .monitoring → x.gotFrame f = true → Runs (.frameEvaluation i true true) s fun t =>
          (t.dev.isl i).cocoon = x.repCocoon ∧ (t.dev.isl i).cocoonF = f ∧ (t.dev.isl i).playout = x.playout ∧
          t.dev.isl (islPeer i) = s.dev.isl (islPeer i) ∧ Only [.chA, .chB] s t) ∧
      (x.playout = false → x.runOut + 1 ≠ (s.dev.chip.image.map (·.island.playoutLimit)).getD 100 →
        x.gotFrame f = false → x.state ≠ .monitoring ∨ x.repFrame = some f →
        Runs (.frameEvaluation i true true) s fun t =>
          (t.dev.isl i).playout = true ∧ (t.dev.isl i).cocoon = x.cocoon ∧ (t.dev.isl i).cocoonF = x.cocoonF ∧
          (t.dev.isl i).run = min 0xFFFF (x.run + 1) ∧ (t.dev.isl i).expired = x.ended s.dev.time.now ∧
          (t.dev.isl i).runOut = (if s.dev.outside i then x.runOut + 1 else 0) ∧ (t.dev.isl i).req = x.req ∧
          Wrote s.dev t.dev (islRec s.dev i 5 0x8010
            [f, if x.state ≠ .monitoring then 4 else if x.repCause ≠ 0 then 1 else 2]) ∧
          t.dev.isl (islPeer i) = s.dev.isl (islPeer i) ∧
          RegsBut [R.hpEvlogLost] s.dev t.dev ∧ Only [.chA, .chB, .log, .regs] s t) ∧
      (x.state = .monitoring → s.dev.chip.safeActive = false → x.playout = true →
        x.runOut + 1 = (s.dev.chip.image.map (·.island.playoutLimit)).getD 100 → x.repFrame = some f → x.repCause ≠ 0 →
        Runs (.frameEvaluation i true true) s fun t =>
          1 ∈ (t.dev.isl i).req ∧ (t.dev.isl i).playout = true ∧ (t.dev.isl i).vote = false ∧
          (x.vote = true → t.dev.chip.primaryEn = false) ∧ Only [.chA, .chB, .chip, .log, .regs] s t) ∧
      (∀ feedOk, x.state = .monitoring → x.playout = false → x.badFeeds ≠ 2 → x.repUsed ≠ some f →
        x.prevRep.map (·.1) ≠ some f → Runs (.frameEvaluation i false feedOk) s fun t =>
          (t.dev.isl i).awaiting = some f ∧ (t.dev.isl i).playout = false ∧ (t.dev.isl i).evalFrame = f ∧
          (t.dev.isl i).badFeeds = x.badFeeds + 1 ∧ (t.dev.isl i).cocoon = x.cocoon ∧
          (t.dev.isl i).req = (if feedOk then x.req else x.dropFeed.req) ∧ (t.dev.isl i).repFrame ≠ some f ∧
          t.dev.isl (islPeer i) = s.dev.isl (islPeer i) ∧ Only [.chA, .chB] s t)) ∧
    (x.judges = true → x.lastMsg ≠ some f → s.dev.due f ≤ s.dev.time.now →
      x.playout = true ∨ x.state ≠ .monitoring ∨ (x.repFrame = some f ∧ x.repCause ≠ 0) →
      Runs (.cocoonMessageSend i) s fun t =>
        t.dev.isl i = { x with
          lastMsg := some f, playout := true
          repUsed := if !x.playout && x.state == .monitoring then some f else x.repUsed } ∧
        t.dev.isl (islPeer i) = s.dev.isl (islPeer i) ∧
        t.dev.out = s.dev.out ++ (if x.cocoon = [] then [] else 
          [Out.cocoonMsg i s.dev.islHead.1 s.dev.islHead.2.1 s.dev.islHead.2.2 (s.dev.cocoonPayload i f)]) ∧
        (x.playout = true → Quiet s.dev t.dev) ∧
        (x.playout = false → Wrote s.dev t.dev (islRec s.dev i 5 0x8010 [f, if x.state ≠ .monitoring then 4 else 1])) ∧
        RegsBut [R.hpEvlogLost] s.dev t.dev ∧ Only [.chA, .chB, .out, .log, .regs] s t) ∧
    (x.loaded = true → x.lastStatus ≠ some f → s.dev.due f + 50000 ≤ s.dev.time.now →
      Runs (.statusMessageSend i) s fun t =>
        t.dev.isl i = { x with lastStatus := some f } ∧ t.dev.isl (islPeer i) = s.dev.isl (islPeer i) ∧
        t.dev.out = s.dev.out ++ [.statusMsg i s.dev.islHead.1 s.dev.islHead.2.1 s.dev.islHead.2.2 (toLE 4 f ++ toLE 1 (islNum i) ++ toLE 3 0 ++
          ((List.range 12).flatMap fun k => toLE 4 (x.areaWord k)) ++ toLE 8 s.dev.time.now)] ∧
        Only [.chA, .chB, .out] s t) ∧
    (∀ g : Fin 140737488355328, x.loaded = true → x.cocoon ≠ [] → x.cocoonF = g.val →
      Runs (.cocoonRequestReceived i g) s fun t =>
        t.dev.out = s.dev.out ++ [.cocoonCopy i x.cocoonF x.cocoonCrc] ∧ Only [.out] s t) ∧
    ∀ (g : Fin 140737488355328) (gen : BitVec 16) (crcOk : Bool) (data : List Byte), x.want = some g.val →
      let ok := crcOk && x.copyOk g data && data.length == 256 && decide (s.dev.time.now ≤ s.dev.due g + 125000)
      (ok = true → Runs (.cocoonCopyReceived i g gen crcOk data) s fun t =>
        (t.dev.isl i).cocoon = data ∧ (t.dev.isl i).cocoonF = g ∧ (t.dev.isl i).cocoonGen = gen.toNat ∧
        (t.dev.isl i).cocoonStep = (s.dev.isl (islPeer i)).cocoonStep ∧ (t.dev.isl i).want = none ∧
        (t.dev.isl i).playout = (x.playout && x.state != .monitoring) ∧
        t.dev.isl (islPeer i) = s.dev.isl (islPeer i) ∧
        (x.playout = false ∨ x.state ≠ .monitoring →
          Wrote s.dev t.dev (islRec s.dev i 5 0x8012 [g, Config.crc32 data % 2 ^ 32]) ∧
          Only [.chA, .chB, .log, .regs] s t) ∧
        (x.playout = true → x.state = .monitoring → Logged s.dev t.dev [islRec s.dev i 0 0x8011 [g, x.run],
          islRec s.dev i 5 0x8012 [g, Config.crc32 data % 2 ^ 32]] ∧ t.dev.pl.playedOut = true) ∧
        Only [.chA, .chB, .pl, .log, .regs] s t) ∧
      (ok = false → Runs (.cocoonCopyReceived i g gen crcOk data) s fun t =>
        (t.dev.isl i).want = none ∧ (t.dev.isl i).playout = true ∧ (t.dev.isl i).cocoon = x.cocoon ∧
        t.dev.isl (islPeer i) = s.dev.isl (islPeer i) ∧
        (x.playout = true → t.dev.isl i = { x with want := none } ∧ Quiet s.dev t.dev) ∧
        (x.playout = false → Recorded s.dev t.dev [islRec s.dev i 5 0x8010 [g, 3]] ∧
          (t.dev.isl i).run = min 0xFFFF (x.run + 1) ∧
          (t.dev.isl i).runOut = (if s.dev.outside i then x.runOut + 1 else 0)) ∧
        Only [.chA, .chB, .chip, .log, .regs] s t)

/-- R311, R313, R318, R321, R328. Heartbeats leave once per wingbeat; a good one brings the peer's state and
a vote cast anew, and a withdrawn vote disables primary output at once; the second missing one in a row
loses the peer with 0x8020 and cause 2. A self-test pass restarts its block's interval with a checkpoint,
or asks for the block's retirement; an overdue block is reported and shown as LATENT. -/
def Obligations.HeartbeatsVotesAndSelfTests : Prop :=
  (∀ (i : Isl) (s : State), (s.dev.isl i).loaded = true →
    let x := s.dev.isl i
    (x.lastHbW ≠ s.dev.wb → 40000 ≤ s.dev.time.now % wingbeatNs → Runs (.heartbeatSend i) s fun t =>
      t.dev.out = s.dev.out ++ [.heartbeat i (hbBytes x.beat)] ∧ (hbBytes x.beat).length = 32 ∧ t.dev.isl i = { x with lastHbW := s.dev.wb } ∧
      t.dev.isl (islPeer i) = s.dev.isl (islPeer i) ∧ Only [.chA, .chB, .out] s t) ∧
    (∀ h : Heartbeat, h.w.toNat = x.ownW % 65536 → max x.ownStep h.therm.val = x.step →
      s.dev.wb ≠ s.dev.ctrlFrame * s.dev.lc + s.dev.fld R.plGateCfg 8 8 → Runs (.heartbeatReceive i (.ok h)) s fun t =>
        (t.dev.isl i).missHb = 0 ∧ (t.dev.isl i).okHb = min 16 (x.okHb + 1) ∧ (t.dev.isl i).peerHb = some h ∧
        (t.dev.isl i).peerOk = (x.peerOk || min 16 (x.okHb + 1) == 16) ∧
        (t.dev.isl i).vote = decide (t.dev.voteBad i = 0) ∧ (t.dev.isl i).state = x.state ∧
        (t.dev.isl i).req = x.req ∧ (t.dev.isl i).cocoon = x.cocoon ∧
        (x.vote = true → (t.dev.isl i).vote = false → t.dev.chip.primaryEn = false ∧
          Wrote s.dev t.dev (islRec s.dev i 5 0x8003 [islNum i, t.dev.voteBad i])) ∧
        (x.vote = false ∨ (t.dev.isl i).vote = true → Only [.chA, .chB] s t) ∧
        t.dev.isl (islPeer i) = s.dev.isl (islPeer i) ∧
        RegsBut [R.hpEvlogLost] s.dev t.dev ∧ Only [.chA, .chB, .chip, .log, .regs] s t) ∧
    (∀ h : Heartbeat, h.w.toNat ≠ x.ownW % 65536 → x.state ≠ .halted → max x.ownStep h.therm.val = x.step →
      Runs (.heartbeatReceive i (.ok h)) s fun t =>
        3 ∈ (t.dev.isl i).req ∧ (t.dev.isl i).missHb = 0) ∧
    (∀ bad : Bool, s.dev.wb ≠ s.dev.ctrlFrame * s.dev.lc + s.dev.fld R.plGateCfg 8 8 →
      Runs (.heartbeatReceive i (if bad then .badCrc else .missing)) s fun t =>
        t.dev.isl i = { x with
          missHb := min 2 (x.missHb + 1), okHb := 0
          crcErr := if bad then min 0xFFFF (x.crcErr + 1) else x.crcErr
          missing := if bad then x.missing else min 0xFFFF (x.missing + 1) } ∧
        t.dev.isl (islPeer i) = s.dev.isl (islPeer i) ∧ Only [.chA, .chB] s t) ∧
    (s.dev.wb = s.dev.ctrlFrame * s.dev.lc + s.dev.fld R.plGateCfg 8 8 → x.awaiting = some s.dev.ctrlFrame →
      x.playout = false → x.runOut + 1 ≠ (s.dev.chip.image.map (·.island.playoutLimit)).getD 100 →
      Runs (.heartbeatReceive i .missing) s fun t =>
        (t.dev.isl i).awaiting = none ∧ (t.dev.isl i).playout = true ∧ (t.dev.isl i).run = min 0xFFFF (x.run + 1) ∧
        Wrote s.dev t.dev (islRec s.dev i 5 0x8010 [s.dev.ctrlFrame, 3]) ∧ Only [.chA, .chB, .log, .regs] s t) ∧
    (s.dev.wb = s.dev.ctrlFrame * s.dev.lc + s.dev.fld R.plGateCfg 8 8 → x.awaiting = some s.dev.ctrlFrame →
      ∀ h : Heartbeat, h.w.toNat = x.ownW % 65536 → max x.ownStep h.therm.val = x.step →
        h.reportF = s.dev.ctrlFrame % 2 ^ 30 → h.outcome = 1 → Runs (.heartbeatReceive i (.ok h)) s fun t =>
        (t.dev.isl i).want = some s.dev.ctrlFrame ∧ t.dev.out = s.dev.out ++ [.cocoonReq i s.dev.ctrlFrame] ∧
        (t.dev.isl i).playout = x.playout ∧ Only [.chA, .chB, .chip, .out, .log, .regs] s t) ∧
    (x.peerOk = true → x.missHb = 2 → Runs (.peerLost i) s fun t =>
      (t.dev.isl i).peerOk = false ∧ (t.dev.isl i).vote = false ∧
      (x.vote = true → t.dev.chip.primaryEn = false) ∧ (x.state ≠ .halted → 2 ∈ (t.dev.isl i).req) ∧
      Recorded s.dev t.dev [islRec s.dev i 5 0x8020 [(x.peerHb.map (·.w.toNat)).getD 0]] ∧
      t.dev.isl (islPeer i) = s.dev.isl (islPeer i) ∧
      RegsBut [R.hpEvlogLost] s.dev t.dev ∧ Only [.chA, .chB, .chip, .log, .regs] s t)) ∧
  ∀ (b : Fin 144) (s : State),
    let k := s.dev.blk b
    (∀ (x : SelfTest) (pattern : Word), k.svc = .inService → k.selftest = some x →
      let next := { x with pattern := 0, pass := (x.pass + 1) % 65536, since := s.dev.time.now, sig := 0 }
      let a := hubBase + x.addr
      (Runs (.selftestPassEnd b true pattern) s fun t =>
        t.dev.blk b = { k with
          tested := true, lastPass := s.dev.time.now, passNo := (x.pass + 1) % 65536, overdue := false
          selftest := some next } ∧
        t.dev.rdN a 4 = 0 ∧ t.dev.rdN (a + 4) 2 = (x.pass + 1) % 65536 ∧
        t.dev.rdN (a + 6) 2 = b.val ∧ t.dev.rdN (a + 8) 8 = 0 ∧ t.dev.rdN (a + 16) 8 = s.dev.time.now % 2 ^ 64 ∧
        t.dev.rdN (a + 24) 4 = s.dev.testPkg % 2 ^ 32 ∧
        t.dev.chA.latent = (s.dev.inService.any fun n => decide (n ≠ b.val) && (s.dev.blk n).overdue) ∧
        t.dev.chB.latent = t.dev.chA.latent ∧ MemBut a 64 s.dev t.dev ∧ BlocksBut b s.dev t.dev ∧
        Only [.blocks, .mem, .poison, .chA, .chB] s t) ∧
      (Runs (.selftestPassEnd b false pattern) s fun t =>
        Wrote s.dev t.dev (islRec s.dev (if s.dev.chA.loaded then .a else .b) 2 0x8041 [b, pattern.toNat, x.pass]) ∧
        t.dev.retire.any (·.1 = b.val) = true ∧ (∀ r ∈ s.dev.retire, r ∈ t.dev.retire) ∧
        t.dev.blk b = { k with tested := false } ∧ BlocksBut b s.dev t.dev ∧
        RegsBut [R.hpEvlogLost] s.dev t.dev ∧ Only [.blocks, .log, .regs, .retire] s t)) ∧
    (∀ pattern : Word, k.svc = .standby → k.selftest = none → (Runs (.selftestPassEnd b true pattern) s fun t =>
      t.dev.blk b = { k with
        tested := true, lastPass := s.dev.time.now, passNo := (k.passNo + 1) % 65536, overdue := false } ∧
      BlocksBut b s.dev t.dev ∧ Only [.blocks, .chA, .chB] s t)) ∧
    (s.dev.live = true → k.svc = .inService → k.overdue = false → s.dev.passSince b + s.dev.dti < s.dev.time.now →
      Runs (.selftestOverdue b) s fun t =>
        t.dev.blk b = { k with overdue := true } ∧ t.dev.chA.latent = true ∧ t.dev.chB.latent = true ∧
        Logged s.dev t.dev (([Isl.a, Isl.b].filter fun i => (s.dev.isl i).loaded).map fun i =>
          islRec s.dev i 5 0x8042 [b, s.dev.passAge b]) ∧
        BlocksBut b s.dev t.dev ∧ RegsBut [R.hpEvlogLost] s.dev t.dev ∧
        Only [.blocks, .log, .regs, .chA, .chB] s t)

/-! ## Power and temperatures -/

/-- R405, R406, R414, R419, R420. A sensor whose pair's count is full is marked with 0x4002, the second of a
pair with 0x4003 as well, and the pair then reads the model value; a phase that faults is isolated, and a
compute phase asks for its block's retirement while a floor or hub phase is a class 0x04 event; a life
record goes to the store when it is due, and a life report leaves every 1,000 hours. -/
def Obligations.SensorsPhasesAndLife : Prop :=
  (∀ (pair : Fin 62) (s : State), s.dev.chip.t0 + 1000000000 ≤ (s.dev.time.now : Int) →
    let r := s.dev.pwr.floor
    let q := r.pair pair
    let lo := s.dev.pwr.raw.getD (2 * pair) 0
    let hi := s.dev.pwr.raw.getD (2 * pair + 1) 0
    let m := s.dev.estimate r r.calmNow pair
    (q.due = true → Runs (.sensorMarkFailed pair) s fun t =>
      let n := 2 * pair.val + b2n (q.victim lo hi m)
      (t.dev.pwr.floor.pair pair).failHi = (q.failHi || q.victim lo hi m) ∧
      (t.dev.pwr.floor.pair pair).failLo = (q.failLo || !q.victim lo hi m) ∧
      (q.failed = true → (t.dev.pwr.floor.pair pair).failHi = true ∧ (t.dev.pwr.floor.pair pair).failLo = true ∧
        (t.dev.pwr.floor.pair pair).value = near (m + 80)) ∧
      (∀ p, p ≠ pair.val → t.dev.pwr.floor.pair p = r.pair p) ∧
      (q.failed = false → Wrote s.dev t.dev
        (regRec s.dev 5 0x4002 5 0xFF [n, unsigned 16 (s.dev.pwr.raw.getD n 0), unsigned 16 (near m)])) ∧
      (q.failed = true → Logged s.dev t.dev
        [regRec s.dev 5 0x4002 5 0xFF [n, unsigned 16 (s.dev.pwr.raw.getD n 0), unsigned 16 (near m)],
         regRec s.dev 5 0x4003 5 0xFF [pair, unsigned 16 (near m)]]) ∧
      RegsBut [R.hpEvlogLost] s.dev t.dev ∧ Only [.pwr, .chA, .chB, .log, .regs] s t) ∧
    (q.due = false → Runs (.sensorMarkFailed pair) s fun t =>
      t.dev.pwr = s.dev.pwr ∧
      ((s.dev.chA.res.pair pair).due = false → t.dev.chA = s.dev.chA) ∧
      ((s.dev.chB.res.pair pair).due = false → t.dev.chB = s.dev.chB) ∧
      t.dev.chA.state = s.dev.chA.state ∧ t.dev.chB.state = s.dev.chB.state ∧ Only [.chA, .chB] s t)) ∧
  (∀ (phase : Fin 576) (cause : PhaseCause) (s : State), s.dev.chip.phase ≠ .modReset →
    phase.val ∉ s.dev.pwr.isolated →
    (phase.val < 432 →
      let b := phase.val / 3
      let k := s.dev.blk b
      (Runs (.phaseFault phase cause) s fun t =>
        t.dev.pwr = { s.dev.pwr with isolated := s.dev.pwr.isolated ++ [phase.val], lastPh := phase } ∧
        (∀ h ∈ (t.dev.blk b).threads, h.2.due = true) ∧ (t.dev.blk b).pools = [] ∧ (t.dev.blk b).waiters = [] ∧
        (t.dev.blk b).posted = [] ∧ (k.svc ≠ .retired → t.dev.retire.any (·.1 = b) = true) ∧
        (k.beats = [] → Recorded s.dev t.dev [blkRec s.dev 2 0x4031 b [phase, phaseCode cause]]) ∧
        (k.chkFault = false →
          (∀ e ∈ k.eng, e.dead = false ∧ ∀ a, e.stage = .third → e.arb = some a → (s.dev.blk a).beats = []) →
          (t.dev.blk b).eng = []) ∧
        (OpsOk s.dev → k.chkFault = false → (∀ x, (s.dev.op x).used = true → (s.dev.op x).block = some b →
            (s.dev.op x).status = none → (s.dev.op x).static = true) →
          ∀ x, (s.dev.op x).used = true → (s.dev.op x).block = some b → (s.dev.op x).status = none →
            (t.dev.op x).status = some stPoisoned)) ∧
      (k.eng = [] → k.beats = [] → k.arbFor = none →
        (∀ e ∈ s.dev.ops, e.2.used = true → e.2.block = some b → e.2.status ≠ none) →
        Runs (.phaseFault phase cause) s fun t =>
          Wrote s.dev t.dev (blkRec s.dev 2 0x4031 b [phase, phaseCode cause]) ∧
          (k.svc = .retired → t.dev.retire = s.dev.retire) ∧
          t.dev.blk b = { k with
            threads := if k.powered then k.threads.filter (fun h => h.2.due) else [], pools := [], waiters := []
            posted := [], preempt := none } ∧
          (∀ n, n ≠ b → { t.dev.blk n with waiters := [] } = { s.dev.blk n with waiters := [] }) ∧
          RegsBut [R.hpEvlogLost] s.dev t.dev ∧ Only [.pwr, .log, .regs, .retire, .blocks] s t)) ∧
    (432 ≤ phase.val → Runs (.phaseFault phase cause) s fun t =>
      let g := (phase.val - 432) / 8
      t.dev.pwr = { s.dev.pwr with isolated := s.dev.pwr.isolated ++ [phase.val], lastPh := phase } ∧
      Wrote s.dev t.dev (regRec s.dev 4 0x4032 5 0xFF [phase, g, s.dev.groupOut g + 1]) ∧
      (s.dev.groupOut g = 1 → t.dev.phasesOk = false) ∧
      (∀ j, (s.dev.isl j).loaded = true → (s.dev.isl j).state ≠ .halted → 5 ∈ (t.dev.isl j).req) ∧
      RegsBut [R.hpEvlogLost] s.dev t.dev ∧ Only [.pwr, .log, .regs, .chA, .chB] s t)) ∧
  ∀ (i : Isl) (s : State), (s.dev.isl i).loaded = true →
    let x := s.dev.isl i
    (x.lifeDue = true → s.dev.chip.computeReset = false → Runs (.lifeRecordSend i) s fun t =>
      t.nv.store = s.nv.store.putLife i s.dev.time.now ⟨x.lifeTime, x.lifeCyc, x.cycles, x.residue⟩ ∧
      t.nv.store.life i = ⟨x.lifeTime, x.lifeCyc, x.cycles, x.residue⟩ ∧
      t.nv.store.life (islPeer i) = s.nv.store.life (islPeer i) ∧
      t.nv = { s.nv with store := t.nv.store } ∧ t.dev.out = s.dev.out ++ [.lifeRecord i] ∧
      t.dev.isl i = { x with lifeDue := false } ∧ t.dev.isl (islPeer i) = s.dev.isl (islPeer i) ∧
      Kept [.chA, .chB, .out] s.dev t.dev ∧ t.pending = s.pending) ∧
    (x.lifeRep + 1000 ≤ s.dev.chip.hours → Runs (.lifeReport i) s fun t =>
      t.dev.isl i = { x with lifeRep := s.dev.chip.hours / 1000 * 1000 } ∧
      t.dev.isl (islPeer i) = s.dev.isl (islPeer i) ∧
      Wrote s.dev t.dev (islRec s.dev i 0 0x4040 [(x.lifeTime * 10000).floor.toNat,
        (x.lifeCyc.foldl max 0 * 10000).floor.toNat, x.cycles]) ∧
      RegsBut [R.hpEvlogLost] s.dev t.dev ∧ Only [.chA, .chB, .log, .regs] s t)

/-! ## Hangs -/

/-- R337 to R342. A hang found in a running tile resets its region where no thread outside holds a grant
into it: 0x1060, the region in reset with its suspects named, every block of it emptied, its scratchpads
zero, static items POISONED and dynamic operations interrupted, none of them with engine operations any more; the
fourth reset of an epoch has failed with 0x1064 (log 69); of another tile only saved sets are swept. An abandonment
past its bound does the same at once, and one during a replay is contained like a hang in replay. -/
def Obligations.HangsResetTheirRegion : Prop :=
  let reset (t : Nat) (d : Dev) (u : State) (s : State) : Prop :=
    let bs := d.hungBlocks t
    let b := bs.headD 0
    let w := (d.blk b).hung.headD (4, 0)
    let all := (bs.flatMap d.hungCtxs).eraseDups
    let sus := sortBy (fun c => c) (all.filter fun c => !(d.ctx c).static && decide (c < 4096))
    (u.dev.tile t).region = 1 ∧ (u.dev.tile t).resetAt = d.time.now ∧ (u.dev.tile t).hung = some b ∧
    (u.dev.tile t).suspects = sus ∧ (u.dev.tile t).resets = (d.tile t).resets + 1 ∧
    (u.dev.tile t).map = (d.tile t).map ∧ (u.dev.tile t).blkReset = [] ∧
    ((u.dev.tile t).failed = true ↔ 4 ≤ (d.tile t).resets + 1) ∧
    (∀ n, n ≠ t → { u.dev.tile n with saves := [] } = { d.tile n with saves := [] }) ∧
    (∀ x, tileOf x = t → (u.dev.blk x).eng = [] ∧ (u.dev.blk x).threads = [] ∧ (u.dev.blk x).pools = [] ∧
      (u.dev.blk x).beats = [] ∧ (u.dev.blk x).posted = [] ∧ (u.dev.blk x).engStuck = 0 ∧ (u.dev.blk x).svc = (d.blk x).svc) ∧
    (∀ x, tileOf x ≠ t →
      u.dev.blk x = { d.blk x with waiters := (d.blk x).waiters.filter fun w => tileOf w.1 != t }) ∧
    (∀ x, blockBase (36 * t) ≤ x → x < blockBase (36 * t + 36) → u.dev.rd x = 0) ∧
    MemBut (blockBase (36 * t)) (36 * 0x100000) d u.dev ∧
    (∀ k x, (d.op k).used = true → (d.op k).block = some x → tileOf x = t → (d.op k).status = none →
      ((d.op k).static = true → (u.dev.op k).status = some stPoisoned) ∧
      ((d.op k).static = false → (u.dev.op k).interrupted = true ∧ (u.dev.op k).block = none ∧
        (u.dev.op k).status = none)) ∧
    (∀ k x, (d.op k).used = true → (d.op k).block = some x → tileOf x = t →
      (u.dev.op k).launches = 0 ∧ (u.dev.op k).kids = []) ∧
    (∀ k x, (d.op k).block = some x → tileOf x ≠ t →
      { u.dev.op k with launches := 0, kids := [], savedWb := 0 } = { d.op k with launches := 0, kids := [], savedWb := 0 }) ∧
    (4 ≤ (d.tile t).resets + 1 → ∀ j, (d.isl j).loaded = true → (d.isl j).state ≠ .halted → 6 ∈ (u.dev.isl j).req) ∧
    ((∀ x, tileOf x = t → (d.blk x).beats = []) → Recorded d u.dev [blkRec d 3 0x1060 b [w.1, w.2, sus.length,
      ((d.tileOps t).filter fun e => !e.2.static && e.2.status.isNone && e.2.block.isSome).length]]) ∧
    (∀ n h l, (d.blk n).beats = h :: l → tileOf n = t →
      (∀ x, tileOf x = t → x < n → (d.blk x).beats = []) → ∃ q c p,
      Recorded d u.dev [{ blkRec d 2 0x1003 n [h.cell, h.syndrome, q] p c with time := h.found }]) ∧
    Counted d u.dev (R.qmHangs t) ∧ RegsBut [R.qmHangs t, R.hpEvlogLost] d u.dev ∧
    Only [.regs, .log, .blocks, .tiles, .ops, .mem, .poison, .chA, .chB] s u
  let apart (t : Nat) (d : Dev) : Prop :=
    (∀ k ∈ d.blocks, tileOf k.1 ≠ t → ∀ h ∈ k.2.threads, ∀ g ∈ h.2.grants, tileOf g.block ≠ t) ∧
    (∀ k ∈ d.tiles, ∀ x ∈ k.2.saves, tileOf x.2.block ≠ t → ∀ h ∈ x.2.threads, ∀ g ∈ h.2.grants,
      tileOf g.block ≠ t) ∧
    ∀ x, tileOf x = t → ∀ e ∈ (d.blk x).eng, ∀ a, e.arb = some a → tileOf a = t
  (∀ (h : HangIn) (s : State), let t := h.tile; let corrupt := h.corrupt; s.dev.live = true → (s.dev.tile t).region = 0 →
    (s.dev.corruptAt t corrupt).hungBlocks t ≠ [] → OpsOk s.dev → apart t s.dev →
    Runs (.hangDetected h) s fun u => reset t (s.dev.corruptAt t corrupt) u s) ∧
  ∀ (b : Fin 144) (s : State), s.dev.live = true → s.dev.abandoning b = true →
    (s.dev.tile (tileOf b)).blkReset.any (·.1 == b.val) = false →
    let d := s.dev.modBlk b fun k => { k with engStuck := 16 }
    ((s.dev.tile (tileOf b)).region = 0 → OpsOk s.dev → apart (tileOf b) s.dev →
      Runs (.abandonmentTimeout b) s fun u => reset (tileOf b) d u s) ∧
    ((s.dev.tile (tileOf b)).region = 2 →
      exec (.abandonmentTimeout b) s = exec (.replayHang b) { s with dev := d })

/-- R341 step 4, R344 to R349. A region that resumes takes its assignments again and replays its suspects
in order, and with none left its recovery ends; one past its bound has failed instead, once in a recovery. A hang in
replay, or a corrupt block (R17), resets one block and names it, and a suspect that hangs again loses its context; the
next suspect begins once its block is up (log 68). A hang that no replay explained counts against its block, the third
of which asks for retirement; a hung unit of a tile or the hub, and a reset that fails, are class 0x04 events. -/
def Obligations.SuspectsAreReplayed : Prop :=
  (∀ (t : Fin 4) (s : State), s.dev.live = true → s.dev.time.now % wingbeatNs = 0 →
    (s.dev.tile t).region = 1 → (s.dev.tile t).resetAt < s.dev.time.now →
    let late := s.dev.resetLate (s.dev.tile t).resetAt
    (late = true → Runs (.regionResume t) s fun u =>
      ((s.dev.tile t).failed = true → u = s) ∧
      ((s.dev.tile t).failed = false → u.dev.tile t = { s.dev.tile t with failed := true } ∧
        (∀ n, n ≠ t.val → u.dev.tile n = s.dev.tile n) ∧ Wrote s.dev u.dev (regRec s.dev 4 0x1064 t 0xFF [1]) ∧
        RegsBut [R.hpEvlogLost] s.dev u.dev ∧ Only [.tiles, .chA, .chB, .log, .regs] s u)) ∧
    (late = false → (s.dev.tile t).suspects = [] → (s.dev.tile t).hung.isSome = true → (s.dev.tile t).replayBlk = none →
      Runs (.regionResume t) s fun u =>
        (u.dev.tile t).region = 0 ∧ (u.dev.tile t).hung = none ∧ (∀ n, n ≠ t.val → u.dev.tile n = s.dev.tile n) ∧
        (∀ x, tileOf x = t → (u.dev.blk x).slotPart = s.dev.slotAt x s.dev.wb) ∧ u.dev.mem = s.dev.mem) ∧
    (∀ c rest h, late = false → (s.dev.tile t).suspects = c :: rest → (s.dev.tile t).hung = some h →
      Runs (.regionResume t) s fun u =>
        (u.dev.tile t).region = 2 ∧ (u.dev.tile t).current = some c ∧ (u.dev.tile t).suspects = rest ∧
        (u.dev.tile t).replayBlk.isSome = true ∧ (∀ n, n ≠ t.val → u.dev.tile n = s.dev.tile n) ∧
        (∀ x, tileOf x = t → (u.dev.blk x).slotPart = s.dev.slotAt x s.dev.wb) ∧ u.dev.mem = s.dev.mem)) ∧
  (∀ (t : Fin 4) (c : Fin 36) (b : Fin 144) (s : State), b.val = 36 * t.val + c.val → s.dev.live = true →
    (s.dev.tile t).region = 2 → (s.dev.tile t).blkReset.any (·.1 == b.val) = false →
    exec (.hangDetected { tile := t, corrupt := [c] }) s = exec (.replayHang b) { s with dev := s.dev.corruptAt t [c] }) ∧
  (∀ (b : Fin 144) (s : State), s.dev.live = true → (s.dev.tile (tileOf b)).region = 2 →
    (s.dev.tile (tileOf b)).blkReset.any (·.1 == b.val) = false → (s.dev.blk b).hung ≠ [] →
    let x := s.dev.tile (tileOf b)
    let dyn := (s.dev.hungCtxs b).filter fun c => !(s.dev.ctx c).static && decide (c < 4096)
    let w := (s.dev.blk b).hung.headD (4, 0)
    let again := if x.replayBlk = some b.val then x.current.toList else []
    let gone := again ++ dyn.filter fun c => x.doneSus.contains c && !again.contains c
    (∀ k ∈ s.dev.blocks, k.1 ≠ b.val → ∀ h ∈ k.2.threads, ∀ g ∈ h.2.grants, g.block ≠ b.val) →
    (∀ k ∈ s.dev.tiles, ∀ v ∈ k.2.saves, v.2.block ≠ b.val → ∀ h ∈ v.2.threads, ∀ g ∈ h.2.grants, g.block ≠ b.val) →
    (gone = [] → Runs (.replayHang b) s fun u =>
      ((s.dev.blk b).beats = [] → Recorded s.dev u.dev [blkRec s.dev 3 0x1061 b [dyn.headD 0xFFFF, w.1, w.2]]) ∧
      (u.dev.tile (tileOf b)).blkReset = x.blkReset ++ [(b.val, s.dev.time.now)] ∧
      (u.dev.tile (tileOf b)).current = (if x.replayBlk = some b.val then none else x.current) ∧
      (∀ c ∈ dyn, c ∈ (u.dev.tile (tileOf b)).suspects ∨ x.current = some c) ∧
      (u.dev.blk b).eng = [] ∧ (u.dev.blk b).threads = [] ∧ (u.dev.blk b).beats = [] ∧
      (∀ y, blockBase b ≤ y → y < blockBase b + 0x100000 → u.dev.rd y = 0) ∧
      ((s.dev.blk b).arbFor = none → (∀ e ∈ (s.dev.blk b).eng, e.arb = none) →
        Counted s.dev u.dev (R.qmHangs (tileOf b)) ∧ MemBut (blockBase b) 0x100000 s.dev u.dev ∧
        (∀ n, n ≠ b.val →
          u.dev.blk n = { s.dev.blk n with waiters := (s.dev.blk n).waiters.filter fun q => q.1 != b.val }) ∧
        RegsBut [R.qmHangs (tileOf b), R.hpEvlogLost] s.dev u.dev ∧
        Only [.regs, .log, .blocks, .tiles, .ops, .mem, .poison, .chA, .chB] s u)) ∧
    (∀ c, gone = [c] → (s.dev.blk b).arbFor = none →
      (∀ k n y, (s.dev.op k).used = true → (s.dev.op k).static = false → (s.dev.op k).block = some y →
        (s.dev.op k).thread = some n → ((s.dev.blk y).thr n).static = none) → Runs (.replayHang b) s fun u =>
      ((s.dev.blk b).beats = [] → Recorded s.dev u.dev [blkRec s.dev 3 0x1061 b [c, w.1, w.2]]) ∧
      (u.dev.ctx c).state ≠ 1 ∧
      (∀ k, (s.dev.op k).used = true → (s.dev.op k).ctx = c → (s.dev.op k).static = false →
        (s.dev.op k).status = none → (u.dev.op k).status = some stQuarantined) ∧
      (u.dev.tile (tileOf b)).blkReset = x.blkReset ++ [(b.val, s.dev.time.now)])) ∧
  (∀ (t : Fin 4) (c : Nat) (s : State),
    let x := s.dev.tile t
    x.region = 2 → x.current = some c → s.dev.replaying t c = false →
    (x.blkReset ≠ [] → x.suspects = [] ∨ (∃ b, x.replayBlk = some b ∧ x.blkReset.any (·.1 == b) = true) →
      Runs (.suspectReplayComplete t) s fun u =>
        u.dev.tile t = { x with replayed := x.replayed + 1, doneSus := x.doneSus ++ [c], current := none } ∧
        (∀ n, n ≠ t.val → u.dev.tile n = s.dev.tile n) ∧ Only [.tiles] s u) ∧
    (∀ b, x.suspects = [] → x.blkReset = [] → x.hungMore = [] → x.hung = some b → x.replayBlk.isSome = true →
      let live := s.dev.chip.hours :: (s.dev.blk b).hangs.filter fun h => decide (s.dev.chip.hours - h ≤ 1000)
      let ended := blkRec s.dev 0 0x1062 b [x.replayed + 1, x.quar]
      Runs (.suspectReplayComplete t) s fun u =>
        (u.dev.tile t).region = 0 ∧ (u.dev.tile t).hung = none ∧ (u.dev.tile t).current = none ∧
        (x.explained = true → Wrote s.dev u.dev ended ∧ Only [.tiles, .log, .regs] s u) ∧
        (x.explained = false → (u.dev.blk b).hangs = live ∧
          (live.length < 3 → Wrote s.dev u.dev ended ∧ u.dev.retire = s.dev.retire) ∧
          (3 ≤ live.length → Logged s.dev u.dev [ended, blkRec s.dev 5 0x1063 b (live.take 3)] ∧
            ((s.dev.blk b).svc ≠ .retired → u.dev.retire.any (·.1 = b) = true))) ∧
        BlocksBut b s.dev u.dev ∧ RegsBut [R.hpEvlogLost] s.dev u.dev ∧
        Only [.tiles, .log, .regs, .blocks, .retire] s u) ∧
    (∀ n rest h, x.suspects = n :: rest → x.hung = some h →
      (∀ b, x.replayBlk = some b → x.blkReset.any (·.1 == b) = false) → Runs (.suspectReplayComplete t) s fun u =>
        (u.dev.tile t).region = 2 ∧ (u.dev.tile t).current = some n ∧ (u.dev.tile t).suspects = rest ∧
        (u.dev.tile t).replayed = x.replayed + 1 ∧ (u.dev.tile t).doneSus = x.doneSus ++ [c])) ∧
  (∀ (region : Fin 5) (unit : Fin 256) (s : State), s.dev.live = true → s.dev.unitHung region unit = true →
    Runs (.unitHangDetected region unit) s fun u =>
      Wrote s.dev u.dev (regRec s.dev 4 0x1065 region 0xFF [unit]) ∧
      (∀ j, (s.dev.isl j).loaded = true → (s.dev.isl j).state ≠ .halted → 5 ∈ (u.dev.isl j).req) ∧
      RegsBut [R.hpEvlogLost] s.dev u.dev ∧ Only [.chA, .chB, .log, .regs] s u) ∧
  (∀ (t : Fin 4) (reason : Fin 5) (s : State), s.dev.live = true → s.dev.resetFailed t reason = true →
    Runs (.regionResetFail t reason) s fun u =>
      Wrote s.dev u.dev (regRec s.dev 4 0x1064 t 0xFF [reason]) ∧
      (∀ j, (s.dev.isl j).loaded = true → (s.dev.isl j).state ≠ .halted → 6 ∈ (u.dev.isl j).req) ∧
      u.dev.tile t = { s.dev.tile t with failed := true } ∧ (∀ n, n ≠ t.val → u.dev.tile n = s.dev.tile n) ∧
      RegsBut [R.hpEvlogLost] s.dev u.dev ∧ Only [.tiles, .chA, .chB, .log, .regs] s u) ∧
  ∀ (b : Fin 144) (s : State), Runs (.unexplainedHangExpiry b) s fun u =>
    u.dev.blk b = { s.dev.blk b with
      hangs := (s.dev.blk b).hangs.filter fun x => decide (s.dev.chip.hours - x ≤ 1000) } ∧
    BlocksBut b s.dev u.dev ∧ Only [.blocks] s u

/-! ## Memory -/

/-- R173, R176, R179, R358 to R360, R373, R378 to R381. A DRAM access that finds its port and channel free, and that
its class, the firewall or the pool refuses, counts, reports and ends its operation as FIREWALL_DENIED. A read
changes memory only where its codewords are uncorrectable: the granule becomes zeros with poison, 0x2002 and a
request for sparing, and the KV block it lies in is lost; and where a codeword decodes as another word, whose 32 bytes
are the model's free value (log 70). Corrected ones write 0x2001 and count against the rank; a cache hit counts what
its code finds. A write of a granule replaces data, poison and encryption mark, a shorter one merges into it. A scrub
pass, once in its interval and where its class may pass, does the same for every granule it finds, each once. -/
def Obligations.MemoryReadsAndWrites : Prop :=
  (∀ (a : DramAcc) (s : State), s.dev.dramUp = true → a.ok = true → PortFree s.dev (s.dev.dramReq a none) →
    target a.addr = .dram →
    let q := s.dev.dramReq a none
    let why (w : Bool) : Option (Nat × Bool) :=
      if s.dev.fld (R.mcReg q.key) 0 8 = 0 then some (5, false)
      else match s.dev.refusal a.init q.part a.addr w false with
        | some r => some r
        | none => if s.dev.locate a.addr = none then some (6, true) else none
    let ends (st : Nat) (t : State) : Prop :=
      ∀ k : Fin 16384, a.token = some k → (s.dev.op k).used = true → (s.dev.op k).status = none →
        (s.dev.op k).kind ≠ .request → TrackersFree s.dev → (t.dev.op k).status = some st
    let denied (tgt : Nat) (r26 : Bool) (t : State) : Prop :=
      Counted s.dev t.dev R.secFwDeny ∧
      t.dev.reg R.secFwLast = a.init.val % 1024 + q.part % 64 * 1024 + tgt % 8 * 65536 ∧
      Wrote s.dev t.dev (if r26 then regRec s.dev 2 0x9012 4 0x80 [a.init, q.part, a.addr]
        else regRec s.dev 2 0x9010 4 0x80 [a.init, q.part, tgt, a.addr] q.part) ∧
      ends stDenied t ∧ t.dev.mem = s.dev.mem ∧ SameDram s.dev t.dev ∧
      (a.token = none → RegsBut [R.secFwDeny, R.secFwLast, R.mcPanic, R.hpEvlogLost] s.dev t.dev ∧
        Only [.regs, .log, .dram] s t)
    let g := a.addr.val / 64
    let line := (s.dev.cacheSetOf g).find? fun l => l.granule = g
    let n := s.dev.decodeOf a
    let cut := a.wrong0.val = 3 ∨ a.wrong1.val = 3
    let delivered (t : State) : Prop :=
      (¬ cut → t.dev.mem = s.dev.mem ∧ t.dev.free = s.dev.free) ∧ MemBut (g * 64) 64 s.dev t.dev ∧
      (if a.wrong0.val = 3 then Holds t.dev (g * 64) (toLE 32 (Config.freeNat s.dev.free))
        else ∀ x, g * 64 ≤ x → x < g * 64 + 32 → t.dev.rd x = s.dev.rd x) ∧
      (if a.wrong1.val = 3 then
          Holds t.dev (g * 64 + 32) (toLE 32 (Config.freeNat (s.dev.free + if a.wrong0.val = 3 then 1 else 0)))
        else ∀ x, g * 64 + 32 ≤ x → x < g * 64 + 64 → t.dev.rd x = s.dev.rd x)
    (∀ tgt r26, why false = some (tgt, r26) → Runs (.dramRead a) s (denied tgt r26)) ∧
    (∀ l, why false = none → s.dev.keyGone a.addr 1 = none → line = some l →
      let set := Config.cacheSet l.granule % 65536
      (a.cacheBad.val = 0 → Runs (.dramRead a) s fun t =>
        RegsBut [R.mcPanic] s.dev t.dev ∧ Only [.dram, .regs] s t ∧ t.dev.dram.ranks = s.dev.dram.ranks) ∧
      (1 ≤ a.cacheBad.val → a.cacheBad.val ≤ 8 → Runs (.dramRead a) s fun t =>
        Counted s.dev t.dev R.mcCacheCe ∧
        Wrote s.dev t.dev (regRec s.dev 1 0x2040 4 0x70 [set, l.way, a.cacheBad.val - 1]) ∧
        RegsBut [R.mcCacheCe, R.mcPanic, R.hpEvlogLost] s.dev t.dev ∧ Only [.dram, .regs, .log] s t) ∧
      (9 ≤ a.cacheBad.val → Runs (.dramRead a) s fun t =>
        Counted s.dev t.dev R.mcCacheUe ∧ t.dev.poisoned a.addr = true ∧
        Wrote s.dev t.dev (regRec s.dev 2 0x2041 4 0x70 [set, l.way, b2n l.dirty]) ∧ ends stMemory t ∧
        (NotKv s.dev (l.granule * 64) → t.dev.mem = s.dev.mem ∧
          (a.token = none → Only [.dram, .regs, .log, .poison, .sec] s t ∧ (l.dirty = false → t.dev.sec = s.dev.sec))) ∧
        (l.dirty = true → l.granule ∈ t.dev.sec.poisonList ∨ t.dev.sec.poisonOver = true))) ∧
    (∀ r off sub, why false = none → s.dev.keyGone a.addr 1 = none → line = none →
      s.dev.locate a.addr = some (r, off, sub) →
      (n = 0 → Runs (.dramRead a) s fun t =>
        t.dev.poisoned a.addr = s.dev.poisoned a.addr ∧ t.dev.dram.ranks = s.dev.dram.ranks ∧
        delivered t ∧
        RegsBut [R.mcRawWait, R.mcPanic] s.dev t.dev ∧ Only [.dram, .regs, .poison, .mem, .free] s t) ∧
      (n = 1 ∨ n = 2 → Runs (.dramRead a) s fun t =>
        Wrote s.dev t.dev (regRec s.dev 1 0x2001 4 (0x40 + r / 2) [r, sub, a.symbol, g]) ∧
        t.dev.reg R.mcLastErr = (r + sub * 128 + a.symbol.val % 64 * 512) % 2 ^ 32 ∧
        t.dev.reg R.mcLastAddr = a.addr.val / 256 % 2 ^ 32 ∧
        (pageKey r off sub ∉ (s.dev.chan (r / 2)).marked ∨ pageKey r off sub ∈ (s.dev.chan (r / 2)).noRow →
          (t.dev.rank r).window s.dev.chip.hours = (s.dev.rank r).window s.dev.chip.hours + n) ∧
        (∀ x, x ≠ r → t.dev.rank x = s.dev.rank x) ∧ t.dev.poisoned a.addr = s.dev.poisoned a.addr ∧ delivered t ∧
        RegsBut [R.mcRawWait, R.mcLastErr, R.mcLastAddr, R.mcPanic, R.hpEvlogLost] s.dev t.dev ∧
        Only [.dram, .regs, .log, .poison, .mem, .free] s t) ∧
      (n = 3 → Runs (.dramRead a) s fun t =>
        t.dev.poisoned a.addr = true ∧ ends stMemory t ∧
        (t.dev.rank r).ue = min 0xFFFFFFFF ((s.dev.rank r).ue + 1) ∧
        ((s.dev.dram.mig.any (·.source = r)) = false → t.dev.dram.queue.any (·.1 = r) = true) ∧
        (g ∈ t.dev.sec.poisonList ∨ t.dev.sec.poisonOver = true) ∧
        Recorded s.dev t.dev [regRec s.dev 2 0x2002 4 (0x40 + r / 2) [r, sub, g, (s.dev.reqToken q).getD 0xFFFF]] ∧
        (∀ i, i < 8 → (s.dev.inst i).state ≠ 0 → (s.dev.inst i).kvBase ≤ a.addr.val →
          a.addr.val < (s.dev.inst i).kvBase + (s.dev.inst i).kvBlocks * (s.dev.inst i).kvBytes →
          (a.addr.val - (s.dev.inst i).kvBase) / (s.dev.inst i).kvBytes ∈ (t.dev.inst i).badKv) ∧
        (a.token = none → NotKv s.dev a.addr →
          (∀ x, g * 64 ≤ x → x < g * 64 + 64 → t.dev.rd x = 0) ∧ MemBut (g * 64) 64 s.dev t.dev ∧
          RegsBut [R.mcRawWait, R.mcLastErr, R.mcLastAddr, R.mcPanic, R.hpEvlogLost] s.dev t.dev ∧
          Only [.mem, .poison, .dram, .regs, .log, .sec, .free] s t))) ∧
    ∀ w : DramData, Instr.wf (.dramWrite a w) = true →
      (∀ tgt r26, why true = some (tgt, r26) → Runs (.dramWrite a w) s (denied tgt r26)) ∧
      (why true = none → w.bytes.length = 64 ∨ (line = none ∧ n = 0 ∧ ¬ cut) ∨ (line ≠ none ∧ a.cacheBad.val = 0) →
        Runs (.dramWrite a w) s fun t =>
          Holds t.dev a.addr w.bytes ∧ MemBut a.addr w.bytes.length s.dev t.dev ∧
          t.dev.poisoned a.addr = (w.poison || (s.dev.poisoned a.addr && decide (w.bytes.length ≠ 64))) ∧
          tget (fun _ => 0) t.dev.enc g = s.dev.encOf q.part ∧ (∀ x, x ≠ g → tget (fun _ => 0) t.dev.enc x =
            tget (fun _ => 0) s.dev.enc x) ∧ RegsBut [R.mcPanic] s.dev t.dev ∧
          (if t.dev.poisoned a.addr then g ∈ t.dev.sec.poisonList ∨ t.dev.sec.poisonOver = true
            else t.dev.sec = s.dev.sec) ∧ Only [.mem, .poison, .enc, .dram, .regs, .sec] s t) ∧
      (why true = none → w.bytes.length ≠ 64 → line = none → n = 3 → a.token = none → NotKv s.dev a.addr →
        Runs (.dramWrite a w) s fun t =>
          Holds t.dev a.addr w.bytes ∧ t.dev.poisoned a.addr = true ∧
          (∀ x, g * 64 ≤ x → x < g * 64 + 64 → ¬ (a.addr.val ≤ x ∧ x < a.addr.val + w.bytes.length) → t.dev.rd x = 0) ∧
          MemBut (g * 64) 64 s.dev t.dev ∧ Only [.mem, .poison, .enc, .dram, .regs, .log, .sec, .free] s t)) ∧
  ∀ (corrected : List (Fin 1099511627776 × Bool)) (poisoned : List (Fin 1099511627776)) (s : State),
    s.dev.dramUp = true → s.dev.live = true → s.dev.scrubPasses = true →
    s.dev.dram.patrol + s.dev.fld R.mcScrubCfg 0 16 ≤ s.dev.chip.hours →
    let cs := eachOnce (·.1) ((corrected.map fun y => (y.1.val, y.2)).filter fun y => s.dev.scrubs y.1)
    let ps := eachOnce id ((poisoned.map (·.val)).filter s.dev.scrubs)
    Runs (.patrolScrubPass corrected poisoned) s fun t =>
      t.dev.log.total = s.dev.log.total + cs.length + ps.length + 1 ∧
      (s.dev.log.buf.length + cs.length + ps.length + 1 ≤ 4096 → t.dev.log.buf.getLast? =
        some (regRec s.dev 0 0x2050 4 0xFF [cs.length, ps.length, s.dev.chip.hours])) ∧
      t.dev.dram.patrol = s.dev.chip.hours ∧ (∀ x ∈ ps, t.dev.poisoned (x / 64 * 64) = true) ∧
      RegsBut [R.mcLastErr, R.mcLastAddr, R.hpEvlogLost] s.dev t.dev ∧
      ((∀ x ∈ ps, NotKv s.dev (x / 64 * 64)) →
        (∀ x ∈ ps, ∀ y, x / 64 * 64 ≤ y → y < x / 64 * 64 + 64 → t.dev.rd y = 0) ∧
        (∀ y, (∀ x ∈ ps, y / 64 ≠ x / 64) → t.dev.rd y = s.dev.rd y ∧ t.dev.poisoned y = s.dev.poisoned y) ∧
        Only [.mem, .poison, .dram, .regs, .log, .sec, .free] s t)

/-- R361, R362, R356, R370 to R378. Refreshes and re-centrings are accounted to their channel; alerts replay
until the fourth in a row retrains the channel, whose failure retires its ranks; the failing rank of the
first cause migrates to the lowest spare on another channel, page by page, and the commit swaps the two in
the pool lists without touching memory.
R176, R361, R364, R367, R371. A request whose class is at its cap waits behind those of its class, and a
response of the class lets the oldest go; one that leaves the regulator is outstanding; one whose channel retrains,
or owes a bank of its sub-channel refreshes up to the limit, waits there, and goes on when the channel serves again. A port in panic mode
raises its panic signal at PANIC_LVL, and each rise counts. -/
def Obligations.RanksAndChannels : Prop :=
  ((∀ (a : DramAcc) (s : State), s.dev.dramUp = true → a.ok = true → a.returned = [] → s.dev.host.bar2 = [] →
     let q := s.dev.dramReq a none
     let cap := s.dev.fld (R.mcReg q.key) 0 8
     let out (d : Dev) : Nat := tget (fun _ => 0) d.dram.out q.key
     (0 < cap → cap ≤ out s.dev → Runs (.dramRead a) s fun t =>
       tget (fun _ => []) t.dev.dram.wait q.key = tget (fun _ => []) s.dev.dram.wait q.key ++ [q] ∧
       out t.dev = out s.dev ∧ SameDram s.dev t.dev ∧
       (∀ k, k ≠ q.key → tget (fun _ => []) t.dev.dram.wait k = tget (fun _ => []) s.dev.dram.wait k) ∧
       RegsBut [R.mcPanic] s.dev t.dev ∧ Only [.dram, .regs] s t) ∧
     (tget (fun _ => []) s.dev.dram.wait q.key = [] → out s.dev < cap →
       Runs (.dramRead a) s fun t => out t.dev = out s.dev + 1 ∧ tget (fun _ => []) t.dev.dram.wait q.key = []) ∧
     (∀ r off sub, tget (fun _ => []) s.dev.dram.wait q.key = [] → out s.dev < cap →
       s.dev.locate a.addr = some (r, off, sub) → s.dev.chanWaits a.addr = true → Runs (.dramRead a) s fun t =>
         t.dev.chan (r / 2) = { s.dev.chan (r / 2) with held := (s.dev.chan (r / 2)).held ++ [q] } ∧
         RegsBut [R.mcPanic] s.dev t.dev ∧ Only [.dram, .regs] s t) ∧
     (s.dev.fld (R.mcQos q.port) 0 2 = 2 → a.low.val = a.fill.val →
       s.dev.fld (R.mcQos q.port) 4 4 ≤ a.fill.val → 0 < cap → cap ≤ out s.dev → Runs (.dramRead a) s fun t =>
         q.port ∈ t.dev.dram.panic ∧ tget (fun _ => 0) t.dev.dram.fill q.port = a.fill.val ∧
         (q.port ∉ s.dev.dram.panic → Counted s.dev t.dev R.mcPanic) ∧
         (q.port ∈ s.dev.dram.panic → t.dev.reg R.mcPanic = s.dev.reg R.mcPanic)) ∧
     (s.dev.fld (R.mcQos q.port) 0 2 ≠ 2 ∨ a.fill.val < s.dev.fld (R.mcQos q.port) 4 4 → 0 < cap → cap ≤ out s.dev →
       Runs (.dramRead a) s fun t => q.port ∉ t.dev.dram.panic ∧ t.dev.reg R.mcPanic = s.dev.reg R.mcPanic)) ∧
   (∀ (a : DramAcc) (c : Fin 16) (s : State), s.dev.dramUp = true → a.ok = true → a.returned = [c] →
     s.dev.host.bar2 = [] →
     let q := s.dev.dramReq a none
     let k := 16 * portOf a.init + c.val
     let cap := s.dev.fld (R.mcReg q.key) 0 8
     k ≠ q.key → tget (fun _ => []) s.dev.dram.wait k = [] → 0 < cap → cap ≤ tget (fun _ => 0) s.dev.dram.out q.key →
     Runs (.dramRead a) s fun t =>
       tget (fun _ => 0) t.dev.dram.out k = tget (fun _ => 0) s.dev.dram.out k - 1 ∧
       RegsBut [R.mcPanic] s.dev t.dev ∧ Only [.dram, .regs] s t) ∧
   ∀ (k : Fin 48) (sub : Fin 2) (demand : RefreshIn) (r : DramReq) (s : State), s.dev.dramUp = true →
     (s.dev.chan k).failed = false → (s.dev.chan k).retraining = none → (s.dev.chan k).held = [r] →
     ¬ (s.dev.selfRefreshes (2 * k) = true ∧ s.dev.selfRefreshes (2 * k + 1) = true) →
     (∀ bank, bank < 256 →
       let n := tget (fun _ => 0) (s.dev.chan k).refresh (256 * sub.val + bank)
       let owed := if bank = demand.bank.val then n + demand.calls.val - b2n (!demand.postponed) else n
       owed = 0 ∨ owed < Config.refreshLimit) → twf (fun _ => 0) (s.dev.chan k).refresh = true →
     (∃ x off, s.dev.locate r.acc.addr = some (x, off, sub.val) ∧ x / 2 = k.val) →
     Runs (.dramRefresh k sub demand) s fun t => (t.dev.chan k).held = []) ∧
  (∀ (k : Fin 48) (s : State), s.dev.dramUp = true → (s.dev.chan k).failed = false → (s.dev.chan k).held = [] →
    let c := s.dev.chan k
    let others (t : State) : Prop := (∀ j, j ≠ k.val → t.dev.chan j = s.dev.chan j) ∧
      { t.dev.dram with chans := [] } = { s.dev.dram with chans := [] }
    let asleep := s.dev.selfRefreshes (2 * k) = true ∧ s.dev.selfRefreshes (2 * k + 1) = true
    (∀ (sub : Fin 2) (demand : RefreshIn), asleep → Runs (.dramRefresh k sub demand) s fun t => t = s) ∧
    (∀ (sub : Fin 2) (demand : RefreshIn), c.retraining = none → ¬ asleep → Runs (.dramRefresh k sub demand) s fun t =>
      let owed (c : Chan) (i : Nat) : Nat := tget (fun _ => 0) c.refresh i
      let i := 256 * sub.val + demand.bank.val
      owed (t.dev.chan k) i = owed c i + demand.calls.val - b2n (!demand.postponed) ∧
      (∀ j, j ≠ i → owed (t.dev.chan k) j = owed c j) ∧
      { t.dev.chan k with refresh := [] } = { c with refresh := [] } ∧ others t ∧ Only [.dram] s t) ∧
    (c.recentre + 100000000 ≤ s.dev.time.now → Runs (.timingRecentre k) s fun t =>
      t.dev.chan k = { c with recentre := s.dev.time.now } ∧ others t ∧ Only [.dram] s t) ∧
    ∀ entry : Fin 64, c.retraining = none →
      let n := match c.entryRun with
        | some (e, n) => if e = entry.val then n + 1 else 0
        | none => 0
      (n ≠ 4 → Runs (.commandParityAlert k entry) s fun t =>
        t.dev.chan k = { c with entryRun := some (entry.val, n) } ∧ others t ∧
        t.dev.fld (R.mcChan k) 0 16 = min 0xFFFF (s.dev.fld (R.mcChan k) 0 16 + 1) ∧
        Wrote s.dev t.dev (regRec s.dev 1 0x2020 4 (0x40 + k) [k, entry]) ∧
        RegsBut [R.mcChan k, R.hpEvlogLost] s.dev t.dev ∧ Only [.dram, .log, .regs] s t) ∧
      (n = 4 → Runs (.commandParityAlert k entry) s fun t =>
        t.dev.chan k = { c with entryRun := none, retraining := some s.dev.time.now, retrains := min 255 (c.retrains + 1) } ∧
        others t ∧ Only [.dram] s t)) ∧
  (∀ (k : Fin 48) (since : Nat) (s : State), (s.dev.chan k).retraining = some since → (s.dev.chan k).held = [] →
    let ended := regRec s.dev 3 0x2021 4 (0x40 + k) [k, (s.dev.time.now - since) / 1000]
    (Runs (.channelRetrainDone k true) s fun t =>
      t.dev.chan k = { s.dev.chan k with retraining := none, failed := false } ∧ t.dev.dram.ranks = s.dev.dram.ranks ∧
      Wrote s.dev t.dev ended ∧ (∀ j, j ≠ k.val → t.dev.chan j = s.dev.chan j) ∧
      RegsBut [R.hpEvlogLost] s.dev t.dev ∧ Only [.dram, .log, .regs] s t) ∧
    (s.dev.dram.mig = none → Runs (.channelRetrainDone k false) s fun t =>
      (t.dev.chan k).failed = true ∧ (t.dev.chan k).retraining = none ∧
      (∀ r, r / 2 = k.val → (t.dev.rank r).state = 2 ∧
        ((s.dev.logicalRank r).isSome = true → t.dev.dram.queue.any (·.1 = r) = true)) ∧
      (∀ r, r / 2 ≠ k.val → t.dev.rank r = s.dev.rank r) ∧ (∀ q ∈ s.dev.dram.queue, q ∈ t.dev.dram.queue) ∧
      Logged s.dev t.dev [ended, regRec s.dev 5 0x2022 4 (0x40 + k) [k]] ∧
      RegsBut [R.hpEvlogLost] s.dev t.dev ∧ Only [.dram, .log, .regs] s t)) ∧
  ∀ (s : State), s.dev.live = true →
    let dead (m : Mig) (reason : Nat) (t : State) : Prop :=
      Recorded s.dev t.dev [regRec s.dev 5 0x2012 4 0x72 [m.spare, reason]] ∧ (t.dev.rank m.spare).state = 2 ∧
      (∀ x, t.dev.dram.mig = some x → x.source = m.source ∧ x.spare ≠ m.spare ∧ x.step = 1) ∧
      t.dev.mem = s.dev.mem ∧ RegsBut [R.hpEvlogLost] s.dev t.dev
    (∀ r : Fin 96, (s.dev.rank r).state = 0 → s.dev.dram.mig.any (·.spare = r.val) = false →
      (s.dev.rank r).scrubbed + 24 ≤ s.dev.chip.hours →
      (Runs (.spareRankScrub r true) s fun t =>
        t.dev.rank r = { s.dev.rank r with scrubbed := s.dev.chip.hours } ∧
        (∀ x, x ≠ r.val → t.dev.rank x = s.dev.rank x) ∧ Only [.dram] s t) ∧
      (Runs (.spareRankScrub r false) s fun t =>
        t.dev.rank r = { s.dev.rank r with state := 2, scrubbed := s.dev.chip.hours } ∧
        (∀ x, x ≠ r.val → t.dev.rank x = s.dev.rank x) ∧
        Wrote s.dev t.dev (regRec s.dev 5 0x2012 4 0x72 [r, 1]) ∧
        RegsBut [R.hpEvlogLost] s.dev t.dev ∧ Only [.dram, .log, .regs] s t)) ∧
    (∀ r cause rest, s.dev.dram.mig = none → s.dev.dram.queue = (r, cause) :: rest → Runs .rankSparingDecision s fun t =>
      t.dev.dram.queue = rest ∧ (∀ x, x ≠ r → t.dev.rank x = s.dev.rank x) ∧
      (∀ x, s.dev.spareFor r = some x → x / 2 ≠ r / 2 ∧ (s.dev.rank x).state = 0 ∧ (t.dev.rank r).state = 3 ∧
        t.dev.dram.mig.map (fun m => (m.source, m.spare, m.cause, m.start, m.step, m.page)) =
          some (r, x, cause, s.dev.time.now, 1, 0) ∧
        Wrote s.dev t.dev (regRec s.dev 5 0x2010 4 0x72 [r, x, cause])) ∧
      (s.dev.spareFor r = none → t.dev.dram.mig = none ∧
        (t.dev.rank r).state = (if (s.dev.chan (r / 2)).failed then 2 else 1) ∧
        Wrote s.dev t.dev (regRec s.dev 5 0x2013 4 0x72 [r, cause])) ∧
      RegsBut [R.hpEvlogLost] s.dev t.dev ∧ Only [.dram, .log, .regs] s t) ∧
    ∀ m : Mig, s.dev.dram.mig = some m → m.source ≠ m.spare →
      (m.step = 1 → (Runs (.spareRankTrained true) s fun t =>
          t.dev.dram = { s.dev.dram with mig := some { m with step := 2 } } ∧ Only [.dram] s t) ∧
        (Runs (.spareRankTrained false) s fun t =>
          dead m (Config.freeNat s.dev.free) t ∧ Only [.dram, .log, .regs, .free] s t)) ∧
      (m.step = 2 → ∀ unreadable : List (Fin 64),
        let gs := if (s.dev.chan (m.source / 2)).failed then List.range 64
          else (List.range 64).filter fun g => unreadable.any (·.val = g)
        let at_ (g : Nat) : Nat := s.dev.rankAddr m.logical (m.page * 4096 + g * 64)
        (Runs (.pageCopyDone unreadable true false) s fun t =>
          t.dev.dram = { s.dev.dram with mig := some (m.nextPage gs.length) } ∧
          (∀ g ∈ gs, t.dev.poisoned (at_ g) = true ∧
            (at_ g / 64 ∈ t.dev.sec.poisonList ∨ t.dev.sec.poisonOver = true) ∧ ∀ y, at_ g ≤ y → y < at_ g + 64 → t.dev.rd y = 0) ∧
          (∀ y, (∀ g ∈ gs, y / 64 ≠ at_ g / 64) → t.dev.rd y = s.dev.rd y ∧ t.dev.poisoned y = s.dev.poisoned y) ∧
          (gs = [] → t.dev.sec = s.dev.sec) ∧ Only [.dram, .mem, .poison, .sec] s t) ∧
        (m.retried = false → Runs (.pageCopyDone unreadable false false) s fun t =>
          t.dev.dram = { s.dev.dram with mig := some { m with retried := true } } ∧ Only [.dram] s t) ∧
        (m.retried = true → Runs (.pageCopyDone unreadable false false) s fun t =>
          dead m 2 t ∧ Only [.dram, .log, .regs] s t) ∧
        ∀ readBack, Runs (.pageCopyDone unreadable readBack true) s fun t => dead m 3 t ∧ Only [.dram, .log, .regs] s t) ∧
      (m.step = 3 → Runs .migrationCommit s fun t =>
        let ended := regRec s.dev 0 0x2011 4 0x72 [m.source, m.spare, m.bad, (s.dev.time.now - m.start) / 1000000]
        t.dev.dram.mig = none ∧ t.dev.dram.queue = s.dev.dram.queue ∧
        t.dev.dram.safety = s.dev.dram.safety.map (fun r => if r = m.source then m.spare else r) ∧
        t.dev.dram.general = s.dev.dram.general.map (fun r => if r = m.source then m.spare else r) ∧
        t.dev.rank m.source = { s.dev.rank m.source with state := 2 } ∧
        t.dev.rank m.spare = { s.dev.rank m.spare with state := 1 } ∧
        (∀ r, r ≠ m.source → r ≠ m.spare → t.dev.rank r = s.dev.rank r) ∧
        ((∃ r, r < 96 ∧ r ≠ m.source ∧ r ≠ m.spare ∧ (s.dev.rank r).state = 0) → Wrote s.dev t.dev ended) ∧
        ((∀ r, r < 96 → r ≠ m.source → r ≠ m.spare → (s.dev.rank r).state ≠ 0) →
          Logged s.dev t.dev [ended, regRec s.dev 5 0x2015 4 0x72 [m.spare, m.source]]) ∧
        RegsBut [R.hpEvlogLost] s.dev t.dev ∧ Only [.dram, .log, .regs] s t)

/-! ## Links and optical ports -/

/-- R387 to R389. A flit whose CRC is good brings its acknowledgement. A data flit is taken once and in SEQ order and
acknowledged; one ahead of that awaited, and one that fails its CRC, are answered with a NAK once, and every flit but
the replay is then dropped; the lanes that the replay shows to have erred, or that an idle flit's pattern shows,
count at both ends. A replay is counted and sent. -/
def Obligations.FlitsAreDeliveredInOrder : Prop :=
  ∀ (l : Fin 48) (s : State),
    let k := l.val / 2
    let i := l.val % 2
    let x := s.dev.link k
    let q := x.dir i
    let far (t : State) : Prop :=
      (∀ j, j ≠ k → t.dev.link j = s.dev.link j) ∧ t.dev.links.mods = s.dev.links.mods ∧
      t.dev.links.lanes = s.dev.links.lanes
    let same (t : State) : Prop := { t.dev.link k with dir0 := {}, dir1 := {} } = { x with dir0 := {}, dir1 := {} }
    let erred (lanes : List Nat) (t : State) : Prop :=
      (∀ n, tget (fun _ => 0) (t.dev.link k).attrs n =
        tget (fun _ => 0) x.attrs n + (lanes.filter fun y => y = n).length) ∧
      (∀ m ∈ linkMods k, Counted s.dev t.dev (R.lnkAttr m) lanes.length ∧
        ∀ n, lanes.getLast? = some n → t.dev.fld (R.lnkLast m) 0 6 = n % 64) ∧
      RegsBut ((linkMods k).map R.lnkAttr ++ (linkMods k).map R.lnkLast) s.dev t.dev
    (2 ≤ x.state → ∀ (head ack : BitVec 16) (credits : BitVec 32) (slots : List Byte) (crc : DWord), slots.length = 272 →
      let f := flitBytes head ack credits slots crc
      let seq := flitSeq f
      let a := flitAck f
      let last := if bit a 13 then (bits a 0 12 + 4095) % 4096 else bits a 0 12
      let back (t : State) : Prop := (t.dev.link k).dir (1 - i) =
        if bit a 12 || bit a 13 then { x.dir (1 - i) with acked := last } else x.dir (1 - i)
      let taken := { q with expect := (q.expect + 1) % 4096, naking := false, kept := [], replaying := false, fails := 0 }
      (flitOk f = true → flitType f = 1 → seq = q.expect → q.kept = [] → Runs (.flitReceive l head ack credits slots crc) s fun t =>
        (t.dev.link k).dir i = taken ∧ t.dev.out = s.dev.out ++ [.linkAck l seq false] ∧ back t ∧ far t ∧ same t ∧
        Only [.links, .out] s t) ∧
      (flitOk f = true → flitType f = 1 → seq = q.expect →
        Runs (.flitReceive l head ack credits slots crc) s fun t =>
          (t.dev.link k).dir i = taken ∧ t.dev.out = s.dev.out ++ [.linkAck l seq false] ∧ back t ∧ far t ∧
          erred (q.kept.flatMap fun bad => s.dev.diffLanes k (diffBits 0 bad f)) t ∧ Only [.links, .out, .regs] s t) ∧
      (flitOk f = true → flitType f = 1 → seq ≠ q.expect → q.naking = false → (seq + 4096 - q.expect) % 4096 < 2048 →
        Runs (.flitReceive l head ack credits slots crc) s fun t =>
          (t.dev.link k).dir i = { q with naking := true } ∧ t.dev.out = s.dev.out ++ [.linkAck l q.expect true] ∧
          back t ∧ far t ∧ same t ∧ Only [.links, .out] s t) ∧
      (flitOk f = true → flitType f ≠ 1 ∨ (seq ≠ q.expect ∧ (q.naking = true ∨ 2048 ≤ (seq + 4096 - q.expect) % 4096)) →
        Runs (.flitReceive l head ack credits slots crc) s fun t =>
          (t.dev.link k).dir i = q ∧ back t ∧ far t ∧ same t ∧ Only [.links] s t) ∧
      (flitOk f = false → flitType f ≠ 0 → q.naking = false ∨ q.replaying = true → Runs (.flitReceive l head ack credits slots crc) s fun t =>
        (t.dev.link k).dir i = { q with
          naking := true, kept := if q.replaying then q.kept ++ [f] else [f], replaying := false, fails := if q.replaying then q.fails + 1 else 0 } ∧
        t.dev.out = s.dev.out ++ [.linkAck l q.expect true] ∧ (t.dev.link k).dir (1 - i) = x.dir (1 - i) ∧
        far t ∧ same t ∧ Only [.links, .out] s t) ∧
      (flitOk f = false → flitType f ≠ 0 → q.naking = true → q.replaying = false →
        Runs (.flitReceive l head ack credits slots crc) s fun t => Only [] s t) ∧
      (flitOk f = false → flitType f = 0 → Runs (.flitReceive l head ack credits slots crc) s fun t =>
        (t.dev.link k).dir i = q ∧ (t.dev.link k).dir (1 - i) = x.dir (1 - i) ∧ far t ∧
        erred (s.dev.diffLanes k (idleDiff f)) t ∧ (t.dev.link k).attrRun = x.attrRun ∧ Only [.links, .regs] s t)) ∧
    ∀ seq : Fin 4096, x.state = 2 ∨ x.repairing.isSome = true → q.naking = true → q.replaying = false → seq.val = q.expect → q.fails < 4 →
      Runs (.flitReplay l seq) s fun t =>
        (t.dev.link k).dir i = { q with replaying := true } ∧ (t.dev.link k).dir (1 - i) = x.dir (1 - i) ∧ far t ∧
        (t.dev.link k).retries = x.retries + 1 ∧ (t.dev.link k).retriesEp = x.retriesEp + 1 ∧
        t.dev.out = s.dev.out ++ [.flitResent l seq] ∧ (∀ m ∈ linkMods k, Counted s.dev t.dev (R.lnkRetry m)) ∧
        (x.retries < 8 → Quiet s.dev t.dev) ∧
        (8 ≤ x.retries → Wrote s.dev t.dev (linkRec s.dev 5 0x3002 k [linkMod k, x.retries + 1, s.dev.wb])) ∧
        RegsBut (R.hpEvlogLost :: (linkMods k).map R.lnkRetry) s.dev t.dev ∧ Only [.links, .out, .regs, .log] s t

/-- R386, R390 to R392. Four failed replays retrain a link in place; a retraining that fails takes it down,
with the safe state requested where the tile has no other path. A lane that needs repair takes the lowest
free redundant lane, or is retired with 0x3004; a repair that ends well clears the lane's counts. -/
def Obligations.LinksRetrainAndRepair : Prop :=
  ∀ (k : Fin 24) (s : State),
    let x := s.dev.link k
    let m := linkMod k
    let others (t : State) : Prop := (∀ j, j ≠ k.val → t.dev.link j = s.dev.link j) ∧ t.dev.links.lanes = s.dev.links.lanes
    (x.state = 2 → 4 ≤ x.dir0.fails ∨ 4 ≤ x.dir1.fails → Runs (.linkRetrain k) s fun t =>
      t.dev.link k = { x with state := 3, retrainAt := s.dev.time.now } ∧ others t ∧
      (∀ n ∈ linkMods k, Counted s.dev t.dev (R.lnkRetrain n)) ∧
      RegsBut ((linkMods k).map R.lnkRetrain) s.dev t.dev ∧ Only [.links, .regs] s t) ∧
    (x.state = 3 → x.repairing = none →
      let ended := linkRec s.dev 3 0x3007 k [m, (s.dev.time.now - x.retrainAt) / 1000]
      (Runs (.linkRetrainDone k true) s fun t =>
        (t.dev.link k).state = 2 ∧ (t.dev.link k).dir0 = { x.dir0 with fails := 0, replaying := false } ∧
        (t.dev.link k).dir1 = { x.dir1 with fails := 0, replaying := false } ∧ (t.dev.link k).due = x.due ∧
        others t ∧ Wrote s.dev t.dev ended ∧ RegsBut [R.hpEvlogLost] s.dev t.dev ∧ Only [.links, .regs, .log] s t) ∧
      (20 ≤ k.val → Runs (.linkRetrainDone k false) s fun t =>
        t.dev.link k = { x with state := 0, due := [], repairing := none } ∧ others t ∧
        Logged s.dev t.dev [ended, linkRec s.dev 5 0x3008 k [m, 1]] ∧
        RegsBut [R.hpEvlogLost] s.dev t.dev ∧ Only [.links, .regs, .log] s t) ∧
      (k.val < 20 →
        let down := s.dev.modLink k fun x => { x with state := 0, due := [], repairing := none }
        (k.val < 16 ∧ 0 < down.hubLanes (k / 4) → Runs (.linkRetrainDone k false) s fun t =>
          t.dev.link k = { x with state := 0, due := [], repairing := none } ∧ others t ∧
          Recorded s.dev t.dev [ended, linkRec s.dev 5 0x3008 k [m, 0]] ∧
          RegsBut [R.hpEvlogLost] s.dev t.dev ∧ Only [.links, .regs, .log] s t) ∧
        (16 ≤ k.val ∨ down.hubLanes (k / 4) = 0 → Runs (.linkRetrainDone k false) s fun t =>
          t.dev.link k = { x with state := 0, due := [], repairing := none } ∧ others t ∧
          Logged s.dev t.dev [ended, linkRec s.dev 4 0x3006 k [m]] ∧
          (∀ j, (s.dev.isl j).loaded = true → (s.dev.isl j).state ≠ .halted → 5 ∈ (t.dev.isl j).req) ∧
          RegsBut [R.hpEvlogLost] s.dev t.dev ∧ Only [.links, .regs, .log, .chA, .chB] s t))) ∧
    (∀ lane : Fin 64, x.state = 2 → lane.val ∈ x.due → x.repairF ≠ some s.dev.ctrlFrame →
      s.dev.time.now % wingbeatNs = 0 →
      (∀ r, s.dev.redLane k = some r → Runs (.laneRepairStart k lane) s fun t =>
        t.dev.link k = { x with state := 3, repairing := some (lane.val, r), repairF := some s.dev.ctrlFrame } ∧
        (∀ n ∈ linkMods k, (t.dev.lmod n).redUsed = (s.dev.lmod n).redUsed ++ [r]) ∧
        (∀ n, n ∉ linkMods k → t.dev.lmod n = s.dev.lmod n) ∧ others t ∧ Only [.links] s t) ∧
      (s.dev.redLane k = none → (s.dev.linkLanes k).filter (· ≠ lane.val) = [] → Runs (.laneRepairStart k lane) s fun t =>
        (t.dev.link k).state = 0 ∧ others t ∧ Recorded s.dev t.dev [linkRec s.dev 5 0x3004 k [m, lane, 0]] ∧
        RegsBut [R.hpEvlogLost] s.dev t.dev ∧ Only [.links, .regs, .log, .chA, .chB] s t) ∧
      (s.dev.redLane k = none → (s.dev.linkLanes k).filter (· ≠ lane.val) ≠ [] → Runs (.laneRepairStart k lane) s fun t =>
        t.dev.link k = { x with due := x.due.filter (· ≠ lane.val), repairF := some s.dev.ctrlFrame } ∧
        (∀ n ∈ linkMods k, (t.dev.lmod n).retired = (s.dev.lmod n).retired ++ [lane.val]) ∧
        (∀ n, n ∉ linkMods k → t.dev.lmod n = s.dev.lmod n) ∧ others t ∧
        Recorded s.dev t.dev [linkRec s.dev 5 0x3004 k
          [m, lane, ((s.dev.linkLanes k).filter (· ≠ lane.val)).length]] ∧
        RegsBut [R.hpEvlogLost] s.dev t.dev ∧ Only [.links, .regs, .log] s t)) ∧
    ∀ lane r, x.repairing = some (lane, r) →
      (Runs (.laneRepairDone k true) s fun t =>
        (t.dev.link k).state = 2 ∧ (t.dev.link k).repairing = none ∧
        (t.dev.link k).due = x.due.filter (· ≠ lane) ∧ tget (fun _ => 0) (t.dev.link k).attrs lane = 0 ∧
        (∀ n ∈ linkMods k, (lane, r) ∈ (t.dev.lmod n).repairs ∧ Counted s.dev t.dev (R.lnkRepair n) ∧
          t.dev.fld (R.lnkLast n) 6 6 = lane % 64) ∧ others t ∧
        Recorded s.dev t.dev [linkRec s.dev 0 0x3003 k [m, lane, r, 4 - (s.dev.lmod m).redUsed.length]] ∧
        RegsBut (R.hpEvlogLost :: (linkMods k).map R.lnkRepair ++ (linkMods k).map R.lnkLast) s.dev t.dev ∧
        Only [.links, .regs, .log] s t) ∧
      (Runs (.laneRepairDone k false) s fun t =>
        t.dev.link k = { x with state := 2, repairing := none } ∧ t.dev.links.mods = s.dev.links.mods ∧
        others t ∧ Only [.links] s t)

/-- R394, R396, R397, R399, R402, R403, R44. The third flap of a lane within 10 s asks for its moult, or
reports a lane that has moulted or has no spare; one retraining of the port serves its lanes; links that go
down and up write 0x3027 and 0x3028, and the slave port's loss is a Holdover; the host link comes up once
every lane has locked or timed out. -/
def Obligations.OpticalLanesAndPorts : Prop :=
  (∀ (lane : Fin 96) (fault : Bool) (port : Nat) (s : State), s.dev.chip.phase ≠ .modReset → s.dev.chip.selfRef = false →
    (s.dev.lane lane).state = 1 ∨ (s.dev.lane lane).kept = true → (s.dev.lane lane).moult = none →
    s.dev.servesPort lane = some port →
    let x := s.dev.lane lane
    let fl := (x.flaps.filter fun f => decide (s.dev.time.now < f.1 + 10000000000)) ++
      [(s.dev.time.now, fault || decide (2 * x.bias0 < x.bias) || decide (x.tx < -30))]
    let recent := x.outside || x.moultAt.any fun t => decide (s.dev.time.now < t + 60000000000)
    (fl.length < 3 → Runs (.laneFlap lane fault) s fun t =>
      t.dev.lane lane = { x with flaps := fl } ∧ (∀ n, n ≠ lane.val → t.dev.lane n = s.dev.lane n) ∧
      t.dev.links.retrain = s.dev.links.retrain ∧ Only [.links] s t) ∧
    (3 ≤ fl.length → recent = true → Runs (.laneFlap lane fault) s fun t =>
      t.dev.lane lane = { x with flaps := [], outside := true } ∧ (∀ n, n ≠ lane.val → t.dev.lane n = s.dev.lane n) ∧
      Wrote s.dev t.dev (laneRec s.dev 5 0x3025 lane [port]) ∧
      RegsBut [R.hpEvlogLost] s.dev t.dev ∧ Only [.links, .log, .regs] s t) ∧
    (fl.length = 3 → recent = false → x.kept = true → Runs (.laneFlap lane fault) s fun t =>
      t.dev.lane lane = { x with flaps := fl } ∧ (∀ n, n ≠ lane.val → t.dev.lane n = s.dev.lane n) ∧
      Wrote s.dev t.dev (laneRec s.dev 5 0x3024 lane [port, 3]) ∧
      RegsBut [R.hpEvlogLost] s.dev t.dev ∧ Only [.links, .log, .regs] s t) ∧
    (3 ≤ fl.length → recent = false → x.kept = false → Runs (.laneFlap lane fault) s fun t =>
      t.dev.lane lane = { x with flaps := fl, moult := some (if fl.any (·.2) then 0 else 1) } ∧
      (∀ n, n ≠ lane.val → t.dev.lane n = s.dev.lane n) ∧ port ∈ t.dev.links.retrain ∧
      Recorded s.dev t.dev [laneRec s.dev 5 0x3020 lane [port, if fl.any (·.2) then 1 else 2]] ∧
      Only [.links, .log, .regs, .host] s t)) ∧
  (∀ (port : Fin 8) (s : State), port.val ∈ s.dev.links.retrain →
    (port = 5 ∨ port = 6 → s.dev.links.lastAp ≠ some (11 - port.val, s.dev.ctrlFrame)) →
    (Runs (.portRetrainDone port) s fun t =>
      port.val ∉ t.dev.links.retrain ∧ (∀ n ∈ s.dev.portLanes port, (t.dev.lane n).moult = none) ∧
      (port = 5 ∨ port = 6 → t.dev.links.lastAp = some (port.val, s.dev.ctrlFrame)) ∧
      (port ≠ 0 → port ≠ 5 → port ≠ 6 → port.val ∈ t.dev.links.up)) ∧
    ∀ n sp c, n ∈ s.dev.portLanes port → (∀ j ∈ s.dev.portLanes port, j ≠ n → (s.dev.lane j).moult = none) →
      (s.dev.lane n).moult = some c → c ≠ 2 → c ≠ 0 ∨ s.dev.laserLeft n = false →
      s.dev.freeSpare port = some sp → sp ≠ n → Runs (.portRetrainDone port) s fun t =>
        (t.dev.lane n).state = 2 ∧ (t.dev.lane sp).state = 1 ∧
        (t.dev.lane sp).serves = some ((s.dev.lane n).serves.getD n) ∧
        (∀ j, j ≠ n → j ≠ sp → t.dev.lane j = s.dev.lane j) ∧
        Recorded s.dev t.dev [laneRec s.dev 0 0x3021 sp [port, sp % 24,
          ((portSpares port).filter fun j => decide (j ≠ sp ∧ j ≠ n ∧ (s.dev.lane j).state = 3)).length]]) ∧
  (∀ (port : Fin 10) (s : State),
    ((port = 0 → s.dev.host.up = true) → (port ≠ 0 → port.val ∈ s.dev.links.up) → Runs (.portLinkDown port) s fun t =>
      port.val ∉ t.dev.links.up ∧ (∀ p, p ≠ port.val → (p ∈ t.dev.links.up ↔ p ∈ s.dev.links.up)) ∧
      (port = 0 → t.dev.host.up = false) ∧ (port ≠ 0 → t.dev.host = s.dev.host) ∧
      (8 ≤ port.val → Only [.links] s t) ∧
      (port.val < 8 → s.dev.slavePort ≠ some port.val → Wrote s.dev t.dev (portRec s.dev 5 0x3027 port [port])) ∧
      (port.val < 8 → s.dev.slavePort = some port.val →
        s.dev.fld R.tkSyncStatus 0 3 = 1 ∨ s.dev.fld R.tkSyncStatus 0 3 = 2 → t.dev.fld R.tkSyncStatus 0 3 = 3 ∧
        Logged s.dev t.dev [portRec s.dev 5 0x3027 port [port], regRec s.dev 5 0x3040 5 0xFF [s.dev.reg R.tkFreqAdj]]) ∧
      RegsBut [R.tkSyncStatus, R.hpEvlogLost] s.dev t.dev ∧ Only [.links, .host, .log, .regs] s t) ∧
    (∀ width : Fin 17, (port.val < 8 → width.val = s.dev.portWidth port) →
      (port = 0 → s.dev.host.up = false ∧ s.dev.host.held = false ∧ width ≠ 0) →
      (port ≠ 0 → port.val ∉ s.dev.links.up) → (port.val < 8 → s.dev.lit = true) → Runs (.portLinkUp port width) s fun t =>
        (port = 0 → t.dev.host.up = true ∧ t.dev.links.hostW = width ∧ t.dev.links.up = s.dev.links.up) ∧
        (port = 0 → s.dev.host.owed = [] → t.dev.out = s.dev.out) ∧
        (port ≠ 0 → t.dev.links.up = s.dev.links.up ++ [port.val] ∧ t.dev.host = s.dev.host ∧ t.dev.out = s.dev.out) ∧
        (8 ≤ port.val → Only [.links] s t) ∧
        (port.val < 8 → Wrote s.dev t.dev (portRec s.dev 0 0x3028 port [port, width])) ∧
        RegsBut [R.hpEvlogLost] s.dev t.dev ∧ Only [.links, .host, .log, .regs, .out] s t)) ∧
  ∀ (s : State), s.dev.host.up = false →
    (∀ unlocked : List (Fin 16), s.dev.lit = true → s.dev.host.lit = false →
      let u := (unlocked.map (·.val)).filter s.dev.hostLane
      let w := Dev.hostWidth { s.dev with links := { s.dev.links with hostOut := [] } }
      Runs (.hostLinkLight unlocked) s fun t =>
        t.dev.host.lit = true ∧ t.dev.host.held = false ∧ t.dev.links.unlocked = u ∧ t.dev.links.hostOut = [] ∧
        (u ≠ [] ∨ w = 0 → t.dev.host.up = false ∧ Only [.links, .host] s t) ∧
        (u = [] → w ≠ 0 → t.dev.host.up = true ∧ t.dev.links.hostW = w ∧
          Wrote s.dev t.dev (portRec s.dev 0 0x3028 0 [0, w])) ∧
        t.dev.links.lanes = s.dev.links.lanes ∧ (s.dev.host.owed = [] → t.dev.out = s.dev.out) ∧
        Only [.links, .host, .log, .regs, .out] s t) ∧
    ∀ lane : Fin 16, s.dev.host.lit = true → lane.val ∈ s.dev.links.unlocked →
      let left := s.dev.links.unlocked.filter (· ≠ lane.val)
      let w := Dev.hostWidth { s.dev with links := { s.dev.links with hostOut := s.dev.links.hostOut ++ [lane.val] } }
      Runs (.hostLaneLockTimeout lane) s fun t =>
        t.dev.links.unlocked = left ∧ t.dev.links.hostOut = s.dev.links.hostOut ++ [lane.val] ∧
        (left ≠ [] ∨ w = 0 → t.dev.host = s.dev.host ∧ Wrote s.dev t.dev (laneRec s.dev 5 0x3026 lane [lane])) ∧
        (left = [] → w ≠ 0 → t.dev.host.up = true ∧ t.dev.links.hostW = w ∧
          Logged s.dev t.dev [laneRec s.dev 5 0x3026 lane [lane], portRec s.dev 0 0x3028 0 [0, w]]) ∧
        t.dev.links.lanes = s.dev.links.lanes ∧ (s.dev.host.owed = [] → t.dev.out = s.dev.out) ∧
        Only [.links, .host, .log, .regs, .out] s t

/-! ## Start and recovery -/

/-- R29, R41, R43, R323, R428, R430, R432, R433, R435. MOD_RESET_N empties every domain but the islands and
what survives power; a start reads the images in order and enters the loader with its reason, its record
and 0x9001 at the first that fails, and goes on to LOADING with an image whose checks pass; the lock raises
the fuse counters; an island in reset or without supply loses its state and vote, and its firmware brings
it back where it verifies. -/
def Obligations.TheModuleStarts : Prop :=
  (∀ (s : State), Runs .modResetAssert s fun t =>
    (∀ o, t.dev.reg o = (regReset o).toNat) ∧ (∀ x, t.dev.rd x = 0) ∧ t.dev.time.now = 0 ∧
    t.dev.chip.phase = .modReset ∧ t.dev.chip.lock = false ∧ t.dev.chip.primaryEn = false ∧
    (∀ k, (t.dev.op k).used = false) ∧ t.dev.log.buf = [] ∧ t.dev.log.total = 0 ∧ t.dev.host.up = false ∧
    t.dev.links.up = [] ∧ t.dev.sec.memKeys = [] ∧ t.dev.sec.nonce = none ∧
    (∀ i, (t.dev.isl i).vote = false ∧ (t.dev.isl i).injected = false ∧ (t.dev.isl i).loaded = (s.dev.isl i).loaded ∧
      (t.dev.isl i).lifeTime = (s.dev.isl i).lifeTime ∧ (t.dev.isl i).cycles = (s.dev.isl i).cycles ∧
      (t.dev.isl i).cocoon = (s.dev.isl i).cocoon ∧ (t.dev.isl i).safeOut = (s.dev.isl i).safeOut ∧
      (t.dev.isl i).inhibit = (s.dev.isl i).inhibit ∧ (t.dev.isl i).req = (s.dev.isl i).req ∧
      ((s.dev.isl i).state ≠ .halted → (t.dev.isl i).state = (s.dev.isl i).state) ∧
      ((s.dev.isl i).state = .halted → (t.dev.isl i).state = .starting)) ∧
    t.dev.pwr.tripped = s.dev.pwr.tripped ∧ t.dev.out = s.dev.out ∧
    t.nv = { s.nv with store := s.nv.store.cut s.dev.time.now (Config.freeNat s.dev.free) } ∧ t.pending = s.pending) ∧
  (∀ (failed : List (Fin 48)) (s : State), s.dev.chip.phase = .modReset →
    let f := s.nv.fuses
    let fw := s.nv.store.firmware
    let start := { s.dev with
      chip := { s.dev.chip with t0 := s.dev.time.now, hours := s.nv.store.hours }
      sec := { s.dev.sec with next := s.nv.store.lmsEnd } }
    let r := s.nv.store.repair.newStart
    let d := ((((start.extend 0 f.romDigest).repairBlocks r).repairRanks r).repairMarks r).repairLanes r
    let loader (det : List Nat) (t : State) : Prop :=
      t.dev.chip.phase = .loader ∧ t.dev.chip.lock = s.dev.chip.lock ∧ t.dev.chip.image = s.dev.chip.image ∧
      t.dev.chip.lastReason = det.getD 1 0 ∧ t.dev.sec.lastRej = det ∧ t.dev.mem = s.dev.mem ∧
      t.nv = { s.nv with store := { s.nv.store with writeProt := false } } ∧ t.pending = s.pending ∧
      Logged s.dev t.dev [regRec s.dev 5 0x9001 4 0x80 det,
        regRec s.dev 5 0x9005 4 0x80 [if det.getD 1 0 = 7 then 2 else 1]]
    (s.nv.loaderReason ≠ 0 → Runs (.coldStart failed) s fun t =>
      t.dev.chip.phase = .loader ∧ t.dev.chip.image = s.dev.chip.image ∧ t.dev.mem = s.dev.mem ∧
      t.nv = { s.nv with store := { s.nv.store with writeProt := false, loaderReq := false } } ∧ t.pending = s.pending ∧
      Wrote s.dev t.dev (regRec s.dev 5 0x9005 4 0x80 [s.nv.loaderReason])) ∧
    (s.nv.loaderReason = 0 → f.verifyStored 1 fw ≠ 0 →
      Runs (.coldStart failed) s (loader [1, f.verifyStored 1 fw, 0, 0])) ∧
    (∀ h, s.nv.loaderReason = 0 → fw = some h → f.verify none 1 h = 0 → s.nv.store.config = none →
      Runs (.coldStart failed) s (loader [2, 8, 0, 0])) ∧
    ∀ h c, s.nv.loaderReason = 0 → fw = some h → f.verify none 1 h = 0 → s.nv.store.config = some c →
      let bad : Nat × Nat := d.configBad { s.nv with store := { s.nv.store with writeProt := false } } c
      (bad.1 ≠ 0 → Runs (.coldStart failed) s
        (loader [2, bad.1, bad.2, if bad.1 = 6 then Config.freeNat s.dev.free else 0])) ∧
      (bad.1 = 0 → c.models = [] → Runs (.coldStart failed) s fun t =>
        t.dev.chip.phase = .loading ∧ t.dev.chip.image = some c ∧ t.dev.chip.profile = c.header.profile ∧
        t.dev.chip.t0 = s.dev.time.now ∧ t.dev.chip.lock = s.dev.chip.lock ∧ t.dev.time.now = s.dev.time.now ∧
        t.nv.fuses = s.nv.fuses)) ∧
  (∀ (s : State), s.dev.chip.phase = .loading → s.dev.fld R.tkSyncStatus 0 3 ≠ 1 →
    Runs .configurationLockSet s fun t =>
      t.dev.chip.lock = true ∧ t.dev.chip.phase = .locked ∧ t.dev.chip.image = s.dev.chip.image ∧
      s.nv.fuses.svnFw ≤ t.nv.fuses.svnFw ∧ s.nv.fuses.svnCfg ≤ t.nv.fuses.svnCfg ∧
      (∀ h, s.nv.store.firmware = some h → h.flags = 1 → h.svn ≤ t.nv.fuses.svnFw) ∧
      { t.nv.fuses with svnFw := 0, svnCfg := 0 } = { s.nv.fuses with svnFw := 0, svnCfg := 0 } ∧
      t.nv.store = { s.nv.store with writeProt := true } ∧ Kept [.chip] s.dev t.dev ∧ t.pending = s.pending) ∧
  ∀ (i : Isl) (s : State),
    let x := s.dev.isl i
    let gone (t : State) : Prop :=
      (t.dev.isl i).state = .reset ∧ (t.dev.isl i).loaded = false ∧ (t.dev.isl i).vote = false ∧
      (t.dev.isl i).safeOut = true ∧ (t.dev.isl i).entries = x.entries ∧ (t.dev.isl i).crcErr = x.crcErr ∧
      (t.dev.isl (islPeer i)).state = (s.dev.isl (islPeer i)).state ∧
      (t.dev.isl (islPeer i)).vote = decide ((s.dev.clearCauses (islPeer i)).voteBad (islPeer i) = 0) ∧
      RegsBut [R.hpEvlogLost] s.dev t.dev ∧ Only [.chA, .chB, .chip, .log, .regs] s t
    (Runs (.islandReset i) s fun t => (t.dev.isl i).railLow = x.railLow ∧ gone t) ∧
    (Runs (.islandRailLow i) s fun t => (t.dev.isl i).railLow = true ∧ gone t) ∧
    (x.loaded = false → s.dev.chip.phase ≠ .modReset → s.nv.store.firmware.isSome = true →
      (s.nv.fuses.verifyStored 1 s.nv.store.firmware ≠ 0 → Runs (.islandFirmwareLoad i) s fun t =>
        t.dev.isl i = { x with state := .starting, railLow := false } ∧
        t.dev.isl (islPeer i) = s.dev.isl (islPeer i) ∧ Only [.chA, .chB] s t) ∧
      (s.nv.fuses.verifyStored 1 s.nv.store.firmware = 0 → Runs (.islandFirmwareLoad i) s fun t =>
        (t.dev.isl i).loaded = true ∧ (t.dev.isl i).state = s.dev.chip.islState ∧ (t.dev.isl i).railLow = false ∧
        let late := s.dev.chip.phase = .running ∧ s.dev.chip.injected = true
        (t.dev.isl i).ownW = s.dev.wb ∧ (t.dev.isl i).vote = (if late then false else x.vote) ∧
        (t.dev.isl i).lifeTime = (s.nv.store.life i).time ∧
        (late → 12 ∈ (t.dev.isl i).req ∧ 12 ∈ (t.dev.isl i).active) ∧
        t.dev.isl (islPeer i) = s.dev.isl (islPeer i) ∧ Only [.chA, .chB, .chip, .log, .regs] s t ∧
        (¬ late ∨ x.vote = false → Only [.chA, .chB] s t)))

/-- R31, R312, R313, R323 to R325, R350, R434. The injection empties the scratchpads and takes both votes until it
ends; where all passes, its checkers report as R324 says, and the retired blocks' places are taken by spares; a block
that failed is retired with 0x1071. Its end sets the island's flag and enables the schedule, or, where a row failed in
a recovery, or the recovery has taken more than 3.0 s, is a further recovery; a recovery starts once the safe state has
cooled, with the images of the cold start, and else becomes a cold start. -/
def Obligations.InjectionAndRecovery : Prop :=
  (∀ (fails : List InjFail) (s : State), s.dev.chip.phase = .locked ∨ s.dev.chip.phase = .recovering →
    s.dev.pwr.tripped = false → Runs (.startUpInjection fails) s fun t =>
      t.dev.chip.phase = .injecting ∧
      (∀ x, 0x4000000000 ≤ x → x < 0x4009000000 → t.dev.rd x = 0) ∧ MemBut 0x4000000000 0x9000000 s.dev t.dev ∧
      (∀ i, (s.dev.isl i).loaded = true → (s.dev.isl i).state ≠ .halted →
        (t.dev.isl i).state = .injecting ∧ (t.dev.isl i).injected = false ∧ (t.dev.isl i).vote = false ∧
        (t.dev.isl i).passBits = 4095 - (t.dev.isl i).failBits ∧
        ((∀ f ∈ fails, f.island ≠ i) → (t.dev.isl i).failBits = 0 ∧ (t.dev.isl i).injBad = none)) ∧
      (∀ f ∈ fails, bit (t.dev.isl f.island).failBits f.row = true) ∧
      (∀ f ∈ fails, ∀ b, injBlk f = some b → (t.dev.blk b).svc = .retired) ∧
      (fails = [] → s.dev.log.buf.length + 32 ≤ 4096 → ∀ b < 144,
        (∀ x < b, (s.dev.blk x).svc ≠ .inService ∧ (s.dev.blk x).svc ≠ .standby) →
        (s.dev.blk b).svc = .inService ∨ (s.dev.blk b).svc = .standby → ∃ l, t.dev.log.buf = s.dev.log.buf ++
          (List.range 32).map (fun cell => blkRec s.dev 1 0x1002 b [cell, Config.freeNat s.dev.free % 16384]) ++ l) ∧
      (fails = [] → Counted s.dev t.dev R.plEyeFail)) ∧
  (∀ (s : State), s.dev.chip.phase = .injecting →
    let bad := ∃ i, (s.dev.isl i).state = .injecting ∧ (s.dev.isl i).injBad.isSome = true
    let late := s.dev.chip.inRec = true ∧ s.dev.chip.recStart + 3000000000 < s.dev.time.now
    (¬ bad ∨ s.dev.chip.inRec = false → ¬ late → Runs .injectionComplete s fun t =>
      t.dev.chip.sched = true ∧ t.dev.chip.launching = false ∧ t.dev.chip.phase = .running ∧
      t.dev.chip.enabledAt = s.dev.time.now ∧ t.dev.chip.injected = true ∧
      (∀ i, (s.dev.isl i).state = .injecting → (t.dev.isl i).state = .monitoring ∧
        (t.dev.isl i).injected = (s.dev.isl i).injBad.isNone) ∧
      (∀ i, (s.dev.isl i).state = .starting → (s.dev.isl i).loaded = true →
        (t.dev.isl i).state = .monitoring ∧ 12 ∈ (t.dev.isl i).req) ∧
      (∀ i, (s.dev.isl i).state ≠ .injecting → (s.dev.isl i).state ≠ .starting ∨ (s.dev.isl i).loaded = false →
        (t.dev.isl i).state = (s.dev.isl i).state ∧
        (t.dev.isl i).injected = (s.dev.isl i).injected)) ∧
    ((bad ∧ s.dev.chip.inRec = true) ∨ late → Runs .injectionComplete s fun t =>
      ComputeDomainReset s.dev t.dev ∧ t.dev.enc = s.dev.enc ∧ t.dev.pwr = s.dev.pwr ∧ t.dev.sec = s.dev.sec ∧
      (2 ≤ s.dev.chip.noPrimary → t.dev.chip.phase = .halted))) ∧
  ∀ (failed : List (Fin 48)) (s : State), s.dev.chip.phase = .safe → s.dev.chip.computeReset = true →
    s.dev.coolEnough = true →
    let cold (t : State) : Prop := (t.dev.chip.phase = .loading ∨ t.dev.chip.phase = .loader) ∧
      t.dev.chip.lock = false ∧ t.dev.chip.primaryEn = false ∧ t.dev.chip.sched = false ∧ t.nv.fuses = s.nv.fuses
    (s.dev.chip.coldNext = true → Runs (.recoveryStart failed) s cold) ∧
    (∀ ty, s.dev.chip.coldNext = false → s.dev.imageChanged s.nv = some ty → Runs (.recoveryStart failed) s fun t =>
      cold t ∧ t.dev.log.buf.head? = some ⟨0, 4, 0x80, 4, 0x9060, 0xFF, 0xFFFF, [ty]⟩) ∧
    ∀ c, s.dev.chip.coldNext = false → s.dev.imageChanged s.nv = none → s.nv.store.config = some c →
      let d := s.dev.listAll
      (d.sec.poisonOver = true ∨ 256 < (d.badChunks (s.nv.modelsOf c)).length →
        Runs (.recoveryStart failed) s cold) ∧
      (d.sec.poisonOver = false → (d.badChunks (s.nv.modelsOf c)).length ≤ 256 →
        Runs (.recoveryStart failed) s fun t =>
          t.dev.chip.phase = .recovering ∧ t.dev.chip.computeReset = false ∧ t.dev.chip.lock = true ∧
          t.dev.chip.recStart = s.dev.time.now ∧ t.dev.chip.recoveries = s.dev.chip.recoveries + 1 ∧
          t.dev.chip.noPrimary = s.dev.chip.noPrimary + 1 ∧ t.dev.chip.image = some c ∧
          t.dev.chip.primaryEn = s.dev.chip.primaryEn ∧ t.nv = s.nv ∧ t.pending = s.pending)

/-! ## Time -/

/-- R36, R46, R48 to R52, R57, R310, R326, R468. A wingbeat begins at the next multiple of 125,000 ns; a tick
that one block missed is contained at the block, one the hub missed goes to the islands, and an island's
second bad tick in a row costs it the line; a due launch word starts its action on the block that hosts its
logical block, or is skipped with 0x1021; a trigger message that can no longer leave is dropped. -/
def Obligations.WingbeatsAndTheirChecks : Prop :=
  (∀ (inp : TickIn) (s : State), inp.ok = true → s.dev.chip.phase ≠ .modReset →
    Runs (.wingbeatTick inp) s fun t =>
      t.dev.time.now = (s.dev.wb + 1) * 125000 % 2 ^ 64 ∧ t.dev.time.ticked = [] ∧
      t.dev.pwr.raw = inp.sensors ∧ (∀ k, (t.dev.link k).retries = 0) ∧
      (inp.returned = [] → t.dev.sec = s.dev.sec ∧
        { t.dev.host with owed := [] } = { s.dev.host with owed := [] }) ∧ t.dev.chip.phase = s.dev.chip.phase ∧
      (s.dev.time.now + 250000 ≤ 2 ^ 64 → t.dev.wb = s.dev.wb + 1 ∧
        (s.dev.live = true → (s.dev.wb + 1) % s.dev.lp = 0 → t.dev.chip.launching = true)) ∧
      t.nv = s.nv ∧ t.pending = s.pending) ∧
  (∀ (cycles : Fin 4294967296) (s : State), s.dev.chip.phase ≠ .modReset →
    (∀ b : Fin 144, s.dev.time.tickBad = [] → Runs (.tickMissing (.block b) cycles) s fun t =>
      Wrote s.dev t.dev (blkRec s.dev 2 0x1022 b [(s.dev.wb + 65535) % 65536, 0, 4]) ∧
      Counted s.dev t.dev R.tkTickFault ∧ t.dev.time.tickBad = [⟨.block b, 4, (s.dev.wb + 65535) % 65536, 0⟩] ∧
      ((s.dev.blk b).svc ≠ .retired → t.dev.retire.any (·.1 = b.val) = true) ∧
      (∀ k, (s.dev.op k).used = true → (s.dev.op k).static = true → (s.dev.op k).block = some b.val →
        (s.dev.op k).status = none →
        (∀ n, ((s.dev.blk b).thr n).static = none) → (t.dev.op k).status = some stPoisoned)) ∧
    (s.dev.time.tickBad = [] → Runs (.tickMissing .hub cycles) s fun t =>
      Wrote s.dev t.dev (regRec s.dev 4 0x1023 4 0xFF [(s.dev.wb + 65535) % 65536, 0, 4, 16]) ∧
      Counted s.dev t.dev R.tkTickFault ∧
      (∀ j, (s.dev.isl j).loaded = true → (s.dev.isl j).state ≠ .halted → 5 ∈ (t.dev.isl j).req) ∧
      RegsBut [R.tkTickFault, R.hpEvlogLost] s.dev t.dev ∧ Only [.time, .regs, .log, .chA, .chB] s t) ∧
    (∀ i : Isl, (s.dev.isl i).loaded = true → (∀ f ∈ s.dev.time.tickBad, f.unit ≠ .island i) →
      (s.dev.isl i).wbBad = 0 ∨ (s.dev.isl i).wbOk = false → Runs (.tickMissing (.island i) cycles) s fun t =>
        t.dev.isl i = { s.dev.isl i with wbBad := min 2 ((s.dev.isl i).wbBad + 1), wbGood := 0 } ∧
        t.dev.isl (islPeer i) = s.dev.isl (islPeer i) ∧ Only [.time, .chA, .chB] s t) ∧
    (∀ i : Isl, (s.dev.isl i).loaded = true → (∀ f ∈ s.dev.time.tickBad, f.unit ≠ .island i) →
      1 ≤ (s.dev.isl i).wbBad → (s.dev.isl i).wbOk = true → Runs (.tickMissing (.island i) cycles) s fun t =>
        (t.dev.isl i).wbOk = false ∧ (t.dev.isl i).wbBad = 2 ∧
        ((s.dev.isl i).state ≠ .halted → 4 ∈ (t.dev.isl i).req) ∧
        ((s.dev.isl i).state ≠ .halted → (t.dev.isl i).vote = false ∧ 4 ∈ (t.dev.isl i).active) ∧
        ((s.dev.isl i).vote = false →
          Wrote s.dev t.dev (islRec s.dev i 5 0x8021 [(s.dev.wb + 65535) % 65536, 0, 4, cycles])) ∧
        Recorded s.dev t.dev [islRec s.dev i 5 0x8021 [(s.dev.wb + 65535) % 65536, 0, 4, cycles]] ∧
        t.dev.isl (islPeer i) = s.dev.isl (islPeer i) ∧ RegsBut [R.hpEvlogLost] s.dev t.dev ∧
        Only [.time, .regs, .log, .chA, .chB, .chip] s t)) ∧
  (∀ (w : LWord) (t : Fin 4) (l : Fin 32) (d : Dev), w.tiles = 2 ^ t.val → w.blocks = 2 ^ l.val → w.hub = false →
    w.once = false → (d.part w.part).reduced = false → (d.part w.part).debug = false →
    let b := d.phys t l
    (d.inSafe = true ∨ d.tileUp t = false ∨ l.val ∈ (d.tile t).outLb →
      Counted d (d.runWord w) R.tkLaunchSkip ∧
      Wrote d (d.runWord w) (regRec d 5 0x1021 w.table 0xFF [w.index, d.wb, t]) ∧
      RegsBut [R.tkLaunchSkip, R.hpEvlogLost] d (d.runWord w) ∧ Kept [.regs, .log] d (d.runWord w)) ∧
    (d.inSafe = false → d.tileUp t = true → l.val ∉ (d.tile t).outLb →
      (d.wordRuns w b = false → w.action ≠ 3 → w.action ≠ 4 → d.runWord w = d) ∧
      (d.wordRuns w b = false → w.action = 3 → (d.runWord w).blk b = { d.blk b with slotPart := some w.part } ∧
        BlocksBut b d (d.runWord w) ∧ Kept [.blocks] d (d.runWord w)) ∧
      (w.action = 5 → d.wordRuns w b = true →
        let a := w.arg0 % 2 ^ 32 + 64 * l.val
        let f (o n : Nat) : Nat := d.rdN (hubBase + a + o) n
        (f 6 2 = b ∧ f 24 4 = d.testPkg ∧ f 16 8 ≠ 0 →
          (d.runWord w).blk b = { d.blk b with selftest := some ⟨a, f 0 4, f 4 2, f 16 8, f 8 8⟩ }) ∧
        (f 6 2 ≠ b ∨ f 24 4 ≠ d.testPkg ∨ f 16 8 = 0 →
          (d.runWord w).blk b = { d.blk b with selftest := some ⟨a, 0, (d.blk b).passNo, d.time.now, 0⟩ }) ∧
        BlocksBut b d (d.runWord w) ∧ Kept [.blocks] d (d.runWord w)) ∧
      (w.action = 4 → (d.blk b).selftest = none → (d.runWord w).blk b = { d.blk b with
          slotPart := none, part := if (d.blk b).arbFor.isSome then (d.blk b).part else none } ∧
        BlocksBut b d (d.runWord w) ∧ Kept [.blocks] d (d.runWord w)) ∧
      (w.action = 2 → d.wordRuns w b = true → d.trkUsed t < 4096 → (d.blk b).svc = .retired → d.lame b = false →
        ((d.runWord w).op (d.freeToken t)).used = true ∧
        ((d.runWord w).op (d.freeToken t)).status = some stPoisoned ∧ ((d.runWord w).op (d.freeToken t)).slot = w.index) ∧
      (w.action = 2 → d.wordRuns w b = true → d.trkUsed t < 4096 → (d.blk b).svc ≠ .retired → ∃ e k, ((d.runWord w).blk b).eng = (d.blk b).eng ++ [e] ∧
        e.token = k ∧ e.part = w.part ∧ e.desc = w.arg0 ∧ e.deadline = some (d.wb + w.deadline) ∧ e.static = true ∧
        k = d.freeToken t ∧ ((d.runWord w).op k).used = true ∧ ((d.runWord w).op k).kind = .engine ∧
        ((d.runWord w).op k).slot = w.index ∧ BlocksBut b d (d.runWord w) ∧ (d.runWord w).mem = d.mem))) ∧
  ∀ (stream : Fin 64) (m : Trig) (s : State),
    s.dev.time.trigs.find? (fun m => m.stream = stream.val ∧ m.instant < s.dev.time.now + 100000) = some m →
    Runs (.triggerMessageDrop stream) s fun t =>
      m ∉ t.dev.time.trigs ∧ (∀ x, x ≠ m → (x ∈ t.dev.time.trigs ↔ x ∈ s.dev.time.trigs)) ∧
      Counted s.dev t.dev R.tkTrigLate ∧ Wrote s.dev t.dev (regRec s.dev 5 0x5030 4 0x15 [stream, m.seq]) ∧
      t.dev.out = s.dev.out ∧ RegsBut [R.tkTrigLate, R.hpEvlogLost] s.dev t.dev ∧ Only [.time, .regs, .log] s t

/-- R37, R38, R154, R155, R313. At a control-frame tick both votes enable primary output, and the mirror is
written or skipped; the ticks of the longer classes are given once each, wake the threads that wait for
their class, and at an epoch the counts per epoch start afresh and the hours are stored. -/
def Obligations.TicksOfTheLongerClasses : Prop :=
  (∀ (s : State), s.dev.tickDue 2 = true →
    (s.dev.chip.primaryEn = false → s.dev.voteBad .a = 0 → s.dev.voteBad .b = 0 → s.dev.phasesOk = true →
      s.dev.staticPlaced = true → Runs .controlFrameTick s fun t =>
        t.dev.chip.primaryEn = true ∧ t.dev.chip.noPrimary = 0 ∧ t.dev.chip.safeActive = false ∧
        t.dev.chA.vote = true ∧ t.dev.chB.vote = true ∧ t.dev.chA.safeOut = false ∧ t.dev.chB.safeOut = false ∧
        t.dev.chA.inhibit = false ∧ t.dev.chB.inhibit = false ∧ t.dev.time.ticked = s.dev.time.ticked ++ [2] ∧
        Recorded s.dev t.dev [islRec s.dev .a 0 0x8002 [s.dev.ctrlFrame]]) ∧
    ((s.dev.clearCauses .a).voteBad .a ≠ 0 → s.dev.chA.vote = true → Runs .controlFrameTick s fun t =>
        t.dev.chip.primaryEn = false ∧ t.dev.chA.vote = false ∧
        Recorded s.dev t.dev [islRec s.dev .a 5 0x8003 [0, (s.dev.clearCauses .a).voteBad .a]]) ∧
    (s.dev.chip.computeReset = true → Runs .controlFrameTick s fun t =>
        RegsBut [R.hpEvlogLost] s.dev t.dev ∧ t.dev.chA.state = s.dev.chA.state ∧ t.dev.chB.state = s.dev.chB.state ∧
        Only [.time, .chA, .chB, .chip, .regs, .log] s t) ∧
    (s.dev.chip.computeReset = false → s.dev.chip.sched = false → s.dev.fld R.qmMirrorCtl 0 1 = 1 →
      (s.dev.hostReady = false → Runs .controlFrameTick s fun t =>
        Counted s.dev t.dev R.qmMirrorSkip ∧ t.dev.out = s.dev.out ∧ t.dev.qm.mirrorSeq = s.dev.qm.mirrorSeq) ∧
      (s.dev.hostReady = true → Runs .controlFrameTick s fun t =>
        t.dev.qm.mirrorSeq = (s.dev.qm.mirrorSeq + 2) % 2 ^ 32 ∧ t.dev.reg R.qmMirrorSkip = s.dev.reg R.qmMirrorSkip ∧
        ∃ l, t.dev.out = s.dev.out ++ l ∧ l ≠ [] ∧ ∀ o ∈ l, ∃ a bs, o = .hostWrite a bs))) ∧
  (∀ (s : State), s.dev.tickDue 3 = true →
    (s.dev.live = false → Runs .perceptionFrameTick s fun t =>
      t.dev.time.ticked = s.dev.time.ticked ++ [3] ∧ t.dev.time.now = s.dev.time.now ∧ Only [.time] s t) ∧
    (s.dev.live = true → s.dev.fus.began = false → Runs .perceptionFrameTick s fun t =>
      t.dev.time.ticked = s.dev.time.ticked ++ [3] ∧ t.dev.fus.began = true ∧ t.dev.fus.instar = true ∧
      t.dev.fus.ups = []) ∧
    (s.dev.live = true → s.dev.fus.began = true → Runs .perceptionFrameTick s fun t =>
      t.dev.fus = s.dev.fus ∧ Only [.time, .blocks, .ops, .regs] s t)) ∧
  (∀ (s : State), s.dev.tickDue 1 = true → Runs .audioBlockTick s fun t =>
      t.dev.time.ticked = s.dev.time.ticked ++ [1] ∧ (s.dev.live = false → Only [.time] s t) ∧
      (s.dev.live = true → ∀ b n l rd, ((s.dev.blk b).thr n).wait = .cls 1 l rd → s.dev.tileUp (tileOf b) = true →
        ((t.dev.blk b).thr n).wait = .none) ∧
      Only [.time, .blocks, .ops, .regs] s t) ∧
  ∀ (lanes : List LaneSample) (s : State), s.dev.tickDue 4 = true → Runs (.epochTick lanes) s fun t =>
    t.dev.time.ticked = s.dev.time.ticked ++ [4] ∧ t.dev.time.now = s.dev.time.now ∧
    t.dev.sec.reports = 0 ∧ t.dev.host.caEp = 0 ∧ t.dev.pwr.epSum = 0 ∧ t.dev.pwr.epN = 0 ∧
    t.dev.pwr.epMean = (if s.dev.pwr.epN = 0 then 0 else s.dev.pwr.epSum / s.dev.pwr.epN / 10) ∧
    t.dev.chip.hours = (if s.dev.chip.hourEp + 1 < 3600 then s.dev.chip.hours else min 0xFFFFFFFF (s.dev.chip.hours + 1)) ∧
    t.dev.chip.hourEp = (if s.dev.chip.hourEp + 1 < 3600 then s.dev.chip.hourEp + 1 else 0) ∧
    (∀ k, (t.dev.link k).retriesEp = 0) ∧ t.dev.chip.phase = s.dev.chip.phase ∧
    (t.dev.chip.hours = s.nv.store.hours → t.nv = s.nv) ∧
    (t.dev.chip.hours ≠ s.nv.store.hours → t.nv = { s.nv with store := { s.nv.store with
      hoursRec := s.nv.store.hoursRec.write s.dev.time.now t.dev.chip.hours } } ∧ t.nv.store.hours = t.dev.chip.hours) ∧
    t.pending = s.pending

/-- R42, R44. A Sync in Acquiring sets T once and locks with 0x3042; in Locked and Holdover it corrects the
rate alone, or beyond 1 ms enters Mismatch with 0x3041; a late Sync is a Holdover with 0x3040; Sync leaves
on every master port.
R42. At an epoch tick a peer delay request leaves every enabled sensor port whose link is up, and Announce every
master port, with timeSource 0xA0 where the module is grandmaster; all in domain 0. -/
def Obligations.SyncSetsTheTimeBaseOnce : Prop :=
  (∀ (lanes : List LaneSample) (s : State), s.dev.tickDue 4 = true → Runs (.epochTick lanes) s fun t =>
     ∃ src l, t.dev.out = s.dev.out ++ s.dev.gptpPorts.map (fun p => Out.pdelayReq p 0) ++
         s.dev.masterPorts.map (fun p => Out.announce p 0 src) ++ l ∧
       (s.dev.slavePort = none → src = 0xA0)) ∧
  (∀ (g : DWord) (port : Nat) (s : State), s.dev.chip.phase ≠ .modReset → s.dev.slavePort = some port →
    port ∈ s.dev.links.up → bit (s.dev.reg R.tkGptpCfg) (3 + port) = true →
    let gm := g.toNat
    let off : Int := (gm : Int) - s.dev.time.now
    let st := s.dev.fld R.tkSyncStatus 0 3
    let ofs := unsigned 32 (max (-2147483647) (min 2147483647 off))
    (st = 1 → s.dev.syncOver = false → Runs (.syncReceived g) s fun t =>
      t.dev.time.now = gm ∧ t.dev.fld R.tkSyncStatus 0 3 = 2 ∧ t.dev.reg R.tkOffset = ofs ∧
      t.dev.chip.t0 = s.dev.chip.t0 + off ∧ t.dev.chA.ownW = gm / 125000 ∧ t.dev.chB.ownW = gm / 125000 ∧
      t.dev.log.total = s.dev.log.total + 1 ∧
      RegsBut [R.tkOffset, R.tkSyncStatus, R.hpEvlogLost] s.dev t.dev ∧
      Only [.time, .chip, .regs, .log, .chA, .chB] s t) ∧
    (st ≠ 1 → st ≠ 4 → s.dev.syncOver = false → 1000000 < off ∨ off < -1000000 → Runs (.syncReceived g) s fun t =>
      t.dev.time.now = s.dev.time.now ∧ t.dev.fld R.tkSyncStatus 0 3 = 4 ∧ t.dev.reg R.tkFreqAdj = 0 ∧
      t.dev.reg R.tkOffset = ofs ∧ Wrote s.dev t.dev (regRec s.dev 5 0x3041 5 0xFF [unsigned 64 off]) ∧
      RegsBut [R.tkOffset, R.tkSyncStatus, R.tkFreqAdj, R.hpEvlogLost] s.dev t.dev ∧ Only [.time, .regs, .log] s t) ∧
    (st ≠ 1 → st ≠ 4 → s.dev.syncOver = false → -1000000 ≤ off → off ≤ 1000000 → Runs (.syncReceived g) s fun t =>
      t.dev.time.now = s.dev.time.now ∧ t.dev.reg R.tkOffset = ofs ∧
      -200000 ≤ signed 32 (t.dev.reg R.tkFreqAdj) ∧ signed 32 (t.dev.reg R.tkFreqAdj) ≤ 200000 ∧
      (st = 3 → t.dev.fld R.tkSyncStatus 0 3 = 2 ∧
        Wrote s.dev t.dev (regRec s.dev 0 0x3042 5 0xFF [unsigned 64 off])) ∧
      (st ≠ 3 → t.dev.fld R.tkSyncStatus 0 3 = st ∧ Quiet s.dev t.dev) ∧
      RegsBut [R.tkOffset, R.tkSyncStatus, R.tkFreqAdj, R.hpEvlogLost] s.dev t.dev ∧ Only [.time, .regs, .log] s t) ∧
    (s.dev.syncOver = true → Runs (.syncReceived g) s fun t =>
      t.dev.time.now = s.dev.time.now ∧ t.dev.reg R.tkOffset = ofs ∧
      (1000000 < off ∨ off < -1000000 → t.dev.fld R.tkSyncStatus 0 3 = 4 ∧ Logged s.dev t.dev
        [regRec s.dev 5 0x3040 5 0xFF [s.dev.reg R.tkFreqAdj], regRec s.dev 5 0x3041 5 0xFF [unsigned 64 off]]) ∧
      (-1000000 ≤ off → off ≤ 1000000 → t.dev.fld R.tkSyncStatus 0 3 = 2 ∧ Logged s.dev t.dev
        [regRec s.dev 5 0x3040 5 0xFF [s.dev.reg R.tkFreqAdj], regRec s.dev 0 0x3042 5 0xFF [unsigned 64 off]]) ∧
      RegsBut [R.tkOffset, R.tkSyncStatus, R.tkFreqAdj, R.hpEvlogLost] s.dev t.dev ∧ Only [.time, .regs, .log] s t) ∧
    (st = 4 → Runs (.syncReceived g) s fun t =>
      t.dev.time.now = s.dev.time.now ∧ t.dev.reg R.tkOffset = ofs ∧ RegsBut [R.tkOffset] s.dev t.dev ∧
      Only [.time, .regs] s t)) ∧
  (∀ (s : State), s.dev.chip.phase ≠ .modReset → s.dev.syncLate = true → Runs .syncTimeout s fun t =>
    t.dev.fld R.tkSyncStatus 0 3 = 3 ∧ Wrote s.dev t.dev (regRec s.dev 5 0x3040 5 0xFF [s.dev.reg R.tkFreqAdj]) ∧
    RegsBut [R.tkSyncStatus, R.hpEvlogLost] s.dev t.dev ∧ Only [.regs, .log] s t) ∧
  ∀ (s : State), s.dev.chip.phase ≠ .modReset → Runs .syncTransmit s fun t =>
    t.dev.out = s.dev.out ++ s.dev.masterPorts.map (fun p => Out.sync p 0 s.dev.time.now) ∧
    (∀ p ∈ s.dev.masterPorts, p ∈ s.dev.links.up ∧ s.dev.slavePort ≠ some p) ∧ Only [.out] s t

/-! ## Security and the management port -/

/-- R329, R436, R437, R458. With the management port down nothing arrives; in a state that does not take
the command the answer is 2 and nothing else changes; a command taken has its effect and is answered: the
identity, a new nonce, data staged, an image verified into its logical unit or rejected with 0x9001, a
test package staged with 0x9050, a loader request recorded, and a restart as by MOD_RESET_N. -/
def Obligations.ManagementPort : Prop :=
  (∀ (c : Instr) (q : BitVec 16) (l o : Bool) (s : State), c.mgmt = some (q, l, o) → c.wf = true →
    (7 ∉ s.dev.links.up → Runs c s fun t => t = s) ∧
    (7 ∈ s.dev.links.up → ¬ MgmtTakes s.dev l o → Runs c s fun t =>
      Answered s.dev t.dev q 2 ∧ Only [.out] s t)) ∧
  (∀ (q : BitVec 16) (s : State), MgmtTakes s.dev true true →
    (Runs (.mgmtIdentify q) s fun t =>
      Answered s.dev t.dev q 0 ([s.nv.fuses.serial, b2n s.nv.fuses.grade, s.dev.secState s.nv, s.nv.fuses.svnWord,
        s.nv.fuses.mac] ++ s.dev.sec.lastRej) ∧ Only [.out] s t) ∧
    (Runs (.mgmtChallenge q) s fun t => ∃ v < 2 ^ 256,
      t.dev.sec = { s.dev.sec with nonce := some v } ∧ Answered s.dev t.dev q 0 [v] ∧ Only [.sec, .out, .free] s t)) ∧
  (∀ (q : BitVec 16) (h : ImgHeader) (version : Word) (s : State), MgmtTakes s.dev true true →
    (s.nv.fuses.verify none 4 h = 0 → Runs (.mgmtTestPkg q h version) s fun t =>
      t.nv = { s.nv with store := { s.nv.store with testStaged := some (h, version.toNat) } } ∧
      Wrote s.dev t.dev (regRec s.dev 0 0x9050 4 0x80 [version.toNat, h.svn]) ∧ Answered s.dev t.dev q 0 ∧
      RegsBut [R.hpEvlogLost] s.dev t.dev ∧ Kept [.regs, .log, .out] s.dev t.dev ∧ t.pending = s.pending) ∧
    (s.nv.fuses.verify none 4 h ≠ 0 → Runs (.mgmtTestPkg q h version) s fun t =>
      ∃ off, t.dev.sec.lastRej = [4, s.nv.fuses.verify none 4 h, 0, off] ∧
        t.dev.chip.lastReason = s.nv.fuses.verify none 4 h ∧
        Wrote s.dev t.dev (regRec s.dev 5 0x9001 4 0x80 [4, s.nv.fuses.verify none 4 h, 0, off]) ∧
        Answered s.dev t.dev q 1 ∧ RegsBut [R.hpEvlogLost] s.dev t.dev ∧
        Only [.chip, .sec, .free, .regs, .log, .out] s t)) ∧
  (∀ (q : BitVec 16) (off : Fin 274877906944) (data : List Byte) (s : State), MgmtTakes s.dev true false → data.length ≤ 8192 →
    Runs (.mgmtStage q off data) s fun t =>
      (∀ x, tget memDef t.dev.sec.staging x =
        if off.val ≤ x ∧ x < off.val + data.length then data.getD (x - off.val) 0 else tget memDef s.dev.sec.staging x) ∧
      { t.dev.sec with staging := [] } = { s.dev.sec with staging := [] } ∧
      Answered s.dev t.dev q 0 ∧ Only [.sec, .out] s t) ∧
  (∀ (q : BitVec 16) (s : State), MgmtTakes s.dev true false →
    let done (lu : Nat) (h : ImgHeader) (t : State) : Prop :=
      Wrote s.dev t.dev (regRec s.dev 0 0x9006 4 0x80 [lu, h.type, h.svn]) ∧ Answered s.dev t.dev q 0 ∧
      t.nv.fuses = s.nv.fuses ∧ RegsBut [R.hpEvlogLost] s.dev t.dev ∧ Kept [.regs, .log, .out] s.dev t.dev ∧
      t.pending = s.pending
    let fails (type reason sec : Nat) (t : State) : Prop :=
      ∃ off, t.dev.sec.lastRej = [type, reason, sec, off] ∧ t.dev.chip.lastReason = reason ∧
      Wrote s.dev t.dev (regRec s.dev 5 0x9001 4 0x80 [type, reason, sec, off]) ∧ Answered s.dev t.dev q 1 ∧
      RegsBut [R.hpEvlogLost] s.dev t.dev ∧ Only [.chip, .sec, .free, .regs, .log, .out] s t
    (∀ h, (s.nv.fuses.verify none 1 h = 0 → Runs (.mgmtCommit q 0 (.firmware h)) s fun t =>
        done 0 h t ∧ t.nv.store = { s.nv.store with firmware := some h }) ∧
      (s.nv.fuses.verify none 1 h ≠ 0 →
        Runs (.mgmtCommit q 0 (.firmware h)) s (fails 1 (s.nv.fuses.verify none 1 h) 0)) ∧
      ∀ lu, lu ≠ 0 → Runs (.mgmtCommit q lu (.firmware h)) s (fails h.type 1 0)) ∧
    (∀ c, let bad : Nat × Nat := ({ s.dev with regs := [] }).configBad s.nv c
      (bad.1 = 0 → Runs (.mgmtCommit q 1 (.config c)) s fun t =>
        done 1 c.header t ∧ t.nv.store = { s.nv.store with config := some c }) ∧
      (bad.1 ≠ 0 → Runs (.mgmtCommit q 1 (.config c)) s (fails 2 bad.1 bad.2)) ∧
      ∀ lu, lu ≠ 1 → Runs (.mgmtCommit q lu (.config c)) s (fails c.header.type 1 0)) ∧
    ∀ slot m, (s.nv.fuses.verify none 3 m.header = 0 → m.models.all Model.whole = true →
        Runs (.mgmtCommit q 4 (.manifest slot m)) s fun t =>
        done 4 m.header t ∧ (∀ d, tget d t.nv.store.models slot = m) ∧ slot ∈ t.nv.store.modelIn ∧
        { t.nv.store with models := [], modelIn := [] } = { s.nv.store with models := [], modelIn := [] }) ∧
      (s.nv.fuses.verify none 3 m.header ≠ 0 →
        Runs (.mgmtCommit q 4 (.manifest slot m)) s (fails 3 (s.nv.fuses.verify none 3 m.header) 0)) ∧
      (s.nv.fuses.verify none 3 m.header = 0 → m.models.all Model.whole = false →
        Runs (.mgmtCommit q 4 (.manifest slot m)) s (fails 3 3 0)) ∧
      ∀ lu, lu ≠ 4 → Runs (.mgmtCommit q lu (.manifest slot m)) s (fails m.header.type 1 0)) ∧
  (∀ (q : BitVec 16) (tok : Token) (s : State), MgmtTakes s.dev false true →
    let r := s.nv.fuses.verify s.dev.sec.nonce 8 tok.header
    (r = 0 → Runs (.mgmtEnterLoader q tok) s fun t =>
      t.nv = { s.nv with store := { s.nv.store with loaderReq := true } } ∧ Answered s.dev t.dev q 0 ∧
      Kept [.out] s.dev t.dev ∧ t.pending = s.pending) ∧
    (r ≠ 0 → Runs (.mgmtEnterLoader q tok) s fun t => Refused s t q 8 r)) ∧
  ∀ (q : BitVec 16) (failed : List (Fin 48)) (s : State), MgmtTakes s.dev true false →
    Runs (.mgmtRestart q failed) s fun t =>
      exec (.coldStart failed) { s with dev := Dev.modReset { s.dev with out := s.dev.out ++ [.mgmt q 0 []] } } = .next t ∧
      ∃ l, t.dev.out = s.dev.out ++ .mgmt q 0 [] :: l

/-- R439 to R443. A provisioning token that verifies on a module without a root key brings keys, certificate
and root key, a re-provisioning token new keys on an opened module, and each uses one of 32 provisionings; a
report is the 512 bytes of R442 under the next index with its signature, after its block of indices has been
reserved; a certificate is written as it is stored; the next lower tree is generated once 786,432
indices of the current one have been used. -/
def Obligations.KeysAndAttestation : Prop :=
  (∀ (q : BitVec 16) (tok : Token) (s : State), MgmtTakes s.dev true false →
    let r6 := s.nv.fuses.verify s.dev.sec.nonce 6 tok.header
    let r7 := s.nv.fuses.verify s.dev.sec.nonce 7 tok.header
    let keys (t : State) : Prop :=
      t.nv.store = { s.nv.store with
        seeds := true, slots := tok.keySlots.take 16, certRec := s.nv.store.certRec.write s.dev.time.now true
        lmsRec := s.nv.store.lmsRec.write s.dev.time.now 0, topRec := s.nv.store.topRec.write s.dev.time.now 0 } ∧
      t.nv.store.cert = true ∧ t.nv.store.lmsEnd = 0 ∧ t.nv.store.topSig = 0 ∧
      t.dev.sec = { s.dev.sec with next := 0 } ∧ Answered s.dev t.dev q 0 ∧ Kept [.sec, .out] s.dev t.dev ∧
      t.pending = s.pending
    let refusedFree (type : Nat) (t : State) : Prop := ∃ reason, 1 ≤ reason ∧ reason ≤ 8 ∧
      Wrote s.dev t.dev (regRec s.dev 5 0x9040 4 0x80 [type, reason]) ∧ Answered s.dev t.dev q 1 ∧
      Only [.regs, .log, .out, .free] s t
    (r6 = 0 → s.nv.fuses.rootKey = none → s.nv.fuses.provUsed < 32 → Runs (.mgmtProvision q tok) s fun t =>
      keys t ∧ t.nv.fuses =
        { s.nv.fuses with provUsed := s.nv.fuses.provUsed + 1, rootKey := some tok.rootKey }) ∧
    (r6 = 0 → s.nv.fuses.rootKey ≠ none ∨ 32 ≤ s.nv.fuses.provUsed →
      Runs (.mgmtProvision q tok) s (refusedFree 6)) ∧
    (r6 ≠ 0 → Runs (.mgmtProvision q tok) s fun t => Refused s t q 6 r6) ∧
    (r7 = 0 → s.nv.fuses.opened = true → s.nv.fuses.provUsed < 32 → Runs (.mgmtReprovision q tok) s fun t =>
      keys t ∧ t.nv.fuses = { s.nv.fuses with provUsed := s.nv.fuses.provUsed + 1 }) ∧
    (r7 = 0 → s.nv.fuses.opened = false ∨ 32 ≤ s.nv.fuses.provUsed →
      Runs (.mgmtReprovision q tok) s (refusedFree 7)) ∧
    (r7 ≠ 0 → Runs (.mgmtReprovision q tok) s fun t => Refused s t q 7 r7)) ∧
  (∀ (k : Fin 16384) (s : State), s.dev.chip.computeReset = false →
    let o := s.dev.op k
    let a := o.arg0.toNat
    let out := s.dev.rdN (a + 8) 8
    let i := s.dev.sec.next
    (AttRequest s.dev k 0 → s.nv.store.seeds = true → s.dev.sec.reports < 4 → i < 2 ^ 30 →
      i / 2 ^ 20 ≤ s.nv.store.topSig → s.dev.refusalAt 720 o.part o.cls out 3796 true = none →
      Runs (.attestationRequest k) s fun t =>
        t.dev.rdN out 4 = 0x52545441 ∧ t.dev.rdN (out + 4) 2 = 1 ∧
        t.dev.rdN (out + 6) 2 = s.dev.repFlags s.nv ∧ t.dev.rdN (out + 8) 16 = s.nv.fuses.serial % 2 ^ 128 ∧
        (∀ j < 32, t.dev.rd (out + 24 + j) = s.dev.rd (a + 16 + j)) ∧
        t.dev.rdN (out + 56) 8 = s.dev.time.now % 2 ^ 64 ∧ t.dev.rdN (out + 64) 4 = s.dev.chip.hours % 2 ^ 32 ∧
        t.dev.rdN (out + 68) 4 = s.nv.fuses.svnWord % 2 ^ 32 ∧
        t.dev.rdN (out + 72) 4 = s.dev.chip.recoveries % 2 ^ 32 ∧
        t.dev.rdN (out + 76) 4 = s.nv.fuses.provUsed % 2 ^ 32 ∧ t.dev.rdN (out + 80) 8 = i ∧
        Holds t.dev out (s.dev.reportBody s.nv ((s.dev.rdBytes a 64).drop 16 |>.take 32) i) ∧
        Holds t.dev (out + 512) (hssSign i (s.dev.reportBody s.nv ((s.dev.rdBytes a 64).drop 16 |>.take 32) i)) ∧
        MemBut out 3796 s.dev t.dev ∧ (t.dev.op k).status = some stDone ∧
        t.dev.sec = { s.dev.sec with next := i + 1, reports := s.dev.sec.reports + 1 } ∧
        t.nv.store.lmsEnd = (if s.nv.store.lmsEnd ≤ i then s.nv.store.lmsEnd + 1024 else s.nv.store.lmsEnd) ∧
        (i < s.nv.store.lmsEnd → t.nv.store = s.nv.store) ∧ (s.nv.store.lmsEnd ≤ i → t.nv.store = { s.nv.store with
          lmsRec := s.nv.store.lmsRec.write s.dev.time.now (s.nv.store.lmsEnd + 1024) }) ∧
        t.nv.fuses = s.nv.fuses ∧
        (s.nv.store.lmsEnd ≤ i → Wrote s.dev t.dev (regRec s.dev 0 0x9030 4 0x80 [s.nv.store.lmsEnd + 1024])) ∧
        (i < s.nv.store.lmsEnd → Quiet s.dev t.dev) ∧ RegsBut [R.hpEvlogLost] s.dev t.dev ∧
        Kept [.mem, .poison, .enc, .ops, .sec, .regs, .log] s.dev t.dev ∧ t.pending = s.pending) ∧
    (AttRequest s.dev k 0 → s.nv.store.seeds = true → s.dev.sec.reports < 4 → i < 2 ^ 30 →
      s.nv.store.topSig < i / 2 ^ 20 → Runs (.attestationRequest k) s fun t => t = s) ∧
    (AttRequest s.dev k 1 → s.dev.refusalAt 720 o.part o.cls out 1408 true = none →
      Runs (.attestationRequest k) s fun t =>
        Holds t.dev out s.nv.certBytes ∧ MemBut out 1408 s.dev t.dev ∧ (t.dev.op k).status = some stDone ∧
        Only [.mem, .poison, .enc, .ops] s t) ∧
    (∀ tgt r26, AttRequest s.dev k 1 → s.dev.refusalAt 720 o.part o.cls out 1408 true = some (tgt, r26) →
      Runs (.attestationRequest k) s fun t =>
        (t.dev.op k).status = some stDenied ∧ Counted s.dev t.dev R.secFwDeny ∧
        RegsBut [R.secFwDeny, R.secFwLast, R.hpEvlogLost] s.dev t.dev ∧ Only [.ops, .regs, .log] s t) ∧
    ∀ tgt r26, o.used = true → o.placed = true → o.kind = .attest → o.status = none →
      (s.dev.refusalAt 720 o.part o.cls a 64 false = some (tgt, r26) → Runs (.attestationRequest k) s fun t =>
        (t.dev.op k).status = some stDenied ∧ Counted s.dev t.dev R.secFwDeny ∧
        RegsBut [R.secFwDeny, R.secFwLast, R.hpEvlogLost] s.dev t.dev ∧ Only [.ops, .regs, .log] s t) ∧
      (s.dev.refusalAt 720 o.part o.cls a 64 false = none → s.dev.anyPoison a 64 = true ∨
        (∃ j < 64, 48 ≤ j ∧ s.dev.rd (a + j) ≠ 0) → Runs (.attestationRequest k) s fun t =>
        (t.dev.op k).status = some stPoisoned ∧ Only [.ops] s t)) ∧
  ∀ (s : State),
    let tree := s.dev.sec.next / 2 ^ 20 + (if 786432 ≤ s.dev.sec.next % 2 ^ 20 then 1 else 0)
    (s.nv.store.seeds = true → s.nv.store.topSig < tree → tree < 1024 → Runs .lowerTreeGenerate s fun t =>
      t.nv = { s.nv with store := { s.nv.store with topRec := s.nv.store.topRec.write s.dev.time.now tree } } ∧
      t.nv.store.topSig = tree ∧ t.dev = s.dev ∧ t.pending = s.pending) ∧
    (s.nv.store.seeds = false ∨ tree ≤ s.nv.store.topSig ∨ 1024 ≤ tree → Runs .lowerTreeGenerate s fun t => t = s)

/-- R443. At most 4 reports are signed in an epoch: an index is used only by a report with fewer than 4 before
it, each report counts, and an epoch tick begins the count again; a further report request, and every one
without attestation seeds, completes as BUDGET_EXHAUSTED; a certificate does not depend on the count; once
10,737,418 indices remain event 0x9032 is written, and again after 1,000 powered hours. -/
def Obligations.AttestationLimits : Prop :=
  (∀ (k : Fin 16384) (s : State), Runs (.attestationRequest k) s fun t =>
    (t.dev.sec.next ≠ s.dev.sec.next → s.dev.sec.reports < 4 ∧ t.dev.sec.reports = s.dev.sec.reports + 1 ∧
      s.nv.store.seeds = true) ∧
    (t.dev.sec.next = s.dev.sec.next → t.dev.sec.reports = s.dev.sec.reports)) ∧
  (∀ (lanes : List LaneSample) (s : State), s.dev.tickDue 4 = true → Runs (.epochTick lanes) s fun t =>
    t.dev.sec.reports = 0) ∧
  (∀ (k : Fin 16384) (s : State), AttRequest s.dev k 0 → 4 ≤ s.dev.sec.reports ∨ s.nv.store.seeds = false →
    Runs (.attestationRequest k) s fun t => (t.dev.op k).status = some stBudget ∧
      (∀ j, j ≠ k.val → t.dev.op j = s.dev.op j) ∧ Only [.ops] s t) ∧
  (∀ (k : Fin 16384) (n : Nat) (s : State), AttRequest s.dev k 1 →
    s.dev.refusalAt 720 (s.dev.op k).part (s.dev.op k).cls (s.dev.rdN ((s.dev.op k).arg0.toNat + 8) 8) 1408 true = none →
    Runs (.attestationRequest k) { s with dev := { s.dev with sec := { s.dev.sec with reports := n } } } fun t =>
      (t.dev.op k).status = some stDone ∧ t.dev.sec.reports = n) ∧
  ∀ (s : State), s.nv.store.seeds = true → s.dev.chip.phase ≠ .modReset →
    let left := 2 ^ 30 - s.dev.sec.next
    (left ≤ 10737418 → (∀ h, s.nv.store.nearH = some h → h + 1000 ≤ s.dev.chip.hours) →
      Runs .attestationIndicesNearlyExhausted s fun t =>
        Wrote s.dev t.dev (regRec s.dev 5 0x9032 4 0x80 [left]) ∧
        t.nv = { s.nv with store := { s.nv.store with nearH := some s.dev.chip.hours } } ∧
        RegsBut [R.hpEvlogLost] s.dev t.dev ∧ Kept [.regs, .log] s.dev t.dev ∧ t.pending = s.pending) ∧
    (10737418 < left → Runs .attestationIndicesNearlyExhausted s fun t => t = s) ∧
    ∀ h, s.nv.store.nearH = some h → s.dev.chip.hours < h + 1000 →
      Runs .attestationIndicesNearlyExhausted s fun t => t = s

/-! ## The host port -/

/-- R449, R450, R452, R454, R455, R457. HOT_RESET and LINK_DISABLE take the link down with 0x3032 and reset
configuration space; clearing Bus Master Enable is recorded; configuration space reads and writes its
fields, and a write that lets the link take writes again sends what waited; BAR2 reads and writes memory at the window, refused accesses answer Completer Abort or are dropped,
and poison travels as EP; one whose class is at its cap waits behind those before it (R176); an event record joins the retention buffer, and its delivery writes its 32 bytes
to the ring and moves TAIL. -/
def Obligations.HostLinkWindowAndLog : Prop :=
  (∀ (s : State), s.dev.host.up = true →
    let off (why : Nat) (t : State) : Prop :=
      t.dev.host.up = false ∧ t.dev.host.lit = false ∧ t.dev.host.cfg = [] ∧ t.dev.host.d3 = false ∧
      t.dev.links.up = s.dev.links.up.filter (· ≠ 0) ∧
      Logged s.dev t.dev [regRec s.dev 0 0x3032 8 0xFF [why], portRec s.dev 5 0x3027 0 [0]] ∧
      RegsBut [R.hpEvlogLost] s.dev t.dev ∧ Only [.host, .links, .regs, .log] s t
    (Runs .hotReset s fun t => off 1 t ∧ t.dev.host.held = s.dev.host.held) ∧
    (Runs .linkDisable s fun t => off 2 t ∧ t.dev.host.held = true) ∧
    (Runs .bmeClear s fun t => bit (t.dev.cfg 1) 2 = false ∧ (∀ i, i ≠ 1 → t.dev.cfg i = s.dev.cfg i) ∧
      (∀ j, j ≠ 2 → bit (t.dev.cfg 1) j = bit (s.dev.cfg 1) j) ∧
      (bit (s.dev.cfg 1) 2 = true → Wrote s.dev t.dev (regRec s.dev 0 0x3032 8 0xFF [3])) ∧
      (bit (s.dev.cfg 1) 2 = false → t = s) ∧
      RegsBut [R.hpEvlogLost] s.dev t.dev ∧ Only [.host, .regs, .log] s t) ∧
    ∀ (off : Fin 4096) (v : Word), let i := off.val / 4
      (Runs (.configRequest false off v) s fun t =>
        t.dev.out = s.dev.out ++ [.completion 0 false (toLE 4 (s.dev.cfgRead i))] ∧
        (i = 0 → s.dev.cfgRead i = 0x08801F47) ∧ Only [.out] s t) ∧
      (Runs (.configRequest true off v) s fun t =>
        (∃ l, t.dev.out = s.dev.out ++ l ++ [.completion 0 false []] ∧ (s.dev.host.owed = [] → l = [])) ∧
        (i = 0x21 → v.toNat % 4 = 3 → t.dev.host = { s.dev.host with d3 := true }) ∧
        (i = 0x21 → v.toNat % 4 = 0 → { t.dev.host with owed := [] } = { s.dev.host with d3 := false, owed := [] }) ∧
        (i = 0x21 → v.toNat % 4 = 1 ∨ v.toNat % 4 = 2 → t.dev.host = s.dev.host) ∧
        (i ≠ 0x21 ∨ v.toNat % 4 = 0 →
          t.dev.host.owed = if t.dev.hostReady then [] else s.dev.host.owed) ∧
        (i ≠ 0x21 → (∀ k, k ≠ i → t.dev.cfg k = s.dev.cfg k) ∧ ∀ j,
          bit (t.dev.cfg i) j = (if bit (cfgMask i) j then bit v.toNat j
            else bit (cfgClear i) j && bit (s.dev.cfg i) j && !bit v.toNat j)) ∧
        (i = 1 → bit (s.dev.cfg 1) 2 = true → bit v.toNat 2 = false →
          Wrote s.dev t.dev (regRec s.dev 0 0x3032 8 0xFF [3])) ∧
        (¬ (i = 1 ∧ bit (s.dev.cfg 1) 2 = true ∧ bit v.toNat 2 = false) → Quiet s.dev t.dev ∧ t.dev.regs = s.dev.regs) ∧
        Only [.host, .regs, .log, .out] s t)) ∧
  (∀ (s : State), s.dev.host.up = false →
    ∀ c ∈ [Instr.hotReset, .linkDisable, .bmeClear], Runs c s fun t => t = s) ∧
  (∀ (off : Fin 68719476736) (len : Fin 4097) (s : State), s.dev.hostReq = 0 → 1 ≤ len.val →
    let a := s.dev.fld R.hpBar2Win 0 8 * 2 ^ 30 + off.val
    let req : Bar2Req := ⟨off, len, none⟩
    (s.dev.host.bar2 ≠ [] ∨ s.dev.bar2Waits req = true → Runs (.bar2Read off len) s fun t =>
      t.dev.host = { s.dev.host with bar2 := s.dev.host.bar2 ++ [req] } ∧ Only [.host] s t) ∧
    (s.dev.host.bar2 = [] → s.dev.bar2Waits req = false →
    (s.dev.bar2Refuse a len.val false = none → s.dev.keyGone a len.val = none →
      Runs (.bar2Read off len) s fun t =>
        t.dev.out = s.dev.out ++ [.completion 0 (s.dev.anyPoison a len.val) (s.dev.rdBytes a len.val)] ∧
        (s.dev.anyPoison a len.val = true → Counted s.dev t.dev R.hpEpOut) ∧
        (s.dev.anyPoison a len.val = false → t.dev.regs = s.dev.regs) ∧
        RegsBut [R.hpEpOut] s.dev t.dev ∧ Only [.regs, .out] s t) ∧
    (∀ g, s.dev.bar2Refuse a len.val false = none → s.dev.keyGone a len.val = some g →
      Runs (.bar2Read off len) s fun t =>
        t.dev.out = s.dev.out ++ [.completion 2 false []] ∧ Counted s.dev t.dev R.hpCa ∧
        t.dev.log.total = s.dev.log.total + 1 ∧ RegsBut [R.hpCa, R.hpEvlogLost] s.dev t.dev ∧
        Only [.regs, .log, .out] s t) ∧
    ∀ tgt r26, s.dev.bar2Refuse a len.val false = some (tgt, r26) → Runs (.bar2Read off len) s fun t =>
        t.dev.out = s.dev.out ++ [.completion 2 false []] ∧ Counted s.dev t.dev R.hpCa ∧
        Counted s.dev t.dev R.secFwDeny ∧ t.dev.log.total = s.dev.log.total + 1 ∧
        RegsBut [R.hpCa, R.secFwDeny, R.secFwLast, R.hpEvlogLost] s.dev t.dev ∧ Only [.regs, .log, .out] s t)) ∧
  (∀ (off : Fin 68719476736) (data : List Byte) (ep : Bool) (s : State), s.dev.hostReq = 0 → 1 ≤ data.length →
    data.length ≤ 512 →
    let a := s.dev.fld R.hpBar2Win 0 8 * 2 ^ 30 + off.val
    let req : Bar2Req := ⟨off, data.length, some (data, ep)⟩
    (s.dev.host.bar2 ≠ [] ∨ s.dev.bar2Waits req = true → Runs (.bar2Write off data ep) s fun t =>
      t.dev.host = { s.dev.host with bar2 := s.dev.host.bar2 ++ [req] } ∧ Only [.host] s t) ∧
    (s.dev.host.bar2 = [] → s.dev.bar2Waits req = false →
    (s.dev.bar2Refuse a data.length true = none → Runs (.bar2Write off data ep) s fun t =>
      Holds t.dev a data ∧ MemBut a data.length s.dev t.dev ∧ t.dev.out = s.dev.out ∧
      (ep = false → Only [.mem, .poison, .enc] s t) ∧
      (ep = true → t.dev.anyPoison a data.length = true ∧ Counted s.dev t.dev R.hpEpIn ∧
        bit (t.dev.cfg 0x44) 13 = true ∧ bit (t.dev.cfg 0x12) 16 = true ∧
        Wrote s.dev t.dev (regRec s.dev 5 0x3033 8 0xFF [a / 64, data.length]) ∧
        RegsBut [R.hpEpIn, R.hpEvlogLost] s.dev t.dev ∧ Only [.mem, .poison, .enc, .regs, .host, .log] s t)) ∧
    ∀ tgt r26, s.dev.bar2Refuse a data.length true = some (tgt, r26) → Runs (.bar2Write off data ep) s fun t =>
      Counted s.dev t.dev R.secFwDeny ∧ t.dev.log.total = s.dev.log.total + 1 ∧
      RegsBut [R.secFwDeny, R.secFwLast, R.hpEvlogLost] s.dev t.dev ∧ Only [.regs, .log] s t)) ∧
  (∀ (code cls region block part ctx : Nat) (detail : List Nat) (s : State), s.dev.chip.phase ≠ .modReset →
    (Instr.eventRecordWrite code cls region block part ctx detail).wf = true →
    Runs (.eventRecordWrite code cls region block part ctx detail) s fun t =>
      Wrote s.dev t.dev ⟨s.dev.time.now, region, block, cls, code, part, ctx, detail⟩ ∧
      (cls = 4 → region ≠ 6 → region ≠ 7 → code ≠ 0x4010 → ∀ i : Isl, (s.dev.isl i).loaded = true →
        (s.dev.isl i).state ≠ .halted → feedCause code ∈ (t.dev.isl i).req) ∧
      (cls ≠ 4 → Only [.regs, .log] s t) ∧
      RegsBut [R.hpEvlogLost] s.dev t.dev ∧ Only [.regs, .log, .chA, .chB] s t) ∧
  ∀ (r : EventRecord) (rest : List EventRecord) (s : State), s.dev.log.buf = r :: rest → s.dev.log.buf.length ≤ 4096 →
    bit (s.dev.reg R.hpEvlogCfg) 0 = true → s.dev.hostReady = true →
    let k := s.dev.reg R.hpEvlogTail
    let size := 2 ^ s.dev.fld R.hpEvlogCfg 1 5
    ((k + 2 ^ 32 - s.dev.reg R.hpEvlogHead) % 2 ^ 32 < size → s.dev.reg R.hpEvlogLo % 4096 = 0 →
      Runs .eventRecordDeliver s fun t =>
        t.dev.out = s.dev.out ++
          [.hostWrite (s.dev.reg R.hpEvlogLo + s.dev.reg R.hpEvlogHi * 2 ^ 32 + 32 * (k % size)) r.bytes] ∧
        t.dev.reg R.hpEvlogTail = (k + 1) % 2 ^ 32 ∧ t.dev.log.lost = 0 ∧
        (s.dev.log.lost = 0 → t.dev.log.buf = rest) ∧
        (s.dev.log.lost ≠ 0 → t.dev.log.buf = rest ++ [regRec s.dev 5 0x3031 8 0xFF [s.dev.log.lost, s.dev.log.lostAt]]) ∧
        RegsBut [R.hpEvlogTail] s.dev t.dev ∧ Only [.regs, .log, .out] s t) ∧
    (size ≤ (k + 2 ^ 32 - s.dev.reg R.hpEvlogHead) % 2 ^ 32 → Runs .eventRecordDeliver s fun t => t = s)

/-- R432. Until the configuration lock is set every request to BAR0 and BAR2 is counted in HP_UR, a read is
completed as Unsupported Request, and no register but HP_UR changes; the same holds in D3hot; with the link down
nothing arrives. After the lock a write that covers an RWL field leaves every RWL field as it was and is
recorded once: SEC_RWL_DENY counts, and event 0x9011 names the lowest register covered and the initiator. -/
def Obligations.HostRequestsAndTheLock : Prop :=
  (∀ (c : Instr) (s : State), c.wf = true → c.hostWrites = true ∨ c.hostReads = true →
    (s.dev.host.up = false → Runs c s fun t => t = s) ∧
    (s.dev.host.up = true → s.dev.chip.lock = false ∨ s.dev.host.d3 = true → Runs c s fun t =>
      Counted s.dev t.dev R.hpUr ∧ RegsBut [R.hpUr] s.dev t.dev ∧
      t.dev.out = s.dev.out ++ (if c.hostReads then [.completion 1 false []] else []) ∧ Only [.regs, .out] s t)) ∧
  ∀ (off : Fin 268435456) (v : DWord) (be : BitVec 8) (wide : Bool) (s : State),
    s.dev.host.up = true → s.dev.chip.lock = true → s.dev.host.d3 = false →
    off.val % (if wide then 8 else 4) = 0 →
    let hit (x n : Nat) : Prop := ∃ i < 32, bit (rwlMask x) i = true ∧ bit be.toNat (n + i / 8) = true
    let denied (o : Nat) (t : State) : Prop :=
      Counted s.dev t.dev R.secRwlDeny ∧ Wrote s.dev t.dev (regRec s.dev 5 0x9011 4 0x80 [o, 728]) ∧
      (∀ x i, bit (rwlMask x) i = true → bit (t.dev.reg x) i = bit (s.dev.reg x) i) ∧
      RegsBut ([R.secRwlDeny, R.hpEvlogLost, R.hpUnused, off.val] ++ if wide then [off.val + 4] else []) s.dev t.dev ∧
      Only [.regs, .log] s t
    (hit off.val 0 → Runs (.registerWrite off v be wide 728) s (denied off.val)) ∧
    (wide = true → ¬ hit off.val 0 → hit (off.val + 4) 4 →
      Runs (.registerWrite off v be wide 728) s (denied (off.val + 4)))

/-- R6, R36, R451, R457, R460. A read answers with the register's value, or 0 with HP_UNUSED counted, and leaves
an RC field cleared; TK_TIME_LO captures the high half of T; a plain register takes the enabled bytes of its
writable fields alone; a write of a register with an effect of its own is that command; a bad request answers
Completer Abort; HP_BAR2_WIN, HP_EVLOG_CFG and HP_EVLOG_HEAD take the values they allow. -/
def Obligations.RegisterReadsAndWrites : Prop :=
  (∀ (off : Fin 268435456) (s : State), s.dev.hostReq = 0 → off.val % 4 = 0 →
    (Runs (.rcRegisterRead off false) s fun t =>
      t.dev.out = s.dev.out ++ [.completion 0 false (toLE 4 (s.dev.view s.nv off))] ∧ t.nv = s.nv) ∧
    (regDef? off = none → Runs (.rcRegisterRead off false) s fun t => s.dev.view s.nv off = 0 ∧
      (Counted s.dev t.dev R.hpUnused ∧ RegsBut [R.hpUnused] s.dev t.dev ∧ Only [.regs, .out] s t)) ∧
    (regDef? off ≠ none → s.dev.viewUnit s.nv off = none → Runs (.rcRegisterRead off false) s fun t =>
      s.dev.view s.nv off = s.dev.reg off ∧
      (∀ i, bit (t.dev.reg off) i = (bit (s.dev.reg off) i && !bit (rcMask off) i)) ∧
      RegsBut [off.val] s.dev t.dev ∧ (rcMask off = 0 → t.dev.regs = s.dev.regs) ∧ Only [.regs, .out] s t) ∧
    (off.val = R.qmSrvHold → Runs (.rcRegisterRead off false) s fun t =>
      s.dev.view s.nv off = min (s.dev.inst s.dev.iSel).hold 0xFFFFFFFF ∧
      t.dev.inst s.dev.iSel = { s.dev.inst s.dev.iSel with hold := 0 } ∧
      (∀ i, i ≠ s.dev.iSel → t.dev.inst i = s.dev.inst i) ∧ Only [.srv, .out] s t) ∧
    (off.val % 8 = 0 → regDef? off ≠ none → regDef? (off.val + 4) ≠ none → s.dev.viewUnit s.nv off = none →
      s.dev.viewUnit s.nv (off.val + 4) = none → rcMask off = 0 → rcMask (off.val + 4) = 0 →
      Runs (.rcRegisterRead off true) s fun t => t.dev.out = s.dev.out ++
        [.completion 0 false (toLE 4 (s.dev.reg off) ++ toLE 4 (s.dev.reg (off.val + 4)))] ∧ Only [.out] s t)) ∧
  (∀ (s : State), s.dev.hostReq = 0 → Runs .tkTimeLoRead s fun t =>
    t.dev.out = s.dev.out ++ [.completion 0 false (toLE 4 (s.dev.time.now % 2 ^ 32))] ∧
    t.dev.view t.nv R.tkTimeHi = s.dev.time.now / 2 ^ 32 % 2 ^ 32 ∧
    { t.dev.time with hi := 0 } = { s.dev.time with hi := 0 } ∧ Only [.time, .out] s t) ∧
  (∀ (off : Fin 268435456) (v : DWord) (be : BitVec 8) (init : Nat) (s : State),
    (init = 728 ∧ s.dev.hostReq = 0) ∨ (init < 720 ∧ init % 5 < 4 ∧ s.dev.live = true) →
    off.val % 4 = 0 → (∀ x, s.dev.writeUnit off x = none) → off.val / 8 * 8 ≠ R.qmDoorbell →
    off.val / 8 * 8 ≠ R.qmCqDoorbell → rwlMask off = 0 ∨ s.dev.chip.lock = false →
    Runs (.registerWrite off v be false init) s fun t =>
      (regDef? off ≠ none → ∀ i < 32, bit (t.dev.reg off) i =
        (if (bit (rwMask off) i || bit (rwlMask off) i) && bit be.toNat (i / 8) then bit v.toNat i
          else bit (s.dev.reg off) i)) ∧
      (regDef? off ≠ none → RegsBut [off.val] s.dev t.dev) ∧
      (regDef? off = none → init = 728 → Counted s.dev t.dev R.hpUnused ∧ RegsBut [R.hpUnused] s.dev t.dev) ∧
      Only [.regs] s t) ∧
  (∀ (off : Fin 268435456) (w : Word) (s : State),
    let hostWrite := exec (.registerWrite off (w.setWidth 64) 0xF false 728) s
    let en := bit w.toNat 0
    let mode := bit w.toNat 1
    (off.val = R.qmQctl → hostWrite = exec (if en then .queueEnable mode else .queueDisable mode) s) ∧
    (off.val = R.qmCctl → hostWrite = exec (if en then .contextLoad else .contextDisable) s) ∧
    (off.val = R.qmMirrorCtl → hostWrite = exec (.qmMirrorCtl en) s) ∧
    (off.val = R.qmAcctCtl → hostWrite = exec (.qmAcctCtl en) s) ∧
    (off.val = R.qmSrvCtl → hostWrite = exec (.qmSrvCtlFair en) s) ∧
    (off.val = R.qmSrvIctl → hostWrite = exec (if en then .instanceLoad mode else .instanceUnload mode) s) ∧
    (∀ p : Fin 64, off.val = R.qmPctl p →
      hostWrite = exec (if en then .partitionEnable p mode else .partitionDisable p mode) s) ∧
    (∀ c : Fin 1024, off.val = R.qmBudget c → hostWrite = exec (.qmBudget c w) s) ∧
    (off.val = R.hpBar2Win → hostWrite = exec (.hpBar2Win w) s) ∧
    (off.val = R.hpEvlogCfg → hostWrite = exec (.hpEvlogCfg w) s) ∧
    (off.val = R.hpEvlogHead → hostWrite = exec (.hpEvlogHead w) s)) ∧
  (∀ (off : Fin 268435456) (v : DWord) (s : State),
    (off.val = R.qmDoorbell → exec (.registerWrite off v 0xFF true 728) s = exec (.qmDoorbell v true) s) ∧
    (off.val = R.qmCqDoorbell → exec (.registerWrite off v 0xFF true 728) s = exec (.qmCqDoorbell v true) s)) ∧
  (∀ (off : Fin 268435456) (len : Fin 4097) (s : State), s.dev.hostReq = 0 →
    ¬ (len.val = 4 ∧ off.val % 4 = 0) → ¬ (len.val = 8 ∧ off.val % 8 = 0) → Runs (.bar0BadRequest off len) s fun t =>
      t.dev.out = s.dev.out ++ [.completion 2 false []] ∧ Counted s.dev t.dev R.hpCa ∧
      t.dev.host = { s.dev.host with caEp := s.dev.host.caEp + 1 } ∧
      (s.dev.host.caEp = 0 → Wrote s.dev t.dev (regRec s.dev 5 0x3030 8 0xFF [off, len.val, 1])) ∧
      (s.dev.host.caEp ≠ 0 → Quiet s.dev t.dev) ∧
      RegsBut [R.hpCa, R.hpEvlogLost] s.dev t.dev ∧ Only [.regs, .host, .log, .out] s t) ∧
  ∀ (v : Word) (s : State), s.dev.hostReq = 0 →
    let head := s.dev.reg R.hpEvlogHead
    let room := (s.dev.reg R.hpEvlogTail + 2 ^ 32 - head) % 2 ^ 32
    (Runs (.hpBar2Win v) s fun t =>
      (v.toNat % 256 ≤ 128 → t.dev.reg R.hpBar2Win = v.toNat % 256) ∧ (128 < v.toNat % 256 → t = s) ∧
      RegsBut [R.hpBar2Win] s.dev t.dev ∧ Only [.regs] s t) ∧
    (Runs (.hpEvlogHead v) s fun t =>
      ((v.toNat + 2 ^ 32 - head) % 2 ^ 32 ≤ room → t.dev.reg R.hpEvlogHead = v.toNat) ∧
      (room < (v.toNat + 2 ^ 32 - head) % 2 ^ 32 → t = s) ∧
      RegsBut [R.hpEvlogHead] s.dev t.dev ∧ Only [.regs] s t) ∧
    Runs (.hpEvlogCfg v) s fun t =>
      let size := bits v.toNat 1 5
      (bit (s.dev.reg R.hpEvlogCfg) 0 = false → bit v.toNat 0 = true → 7 ≤ size → size ≤ 16 →
        t.dev.reg R.hpEvlogCfg = 2 * size + 1 ∧ t.dev.reg R.hpEvlogTail = 0 ∧ t.dev.reg R.hpEvlogHead = 0) ∧
      (bit (s.dev.reg R.hpEvlogCfg) 0 = false → bit v.toNat 0 = true → size < 7 ∨ 16 < size → t = s) ∧
      (bit (s.dev.reg R.hpEvlogCfg) 0 = false → bit v.toNat 0 = false →
        t.dev.reg R.hpEvlogCfg = 2 * size ∧ RegsBut [R.hpEvlogCfg] s.dev t.dev) ∧
      (bit (s.dev.reg R.hpEvlogCfg) 0 = true →
        t.dev.reg R.hpEvlogCfg = 2 * s.dev.fld R.hpEvlogCfg 1 5 + v.toNat % 2 ∧ RegsBut [R.hpEvlogCfg] s.dev t.dev) ∧
      RegsBut [R.hpEvlogCfg, R.hpEvlogTail, R.hpEvlogHead] s.dev t.dev ∧ Only [.regs] s t

/-! ## The machine -/

/-- With a command at the front of its queue the block's step is that command's effect on the state with the
queue's rest. The second clause is the model's own choice (log entry 3): with an empty queue T advances by
1 ns, unless that would reach a wingbeat boundary or pass its 64 bits or MOD_RESET_N is asserted, and nothing else
changes. -/
def Obligations.StepRunsTheFrontCommand : Prop :=
  (∀ (c : Instr) (rest : List Instr) (s : State),
    step { s with pending := c :: rest } = exec c { s with pending := rest }) ∧
  ∀ (s : State), s.pending = [] → ∃ t, step s = .next t ∧
    t = { s with dev := { s.dev with time := { s.dev.time with now :=
      if s.dev.chip.phase ≠ .modReset ∧ (s.dev.time.now + 1) % 125000 ≠ 0 ∧ s.dev.time.now + 1 < 2 ^ 64 then s.dev.time.now + 1
      else s.dev.time.now } } }

/-- Every command with operands an event of the hardware can carry completes, in every state, and no command
touches the queue; one with other operands (the model's check, log entry 1) faults. -/
def Obligations.ExecStopsOnlyOnIllFormedOperands : Prop :=
  ∀ (c : Instr) (s : State),
    (c.wf = true → ∃ t, exec c s = .next t ∧ t.pending = s.pending) ∧
    (c.wf = false → exec c s = .fault .illFormed)

/-- R6, R29, R41, R43, R467. After reset MOD_RESET_N is asserted, T is 0, every register holds its reset
value, and no vote, primary output, operation, record or command is there; the tables have their canonical
form. The reset values of what the manual gives no value (log entries 4 and 5) are not part of the claim,
but for memory, which reads 0 by the model's choice. -/
def Obligations.ResetIsTheStatedState : Prop :=
  let d := State.reset.dev
  d.chip.phase = .modReset ∧ d.time.now = 0 ∧ d.chip.lock = false ∧ d.chip.sched = false ∧
    d.chip.primaryEn = false ∧ d.chA.vote = false ∧ d.chB.vote = false ∧
    (∀ o, d.reg o = (regReset o).toNat) ∧ d.reg R.tkClassCfg = 0x00F00050 ∧ d.reg R.hpBar2Win = 0x30 ∧
    (∀ x, d.rd x = 0) ∧ (∀ k, (d.op k).used = false) ∧ d.log.buf = [] ∧ d.links.up = [] ∧ d.host.up = false ∧
    d.sec.dbgOpen = false ∧ State.reset.pending = [] ∧ MemOk d ∧ OpsOk d

/-- Every step keeps the canonical form of memory and of the trackers' operations. -/
def Obligations.StepKeepsTables : Prop :=
  ∀ (s t : State), MemOk s.dev → OpsOk s.dev → step s = .next t → MemOk t.dev ∧ OpsOk t.dev

/-- R428, R439, R445. No step takes a fuse back: grade, serial number, MAC address, ROM digest and firmware key
digest are fixed, a root key once fused stays, the security version counters never fall, the opened fuse stays
blown, and provisionings are only used up, at most 32. -/
def Obligations.FusesOnlyGrow : Prop :=
  ∀ (s t : State), step s = .next t →
    let a := s.nv.fuses
    let b := t.nv.fuses
    b.grade = a.grade ∧ b.serial = a.serial ∧ b.mac = a.mac ∧ b.romDigest = a.romDigest ∧ b.fwKey = a.fwKey ∧
    (∀ k, a.rootKey = some k → b.rootKey = some k) ∧ a.svnFw ≤ b.svnFw ∧ a.svnCfg ≤ b.svnCfg ∧
    a.svnTest ≤ b.svnTest ∧ (a.opened = true → b.opened = true) ∧ a.provUsed ≤ b.provUsed ∧
    (a.provUsed ≤ 32 → b.provUsed ≤ 32)

/-- R444. Field debug is closed at every start. A step opens it only where it is an UNLOCK at the management port
with a token of TYPE 5 that the integrator root key signs, bound to the serial number and with the current
nonce, and then only the partitions the token names can be observed. A token that verifies opens it; one
that fails any check is refused with 0x9040, and nothing else changes. -/
def Obligations.FieldDebugOpensOnlyThroughUnlock : Prop :=
  State.reset.dev.sec.dbgOpen = false ∧
  (∀ (s : State), Runs .modResetAssert s fun t => t.dev.sec.dbgOpen = false ∧ t.dev.sec.dbgParts = []) ∧
  (∀ (failed : List (Fin 48)) (s : State), s.dev.chip.phase = .modReset → Runs (.coldStart failed) s fun t =>
    t.dev.sec.dbgOpen = s.dev.sec.dbgOpen) ∧
  (∀ (s t : State), step s = .next t → s.dev.sec.dbgOpen = false → t.dev.sec.dbgOpen = true →
    ∃ q tok rest, s.pending = Instr.mgmtUnlock q tok :: rest ∧ 7 ∈ s.dev.links.up ∧
      tok.header.type = 5 ∧ tok.header.crypto.keyOk = true ∧ tok.header.crypto.sigOk = true ∧
      tok.header.bind = s.nv.fuses.serial ∧ s.dev.sec.nonce = some tok.header.nonce ∧
      ∀ p ∈ t.dev.sec.dbgParts, p ∈ s.dev.sec.dbgParts ∨ ∃ x ∈ tok.parts, x.val = p) ∧
  ∀ (q : BitVec 16) (tok : Token) (s : State), MgmtTakes s.dev false true →
    let r := s.nv.fuses.verify s.dev.sec.nonce 5 tok.header
    (r = 0 → Runs (.mgmtUnlock q tok) s fun t =>
      t.dev.sec = { s.dev.sec with
        dbgOpen := true, dbgEver := true, erased := s.dev.sec.memKeys, dbgParts := t.dev.sec.dbgParts } ∧
      (∀ p, p ∈ t.dev.sec.dbgParts ↔ p ∈ s.dev.sec.dbgParts ∨ ∃ x ∈ tok.parts, x.val = p) ∧
      (∀ x ∈ tok.parts, (t.dev.part x).debug = true) ∧
      t.nv = { fuses := { s.nv.fuses with opened := true }, store := { s.nv.store with seeds := false, slots := [] } } ∧
      (∃ l, t.dev.out = s.dev.out ++ l ++ [.mgmt q 0 []]) ∧
      Recorded s.dev t.dev [regRec s.dev 5 0x9041 4 0x80
        [(partWords (tok.parts.map (·.val))).1, (partWords (tok.parts.map (·.val))).2]] ∧
      t.dev.time = s.dev.time ∧ t.dev.mem = s.dev.mem ∧ t.dev.chip = s.dev.chip ∧ t.pending = s.pending) ∧
    (r ≠ 0 → Runs (.mgmtUnlock q tok) s fun t => Refused s t q 5 r)
end

