-- ==== Sys2Proof/Laws/Table.lean ====
section
/-! SUPPORT. What reading a table gives after a write, and that every operation over tables keeps their
canonical form (memory among them). -/

namespace Sys2Proof.Machine

variable {α : Type}

theorem tget_tins_self (d : Nat → α) (t : Table α) (k : Nat) (v : α) : tget d (tins k v t) k = v := by
  induction t with
  | nil => simp [tins, tget]
  | cons e t ih =>
    obtain ⟨j, w⟩ := e
    by_cases h : j < k
    · simp [tins, h, tget, Nat.ne_of_lt h, ih]
    · simp [tins, h, tget]

theorem tget_tins_ne (d : Nat → α) (t : Table α) {k m : Nat} (v : α) (h : m ≠ k) :
    tget d (tins k v t) m = tget d t m := by
  induction t with
  | nil => simp [tins, tget, Ne.symm h]
  | cons e t ih =>
    obtain ⟨j, w⟩ := e
    by_cases hj : j < k
    · simp only [tins, hj, if_true, tget, ih]
    · simp only [tins, hj, if_false]; rw [tget]; simp [Ne.symm h]

theorem tget_tdel_self (d : Nat → α) (t : Table α) (k : Nat) : tget d (tdel k t) k = d k := by
  induction t with
  | nil => rfl
  | cons e t ih =>
    obtain ⟨j, w⟩ := e
    by_cases hj : j = k
    · simpa [tdel, hj] using ih
    · simpa [tdel, hj, tget] using ih

theorem tget_tdel_ne (d : Nat → α) (t : Table α) {k m : Nat} (h : m ≠ k) : tget d (tdel k t) m = tget d t m := by
  induction t with
  | nil => rfl
  | cons e t ih =>
    obtain ⟨j, w⟩ := e
    by_cases hj : j = k
    · subst hj; simpa [tdel, tget, Ne.symm h] using ih
    · have hc : tdel k ((j, w) :: t) = (j, w) :: tdel k t := by simp [tdel, hj]
      rw [hc, tget, tget, ih]

/-- A table holds what was written. -/
@[simp] theorem tget_tset_self [DecidableEq α] (d : Nat → α) (t : Table α) (k : Nat) (v : α) :
    tget d (tset d t k v) k = v := by
  unfold tset tput
  by_cases h : v = d k <;> simp [h, tget_tdel_self, tget_tins_self]

/-- A write leaves every other key alone. -/
@[simp] theorem tget_tset_ne [DecidableEq α] (d : Nat → α) (t : Table α) {k m : Nat} (v : α) (h : m ≠ k) :
    tget d (tset d t k v) m = tget d t m := by
  unfold tset tput
  by_cases hv : v = d k <;> simp [hv, tget_tdel_ne _ _ h, tget_tins_ne _ _ _ h]

theorem tget_tset [DecidableEq α] (d : Nat → α) (t : Table α) (k m : Nat) (v : α) :
    tget d (tset d t k v) m = if m = k then v else tget d t m := by
  by_cases h : m = k
  · subst h; simp
  · simp [h]

@[simp] theorem tget_nil (d : Nat → α) (k : Nat) : tget d [] k = d k := rfl

/-! ## The canonical form -/

theorem tabove_mono {k m : Nat} (h : m ≤ k) {t : Table α} (ht : tabove k t = true) : tabove m t = true := by
  cases t with
  | nil => rfl
  | cons e t => simp only [tabove, decide_eq_true_eq] at *; omega

theorem twf_mem_lt [DecidableEq α] {d : Nat → α} {t : Table α} {k : Nat} (h : twf d t = true)
    (ha : tabove k t = true) : ∀ e ∈ t, k < e.1 := by
  induction t generalizing k with
  | nil => simp
  | cons e t ih =>
    obtain ⟨j, v⟩ := e
    simp only [twf, Bool.and_eq_true, tabove, decide_eq_true_eq] at h ha
    intro x hx
    rcases List.mem_cons.1 hx with rfl | hx
    · exact ha
    · exact lt_trans ha (ih h.2 h.1.2 x hx)

theorem tabove_of_mem {k : Nat} {t : Table α} (h : ∀ e ∈ t, k < e.1) : tabove k t = true := by
  cases t with
  | nil => rfl
  | cons e t => simpa [tabove] using h e (by simp)

/-- Leaving entries out keeps the form. -/
theorem twf_filter [DecidableEq α] {d : Nat → α} (p : Nat × α → Bool) {t : Table α} (h : twf d t = true) :
    twf d (t.filter p) = true := by
  induction t with
  | nil => rfl
  | cons e t ih =>
    obtain ⟨j, v⟩ := e
    simp only [twf, Bool.and_eq_true, decide_eq_true_eq] at h
    by_cases hp : p (j, v)
    · simp only [List.filter_cons, hp, if_true, twf, Bool.and_eq_true, decide_eq_true_eq]
      refine ⟨⟨h.1.1, tabove_of_mem fun e he => ?_⟩, ih h.2⟩
      exact twf_mem_lt h.2 h.1.2 e (List.mem_of_mem_filter he)
    · simpa [List.filter_cons, hp] using ih h.2

theorem tabove_tins {k m : Nat} {v : α} {t : Table α} (hm : m < k) (h : tabove m t = true) :
    tabove m (tins k v t) = true := by
  cases t with
  | nil => simpa [tins, tabove] using hm
  | cons e t =>
    obtain ⟨j, w⟩ := e
    by_cases hj : j < k
    · simpa [tins, hj, tabove] using h
    · simpa [tins, hj, tabove] using hm

theorem twf_tins [DecidableEq α] {d : Nat → α} {k : Nat} {v : α} {t : Table α} (hv : v ≠ d k)
    (h : twf d t = true) (hk : ∀ e ∈ t, e.1 ≠ k) : twf d (tins k v t) = true := by
  induction t with
  | nil => simp [tins, twf, hv, tabove]
  | cons e t ih =>
    obtain ⟨j, w⟩ := e
    have hjk : j ≠ k := hk (j, w) (by simp)
    have h' := h
    simp only [twf, Bool.and_eq_true, decide_eq_true_eq] at h
    by_cases hj : j < k
    · simp only [tins, hj, if_true, twf, Bool.and_eq_true, decide_eq_true_eq]
      exact ⟨⟨h.1.1, tabove_tins hj h.1.2⟩, ih h.2 fun e he => hk e (by simp [he])⟩
    · simp only [tins, hj, if_false]
      rw [twf]; simp only [Bool.and_eq_true, decide_eq_true_eq]
      exact ⟨⟨hv, by simp only [tabove, decide_eq_true_eq]; omega⟩, h'⟩

theorem twf_tdel [DecidableEq α] {d : Nat → α} (k : Nat) {t : Table α} (h : twf d t = true) :
    twf d (tdel k t) = true := twf_filter _ h

/-- Every write of a table keeps its canonical form. -/
theorem twf_tset [DecidableEq α] {d : Nat → α} {t : Table α} (h : twf d t = true) (k : Nat) (v : α) :
    twf d (tset d t k v) = true := by
  unfold tset tput
  by_cases hv : v = d k
  · simpa [hv] using twf_tdel k h
  · simp only [hv, if_false]
    exact twf_tins hv (twf_tdel k h) (by simp [tdel])

/-- Memory keeps its form under `memPut` (every store of bytes). -/
theorem twf_memPut {m : Table Byte} (h : twf memDef m = true) (a : Nat) (bs : List Byte) :
    twf memDef (memPut m a bs) = true := by
  induction bs generalizing m a with
  | nil => exact h
  | cons b t ih => exact ih (twf_tset h a b) (a + 1)

/-- Memory keeps its form under `Dev.wr`. -/
theorem wr_wf {d : Dev} (h : twf memDef d.mem = true) (a : Nat) (bs : List Byte) :
    twf memDef (d.wr a bs).mem = true := twf_memPut h a bs

/-- Memory keeps its form under `Dev.zero`. -/
theorem zero_wf {d : Dev} (h : twf memDef d.mem = true) (a n : Nat) : twf memDef (d.zero a n).mem = true :=
  twf_filter _ h

theorem twf_val [DecidableEq α] {d : Nat → α} {t : Table α} (h : twf d t = true) : ∀ e ∈ t, e.2 ≠ d e.1 := by
  induction t with
  | nil => simp
  | cons e t ih =>
    obtain ⟨j, v⟩ := e
    simp only [twf, Bool.and_eq_true, decide_eq_true_eq] at h
    intro x hx
    rcases List.mem_cons.1 hx with rfl | hx
    · exact h.1.1
    · exact ih h.2 x hx

/-- Putting entries that are not defaults into a table keeps its form. -/
theorem twf_tmerge [DecidableEq α] {d : Nat → α} {s t : Table α} (hs : ∀ e ∈ s, e.2 ≠ d e.1) (h : twf d t = true) :
    twf d (tmerge s t) = true := by
  unfold tmerge
  induction s generalizing t with
  | nil => exact h
  | cons e s ih =>
    refine ih (fun x hx => hs x (List.mem_cons_of_mem _ hx)) ?_
    exact twf_tins (hs e (List.mem_cons_self ..)) (twf_tdel e.1 h) (by simp [tdel])

/-- Memory keeps its form under `Dev.copy`. -/
theorem copy_wf {d : Dev} (h : twf memDef d.mem = true) (src dst n : Nat) :
    twf memDef (d.copy src dst n).mem = true := by
  refine twf_tmerge (fun e he => ?_) (twf_filter _ h)
  obtain ⟨x, hx, rfl⟩ := List.mem_map.1 he
  exact twf_val h x (List.mem_of_mem_filter hx)

/-- Memory and trackers at reset have the form. -/
theorem reset_wf : twf memDef State.reset.dev.mem = true ∧ twf (fun _ => ({} : Op)) State.reset.dev.ops = true :=
  ⟨rfl, rfl⟩

/-- An entry of the trackers written keeps their form. -/
theorem setOp_wf {d : Dev} (h : twf (fun _ => ({} : Op)) d.ops = true) (k : Nat) (v : Op) :
    twf (fun _ => ({} : Op)) (d.setOp k v).ops = true := twf_tset h k v

/-- A byte stored reads back; every other byte reads as before. -/
theorem tget_memPut (m : Table Byte) (a : Nat) (bs : List Byte) (x : Nat) :
    tget memDef (memPut m a bs) x = if a ≤ x ∧ x < a + bs.length then bs.getD (x - a) 0 else tget memDef m x := by
  induction bs generalizing m a with
  | nil => simp only [memPut, List.length_nil]; split <;> [omega; rfl]
  | cons b t ih =>
    rw [memPut, ih]
    by_cases h1 : a + 1 ≤ x ∧ x < a + 1 + t.length
    · have : a ≤ x ∧ x < a + (b :: t).length := by simp; omega
      simp only [h1, this, and_self, if_true]
      obtain ⟨n, rfl⟩ : ∃ n, x = a + 1 + n := ⟨x - (a + 1), by omega⟩
      simp [show a + 1 + n - a = n + 1 by omega]
    · simp only [h1, if_false, tget_tset]
      by_cases h2 : x = a
      · subst h2; simp
      · have : ¬ (a ≤ x ∧ x < a + (b :: t).length) := by simp; omega
        simp only [h2, this, if_false]

/-- Memory outside the bytes written reads as before. -/
theorem wr_rd_ne (d : Dev) (a x : Nat) (bs : List Byte) (h : ¬ (a ≤ x ∧ x < a + bs.length)) :
    (d.wr a bs).rd x = d.rd x := by
  simp [Dev.wr, Dev.rd, tget_memPut, h]

@[simp] theorem toLE_length (n v : Nat) : (toLE n v).length = n := by
  induction n generalizing v with
  | zero => rfl
  | succ n ih => simp [toLE, ih]

/-- Little-endian bytes of a number give back its low bytes. -/
theorem ofLE_toLE (n v : Nat) : ofLE (toLE n v) = v % 256 ^ n := by
  induction n generalizing v with
  | zero => simp [toLE, ofLE, Nat.mod_one]
  | succ n ih =>
    have h : v % (256 ^ n * 256) = v % 256 + 256 * (v / 256 % 256 ^ n) := by
      rw [Nat.mul_comm (256 ^ n), Nat.mod_mul]
    simp [toLE, ofLE, ih, Nat.pow_succ, h]

/-- A number read away from the bytes written is as before. -/
theorem rdN_wrN_ne (d : Dev) {a n x m : Nat} (v : Nat) (h : x + m ≤ a ∨ a + n ≤ x) :
    (d.wrN a n v).rdN x m = d.rdN x m := by
  unfold Dev.rdN Dev.rdBytes Dev.wrN
  congr 1
  apply List.map_congr_left
  intro i hi
  have := List.mem_range.mp hi
  exact wr_rd_ne d a (x + i) _ (by rw [toLE_length]; omega)

/-- A number reads back. -/
theorem rdN_wrN_self (d : Dev) (a n v : Nat) : (d.wrN a n v).rdN a n = v % 256 ^ n := by
  have e : (d.wrN a n v).rdBytes a n = toLE n v := by
    apply List.ext_getElem
    · simp [Dev.rdBytes]
    · intro i h1 h2
      have hi : i < n := by simpa using h2
      simp [Dev.rdBytes, Dev.wrN, Dev.wr, Dev.rd, tget_memPut, hi]
  rw [Dev.rdN, e, ofLE_toLE]

end Sys2Proof.Machine
end

