-- ==== Sys2Proof/Laws/State.lean ====
section
/-! SUPPORT. One lemma per field of the device state for each primitive update: what it leaves as it
was, true by definition. -/

namespace Sys2Proof.Machine

@[simp] theorem Dev.setBlk_time (d : Dev) (b : Nat) (v : Block) : (d.setBlk b v).time = d.time := rfl
@[simp] theorem Dev.setBlk_chip (d : Dev) (b : Nat) (v : Block) : (d.setBlk b v).chip = d.chip := rfl
@[simp] theorem Dev.setBlk_regs (d : Dev) (b : Nat) (v : Block) : (d.setBlk b v).regs = d.regs := rfl
@[simp] theorem Dev.setBlk_mem (d : Dev) (b : Nat) (v : Block) : (d.setBlk b v).mem = d.mem := rfl
@[simp] theorem Dev.setBlk_poison (d : Dev) (b : Nat) (v : Block) : (d.setBlk b v).poison = d.poison := rfl
@[simp] theorem Dev.setBlk_enc (d : Dev) (b : Nat) (v : Block) : (d.setBlk b v).enc = d.enc := rfl
@[simp] theorem Dev.setBlk_tiles (d : Dev) (b : Nat) (v : Block) : (d.setBlk b v).tiles = d.tiles := rfl
@[simp] theorem Dev.setBlk_ops (d : Dev) (b : Nat) (v : Block) : (d.setBlk b v).ops = d.ops := rfl
@[simp] theorem Dev.setBlk_qm (d : Dev) (b : Nat) (v : Block) : (d.setBlk b v).qm = d.qm := rfl
@[simp] theorem Dev.setBlk_ctxs (d : Dev) (b : Nat) (v : Block) : (d.setBlk b v).ctxs = d.ctxs := rfl
@[simp] theorem Dev.setBlk_parts (d : Dev) (b : Nat) (v : Block) : (d.setBlk b v).parts = d.parts := rfl
@[simp] theorem Dev.setBlk_srv (d : Dev) (b : Nat) (v : Block) : (d.setBlk b v).srv = d.srv := rfl
@[simp] theorem Dev.setBlk_fus (d : Dev) (b : Nat) (v : Block) : (d.setBlk b v).fus = d.fus := rfl
@[simp] theorem Dev.setBlk_pl (d : Dev) (b : Nat) (v : Block) : (d.setBlk b v).pl = d.pl := rfl
@[simp] theorem Dev.setBlk_chA (d : Dev) (b : Nat) (v : Block) : (d.setBlk b v).chA = d.chA := rfl
@[simp] theorem Dev.setBlk_chB (d : Dev) (b : Nat) (v : Block) : (d.setBlk b v).chB = d.chB := rfl
@[simp] theorem Dev.setBlk_dram (d : Dev) (b : Nat) (v : Block) : (d.setBlk b v).dram = d.dram := rfl
@[simp] theorem Dev.setBlk_links (d : Dev) (b : Nat) (v : Block) : (d.setBlk b v).links = d.links := rfl
@[simp] theorem Dev.setBlk_pwr (d : Dev) (b : Nat) (v : Block) : (d.setBlk b v).pwr = d.pwr := rfl
@[simp] theorem Dev.setBlk_sec (d : Dev) (b : Nat) (v : Block) : (d.setBlk b v).sec = d.sec := rfl
@[simp] theorem Dev.setBlk_host (d : Dev) (b : Nat) (v : Block) : (d.setBlk b v).host = d.host := rfl
@[simp] theorem Dev.setBlk_log (d : Dev) (b : Nat) (v : Block) : (d.setBlk b v).log = d.log := rfl
@[simp] theorem Dev.setBlk_retire (d : Dev) (b : Nat) (v : Block) : (d.setBlk b v).retire = d.retire := rfl
@[simp] theorem Dev.setBlk_out (d : Dev) (b : Nat) (v : Block) : (d.setBlk b v).out = d.out := rfl
@[simp] theorem Dev.setBlk_free (d : Dev) (b : Nat) (v : Block) : (d.setBlk b v).free = d.free := rfl

@[simp] theorem Dev.modBlk_time (d : Dev) (b : Nat) (f : Block → Block) : (d.modBlk b f).time = d.time := Dev.setBlk_time ..
@[simp] theorem Dev.modBlk_chip (d : Dev) (b : Nat) (f : Block → Block) : (d.modBlk b f).chip = d.chip := Dev.setBlk_chip ..
@[simp] theorem Dev.modBlk_regs (d : Dev) (b : Nat) (f : Block → Block) : (d.modBlk b f).regs = d.regs := Dev.setBlk_regs ..
@[simp] theorem Dev.modBlk_mem (d : Dev) (b : Nat) (f : Block → Block) : (d.modBlk b f).mem = d.mem := Dev.setBlk_mem ..
@[simp] theorem Dev.modBlk_poison (d : Dev) (b : Nat) (f : Block → Block) : (d.modBlk b f).poison = d.poison := Dev.setBlk_poison ..
@[simp] theorem Dev.modBlk_enc (d : Dev) (b : Nat) (f : Block → Block) : (d.modBlk b f).enc = d.enc := Dev.setBlk_enc ..
@[simp] theorem Dev.modBlk_tiles (d : Dev) (b : Nat) (f : Block → Block) : (d.modBlk b f).tiles = d.tiles := Dev.setBlk_tiles ..
@[simp] theorem Dev.modBlk_ops (d : Dev) (b : Nat) (f : Block → Block) : (d.modBlk b f).ops = d.ops := Dev.setBlk_ops ..
@[simp] theorem Dev.modBlk_qm (d : Dev) (b : Nat) (f : Block → Block) : (d.modBlk b f).qm = d.qm := Dev.setBlk_qm ..
@[simp] theorem Dev.modBlk_ctxs (d : Dev) (b : Nat) (f : Block → Block) : (d.modBlk b f).ctxs = d.ctxs := Dev.setBlk_ctxs ..
@[simp] theorem Dev.modBlk_parts (d : Dev) (b : Nat) (f : Block → Block) : (d.modBlk b f).parts = d.parts := Dev.setBlk_parts ..
@[simp] theorem Dev.modBlk_srv (d : Dev) (b : Nat) (f : Block → Block) : (d.modBlk b f).srv = d.srv := Dev.setBlk_srv ..
@[simp] theorem Dev.modBlk_fus (d : Dev) (b : Nat) (f : Block → Block) : (d.modBlk b f).fus = d.fus := Dev.setBlk_fus ..
@[simp] theorem Dev.modBlk_pl (d : Dev) (b : Nat) (f : Block → Block) : (d.modBlk b f).pl = d.pl := Dev.setBlk_pl ..
@[simp] theorem Dev.modBlk_chA (d : Dev) (b : Nat) (f : Block → Block) : (d.modBlk b f).chA = d.chA := Dev.setBlk_chA ..
@[simp] theorem Dev.modBlk_chB (d : Dev) (b : Nat) (f : Block → Block) : (d.modBlk b f).chB = d.chB := Dev.setBlk_chB ..
@[simp] theorem Dev.modBlk_dram (d : Dev) (b : Nat) (f : Block → Block) : (d.modBlk b f).dram = d.dram := Dev.setBlk_dram ..
@[simp] theorem Dev.modBlk_links (d : Dev) (b : Nat) (f : Block → Block) : (d.modBlk b f).links = d.links := Dev.setBlk_links ..
@[simp] theorem Dev.modBlk_pwr (d : Dev) (b : Nat) (f : Block → Block) : (d.modBlk b f).pwr = d.pwr := Dev.setBlk_pwr ..
@[simp] theorem Dev.modBlk_sec (d : Dev) (b : Nat) (f : Block → Block) : (d.modBlk b f).sec = d.sec := Dev.setBlk_sec ..
@[simp] theorem Dev.modBlk_host (d : Dev) (b : Nat) (f : Block → Block) : (d.modBlk b f).host = d.host := Dev.setBlk_host ..
@[simp] theorem Dev.modBlk_log (d : Dev) (b : Nat) (f : Block → Block) : (d.modBlk b f).log = d.log := Dev.setBlk_log ..
@[simp] theorem Dev.modBlk_retire (d : Dev) (b : Nat) (f : Block → Block) : (d.modBlk b f).retire = d.retire := Dev.setBlk_retire ..
@[simp] theorem Dev.modBlk_out (d : Dev) (b : Nat) (f : Block → Block) : (d.modBlk b f).out = d.out := Dev.setBlk_out ..
@[simp] theorem Dev.modBlk_free (d : Dev) (b : Nat) (f : Block → Block) : (d.modBlk b f).free = d.free := Dev.setBlk_free ..

@[simp] theorem Dev.setTile_time (d : Dev) (n : Nat) (v : Tile) : (d.setTile n v).time = d.time := rfl
@[simp] theorem Dev.setTile_chip (d : Dev) (n : Nat) (v : Tile) : (d.setTile n v).chip = d.chip := rfl
@[simp] theorem Dev.setTile_regs (d : Dev) (n : Nat) (v : Tile) : (d.setTile n v).regs = d.regs := rfl
@[simp] theorem Dev.setTile_mem (d : Dev) (n : Nat) (v : Tile) : (d.setTile n v).mem = d.mem := rfl
@[simp] theorem Dev.setTile_poison (d : Dev) (n : Nat) (v : Tile) : (d.setTile n v).poison = d.poison := rfl
@[simp] theorem Dev.setTile_enc (d : Dev) (n : Nat) (v : Tile) : (d.setTile n v).enc = d.enc := rfl
@[simp] theorem Dev.setTile_blocks (d : Dev) (n : Nat) (v : Tile) : (d.setTile n v).blocks = d.blocks := rfl
@[simp] theorem Dev.setTile_ops (d : Dev) (n : Nat) (v : Tile) : (d.setTile n v).ops = d.ops := rfl
@[simp] theorem Dev.setTile_qm (d : Dev) (n : Nat) (v : Tile) : (d.setTile n v).qm = d.qm := rfl
@[simp] theorem Dev.setTile_ctxs (d : Dev) (n : Nat) (v : Tile) : (d.setTile n v).ctxs = d.ctxs := rfl
@[simp] theorem Dev.setTile_parts (d : Dev) (n : Nat) (v : Tile) : (d.setTile n v).parts = d.parts := rfl
@[simp] theorem Dev.setTile_srv (d : Dev) (n : Nat) (v : Tile) : (d.setTile n v).srv = d.srv := rfl
@[simp] theorem Dev.setTile_fus (d : Dev) (n : Nat) (v : Tile) : (d.setTile n v).fus = d.fus := rfl
@[simp] theorem Dev.setTile_pl (d : Dev) (n : Nat) (v : Tile) : (d.setTile n v).pl = d.pl := rfl
@[simp] theorem Dev.setTile_chA (d : Dev) (n : Nat) (v : Tile) : (d.setTile n v).chA = d.chA := rfl
@[simp] theorem Dev.setTile_chB (d : Dev) (n : Nat) (v : Tile) : (d.setTile n v).chB = d.chB := rfl
@[simp] theorem Dev.setTile_dram (d : Dev) (n : Nat) (v : Tile) : (d.setTile n v).dram = d.dram := rfl
@[simp] theorem Dev.setTile_links (d : Dev) (n : Nat) (v : Tile) : (d.setTile n v).links = d.links := rfl
@[simp] theorem Dev.setTile_pwr (d : Dev) (n : Nat) (v : Tile) : (d.setTile n v).pwr = d.pwr := rfl
@[simp] theorem Dev.setTile_sec (d : Dev) (n : Nat) (v : Tile) : (d.setTile n v).sec = d.sec := rfl
@[simp] theorem Dev.setTile_host (d : Dev) (n : Nat) (v : Tile) : (d.setTile n v).host = d.host := rfl
@[simp] theorem Dev.setTile_log (d : Dev) (n : Nat) (v : Tile) : (d.setTile n v).log = d.log := rfl
@[simp] theorem Dev.setTile_retire (d : Dev) (n : Nat) (v : Tile) : (d.setTile n v).retire = d.retire := rfl
@[simp] theorem Dev.setTile_out (d : Dev) (n : Nat) (v : Tile) : (d.setTile n v).out = d.out := rfl
@[simp] theorem Dev.setTile_free (d : Dev) (n : Nat) (v : Tile) : (d.setTile n v).free = d.free := rfl

@[simp] theorem Dev.modTile_time (d : Dev) (n : Nat) (f : Tile → Tile) : (d.modTile n f).time = d.time := Dev.setTile_time ..
@[simp] theorem Dev.modTile_chip (d : Dev) (n : Nat) (f : Tile → Tile) : (d.modTile n f).chip = d.chip := Dev.setTile_chip ..
@[simp] theorem Dev.modTile_regs (d : Dev) (n : Nat) (f : Tile → Tile) : (d.modTile n f).regs = d.regs := Dev.setTile_regs ..
@[simp] theorem Dev.modTile_mem (d : Dev) (n : Nat) (f : Tile → Tile) : (d.modTile n f).mem = d.mem := Dev.setTile_mem ..
@[simp] theorem Dev.modTile_poison (d : Dev) (n : Nat) (f : Tile → Tile) : (d.modTile n f).poison = d.poison := Dev.setTile_poison ..
@[simp] theorem Dev.modTile_enc (d : Dev) (n : Nat) (f : Tile → Tile) : (d.modTile n f).enc = d.enc := Dev.setTile_enc ..
@[simp] theorem Dev.modTile_blocks (d : Dev) (n : Nat) (f : Tile → Tile) : (d.modTile n f).blocks = d.blocks := Dev.setTile_blocks ..
@[simp] theorem Dev.modTile_ops (d : Dev) (n : Nat) (f : Tile → Tile) : (d.modTile n f).ops = d.ops := Dev.setTile_ops ..
@[simp] theorem Dev.modTile_qm (d : Dev) (n : Nat) (f : Tile → Tile) : (d.modTile n f).qm = d.qm := Dev.setTile_qm ..
@[simp] theorem Dev.modTile_ctxs (d : Dev) (n : Nat) (f : Tile → Tile) : (d.modTile n f).ctxs = d.ctxs := Dev.setTile_ctxs ..
@[simp] theorem Dev.modTile_parts (d : Dev) (n : Nat) (f : Tile → Tile) : (d.modTile n f).parts = d.parts := Dev.setTile_parts ..
@[simp] theorem Dev.modTile_srv (d : Dev) (n : Nat) (f : Tile → Tile) : (d.modTile n f).srv = d.srv := Dev.setTile_srv ..
@[simp] theorem Dev.modTile_fus (d : Dev) (n : Nat) (f : Tile → Tile) : (d.modTile n f).fus = d.fus := Dev.setTile_fus ..
@[simp] theorem Dev.modTile_pl (d : Dev) (n : Nat) (f : Tile → Tile) : (d.modTile n f).pl = d.pl := Dev.setTile_pl ..
@[simp] theorem Dev.modTile_chA (d : Dev) (n : Nat) (f : Tile → Tile) : (d.modTile n f).chA = d.chA := Dev.setTile_chA ..
@[simp] theorem Dev.modTile_chB (d : Dev) (n : Nat) (f : Tile → Tile) : (d.modTile n f).chB = d.chB := Dev.setTile_chB ..
@[simp] theorem Dev.modTile_dram (d : Dev) (n : Nat) (f : Tile → Tile) : (d.modTile n f).dram = d.dram := Dev.setTile_dram ..
@[simp] theorem Dev.modTile_links (d : Dev) (n : Nat) (f : Tile → Tile) : (d.modTile n f).links = d.links := Dev.setTile_links ..
@[simp] theorem Dev.modTile_pwr (d : Dev) (n : Nat) (f : Tile → Tile) : (d.modTile n f).pwr = d.pwr := Dev.setTile_pwr ..
@[simp] theorem Dev.modTile_sec (d : Dev) (n : Nat) (f : Tile → Tile) : (d.modTile n f).sec = d.sec := Dev.setTile_sec ..
@[simp] theorem Dev.modTile_host (d : Dev) (n : Nat) (f : Tile → Tile) : (d.modTile n f).host = d.host := Dev.setTile_host ..
@[simp] theorem Dev.modTile_log (d : Dev) (n : Nat) (f : Tile → Tile) : (d.modTile n f).log = d.log := Dev.setTile_log ..
@[simp] theorem Dev.modTile_retire (d : Dev) (n : Nat) (f : Tile → Tile) : (d.modTile n f).retire = d.retire := Dev.setTile_retire ..
@[simp] theorem Dev.modTile_out (d : Dev) (n : Nat) (f : Tile → Tile) : (d.modTile n f).out = d.out := Dev.setTile_out ..
@[simp] theorem Dev.modTile_free (d : Dev) (n : Nat) (f : Tile → Tile) : (d.modTile n f).free = d.free := Dev.setTile_free ..

@[simp] theorem Dev.setOp_time (d : Dev) (k : Nat) (v : Op) : (d.setOp k v).time = d.time := rfl
@[simp] theorem Dev.setOp_chip (d : Dev) (k : Nat) (v : Op) : (d.setOp k v).chip = d.chip := rfl
@[simp] theorem Dev.setOp_regs (d : Dev) (k : Nat) (v : Op) : (d.setOp k v).regs = d.regs := rfl
@[simp] theorem Dev.setOp_mem (d : Dev) (k : Nat) (v : Op) : (d.setOp k v).mem = d.mem := rfl
@[simp] theorem Dev.setOp_poison (d : Dev) (k : Nat) (v : Op) : (d.setOp k v).poison = d.poison := rfl
@[simp] theorem Dev.setOp_enc (d : Dev) (k : Nat) (v : Op) : (d.setOp k v).enc = d.enc := rfl
@[simp] theorem Dev.setOp_blocks (d : Dev) (k : Nat) (v : Op) : (d.setOp k v).blocks = d.blocks := rfl
@[simp] theorem Dev.setOp_tiles (d : Dev) (k : Nat) (v : Op) : (d.setOp k v).tiles = d.tiles := rfl
@[simp] theorem Dev.setOp_qm (d : Dev) (k : Nat) (v : Op) : (d.setOp k v).qm = d.qm := rfl
@[simp] theorem Dev.setOp_ctxs (d : Dev) (k : Nat) (v : Op) : (d.setOp k v).ctxs = d.ctxs := rfl
@[simp] theorem Dev.setOp_parts (d : Dev) (k : Nat) (v : Op) : (d.setOp k v).parts = d.parts := rfl
@[simp] theorem Dev.setOp_srv (d : Dev) (k : Nat) (v : Op) : (d.setOp k v).srv = d.srv := rfl
@[simp] theorem Dev.setOp_fus (d : Dev) (k : Nat) (v : Op) : (d.setOp k v).fus = d.fus := rfl
@[simp] theorem Dev.setOp_pl (d : Dev) (k : Nat) (v : Op) : (d.setOp k v).pl = d.pl := rfl
@[simp] theorem Dev.setOp_chA (d : Dev) (k : Nat) (v : Op) : (d.setOp k v).chA = d.chA := rfl
@[simp] theorem Dev.setOp_chB (d : Dev) (k : Nat) (v : Op) : (d.setOp k v).chB = d.chB := rfl
@[simp] theorem Dev.setOp_dram (d : Dev) (k : Nat) (v : Op) : (d.setOp k v).dram = d.dram := rfl
@[simp] theorem Dev.setOp_links (d : Dev) (k : Nat) (v : Op) : (d.setOp k v).links = d.links := rfl
@[simp] theorem Dev.setOp_pwr (d : Dev) (k : Nat) (v : Op) : (d.setOp k v).pwr = d.pwr := rfl
@[simp] theorem Dev.setOp_sec (d : Dev) (k : Nat) (v : Op) : (d.setOp k v).sec = d.sec := rfl
@[simp] theorem Dev.setOp_host (d : Dev) (k : Nat) (v : Op) : (d.setOp k v).host = d.host := rfl
@[simp] theorem Dev.setOp_log (d : Dev) (k : Nat) (v : Op) : (d.setOp k v).log = d.log := rfl
@[simp] theorem Dev.setOp_retire (d : Dev) (k : Nat) (v : Op) : (d.setOp k v).retire = d.retire := rfl
@[simp] theorem Dev.setOp_out (d : Dev) (k : Nat) (v : Op) : (d.setOp k v).out = d.out := rfl
@[simp] theorem Dev.setOp_free (d : Dev) (k : Nat) (v : Op) : (d.setOp k v).free = d.free := rfl

@[simp] theorem Dev.modOp_time (d : Dev) (k : Nat) (f : Op → Op) : (d.modOp k f).time = d.time := Dev.setOp_time ..
@[simp] theorem Dev.modOp_chip (d : Dev) (k : Nat) (f : Op → Op) : (d.modOp k f).chip = d.chip := Dev.setOp_chip ..
@[simp] theorem Dev.modOp_regs (d : Dev) (k : Nat) (f : Op → Op) : (d.modOp k f).regs = d.regs := Dev.setOp_regs ..
@[simp] theorem Dev.modOp_mem (d : Dev) (k : Nat) (f : Op → Op) : (d.modOp k f).mem = d.mem := Dev.setOp_mem ..
@[simp] theorem Dev.modOp_poison (d : Dev) (k : Nat) (f : Op → Op) : (d.modOp k f).poison = d.poison := Dev.setOp_poison ..
@[simp] theorem Dev.modOp_enc (d : Dev) (k : Nat) (f : Op → Op) : (d.modOp k f).enc = d.enc := Dev.setOp_enc ..
@[simp] theorem Dev.modOp_blocks (d : Dev) (k : Nat) (f : Op → Op) : (d.modOp k f).blocks = d.blocks := Dev.setOp_blocks ..
@[simp] theorem Dev.modOp_tiles (d : Dev) (k : Nat) (f : Op → Op) : (d.modOp k f).tiles = d.tiles := Dev.setOp_tiles ..
@[simp] theorem Dev.modOp_qm (d : Dev) (k : Nat) (f : Op → Op) : (d.modOp k f).qm = d.qm := Dev.setOp_qm ..
@[simp] theorem Dev.modOp_ctxs (d : Dev) (k : Nat) (f : Op → Op) : (d.modOp k f).ctxs = d.ctxs := Dev.setOp_ctxs ..
@[simp] theorem Dev.modOp_parts (d : Dev) (k : Nat) (f : Op → Op) : (d.modOp k f).parts = d.parts := Dev.setOp_parts ..
@[simp] theorem Dev.modOp_srv (d : Dev) (k : Nat) (f : Op → Op) : (d.modOp k f).srv = d.srv := Dev.setOp_srv ..
@[simp] theorem Dev.modOp_fus (d : Dev) (k : Nat) (f : Op → Op) : (d.modOp k f).fus = d.fus := Dev.setOp_fus ..
@[simp] theorem Dev.modOp_pl (d : Dev) (k : Nat) (f : Op → Op) : (d.modOp k f).pl = d.pl := Dev.setOp_pl ..
@[simp] theorem Dev.modOp_chA (d : Dev) (k : Nat) (f : Op → Op) : (d.modOp k f).chA = d.chA := Dev.setOp_chA ..
@[simp] theorem Dev.modOp_chB (d : Dev) (k : Nat) (f : Op → Op) : (d.modOp k f).chB = d.chB := Dev.setOp_chB ..
@[simp] theorem Dev.modOp_dram (d : Dev) (k : Nat) (f : Op → Op) : (d.modOp k f).dram = d.dram := Dev.setOp_dram ..
@[simp] theorem Dev.modOp_links (d : Dev) (k : Nat) (f : Op → Op) : (d.modOp k f).links = d.links := Dev.setOp_links ..
@[simp] theorem Dev.modOp_pwr (d : Dev) (k : Nat) (f : Op → Op) : (d.modOp k f).pwr = d.pwr := Dev.setOp_pwr ..
@[simp] theorem Dev.modOp_sec (d : Dev) (k : Nat) (f : Op → Op) : (d.modOp k f).sec = d.sec := Dev.setOp_sec ..
@[simp] theorem Dev.modOp_host (d : Dev) (k : Nat) (f : Op → Op) : (d.modOp k f).host = d.host := Dev.setOp_host ..
@[simp] theorem Dev.modOp_log (d : Dev) (k : Nat) (f : Op → Op) : (d.modOp k f).log = d.log := Dev.setOp_log ..
@[simp] theorem Dev.modOp_retire (d : Dev) (k : Nat) (f : Op → Op) : (d.modOp k f).retire = d.retire := Dev.setOp_retire ..
@[simp] theorem Dev.modOp_out (d : Dev) (k : Nat) (f : Op → Op) : (d.modOp k f).out = d.out := Dev.setOp_out ..
@[simp] theorem Dev.modOp_free (d : Dev) (k : Nat) (f : Op → Op) : (d.modOp k f).free = d.free := Dev.setOp_free ..

@[simp] theorem Dev.setCtx_time (d : Dev) (c : Nat) (v : Ctx) : (d.setCtx c v).time = d.time := rfl
@[simp] theorem Dev.setCtx_chip (d : Dev) (c : Nat) (v : Ctx) : (d.setCtx c v).chip = d.chip := rfl
@[simp] theorem Dev.setCtx_regs (d : Dev) (c : Nat) (v : Ctx) : (d.setCtx c v).regs = d.regs := rfl
@[simp] theorem Dev.setCtx_mem (d : Dev) (c : Nat) (v : Ctx) : (d.setCtx c v).mem = d.mem := rfl
@[simp] theorem Dev.setCtx_poison (d : Dev) (c : Nat) (v : Ctx) : (d.setCtx c v).poison = d.poison := rfl
@[simp] theorem Dev.setCtx_enc (d : Dev) (c : Nat) (v : Ctx) : (d.setCtx c v).enc = d.enc := rfl
@[simp] theorem Dev.setCtx_blocks (d : Dev) (c : Nat) (v : Ctx) : (d.setCtx c v).blocks = d.blocks := rfl
@[simp] theorem Dev.setCtx_tiles (d : Dev) (c : Nat) (v : Ctx) : (d.setCtx c v).tiles = d.tiles := rfl
@[simp] theorem Dev.setCtx_ops (d : Dev) (c : Nat) (v : Ctx) : (d.setCtx c v).ops = d.ops := rfl
@[simp] theorem Dev.setCtx_qm (d : Dev) (c : Nat) (v : Ctx) : (d.setCtx c v).qm = d.qm := rfl
@[simp] theorem Dev.setCtx_parts (d : Dev) (c : Nat) (v : Ctx) : (d.setCtx c v).parts = d.parts := rfl
@[simp] theorem Dev.setCtx_srv (d : Dev) (c : Nat) (v : Ctx) : (d.setCtx c v).srv = d.srv := rfl
@[simp] theorem Dev.setCtx_fus (d : Dev) (c : Nat) (v : Ctx) : (d.setCtx c v).fus = d.fus := rfl
@[simp] theorem Dev.setCtx_pl (d : Dev) (c : Nat) (v : Ctx) : (d.setCtx c v).pl = d.pl := rfl
@[simp] theorem Dev.setCtx_chA (d : Dev) (c : Nat) (v : Ctx) : (d.setCtx c v).chA = d.chA := rfl
@[simp] theorem Dev.setCtx_chB (d : Dev) (c : Nat) (v : Ctx) : (d.setCtx c v).chB = d.chB := rfl
@[simp] theorem Dev.setCtx_dram (d : Dev) (c : Nat) (v : Ctx) : (d.setCtx c v).dram = d.dram := rfl
@[simp] theorem Dev.setCtx_links (d : Dev) (c : Nat) (v : Ctx) : (d.setCtx c v).links = d.links := rfl
@[simp] theorem Dev.setCtx_pwr (d : Dev) (c : Nat) (v : Ctx) : (d.setCtx c v).pwr = d.pwr := rfl
@[simp] theorem Dev.setCtx_sec (d : Dev) (c : Nat) (v : Ctx) : (d.setCtx c v).sec = d.sec := rfl
@[simp] theorem Dev.setCtx_host (d : Dev) (c : Nat) (v : Ctx) : (d.setCtx c v).host = d.host := rfl
@[simp] theorem Dev.setCtx_log (d : Dev) (c : Nat) (v : Ctx) : (d.setCtx c v).log = d.log := rfl
@[simp] theorem Dev.setCtx_retire (d : Dev) (c : Nat) (v : Ctx) : (d.setCtx c v).retire = d.retire := rfl
@[simp] theorem Dev.setCtx_out (d : Dev) (c : Nat) (v : Ctx) : (d.setCtx c v).out = d.out := rfl
@[simp] theorem Dev.setCtx_free (d : Dev) (c : Nat) (v : Ctx) : (d.setCtx c v).free = d.free := rfl

@[simp] theorem Dev.modCtx_time (d : Dev) (c : Nat) (f : Ctx → Ctx) : (d.modCtx c f).time = d.time := Dev.setCtx_time ..
@[simp] theorem Dev.modCtx_chip (d : Dev) (c : Nat) (f : Ctx → Ctx) : (d.modCtx c f).chip = d.chip := Dev.setCtx_chip ..
@[simp] theorem Dev.modCtx_regs (d : Dev) (c : Nat) (f : Ctx → Ctx) : (d.modCtx c f).regs = d.regs := Dev.setCtx_regs ..
@[simp] theorem Dev.modCtx_mem (d : Dev) (c : Nat) (f : Ctx → Ctx) : (d.modCtx c f).mem = d.mem := Dev.setCtx_mem ..
@[simp] theorem Dev.modCtx_poison (d : Dev) (c : Nat) (f : Ctx → Ctx) : (d.modCtx c f).poison = d.poison := Dev.setCtx_poison ..
@[simp] theorem Dev.modCtx_enc (d : Dev) (c : Nat) (f : Ctx → Ctx) : (d.modCtx c f).enc = d.enc := Dev.setCtx_enc ..
@[simp] theorem Dev.modCtx_blocks (d : Dev) (c : Nat) (f : Ctx → Ctx) : (d.modCtx c f).blocks = d.blocks := Dev.setCtx_blocks ..
@[simp] theorem Dev.modCtx_tiles (d : Dev) (c : Nat) (f : Ctx → Ctx) : (d.modCtx c f).tiles = d.tiles := Dev.setCtx_tiles ..
@[simp] theorem Dev.modCtx_ops (d : Dev) (c : Nat) (f : Ctx → Ctx) : (d.modCtx c f).ops = d.ops := Dev.setCtx_ops ..
@[simp] theorem Dev.modCtx_qm (d : Dev) (c : Nat) (f : Ctx → Ctx) : (d.modCtx c f).qm = d.qm := Dev.setCtx_qm ..
@[simp] theorem Dev.modCtx_parts (d : Dev) (c : Nat) (f : Ctx → Ctx) : (d.modCtx c f).parts = d.parts := Dev.setCtx_parts ..
@[simp] theorem Dev.modCtx_srv (d : Dev) (c : Nat) (f : Ctx → Ctx) : (d.modCtx c f).srv = d.srv := Dev.setCtx_srv ..
@[simp] theorem Dev.modCtx_fus (d : Dev) (c : Nat) (f : Ctx → Ctx) : (d.modCtx c f).fus = d.fus := Dev.setCtx_fus ..
@[simp] theorem Dev.modCtx_pl (d : Dev) (c : Nat) (f : Ctx → Ctx) : (d.modCtx c f).pl = d.pl := Dev.setCtx_pl ..
@[simp] theorem Dev.modCtx_chA (d : Dev) (c : Nat) (f : Ctx → Ctx) : (d.modCtx c f).chA = d.chA := Dev.setCtx_chA ..
@[simp] theorem Dev.modCtx_chB (d : Dev) (c : Nat) (f : Ctx → Ctx) : (d.modCtx c f).chB = d.chB := Dev.setCtx_chB ..
@[simp] theorem Dev.modCtx_dram (d : Dev) (c : Nat) (f : Ctx → Ctx) : (d.modCtx c f).dram = d.dram := Dev.setCtx_dram ..
@[simp] theorem Dev.modCtx_links (d : Dev) (c : Nat) (f : Ctx → Ctx) : (d.modCtx c f).links = d.links := Dev.setCtx_links ..
@[simp] theorem Dev.modCtx_pwr (d : Dev) (c : Nat) (f : Ctx → Ctx) : (d.modCtx c f).pwr = d.pwr := Dev.setCtx_pwr ..
@[simp] theorem Dev.modCtx_sec (d : Dev) (c : Nat) (f : Ctx → Ctx) : (d.modCtx c f).sec = d.sec := Dev.setCtx_sec ..
@[simp] theorem Dev.modCtx_host (d : Dev) (c : Nat) (f : Ctx → Ctx) : (d.modCtx c f).host = d.host := Dev.setCtx_host ..
@[simp] theorem Dev.modCtx_log (d : Dev) (c : Nat) (f : Ctx → Ctx) : (d.modCtx c f).log = d.log := Dev.setCtx_log ..
@[simp] theorem Dev.modCtx_retire (d : Dev) (c : Nat) (f : Ctx → Ctx) : (d.modCtx c f).retire = d.retire := Dev.setCtx_retire ..
@[simp] theorem Dev.modCtx_out (d : Dev) (c : Nat) (f : Ctx → Ctx) : (d.modCtx c f).out = d.out := Dev.setCtx_out ..
@[simp] theorem Dev.modCtx_free (d : Dev) (c : Nat) (f : Ctx → Ctx) : (d.modCtx c f).free = d.free := Dev.setCtx_free ..

@[simp] theorem Dev.setPart_time (d : Dev) (p : Nat) (v : Part) : (d.setPart p v).time = d.time := rfl
@[simp] theorem Dev.setPart_chip (d : Dev) (p : Nat) (v : Part) : (d.setPart p v).chip = d.chip := rfl
@[simp] theorem Dev.setPart_regs (d : Dev) (p : Nat) (v : Part) : (d.setPart p v).regs = d.regs := rfl
@[simp] theorem Dev.setPart_mem (d : Dev) (p : Nat) (v : Part) : (d.setPart p v).mem = d.mem := rfl
@[simp] theorem Dev.setPart_poison (d : Dev) (p : Nat) (v : Part) : (d.setPart p v).poison = d.poison := rfl
@[simp] theorem Dev.setPart_enc (d : Dev) (p : Nat) (v : Part) : (d.setPart p v).enc = d.enc := rfl
@[simp] theorem Dev.setPart_blocks (d : Dev) (p : Nat) (v : Part) : (d.setPart p v).blocks = d.blocks := rfl
@[simp] theorem Dev.setPart_tiles (d : Dev) (p : Nat) (v : Part) : (d.setPart p v).tiles = d.tiles := rfl
@[simp] theorem Dev.setPart_ops (d : Dev) (p : Nat) (v : Part) : (d.setPart p v).ops = d.ops := rfl
@[simp] theorem Dev.setPart_qm (d : Dev) (p : Nat) (v : Part) : (d.setPart p v).qm = d.qm := rfl
@[simp] theorem Dev.setPart_ctxs (d : Dev) (p : Nat) (v : Part) : (d.setPart p v).ctxs = d.ctxs := rfl
@[simp] theorem Dev.setPart_srv (d : Dev) (p : Nat) (v : Part) : (d.setPart p v).srv = d.srv := rfl
@[simp] theorem Dev.setPart_fus (d : Dev) (p : Nat) (v : Part) : (d.setPart p v).fus = d.fus := rfl
@[simp] theorem Dev.setPart_pl (d : Dev) (p : Nat) (v : Part) : (d.setPart p v).pl = d.pl := rfl
@[simp] theorem Dev.setPart_chA (d : Dev) (p : Nat) (v : Part) : (d.setPart p v).chA = d.chA := rfl
@[simp] theorem Dev.setPart_chB (d : Dev) (p : Nat) (v : Part) : (d.setPart p v).chB = d.chB := rfl
@[simp] theorem Dev.setPart_dram (d : Dev) (p : Nat) (v : Part) : (d.setPart p v).dram = d.dram := rfl
@[simp] theorem Dev.setPart_links (d : Dev) (p : Nat) (v : Part) : (d.setPart p v).links = d.links := rfl
@[simp] theorem Dev.setPart_pwr (d : Dev) (p : Nat) (v : Part) : (d.setPart p v).pwr = d.pwr := rfl
@[simp] theorem Dev.setPart_sec (d : Dev) (p : Nat) (v : Part) : (d.setPart p v).sec = d.sec := rfl
@[simp] theorem Dev.setPart_host (d : Dev) (p : Nat) (v : Part) : (d.setPart p v).host = d.host := rfl
@[simp] theorem Dev.setPart_log (d : Dev) (p : Nat) (v : Part) : (d.setPart p v).log = d.log := rfl
@[simp] theorem Dev.setPart_retire (d : Dev) (p : Nat) (v : Part) : (d.setPart p v).retire = d.retire := rfl
@[simp] theorem Dev.setPart_out (d : Dev) (p : Nat) (v : Part) : (d.setPart p v).out = d.out := rfl
@[simp] theorem Dev.setPart_free (d : Dev) (p : Nat) (v : Part) : (d.setPart p v).free = d.free := rfl

@[simp] theorem Dev.modPart_time (d : Dev) (p : Nat) (f : Part → Part) : (d.modPart p f).time = d.time := Dev.setPart_time ..
@[simp] theorem Dev.modPart_chip (d : Dev) (p : Nat) (f : Part → Part) : (d.modPart p f).chip = d.chip := Dev.setPart_chip ..
@[simp] theorem Dev.modPart_regs (d : Dev) (p : Nat) (f : Part → Part) : (d.modPart p f).regs = d.regs := Dev.setPart_regs ..
@[simp] theorem Dev.modPart_mem (d : Dev) (p : Nat) (f : Part → Part) : (d.modPart p f).mem = d.mem := Dev.setPart_mem ..
@[simp] theorem Dev.modPart_poison (d : Dev) (p : Nat) (f : Part → Part) : (d.modPart p f).poison = d.poison := Dev.setPart_poison ..
@[simp] theorem Dev.modPart_enc (d : Dev) (p : Nat) (f : Part → Part) : (d.modPart p f).enc = d.enc := Dev.setPart_enc ..
@[simp] theorem Dev.modPart_blocks (d : Dev) (p : Nat) (f : Part → Part) : (d.modPart p f).blocks = d.blocks := Dev.setPart_blocks ..
@[simp] theorem Dev.modPart_tiles (d : Dev) (p : Nat) (f : Part → Part) : (d.modPart p f).tiles = d.tiles := Dev.setPart_tiles ..
@[simp] theorem Dev.modPart_ops (d : Dev) (p : Nat) (f : Part → Part) : (d.modPart p f).ops = d.ops := Dev.setPart_ops ..
@[simp] theorem Dev.modPart_qm (d : Dev) (p : Nat) (f : Part → Part) : (d.modPart p f).qm = d.qm := Dev.setPart_qm ..
@[simp] theorem Dev.modPart_ctxs (d : Dev) (p : Nat) (f : Part → Part) : (d.modPart p f).ctxs = d.ctxs := Dev.setPart_ctxs ..
@[simp] theorem Dev.modPart_srv (d : Dev) (p : Nat) (f : Part → Part) : (d.modPart p f).srv = d.srv := Dev.setPart_srv ..
@[simp] theorem Dev.modPart_fus (d : Dev) (p : Nat) (f : Part → Part) : (d.modPart p f).fus = d.fus := Dev.setPart_fus ..
@[simp] theorem Dev.modPart_pl (d : Dev) (p : Nat) (f : Part → Part) : (d.modPart p f).pl = d.pl := Dev.setPart_pl ..
@[simp] theorem Dev.modPart_chA (d : Dev) (p : Nat) (f : Part → Part) : (d.modPart p f).chA = d.chA := Dev.setPart_chA ..
@[simp] theorem Dev.modPart_chB (d : Dev) (p : Nat) (f : Part → Part) : (d.modPart p f).chB = d.chB := Dev.setPart_chB ..
@[simp] theorem Dev.modPart_dram (d : Dev) (p : Nat) (f : Part → Part) : (d.modPart p f).dram = d.dram := Dev.setPart_dram ..
@[simp] theorem Dev.modPart_links (d : Dev) (p : Nat) (f : Part → Part) : (d.modPart p f).links = d.links := Dev.setPart_links ..
@[simp] theorem Dev.modPart_pwr (d : Dev) (p : Nat) (f : Part → Part) : (d.modPart p f).pwr = d.pwr := Dev.setPart_pwr ..
@[simp] theorem Dev.modPart_sec (d : Dev) (p : Nat) (f : Part → Part) : (d.modPart p f).sec = d.sec := Dev.setPart_sec ..
@[simp] theorem Dev.modPart_host (d : Dev) (p : Nat) (f : Part → Part) : (d.modPart p f).host = d.host := Dev.setPart_host ..
@[simp] theorem Dev.modPart_log (d : Dev) (p : Nat) (f : Part → Part) : (d.modPart p f).log = d.log := Dev.setPart_log ..
@[simp] theorem Dev.modPart_retire (d : Dev) (p : Nat) (f : Part → Part) : (d.modPart p f).retire = d.retire := Dev.setPart_retire ..
@[simp] theorem Dev.modPart_out (d : Dev) (p : Nat) (f : Part → Part) : (d.modPart p f).out = d.out := Dev.setPart_out ..
@[simp] theorem Dev.modPart_free (d : Dev) (p : Nat) (f : Part → Part) : (d.modPart p f).free = d.free := Dev.setPart_free ..

@[simp] theorem Dev.modThr_time (d : Dev) (b n : Nat) (f : Thread → Thread) : (d.modThr b n f).time = d.time := Dev.modBlk_time ..
@[simp] theorem Dev.modThr_chip (d : Dev) (b n : Nat) (f : Thread → Thread) : (d.modThr b n f).chip = d.chip := Dev.modBlk_chip ..
@[simp] theorem Dev.modThr_regs (d : Dev) (b n : Nat) (f : Thread → Thread) : (d.modThr b n f).regs = d.regs := Dev.modBlk_regs ..
@[simp] theorem Dev.modThr_mem (d : Dev) (b n : Nat) (f : Thread → Thread) : (d.modThr b n f).mem = d.mem := Dev.modBlk_mem ..
@[simp] theorem Dev.modThr_poison (d : Dev) (b n : Nat) (f : Thread → Thread) : (d.modThr b n f).poison = d.poison := Dev.modBlk_poison ..
@[simp] theorem Dev.modThr_enc (d : Dev) (b n : Nat) (f : Thread → Thread) : (d.modThr b n f).enc = d.enc := Dev.modBlk_enc ..
@[simp] theorem Dev.modThr_tiles (d : Dev) (b n : Nat) (f : Thread → Thread) : (d.modThr b n f).tiles = d.tiles := Dev.modBlk_tiles ..
@[simp] theorem Dev.modThr_ops (d : Dev) (b n : Nat) (f : Thread → Thread) : (d.modThr b n f).ops = d.ops := Dev.modBlk_ops ..
@[simp] theorem Dev.modThr_qm (d : Dev) (b n : Nat) (f : Thread → Thread) : (d.modThr b n f).qm = d.qm := Dev.modBlk_qm ..
@[simp] theorem Dev.modThr_ctxs (d : Dev) (b n : Nat) (f : Thread → Thread) : (d.modThr b n f).ctxs = d.ctxs := Dev.modBlk_ctxs ..
@[simp] theorem Dev.modThr_parts (d : Dev) (b n : Nat) (f : Thread → Thread) : (d.modThr b n f).parts = d.parts := Dev.modBlk_parts ..
@[simp] theorem Dev.modThr_srv (d : Dev) (b n : Nat) (f : Thread → Thread) : (d.modThr b n f).srv = d.srv := Dev.modBlk_srv ..
@[simp] theorem Dev.modThr_fus (d : Dev) (b n : Nat) (f : Thread → Thread) : (d.modThr b n f).fus = d.fus := Dev.modBlk_fus ..
@[simp] theorem Dev.modThr_pl (d : Dev) (b n : Nat) (f : Thread → Thread) : (d.modThr b n f).pl = d.pl := Dev.modBlk_pl ..
@[simp] theorem Dev.modThr_chA (d : Dev) (b n : Nat) (f : Thread → Thread) : (d.modThr b n f).chA = d.chA := Dev.modBlk_chA ..
@[simp] theorem Dev.modThr_chB (d : Dev) (b n : Nat) (f : Thread → Thread) : (d.modThr b n f).chB = d.chB := Dev.modBlk_chB ..
@[simp] theorem Dev.modThr_dram (d : Dev) (b n : Nat) (f : Thread → Thread) : (d.modThr b n f).dram = d.dram := Dev.modBlk_dram ..
@[simp] theorem Dev.modThr_links (d : Dev) (b n : Nat) (f : Thread → Thread) : (d.modThr b n f).links = d.links := Dev.modBlk_links ..
@[simp] theorem Dev.modThr_pwr (d : Dev) (b n : Nat) (f : Thread → Thread) : (d.modThr b n f).pwr = d.pwr := Dev.modBlk_pwr ..
@[simp] theorem Dev.modThr_sec (d : Dev) (b n : Nat) (f : Thread → Thread) : (d.modThr b n f).sec = d.sec := Dev.modBlk_sec ..
@[simp] theorem Dev.modThr_host (d : Dev) (b n : Nat) (f : Thread → Thread) : (d.modThr b n f).host = d.host := Dev.modBlk_host ..
@[simp] theorem Dev.modThr_log (d : Dev) (b n : Nat) (f : Thread → Thread) : (d.modThr b n f).log = d.log := Dev.modBlk_log ..
@[simp] theorem Dev.modThr_retire (d : Dev) (b n : Nat) (f : Thread → Thread) : (d.modThr b n f).retire = d.retire := Dev.modBlk_retire ..
@[simp] theorem Dev.modThr_out (d : Dev) (b n : Nat) (f : Thread → Thread) : (d.modThr b n f).out = d.out := Dev.modBlk_out ..
@[simp] theorem Dev.modThr_free (d : Dev) (b n : Nat) (f : Thread → Thread) : (d.modThr b n f).free = d.free := Dev.modBlk_free ..

@[simp] theorem Dev.setReg_time (d : Dev) (off v : Nat) : (d.setReg off v).time = d.time := rfl
@[simp] theorem Dev.setReg_chip (d : Dev) (off v : Nat) : (d.setReg off v).chip = d.chip := rfl
@[simp] theorem Dev.setReg_mem (d : Dev) (off v : Nat) : (d.setReg off v).mem = d.mem := rfl
@[simp] theorem Dev.setReg_poison (d : Dev) (off v : Nat) : (d.setReg off v).poison = d.poison := rfl
@[simp] theorem Dev.setReg_enc (d : Dev) (off v : Nat) : (d.setReg off v).enc = d.enc := rfl
@[simp] theorem Dev.setReg_blocks (d : Dev) (off v : Nat) : (d.setReg off v).blocks = d.blocks := rfl
@[simp] theorem Dev.setReg_tiles (d : Dev) (off v : Nat) : (d.setReg off v).tiles = d.tiles := rfl
@[simp] theorem Dev.setReg_ops (d : Dev) (off v : Nat) : (d.setReg off v).ops = d.ops := rfl
@[simp] theorem Dev.setReg_qm (d : Dev) (off v : Nat) : (d.setReg off v).qm = d.qm := rfl
@[simp] theorem Dev.setReg_ctxs (d : Dev) (off v : Nat) : (d.setReg off v).ctxs = d.ctxs := rfl
@[simp] theorem Dev.setReg_parts (d : Dev) (off v : Nat) : (d.setReg off v).parts = d.parts := rfl
@[simp] theorem Dev.setReg_srv (d : Dev) (off v : Nat) : (d.setReg off v).srv = d.srv := rfl
@[simp] theorem Dev.setReg_fus (d : Dev) (off v : Nat) : (d.setReg off v).fus = d.fus := rfl
@[simp] theorem Dev.setReg_pl (d : Dev) (off v : Nat) : (d.setReg off v).pl = d.pl := rfl
@[simp] theorem Dev.setReg_chA (d : Dev) (off v : Nat) : (d.setReg off v).chA = d.chA := rfl
@[simp] theorem Dev.setReg_chB (d : Dev) (off v : Nat) : (d.setReg off v).chB = d.chB := rfl
@[simp] theorem Dev.setReg_dram (d : Dev) (off v : Nat) : (d.setReg off v).dram = d.dram := rfl
@[simp] theorem Dev.setReg_links (d : Dev) (off v : Nat) : (d.setReg off v).links = d.links := rfl
@[simp] theorem Dev.setReg_pwr (d : Dev) (off v : Nat) : (d.setReg off v).pwr = d.pwr := rfl
@[simp] theorem Dev.setReg_sec (d : Dev) (off v : Nat) : (d.setReg off v).sec = d.sec := rfl
@[simp] theorem Dev.setReg_host (d : Dev) (off v : Nat) : (d.setReg off v).host = d.host := rfl
@[simp] theorem Dev.setReg_log (d : Dev) (off v : Nat) : (d.setReg off v).log = d.log := rfl
@[simp] theorem Dev.setReg_retire (d : Dev) (off v : Nat) : (d.setReg off v).retire = d.retire := rfl
@[simp] theorem Dev.setReg_out (d : Dev) (off v : Nat) : (d.setReg off v).out = d.out := rfl
@[simp] theorem Dev.setReg_free (d : Dev) (off v : Nat) : (d.setReg off v).free = d.free := rfl

@[simp] theorem Dev.setFld_time (d : Dev) (off lo n v : Nat) : (d.setFld off lo n v).time = d.time := Dev.setReg_time ..
@[simp] theorem Dev.setFld_chip (d : Dev) (off lo n v : Nat) : (d.setFld off lo n v).chip = d.chip := Dev.setReg_chip ..
@[simp] theorem Dev.setFld_mem (d : Dev) (off lo n v : Nat) : (d.setFld off lo n v).mem = d.mem := Dev.setReg_mem ..
@[simp] theorem Dev.setFld_poison (d : Dev) (off lo n v : Nat) : (d.setFld off lo n v).poison = d.poison := Dev.setReg_poison ..
@[simp] theorem Dev.setFld_enc (d : Dev) (off lo n v : Nat) : (d.setFld off lo n v).enc = d.enc := Dev.setReg_enc ..
@[simp] theorem Dev.setFld_blocks (d : Dev) (off lo n v : Nat) : (d.setFld off lo n v).blocks = d.blocks := Dev.setReg_blocks ..
@[simp] theorem Dev.setFld_tiles (d : Dev) (off lo n v : Nat) : (d.setFld off lo n v).tiles = d.tiles := Dev.setReg_tiles ..
@[simp] theorem Dev.setFld_ops (d : Dev) (off lo n v : Nat) : (d.setFld off lo n v).ops = d.ops := Dev.setReg_ops ..
@[simp] theorem Dev.setFld_qm (d : Dev) (off lo n v : Nat) : (d.setFld off lo n v).qm = d.qm := Dev.setReg_qm ..
@[simp] theorem Dev.setFld_ctxs (d : Dev) (off lo n v : Nat) : (d.setFld off lo n v).ctxs = d.ctxs := Dev.setReg_ctxs ..
@[simp] theorem Dev.setFld_parts (d : Dev) (off lo n v : Nat) : (d.setFld off lo n v).parts = d.parts := Dev.setReg_parts ..
@[simp] theorem Dev.setFld_srv (d : Dev) (off lo n v : Nat) : (d.setFld off lo n v).srv = d.srv := Dev.setReg_srv ..
@[simp] theorem Dev.setFld_fus (d : Dev) (off lo n v : Nat) : (d.setFld off lo n v).fus = d.fus := Dev.setReg_fus ..
@[simp] theorem Dev.setFld_pl (d : Dev) (off lo n v : Nat) : (d.setFld off lo n v).pl = d.pl := Dev.setReg_pl ..
@[simp] theorem Dev.setFld_chA (d : Dev) (off lo n v : Nat) : (d.setFld off lo n v).chA = d.chA := Dev.setReg_chA ..
@[simp] theorem Dev.setFld_chB (d : Dev) (off lo n v : Nat) : (d.setFld off lo n v).chB = d.chB := Dev.setReg_chB ..
@[simp] theorem Dev.setFld_dram (d : Dev) (off lo n v : Nat) : (d.setFld off lo n v).dram = d.dram := Dev.setReg_dram ..
@[simp] theorem Dev.setFld_links (d : Dev) (off lo n v : Nat) : (d.setFld off lo n v).links = d.links := Dev.setReg_links ..
@[simp] theorem Dev.setFld_pwr (d : Dev) (off lo n v : Nat) : (d.setFld off lo n v).pwr = d.pwr := Dev.setReg_pwr ..
@[simp] theorem Dev.setFld_sec (d : Dev) (off lo n v : Nat) : (d.setFld off lo n v).sec = d.sec := Dev.setReg_sec ..
@[simp] theorem Dev.setFld_host (d : Dev) (off lo n v : Nat) : (d.setFld off lo n v).host = d.host := Dev.setReg_host ..
@[simp] theorem Dev.setFld_log (d : Dev) (off lo n v : Nat) : (d.setFld off lo n v).log = d.log := Dev.setReg_log ..
@[simp] theorem Dev.setFld_retire (d : Dev) (off lo n v : Nat) : (d.setFld off lo n v).retire = d.retire := Dev.setReg_retire ..
@[simp] theorem Dev.setFld_out (d : Dev) (off lo n v : Nat) : (d.setFld off lo n v).out = d.out := Dev.setReg_out ..
@[simp] theorem Dev.setFld_free (d : Dev) (off lo n v : Nat) : (d.setFld off lo n v).free = d.free := Dev.setReg_free ..

@[simp] theorem Dev.bump_time (d : Dev) (off n : Nat) : (d.bump off n).time = d.time := Dev.setReg_time ..
@[simp] theorem Dev.bump_chip (d : Dev) (off n : Nat) : (d.bump off n).chip = d.chip := Dev.setReg_chip ..
@[simp] theorem Dev.bump_mem (d : Dev) (off n : Nat) : (d.bump off n).mem = d.mem := Dev.setReg_mem ..
@[simp] theorem Dev.bump_poison (d : Dev) (off n : Nat) : (d.bump off n).poison = d.poison := Dev.setReg_poison ..
@[simp] theorem Dev.bump_enc (d : Dev) (off n : Nat) : (d.bump off n).enc = d.enc := Dev.setReg_enc ..
@[simp] theorem Dev.bump_blocks (d : Dev) (off n : Nat) : (d.bump off n).blocks = d.blocks := Dev.setReg_blocks ..
@[simp] theorem Dev.bump_tiles (d : Dev) (off n : Nat) : (d.bump off n).tiles = d.tiles := Dev.setReg_tiles ..
@[simp] theorem Dev.bump_ops (d : Dev) (off n : Nat) : (d.bump off n).ops = d.ops := Dev.setReg_ops ..
@[simp] theorem Dev.bump_qm (d : Dev) (off n : Nat) : (d.bump off n).qm = d.qm := Dev.setReg_qm ..
@[simp] theorem Dev.bump_ctxs (d : Dev) (off n : Nat) : (d.bump off n).ctxs = d.ctxs := Dev.setReg_ctxs ..
@[simp] theorem Dev.bump_parts (d : Dev) (off n : Nat) : (d.bump off n).parts = d.parts := Dev.setReg_parts ..
@[simp] theorem Dev.bump_srv (d : Dev) (off n : Nat) : (d.bump off n).srv = d.srv := Dev.setReg_srv ..
@[simp] theorem Dev.bump_fus (d : Dev) (off n : Nat) : (d.bump off n).fus = d.fus := Dev.setReg_fus ..
@[simp] theorem Dev.bump_pl (d : Dev) (off n : Nat) : (d.bump off n).pl = d.pl := Dev.setReg_pl ..
@[simp] theorem Dev.bump_chA (d : Dev) (off n : Nat) : (d.bump off n).chA = d.chA := Dev.setReg_chA ..
@[simp] theorem Dev.bump_chB (d : Dev) (off n : Nat) : (d.bump off n).chB = d.chB := Dev.setReg_chB ..
@[simp] theorem Dev.bump_dram (d : Dev) (off n : Nat) : (d.bump off n).dram = d.dram := Dev.setReg_dram ..
@[simp] theorem Dev.bump_links (d : Dev) (off n : Nat) : (d.bump off n).links = d.links := Dev.setReg_links ..
@[simp] theorem Dev.bump_pwr (d : Dev) (off n : Nat) : (d.bump off n).pwr = d.pwr := Dev.setReg_pwr ..
@[simp] theorem Dev.bump_sec (d : Dev) (off n : Nat) : (d.bump off n).sec = d.sec := Dev.setReg_sec ..
@[simp] theorem Dev.bump_host (d : Dev) (off n : Nat) : (d.bump off n).host = d.host := Dev.setReg_host ..
@[simp] theorem Dev.bump_log (d : Dev) (off n : Nat) : (d.bump off n).log = d.log := Dev.setReg_log ..
@[simp] theorem Dev.bump_retire (d : Dev) (off n : Nat) : (d.bump off n).retire = d.retire := Dev.setReg_retire ..
@[simp] theorem Dev.bump_out (d : Dev) (off n : Nat) : (d.bump off n).out = d.out := Dev.setReg_out ..
@[simp] theorem Dev.bump_free (d : Dev) (off n : Nat) : (d.bump off n).free = d.free := Dev.setReg_free ..

@[simp] theorem Dev.bump16_time (d : Dev) (off lo : Nat) : (d.bump16 off lo).time = d.time := Dev.setFld_time ..
@[simp] theorem Dev.bump16_chip (d : Dev) (off lo : Nat) : (d.bump16 off lo).chip = d.chip := Dev.setFld_chip ..
@[simp] theorem Dev.bump16_mem (d : Dev) (off lo : Nat) : (d.bump16 off lo).mem = d.mem := Dev.setFld_mem ..
@[simp] theorem Dev.bump16_poison (d : Dev) (off lo : Nat) : (d.bump16 off lo).poison = d.poison := Dev.setFld_poison ..
@[simp] theorem Dev.bump16_enc (d : Dev) (off lo : Nat) : (d.bump16 off lo).enc = d.enc := Dev.setFld_enc ..
@[simp] theorem Dev.bump16_blocks (d : Dev) (off lo : Nat) : (d.bump16 off lo).blocks = d.blocks := Dev.setFld_blocks ..
@[simp] theorem Dev.bump16_tiles (d : Dev) (off lo : Nat) : (d.bump16 off lo).tiles = d.tiles := Dev.setFld_tiles ..
@[simp] theorem Dev.bump16_ops (d : Dev) (off lo : Nat) : (d.bump16 off lo).ops = d.ops := Dev.setFld_ops ..
@[simp] theorem Dev.bump16_qm (d : Dev) (off lo : Nat) : (d.bump16 off lo).qm = d.qm := Dev.setFld_qm ..
@[simp] theorem Dev.bump16_ctxs (d : Dev) (off lo : Nat) : (d.bump16 off lo).ctxs = d.ctxs := Dev.setFld_ctxs ..
@[simp] theorem Dev.bump16_parts (d : Dev) (off lo : Nat) : (d.bump16 off lo).parts = d.parts := Dev.setFld_parts ..
@[simp] theorem Dev.bump16_srv (d : Dev) (off lo : Nat) : (d.bump16 off lo).srv = d.srv := Dev.setFld_srv ..
@[simp] theorem Dev.bump16_fus (d : Dev) (off lo : Nat) : (d.bump16 off lo).fus = d.fus := Dev.setFld_fus ..
@[simp] theorem Dev.bump16_pl (d : Dev) (off lo : Nat) : (d.bump16 off lo).pl = d.pl := Dev.setFld_pl ..
@[simp] theorem Dev.bump16_chA (d : Dev) (off lo : Nat) : (d.bump16 off lo).chA = d.chA := Dev.setFld_chA ..
@[simp] theorem Dev.bump16_chB (d : Dev) (off lo : Nat) : (d.bump16 off lo).chB = d.chB := Dev.setFld_chB ..
@[simp] theorem Dev.bump16_dram (d : Dev) (off lo : Nat) : (d.bump16 off lo).dram = d.dram := Dev.setFld_dram ..
@[simp] theorem Dev.bump16_links (d : Dev) (off lo : Nat) : (d.bump16 off lo).links = d.links := Dev.setFld_links ..
@[simp] theorem Dev.bump16_pwr (d : Dev) (off lo : Nat) : (d.bump16 off lo).pwr = d.pwr := Dev.setFld_pwr ..
@[simp] theorem Dev.bump16_sec (d : Dev) (off lo : Nat) : (d.bump16 off lo).sec = d.sec := Dev.setFld_sec ..
@[simp] theorem Dev.bump16_host (d : Dev) (off lo : Nat) : (d.bump16 off lo).host = d.host := Dev.setFld_host ..
@[simp] theorem Dev.bump16_log (d : Dev) (off lo : Nat) : (d.bump16 off lo).log = d.log := Dev.setFld_log ..
@[simp] theorem Dev.bump16_retire (d : Dev) (off lo : Nat) : (d.bump16 off lo).retire = d.retire := Dev.setFld_retire ..
@[simp] theorem Dev.bump16_out (d : Dev) (off lo : Nat) : (d.bump16 off lo).out = d.out := Dev.setFld_out ..
@[simp] theorem Dev.bump16_free (d : Dev) (off lo : Nat) : (d.bump16 off lo).free = d.free := Dev.setFld_free ..

@[simp] theorem Dev.emit_time (d : Dev) (o : Out) : (d.emit o).time = d.time := rfl
@[simp] theorem Dev.emit_chip (d : Dev) (o : Out) : (d.emit o).chip = d.chip := rfl
@[simp] theorem Dev.emit_regs (d : Dev) (o : Out) : (d.emit o).regs = d.regs := rfl
@[simp] theorem Dev.emit_mem (d : Dev) (o : Out) : (d.emit o).mem = d.mem := rfl
@[simp] theorem Dev.emit_poison (d : Dev) (o : Out) : (d.emit o).poison = d.poison := rfl
@[simp] theorem Dev.emit_enc (d : Dev) (o : Out) : (d.emit o).enc = d.enc := rfl
@[simp] theorem Dev.emit_blocks (d : Dev) (o : Out) : (d.emit o).blocks = d.blocks := rfl
@[simp] theorem Dev.emit_tiles (d : Dev) (o : Out) : (d.emit o).tiles = d.tiles := rfl
@[simp] theorem Dev.emit_ops (d : Dev) (o : Out) : (d.emit o).ops = d.ops := rfl
@[simp] theorem Dev.emit_qm (d : Dev) (o : Out) : (d.emit o).qm = d.qm := rfl
@[simp] theorem Dev.emit_ctxs (d : Dev) (o : Out) : (d.emit o).ctxs = d.ctxs := rfl
@[simp] theorem Dev.emit_parts (d : Dev) (o : Out) : (d.emit o).parts = d.parts := rfl
@[simp] theorem Dev.emit_srv (d : Dev) (o : Out) : (d.emit o).srv = d.srv := rfl
@[simp] theorem Dev.emit_fus (d : Dev) (o : Out) : (d.emit o).fus = d.fus := rfl
@[simp] theorem Dev.emit_pl (d : Dev) (o : Out) : (d.emit o).pl = d.pl := rfl
@[simp] theorem Dev.emit_chA (d : Dev) (o : Out) : (d.emit o).chA = d.chA := rfl
@[simp] theorem Dev.emit_chB (d : Dev) (o : Out) : (d.emit o).chB = d.chB := rfl
@[simp] theorem Dev.emit_dram (d : Dev) (o : Out) : (d.emit o).dram = d.dram := rfl
@[simp] theorem Dev.emit_links (d : Dev) (o : Out) : (d.emit o).links = d.links := rfl
@[simp] theorem Dev.emit_pwr (d : Dev) (o : Out) : (d.emit o).pwr = d.pwr := rfl
@[simp] theorem Dev.emit_sec (d : Dev) (o : Out) : (d.emit o).sec = d.sec := rfl
@[simp] theorem Dev.emit_host (d : Dev) (o : Out) : (d.emit o).host = d.host := rfl
@[simp] theorem Dev.emit_log (d : Dev) (o : Out) : (d.emit o).log = d.log := rfl
@[simp] theorem Dev.emit_retire (d : Dev) (o : Out) : (d.emit o).retire = d.retire := rfl
@[simp] theorem Dev.emit_free (d : Dev) (o : Out) : (d.emit o).free = d.free := rfl

@[simp] theorem Dev.wr_time (d : Dev) (a : Nat) (bs : List Byte) : (d.wr a bs).time = d.time := rfl
@[simp] theorem Dev.wr_chip (d : Dev) (a : Nat) (bs : List Byte) : (d.wr a bs).chip = d.chip := rfl
@[simp] theorem Dev.wr_regs (d : Dev) (a : Nat) (bs : List Byte) : (d.wr a bs).regs = d.regs := rfl
@[simp] theorem Dev.wr_poison (d : Dev) (a : Nat) (bs : List Byte) : (d.wr a bs).poison = d.poison := rfl
@[simp] theorem Dev.wr_enc (d : Dev) (a : Nat) (bs : List Byte) : (d.wr a bs).enc = d.enc := rfl
@[simp] theorem Dev.wr_blocks (d : Dev) (a : Nat) (bs : List Byte) : (d.wr a bs).blocks = d.blocks := rfl
@[simp] theorem Dev.wr_tiles (d : Dev) (a : Nat) (bs : List Byte) : (d.wr a bs).tiles = d.tiles := rfl
@[simp] theorem Dev.wr_ops (d : Dev) (a : Nat) (bs : List Byte) : (d.wr a bs).ops = d.ops := rfl
@[simp] theorem Dev.wr_qm (d : Dev) (a : Nat) (bs : List Byte) : (d.wr a bs).qm = d.qm := rfl
@[simp] theorem Dev.wr_ctxs (d : Dev) (a : Nat) (bs : List Byte) : (d.wr a bs).ctxs = d.ctxs := rfl
@[simp] theorem Dev.wr_parts (d : Dev) (a : Nat) (bs : List Byte) : (d.wr a bs).parts = d.parts := rfl
@[simp] theorem Dev.wr_srv (d : Dev) (a : Nat) (bs : List Byte) : (d.wr a bs).srv = d.srv := rfl
@[simp] theorem Dev.wr_fus (d : Dev) (a : Nat) (bs : List Byte) : (d.wr a bs).fus = d.fus := rfl
@[simp] theorem Dev.wr_pl (d : Dev) (a : Nat) (bs : List Byte) : (d.wr a bs).pl = d.pl := rfl
@[simp] theorem Dev.wr_chA (d : Dev) (a : Nat) (bs : List Byte) : (d.wr a bs).chA = d.chA := rfl
@[simp] theorem Dev.wr_chB (d : Dev) (a : Nat) (bs : List Byte) : (d.wr a bs).chB = d.chB := rfl
@[simp] theorem Dev.wr_dram (d : Dev) (a : Nat) (bs : List Byte) : (d.wr a bs).dram = d.dram := rfl
@[simp] theorem Dev.wr_links (d : Dev) (a : Nat) (bs : List Byte) : (d.wr a bs).links = d.links := rfl
@[simp] theorem Dev.wr_pwr (d : Dev) (a : Nat) (bs : List Byte) : (d.wr a bs).pwr = d.pwr := rfl
@[simp] theorem Dev.wr_sec (d : Dev) (a : Nat) (bs : List Byte) : (d.wr a bs).sec = d.sec := rfl
@[simp] theorem Dev.wr_host (d : Dev) (a : Nat) (bs : List Byte) : (d.wr a bs).host = d.host := rfl
@[simp] theorem Dev.wr_log (d : Dev) (a : Nat) (bs : List Byte) : (d.wr a bs).log = d.log := rfl
@[simp] theorem Dev.wr_retire (d : Dev) (a : Nat) (bs : List Byte) : (d.wr a bs).retire = d.retire := rfl
@[simp] theorem Dev.wr_out (d : Dev) (a : Nat) (bs : List Byte) : (d.wr a bs).out = d.out := rfl
@[simp] theorem Dev.wr_free (d : Dev) (a : Nat) (bs : List Byte) : (d.wr a bs).free = d.free := rfl

@[simp] theorem Dev.wrN_time (d : Dev) (a n v : Nat) : (d.wrN a n v).time = d.time := Dev.wr_time ..
@[simp] theorem Dev.wrN_chip (d : Dev) (a n v : Nat) : (d.wrN a n v).chip = d.chip := Dev.wr_chip ..
@[simp] theorem Dev.wrN_regs (d : Dev) (a n v : Nat) : (d.wrN a n v).regs = d.regs := Dev.wr_regs ..
@[simp] theorem Dev.wrN_poison (d : Dev) (a n v : Nat) : (d.wrN a n v).poison = d.poison := Dev.wr_poison ..
@[simp] theorem Dev.wrN_enc (d : Dev) (a n v : Nat) : (d.wrN a n v).enc = d.enc := Dev.wr_enc ..
@[simp] theorem Dev.wrN_blocks (d : Dev) (a n v : Nat) : (d.wrN a n v).blocks = d.blocks := Dev.wr_blocks ..
@[simp] theorem Dev.wrN_tiles (d : Dev) (a n v : Nat) : (d.wrN a n v).tiles = d.tiles := Dev.wr_tiles ..
@[simp] theorem Dev.wrN_ops (d : Dev) (a n v : Nat) : (d.wrN a n v).ops = d.ops := Dev.wr_ops ..
@[simp] theorem Dev.wrN_qm (d : Dev) (a n v : Nat) : (d.wrN a n v).qm = d.qm := Dev.wr_qm ..
@[simp] theorem Dev.wrN_ctxs (d : Dev) (a n v : Nat) : (d.wrN a n v).ctxs = d.ctxs := Dev.wr_ctxs ..
@[simp] theorem Dev.wrN_parts (d : Dev) (a n v : Nat) : (d.wrN a n v).parts = d.parts := Dev.wr_parts ..
@[simp] theorem Dev.wrN_srv (d : Dev) (a n v : Nat) : (d.wrN a n v).srv = d.srv := Dev.wr_srv ..
@[simp] theorem Dev.wrN_fus (d : Dev) (a n v : Nat) : (d.wrN a n v).fus = d.fus := Dev.wr_fus ..
@[simp] theorem Dev.wrN_pl (d : Dev) (a n v : Nat) : (d.wrN a n v).pl = d.pl := Dev.wr_pl ..
@[simp] theorem Dev.wrN_chA (d : Dev) (a n v : Nat) : (d.wrN a n v).chA = d.chA := Dev.wr_chA ..
@[simp] theorem Dev.wrN_chB (d : Dev) (a n v : Nat) : (d.wrN a n v).chB = d.chB := Dev.wr_chB ..
@[simp] theorem Dev.wrN_dram (d : Dev) (a n v : Nat) : (d.wrN a n v).dram = d.dram := Dev.wr_dram ..
@[simp] theorem Dev.wrN_links (d : Dev) (a n v : Nat) : (d.wrN a n v).links = d.links := Dev.wr_links ..
@[simp] theorem Dev.wrN_pwr (d : Dev) (a n v : Nat) : (d.wrN a n v).pwr = d.pwr := Dev.wr_pwr ..
@[simp] theorem Dev.wrN_sec (d : Dev) (a n v : Nat) : (d.wrN a n v).sec = d.sec := Dev.wr_sec ..
@[simp] theorem Dev.wrN_host (d : Dev) (a n v : Nat) : (d.wrN a n v).host = d.host := Dev.wr_host ..
@[simp] theorem Dev.wrN_log (d : Dev) (a n v : Nat) : (d.wrN a n v).log = d.log := Dev.wr_log ..
@[simp] theorem Dev.wrN_retire (d : Dev) (a n v : Nat) : (d.wrN a n v).retire = d.retire := Dev.wr_retire ..
@[simp] theorem Dev.wrN_out (d : Dev) (a n v : Nat) : (d.wrN a n v).out = d.out := Dev.wr_out ..
@[simp] theorem Dev.wrN_free (d : Dev) (a n v : Nat) : (d.wrN a n v).free = d.free := Dev.wr_free ..

@[simp] theorem Dev.setPoison_time (d : Dev) (g : Nat) (p : Bool) : (d.setPoison g p).time = d.time := rfl
@[simp] theorem Dev.setPoison_chip (d : Dev) (g : Nat) (p : Bool) : (d.setPoison g p).chip = d.chip := rfl
@[simp] theorem Dev.setPoison_regs (d : Dev) (g : Nat) (p : Bool) : (d.setPoison g p).regs = d.regs := rfl
@[simp] theorem Dev.setPoison_mem (d : Dev) (g : Nat) (p : Bool) : (d.setPoison g p).mem = d.mem := rfl
@[simp] theorem Dev.setPoison_enc (d : Dev) (g : Nat) (p : Bool) : (d.setPoison g p).enc = d.enc := rfl
@[simp] theorem Dev.setPoison_blocks (d : Dev) (g : Nat) (p : Bool) : (d.setPoison g p).blocks = d.blocks := rfl
@[simp] theorem Dev.setPoison_tiles (d : Dev) (g : Nat) (p : Bool) : (d.setPoison g p).tiles = d.tiles := rfl
@[simp] theorem Dev.setPoison_ops (d : Dev) (g : Nat) (p : Bool) : (d.setPoison g p).ops = d.ops := rfl
@[simp] theorem Dev.setPoison_qm (d : Dev) (g : Nat) (p : Bool) : (d.setPoison g p).qm = d.qm := rfl
@[simp] theorem Dev.setPoison_ctxs (d : Dev) (g : Nat) (p : Bool) : (d.setPoison g p).ctxs = d.ctxs := rfl
@[simp] theorem Dev.setPoison_parts (d : Dev) (g : Nat) (p : Bool) : (d.setPoison g p).parts = d.parts := rfl
@[simp] theorem Dev.setPoison_srv (d : Dev) (g : Nat) (p : Bool) : (d.setPoison g p).srv = d.srv := rfl
@[simp] theorem Dev.setPoison_fus (d : Dev) (g : Nat) (p : Bool) : (d.setPoison g p).fus = d.fus := rfl
@[simp] theorem Dev.setPoison_pl (d : Dev) (g : Nat) (p : Bool) : (d.setPoison g p).pl = d.pl := rfl
@[simp] theorem Dev.setPoison_chA (d : Dev) (g : Nat) (p : Bool) : (d.setPoison g p).chA = d.chA := rfl
@[simp] theorem Dev.setPoison_chB (d : Dev) (g : Nat) (p : Bool) : (d.setPoison g p).chB = d.chB := rfl
@[simp] theorem Dev.setPoison_dram (d : Dev) (g : Nat) (p : Bool) : (d.setPoison g p).dram = d.dram := rfl
@[simp] theorem Dev.setPoison_links (d : Dev) (g : Nat) (p : Bool) : (d.setPoison g p).links = d.links := rfl
@[simp] theorem Dev.setPoison_pwr (d : Dev) (g : Nat) (p : Bool) : (d.setPoison g p).pwr = d.pwr := rfl
@[simp] theorem Dev.setPoison_sec (d : Dev) (g : Nat) (p : Bool) : (d.setPoison g p).sec = d.sec := rfl
@[simp] theorem Dev.setPoison_host (d : Dev) (g : Nat) (p : Bool) : (d.setPoison g p).host = d.host := rfl
@[simp] theorem Dev.setPoison_log (d : Dev) (g : Nat) (p : Bool) : (d.setPoison g p).log = d.log := rfl
@[simp] theorem Dev.setPoison_retire (d : Dev) (g : Nat) (p : Bool) : (d.setPoison g p).retire = d.retire := rfl
@[simp] theorem Dev.setPoison_out (d : Dev) (g : Nat) (p : Bool) : (d.setPoison g p).out = d.out := rfl
@[simp] theorem Dev.setPoison_free (d : Dev) (g : Nat) (p : Bool) : (d.setPoison g p).free = d.free := rfl

@[simp] theorem Dev.zero_time (d : Dev) (a n : Nat) : (d.zero a n).time = d.time := rfl
@[simp] theorem Dev.zero_chip (d : Dev) (a n : Nat) : (d.zero a n).chip = d.chip := rfl
@[simp] theorem Dev.zero_regs (d : Dev) (a n : Nat) : (d.zero a n).regs = d.regs := rfl
@[simp] theorem Dev.zero_enc (d : Dev) (a n : Nat) : (d.zero a n).enc = d.enc := rfl
@[simp] theorem Dev.zero_blocks (d : Dev) (a n : Nat) : (d.zero a n).blocks = d.blocks := rfl
@[simp] theorem Dev.zero_tiles (d : Dev) (a n : Nat) : (d.zero a n).tiles = d.tiles := rfl
@[simp] theorem Dev.zero_ops (d : Dev) (a n : Nat) : (d.zero a n).ops = d.ops := rfl
@[simp] theorem Dev.zero_qm (d : Dev) (a n : Nat) : (d.zero a n).qm = d.qm := rfl
@[simp] theorem Dev.zero_ctxs (d : Dev) (a n : Nat) : (d.zero a n).ctxs = d.ctxs := rfl
@[simp] theorem Dev.zero_parts (d : Dev) (a n : Nat) : (d.zero a n).parts = d.parts := rfl
@[simp] theorem Dev.zero_srv (d : Dev) (a n : Nat) : (d.zero a n).srv = d.srv := rfl
@[simp] theorem Dev.zero_fus (d : Dev) (a n : Nat) : (d.zero a n).fus = d.fus := rfl
@[simp] theorem Dev.zero_pl (d : Dev) (a n : Nat) : (d.zero a n).pl = d.pl := rfl
@[simp] theorem Dev.zero_chA (d : Dev) (a n : Nat) : (d.zero a n).chA = d.chA := rfl
@[simp] theorem Dev.zero_chB (d : Dev) (a n : Nat) : (d.zero a n).chB = d.chB := rfl
@[simp] theorem Dev.zero_dram (d : Dev) (a n : Nat) : (d.zero a n).dram = d.dram := rfl
@[simp] theorem Dev.zero_links (d : Dev) (a n : Nat) : (d.zero a n).links = d.links := rfl
@[simp] theorem Dev.zero_pwr (d : Dev) (a n : Nat) : (d.zero a n).pwr = d.pwr := rfl
@[simp] theorem Dev.zero_sec (d : Dev) (a n : Nat) : (d.zero a n).sec = d.sec := rfl
@[simp] theorem Dev.zero_host (d : Dev) (a n : Nat) : (d.zero a n).host = d.host := rfl
@[simp] theorem Dev.zero_log (d : Dev) (a n : Nat) : (d.zero a n).log = d.log := rfl
@[simp] theorem Dev.zero_retire (d : Dev) (a n : Nat) : (d.zero a n).retire = d.retire := rfl
@[simp] theorem Dev.zero_out (d : Dev) (a n : Nat) : (d.zero a n).out = d.out := rfl
@[simp] theorem Dev.zero_free (d : Dev) (a n : Nat) : (d.zero a n).free = d.free := rfl

@[simp] theorem Dev.copy_time (d : Dev) (src dst n : Nat) : (d.copy src dst n).time = d.time := rfl
@[simp] theorem Dev.copy_chip (d : Dev) (src dst n : Nat) : (d.copy src dst n).chip = d.chip := rfl
@[simp] theorem Dev.copy_regs (d : Dev) (src dst n : Nat) : (d.copy src dst n).regs = d.regs := rfl
@[simp] theorem Dev.copy_enc (d : Dev) (src dst n : Nat) : (d.copy src dst n).enc = d.enc := rfl
@[simp] theorem Dev.copy_blocks (d : Dev) (src dst n : Nat) : (d.copy src dst n).blocks = d.blocks := rfl
@[simp] theorem Dev.copy_tiles (d : Dev) (src dst n : Nat) : (d.copy src dst n).tiles = d.tiles := rfl
@[simp] theorem Dev.copy_ops (d : Dev) (src dst n : Nat) : (d.copy src dst n).ops = d.ops := rfl
@[simp] theorem Dev.copy_qm (d : Dev) (src dst n : Nat) : (d.copy src dst n).qm = d.qm := rfl
@[simp] theorem Dev.copy_ctxs (d : Dev) (src dst n : Nat) : (d.copy src dst n).ctxs = d.ctxs := rfl
@[simp] theorem Dev.copy_parts (d : Dev) (src dst n : Nat) : (d.copy src dst n).parts = d.parts := rfl
@[simp] theorem Dev.copy_srv (d : Dev) (src dst n : Nat) : (d.copy src dst n).srv = d.srv := rfl
@[simp] theorem Dev.copy_fus (d : Dev) (src dst n : Nat) : (d.copy src dst n).fus = d.fus := rfl
@[simp] theorem Dev.copy_pl (d : Dev) (src dst n : Nat) : (d.copy src dst n).pl = d.pl := rfl
@[simp] theorem Dev.copy_chA (d : Dev) (src dst n : Nat) : (d.copy src dst n).chA = d.chA := rfl
@[simp] theorem Dev.copy_chB (d : Dev) (src dst n : Nat) : (d.copy src dst n).chB = d.chB := rfl
@[simp] theorem Dev.copy_dram (d : Dev) (src dst n : Nat) : (d.copy src dst n).dram = d.dram := rfl
@[simp] theorem Dev.copy_links (d : Dev) (src dst n : Nat) : (d.copy src dst n).links = d.links := rfl
@[simp] theorem Dev.copy_pwr (d : Dev) (src dst n : Nat) : (d.copy src dst n).pwr = d.pwr := rfl
@[simp] theorem Dev.copy_sec (d : Dev) (src dst n : Nat) : (d.copy src dst n).sec = d.sec := rfl
@[simp] theorem Dev.copy_host (d : Dev) (src dst n : Nat) : (d.copy src dst n).host = d.host := rfl
@[simp] theorem Dev.copy_log (d : Dev) (src dst n : Nat) : (d.copy src dst n).log = d.log := rfl
@[simp] theorem Dev.copy_retire (d : Dev) (src dst n : Nat) : (d.copy src dst n).retire = d.retire := rfl
@[simp] theorem Dev.copy_out (d : Dev) (src dst n : Nat) : (d.copy src dst n).out = d.out := rfl
@[simp] theorem Dev.copy_free (d : Dev) (src dst n : Nat) : (d.copy src dst n).free = d.free := rfl

@[simp] theorem Dev.peak_time (d : Dev) (n : Nat) : (d.peak n).time = d.time := Dev.setFld_time ..
@[simp] theorem Dev.peak_chip (d : Dev) (n : Nat) : (d.peak n).chip = d.chip := Dev.setFld_chip ..
@[simp] theorem Dev.peak_mem (d : Dev) (n : Nat) : (d.peak n).mem = d.mem := Dev.setFld_mem ..
@[simp] theorem Dev.peak_poison (d : Dev) (n : Nat) : (d.peak n).poison = d.poison := Dev.setFld_poison ..
@[simp] theorem Dev.peak_enc (d : Dev) (n : Nat) : (d.peak n).enc = d.enc := Dev.setFld_enc ..
@[simp] theorem Dev.peak_blocks (d : Dev) (n : Nat) : (d.peak n).blocks = d.blocks := Dev.setFld_blocks ..
@[simp] theorem Dev.peak_tiles (d : Dev) (n : Nat) : (d.peak n).tiles = d.tiles := Dev.setFld_tiles ..
@[simp] theorem Dev.peak_ops (d : Dev) (n : Nat) : (d.peak n).ops = d.ops := Dev.setFld_ops ..
@[simp] theorem Dev.peak_qm (d : Dev) (n : Nat) : (d.peak n).qm = d.qm := Dev.setFld_qm ..
@[simp] theorem Dev.peak_ctxs (d : Dev) (n : Nat) : (d.peak n).ctxs = d.ctxs := Dev.setFld_ctxs ..
@[simp] theorem Dev.peak_parts (d : Dev) (n : Nat) : (d.peak n).parts = d.parts := Dev.setFld_parts ..
@[simp] theorem Dev.peak_srv (d : Dev) (n : Nat) : (d.peak n).srv = d.srv := Dev.setFld_srv ..
@[simp] theorem Dev.peak_fus (d : Dev) (n : Nat) : (d.peak n).fus = d.fus := Dev.setFld_fus ..
@[simp] theorem Dev.peak_pl (d : Dev) (n : Nat) : (d.peak n).pl = d.pl := Dev.setFld_pl ..
@[simp] theorem Dev.peak_chA (d : Dev) (n : Nat) : (d.peak n).chA = d.chA := Dev.setFld_chA ..
@[simp] theorem Dev.peak_chB (d : Dev) (n : Nat) : (d.peak n).chB = d.chB := Dev.setFld_chB ..
@[simp] theorem Dev.peak_dram (d : Dev) (n : Nat) : (d.peak n).dram = d.dram := Dev.setFld_dram ..
@[simp] theorem Dev.peak_links (d : Dev) (n : Nat) : (d.peak n).links = d.links := Dev.setFld_links ..
@[simp] theorem Dev.peak_pwr (d : Dev) (n : Nat) : (d.peak n).pwr = d.pwr := Dev.setFld_pwr ..
@[simp] theorem Dev.peak_sec (d : Dev) (n : Nat) : (d.peak n).sec = d.sec := Dev.setFld_sec ..
@[simp] theorem Dev.peak_host (d : Dev) (n : Nat) : (d.peak n).host = d.host := Dev.setFld_host ..
@[simp] theorem Dev.peak_log (d : Dev) (n : Nat) : (d.peak n).log = d.log := Dev.setFld_log ..
@[simp] theorem Dev.peak_retire (d : Dev) (n : Nat) : (d.peak n).retire = d.retire := Dev.setFld_retire ..
@[simp] theorem Dev.peak_out (d : Dev) (n : Nat) : (d.peak n).out = d.out := Dev.setFld_out ..
@[simp] theorem Dev.peak_free (d : Dev) (n : Nat) : (d.peak n).free = d.free := Dev.setFld_free ..

@[simp] theorem Dev.settle_time (d : Dev) (k st : Nat) : (d.settle k st).time = d.time := Dev.modOp_time ..
@[simp] theorem Dev.settle_chip (d : Dev) (k st : Nat) : (d.settle k st).chip = d.chip := Dev.modOp_chip ..
@[simp] theorem Dev.settle_regs (d : Dev) (k st : Nat) : (d.settle k st).regs = d.regs := Dev.modOp_regs ..
@[simp] theorem Dev.settle_mem (d : Dev) (k st : Nat) : (d.settle k st).mem = d.mem := Dev.modOp_mem ..
@[simp] theorem Dev.settle_poison (d : Dev) (k st : Nat) : (d.settle k st).poison = d.poison := Dev.modOp_poison ..
@[simp] theorem Dev.settle_enc (d : Dev) (k st : Nat) : (d.settle k st).enc = d.enc := Dev.modOp_enc ..
@[simp] theorem Dev.settle_blocks (d : Dev) (k st : Nat) : (d.settle k st).blocks = d.blocks := Dev.modOp_blocks ..
@[simp] theorem Dev.settle_tiles (d : Dev) (k st : Nat) : (d.settle k st).tiles = d.tiles := Dev.modOp_tiles ..
@[simp] theorem Dev.settle_qm (d : Dev) (k st : Nat) : (d.settle k st).qm = d.qm := Dev.modOp_qm ..
@[simp] theorem Dev.settle_ctxs (d : Dev) (k st : Nat) : (d.settle k st).ctxs = d.ctxs := Dev.modOp_ctxs ..
@[simp] theorem Dev.settle_parts (d : Dev) (k st : Nat) : (d.settle k st).parts = d.parts := Dev.modOp_parts ..
@[simp] theorem Dev.settle_srv (d : Dev) (k st : Nat) : (d.settle k st).srv = d.srv := Dev.modOp_srv ..
@[simp] theorem Dev.settle_fus (d : Dev) (k st : Nat) : (d.settle k st).fus = d.fus := Dev.modOp_fus ..
@[simp] theorem Dev.settle_pl (d : Dev) (k st : Nat) : (d.settle k st).pl = d.pl := Dev.modOp_pl ..
@[simp] theorem Dev.settle_chA (d : Dev) (k st : Nat) : (d.settle k st).chA = d.chA := Dev.modOp_chA ..
@[simp] theorem Dev.settle_chB (d : Dev) (k st : Nat) : (d.settle k st).chB = d.chB := Dev.modOp_chB ..
@[simp] theorem Dev.settle_dram (d : Dev) (k st : Nat) : (d.settle k st).dram = d.dram := Dev.modOp_dram ..
@[simp] theorem Dev.settle_links (d : Dev) (k st : Nat) : (d.settle k st).links = d.links := Dev.modOp_links ..
@[simp] theorem Dev.settle_pwr (d : Dev) (k st : Nat) : (d.settle k st).pwr = d.pwr := Dev.modOp_pwr ..
@[simp] theorem Dev.settle_sec (d : Dev) (k st : Nat) : (d.settle k st).sec = d.sec := Dev.modOp_sec ..
@[simp] theorem Dev.settle_host (d : Dev) (k st : Nat) : (d.settle k st).host = d.host := Dev.modOp_host ..
@[simp] theorem Dev.settle_log (d : Dev) (k st : Nat) : (d.settle k st).log = d.log := Dev.modOp_log ..
@[simp] theorem Dev.settle_retire (d : Dev) (k st : Nat) : (d.settle k st).retire = d.retire := Dev.modOp_retire ..
@[simp] theorem Dev.settle_out (d : Dev) (k st : Nat) : (d.settle k st).out = d.out := Dev.modOp_out ..
@[simp] theorem Dev.settle_free (d : Dev) (k st : Nat) : (d.settle k st).free = d.free := Dev.modOp_free ..

@[simp] theorem Dev.hostWrite_time (d : Dev) (a : Nat) (bs : List Byte) : (d.hostWrite a bs).time = d.time := rfl
@[simp] theorem Dev.hostWrite_chip (d : Dev) (a : Nat) (bs : List Byte) : (d.hostWrite a bs).chip = d.chip := rfl
@[simp] theorem Dev.hostWrite_regs (d : Dev) (a : Nat) (bs : List Byte) : (d.hostWrite a bs).regs = d.regs := rfl
@[simp] theorem Dev.hostWrite_mem (d : Dev) (a : Nat) (bs : List Byte) : (d.hostWrite a bs).mem = d.mem := rfl
@[simp] theorem Dev.hostWrite_poison (d : Dev) (a : Nat) (bs : List Byte) : (d.hostWrite a bs).poison = d.poison := rfl
@[simp] theorem Dev.hostWrite_enc (d : Dev) (a : Nat) (bs : List Byte) : (d.hostWrite a bs).enc = d.enc := rfl
@[simp] theorem Dev.hostWrite_blocks (d : Dev) (a : Nat) (bs : List Byte) : (d.hostWrite a bs).blocks = d.blocks := rfl
@[simp] theorem Dev.hostWrite_tiles (d : Dev) (a : Nat) (bs : List Byte) : (d.hostWrite a bs).tiles = d.tiles := rfl
@[simp] theorem Dev.hostWrite_ops (d : Dev) (a : Nat) (bs : List Byte) : (d.hostWrite a bs).ops = d.ops := rfl
@[simp] theorem Dev.hostWrite_qm (d : Dev) (a : Nat) (bs : List Byte) : (d.hostWrite a bs).qm = d.qm := rfl
@[simp] theorem Dev.hostWrite_ctxs (d : Dev) (a : Nat) (bs : List Byte) : (d.hostWrite a bs).ctxs = d.ctxs := rfl
@[simp] theorem Dev.hostWrite_parts (d : Dev) (a : Nat) (bs : List Byte) : (d.hostWrite a bs).parts = d.parts := rfl
@[simp] theorem Dev.hostWrite_srv (d : Dev) (a : Nat) (bs : List Byte) : (d.hostWrite a bs).srv = d.srv := rfl
@[simp] theorem Dev.hostWrite_fus (d : Dev) (a : Nat) (bs : List Byte) : (d.hostWrite a bs).fus = d.fus := rfl
@[simp] theorem Dev.hostWrite_pl (d : Dev) (a : Nat) (bs : List Byte) : (d.hostWrite a bs).pl = d.pl := rfl
@[simp] theorem Dev.hostWrite_chA (d : Dev) (a : Nat) (bs : List Byte) : (d.hostWrite a bs).chA = d.chA := rfl
@[simp] theorem Dev.hostWrite_chB (d : Dev) (a : Nat) (bs : List Byte) : (d.hostWrite a bs).chB = d.chB := rfl
@[simp] theorem Dev.hostWrite_dram (d : Dev) (a : Nat) (bs : List Byte) : (d.hostWrite a bs).dram = d.dram := rfl
@[simp] theorem Dev.hostWrite_links (d : Dev) (a : Nat) (bs : List Byte) : (d.hostWrite a bs).links = d.links := rfl
@[simp] theorem Dev.hostWrite_pwr (d : Dev) (a : Nat) (bs : List Byte) : (d.hostWrite a bs).pwr = d.pwr := rfl
@[simp] theorem Dev.hostWrite_sec (d : Dev) (a : Nat) (bs : List Byte) : (d.hostWrite a bs).sec = d.sec := rfl
@[simp] theorem Dev.hostWrite_host (d : Dev) (a : Nat) (bs : List Byte) : (d.hostWrite a bs).host = d.host := rfl
@[simp] theorem Dev.hostWrite_log (d : Dev) (a : Nat) (bs : List Byte) : (d.hostWrite a bs).log = d.log := rfl
@[simp] theorem Dev.hostWrite_retire (d : Dev) (a : Nat) (bs : List Byte) : (d.hostWrite a bs).retire = d.retire := rfl
@[simp] theorem Dev.hostWrite_free (d : Dev) (a : Nat) (bs : List Byte) : (d.hostWrite a bs).free = d.free := rfl

@[simp] theorem Dev.modIsl_time (d : Dev) (i : Isl) (f : Island → Island) : (d.modIsl i f).time = d.time := by cases i <;> rfl
@[simp] theorem Dev.modIsl_chip (d : Dev) (i : Isl) (f : Island → Island) : (d.modIsl i f).chip = d.chip := by cases i <;> rfl
@[simp] theorem Dev.modIsl_regs (d : Dev) (i : Isl) (f : Island → Island) : (d.modIsl i f).regs = d.regs := by cases i <;> rfl
@[simp] theorem Dev.modIsl_mem (d : Dev) (i : Isl) (f : Island → Island) : (d.modIsl i f).mem = d.mem := by cases i <;> rfl
@[simp] theorem Dev.modIsl_poison (d : Dev) (i : Isl) (f : Island → Island) : (d.modIsl i f).poison = d.poison := by cases i <;> rfl
@[simp] theorem Dev.modIsl_enc (d : Dev) (i : Isl) (f : Island → Island) : (d.modIsl i f).enc = d.enc := by cases i <;> rfl
@[simp] theorem Dev.modIsl_blocks (d : Dev) (i : Isl) (f : Island → Island) : (d.modIsl i f).blocks = d.blocks := by cases i <;> rfl
@[simp] theorem Dev.modIsl_tiles (d : Dev) (i : Isl) (f : Island → Island) : (d.modIsl i f).tiles = d.tiles := by cases i <;> rfl
@[simp] theorem Dev.modIsl_ops (d : Dev) (i : Isl) (f : Island → Island) : (d.modIsl i f).ops = d.ops := by cases i <;> rfl
@[simp] theorem Dev.modIsl_qm (d : Dev) (i : Isl) (f : Island → Island) : (d.modIsl i f).qm = d.qm := by cases i <;> rfl
@[simp] theorem Dev.modIsl_ctxs (d : Dev) (i : Isl) (f : Island → Island) : (d.modIsl i f).ctxs = d.ctxs := by cases i <;> rfl
@[simp] theorem Dev.modIsl_parts (d : Dev) (i : Isl) (f : Island → Island) : (d.modIsl i f).parts = d.parts := by cases i <;> rfl
@[simp] theorem Dev.modIsl_srv (d : Dev) (i : Isl) (f : Island → Island) : (d.modIsl i f).srv = d.srv := by cases i <;> rfl
@[simp] theorem Dev.modIsl_fus (d : Dev) (i : Isl) (f : Island → Island) : (d.modIsl i f).fus = d.fus := by cases i <;> rfl
@[simp] theorem Dev.modIsl_pl (d : Dev) (i : Isl) (f : Island → Island) : (d.modIsl i f).pl = d.pl := by cases i <;> rfl
@[simp] theorem Dev.modIsl_dram (d : Dev) (i : Isl) (f : Island → Island) : (d.modIsl i f).dram = d.dram := by cases i <;> rfl
@[simp] theorem Dev.modIsl_links (d : Dev) (i : Isl) (f : Island → Island) : (d.modIsl i f).links = d.links := by cases i <;> rfl
@[simp] theorem Dev.modIsl_pwr (d : Dev) (i : Isl) (f : Island → Island) : (d.modIsl i f).pwr = d.pwr := by cases i <;> rfl
@[simp] theorem Dev.modIsl_sec (d : Dev) (i : Isl) (f : Island → Island) : (d.modIsl i f).sec = d.sec := by cases i <;> rfl
@[simp] theorem Dev.modIsl_host (d : Dev) (i : Isl) (f : Island → Island) : (d.modIsl i f).host = d.host := by cases i <;> rfl
@[simp] theorem Dev.modIsl_log (d : Dev) (i : Isl) (f : Island → Island) : (d.modIsl i f).log = d.log := by cases i <;> rfl
@[simp] theorem Dev.modIsl_retire (d : Dev) (i : Isl) (f : Island → Island) : (d.modIsl i f).retire = d.retire := by cases i <;> rfl
@[simp] theorem Dev.modIsl_out (d : Dev) (i : Isl) (f : Island → Island) : (d.modIsl i f).out = d.out := by cases i <;> rfl
@[simp] theorem Dev.modIsl_free (d : Dev) (i : Isl) (f : Island → Island) : (d.modIsl i f).free = d.free := by cases i <;> rfl
@[simp] theorem Dev.fresh_time (d : Dev) : d.fresh.2.time = d.time := rfl
@[simp] theorem Dev.fresh_chip (d : Dev) : d.fresh.2.chip = d.chip := rfl
@[simp] theorem Dev.fresh_regs (d : Dev) : d.fresh.2.regs = d.regs := rfl
@[simp] theorem Dev.fresh_mem (d : Dev) : d.fresh.2.mem = d.mem := rfl
@[simp] theorem Dev.fresh_poison (d : Dev) : d.fresh.2.poison = d.poison := rfl
@[simp] theorem Dev.fresh_enc (d : Dev) : d.fresh.2.enc = d.enc := rfl
@[simp] theorem Dev.fresh_blocks (d : Dev) : d.fresh.2.blocks = d.blocks := rfl
@[simp] theorem Dev.fresh_tiles (d : Dev) : d.fresh.2.tiles = d.tiles := rfl
@[simp] theorem Dev.fresh_ops (d : Dev) : d.fresh.2.ops = d.ops := rfl
@[simp] theorem Dev.fresh_qm (d : Dev) : d.fresh.2.qm = d.qm := rfl
@[simp] theorem Dev.fresh_ctxs (d : Dev) : d.fresh.2.ctxs = d.ctxs := rfl
@[simp] theorem Dev.fresh_parts (d : Dev) : d.fresh.2.parts = d.parts := rfl
@[simp] theorem Dev.fresh_srv (d : Dev) : d.fresh.2.srv = d.srv := rfl
@[simp] theorem Dev.fresh_fus (d : Dev) : d.fresh.2.fus = d.fus := rfl
@[simp] theorem Dev.fresh_pl (d : Dev) : d.fresh.2.pl = d.pl := rfl
@[simp] theorem Dev.fresh_chA (d : Dev) : d.fresh.2.chA = d.chA := rfl
@[simp] theorem Dev.fresh_chB (d : Dev) : d.fresh.2.chB = d.chB := rfl
@[simp] theorem Dev.fresh_dram (d : Dev) : d.fresh.2.dram = d.dram := rfl
@[simp] theorem Dev.fresh_links (d : Dev) : d.fresh.2.links = d.links := rfl
@[simp] theorem Dev.fresh_pwr (d : Dev) : d.fresh.2.pwr = d.pwr := rfl
@[simp] theorem Dev.fresh_sec (d : Dev) : d.fresh.2.sec = d.sec := rfl
@[simp] theorem Dev.fresh_host (d : Dev) : d.fresh.2.host = d.host := rfl
@[simp] theorem Dev.fresh_log (d : Dev) : d.fresh.2.log = d.log := rfl
@[simp] theorem Dev.fresh_retire (d : Dev) : d.fresh.2.retire = d.retire := rfl
@[simp] theorem Dev.fresh_out (d : Dev) : d.fresh.2.out = d.out := rfl

/-! ## What an update stores -/

@[simp] theorem Dev.blk_setBlk_self (d : Dev) (n : Nat) (v : Block) : (d.setBlk n v).blk n = v := tget_tset_self ..
theorem Dev.blk_setBlk_ne (d : Dev) {n m : Nat} (v : Block) (h : m ≠ n) : (d.setBlk n v).blk m = d.blk m := tget_tset_ne _ _ _ h
@[simp] theorem Dev.blk_modBlk_self (d : Dev) (n : Nat) (f : Block → Block) : (d.modBlk n f).blk n = f (d.blk n) := tget_tset_self ..
theorem Dev.blk_modBlk_ne (d : Dev) {n m : Nat} (f : Block → Block) (h : m ≠ n) : (d.modBlk n f).blk m = d.blk m := tget_tset_ne _ _ _ h
@[simp] theorem Dev.tile_setTile_self (d : Dev) (n : Nat) (v : Tile) : (d.setTile n v).tile n = v := tget_tset_self ..
theorem Dev.tile_setTile_ne (d : Dev) {n m : Nat} (v : Tile) (h : m ≠ n) : (d.setTile n v).tile m = d.tile m := tget_tset_ne _ _ _ h
@[simp] theorem Dev.tile_modTile_self (d : Dev) (n : Nat) (f : Tile → Tile) : (d.modTile n f).tile n = f (d.tile n) := tget_tset_self ..
theorem Dev.tile_modTile_ne (d : Dev) {n m : Nat} (f : Tile → Tile) (h : m ≠ n) : (d.modTile n f).tile m = d.tile m := tget_tset_ne _ _ _ h
@[simp] theorem Dev.op_setOp_self (d : Dev) (n : Nat) (v : Op) : (d.setOp n v).op n = v := tget_tset_self ..
theorem Dev.op_setOp_ne (d : Dev) {n m : Nat} (v : Op) (h : m ≠ n) : (d.setOp n v).op m = d.op m := tget_tset_ne _ _ _ h
@[simp] theorem Dev.op_modOp_self (d : Dev) (n : Nat) (f : Op → Op) : (d.modOp n f).op n = f (d.op n) := tget_tset_self ..
theorem Dev.op_modOp_ne (d : Dev) {n m : Nat} (f : Op → Op) (h : m ≠ n) : (d.modOp n f).op m = d.op m := tget_tset_ne _ _ _ h
@[simp] theorem Dev.ctx_setCtx_self (d : Dev) (n : Nat) (v : Ctx) : (d.setCtx n v).ctx n = v := tget_tset_self ..
theorem Dev.ctx_setCtx_ne (d : Dev) {n m : Nat} (v : Ctx) (h : m ≠ n) : (d.setCtx n v).ctx m = d.ctx m := tget_tset_ne _ _ _ h
@[simp] theorem Dev.ctx_modCtx_self (d : Dev) (n : Nat) (f : Ctx → Ctx) : (d.modCtx n f).ctx n = f (d.ctx n) := tget_tset_self ..
theorem Dev.ctx_modCtx_ne (d : Dev) {n m : Nat} (f : Ctx → Ctx) (h : m ≠ n) : (d.modCtx n f).ctx m = d.ctx m := tget_tset_ne _ _ _ h
@[simp] theorem Dev.part_setPart_self (d : Dev) (n : Nat) (v : Part) : (d.setPart n v).part n = v := tget_tset_self ..
theorem Dev.part_setPart_ne (d : Dev) {n m : Nat} (v : Part) (h : m ≠ n) : (d.setPart n v).part m = d.part m := tget_tset_ne _ _ _ h
@[simp] theorem Dev.part_modPart_self (d : Dev) (n : Nat) (f : Part → Part) : (d.modPart n f).part n = f (d.part n) := tget_tset_self ..
theorem Dev.part_modPart_ne (d : Dev) {n m : Nat} (f : Part → Part) (h : m ≠ n) : (d.modPart n f).part m = d.part m := tget_tset_ne _ _ _ h

theorem Dev.reg_setReg_self (d : Dev) (o v : Nat) : (d.setReg o v).reg o = v % 2 ^ 32 := by
  simp [Dev.reg, Dev.setReg, tget_tset_self]
theorem Dev.reg_setReg_ne (d : Dev) {o p : Nat} (v : Nat) (h : p ≠ o) : (d.setReg o v).reg p = d.reg p := by
  simp [Dev.reg, Dev.setReg, tget_tset_ne _ _ _ h]
theorem Dev.reg_setFld_ne (d : Dev) {o p : Nat} (lo n v : Nat) (h : p ≠ o) :
    (d.setFld o lo n v).reg p = d.reg p := Dev.reg_setReg_ne d _ h
theorem Dev.reg_bump_ne (d : Dev) {o p : Nat} (n : Nat) (h : p ≠ o) : (d.bump o n).reg p = d.reg p :=
  Dev.reg_setReg_ne d _ h
theorem Dev.reg_lt (d : Dev) (o : Nat) : d.reg o < 2 ^ 32 := (tget regReset d.regs o).isLt
theorem Dev.reg_bump_self (d : Dev) (o n : Nat) : (d.bump o n).reg o = satAdd 0xFFFFFFFF (d.reg o) n := by
  rw [Dev.bump, Dev.reg_setReg_self, Nat.mod_eq_of_lt]; unfold satAdd; omega

end Sys2Proof.Machine
end

