-- ==== Sys2Proof/Laws/Ops.lean ====
section
/-! SUPPORT. For each shared operation one lemma that says which parts of the device it can change, and
what it leaves of the parts it touches. -/

namespace Sys2Proof.Machine

/-! ## The frame relation -/

theorem kept_refl (p : List DevField) (d : Dev) : Kept p d d := by
  constructor; intro f _; cases f <;> rfl

theorem Kept_trans {p : List DevField} {a b c : Dev} (h : Kept p a b) (k : Kept p b c) : Kept p a c := by
  constructor
  intro f hf
  have h := h.same f hf
  have k := k.same f hf
  cases f <;> exact k.trans h

theorem Kept_mono {p q : List DevField} {a b : Dev} (h : Kept p a b) (hs : ∀ f ∈ p, f ∈ q) : Kept q a b :=
  ⟨fun f hf => h.same f fun hp => hf (hs f hp)⟩

theorem kept_foldl {α : Type} {p : List DevField} {f : Dev → α → Dev} (h : ∀ d x, Kept p d (f d x))
    (l : List α) (d : Dev) : Kept p d (l.foldl f d) := by
  induction l generalizing d with
  | nil => exact kept_refl p d
  | cons x t ih => exact Kept_trans (h d x) (ih (f d x))

theorem kept_setBlk (d : Dev) (b : Nat) (v : Block) : Kept [.blocks] d (d.setBlk b v) := by
  constructor; intro f hf; cases f <;> first | rfl | exact absurd (List.mem_cons_self ..) hf
theorem kept_modBlk (d : Dev) (b : Nat) (f : Block → Block) : Kept [.blocks] d (d.modBlk b f) := kept_setBlk ..
theorem kept_modThr (d : Dev) (b n : Nat) (f : Thread → Thread) : Kept [.blocks] d (d.modThr b n f) := kept_setBlk ..
theorem kept_setTile (d : Dev) (n : Nat) (v : Tile) : Kept [.tiles] d (d.setTile n v) := by
  constructor; intro f hf; cases f <;> first | rfl | exact absurd (List.mem_cons_self ..) hf
theorem kept_modTile (d : Dev) (n : Nat) (f : Tile → Tile) : Kept [.tiles] d (d.modTile n f) := kept_setTile ..
theorem kept_setOp (d : Dev) (n : Nat) (v : Op) : Kept [.ops] d (d.setOp n v) := by
  constructor; intro f hf; cases f <;> first | rfl | exact absurd (List.mem_cons_self ..) hf
theorem kept_modOp (d : Dev) (n : Nat) (f : Op → Op) : Kept [.ops] d (d.modOp n f) := kept_setOp ..
theorem kept_setCtx (d : Dev) (n : Nat) (v : Ctx) : Kept [.ctxs] d (d.setCtx n v) := by
  constructor; intro f hf; cases f <;> first | rfl | exact absurd (List.mem_cons_self ..) hf
theorem kept_modCtx (d : Dev) (n : Nat) (f : Ctx → Ctx) : Kept [.ctxs] d (d.modCtx n f) := kept_setCtx ..
theorem kept_setPart (d : Dev) (n : Nat) (v : Part) : Kept [.parts] d (d.setPart n v) := by
  constructor; intro f hf; cases f <;> first | rfl | exact absurd (List.mem_cons_self ..) hf
theorem kept_modPart (d : Dev) (n : Nat) (f : Part → Part) : Kept [.parts] d (d.modPart n f) := kept_setPart ..
theorem kept_setReg (d : Dev) (o v : Nat) : Kept [.regs] d (d.setReg o v) := by
  constructor; intro f hf; cases f <;> first | rfl | exact absurd (List.mem_cons_self ..) hf
theorem kept_setFld (d : Dev) (o l n v : Nat) : Kept [.regs] d (d.setFld o l n v) := kept_setReg ..
theorem kept_bump (d : Dev) (o n : Nat) : Kept [.regs] d (d.bump o n) := kept_setReg ..
theorem kept_bump16 (d : Dev) (o l : Nat) : Kept [.regs] d (d.bump16 o l) := kept_setReg ..
theorem kept_peak (d : Dev) (n : Nat) : Kept [.regs] d (d.peak n) := kept_setReg ..
theorem kept_emit (d : Dev) (o : Out) : Kept [.out] d (d.emit o) := by
  constructor; intro f hf; cases f <;> first | rfl | exact absurd (List.mem_cons_self ..) hf
theorem kept_hostWrite (d : Dev) (a : Nat) (bs : List Byte) : Kept [.out] d (d.hostWrite a bs) := by
  constructor; intro f hf; cases f <;> first | rfl | exact absurd (List.mem_cons_self ..) hf
theorem kept_fresh (d : Dev) : Kept [.free] d d.fresh.2 := by
  constructor; intro f hf; cases f <;> first | rfl | exact absurd (List.mem_cons_self ..) hf
theorem kept_wr (d : Dev) (a : Nat) (bs : List Byte) : Kept [.mem] d (d.wr a bs) := by
  constructor; intro f hf; cases f <;> first | rfl | exact absurd (List.mem_cons_self ..) hf
theorem kept_setPoison (d : Dev) (g : Nat) (p : Bool) : Kept [.poison] d (d.setPoison g p) := by
  constructor; intro f hf; cases f <;> first | rfl | exact absurd (List.mem_cons_self ..) hf
theorem kept_zero (d : Dev) (a n : Nat) : Kept [.mem, .poison] d (d.zero a n) := by
  constructor; intro f hf; cases f <;> first | rfl | simp at hf
theorem kept_copy (d : Dev) (s a n : Nat) : Kept [.mem, .poison] d (d.copy s a n) := by
  constructor; intro f hf; cases f <;> first | rfl | simp at hf
theorem kept_settle (d : Dev) (k st : Nat) : Kept [.ops] d (d.settle k st) := kept_modOp ..
theorem kept_modIsl (d : Dev) (i : Isl) (f : Island → Island) : Kept [.chA, .chB] d (d.modIsl i f) := by
  constructor; intro g hg; cases i <;> cases g <;> first | rfl | simp at hg

/-! ## Memory and poison -/

/-- `poisonRange` changes poison alone. -/
theorem kept_poisonRange (d : Dev) (a n : Nat) : Kept [.poison] d (d.poisonRange a n) :=
  kept_foldl (fun d g => kept_setPoison d g true) _ d

/-- `store` changes memory and poison alone. -/
theorem kept_store (d : Dev) (a : Nat) (bs : List Byte) (c : Bool) : Kept [.mem, .poison] d (d.store a bs c) := by
  refine Kept_trans (Kept_mono (kept_wr d a bs) (by decide)) (kept_foldl (fun d g => ?_) _ _)
  split
  · exact Kept_mono (kept_setPoison ..) (by decide)
  · split
    · exact Kept_mono (kept_setPoison ..) (by decide)
    · exact kept_refl ..

theorem foldl_mem {α : Type} {f : Dev → α → Dev} (h : ∀ d x, (f d x).mem = d.mem) (l : List α) (d : Dev) :
    (l.foldl f d).mem = d.mem := by
  induction l generalizing d with
  | nil => rfl
  | cons x t ih => exact (ih _).trans (h d x)

/-- The memory a store leaves is that of writing its bytes. -/
@[simp] theorem store_mem (d : Dev) (a : Nat) (bs : List Byte) (c : Bool) : (d.store a bs c).mem = memPut d.mem a bs := by
  refine (foldl_mem (fun d g => ?_) _ _).trans rfl
  split
  · rfl
  · split <;> rfl

/-- A store leaves every byte outside the bytes stored. -/
theorem store_memBut (d : Dev) (a : Nat) (bs : List Byte) (c : Bool) : MemBut a bs.length d (d.store a bs c) := by
  intro x hx
  have h := wr_rd_ne d a x bs hx
  simpa [Dev.rd, Dev.wr] using h

/-- `store` keeps the canonical form. -/
theorem store_ok {d : Dev} (h : MemOk d) (a : Nat) (bs : List Byte) (c : Bool) : MemOk (d.store a bs c) := by
  unfold MemOk at *; rw [store_mem]; exact twf_memPut h a bs

/-- `storeAs` changes memory, poison and the encryption marks alone. -/
theorem kept_storeAs (d : Dev) (p a : Nat) (bs : List Byte) (c : Bool) :
    Kept [.mem, .poison, .enc] d (d.storeAs p a bs c) := by
  unfold Dev.storeAs
  refine Kept_trans (Kept_mono (kept_store d a bs c) (by decide)) ?_
  dsimp only
  split
  · constructor; intro f hf; cases f <;> first | rfl | simp at hf
  · exact kept_refl ..

@[simp] theorem storeAs_mem (d : Dev) (p a : Nat) (bs : List Byte) (c : Bool) :
    (d.storeAs p a bs c).mem = memPut d.mem a bs := by
  unfold Dev.storeAs; dsimp only; split <;> exact store_mem ..

/-- `storeAs` keeps the canonical form. -/
theorem storeAs_ok {d : Dev} (h : MemOk d) (p a : Nat) (bs : List Byte) (c : Bool) : MemOk (d.storeAs p a bs c) := by
  unfold MemOk at *; rw [storeAs_mem]; exact twf_memPut h a bs

/-- `storeAs` leaves every byte outside the bytes stored. -/
theorem storeAs_memBut (d : Dev) (p a : Nat) (bs : List Byte) (c : Bool) :
    MemBut a bs.length d (d.storeAs p a bs c) := by
  intro x hx
  have h := wr_rd_ne d a x bs hx
  simpa [Dev.rd, Dev.wr] using h

/-- The bytes stored read back. -/
theorem storeAs_holds (d : Dev) (p a : Nat) (bs : List Byte) (c : Bool) : Holds (d.storeAs p a bs c) a bs := by
  intro i h
  have : a ≤ a + i ∧ a + i < a + bs.length := by omega
  simp [Dev.rd, tget_memPut, this, h]

/-! ## Event records -/

theorem kept_askSafe (d : Dev) (i : Isl) (c : Nat) : Kept [.chA, .chB] d (d.askSafe i c) := kept_modIsl ..
theorem kept_safeReq (d : Dev) (c : Nat) : Kept [.chA, .chB] d (d.safeReq c) :=
  Kept_trans (kept_askSafe ..) (kept_askSafe ..)

/-- `logRec` changes the log, and the counter of lost records. -/
theorem kept_logRec (d : Dev) (r : EventRecord) : Kept [.regs, .log] d (d.logRec r) := by
  unfold Dev.logRec
  dsimp only
  split
  · constructor; intro f hf; cases f <;> first | rfl | simp at hf
  · constructor; intro f hf; cases f <;> first | rfl | simp at hf

theorem logRec_wrote (d : Dev) (r : EventRecord) : Wrote d (d.logRec r) r := by
  unfold Dev.logRec
  dsimp only
  split
  · exact ⟨rfl, fun _ => ⟨rfl, rfl⟩, fun h => absurd h (by omega)⟩
  · exact ⟨by simp, fun h => absurd h (by omega), fun _ => ⟨by simp, by simp⟩⟩

theorem logRec_reg (d : Dev) (r : EventRecord) : RegsBut [R.hpEvlogLost] d (d.logRec r) := by
  intro o ho
  unfold Dev.logRec
  dsimp only
  split
  · rfl
  · exact Dev.reg_bump_ne _ _ (by simpa using ho)

/-- An event record changes the log, the counter of lost records and what the islands have heard. -/
theorem kept_event (d : Dev) (cls code rg bl : Nat) (dt : List Nat) (p c : Nat) :
    Kept [.regs, .chA, .chB, .log] d (d.event cls code rg bl dt p c) := by
  unfold Dev.event Dev.eventAt
  dsimp only
  split
  · exact Kept_trans (Kept_mono (kept_logRec ..) (by decide)) (Kept_mono (kept_safeReq ..) (by decide))
  · exact Kept_mono (kept_logRec ..) (by decide)

theorem safeReq_log (d : Dev) (c : Nat) : (d.safeReq c).log = d.log := (kept_safeReq d c).same .log (by decide)

/-- What an event record leaves in the log (R10, R457). -/
theorem event_wrote (d : Dev) (cls code rg bl : Nat) (dt : List Nat) (p c : Nat) :
    Wrote d (d.event cls code rg bl dt p c) ⟨d.time.now, rg, bl, cls, code, p, c, dt⟩ := by
  unfold Dev.event Dev.eventAt
  dsimp only
  have h := logRec_wrote d ⟨d.time.now, rg, bl, cls, code, p, c, dt⟩
  split
  · unfold Wrote; rw [safeReq_log]; exact h
  · exact h

/-- An event record below class 4 leaves the islands as they were. -/
theorem kept_event_low (d : Dev) {cls : Nat} (h : cls ≠ 4) (code rg bl : Nat) (dt : List Nat) (p c : Nat) :
    Kept [.regs, .log] d (d.event cls code rg bl dt p c) := by
  unfold Dev.event Dev.eventAt
  dsimp only
  split
  · omega
  · exact kept_logRec ..

theorem event_reg (d : Dev) (cls code rg bl : Nat) (dt : List Nat) (p c : Nat) :
    RegsBut [R.hpEvlogLost] d (d.event cls code rg bl dt p c) := by
  intro o ho
  have h := logRec_reg d ⟨d.time.now, rg, bl, cls, code, p, c, dt⟩ o ho
  unfold Dev.event Dev.eventAt
  dsimp only
  split
  · have k : (Dev.safeReq (d.logRec ⟨d.time.now, rg, bl, cls, code, p, c, dt⟩) (feedCause code)).regs =
        (d.logRec ⟨d.time.now, rg, bl, cls, code, p, c, dt⟩).regs := (kept_safeReq _ _).same .regs (by decide)
    unfold Dev.reg at *; rw [k]; exact h
  · exact h

/-- A request for retirement changes the list of requests alone. -/
theorem kept_retireReq (d : Dev) (b c : Nat) : Kept [.retire] d (d.retireReq b c) := by
  unfold Dev.retireReq
  split
  · exact kept_refl ..
  · constructor; intro f hf; cases f <;> first | rfl | exact absurd (List.mem_cons_self ..) hf

/-- A refused access counts in SEC_FW_DENY and SEC_FW_LAST and writes its record. -/
theorem kept_deny (d : Dev) (i p t : Nat) (r : Bool) (a : Nat) : Kept [.regs, .log] d (d.deny i p t r a) := by
  unfold Dev.deny
  have h : Kept [.regs, .log] d ((d.bump R.secFwDeny).setReg R.secFwLast (i % 1024 + p % 64 * 1024 + t % 8 * 65536)) :=
    Kept_trans (Kept_mono (kept_bump ..) (by decide)) (Kept_mono (kept_setReg ..) (by decide))
  dsimp only
  split
  · exact Kept_trans h (kept_event_low _ (by decide) ..)
  · split
    · exact Kept_trans h (kept_event_low _ (by decide) ..)
    · exact Kept_trans h (kept_event_low _ (by decide) ..)

/-! ## Operations -/

theorem kept_alloc (d : Dev) (t : Nat) (o : Op) : Kept [.regs, .ops] d (d.alloc t o).2 :=
  Kept_trans (Kept_mono (kept_setOp ..) (by decide)) (Kept_mono (kept_peak ..) (by decide))

theorem kept_poisonOut (d : Dev) (b : Nat) (e : EngOp) : Kept [.poison] d (d.poisonOut b e) := by
  refine kept_foldl (fun d r => ?_) _ _
  split
  · exact kept_poisonRange ..
  · exact kept_refl ..

theorem kept_freeArb (d : Dev) (b : Nat) (e : EngOp) : Kept [.blocks, .tiles] d (d.freeArb b e) := by
  unfold Dev.freeArb
  split
  · exact kept_refl ..
  · exact Kept_trans (Kept_mono (kept_modBlk ..) (by decide)) (Kept_mono (kept_modTile ..) (by decide))

/-- The beats that were written before an early end change memory, and take a free value. -/
theorem kept_cutBeats (d : Dev) (b : Nat) (e : EngOp) : Kept [.mem, .free] d (d.cutBeats b e) := by
  unfold Dev.cutBeats
  split
  · exact kept_refl ..
  · exact Kept_trans (Kept_mono (kept_fresh d) (by decide))
      (kept_foldl (fun d y => Kept_mono (kept_wr ..) (by decide)) _ _)

theorem kept_modEng (d : Dev) (b : Nat) (e : EngOp) (f : EngOp → EngOp) : Kept [.blocks] d (d.modEng b e f) := kept_modBlk ..

/-- An operation dropped from its engine: memory and poison of its outputs, and the block. -/
theorem kept_dropEng (d : Dev) (b : Nat) (e : EngOp) :
    Kept [.mem, .free, .poison, .blocks, .tiles] d (d.dropEng b e) := by
  unfold Dev.dropEng
  exact Kept_trans (Kept_trans (Kept_trans (Kept_mono (kept_cutBeats ..) (by decide)) (Kept_mono (kept_poisonOut ..) (by decide)))
    (Kept_mono (kept_freeArb ..) (by decide))) (Kept_mono (kept_modBlk ..) (by decide))

theorem kept_killEng (d : Dev) (b : Nat) (p : EngOp → Bool) :
    Kept [.mem, .free, .poison, .blocks, .tiles, .ops] d (d.killEng b p) := by
  unfold Dev.killEng
  refine kept_foldl (fun d e => ?_) _ _
  dsimp only
  generalize h : Dev.modOp d e.token _ = m
  have hm : Kept [.mem, .free, .poison, .blocks, .tiles, .ops] d m := h ▸ Kept_mono (kept_modOp ..) (by decide)
  split
  · exact Kept_trans hm (Kept_mono (kept_modEng ..) (by decide))
  · exact Kept_trans hm (Kept_mono (kept_dropEng ..) (by decide))

theorem kept_unwait (d : Dev) (p : Nat × Nat → Bool) : Kept [.blocks] d (d.unwait p) := by
  constructor; intro f hf; cases f <;> first | rfl | exact absurd (List.mem_cons_self ..) hf

theorem kept_releaseBlk (d : Dev) (b : Nat) : Kept [.blocks] d (d.releaseBlk b) := kept_modBlk ..

theorem kept_startStatic (d : Dev) (b n c : Nat) : Kept [.regs, .ops, .blocks] d (d.startStatic b n c) := by
  unfold Dev.startStatic
  exact Kept_trans (Kept_mono (kept_alloc ..) (by decide)) (Kept_mono (kept_modBlk ..) (by decide))

/-- Ending an operation changes memory and poison of outputs, blocks, tiles, trackers and their peak registers alone. -/
theorem kept_endOp (d : Dev) (k st : Nat) (kl : Bool) :
    Kept [.mem, .free, .poison, .blocks, .tiles, .ops, .regs] d (d.endOp k st kl) := by
  unfold Dev.endOp
  dsimp only
  split
  · exact kept_refl ..
  · have h0 : Kept [.mem, .free, .poison, .blocks, .tiles, .ops, .regs] d (d.settle k st) := Kept_mono (kept_settle ..) (by decide)
    split
    · exact h0
    · rename_i b _
      have h1 : Kept [.mem, .free, .poison, .blocks, .tiles, .ops, .regs] d
          (if kl = true then (d.settle k st).killEng b (fun e => e.token = k) else d.settle k st) := by
        split
        · exact Kept_trans h0 (Kept_mono (kept_killEng ..) (by decide))
        · exact h0
      split
      · exact Kept_trans h1 (Kept_mono (kept_releaseBlk ..) (by decide))
      · generalize (if kl = true then (d.settle k st).killEng b (fun e => e.token = k) else d.settle k st) = e at h1 ⊢
        rename_i n _
        have h2 : Kept [.mem, .free, .poison, .blocks, .tiles, .ops, .regs] d
            (if ((e.blk b).thr n).op = some k then (e.modBlk b (fun q => q.freeThr n)).unwait (· == (b, n)) else e) := by
          split
          · exact Kept_trans h1 (Kept_trans (Kept_mono (kept_modBlk ..) (by decide)) (Kept_mono (kept_unwait ..) (by decide)))
          · exact h1
        generalize (if ((e.blk b).thr n).op = some k then (e.modBlk b (fun q => q.freeThr n)).unwait (· == (b, n)) else e) = g at h2 ⊢
        refine Kept_trans h2 ?_
        · split
          · exact Kept_mono (kept_startStatic ..) (by decide)
          · exact Kept_mono (kept_releaseBlk ..) (by decide)

/-! ## Records of the module store -/

/-- A record written is the one in force (R425). -/
@[simp] theorem Rec.cur_write {α : Type} (r : Rec α) (now : Nat) (v : α) : (r.write now v).cur = v := by
  unfold Rec.write
  split <;> simp [Rec.cur, Rec.second]

/-- The syndrome of R86 is 0 exactly where the predicted and the actual residue are the same. -/
theorem residueSyn_eq_zero (value change : Int) : residueSyn change = 0 ↔ (value + change) % 31 = value % 31 := by
  unfold residueSyn
  omega

end Sys2Proof.Machine
end

