-- ==== Sys2Proof/Tests/Slice0.lean ====
section
/-! SUPPORT. Tests: ill-formed operands are refused, examples of the manual come out as it gives them, and for
each obligation a concrete state and operands that meet its hypotheses, clause by clause. -/

namespace Sys2Proof.Tests

open Machine

set_option Elab.async false

/-- A state around a device. -/
def st (d : Dev) : State := { State.reset with dev := d }

/-- A module in operation with the host link up. -/
def live : Dev := { chip := { phase := .running, lock := true, sched := true }, host := { up := true } }

/-- A device whose block `b` is `k`. -/
def blockDev (b : Nat) (k : Block) : Dev := { live with blocks := [(b, k)] }

/-! ## Ill-formed operands -/

theorem test_wf_sensors : (Instr.wingbeatTick ⟨[], [], [], [], [], true, true, [], []⟩).wf = false := by decide

/-- The vector "abc" of FIPS 180-4. -/
theorem test_sha256_abc : sha256 [0x61, 0x62, 0x63] =
    0xba7816bf8f01cfea414140de5dae2223b00361a396177a9cb410ff61f20015ad := by decide +kernel

/-- The first vector of SipHash's reference: the empty message. -/
theorem test_siphash_empty : sipHash 0x0f0e0d0c0b0a09080706050403020100 [] = 0x726fdb47dd0e0e31 := by decide +kernel

/-! ## Matrix engines -/

/-- An INT8 GEMM of one row, column and reduction step with INT32 output. -/
def wGemm : List Nat := [1 + 11 * 65536 + 2 ^ 32 + 2 ^ 48, 1, 64 + 128 * 2 ^ 32, 0, 0, 0, 0, 0]
/-- An operation that runs. -/
def e0 : EngOp := { stage := .running, words := wGemm }
/-- Block 143 with an operation and held beats. -/
def dBeat (l : List HeldBeat) (frac : Nat := 0) (e : EngOp := e0) : Dev :=
  { blockDev 143 { eng := [e], beats := l } with parts := [(0, { fraction := frac })] }

theorem nothingDue {d : Dev} {b h : Nat} {e : EngOp} (k : d.current b = some (h, e)) (hd : e.dead = false)
    (hs : e.stop = false) (ha : e.abortReq = false) (hl : e.late = false) : NothingDue d b := by
  intro x y p; rw [k] at p; cases p; exact ⟨hd, hs, ha, hl⟩

theorem witness_ResidueStepsOneToFour :
    let x : HeldBeat := ⟨31, 0, 30, 2, 0⟩
    let y : HeldBeat := ⟨0, 0, 1, 4, 0⟩
    let d := dBeat [x]
    let a := dBeat [x] 0 { e0 with abortReq := true }
    let at2 (d : Dev) := (d.blk 143).beats.find? (fun y => y.cell = 31 ∧ y.stage = 2) = some x
    ((dBeat [x]).cellRuns 143 0 0 = true ∧ residueSyn (-1) = 30 ∧ residueSyn 31 = 0 ∧ (∀ x ∈ (d.blk 143).beats, x.cell ≠ 0)) ∧
    (at2 d ∧ LastBeat d 143 31 ∧ NothingDue d 143 ∧ d.current 143 = some (143, e0) ∧ e0.dead = false ∧ e0.late = false) ∧
    (at2 (dBeat [x, y]) ∧ ¬ LastBeat (dBeat [x, y]) 143 31 ∧ y ∈ ((dBeat [x, y]).blk 143).beats ∧
      (dBeat [x, y]).current 143 = some (143, e0)) ∧
    (at2 a ∧ LastBeat a 143 31 ∧ a.current 143 = some (143, { e0 with abortReq := true })) := by
  refine ⟨by decide +kernel, ⟨by decide +kernel, by unfold LastBeat; decide +kernel,
    nothingDue (h := 143) (e := e0) (by decide +kernel) rfl rfl rfl rfl, by decide +kernel, rfl, rfl⟩,
    ⟨by decide +kernel, by unfold LastBeat; decide +kernel, by decide +kernel, by decide +kernel⟩,
    by decide +kernel, by unfold LastBeat; decide +kernel, by decide +kernel⟩

theorem witness_CheckerInjectionJudgesTheBeat :
    let x : HeldBeat := ⟨31, 0, 30, 4, 0⟩
    let ok (f : Nat) := ((dBeat [x] f).blk 143).beats.find? (fun y => y.cell = 31 ∧ y.stage = 4) = some x ∧
      LastBeat (dBeat [x] f) 143 31 ∧ (dBeat [x] f).current 143 = some (143, e0)
    ok 0 ∧ (dBeat [x] 0).fraction e0.part ≠ 5 ∧ NothingDue (dBeat [x] 0) 143 ∧
    ok 5 ∧ (dBeat [x] 5).fraction e0.part = 5 ∧ e0.dead = false ∧ e0.late = false := by
  refine ⟨⟨by decide +kernel, by unfold LastBeat; decide +kernel, by decide +kernel⟩, by decide +kernel,
    nothingDue (h := 143) (e := e0) (by decide +kernel) rfl rfl rfl rfl,
    ⟨by decide +kernel, by unfold LastBeat; decide +kernel, by decide +kernel⟩, by decide +kernel, rfl, rfl⟩

/-- A pending operation. -/
def ePend (desc : Nat) (words : List Nat) : EngOp := { desc := desc, words := words, stage := .pending }

theorem witness_EngineStartsItsNextOperation :
    let d1 := blockDev 143 { eng := [ePend 0x80000 []] }
    let d2 := blockDev 143 { eng := [ePend 0x7FFC0 wGemm], part := some 0 }
    let d3 := blockDev 143 { eng := [ePend 0x7FFC0 wGemm], part := some 1 }
    d1.current 143 = none ∧ (d1.blk 143).arbFor = none ∧ (d1.blk 143).svc ≠ .retired ∧ (d1.blk 143).preempt = none ∧
    d1.tileUp (tileOf 143) = true ∧ (d1.blk 143).admitWaiting.nextOp = some (ePend 0x80000 []) ∧
    d1.engError 143 (ePend 0x80000 []) ≠ 0 ∧
    d2.current 143 = none ∧ (d2.blk 143).arbFor = none ∧ (d2.blk 143).svc ≠ .retired ∧ (d2.blk 143).preempt = none ∧
    d2.tileUp (tileOf 143) = true ∧ (d2.blk 143).admitWaiting.nextOp = some (ePend 0x7FFC0 wGemm) ∧
    d2.engError 143 (ePend 0x7FFC0 wGemm) = 0 ∧
    d2.refusal (5 * 143 + 4) (d2.idPart 143 false 0) (blockBase 143) false false = none ∧
    d3.current 143 = none ∧ (d3.blk 143).admitWaiting.nextOp = some (ePend 0x7FFC0 wGemm) ∧
    d3.engError 143 (ePend 0x7FFC0 wGemm) = 0 ∧
    d3.refusal (5 * 143 + 4) (d3.idPart 143 false 0) (blockBase 143) false false = some (2, false) := by decide +kernel

theorem witness_EnginePassEndsByItsKind :
    let d (e : EngOp) := blockDev 143 { eng := [e] }
    let ok (e : EngOp) := ((d e).blk 143).beats = [] ∧ ((d e).blk 143).preempt = none ∧
      (d e).tileUp (tileOf 143) = true ∧ ((d e).blk 143).chkFault = false ∧
      ((d e).blk 143).eng.find? (fun x => x.stage = .running ∨ x.stage = .repeating) = some e
    ok { stage := .running, status := some stAborted } ∧ ok { stage := .running, selected := true } ∧
    ok { stage := .running, selected := false } ∧ ok { stage := .repeating } := by decide +kernel

theorem witness_DynamicWithdrawalOfAnEngine :
    let d (v : Nat) (w : Option Nat) : Dev :=
      { blockDev 143 { withdraw := w, eng := [{ stage := .running, token := 1 }] } with
        regs := [(R.meEngine 143, BitVec.ofNat 32 v)], ops := [(1, { used := true })] }
    let ok (v : Nat) := (d v none).hostReq = 0 ∧ ((d v none).blk 143).svc = .inService ∧ ((d v none).blk 143).beats = [] ∧
      bit ((d v none).reg (R.meEngine 143)) 11 = bit v 11 ∧ bit ((d v none).reg (R.meEngine 143)) 10 = bit v 10
    ok 0 ∧ ok 0x800 ∧ ok 0x400 ∧ ((d 0x400 (some 0)).blk 143).withdraw = some 0 ∧ 0 ≤ (d 0x400 (some 0)).wb ∧
    (∀ v, NoDynHeld (d v (some 0)) 143) ∧
    (let h := dBeat [⟨31, 0, 30, 2, 0⟩]
     (h.blk 143).eng = [e0] ∧ e0.static = false ∧ e0.dead = false ∧ h.holding 143 e0 = true) := by
  refine ⟨by decide +kernel, by decide +kernel, by decide +kernel, by decide +kernel, by decide +kernel, ?_, by decide +kernel⟩
  intro v; unfold NoDynHeld; intro e he hs
  simp [Dev.blk, blockDev, live, tget] at he
  subst he; exact ⟨by simp [Dev.holding, Dev.blk, blockDev, live, tget], rfl⟩

/-- A placed hub-unit operation whose descriptor stands at the start of the hub store. -/
def dPpu (w : Nat → Nat) : Dev :=
  (List.range 8).foldl (fun d i => d.wrN (hubBase + 8 * i) 8 (w i))
    { live with ops := [(16383, { used := true, kind := .ppu, placed := true })]
                chip := { phase := .running, lock := true, sched := true, image := none } }

theorem witness_PostProcessingWritesItsBoxes :
    let bad := dPpu fun _ => 0
    let good := { (dPpu fun i => match i with
        | 0 => 0x20 + 1 * 2 ^ 16 + 1 * 2 ^ 32
        | 1 => 0x4000000000
        | 2 => 0x4000000000
        | 3 => 0x4000000000
        | 5 => 1 + 1 * 2 ^ 16
        | _ => 0) with blocks := [(0, { part := some 0 })] }
    let ok (d : Dev) := (d.op 16383).used = true ∧ (d.op 16383).placed = true ∧ (d.op 16383).status = none ∧
      ((d.op 16383).kind = .ppu ∨ (d.op 16383).kind = .hubUnit)
    ok bad ∧ bad.ppuWaits 16383 = false ∧ good.ppuWaits 16383 = false ∧ (bad.ppuDesc (hubBase + (bad.op 16383).entry)).ok = false ∧
    ok good ∧ (good.ppuDesc (hubBase + (good.op 16383).entry)).ok = true ∧
    good.ppuDenied (good.op 16383).part (good.op 16383).cls (good.ppuDesc (hubBase + (good.op 16383).entry)) = none := by decide +kernel

/-! ## Cores and scratchpads -/

/-- Thread 7 of core 3 of block 143. -/
def θ : ThreadId := ⟨143, 3, 7⟩
/-- The last granule of its scratchpad window. -/
def aLast : Nat := blockBase 143 + 0x7FFC0
/-- The thread runs the task of token 0 with x5 = `a` and x6 = `n`; `k` is the rest of its block. -/
def dThr (k : Block) (h : Thread) (a n : Nat) : Dev :=
  blockDev 143 { k with threads := [(31, { h with op := some 0, x := [(5, BitVec.ofNat 64 a), (6, BitVec.ofNat 64 n)] })] }

theorem witness_ThreadAccessesMemory :
    let d := dThr { part := some 0 } {} aLast 0
    let ld (width : Fin 4) (kind : LoadKind) : Instr := .threadLoad θ 1 5 0 width true kind []
    let ok (i : Instr) (n : Nat) := d.canRun θ i = true ∧ d.relocate θ (d.ea θ 5 0) = .addr aLast ∧
      d.threadRefusal θ aLast n false = none ∧ d.capped θ.init (d.tCls θ) aLast = false ∧
      d.sbHit aLast n (·.producer) = false ∧ d.postedOn (d.tok θ) aLast n = false ∧ d.keyGone aLast n = none
    (ok (ld 3 .plain) 8 ∧ ok (ld 2 .float) 4 ∧ crosses (d.ea θ 5 0) 8 8 = false ∧ crosses (d.ea θ 5 0) 4 4 = false) ∧
    (ok (ld 3 .reserved) 8 ∧ d.tx θ 5 = aLast ∧ remoteSpad θ aLast = false) ∧
    (ok (ld 0 (.vector 64)) 64 ∧ 0 < 64 / 1 * 1 ∧ crosses (d.ea θ 5 0) 1 64 = false ∧
      d.thAddrs θ false (d.pieces θ (d.ea θ 5 0) 1 64) = (d, some [(aLast, 64)])) ∧
    ((ld 3 (.csr 0xC01)).wf = true ∧ d.csr θ 0xC01 = some 0 ∧ d.canRun θ (ld 3 (.csr 0xC01)) = true) ∧
    (∀ f ∈ [CsrOp.swap, .set, .clear], ∀ number ∈ [true, false],
      d.canRun θ (.threadStore θ 5 6 0 3 (.csr f number 0x001) 0 []) = true ∧ (d.csr θ 0x001).isSome = true ∧
      bits 0x001 10 2 ≠ 3) ∧
    (let m := dThr { part := some 0 } { machine := true, poolsel := 15 } aLast 0
     m.canRun θ (.threadStore θ 5 6 0 3 (.csr .swap false 0x7C9) 0 []) = true ∧ (m.csr θ 0x7C9).isSome = true ∧
      ((m.blk θ.b).pool (m.thr θ).poolsel).valid = false ∧
      (let y := 1 + 4 * 2 + 4096 * 2 ^ 23; bit y 0 = true ∧ bits y 1 3 ≤ 4 ∧ bits y 23 13 ≠ 0)) := by
  refine ⟨by decide +kernel, by decide +kernel, by decide +kernel, by decide +kernel, by decide +kernel, by decide +kernel⟩

theorem witness_ThreadStoresMemory :
    let d (h : Thread) (a : Nat) := dThr { part := some 0 } h a 0
    let reach (d : Dev) (a ea w n : Nat) := 0 < n ∧ crosses ea w n = false ∧ d.linear θ ea w n = true ∧
      d.relocate θ ea = .addr a ∧ d.threadRefusal θ a n true = none ∧ d.capped θ.init (d.tCls θ) a = false ∧
      d.pathStalls θ.b a = false ∧ d.sbHit a n (fun _ => true) = false
    let st (kind : StoreKind) : Instr := .threadStore θ 5 6 0 3 kind 1 []
    let far := blockBase 142
    let g0 : Dev := d { grants := [⟨far, 142, 15, 1⟩] } far
    let g : Dev := { g0 with blocks := (142, { part := some 0 }) :: g0.blocks }
    (∀ k ∈ [st .plain, st .float, st (.vector 64), st .cond, st (.amo .max), .gwPtest θ 1 0, .gwPtest θ 1 5],
      (d {} aLast).canRun θ k = true) ∧
    (reach (d {} aLast) aLast ((d {} aLast).ea θ 5 0) 8 8 ∧ reach (d {} aLast) aLast ((d {} aLast).ea θ 5 0) 8 64 ∧
      reach (d {} aLast) aLast ((d {} aLast).tx θ 5) 8 8 ∧ remoteSpad θ aLast = false) ∧
    (g.canRun θ (st .plain) = true ∧ reach g far (g.ea θ 5 0) 8 8 ∧ remoteSpad θ far = true ∧
      (g.thr θ).outside 8 [(far, 8)] = none ∧ (g.blk (spadBlk far)).posted = []) ∧
    (let e : Dev := { g0 with
       blocks := (142, { part := some 0, eng := [{ stage := .pending, entries := [⟨0, 8, true, false⟩] }] }) :: g0.blocks }
     e.canRun θ (st .plain) = true ∧ (e.blk (spadBlk far)).posted = [] ∧ e.sbHit far 8 (fun _ => true) = true ∧
      (e.thr θ).outside 8 [(far, 8)] = none) ∧
    (((d { resv := some (aLast, 8) } aLast).thr θ).resv = some (aLast, 8) ∧ ((d {} aLast).thr θ).resv ≠ some (aLast, 8)) ∧
    ((d {} aLast).relocate θ ((d {} aLast).tx θ 5) = .addr aLast ∧ (d {} aLast).threadRefusal θ aLast 1 false = none) := by
  refine ⟨by decide +kernel, by decide +kernel, by decide +kernel, by decide +kernel, by decide +kernel, by decide +kernel⟩

theorem witness_RefusedThreadAccessEndsTheTask :
    let d := dThr { part := none } {} aLast 0
    (d.relocate θ (d.ea θ 5 0) = .addr aLast ∧
      (∀ k ∈ [LoadKind.plain, .float, .vector 64], d.canRun θ (.threadLoad θ 1 5 0 3 false k []) = true) ∧
      (∀ k ∈ [StoreKind.plain, .float, .vector 64], d.canRun θ (.threadStore θ 5 6 0 3 k 1 []) = true) ∧
      (∀ n ∈ [8, 64], crosses (d.ea θ 5 0) 8 n = false ∧ d.pieces θ (d.ea θ 5 0) 8 n = [(d.ea θ 5 0, n)] ∧
        d.threadRefusal θ aLast n false = some (2, false) ∧
        d.threadRefusal θ aLast n true = some (2, false))) ∧ TrackersFree d :=
  ⟨by decide +kernel, fun _ => rfl⟩

theorem witness_EngineLaunchAndFence :
    let d := dThr {} {} 0 0
    let s := { d with ops := [(0, { static := true })] }
    let w := { d with regs := [(R.meEngine 143, 0xC00)] }
    let fits (d : Dev) := (d.blk θ.b).sbFits (d.mkEng θ.b { desc := d.tx θ 5 } (d.coreSelect θ.b 0 (d.tx θ 5)).1).entries = true
    (d.canRun θ (.gwElaunch θ 1 5) = true ∧ d.withdrawn θ.b = false ∧ (d.blk θ.b).pendingOps < 4 ∧ d.blkCharge θ.b < 256 ∧
      (d.op (d.tok θ)).static = false ∧ d.dynFree (tileOf θ.b) ≠ 0 ∧ fits d) ∧
    (s.canRun θ (.gwElaunch θ 1 5) = true ∧ (s.op (s.tok θ)).static = true ∧ s.trkUsed (tileOf θ.b) < 4096 ∧ fits s) ∧
    (w.canRun θ (.gwElaunch θ 1 5) = true ∧ (w.op (w.tok θ)).static = false ∧ w.withdrawn θ.b = true) ∧
    (d.canRun θ (.gwRfence θ 5 6) = true ∧ d.tx θ 6 = 0 ∧ (d.blk θ.b).eng = [] ∧ (dThr {} {} 0 1).tx θ 6 ≠ 0) := by
  decide +kernel

theorem witness_CreditsMoveThroughThePool :
    let q : Pool := { valid := true, sp := 3, size := 64, free := 64, filled := 64, taken := 64 }
    let a := q.ring 143
    let d (h : Thread) := dThr { pools := [(15, q)], part := some 0 } h a 64
    let g : Grant := ⟨a, 143, 15, 64⟩
    (∀ i ∈ [Instr.gwCreditAcq θ 1 5 6, .gwCreditTake θ 1 5 6, .gwCreditRel θ 5 6], (d {}).canRun θ i = true) ∧
    (d {}).relocate θ ((d {}).tx θ 5) = .addr a ∧ (d {}).poolAt a = some (143, 15) ∧
    ((d {}).blk 143).pool 15 = q ∧ q.closing = false ∧ q.part = (d {}).tPart θ ∧ ((d {}).thr θ).grants.length < 4 ∧
    ((d {}).blk 143).waiters = [] ∧ ((d {}).blk 143).preempt = none ∧ bits ((d {}).tx θ 6) 0 13 = 64 ∧
    q.wptr + 64 ≤ q.size ∧ 64 ≤ q.free ∧ 64 ≤ q.filled ∧
    (d { grants := [g] }).canRun θ (.gwCreditPub θ 5) = true ∧
    ((d { grants := [g] }).thr θ).grants.find? (·.addr = a) = some g ∧ g.block = θ.b ∧
    ((d { grants := [g] }).blk g.block).posted = [] ∧
    (d { grants := [g] }).postedOn ((d { grants := [g] }).tok θ) a (64 * g.n) = false ∧
    (d {}).pathStalls θ.b (blockBase 0) = false := by decide +kernel

theorem witness_TickWaitsAndTheirLimit :
    let d (h : Thread) (a : Nat) := dThr {} h a 0
    (∀ i ∈ [Instr.gwTwaitTag θ 31 5 6, .gwTwaitClass θ 31 5 6],
      (d {} 0xFFFF).canRun θ i = true ∧ (d { static := some 4095 } 0).canRun θ i = true) ∧
    bits ((d {} 4).tx θ 5) 0 3 ≤ 4 ∧ 4 < bits ((d {} 5).tx θ 5) 0 3 ∧
    (d {} 0).tileUp (tileOf θ.b) = true ∧ ((d {} 0).blk θ.b).svc ≠ .retired ∧
    (((d { wait := .tag 0xFFFF (some 0) 31 } 0).thr θ).wait = .tag 0xFFFF (some 0) 31 ∧
      ((d { wait := .tag 0xFFFF (some 0) 31 } 0).thr θ).static = none) ∧
    (((d { wait := .cls 0 (some 0) 31 } 0).thr θ).wait = .cls 0 (some 0) 31 ∧
      ((d { wait := .cls 4 (some 0) 31 } 0).thr θ).wait = .cls 4 (some 0) 31 ∧
      (let e := { d {} 0 with time := { ticked := [4] } }; e.wb % e.classLen 4 = 0 ∧ 4 ∈ e.time.ticked) ∧
      (let e := { d {} 0 with time := { now := wingbeatNs } }; e.wb % e.classLen 4 ≠ 0)) ∧
    (((d { wait := .tag 0 (some 0) 0, static := some 4095 } 0).thr θ).wait = .tag 0 (some 0) 0 ∧
      ((d { wait := .tag 0 (some 0) 0, static := some 4095 } 0).thr θ).static = some 4095) ∧ 0 ≤ (d {} 0).wb := by
  decide +kernel

theorem witness_ExceptionsEndTheTask :
    let d := dThr { arrEp := [(2, 0), (3, 0)] } {} 0 0
    let old := (d.blk θ.b).arrEp.filter fun e => d.chip.hours - e.2 ≤ 1000
    let m := dThr {} { machine := true } 0 0
    ((∀ c ∈ [ExcCause.illegal 0, .illegal 0x0B, .misaligned, .ebreak, .ecall, .mret],
        d.canRun θ (.taskException θ c) = true) ∧
      d.observed (d.tPart θ) = false ∧ gwDecode θ 0 = none ∧ (gwDecode θ 0x0B).isSome = true ∧
      (d.thr θ).machine = false ∧ m.canRun θ (.taskException θ .mret) = true ∧ (m.thr θ).machine = true) ∧
    ((d.blk θ.b).svc ≠ .retired ∧ d.tileUp (tileOf θ.b) = true ∧ old.length < 3 ∧
      (old ++ [(d.epoch + 1, d.chip.hours)]).length = 3 ∧ old.any (·.1 = d.epoch + 1) = false ∧
      ((dThr {} {} 0 0).blk θ.b).arrEp = []) ∧ TrackersFree d ∧ TrackersFree (dThr {} {} 0 0) :=
  ⟨by decide +kernel, by decide +kernel, fun _ => rfl, fun _ => rfl⟩

theorem witness_ScrubAndRowRepair :
    let a := blockBase 143 + 0xFFFF8
    let d (n : Nat) := blockDev 143 { scrubbed := [a / 8], rowDue := [rowKey 4 15 63], spares := [(79, n)] }
    ((d 0).blk 143).svc ≠ .retired ∧ target a = .spad 143 ∧ a / 8 ∈ ((d 0).blk 143).scrubbed ∧
    rowKey 4 15 63 ∈ ((d 0).blk 143).rowDue ∧
    ∀ n ∈ [2, 3, 4], tget (fun _ => 0) ((d n).blk 143).spares (4 * 16 + 15) = n := by decide +kernel

/-! ## Queues, contexts and partitions -/

/-- A header whose cryptographic checks pass. -/
def hdr (type svn bind nonce : Nat) : ImgHeader :=
  ⟨0x4D495747, type, 1, svn, 0, bind, nonce, 0, 0, 0, ⟨true, true, true, true, 0⟩⟩
/-- An image with one DRAM and one hub-store region that grant everything, and nothing else. -/
def img : CfgImage :=
  { header := hdr 2 0 0 0, regs := [], parts := [], hostPart := 0, initParts := [], initClass := [], contexts := []
    launch := [], schedule := ⟨[], [], [], [], []⟩, fwDram := [⟨true, 0, 0x2DFFFFF, 0, 1023, 2 ^ 64 - 1, 2 ^ 64 - 1⟩]
    fwHub := [⟨true, 0x5000000, 0x5001FFF, 0, 1023, 2 ^ 64 - 1, 2 ^ 64 - 1⟩], hubstore := [], island := ⟨0, 0, 0, 0, 0⟩
    models := [] }
/-- A module in operation with that image and one rank of DRAM, whose regulators let the hub's initiators access. -/
def run : Dev := { live with
  regs := [(R.mcReg 96, 1)]
  chip := { phase := .running, lock := true, sched := true, image := some img }, dram := { general := [0] } }

/-- The last queue, of context 4095 and partition 63, with a ring of 65,536 descriptors at 256 MiB. -/
def dQ (state head tail : Nat) : Dev :=
  let d : Dev := { run with
    regs := [(R.qmQsel, 262143)], ctxs := [(4095, { state := 1, part := 63, cqLog2 := 16 })]
    parts := [(63, { declared := true, off := 1 })], qm := { cache := [262143], live := [262143] } }
  ((d.wrN (32 * 262143) 8 (state + 16 * 16 + 4095 * 512)).wrN (32 * 262143 + 8) 8 0x10000000).wrN (32 * 262143 + 16) 8
    (head + tail * 2 ^ 32)
/-- With an operation of the queue, context and partition in flight. -/
def inFlight (d : Dev) : Dev :=
  { d with ops := [(1, { used := true, queue := 262143, ctx := 4095, part := 63 })] }

theorem trackersFree_one {d : Dev} {k : Nat} {o : Op} (h : d.ops = [(k, o)]) (hk : k % 4096 ≠ 0) (hs : o.kids = []) :
    TrackersFree d := by
  intro t
  have e : tget (fun _ => ({} : Op)) d.ops (t * 4096) = {} := by
    rw [h]; simp only [tget]; split
    · omega
    · rfl
  have f : d.freeToken t = t * 4096 := by
    unfold Dev.freeToken firstGap
    rw [if_neg]
    simp [h, hs]; omega
  rw [f]; show (tget _ d.ops _).used = false; rw [e]

theorem witness_QueueEnableAndDisable :
    let q : Nat := 262143
    (dQ 0 0 0).hostReq = 0 ∧ (dQ 0 0 0).qSel = q ∧ (dQ 0 0 0).qState q = 0 ∧ (dQ 0 0 0).disBusy (queueObj q) = false ∧
    ((dQ 0 0 0).qSet q 0 2 1 1).qCheck q = 0 ∧ (({ dQ 0 0 0 with ctxs := [] }).qSet q 0 2 1 1).qCheck q = 1 ∧
    (dQ 1 0 0).qState q = 1 ∧ (dQ 1 0 0).qm.disabling = [] ∧ (dQ 1 0 0).covered (queueObj q) = [] ∧
    (inFlight (dQ 1 0 0)).covered (queueObj q) ≠ [] ∧ (inFlight (dQ 1 0 0)).qState q = 1 ∧
    (dQ 3 0 0).qState q = 3 ∧ (dQ 3 0 0).disBusy (queueObj q) = false := by decide +kernel

theorem witness_DoorbellsAreAcceptedOrRejected :
    let d := dQ 0 0 0
    let v (lo hi : Nat) : DWord := BitVec.ofNat 64 (lo + hi * 2 ^ 32)
    let ok (tl : Nat) := (tl + 2 ^ 32 - d.qHead 262143) % 2 ^ 32 ≤ d.qSize 262143 ∧
      (tl + 2 ^ 32 - d.qTail 262143) % 2 ^ 32 < 2 ^ 31
    d.hostReq = 0 ∧ bits (v 262143 65536).toNat 0 18 = 262143 ∧ bits (v 262143 65536).toNat 32 32 = 65536 ∧
    ok 65536 ∧ ¬ ok 65537 ∧ d.qState 262143 = 0 ∧ (dQ 3 0 0).qState 262143 = 3 ∧
    ((dQ 1 0 0).qState 262143 = 1 ∧ (dQ 1 0 0).qm.disabling = [] ∧ (dQ 1 0 0).covered (queueObj 262143) = [] ∧
      ¬ ((65537 + 2 ^ 32 - (dQ 1 0 0).qHead 262143) % 2 ^ 32 ≤ (dQ 1 0 0).qSize 262143) ∧
      d.qTail 262143 = 0 ∧ d.qOps 262143 = []) ∧
    (d.ctx 4095).serving = false ∧ (0 + 2 ^ 32 - (d.ctx 4095).head) % 2 ^ 32 ≤
      ((d.ctx 4095).tail + 2 ^ 32 - (d.ctx 4095).head) % 2 ^ 32 ∧
    ((d.ctx 4095).tail + 2 ^ 32 - (d.ctx 4095).head) % 2 ^ 32 < (1 + 2 ^ 32 - (d.ctx 4095).head) % 2 ^ 32 := by
  decide +kernel

/-- QM_CSEL names context 4095; its image stands at 64 KiB, of partition `p`. -/
def dC (p : Nat) (c : Ctx) : Dev :=
  let d : Dev := { run with
    regs := [(R.qmCsel, 4095), (R.qmCimgLo, 0x10000)], ctxs := [(4095, c)], parts := [(63, { declared := true })] }
  ((d.wrN 0x10000 8 p).wrN 0x10008 8 0x20000).wrN 0x10010 8 16

theorem witness_ContextLoadAndDisable :
    let a := dC 63 { state := 1, part := 63 }
    (dC 63 {}).hostReq = 0 ∧ (dC 63 {}).cSel = 4095 ∧ (dC 63 {}).disBusy (ctxObj 4095) = false ∧
    (dC 63 {}).ctxCheck 4095 = 0 ∧ (dC 62 {}).ctxCheck 4095 ≠ 0 ∧
    ((dC 63 { static := true }).ctx 4095).static = true ∧
    (a.ctx 4095).static = false ∧ (a.ctx 4095).state = 1 ∧ a.qm.disabling = [] ∧ a.ctxQueues 4095 = [] ∧
    a.ctxPools 4095 = [] ∧ a.tiles = [] ∧
    a.covered (ctxObj 4095) = [] ∧ (inFlight a).covered (ctxObj 4095) ≠ [] ∧ (a.ctx 4095).abort = false := by
  decide +kernel

theorem witness_PartitionsStopAndStart :
    let d (p : Part) : Dev := { run with parts := [(63, p)] }
    let e : Dev := { inFlight (d { off := 1 }) with qm := { disabling := [{ obj := .partition 63, abort := false, limit := 0 }] } }
    ((d { static := true }).hostReq = 0 ∧ ((d { static := true }).part 63).static = true ∧
      ((d { off := 1 }).part 63).static = false ∧ ((d { off := 1 }).part 63).shed = false ∧
      ((d { off := 1 }).part 63).off = 1 ∧ (d { off := 1 }).qm.disabling = [] ∧
      (d { off := 1 }).covered (.partition 63) = [] ∧ (inFlight (d { off := 1 })).covered (.partition 63) ≠ [] ∧
      (d { off := 3 }).disBusy (.partition 63) = false ∧ ((d { shed := true }).part 63).shed = true) ∧
    (∃ x ∈ e.qm.disabling, x.obj = .partition 63 ∧ x.limit ≤ e.wb) ∧
    (∀ k ∈ e.covered (.partition 63), (e.op k).kind ≠ .request) ∧ (∀ b n, ((e.blk b).thr n).static = none) ∧ OpsOk e :=
  ⟨by decide +kernel, by decide +kernel, by decide +kernel, fun b n => by
      simp [Dev.blk, Block.thr, inFlight, run, live]; unfold blkDef; split <;> rfl,
    by unfold OpsOk; decide +kernel⟩

theorem witness_MirrorAndAccountingControls :
    live.hostReq = 0 ∧ ({ live with chip := { phase := .loading } }).hostReq = 1 := by decide +kernel

/-- The queue with one descriptor whose first word is `w0`. -/
def dPull (w0 : Nat) : Dev := (dQ 1 65535 65536).wrN (0x10000000 + 64 * 65535) 8 w0

theorem witness_DescriptorPullTakesTheNextDescriptor :
    let w (x : Nat) := bits ((dPull x).descWord 262143 ((dPull x).qHead 262143) 0) 0 8
    (dPull 1).pick.map (·.1) = some 262143 ∧ w 1 = 1 ∧ (dPull 1).pullError 262143 = 0 ∧
    (dPull 0).pick.map (·.1) = some 262143 ∧ (dPull 0).pullError 262143 ≠ 0 ∧ (dPull 0).srv.fairAct ≠ 1 ∧
    (dPull 0).descRefusal 262143 ((dPull 0).qHead 262143) = none ∧
    (let e : Dev := { dPull 1 with chip := { run.chip with image := some { img with fwDram := [] } } }
     e.pick.map (·.1) = some 262143 ∧ e.descRefusal 262143 (e.qHead 262143) = some (0, false) ∧ e.srv.fairAct ≠ 1) ∧
    (dPull 3).pick.map (·.1) = some 262143 ∧ w 3 = 3 ∧ (dPull 3).pullError 262143 = 0 := by decide +kernel

theorem witness_DispatchPlacesTheOldestOperation :
    let d (k : OpKind) : Dev := { run with
      ops := [(16384, { used := true, kind := k, entry := 0x5000000000 })], qm := { dispatch := [16384] } }
    (d .task).live = true ∧ (∀ t < 4, (d .task).replaceOne t = none) ∧ ((d .task).op 16384).status = none ∧
    (d .task).inOrder 16384 = true ∧ ((d .task).op 16384).kind = .task ∧
    (d .task).place ((d .task).op 16384) = (some 0, none) ∧ ((d .task).blk 0).freeThread = some 0 ∧
    (d .hubUnit).live = true ∧ (∀ t < 4, (d .hubUnit).replaceOne t = none) ∧ (d .hubUnit).inOrder 16384 = true ∧
    ((d .hubUnit).op 16384).kind = .hubUnit ∧ ∃ t < 4, 0 < (d .hubUnit).dynFree t := by decide +kernel

theorem witness_OperationsEndWithARecord :
    let o : Op := { used := true, ctx := 4095, part := 63 }
    let d (o : Op) (h : Bool) : Dev := { run with
      ops := [(16383, o)], ctxs := [(4095, { state := 1, cqHost := h })]
      host := { up := true, cfg := [(1, 4)] }, blocks := [(143, { threads := [(31, { op := some 16383 })] })] }
    let b := { o with block := some 143, thread := some 31 }
    (let e := d { o with status := some 0 } false
     (e.op 16383).used = true ∧ (e.op 16383).launches = 0 ∧ (e.op 16383).status = some 0 ∧ e.qm.disabling = [] ∧
      (e.ctx 4095).state ≠ 0 ∧ (e.ctx 4095).cqHost = false ∧ (d { o with status := some 0 } true).hostReady = true ∧
      e.overdue 16383 = false ∧ (∀ x < 4, (e.tile x).saves = []) ∧ e.refusalAt 720 0 0 0 32 true = none ∧
      (∀ x < 32, target x = .dram) ∧ Dev.refusalAt { e with chip := {} } 720 0 0 0 32 true = some (0, false)) ∧
    ((d b false).taskEnd 16383 = some 0 ∧ (((d b false).blk 143).thr 31).static = none) ∧
    (let e := d { o with kind := .fence } false
     (e.op 16383).kind = .fence ∧ (e.op 16383).status = none ∧ ∀ x ∈ e.ops, (e.op 16383).order ≤ x.2.order) ∧
    (∀ st ∈ [none, some stDone], (st.all outputValid) = true ∧
      ((d { o with deadline := some 0, status := st } false).op 16383).deadline = some 0 ∧
      0 ≤ (d { o with deadline := some 0, status := st } false).wb ∧
      (∀ x ∈ (d { o with deadline := some 0, status := st } false).blocks, x.2.eng = [])) ∧
    (let r := d { o with deadline := some 0, kind := .request } false
     (r.op 16383).kind = .request ∧ (r.op 16383).status = none ∧ (r.op 16383).deadline = some 0 ∧ 0 ≤ r.wb) ∧
    TrackersFree (d { o with deadline := some 0 } false) :=
  ⟨by decide +kernel, by decide +kernel, by decide +kernel, by decide +kernel, by decide +kernel,
    trackersFree_one rfl (by decide) rfl⟩

/-- A launch word SLOT_BEGIN in every wingbeat on logical block 31 of tile 3, and a dynamic task on it. -/
def dPre (k : Block) (saves : Table SavedSet) : Dev :=
  let d : Dev := { run with
    blocks := [(139, { k with threads := [(31, { op := some 1 })] })], ops := [(1, { used := true })]
    tiles := [(3, { saves := saves })] }
  (d.wrN hubBase 8 (8 * 16 + 3 * 2 ^ 32)).wrN (hubBase + 8) 8 (2 ^ 31)

theorem witness_PreemptionSavesAndResumes :
    let all : Table SavedSet := (List.range 32).map fun i => (i, {})
    let p : Preempt := { s := 0, start := 0, slot := 31 }
    let r : Dev := { run with tiles := [(3, { saves := [(31, { used := true, block := 139, part := 63 })] })] }
    ((dPre {} []).live = true ∧ ((dPre {} []).blk 139).preempt = none ∧ (dPre {} []).slotFar 139 4 = false ∧
      (dPre {} []).dynToks 139 ≠ [] ∧ ((dPre {} []).blk 139).beats = [] ∧ (dPre {} []).saveSlot (tileOf 139) = some 0 ∧
      (dPre {} all).saveSlot (tileOf 139) = none ∧ ((dPre {} all).dynToks 139).filter (dPre {} all).open_ ≠ [] ∧
      (dPre {} all).slotFar 139 4 = false) ∧
    (((dPre { preempt := some p } []).blk 139).preempt = some p ∧ MemOk (dPre { preempt := some p } []) ∧
      ((dPre { preempt := some p } []).blk 139).pools = [] ∧ ((dPre { preempt := some p } []).blk 139).eng = [] ∧
      (dPre { preempt := some p } []).time.now ≤ p.s * wingbeatNs) ∧
    (r.live = true ∧ r.tileUp 3 = true ∧ MemOk r ∧
      (r.tile 3).oldest = some (31, { used := true, block := 139, part := 63 }) ∧
      r.resumeBlock 3 { used := true, block := 139, part := 63 } = some 139 ∧ (r.blk 139).waiters = [] ∧
      ({ used := true, block := 139, part := 63 } : SavedSet).waiters = []) ∧
    (let g := { dPre { preempt := some p } [] with time := { now := 100000 } }
     (g.blk 139).preempt = some p ∧ p.start + 100000 ≤ g.time.now) := by
  unfold MemOk; decide +kernel

/-! ## Model serving -/

/-- Instance 7 described at 64 KiB, with its pool descriptor at 68 KiB. -/
def dInst (ctx : Nat) : Dev :=
  let d : Dev := { run with
    regs := [(R.qmSrvIsel, 7), (R.qmSrvIdescLo, 0x10000)], ctxs := [(4095, { state := 1, part := 63 })]
    parts := [(63, { declared := true, off := 1 })] }
  [(0x10000, 63 + ctx * 64), (0x10018, 2 ^ 29 + 2 ^ 40 + 2 ^ 43 + 2 ^ 51), (0x10020, 16 * 2 ^ 32), (0x10028, 0x11000),
    (0x10030, 0x30000), (0x11000, 0x100000), (0x11008, 1), (0x11010, 1 + 2 ^ 8 + 32 * 2 ^ 16 + 8 * 2 ^ 25),
    (0x11018, 0x40000), (0x11020, 0x50000), (0x11028, 2048)].foldl (fun d e => d.wrN e.1 8 e.2) d

theorem witness_InstancesLoadAndUnload :
    let a : Dev := { dInst 4095 with srv := { insts := [(7, { state := 1, ctx := 4095 })] } }
    let b : Dev := { a with ops := [(1, { used := true, kind := .request })]
                            srv := { insts := [(7, { state := 1 })], reqs := [(1, { inst := 7 })] } }
    (dInst 4095).hostReq = 0 ∧ (dInst 4095).iSel = 7 ∧ (dInst 4095).disBusy (instObj 7) = false ∧
    (dInst 4095).instCheck 7 = 0 ∧ (dInst 4094).instCheck 7 ≠ 0 ∧ ((dInst 4095).inst 7).state = 0 ∧
    (a.inst 7).state = 1 ∧ a.qm.disabling = [] ∧ a.covered (instObj 7) = [] ∧ b.covered (instObj 7) ≠ [] ∧
    (a.inst 7).state ≠ 0 ∧ (run.inst run.iSel).state = 0 ∧
    (a.host.up = true ∧ a.chip.lock = true ∧ a.host.d3 = false ∧ (dInst 4095).host.up = true ∧
      (dInst 4095).chip.lock = true ∧ (dInst 4095).host.d3 = false) := by
  decide +kernel

theorem witness_DescriptorPullCompletes :
    let d := dPull 1
    let q : Nat := 262143
    let x := d.ctx (d.qCtx q)
    d.live = true ∧ d.qm.cache = [q] ∧ d.qState q = 1 ∧ d.qHead q ≠ d.qTail q ∧ x.state = 1 ∧ (d.part x.part).off = 1 ∧
    (d.part x.part).shed = false ∧ d.cqHeld (d.qCtx q) = false ∧ x.cqHost = false ∧ d.srv.fairAct = 0 ∧
    bits (d.descWord q (d.qHead q) 0) 0 8 = 1 ∧ d.pullError q = 0 ∧
    ∃ t ∈ tilesOf (bits (d.descWord q (d.qHead q) 0) 12 4), 0 < d.dynFree t ∧ d.blksFull t x.part = false := by
  decide +kernel

theorem witness_LookupsAndStepBoundaries :
    let p : PlanEntry := ⟨1, 0, 0, 1, 0, 0⟩
    let d (v : Inst) (r : Req) : Dev := { run with
      srv := { insts := [(7, v)], reqs := [(1, r)] }, ops := [(1, { used := true, kind := .request })] }
    (((d {} { lookup := true, plen := 17 }).op 1).used = true ∧ ((d {} { lookup := true, plen := 17 }).op 1).status = none ∧
      ((d {} { lookup := true, plen := 17 }).req 1).lookup = true) ∧
    ((d { state := 1, step := [p] } {}).live = true ∧ ((d { state := 1, step := [p] } {}).inst 7).state = 1 ∧
      ((d { state := 1, step := [p] } {}).inst 7).running = [] ∧ ((d { state := 1, step := [p] } {}).inst 7).pass = 0 ∧
      ((d { state := 1, step := [p] } {}).inst 7).badKv = [] ∧ ((d { state := 1, step := [p] } {}).inst 7).step ≠ []) ∧
    (((d { state := 2, step := [p], pass := 1, statuses := [(0, 5)] } {}).inst 7).statuses.find? (fun e => !outputValid e.2)
      = some (0, 5) ∧ (5 ≠ stQuarantined ∧ 5 ≠ stMemory) ∧
      ((d { state := 2, step := [p], pass := 1, statuses := [(0, 5)] } {}).inst 7).state = 2) ∧
    (let e := d { state := 1, admitted := [1] } { inst := 7, ended := true }
     (e.inst 7).statuses = [] ∧ (e.inst 7).step = [] ∧ (e.inst 7).charges = [] ∧ (e.inst 7).waiting = [] ∧
      (e.inst 7).admitted = [1] ∧ e.qm.disabling = [] ∧ (e.req 1).ended = true ∧ (e.req 1).inst = 7 ∧
      (e.req 1).pfx = false ∧ (e.req 1).entries = [] ∧ e.rdN ((e.req 1).rec_ + 0x48) 8 = 0 ∧
      (e.op 1).kind = .request ∧ (e.op 1).status = none ∧ e.outStopped (e.req 1) = false ∧ (e.inst 7).running = [] ∧
      (e.inst 7).badKv = []) := by decide +kernel

/-! ## Redundancy, retirement and moulting -/

/-- A device with registers set. -/
def rg (d : Dev) (l : List (Nat × Nat)) : Dev := l.foldl (fun d e => d.setReg e.1 e.2) d

/-- Block 143 with one engine operation of partition 63, and block 142 as `k`. -/
def dEng (e : EngOp) (k : Block) (fraction : Nat := 0) : Dev :=
  { run with
    blocks := [(142, k), (143, { eng := [e], strikes := [5] })], parts := [(63, { fraction := fraction })]
    ops := [(1, { used := true, launches := 1 })], tiles := [(3, { copies := [(143, 1, false)] })]
    time := { now := 1000000000 } }
/-- An engine operation of token 1. -/
def eTok (stage : EngStage) : EngOp := { token := 1, part := 63, stage := stage, arb := some 142 }

theorem witness_RepeatComparison :
    let e := eTok .repeated
    let spare : Block := { svc := .standby, tested := true }
    let xs (l : List (Fin 8192)) := (e.repDiff ++ (l.map (·.val)).filter fun x => x / 4096 == e.half).eraseDups
    let w := { eTok .arbWait with arbFrame := 0 }
    let s : Dev := { live with sec := { dbgOpen := true, dbgParts := [63] } }
    (dEng e spare).repeated 143 = some e ∧ xs [8191] = [] ∧ (xs [0, 4095]).min? = some 0 ∧
    (dEng e spare).arbInTime e = true ∧ (dEng e spare).arbPick 143 e = some 142 ∧
    e.deadline = none ∧ (dEng e {} 5).arbPick 143 e = none ∧ (dEng e {} 5).repeated 143 = some e ∧
    (dEng { e with deadline := some 0 } {}).repeated 143 = some { e with deadline := some 0 } ∧
    (dEng { e with deadline := some 0 } {}).arbInTime { e with deadline := some 0 } = false ∧
    ((dEng w {}).blk 143).eng.find? (fun x => x.stage = .arbWait ∧ x.arbFrame + (dEng w {}).lc ≤ (dEng w {}).wb) = some w ∧
    s.sec.dbgOpen = true ∧ s.sec.dbgParts ≠ [] := by decide +kernel

theorem witness_ThirdPassDecides :
    let back : Dev := { dEng (eTok .copyBack) {} with tiles := [(3, { copies := [(143, 1, true)] })] }
    let d := dEng (eTok .third) {}
    (dEng (eTok .copyIn) {}).copyHead 3 false = some (143, eTok .copyIn, 142) ∧
    (d.blk 143).eng.find? (fun x => x.stage = .third) = some (eTok .third) ∧ (d.blk 142).beats = [] ∧
    (∀ k ∈ d.blocks, ∀ x ∈ k.2.eng, x.stage ≠ .arbWait) ∧
    (((d.blk 143).strikes.filter fun h => d.chip.hours - h ≤ 1000).length ≠ 2) ∧
    d.thirdBad 143 142 (eTok .third) = false ∧
    (let e := { eTok .third with differ := [0] }
     d.voteOf 143 142 e ⟨[], [0]⟩ = .first ∧ d.voteOf 143 142 e ⟨[0], []⟩ = .repeatPass ∧
      d.voteOf 143 142 e ⟨[0], [0]⟩ = .neither) ∧
    back.copyHead 3 true = some (143, eTok .copyBack, 142) ∧
    (∀ k ∈ back.blocks, ∀ x ∈ k.2.eng, x.stage ≠ .arbWait) := by decide +kernel

theorem witness_RetirementMovesToASpare :
    let r : Dev := { run with retire := [(143, 0x7004)] }
    let d (m : Moult) (k : Block) : Dev := { run with blocks := [(142, k)], tiles := [(3, { moults := [m] })] }
    let m : Moult := { retired := 143, lblock := some 31, at_ := some 1 }
    let m' : Moult := { retired := 143, lblock := some 31, at_ := some 0, spare := some 142 }
    let spare : Block := { svc := .standby, tested := true }
    let dd : Dev := { run with blocks := [(143, { donor := true, threads := [(31, {})] })]
                               tiles := [(3, { moults := [{ retired := 142, lblock := some 0, at_ := none, donor := some 143 }] })] }
    (r.retire.find? (fun r => r.1 = 143) = some (143, 0x7004) ∧ r.log.buf.length + (r.blk 143).beats.length < 4096 ∧
      (r.blk 143).chkFault = false ∧ (r.blk 143).eng = []) ∧
    (d m spare).moultOf 143 = some m ∧ 1 ≤ (d m spare).wb + 1 ∧
    (tileBlocks (tileOf 143)).find? (d m spare).spareOk = some 142 ∧
    (d m' spare).moultOf 143 = some m' ∧ 0 ≤ (d m' spare).wb ∧ (∀ c ∈ (d m' spare).ctxs, c.2.static = false) ∧
    (((d m' spare).blk 143).eng = [] ∧ ((d m' spare).blk 143).beats = [] ∧ ((d m' spare).blk 143).arbFor = none ∧
      (d m' spare).ops = [] ∧ (∃ k ∈ tileBlocks 3, k ≠ 142 ∧ ((d m' spare).blk k).svc = .standby)) ∧
    (((d m' {}).blk 142).svc ≠ .standby) ∧
    (dd.blk 143).donor = true ∧ (dd.blk 143).eng = [] ∧ (∀ e ∈ (dd.blk 143).threads, e.2.op = none) ∧
    (run.chip.computeReset = false ∧ run.chip.lock = true) ∧
    ({ run with chip := { computeReset := true } }).chip.computeReset = true := by decide +kernel

/-! ## The fusion front-end -/

/-- A lidar AVTPDU on sensor port 3 of stream ID 1: fragment 1 of 3 of frame 0, one point, sequence number 9. -/
def pdu (subtype : BitVec 8) : Avtpdu :=
  { port := 3, streamId := 1, timestamp := 0, tv := true, seqNum := 9, first := false, lastUnit := false
    lineOrFrag := 1, total := 3, data := List.replicate 16 0, subtype := subtype, points := 1 }
/-- Stream 63 of a kind and format on port 3, of partition 63, with one slot of 1 KiB at 64 KiB. -/
def dStr (kind fmt : Nat) (f : Stream) (trig : List Trig) (now : Nat) : Dev :=
  { rg run [(R.fuStreamCfg 63, 1 + 3 * 2 + kind * 8 + fmt * 64 + 1024 + 63 * 2 ^ 14), (R.fuStreamIdLo 63, 1),
      (R.fuStreamBase 63, 16), (R.fuStreamSlotb 63, 1)] with
    links := { up := [4] }, fus := { streams := [(63, f)] }, time := { now := now, exposures := trig } }
/-- Sixteen bytes of a frame in slot 0, one fragment of three received. -/
def asm0 : Asm := { slot := 0, first := 0, sensor := some 100000, bytes := 16, bad := false, got := 1, total := 3, frags := [0], next := 1 }

theorem witness_SensorDataBecomeFrames :
    let one : Stream := { asm := some asm0, nextSeq := some 9 }
    let ok (d : Dev) (p : Avtpdu) := d.chip.computeReset = false ∧ d.links.up.contains 4 = true ∧ p.frameBytes ≤ 9216 ∧
      p.fcsBad = false ∧ p.etherType.toNat = 0x22F0 ∧ supported p.subtype.toNat = true ∧ d.matchPdu p = some 63 ∧
      d.ofFormat 63 p = true ∧ d.strKind 63 ≠ 2 ∧ d.strKind 63 ≠ 3 ∧ (d.str 63).asm = some asm0 ∧
      d.continues 63 p asm0 = true ∧ (d.str 63).nextSeq = some 9 ∧
      (d.strKind 63 = 1 → p.total.val = asm0.total ∧ asm0.surplus p = false ∧ asm0.frags.length + 1 < p.total.val ∧
        16 * p.points.toNat ≤ p.data.length) ∧ p.lineOrFrag.val = asm0.next ∧ asm0.slot < 255 ∧
      p.lastUnit = false ∧ d.frameData 63 p ≠ [] ∧
      64 + asm0.bytes + (d.frameData 63 p).length ≤ d.slotBytes 63 ∧
      d.allowed (d.strInit 63) (d.strPart 63) (d.strSlot 63 0 + 64 + 16) (d.frameData 63 p).length true = true
    (9216 < ({ pdu 0x6F with overhead := 9201 } : Avtpdu).frameBytes ∧ ({ pdu 0x6F with fcsBad := true }).fcsBad = true ∧
      supported 0x04 = false ∧ supported (pdu 0x6F).subtype.toNat = true ∧
      ({ run with links := { up := [4] } } : Dev).matchPdu (pdu 0x6F) = none) ∧
    ok (dStr 0 0 one [] 0) (pdu 0x07) ∧ ok (dStr 1 5 one [] 0) (pdu 0x6F) := by
  refine ⟨by decide +kernel, by decide +kernel, by decide +kernel⟩

theorem witness_SensorWindowsClose :
    let g : Trig := ⟨63, 120000, 7⟩
    let whole (t : List Trig) := dStr 1 5 { ready := [asm0] } t 0
    let hit (t : List Trig) := asm0.sensor.bind fun x =>
      ((whole t).nearest 63 x).filter fun t => t.instant - x + (x - t.instant) ≤ 20000
    ((whole []).strKind 63 = 1 ∧ ((whole []).str 63).ready = [asm0] ∧ (whole []).live = true ∧
      (whole []).allowed 721 ((whole []).initPart 721) (hubBase + (whole []).fld (R.fuStreamExtr 63) 0 25) 48 false = true ∧
      (whole []).allowed 721 ((whole []).strPart 63) ((whole []).strSlot 63 0 + 64) 16 false = true ∧
      (whole []).allowed 721 ((whole []).strPart 63) ((whole []).strSlot 63 0 + 64) 12 true = true ∧
      hit [] = none ∧ hit [⟨63, 120001, 7⟩] = none ∧ hit [g] = some g ∧
      (whole [g]).time.now < (whole [g]).sealW ((whole [g]).updOf g.instant + 1) * wingbeatNs ∧
      (whole [g]).allowed ((whole [g]).strInit 63) ((whole [g]).strPart 63) ((whole [g]).strSlot 63 0) 64 true = true) ∧
    (let d : Dev := { run with time := { now := run.tv 0 } }
     d.live = true ∧ d.tv d.fus.win ≤ d.time.now) ∧
    (let d : Dev := { run with time := { now := 10 * wingbeatNs } }
     d.live = true ∧ d.time.now % wingbeatNs = 0 ∧ d.wb % 8 = 2 ∧ 10 ≤ d.wb ∧ d.fus.lastBlock ≤ d.wb / 8 - 1) := by
  decide +kernel

theorem witness_EgoMotionReads : (dStr 1 5 { ready := [asm0] } [] 0).egoMotion.1 = dStr 1 5 { ready := [asm0] } [] 0 := rfl

/-- The front-end with `w` in the mailbox of a kind. -/
def dOut (kind w : Nat) (f : Fusion) : Dev := (({ run with fus := f } : Dev).wrN (hubBase + 64 * kind) 8 w)

theorem witness_UpdatesAreSealedCommittedAndReleased :
    let d : Dev := { run with fus := { began := true, sealed := some 4 } }
    let f (u : Update) : Fusion := { began := true, sealed := some 5, ups := [u], instar := true, left := 1 }
    let w (kind : Nat) := kind + 5 * 2 ^ 16
    let u (e c : Bool) : Update := { k := 5, evid := e, closed := c }
    let at_ (kind : Nat) (g : Fusion) := (dOut kind (w kind) g).commitReason kind
      ((dOut kind (w kind) g).rdN (hubBase + (dOut kind (w kind) g).fld R.fuMboxBase 6 19 * 64 + 64 * kind) 8)
    let up (g : Fusion) := (dOut 1 (w 1) g).upOf 5
    let r (evid state : Bool) : Dev := { run with
      time := { now := 1000000000 }, fus := { ups := [{ k := 0, evid := evid, state := state }] } }
    let due (d : Dev) := d.fus.ups.find? fun u => !u.closed && decide (d.relW u.k ≤ d.wb)
    (let s : Dev := { d with time := { now := d.sealW 5 * wingbeatNs } }
     s.live = true ∧ s.fus.began = true ∧ s.time.now = s.sealW 5 * wingbeatNs ∧ s.fus.sealed = some 4 ∧
      0 < s.lp ∧ s.allowed 721 (s.initPart 721) (hubBase + (s.fld R.fuIsetBase 6 19 * 64 + 5 % 2 * 0x800)) 1088 true = true) ∧
    (dOut 4 5 (f (u true false))).commitReason 4
      ((dOut 4 5 (f (u true false))).rdN (hubBase + (dOut 4 5 (f (u true false))).fld R.fuMboxBase 6 19 * 64 + 256) 8) ≠ 0 ∧
    at_ 4 (f (u true false)) = 0 ∧ at_ 5 (f (u true false)) = 0 ∧
    (at_ 1 (f (u true false)) = 0 ∧ (up (f (u true false))).evid = true) ∧
    (dOut 1 (w 1) (f (u true false))).allowed 721 0 ((dOut 1 (w 1) (f (u true false))).outSlot 1 0) 64 true = true ∧
    (at_ 2 (f (u false true)) = 0 ∧ (up (f (u false true))).closed = true) ∧
    (at_ 1 (f (u false false)) = 0 ∧ (up (f (u false false))).evid = false ∧ (up (f (u false false))).closed = false ∧
      (dOut 1 (w 1) (f (u false false))).unsealed 5 = false ∧ (f (u false false)).ups = [u false false]) ∧
    (let e := dOut 1 (1 + 6 * 2 ^ 16) (f (u false false))
     e.commitReason 1 (1 + 6 * 2 ^ 16) = 0 ∧ e.unsealed 6 = true ∧ (e.upOf 6).evid = false ∧ (e.upOf 6).closed = false) ∧
    (let e := dOut 1 (1 + 4 * 2 ^ 16) (f (u false false))
     e.commitReason 1 (1 + 4 * 2 ^ 16) = 0 ∧ e.unsealed 4 = false ∧ ∀ x ∈ e.fus.ups, x.k ≠ (e.upOf 4).k) ∧
    (at_ 3 (f (u false false)) = 0 ∧ (f (u false false)).sealed = some (up (f (u false false))).k ∧
      (up (f (u false false))).state = false) ∧
    (at_ 0 (f (u false false)) = 0 ∧ (dOut 0 (w 0) (f (u false false))).allowed 721 0
      ((dOut 0 (w 0) (f (u false false))).outSlot 0 0 + 64) 192 false = true) ∧ (r true true).initPart 721 = 0 ∧
    due (r true true) = some { k := 0, evid := true, state := true } ∧
    due (r false true) = some { k := 0, evid := false, state := true } ∧
    due (r true false) = some { k := 0, evid := true, state := false } ∧
    (r true false).fus.stale + 1 < (rg (r true false) [(R.fuInstarCfg, 0x200)]).fld R.fuInstarCfg 8 4 ∧
    (let x := rg (r true false) [(R.fuInstarCfg, 0x100)]
     due x = some { k := 0, evid := true, state := false } ∧ x.fld R.fuInstarCfg 8 4 ≤ x.fus.stale + 1 ∧ MemOk x) ∧
    (let x := rg (r true false) [(R.fuInstarCfg, 0x100), (R.fuStateInit, 1), (R.fuStateSize, 1)]
     x.allowed 721 0 (x.fld R.fuStateInit 0 28 * 4096) (x.fld R.fuStateSize 0 7 * mib) false = true ∧
      x.allowed 721 0 x.stateBufs.1 (x.fld R.fuStateSize 0 7 * mib) true = true) := by
  unfold MemOk; decide +kernel

/-! ## The collision engine and the output gate -/

/-- The planner `p`, with a map in buffer 0 of which the last eighth is occupied and an eyespot table of it, two candidates of frame 0 in slots 0 and 1, the second a
cocoon of the first, and `w` in the mailboxes. -/
def dPl (p : Planner) (w : Nat) : Dev :=
  let d := rg { run with pl := p } [(R.plMapCfg, 8 * 4), (R.plMapBase, 256), (R.plMapBuf, 1), (R.plMbox, 0x1000000)]
  let d := (List.range 32).foldl (fun d i => d.wrN (d.mapBuf 0 + 0x2100 + 16 * i) 8
    (i % 2 * 128 * 0x100010001 + (1 + i % 2) * 2 ^ 56)) d
  let d := ((d.wrN (d.mapBuf 0 + 4) 4 2).wrN (d.mapBuf 0 + 0x4000) 8 (0x80 * 2 ^ 32 + 2 ^ 40)).wrN (d.mapBuf 0 + 0x4008) 8 1
  ((d.wrN (d.setBuf + 256 + 5) 1 1).wrN d.plMail 8 w).wrN (d.plMail + 0x40) 8 w

theorem witness_MapsSetsAndChecks :
    let reason (p : Planner) (w : Nat) := (dPl p w).mapReason ((dPl p w).plN (dPl p w).plMail 8)
    let set_ (p : Planner) (w : Nat) := (dPl p w).setReason ((dPl p w).plN ((dPl p w).plMail + 0x40) 8)
    let p : Planner := { opened := true, valid := true, lanes := [⟨0, 0, 0⟩] }
    (reason {} 1 ≠ 0 ∧ reason {} 0 = 0) ∧ (set_ {} 1 ≠ 0 ∧ set_ p 4096 = 0 ∧ set_ p 4097 ≠ 0) ∧
    (dPl p 0).allowed 722 (dPl p 0).mapPart ((dPl p 0).plMail + 0x40) 8 false = true ∧
    (dPl p 0).live = true ∧ (dPl p 0).pl.opened = true ∧ (dPl p 0).pl.closed = false ∧
    (dPl p 0).pl.lanes = [⟨0, 0, 0⟩] ∧ (dPl p 0).pl.newest = 0 ∧
    ((dPl p 0).verdict ⟨0, 0, 0⟩).2.2.2 = (none, none) ∧ ((dPl p 0).verdict ⟨0, 0, 0⟩).1 = 3 := by decide +kernel

theorem witness_MapReads : ∀ w ∈ [0, 1], (dPl {} w).mapReads ((dPl {} w).plN (dPl {} w).plMail 8) = dPl {} w := by
  decide +kernel

theorem witness_GateSelectsReleasesAndReports :
    let cand : Table Cand := [(0, { verdict := 1 }), (1, { verdict := 1 })]
    let p : Planner := { opened := true, valid := true, count := 2, cands := cand, eyeTick := true, eyeAcc := true }
    let on (p : Planner) : Dev := { dPl p 0 with chip := { run.chip with primaryEn := true }
                                                 chA := { state := .monitoring }, chB := { state := .monitoring } }
    let q : Planner := { released := some (0, 1, 2, 3, 0) }
    let out (i : Bool) : Dev := { rg run [(R.plQbv 0, 0x10000 + 1 + 2 * 10000)] with
      pl := q, chB := { inhibit := i }, time := { now := 1000000000 } }
    let t (p : Planner) : Dev := { on p with time := { now := 1000000000 } }
    (((t p).live = true ∧ (t p).pl.selected = false ∧ (t p).pl.choice = none ∧
      ((t p).pl.frame * (t p).lc + (t p).fld R.plGateCfg 0 8) * wingbeatNs ≤ (t p).time.now) ∧
     (t p).due 0 - (t p).fld R.plGateCfg 16 8 * 1000 ≤ (t p).time.now ∧ (t p).gateCauses = [] ∧ (t p).best = some 0 ∧
     (t p).chA.state ≠ .reset ∧ (t p).chB.state ≠ .reset) ∧
    ((t p).pl.opened = true ∧ (t p).pl.closed = false ∧ (t { p with eyeAcc := false }).gateCauses = [2] ∧ (t { p with eyeAcc := false }).pl.eyeFails ≠ 2) ∧
    ((out true).pl.released = some (0, 1, 2, 3, 0) ∧ (out true).due 0 ≤ (out true).time.now ∧
      (∀ i ∈ [true, false], (out i).live = true ∧
        qbvOpen (out i).qbv ((out i).time.now % ((out i).lc * wingbeatNs) / 1000) = true) ∧
      (out true).chB.inhibit = true ∧ (out false).chA.inhibit = false ∧ (out false).chB.inhibit = false) ∧
    ({ run with pl := { sent := [(1, 9)] } } : Dev).pl.sent.find? (fun e => e.1 == 1) = some (1, 9) := by decide +kernel
/-! ## Islands, resets and power -/

/-- A running module with the islands `x` and `y`. -/
def dIsl (x y : Island) (now : Nat := 1000000000) : Dev := { run with chA := x, chB := y, time := { now := now } }
/-- An island in service. -/
def serving : Island := { state := .monitoring, loaded := true }

theorem witness_SafeStateIsCommitted :
    let d (x : Island) := dIsl x serving
    let m : Island := { serving with req := [7, 2], vote := true }
    (((d m).isl .a).req = [7, 2] ∧ ((d m).isl .a).running = true ∧ ((d m).isl (islPeer .a)).loaded = true ∧
      (d m).chip.noPrimary < 2 ∧ (d m).blocks = [] ∧ (d m).log.buf.length < 4096) ∧
    (((d { m with state := .safe }).isl .a).req = [7, 2] ∧ ((d { m with state := .safe }).isl .a).running = false ∧
      ((d { m with state := .safe }).isl .a).state ≠ .halted) ∧
    ((d { m with state := .halted }).isl .a).state = .halted ∧
    (let p := d { serving with peerReq := some 8, req := [7] }
     (p.isl .a).peerReq = some 8 ∧ (p.isl .a).running = true ∧ 8 ∉ (p.isl .a).req) ∧
    (let p := d { serving with peerReq := some 8, req := [8] }
     (p.isl .a).peerReq = some 8 ∧ 8 ∈ (p.isl .a).req) := by decide +kernel

theorem witness_ComputeDomainIsReset :
    let d (c : Chip) (p : Power) : Dev := { dIsl serving serving with chip := c, pwr := p }
    let hot : Power := { raw := List.replicate 119 1600 ++ [1888, 0, 0, 0, 0] }
    let on : Chip := { phase := .running, safeActive := true }
    let rec_ : Chip := { phase := .recovering }
    let trip : Power := { tripped := true, raw := List.replicate 124 1599 }
    ((d on {}).chip.safeActive = true ∧ (d on {}).chip.computeReset = false ∧ (d on {}).chip.phase ≠ .modReset ∧
      (d on {}).chip.resetDone = false ∧ (d on {}).recovering = false ∧ (d on {}).chip.safeAt / wingbeatNs < (d on {}).wb) ∧
    (∀ i < 16, stepEnd i ≠ none → (let e : Dev := { d rec_ {} with time := { now := 3000000001 } }
      e.recovering = true ∧ 3000 = min 65535 e.recMs ∧ e.chip.noPrimary < 2 ∧
        (stepEnd i).any (fun n => decide (e.chip.recStart + n * 1000000 < e.time.now)) = true)) ∧
    ((869 < (railWindow 2).1 ∨ (railWindow 2).2 < 869) ∧ (d on {}).chip.computeReset = false ∧
      ({ on with computeReset := true }).computeReset = true ∧ (d on {}).blocks = []) ∧
    ((d on { hot with raw := hot.raw.set 118 (-900) }).pwr.tripped = false ∧
      (d on { hot with raw := hot.raw.set 118 (-900) }).trips 59 = true) ∧
    ((d rec_ trip).pwr.tripped = true ∧ (d rec_ trip).chip.computeReset = false ∧ (d rec_ trip).recovering = true ∧
      ((d rec_ trip).pwr.raw.take 120).all (fun x => validT x && decide (x < 1600)) = true ∧
      ((d rec_ { trip with raw := hot.raw }).pwr.raw.take 120).all (fun x => validT x && decide (x < 1600)) = false) := by
  decide +kernel

theorem witness_FramesAreEvaluated :
    let now := 1009900000
    let d (x : Island) := dIsl x serving now
    let f := (d {}).ctrlFrame
    let ok (x : Island) := x.judges = true ∧ x.evalFrame ≠ f ∧ (d x).due f + 20000 ≤ now ∧ x.want = none
    let rel : Island := { serving with repFrame := some f, confirmed := [f] }
    (ok rel ∧ rel.state = .monitoring ∧ rel.repFrame = some f ∧ rel.repCause = 0 ∧ f ∈ rel.confirmed) ∧
    (ok { rel with confirmed := [] } ∧ f ∉ ({ rel with confirmed := [] } : Island).confirmed ∧ rel.playout = false ∧
      rel.runOut + 1 ≠ ((d rel).chip.image.map (·.island.playoutLimit)).getD 100) ∧
    (ok { rel with state := .safe } ∧ ({ rel with state := .safe } : Island).gotFrame f = true) ∧
    (ok { rel with state := .safe, repCause := 2 } ∧ ({ rel with repCause := 2 } : Island).gotFrame f = false) ∧
    (let x : Island := { rel with playout := true, repCause := 2 }
     let e : Dev := { d x with chip := { run.chip with image := some { img with island := ⟨1, 0, 0, 0, 0⟩ } } }
     ok x ∧ e.chip.safeActive = false ∧ x.runOut + 1 = (e.chip.image.map (·.island.playoutLimit)).getD 100 ∧ x.repCause ≠ 0) ∧
    (rel.badFeeds ≠ 2 ∧ rel.repUsed ≠ some f ∧ rel.prevRep.map (·.1) ≠ some f) ∧
    (rel.lastMsg ≠ some f ∧ (d rel).due f ≤ now ∧ ({ rel with repCause := 2 } : Island).repCause ≠ 0) ∧
    (rel.loaded = true ∧ rel.lastStatus ≠ some f ∧ (d rel).due f + 50000 ≤ now) ∧
    (({ rel with cocoon := [0] } : Island).cocoon ≠ []) ∧
    (let g := f + 1
     let x : Island := { rel with want := some g }
     x.want = some g ∧ (true && x.copyOk g (List.replicate 256 0) && (List.replicate 256 (0 : Byte)).length == 256 &&
        decide ((d x).time.now ≤ (d x).due g + 125000)) = true ∧
      (false && x.copyOk g [] && ([] : List Byte).length == 256 && decide ((d x).time.now ≤ (d x).due g + 125000)) = false) := by
  decide +kernel

theorem witness_HeartbeatsVotesAndSelfTests :
    let h : Heartbeat := { w := 0, state := 3, vote := true, playout := false, injected := true, therm := 0, cocoonF := 0
                           cocoonCrc := 0, reportF := 0, outcome := 1 }
    let d (x : Island) := dIsl x serving 40000
    let dw : Dev := dIsl { serving with awaiting := some 0 } serving ((d serving).fld R.plGateCfg 8 8 * wingbeatNs)
    let b (k : Block) : Dev := { dIsl serving serving 4000000000 with blocks := [(143, k)] }
    (((d { serving with lastHbW := 1 }).isl .a).loaded = true ∧ ({ serving with lastHbW := 1 } : Island).lastHbW ≠ (d {}).wb ∧
      40000 ≤ (d {}).time.now % wingbeatNs) ∧
    (h.w = serving.ownW % 65536 ∧ max serving.ownStep h.therm = serving.step ∧
      (d serving).wb ≠ (d serving).ctrlFrame * (d serving).lc + (d serving).fld R.plGateCfg 8 8) ∧
    (({ h with w := 65535 } : Heartbeat).w ≠ serving.ownW % 65536 ∧ serving.state ≠ .halted) ∧
    (dw.wb = dw.ctrlFrame * dw.lc + dw.fld R.plGateCfg 8 8 ∧ dw.chA.awaiting = some dw.ctrlFrame ∧ dw.chA.playout = false ∧
      dw.chA.runOut + 1 ≠ (dw.chip.image.map (·.island.playoutLimit)).getD 100 ∧ h.reportF = dw.ctrlFrame % 2 ^ 30 ∧ h.outcome = 1) ∧
    (({ serving with peerOk := true, missHb := 2 } : Island).peerOk = true) ∧
    (let y : SelfTest := ⟨0x1FFFFC0, 7, 65535, 0, 0⟩
     ((b { selftest := some y }).blk 143).svc = .inService ∧ ((b { selftest := some y }).blk 143).selftest = some y) ∧
    (((b { svc := .standby }).blk 143).svc = .standby ∧ ((b { svc := .standby }).blk 143).selftest = none) ∧
    ((b {}).live = true ∧ ((b {}).blk 143).overdue = false ∧ (b {}).passSince 143 + (b {}).dti < (b {}).time.now) := by
  decide +kernel

theorem witness_SensorsPhasesAndLife :
    let d (q : Pair) : Dev := { dIsl serving serving with pwr := { floor := { pairs := [(61, q)] } } }
    let p : Dev := { run with pwr := { isolated := [432] }, chA := serving }
    (d {}).chip.t0 + 1000000000 ≤ ((d {}).time.now : Int) ∧
    (((d { run := 100 }).pwr.floor.pair 61).due = true ∧ ((d { run := 100 }).pwr.floor.pair 61).failed = false) ∧
    (((d { run2 := 100, failLo := true }).pwr.floor.pair 61).due = true ∧
      ((d { run2 := 100, failLo := true }).pwr.floor.pair 61).failed = true) ∧
    ((d { run := 99 }).pwr.floor.pair 61).due = false ∧
    (p.chip.phase ≠ .modReset ∧ 431 ∉ p.pwr.isolated ∧ 439 ∉ p.pwr.isolated ∧ p.groupOut 0 = 1 ∧
      (p.blk 143).eng = [] ∧ (p.blk 143).beats = [] ∧ (p.blk 143).arbFor = none ∧ (p.blk 143).chkFault = false ∧
      p.ops = [] ∧ (p.blk 143).svc = .standby) ∧
    (({ serving with lifeDue := true } : Island).lifeDue = true ∧ p.chip.computeReset = false) ∧
    (let e : Dev := { p with chip := { run.chip with hours := 1000 } }
     e.chA.loaded = true ∧ e.chA.lifeRep + 1000 ≤ e.chip.hours) := by decide +kernel

/-! ## Hangs -/

/-- Tile 3 as `x`, block 143 as `k`, with an operation of context 9 on its last thread. -/
def dTile (x : Tile) (k : Block) (now : Nat := 1000000000) : Dev :=
  { run with tiles := [(3, x)], blocks := [(143, k)], ops := [(1, { used := true, ctx := 9, block := some 143, thread := some 31 })]
             time := { now := now } }
/-- A block whose last thread hangs. -/
def stuck : Block := { threads := [(31, { op := some 1, stuck := 16 })] }

theorem witness_HangsResetTheirRegion :
    let apart (d : Dev) : Prop :=
      (∀ k ∈ d.blocks, tileOf k.1 ≠ 3 → ∀ h ∈ k.2.threads, ∀ g ∈ h.2.grants, tileOf g.block ≠ 3) ∧
      (∀ k ∈ d.tiles, ∀ x ∈ k.2.saves, tileOf x.2.block ≠ 3 → ∀ h ∈ x.2.threads, ∀ g ∈ h.2.grants, tileOf g.block ≠ 3) ∧
      ∀ b ∈ tileBlocks 3, (d.blk b).eng = []
    let d := dTile {} stuck
    let e := dTile {} {}
    (d.live = true ∧ (d.tile 3).region = 0 ∧ (d.corruptAt 3 []).hungBlocks 3 ≠ [] ∧ OpsOk d ∧ apart d) ∧
    (e.live = true ∧ (e.tile 3).region = 0 ∧ (e.corruptAt 3 [35]).hungBlocks 3 ≠ [] ∧ OpsOk e ∧ apart e) ∧
    (let f (x : Tile) := dTile x { ending := [9] }
     (f {}).live = true ∧ (f {}).abandoning 143 = true ∧ (f {}).tile 3 = {} ∧ OpsOk (f {}) ∧ apart (f {}) ∧
      ((f { region := 2, blkReset := [(142, 0)] }).tile 3).region = 2 ∧
      ((f { region := 2, blkReset := [(142, 0)] }).tile 3).blkReset.any (·.1 == 143) = false ∧
      ((f { resets := 3 }).tile 3).resets = 3) := by
  unfold OpsOk; decide +kernel

theorem witness_SuspectsAreReplayed :
    let r : Tile := { region := 1, hung := some 143, suspects := [9] }
    let y : Tile := { region := 2, hung := some 143, replayBlk := some 143, current := some 9 }
    let c : Tile := { y with current := some 8 }
    let dyn (d : Dev) := (d.hungCtxs 143).filter fun c => !(d.ctx c).static && decide (c < 4096)
    let again (d : Dev) := if (d.tile 3).replayBlk = some 143 then (d.tile 3).current.toList else []
    let gone (d : Dev) := again d ++ (dyn d).filter fun c => (d.tile 3).doneSus.contains c && !(again d).contains c
    ((dTile r {}).live = true ∧ (dTile r {}).time.now % wingbeatNs = 0 ∧ ((dTile r {}).tile 3).region = 1 ∧
      ((dTile r {}).tile 3).resetAt < (dTile r {}).time.now ∧ ((dTile { r with suspects := [] } {}).tile 3).suspects = [] ∧
      ((dTile r {}).tile 3).replayBlk = none ∧ ((dTile r {}).tile 3).suspects = [9] ∧ ((dTile r {}).tile 3).hung = some 143 ∧
      (dTile r {}).resetLate ((dTile r {}).tile 3).resetAt = true ∧ ((dTile r {}).tile 3).failed = false ∧
      (let t := { r with resetAt := 999900000 }
       (dTile t {}).resetLate ((dTile t {}).tile 3).resetAt = false ∧ ((dTile t {}).tile 3).resetAt < (dTile t {}).time.now)) ∧
    ((dTile { y with blkReset := [(142, 0)] } {}).live = true ∧
      ((dTile { y with blkReset := [(142, 0)] } {}).tile 3).blkReset.any (·.1 == 143) = false) ∧
    (((dTile y stuck).tile 3).region = 2 ∧ ((dTile y stuck).tile 3).blkReset = [] ∧ ((dTile y stuck).blk 143).hung ≠ [] ∧
      (∀ k ∈ (dTile y stuck).blocks, k.1 ≠ 143 → ∀ h ∈ k.2.threads, ∀ g ∈ h.2.grants, g.block ≠ 143) ∧
      y.saves = [] ∧ ((dTile y stuck).blk 143).arbFor = none ∧ ((dTile y stuck).blk 143).beats = [] ∧
      (((dTile y stuck).blk 143).thr 31).static = none ∧
      gone (dTile y stuck) = [9] ∧ gone (dTile { c with replayBlk := some 142 } stuck) = []) ∧
    (((dTile c {}).tile 3).current = some 8 ∧ (dTile c {}).replaying 3 8 = false ∧ ((dTile c {}).tile 3).suspects = [] ∧
      ((dTile c {}).tile 3).hungMore = [] ∧ ((dTile c {}).tile 3).replayBlk.isSome = true ∧ ((dTile c { hangs := [0, 0] }).blk 143).hangs.length = 2 ∧
      ((dTile { c with suspects := [7] } {}).tile 3).suspects = [7] ∧
      ((dTile { c with blkReset := [(142, 0)] } {}).tile 3).blkReset ≠ []) ∧
    (let w : Tile := { watch := { copyPath := { stuck := 16 } } }
     let u : Dev := { dTile {} {} with ops := [(9, { used := true, kind := .ppu, placed := true, began := 997950000 })] }
     (dTile w {}).live = true ∧ (dTile w {}).unitHung 3 2 = true ∧ u.unitHung 4 0x20 = true ∧ u.unitHung 4 0xFF = true) ∧
    ((dTile { region := 1 } {}).resetFailed 3 1 = true ∧ (dTile { blkReset := [(143, 998999999)] } {}).resetFailed 3 2 = true ∧
      (dTile { blkReset := [(143, 999000000)] } {}).resetFailed 3 2 = false ∧
      (dTile { blkReset := [(143, 999000000)] } {}).resetFailed 3 3 = true) := by decide +kernel
/-! ## Memory -/

/-- DRAM as `m`, out of self-refresh, with rank 0 in the general pool. -/
def dMem (m : Dram) : Dev := { run with dram := { m with general := [0] } }
/-- An access of granule 1,023 by the attestation unit, for an operation's token or none. -/
def acc (w0 w1 : Fin 4) (bad : Fin 10) (token : Option (Fin 16384) := none) : DramAcc :=
  { init := 720, addr := 65472, token := token, wrong0 := w0, wrong1 := w1, symbol := 31, cacheBad := bad }
/-- The cache with a line of granule 1,023. -/
def cached : Dram := { cache := [(Config.cacheSet 1023 % 65536, [⟨1023, 15, true, 0, false⟩])] }

theorem hits (a : DramAcc) (h : a.addr.val = 65472) :
    ((dMem cached).cacheSetOf (a.addr.val / 64)).find? (fun l => l.granule = a.addr.val / 64) = some ⟨1023, 15, true, 0, false⟩ := by
  simp [h, Dev.cacheSetOf, dMem, cached, tget]

theorem witness_MemoryReadsAndWrites :
    let d := dMem {}
    let why (d : Dev) (a : DramAcc) (w : Bool) : Option (Nat × Bool) :=
      let q := d.dramReq a none
      if d.fld (R.mcReg q.key) 0 8 = 0 then some (5, false)
      else match d.refusal a.init q.part a.addr w false with
        | some r => some r
        | none => if d.locate a.addr = none then some (6, true) else none
    let a := acc 0 0 0
    let up (d : Dev) := d.dramUp = true ∧ a.ok = true ∧ PortFree d (d.dramReq a none) ∧ target 65472 = .dram
    let capped := rg d [(R.mcReg 96, 0)]
    let bare : Dev := { d with dram := {} }
    let shut : Dev := { d with chip := { run.chip with image := none } }
    let busy : Dev := { d with ops := [(1, { used := true })] }
    (up d ∧ why d a false = none ∧ d.keyGone 65472 1 = none ∧ d.locate 65472 = some (0, 65472, 1) ∧
      d.cacheSetOf 1023 = [] ∧ d.dram.mig.any (·.source = 0) = false) ∧
    (up capped ∧ why capped a false = some (5, false)) ∧ (up shut ∧ why shut a true = some (0, false)) ∧
    (up bare ∧ why bare a true = some (6, true)) ∧
    (d.decodeOf (acc 0 0 0) = 0 ∧ d.decodeOf (acc 1 0 0) = 1 ∧ d.decodeOf (acc 1 1 0) = 2 ∧ d.decodeOf (acc 0 2 0) = 3 ∧
      d.decodeOf (acc 3 0 0) = 0 ∧ d.decodeOf (acc 1 3 0) = 1) ∧
    (up (dMem cached) ∧ why (dMem cached) (acc 0 0 9) false = none ∧ (dMem cached).keyGone 65472 1 = none) ∧
    (∀ n ∈ [64, 1], (Instr.dramWrite a ⟨List.replicate n 7, true⟩).wf = true) ∧ why d a true = none ∧
    (let e : Dev := { d with chip := { run.chip with hours := 24 } }
     e.dramUp = true ∧ eachOnce id (List.filter e.scrubs [65472 + 31, 65472]) = [65472 + 31] ∧ e.live = true ∧
      e.scrubPasses = true ∧
      e.dram.patrol + e.fld R.mcScrubCfg 0 16 ≤ e.chip.hours) ∧
    (up busy ∧ why busy (acc 0 2 0 (some 1)) false = none ∧ PortFree busy (busy.dramReq (acc 0 2 0 (some 1)) none) ∧
      (busy.op 1).used = true ∧ (busy.op 1).status = none ∧ (busy.op 1).kind ≠ .request) := by
  simp only [PortFree]
  refine ⟨?_, ?_, ?_, ?_, ?_, ?_, ?_, ?_, ?_, ?_⟩ <;> decide +kernel

theorem witness_MemoryReadsAndWrites_notKv : NotKv (dMem {}) 65472 ∧ TrackersFree { dMem {} with ops := [(1, { used := true })] } :=
  ⟨by unfold NotKv; decide +kernel, trackersFree_one (k := 1) rfl (by decide) rfl⟩

/-- Port 6 with a cap of one request of class 0, the register MC_QOS at `qos`, and the DRAM as `m`. -/
def dPort (m : Dram) (qos : Nat := 0) : Dev := rg (dMem m) [(R.mcQos 6, qos)]

theorem witness_RequestsWaitTheirTurn :
    let a : DramAcc := { acc 0 0 0 with low := 9, fill := 9 }
    let full (m : Dram) : Dram := { m with out := [(96, 1)] }
    let held := (dMem {}).dramReq a none
    let up (d : Dev) := d.dramUp = true ∧ a.ok = true ∧ a.returned = [] ∧ d.host.bar2 = []
    let one : RefreshIn := { bank := 255, calls := 1 }
    let cap (d : Dev) := d.fld (R.mcReg (d.dramReq a none).key) 0 8
    let out (d : Dev) : Nat := tget (fun _ => 0) d.dram.out (d.dramReq a none).key
    let turn (d : Dev) := tget (fun _ => []) d.dram.wait (d.dramReq a none).key = [] ∧ out d < cap d
    (up (dPort (full {})) ∧ 0 < cap (dPort (full {})) ∧ cap (dPort (full {})) ≤ out (dPort (full {}))) ∧
    (up (dPort {}) ∧ turn (dPort {})) ∧
    (let e := dPort { chans := [(0, { retraining := some 5 })] }
     up e ∧ turn e ∧ e.locate a.addr = some (0, 65472, 1) ∧ e.chanWaits a.addr = true) ∧
    (let e := dPort (full {}) (2 + 9 * 16)
     up e ∧ e.fld (R.mcQos (e.dramReq a none).port) 0 2 = 2 ∧ a.low.val = a.fill.val ∧
      e.fld (R.mcQos (e.dramReq a none).port) 4 4 ≤ a.fill.val ∧ 0 < cap e ∧ cap e ≤ out e ∧
      (e.dramReq a none).port ∉ e.dram.panic ∧ 6 ∈ ({ e.dram with panic := [6] } : Dram).panic) ∧
    (let e := dPort (full {}) (2 + 10 * 16)
     up e ∧ a.fill.val < e.fld (R.mcQos (e.dramReq a none).port) 4 4 ∧ 0 < cap e ∧ cap e ≤ out e) ∧
    (let e := dPort (full {})
     up e ∧ 16 * portOf a.init + (1 : Fin 16).val ≠ (e.dramReq a none).key ∧
      tget (fun _ => []) e.dram.wait (16 * portOf a.init + (1 : Fin 16).val) = [] ∧ 0 < cap e ∧
      cap e ≤ tget (fun _ => 0) e.dram.out (e.dramReq a none).key) ∧
    (let e := dPort { chans := [(0, { held := [held] })] }
     e.dramUp = true ∧ (e.chan 0).failed = false ∧ (e.chan 0).retraining = none ∧ (e.chan 0).held = [held] ∧
      e.locate held.acc.addr = some (0, 65472, 1) ∧
      ¬ (e.selfRefreshes 0 = true ∧ e.selfRefreshes 1 = true) ∧ twf (fun _ => 0) (e.chan 0).refresh = true ∧
      ∀ bank < 256, (let n := tget (fun _ => 0) (e.chan 0).refresh (256 + bank)
        (if bank = one.bank.val then n + one.calls.val - b2n (!one.postponed) else n) = 0)) := by
  refine ⟨by decide +kernel, by decide +kernel, by decide +kernel, by decide +kernel, by decide +kernel, by decide +kernel, by decide +kernel⟩

theorem witness_RanksAndChannels :
    let d (c : Chan) (m : Option Mig) : Dev :=
      { run with dram := { chans := [(47, c)], mig := m, general := [0, 2], queue := [(0, 1)] }
                 time := { now := 100000000 }, chip := { run.chip with hours := 24 } }
    let m (n : Nat) : Mig := { logical := 0, source := 0, spare := 89, cause := 1, start := 0, step := n }
    let run_ (c : Chan) (e : Nat) : Nat := match c.entryRun with
      | some (x, n) => if x = e then n + 1 else 0
      | none => 0
    ((d {} none).dramUp = true ∧ ((d {} none).chan 47).failed = false ∧
      ((d {} none).chan 47).held = [] ∧ ((d { retraining := some 5 } none).chan 47).held = [] ∧
      (d {} none).selfRefreshes 94 = false ∧
      (let e : Dev := { run with dram := { ranks := [(94, { state := 0 })] } }
       e.dramUp = true ∧ (e.chan 47).failed = false ∧ (e.chan 47).held = [] ∧ e.selfRefreshes 94 = true ∧
        e.selfRefreshes 95 = true) ∧
      ((d {} none).chan 47).recentre + 100000000 ≤ (d {} none).time.now ∧ ((d {} none).chan 47).retraining = none ∧
      run_ {} 63 ≠ 4 ∧ run_ { entryRun := some (63, 3) } 63 = 4 ∧ run_ { entryRun := some (62, 3) } 63 ≠ 4) ∧
    ((d { retraining := some 5 } none).chan 47).retraining = some 5 ∧ (d { retraining := some 5 } none).dram.mig = none ∧
    ((d {} none).live = true ∧ ((d {} none).rank 95).state = 0 ∧
      ((d {} none).rank 95).scrubbed + 24 ≤ (d {} none).chip.hours ∧ (d {} none).dram.mig.any (·.spare = 95) = false ∧
      (d {} none).dram.queue = [(0, 1)] ∧ (d {} none).spareFor 0 = some 89 ∧
      ({ d {} none with dram := { (d {} none).dram with ranks := [(89, {}), (91, {}), (93, {}), (95, {})] } } : Dev).spareFor 0 = none) ∧
    (∀ n ∈ [1, 2, 3], (d {} (some (m n))).dram.mig = some (m n) ∧ (m n).source ≠ (m n).spare ∧ (m n).step = n ∧
      (m n).retried = false) ∧
    (d {} (some { m 2 with retried := true })).dram.mig = some { m 2 with retried := true } := by decide +kernel

/-! ## Links and optical ports -/

/-- Link 23, ring link 3, as `x`, and the module at its other end as `q`. -/
def dLink (x : Link) (q : Lmod) : Dev :=
  { run with links := { links := [(23, x)], mods := [(3, q), (14, q)] }, chA := serving }

/-- The first 280 bytes of a flit of a type and SEQ, with the ACK field and the slots 0. -/
def flitBody (type seq : Nat) : List Byte :=
  toLE 2 (BitVec.ofNat 16 (seq + 4096 * type)).toNat ++ toLE 2 0 ++ toLE 4 0 ++ List.replicate 272 0
/-- The flit of those bytes, whose last 8 are their CRC-64 plus `n`. -/
def flit (type seq : Nat) (n : DWord := 0) : List Byte :=
  flitBytes (BitVec.ofNat 16 (seq + 4096 * type)) 0 0 (List.replicate 272 0) (crc64 (flitBody type seq) + n)

theorem flit_parts (type seq : Nat) (n : DWord) :
    flit type seq n = flitBody type seq ++ toLE 8 (crc64 (flitBody type seq) + n).toNat := rfl

theorem toLE_length (n : Nat) : ∀ v, (toLE n v).length = n := by
  induction n with
  | zero => intro v; rfl
  | succ n ih => intro v; simp [toLE, ih]

theorem flitBody_length (type seq : Nat) : (flitBody type seq).length = 280 := by
  simp only [flitBody, List.length_append, toLE_length, List.length_replicate]

theorem flit_take (type seq : Nat) (n : DWord) : (flit type seq n).take 280 = flitBody type seq := by
  rw [flit_parts, ← flitBody_length type seq, List.take_left]

theorem flit_drop (type seq : Nat) (n : DWord) :
    (flit type seq n).drop 280 = toLE 8 (crc64 (flitBody type seq) + n).toNat := by
  rw [flit_parts, ← flitBody_length type seq, List.drop_left]

theorem toLE_succ (c : DWord) : toLE 8 (c + 1#64).toNat ≠ toLE 8 c.toNat := by
  intro h
  have e := congrArg BitVec.toNat (List.cons.inj h).1
  simp only [BitVec.toNat_ofNat, BitVec.toNat_add] at e
  omega

/-- A flit passes its check with its own CRC-64 in place, and fails with the next number there. -/
theorem flitOk_flit (type seq : Nat) : flitOk (flit type seq) = true ∧ flitOk (flit type seq 1) = false := by
  unfold flitOk
  rw [flit_take, flit_drop, flit_take, flit_drop]
  generalize crc64 (flitBody type seq) = c
  exact ⟨decide_eq_true (congrArg (toLE 8 ·.toNat) (BitVec.add_zero c)), decide_eq_false (toLE_succ c)⟩

theorem flit_head (type seq : Nat) (n : DWord) :
    (flit type seq n).take 2 = toLE 2 (BitVec.ofNat 16 (seq + 4096 * type)).toNat := by
  simp only [flit, flitBytes, List.append_assoc]
  rw [List.take_left' (toLE_length ..)]

theorem flit_type (n : DWord) : ∀ type ∈ [0, 1], ∀ seq ∈ [0, 2047, 2048, 4095],
    flitType (flit type seq n) = type ∧ flitSeq (flit type seq n) = seq := by
  simp only [flitType, flitSeq, flit_head]
  decide +kernel

theorem witness_FlitsAreDeliveredInOrder :
    let q (d : Dev) := (d.link 23).dir 1
    let d (x : LinkDir) := dLink { state := 2, dir1 := x, retries := 8 } {}
    2 ≤ ((d {}).link 23).state ∧
    (∀ type ∈ [0, 1], ∀ seq ∈ [0, 2047, 2048, 4095], (List.replicate 272 (0 : Byte)).length = 272 ∧
      flitOk (flit type seq) = true ∧ flitType (flit type seq) = type ∧ flitSeq (flit type seq) = seq ∧
      flitOk (flit type seq 1) = false ∧ flitType (flit type seq 1) = type) ∧
    ((q (d { expect := 4095 })).expect = 4095 ∧ (q (d { expect := 4095 })).kept = [] ∧
      (q (d { expect := 4095, kept := [[1], [2]] })).kept = [[1], [2]]) ∧
    (2047 ≠ (q (d {})).expect ∧ (q (d {})).naking = false ∧ (2047 + 4096 - (q (d {})).expect) % 4096 < 2048 ∧
      2048 ≤ (2048 + 4096 - (q (d {})).expect) % 4096) ∧
    ((q (d { naking := true })).naking = true ∧ (q (d { naking := true })).replaying = false ∧
      (q (d { naking := true, replaying := true })).replaying = true) ∧
    (((d { naking := true, expect := 9, fails := 3 }).link 23).state = 2 ∧ 9 = (q (d { naking := true, expect := 9 })).expect ∧
      (q (d { naking := true, fails := 3 })).fails < 4 ∧ 8 ≤ ((d {}).link 23).retries) := by
  refine ⟨by decide +kernel, fun type ht seq hs => ?_, ?_⟩
  · have f := flit_type 0 type ht seq hs
    have g := flit_type 1 type ht seq hs
    exact ⟨List.length_replicate, (flitOk_flit ..).1, f.1, f.2, (flitOk_flit ..).2, g.1⟩
  · decide +kernel

theorem witness_LinksRetrainAndRepair :
    let d (x : Link) (q : Lmod) := dLink x q
    let other (n : Nat) : Dev := { run with links := { links := [(0, { state := n }), (15, { state := 3 })] } }
    let down (n : Nat) (k : Nat) := (other n).modLink k fun x => { x with state := 0, due := [], repairing := none }
    let w : Link := { state := 2, due := [63] }
    (((d { state := 2, dir1 := { fails := 4 } } {}).link 23).state = 2 ∧
      4 ≤ ((d { state := 2, dir1 := { fails := 4 } } {}).link 23).dir1.fails) ∧
    ((((d { state := 3 } {}).link 23).state = 3 ∧ ((d { state := 3 } {}).link 23).repairing = none)) ∧
    (((other 3).link 15).state = 3 ∧ ((other 3).link 15).repairing = none ∧
      (down 3 15).hubLanes (15 / 4) = 0) ∧
    (let o : Dev := { run with links := { links := [(14, { state := 2 }), (15, { state := 3 })] } }
     0 < (o.modLink 15 fun x => { x with state := 0, due := [], repairing := none }).hubLanes (15 / 4)) ∧
    (((d w {}).link 23).state = 2 ∧ 63 ∈ ((d w {}).link 23).due ∧ ((d w {}).link 23).repairF ≠ some (d w {}).ctrlFrame ∧
      (d w {}).time.now % wingbeatNs = 0 ∧ (d w {}).redLane 23 = some 0 ∧
      (let e := d w { redUsed := [0, 1, 2, 3], ring := [62, 63] }
       e.redLane 23 = none ∧ (e.linkLanes 23).filter (· ≠ 63) ≠ []) ∧
      (let e := d w { redUsed := [0, 1, 2, 3], ring := [63] }
       e.redLane 23 = none ∧ (e.linkLanes 23).filter (· ≠ 63) = [])) ∧
    ((d { state := 3, repairing := some (63, 3) } {}).link 23).repairing = some (63, 3) := by decide +kernel

theorem witness_OpticalLanesAndPorts :
    let now := 60000000000
    let d (n : Nat) (x : OptLane) (l : Links) : Dev := { run with links := { l with lanes := [(n, x)] }, time := { now := now } }
    let two : OptLane := { state := 1, flaps := [(now - 1, false), (now, false)] }
    let fl (x : OptLane) : List (Nat × Bool) := (x.flaps.filter fun f => decide (now < f.1 + 10000000000)) ++
      [(now, true || decide (2 * x.bias0 < x.bias) || decide (x.tx < -30))]
    let recent (x : OptLane) := x.outside || x.moultAt.any fun t => decide (now < t + 60000000000)
    let dark : Dev := { run with host := {} }
    let lit : Dev := { dark with host := { lit := true }, links := { unlocked := [15] } }
    (∀ x ∈ [{ two with flaps := [] }, { two with moultAt := some 1 }, { two with state := 2, kept := true }, two],
      (d 75 x {}).chip.phase ≠ .modReset ∧ (d 75 x {}).chip.selfRef = false ∧
      (((d 75 x {}).lane 75).state = 1 ∨ ((d 75 x {}).lane 75).kept = true) ∧ ((d 75 x {}).lane 75).moult = none ∧
      (d 75 x {}).servesPort 75 = some 7) ∧
    ((fl { two with flaps := [] }).length < 3 ∧ 3 ≤ (fl two).length ∧ recent two = false ∧
      recent { two with moultAt := some 1 } = true ∧ recent { two with moultAt := some 0 } = false ∧
      recent { two with outside := true } = true) ∧
    (let e := d 73 { state := 1, moult := some 1 } { retrain := [6] }
     6 ∈ e.links.retrain ∧ e.links.lastAp ≠ some (5, e.ctrlFrame) ∧ 73 ∈ e.portLanes 6 ∧
      (∀ j ∈ e.portLanes 6, j ≠ 73 → (e.lane j).moult = none) ∧ (e.lane 73).moult = some 1 ∧ e.freeSpare 6 = some 74) ∧
    (let e : Dev := rg { run with links := { up := [4, 9] } } [(R.tkGptpCfg, 1 + 3 * 4), (R.tkSyncStatus, 2)]
     9 ∈ e.links.up ∧ 4 ∈ e.links.up ∧ e.slavePort = some 4 ∧ e.fld R.tkSyncStatus 0 3 = 2 ∧ 8 ∉ e.links.up ∧ 1 ∉ e.links.up ∧
      e.lit = true ∧ e.host.up = true ∧ ((0 : Fin 17).val = e.portWidth 8 ∧ (16 : Fin 17).val = dark.portWidth 0)) ∧
    (dark.host.up = false ∧ dark.host.held = false ∧ dark.lit = true ∧ dark.host.lit = false ∧
      ([15].filter dark.hostLane ≠ []) ∧ Dev.hostWidth { dark with links := { dark.links with hostOut := [] } } = 16) ∧
    (lit.host.up = false ∧ lit.host.lit = true ∧ 15 ∈ lit.links.unlocked ∧ lit.links.unlocked.filter (· ≠ 15) = [] ∧
      Dev.hostWidth { lit with links := { lit.links with hostOut := [15] } } = 8) := by decide +kernel
/-! ## Start, recovery and time -/

/-- A configuration image that passes every check. -/
def good : CfgImage :=
  { img with
    parts := [⟨0, true, 0, true, 0, false⟩]
    schedule := ⟨List.replicate 4 (List.range 32), [], [], [], []⟩
    island := ⟨100, 1, 0, 0, 0⟩
    regs := [(R.qmSaveBase, 0x100000), (R.mcResvChanLo, 1), (R.mcResvWays, 1), (R.plQbv 0, 0x10000 + 1 + 2 * 10000),
      (R.plDisc 0, 2 ^ 31 + 65536), (R.plBodyZ, 65536), (R.plCocoonCfg, 16000)] ++
      (List.range 7).map fun k => (R.plLimit k, if k = 2 then 0xBF800000 else 0x3F800000) }
/-- A firmware image that passes every check. -/
def fw : ImgHeader := { hdr 1 7 0 0 with flags := 1 }
/-- A provisioned module with stored images. -/
def nvOf (f : Option ImgHeader) (c : Option CfgImage) : Nv :=
  { fuses := { rootKey := some 0 }, store := { firmware := f, config := c, slots := [0] } }

/-- The section checks pass. -/
theorem good_ok : ((({} : Dev).loadRegs good.regs).poolLists none).badSection good = 0 := by decide +kernel

theorem witness_TheModuleStarts :
    let rd (n : Nv) (c : CfgImage) : Nat × Nat :=
      let start : Dev := { chip := { hours := n.store.hours }, sec := { next := n.store.lmsEnd } }
      let r := n.store.repair.newStart
      Dev.configBad (((((start.extend 0 n.fuses.romDigest).repairBlocks r).repairRanks r).repairMarks r).repairLanes r) { n with store := { n.store with writeProt := false } } c
    let late := { good with launch := [[⟨2 ^ 32 + 2 ^ 40, 0, 0, 0⟩]] }
    let load : Dev := { chip := { phase := .loading } }
    (State.reset.dev.chip.phase = .modReset ∧ State.reset.nv.loaderReason = 3) ∧
    ((nvOf none none).loaderReason = 0 ∧ (nvOf none none).fuses.verifyStored 1 none ≠ 0) ∧
    ((nvOf (some fw) none).loaderReason = 0 ∧ (nvOf (some fw) none).fuses.verify none 1 fw = 0) ∧
    (rd (nvOf (some fw) (some good)) good).1 = 0 ∧ good.models = [] ∧ (rd (nvOf (some fw) (some late)) late) = (6, 4) ∧
    (load.chip.phase = .loading ∧ load.fld R.tkSyncStatus 0 3 ≠ 1 ∧ fw.flags = 1) ∧
    (run.chip.injected = false ∧ ({ run with chip := { run.chip with injected := true } } : Dev).chip.phase = .running) ∧
    (run.chA.loaded = false ∧ run.chip.phase ≠ .modReset ∧ (nvOf (some { fw with magic := 0 }) none).store.firmware.isSome = true ∧
      (nvOf (some { fw with magic := 0 }) none).fuses.verifyStored 1 (some { fw with magic := 0 }) ≠ 0 ∧
      (nvOf (some fw) none).fuses.verifyStored 1 (some fw) = 0) := by
  decide +kernel

theorem witness_InjectionAndRecovery :
    let inj (x : Island) (inRec : Bool) : Dev := { chip := { phase := .injecting, inRec := inRec, noPrimary := 2 }, chA := x }
    let bad (d : Dev) : Bool := [Isl.a, Isl.b].any fun i => (d.isl i).state == .injecting && (d.isl i).injBad.isSome
    let s (c : Chip) (l : List Nat) (o : Bool) : Dev := { chip := { c with phase := .safe, computeReset := true }
                                                          sec := { poisonList := l, poisonOver := o } }
    let n := nvOf (some fw) (some { good with models := [1] })
    let m : Model := ⟨0, 257 * 4 * mib, true, 0xFF, List.replicate 257 (true, true, [])⟩
    let nm : Nv := { n with store := { n.store with models := [(1, ⟨hdr 3 0 0 0, [m]⟩)] } }
    ((({ chip := { phase := .locked } } : Dev).chip.phase = .locked) ∧ ({ chip := { phase := .recovering } } : Dev).pwr.tripped = false) ∧
    (bad (inj { state := .injecting, injBad := some (0, 0, 0) } true) = true ∧ bad (inj { state := .injecting } true) = false ∧
      (inj { state := .injecting, injBad := some (0, 0, 0) } false).chip.inRec = false ∧
      (inj { state := .injecting, injBad := some (0, 0, 0) } true).chip.inRec = true ∧ 2 ≤ (inj {} true).chip.noPrimary ∧
      (inj { loaded := true, state := .starting } false).chA.loaded = true ∧
      ¬ ((inj {} true).chip.recStart + 3000000000 < (inj {} true).time.now) ∧
      (let e : Dev := { inj {} true with time := { now := 3000000001 } }
       e.chip.inRec = true ∧ e.chip.recStart + 3000000000 < e.time.now)) ∧
    (injBlk ⟨.a, 10, 3, 35⟩ = some 143 ∧ injBlk ⟨.a, 11, 3, 35⟩ = none ∧ run.log.buf.length + 32 ≤ 4096 ∧
      (run.blk 0).svc = .inService) ∧
    ((s {} [] false).coolEnough = true ∧ (s { coldNext := true } [] false).chip.coldNext = true ∧
      (s {} [] false).imageChanged n = none ∧ (s { cfgDigest := 1 } [] false).imageChanged n = some 2 ∧
      n.store.config = some { good with models := [1] } ∧ (s {} [] true).listAll.sec.poisonOver = true ∧
      (s {} [] false).listAll.sec.poisonOver = false ∧
      ((s {} [0] false).listAll.badChunks (nm.modelsOf { good with models := [1] })).length = 1 ∧
      256 < ((s {} ((List.range 257).map (· * 65536)) false).listAll.badChunks (nm.modelsOf { good with models := [1] })).length) := by
  decide +kernel

theorem witness_WingbeatsAndTheirChecks :
    let inp : TickIn := ⟨[], [], List.replicate 124 800, List.replicate 5 (0, 0), List.replicate 4 0, true, true, [], []⟩
    let d (x : Island) : Dev := { dIsl x serving with chip := { run.chip with phase := .running } }
    let w (a : Nat) : LWord := { cls := 0, once := false, tiles := 8, hub := false, offset := 0, action := a, part := 63
                                 blocks := 2 ^ 31, arg0 := 0, deadline := 1, table := 3, index := 2047 }
    let lw : Dev := { run with tiles := [(3, { outLb := [31] })] }
    let m : Trig := ⟨63, 99999, 65535⟩
    (inp.ok = true ∧ run.chip.phase ≠ .modReset ∧
      (let e : Dev := { run with time := { now := 239 * wingbeatNs } }
       e.live = true ∧ (e.wb + 1) % e.lp = 0)) ∧
    ((dThr {} {} 0 0).time.tickBad = [] ∧ (d {}).time.tickBad = []) ∧
    (((d serving).isl .a).loaded = true ∧ (∀ f ∈ (d serving).time.tickBad, f.unit ≠ .island .a) ∧
      ((d serving).isl .a).wbBad = 0 ∧ 1 ≤ ((d { serving with wbBad := 1 }).isl .a).wbBad ∧
      ((d { serving with wbBad := 1 }).isl .a).wbOk = true) ∧
    (∀ a ∈ [2, 4, 5], (w a).tiles = 2 ^ 3 ∧ (w a).blocks = 2 ^ 31 ∧ (w a).hub = false ∧ (w a).once = false ∧
      (run.part (w a).part).reduced = false ∧ (run.part (w a).part).debug = false) ∧
    let k (x : Block) : Dev := { run with blocks := [(run.phys 3 31, x)] }
    let runs (x : Block) (a : Nat) := (k x).inSafe = false ∧ (k x).tileUp 3 = true ∧ 31 ∉ ((k x).tile 3).outLb ∧
      (k x).trkUsed 3 < 4096 ∧ (k x).wordRuns (w a) ((k x).phys 3 31) = true
    (run.inSafe = false ∧ run.tileUp 3 = true ∧ 31 ∉ (run.tile 3).outLb ∧ 31 ∈ (lw.tile 3).outLb ∧
      run.wordRuns (w 2) (run.phys 3 31) = false ∧ run.wordRuns (w 5) (run.phys 3 31) = false ∧
      (k { arbFor := some (142, 1), part := some 63 }).wordRuns (w 3) (run.phys 3 31) = false ∧ (run.blk (run.phys 3 31)).selftest = none) ∧
    (runs { slotPart := some 63 } 5 ∧ runs { slotPart := some 63 } 2 ∧
      ((k { slotPart := some 63 }).blk (run.phys 3 31)).svc ≠ .retired) ∧
    (runs { slotPart := some 63, svc := .retired } 2 ∧ (k { slotPart := some 63, svc := .retired }).lame (run.phys 3 31) = false) ∧
    (let e := ((k { slotPart := some 63 }).wrN (hubBase + 64 * 31 + 6) 2 (run.phys 3 31)).wrN (hubBase + 64 * 31 + 16) 8 7
     let f (o n : Nat) : Nat := e.rdN (hubBase + ((w 5).arg0 % 2 ^ 32 + 64 * 31) + o) n
     f 6 2 = run.phys 3 31 ∧ f 24 4 = e.testPkg ∧ f 16 8 ≠ 0) ∧
    ({ run with time := { trigs := [m] } } : Dev).time.trigs.find? (fun m => m.stream = 63 ∧ m.instant < 0 + 100000) = some m := by
  decide +kernel

theorem witness_AnnounceLeavesEachSecond : run.tickDue 4 = true ∧ run.slavePort = none := by decide +kernel

theorem witness_TicksOfTheLongerClasses :
    let h : Heartbeat := { w := 0, state := 3, vote := false, playout := false, injected := true, therm := 0, cocoonF := 0
                           cocoonCrc := 0, reportF := 0, outcome := 0 }
    let x : Island := { serving with peerOk := true, injected := true, peerHb := some h }
    let d (x : Island) : Dev := { run with chA := x, chB := x }
    let idle : Dev := rg { run with chip := { phase := .locked } } [(R.qmMirrorCtl, 1)]
    (∀ c ∈ [1, 2, 3, 4], run.tickDue c = true) ∧
    ((d x).tickDue 2 = true ∧ (d x).chip.primaryEn = false ∧ (d x).voteBad .a = 0 ∧ (d x).voteBad .b = 0 ∧
      (d x).phasesOk = true ∧ (d x).staticPlaced = true) ∧
    (((d { x with step := 3, vote := true }).clearCauses .a).voteBad .a ≠ 0 ∧ (d { x with step := 3, vote := true }).chA.vote = true) ∧
    (({ run with chip := { phase := .safe, computeReset := true } } : Dev).tickDue 2 = true) ∧
    (idle.tickDue 2 = true ∧ idle.chip.computeReset = false ∧ idle.chip.sched = false ∧ idle.fld R.qmMirrorCtl 0 1 = 1 ∧
      idle.hostReady = false ∧ ({ idle with host := { up := true, cfg := [(1, 4)] } } : Dev).hostReady = true) ∧
    (idle.live = false ∧ idle.tickDue 3 = true ∧ idle.tickDue 1 = true ∧ run.live = true ∧ run.fus.began = false ∧
      ({ run with fus := { began := true } } : Dev).fus.began = true) ∧
    (((dThr {} { wait := .cls 1 none 31 } 0 0).blk 143).thr 31).wait = .cls 1 none 31 ∧
    (dThr {} { wait := .cls 1 none 31 } 0 0).tileUp 3 = true := by decide +kernel

theorem witness_SyncSetsTheTimeBaseOnce :
    let d (st : Nat) : Dev := rg { run with links := { up := [4] } } [(R.tkGptpCfg, 1 + 3 * 4 + 128 + 3 * 256), (R.tkSyncStatus, st)]
    let late : Dev := { d 2 with time := { now := 1000000000 } }
    (∀ st ∈ [0, 1, 2, 3, 4], (d st).chip.phase ≠ .modReset ∧ (d st).slavePort = some 4 ∧ 4 ∈ (d st).links.up ∧
      bit ((d st).reg R.tkGptpCfg) (3 + 4) = true ∧ (d st).fld R.tkSyncStatus 0 3 = st ∧
      (d st).syncOver = false) ∧
    ((1000001 : Int) - (d 2).time.now > 1000000 ∧ ¬ (1000000 < (1000000 : Int) - (d 2).time.now)) ∧
    (late.chip.phase ≠ .modReset ∧ late.syncLate = true ∧ late.syncOver = true ∧ late.slavePort = some 4) := by
  decide +kernel

/-! ## Security and attestation -/

/-- A module in the loader or in operation, with the management port up and the nonce 9. -/
def dMg (p : Phase) : Dev := { chip := { phase := p, lock := p == .running }, links := { up := [7] }, sec := { nonce := some 9 } }
/-- A token of a type that passes every check, or fails the first. -/
def tok (type : Nat) (ok : Bool) : Token :=
  ⟨{ hdr type 0 0 9 with magic := if ok then 0x4D495747 else 0 }, [63], 1, [2]⟩

theorem witness_ManagementPort :
    let ld := dMg .loader
    let op := dMg .running
    let n : Nv := nvOf none none
    ((Instr.mgmtIdentify 1).mgmt.isSome = true ∧ 7 ∉ run.links.up ∧ 7 ∈ ld.links.up ∧ ¬ MgmtTakes ld false true ∧
      (Instr.mgmtStage 1 0 (List.replicate 8192 0)).wf = true) ∧
    (MgmtTakes ld true true ∧ MgmtTakes op true true ∧ MgmtTakes ld true false ∧ MgmtTakes op false true) ∧
    (∀ t ∈ [1, 3, 4], n.fuses.verify none t (hdr t 0 0 0) = 0 ∧ n.fuses.verify none t (hdr 0 0 0 0) ≠ 0) ∧
    ((⟨0, 1, false, 0xFF, [(false, true, [1])]⟩ : Model).whole = true ∧
      (⟨0, 1, false, 0xFF, [(true, true, [1]), (false, false, [1])]⟩ : Model).whole = false) ∧
    ((({ ld with regs := [] } : Dev).configBad n img).1 ≠ 0 ∧ (({ ld with regs := [] } : Dev).configBad n good).1 = 0) ∧
    (n.fuses.verify op.sec.nonce 8 (tok 8 true).header = 0 ∧ n.fuses.verify op.sec.nonce 8 (tok 8 false).header ≠ 0) := by
  refine ⟨?_, ?_, ?_, ?_, ?_, ?_⟩ <;> (try unfold MgmtTakes) <;> decide +kernel

/-- An attestation operation whose request record of a kind stands at 64 KiB, with its output at 1 MiB. -/
def dAtt (kind : Nat) (s : Sec) (g : Bool) : Dev :=
  let d : Dev := { run with
    ops := [(16383, { used := true, kind := .attest, placed := true, arg0 := 0x10000, part := 63 })], sec := s
    chip := { run.chip with image := if g then some img else none } }
  (d.wrN 0x10000 8 kind).wrN 0x10008 8 0x100000

theorem witness_KeysAndAttestation :
    let n : Nv := nvOf none none
    let seeded : Nv := { n with store := { n.store with seeds := true, topRec := Rec.of 1 } }
    let ld := dMg .loader
    let o (d : Dev) : Op := d.op 16383
    let free (d : Dev) (len : Nat) (w : Bool) := d.refusalAt 720 63 0 (if w then 0x100000 else 0x10000) len w
    (MgmtTakes ld true false ∧ ∀ t ∈ [6, 7], n.fuses.verify ld.sec.nonce t (tok t true).header = 0 ∧
      n.fuses.verify ld.sec.nonce t (tok t false).header ≠ 0) ∧
    (n.fuses.rootKey ≠ none ∧ ({} : Nv).fuses.rootKey = none ∧ ({} : Nv).fuses.provUsed < 32 ∧
      ({} : Nv).fuses.verify ld.sec.nonce 6 (tok 6 true).header = 0 ∧ n.fuses.opened = false ∧
      ({ n.fuses with opened := true } : Fuses).verify ld.sec.nonce 7 (tok 7 true).header = 0) ∧
    ((dAtt 0 {} true).chip.computeReset = false ∧ AttRequest (dAtt 0 {} true) 16383 0 ∧
      seeded.store.seeds = true ∧ (dAtt 0 {} true).sec.reports < 4 ∧ (dAtt 0 {} true).sec.next / 2 ^ 20 ≤ seeded.store.topSig ∧
      (dAtt 0 {} true).rdN (0x10000 + 8) 8 = 0x100000 ∧ (o (dAtt 0 {} true)).part = 63 ∧
      free (dAtt 0 {} true) 3796 true = none) ∧
    (AttRequest (dAtt 0 { next := 2 * 2 ^ 20 } true) 16383 0 ∧ seeded.store.topSig < 2 * 2 ^ 20 / 2 ^ 20) ∧
    (AttRequest (dAtt 1 {} true) 16383 1 ∧ free (dAtt 1 {} true) 1408 true = none) ∧
    ((o (dAtt 1 {} false)).used = true ∧ (o (dAtt 1 {} false)).status = none ∧ free (dAtt 1 {} false) 64 false ≠ none) ∧
    (let e := (dAtt 1 {} true).wrN 0x1003F 1 1
     free e 64 false = none ∧ e.anyPoison 0x10000 64 = false ∧ e.rd (0x10000 + 63) ≠ 0) ∧
    (seeded.store.seeds = true ∧ seeded.store.topSig < 786432 / 2 ^ 20 + 2 ∧ n.store.seeds = false) := by
  refine ⟨?_, ?_, ?_, ?_, ?_, ?_, ?_, ?_⟩ <;> (try unfold MgmtTakes) <;> (try unfold AttRequest) <;> decide +kernel

/-- A request for the certificate that reads and whose output address no region grants. -/
theorem witness_CertificateRefused :
    let d := (dAtt 1 {} true).wrN 0x10008 8 0x7F00000000
    AttRequest d 16383 1 ∧ d.refusalAt 720 (d.op 16383).part (d.op 16383).cls (d.rdN ((d.op 16383).arg0.toNat + 8) 8) 1408 true ≠ none := by
  unfold AttRequest; decide +kernel

theorem witness_AttestationLimits :
    let spent : Dev := dAtt 0 { reports := 4 } true
    let s : Nv := { store := { seeds := true, nearH := some 5 } }
    (run.tickDue 4 = true ∧ AttRequest spent 16383 0 ∧ 4 ≤ spent.sec.reports ∧ ({} : Nv).store.seeds = false ∧
      AttRequest (dAtt 0 {} true) 16383 0) ∧
    (AttRequest (dAtt 1 {} true) 16383 1 ∧ (dAtt 1 {} true).refusalAt 720 63 0 0x100000 1408 true = none) ∧
    (s.store.seeds = true ∧ run.chip.phase ≠ .modReset ∧ 2 ^ 30 - (2 ^ 30 - 10737418) ≤ 10737418 ∧
      10737418 < 2 ^ 30 - (2 ^ 30 - 10737419) ∧ (∀ h, s.store.nearH = some h → h + 1000 ≤ 1005) ∧ 1004 < 5 + 1000) := by
  refine ⟨by unfold AttRequest; decide +kernel, by unfold AttRequest; decide +kernel, rfl, by decide, by decide, by decide, ?_, by decide⟩
  intro h e; cases e; decide

/-! ## The host port -/

theorem witness_HostLinkWindowAndLog :
    let d : Dev := { run with dram := { general := [0] }, chip := { run.chip with image := some { img with hostPart := 63 } }
                              host := { up := true, cfg := [(1, 6)] } }
    let d := d.setReg (R.mcReg 64) 1
    let r : EventRecord := ⟨0, 8, 255, 5, 0x3030, 255, 65535, []⟩
    let l (lost : Nat) : Dev := rg { d with log := { buf := [r], lost := lost } } [(R.hpEvlogCfg, 15)]
    (d.host.up = true ∧ bit (d.cfg 1) 2 = true ∧ bit (live.cfg 1) 2 = false ∧ ({} : Dev).host.up = false) ∧
    (d.hostReq = 0 ∧ d.fld R.hpBar2Win 0 8 = 48 ∧ d.host.bar2 = []) ∧
    (let f : Dev := rg d [(R.hpBar2Win, 0), (R.mcReg 64, 1)]
     let g : Dev := { f with dram := { f.dram with out := [(64, 1)] } }
     f.bar2Waits ⟨0, 512, none⟩ = false ∧ f.bar2Waits ⟨0, 1, some ([0], false)⟩ = false ∧
      g.bar2Waits ⟨0, 512, none⟩ = true ∧ g.bar2Waits ⟨0, 1, some ([0], false)⟩ = true) ∧
    (let e := d.setReg R.hpBar2Win 0
     e.bar2Refuse (2 * 2 ^ 30 - 4096) 4096 false = none ∧ e.keyGone (2 * 2 ^ 30 - 4096) 4096 = none ∧ e.hostReq = 0 ∧
     e.fld R.hpBar2Win 0 8 * 2 ^ 30 = 0 ∧ e.bar2Refuse (2 * 2 ^ 30 - 4095) 4096 false = some (6, true) ∧
     ({ e with poison := [(0, true)] } : Dev).anyPoison 0 1 = true ∧
     (let g : Dev := { e with enc := [(0, 3)], sec := { erased := [2] } }
      g.keyGone 0 1 = some 0 ∧ g.bar2Refuse 0 1 false = none) ∧
     e.bar2Refuse 0 512 true = none ∧ e.bar2Refuse (2 * 2 ^ 30) 1 true = some (6, true)) ∧
    ((Instr.eventRecordWrite 0x3030 5 8 255 255 65535 []).wf = true ∧ d.host.owed = [] ∧
      (dIsl serving serving).chip.phase ≠ .modReset ∧ ((dIsl serving serving).isl .a).loaded = true ∧
      ((dIsl serving serving).isl .a).state ≠ .halted) ∧
    ((l 0).log.buf = [r] ∧ bit ((l 0).reg R.hpEvlogCfg) 0 = true ∧ (l 0).hostReady = true ∧
      (l 0).reg R.hpEvlogLo % 4096 = 0 ∧ ((l 0).reg R.hpEvlogTail + 2 ^ 32 - (l 0).reg R.hpEvlogHead) % 2 ^ 32 < 2 ^ 7 ∧
      (l 1).log.lost ≠ 0 ∧
      2 ^ 7 ≤ ((rg (l 0) [(R.hpEvlogTail, 128)]).reg R.hpEvlogTail + 2 ^ 32 - (l 0).reg R.hpEvlogHead) % 2 ^ 32) := by
  decide +kernel

theorem witness_HostRequestsAndTheLock :
    let off : Nat := R.qmQtableBase
    (Instr.hpBar2Win 0).hostWrites = true ∧ Instr.tkTimeLoRead.hostReads = true ∧ ({} : Dev).host.up = false ∧
    ({ live with chip := {} } : Dev).chip.lock = false ∧ (live.host.up = true ∧ live.chip.lock = true ∧ live.host.d3 = false) ∧
    (off % 8 = 0 ∧ bit (rwlMask off) 20 = true ∧ bit (0x4 : BitVec 8).toNat (0 + 20 / 8) = true) := by decide +kernel

theorem witness_RegisterReadsAndWrites :
    let d : Dev := { run with host := { up := true } }
    let n : Nv := {}
    let gap : Nat := 0xFFFFFC
    let plain : Nat := R.qmQsel
    d.hostReq = 0 ∧ gap % 4 = 0 ∧ regDef? gap = none ∧ regDef? plain ≠ none ∧ d.viewUnit n plain = none ∧
    (R.hpEvlogLo % 8 = 0 ∧ regDef? R.hpEvlogLo ≠ none ∧ regDef? (R.hpEvlogLo + 4) ≠ none ∧
      d.viewUnit n R.hpEvlogLo = none ∧ d.viewUnit n (R.hpEvlogLo + 4) = none ∧ rcMask R.hpEvlogLo = 0 ∧
      rcMask (R.hpEvlogLo + 4) = 0) ∧
    (718 % 5 < 4 ∧ d.live = true ∧ plain / 8 * 8 ≠ R.qmDoorbell ∧ plain / 8 * 8 ≠ R.qmCqDoorbell ∧ rwlMask plain = 0) ∧
    (¬ (5 = 4 ∧ gap % 4 = 0) ∧ ¬ (5 = 8 ∧ gap % 8 = 0) ∧ d.host.caEp = 0 ∧ ({ d with host := { up := true, caEp := 1 } }).host.caEp ≠ 0) ∧
    (bit (d.reg R.hpEvlogCfg) 0 = false ∧ bit (rg d [(R.hpEvlogCfg, 1)] |>.reg R.hpEvlogCfg) 0 = true ∧
      (33 : Nat) % 2 = 1 ∧ bits 33 1 5 = 16 ∧ bits 15 1 5 = 7 ∧ bits 35 1 5 = 17) := by decide +kernel

/-- A plain register's write has no effect of its own, whatever is written. -/
theorem witness_plainWrite : ∀ x, run.writeUnit R.qmQsel x = none := fun _ => rfl

theorem witness_StepAndExec :
    (Instr.hotReset.wf = true ∧ (Instr.bar2Read 0 0).wf = false ∧ State.reset.pending = []) := by decide

theorem witness_StepKeepsTables : ∃ t, MemOk State.reset.dev ∧ OpsOk State.reset.dev ∧ step State.reset = .next t :=
  ⟨_, rfl, rfl, rfl⟩

theorem witness_FusesOnlyGrow :
    ∃ t, step { st (dMg .loader) with nv := {}, pending := [.mgmtProvision 1 (tok 6 true)] } = .next t ∧
      ({} : Nv).fuses.provUsed ≤ 32 ∧ t.nv.fuses.provUsed = 1 ∧ t.nv.fuses.rootKey = some 1 :=
  ⟨_, rfl, by decide, by decide +kernel, by decide +kernel⟩

theorem witness_FieldDebugOpensOnlyThroughUnlock :
    let s : State := { st (dMg .running) with nv := nvOf none none }
    (State.reset.dev.chip.phase = .modReset) ∧
    (∃ t, step { s with pending := [.mgmtUnlock 1 (tok 5 true)] } = .next t ∧ s.dev.sec.dbgOpen = false ∧
      t.dev.sec.dbgOpen = true ∧ 63 ∈ t.dev.sec.dbgParts) ∧
    (s.nv.fuses.verify s.dev.sec.nonce 5 (tok 5 true).header = 0 ∧
      s.nv.fuses.verify s.dev.sec.nonce 5 (tok 5 false).header ≠ 0) :=
  ⟨rfl, ⟨_, rfl, by decide +kernel, by decide +kernel, by decide +kernel⟩, by decide +kernel⟩

/-! ## Ill-formed operands -/

theorem test_wf_refuses_each_check :
    ∀ i ∈ [Instr.bar0BadRequest 4 4, .bar2Read 0 0, .bar2Write 0 [] false, .bar2Write 0 (List.replicate 513 0) false,
      .registerWrite 4 0 0 true 728, .registerWrite 4 0 0 false 4, .rcRegisterRead 2 false,
      .mgmtStage 0 0 (List.replicate 8193 0), .eventRecordWrite 0x3030 6 8 255 255 0xFFFF [], .flitReceive 0 0 0 0 [] 0,
      .dramRead { acc 0 0 0 with init := 0 }, .dramRead { acc 0 0 0 with init := 732 },
      .dramRead { acc 0 0 0 with low := 1 }, .dramWrite (acc 0 0 0) ⟨[], false⟩], i.wf = false := by decide +kernel

theorem test_ill_formed_faults : exec (.bar2Read 0 0) (st live) = .fault .illFormed := rfl

/-! ## Results that the manual states -/

/-- R441: the next unused index stays below END, and a reservation adds 1,024. -/
theorem test_index_block :
    let r := ({ sec := { next := 0x3A800 } } : Dev).takeIndex { store := { lmsRec := Rec.of 0x3A800 } }
    r.1 = 0x3A800 ∧ r.2.1.sec.next = 0x3A801 ∧ r.2.2.store.lmsEnd = 0x3AC00 := by decide +kernel

/-- R449: vendor 0x1F47, device 0x0880. -/
theorem test_config_id : live.cfgRead 0 = 0x08801F47 := by decide +kernel

/-- Physical block numbers and windows: CT2's block 33 hosts logical block 5. -/
theorem test_block_window :
    let d : Dev := { tiles := [(2, { map := [(5, 33), (33, 5)] })] }
    d.phys 2 5 = 105 ∧ d.logical 105 = some 5 ∧ blockBase 105 = 0x4006900000 ∧ target 0x40069C0000 = .spad 105 := by
  decide +kernel

/-- The launch word of the example with Lp = 240. -/
theorem test_launch_word :
    let w := lword 0 0 ⟨0x0000020200C800F3, 0xFF, 0, 40⟩
    w.cls = 3 ∧ w.once = false ∧ w.tiles = 15 ∧ w.offset = 200 ∧ w.action = 2 ∧ w.part = 2 ∧ w.blocks = 0xFF := by
  decide +kernel

/-- Pool 2 of block 9 in core 1's scratchpad at BASE 0x2000. -/
theorem test_pool_ring : ({ valid := true, sp := 1, base := 0x2000, size := 64 } : Pool).ring 9 = 0x40009A2000 := by decide

/-- Device address 0x03_2000_1F40 in a safety pool of 24 ranks. -/
theorem test_dram_location :
    let l := (List.range 12).map (2 * ·) ++ (List.range 12).map (2 * · + 1)
    ({ dram := { safety := l } } : Dev).locate 0x0320001F40 = some (7, 0x21555640, 1) := by decide +kernel

/-- The source, class and partition bytes of an event record, and the first bytes of its time. -/
theorem test_event_record :
    ((EventRecord.bytes ⟨1000250000, 2, 7, 2, 0x1010, 3, 0x41C, []⟩).take 16).map (·.toNat) =
      [0x90, 0x9A, 0x9E, 0x3B, 0, 0, 0, 0, 0x07, 0x02, 0x02, 0x10, 0x10, 0x03, 0x1C, 0x04] := by decide +kernel

/-- Instance 0 is loaded, and the next descriptor is a request whose ENTRY names its block, wherever that lies. -/
def dReq : Dev :=
  { dPull 2 with srv := { insts := [(0, { state := 1, maxWait := 1 })], fairAct := 1, balance := [(0, 1)] } }.wrN (0x10000000 + 64 * 65535 + 16) 8
    (Config.instOffset 0 % hubSize)

theorem dReq_rdN {x m : Nat} (h : x + m ≤ 0x103FFFD0 ∨ 0x103FFFD8 ≤ x) : dReq.rdN x m = (dPull 2).rdN x m := by
  unfold dReq; exact rdN_wrN_ne _ _ (by omega)

theorem dReq_entry : dReq.rdN 0x103FFFD0 8 = Config.instOffset 0 % hubSize := by
  unfold dReq
  rw [rdN_wrN_self]
  exact Nat.mod_eq_of_lt (Nat.lt_trans (Nat.mod_lt _ (by decide)) (by decide))

theorem dReq_qWord {i : Nat} (h : i < 4) : dReq.qWord 262143 i = (dPull 2).qWord 262143 i :=
  dReq_rdN (.inl (by have : dReq.qAddr 262143 = 32 * 262143 := by decide +kernel
                     omega))

theorem dReq_ok : dReq.descRefusal 262143 65535 = none ∧ dReq.descRefusal 262143 (dReq.qHead 262143) = none := by
  have hd : dReq.qHead 262143 = 65535 := by rw [Dev.qHead, dReq_qWord (by decide)]; decide +kernel
  have hr : dReq.qRing 262143 = 0x10000000 := by rw [Dev.qRing, dReq_qWord (by decide)]; decide +kernel
  have hs : dReq.qSize 262143 = 65536 := by rw [Dev.qSize, dReq_qWord (by decide)]; decide +kernel
  have hc : dReq.qCtx 262143 = 4095 := by rw [Dev.qCtx, dReq_qWord (by decide)]; decide +kernel
  rw [hd, Dev.descRefusal, Dev.descAt, hr, hs, hc]
  decide +kernel

theorem dReq_descWord {i : Nat} (h : i ≠ 2) (h8 : i < 8) :
    dReq.descWord 262143 (dReq.qHead 262143) i = (dPull 2).descWord 262143 65535 i := by
  have hd : dReq.qHead 262143 = 65535 := by rw [Dev.qHead, dReq_qWord (by decide)]; decide +kernel
  have hr : dReq.qRing 262143 = 0x10000000 := by rw [Dev.qRing, dReq_qWord (by decide)]; decide +kernel
  have hs : dReq.qSize 262143 = 65536 := by rw [Dev.qSize, dReq_qWord (by decide)]; decide +kernel
  have hr' : (dPull 2).qRing 262143 = 0x10000000 := by decide +kernel
  have hs' : (dPull 2).qSize 262143 = 65536 := by decide +kernel
  have ok : (dPull 2).descRefusal 262143 65535 = none := by decide +kernel
  rw [Dev.descWord, Dev.descWord, dReq_ok.2, ok, Dev.descAt, Dev.descAt, hd, hr, hs, hr', hs']
  exact dReq_rdN (by omega)

theorem dReq_word2 : dReq.descWord 262143 (dReq.qHead 262143) 2 = Config.instOffset 0 % hubSize := by
  have hd : dReq.qHead 262143 = 65535 := by rw [Dev.qHead, dReq_qWord (by decide)]; decide +kernel
  have hr : dReq.qRing 262143 = 0x10000000 := by rw [Dev.qRing, dReq_qWord (by decide)]; decide +kernel
  have hs : dReq.qSize 262143 = 65536 := by rw [Dev.qSize, dReq_qWord (by decide)]; decide +kernel
  rw [Dev.descWord, dReq_ok.2, Dev.descAt, hd, hr, hs]
  exact dReq_entry

theorem dReq_inst : entryInst (Config.instOffset 0 % hubSize) = some 0 := by
  simp [entryInst, List.range, List.range.loop]

theorem dReq_bits : bits (Config.instOffset 0 % hubSize) 0 40 = Config.instOffset 0 % hubSize ∧
    bits (Config.instOffset 0 % hubSize) 40 24 = 0 := by
  have h : Config.instOffset 0 % hubSize < 0x2000000 := Nat.mod_lt _ (by decide)
  unfold bits
  constructor <;> simp <;> omega

theorem dReq_error : dReq.pullError 262143 = 0 := by
  unfold Dev.pullError
  simp only [dReq_word2, dReq_descWord (i := 0) (by decide) (by decide), dReq_descWord (i := 4) (by decide) (by decide),
    dReq_descWord (i := 5) (by decide) (by decide), dReq_bits]
  have w0 : (dPull 2).descWord 262143 65535 0 = 2 := by decide +kernel
  have w4 : (dPull 2).descWord 262143 65535 4 = 0 := by decide +kernel
  have w5 : (dPull 2).descWord 262143 65535 5 = 0 := by decide +kernel
  have h : Config.instOffset 0 % hubSize < hubSize := Nat.mod_lt _ (by decide)
  rw [w0, w4, w5]
  have b : bits 2 0 8 = 2 := by decide
  have : bits 2 9 3 = 0 ∧ bits 2 21 11 = 0 ∧ bits 2 48 16 = 0 ∧ bits 0 40 24 = 0 := by decide
  simp [b, this]; omega

theorem witness_DescriptorPullTakesARequest :
    dReq.pick.map (·.1) = some 262143 ∧ bits (dReq.descWord 262143 (dReq.qHead 262143) 0) 0 8 = 2 ∧
    dReq.pullError 262143 = 0 ∧ (entryInst (bits (dReq.descWord 262143 (dReq.qHead 262143) 2) 0 40)).isSome = true := by
  have w0 : (dPull 2).descWord 262143 65535 0 = 2 := by decide +kernel
  have d0 := dReq_descWord (i := 0) (by decide) (by decide)
  refine ⟨?_, by rw [d0, w0]; decide, dReq_error, by rw [dReq_word2, dReq_bits.1, dReq_inst]; rfl⟩
  have hq : dReq.pullable 262143 = true := by
    unfold Dev.pullable
    have c : dReq.qCtx 262143 = 4095 := by rw [Dev.qCtx, dReq_qWord (by decide)]; decide +kernel
    have s : dReq.qState 262143 = 1 := by rw [Dev.qState, dReq_qWord (by decide)]; decide +kernel
    have hd : dReq.qHead 262143 = 65535 := by rw [Dev.qHead, dReq_qWord (by decide)]; decide +kernel
    have tl : dReq.qTail 262143 = 65536 := by rw [Dev.qTail, dReq_qWord (by decide)]; decide +kernel
    have b : bits 2 0 8 = 2 := by decide
    have o : dReq.pullInOrder 262143 = true := by
      unfold Dev.pullInOrder
      simp only [dReq_word2, d0, w0, b, dReq_bits.1, dReq_inst, dReq_error]
      decide +kernel
    simp only [dReq_word2, d0, w0, b, dReq_bits.1, dReq_inst, c, s, o]
    rw [hd, tl]
    decide +kernel
  have ps : dReq.pullSet = [262143] := by
    have c : sortBy (fun q => q) dReq.qm.cache = [262143] := by decide +kernel
    unfold Dev.pullSet
    rw [c]; simp [hq]
  have f : dReq.srv.fairAct = 1 := rfl
  simp [Dev.pick, ps, f, Dev.budgetPick, minBy?]

end Sys2Proof.Tests
end

namespace Sys2Proof.Machine

/-! ## What every command leaves of the queue -/

/-- An outcome is a next state with the queue of `s`. -/
def Completes (s : State) (r : Res) : Prop := ∃ t, r = .next t ∧ t.pending = s.pending

theorem onDev_completes (f : Dev → Dev) (s : State) : Completes s (onDev f s) := ⟨_, rfl, rfl⟩

theorem onDevIf_completes (p : Dev → Bool) (f : Dev → Dev) (s : State) : Completes s (onDevIf p f s) := ⟨_, rfl, rfl⟩

theorem onNv_completes (f : Dev → Nv → Dev × Nv) (s : State) : Completes s (onNv f s) := ⟨_, rfl, rfl⟩

theorem onHost_completes (f : Dev → Dev) (s : State) : Completes s (onHost f s) := ⟨_, rfl, rfl⟩

theorem onHostRead_completes (f : Dev → Nv → Dev) (s : State) : Completes s (onHostRead f s) := onNv_completes ..

theorem onMgmt_completes (seq : BitVec 16) (loader operation : Bool) (f : Dev → Nv → Dev × Nv) (s : State) :
    Completes s (onMgmt seq loader operation f s) := onNv_completes ..

theorem onThread_completes (t : ThreadId) (i : Instr) (f : Dev → Dev) (s : State) : Completes s (onThread t i f s) :=
  onDevIf_completes ..

/-- Every Gwynnath instruction is a thread's instruction; of others nothing comes. -/
theorem runGw_completes (i : Instr) (s : State) : Completes s (runGw i s) := by
  cases i <;> exact ⟨_, rfl, rfl⟩

theorem execTaskException_completes (t : ThreadId) (cause : ExcCause) (s : State) :
    Completes s (execTaskException t cause s) := by
  cases cause with
  | illegal w =>
    cases h : gwDecode t w with
    | some i => simpa only [execTaskException, h] using runGw_completes i s
    | none => simpa only [execTaskException, execTaskException.exc, h] using onThread_completes ..
  | misaligned | ebreak | ecall | mret => exact ⟨_, rfl, rfl⟩

/-- Each command is checked operands and a meaning that always completes. -/
theorem exec_checked (c : Instr) (s : State) : ∃ r, exec c s = checked c.wf r ∧ Completes s r := by
  cases c
  case islandReset | islandRailLow | triggerMessageDrop | engineOpStart | residueRetryCheck |
    checkerInjectionDone | drainLimit | descriptorPull | repeatCompare | arbitrationWaitExpiry | copyInDone |
    arbitrationOutcome | copyBackDone | strikeExpiry | moultDecision | moultRemap | moultEffect |
    safeStateCommit | safeStateRequestReceived | unexplainedHangExpiry =>
    exact ⟨_, rfl, onDev_completes ..⟩
  case startUpInjection | injectionComplete | islandFirmwareLoad | railFault | phaseFault | analogTrip |
    tripRelease | tickMissing | controlFrameTick | perceptionFrameTick | audioBlockTick | syncReceived |
    syncTimeout | deadlineAbandon | residueMismatch | engineOpComplete | ppuOpComplete | engineDrainLimit |
    twaitLimitExpiry | coreArrayParity | scrubPassComplete | rowRepair | operationDispatch | taskComplete |
    fenceComplete | preemptionStart | grantCancelAtPreemption | saveComplete | savedSetResume |
    prefixLookupDone | stepBoundary | avtpduReceived | lidarDeskewDone | updateSeal | releaseDeadline |
    outputCommit | audioBlockClose | mapCommit | setCommit | candidateCheckDone | selectionInstant |
    gateCutoff | primaryRelease | transmitConfirmation | donorEmptied | debugSessionDetach | heartbeatSend |
    heartbeatReceive | peerLost | frameEvaluation | cocoonMessageSend | statusMessageSend | computeResetAssert
    | recoveryStepTimeout | selftestPassEnd | selftestOverdue | sensorMarkFailed | lifeReport | hangDetected |
    regionResume | replayHang | suspectReplayComplete | unitHangDetected | regionResetFail | dramRefresh |
    timingRecentre | patrolScrubPass | spareRankScrub | commandParityAlert | channelRetrainDone |
    rankSparingDecision | spareRankTrained | pageCopyDone | migrationCommit | flitReplay | linkRetrain |
    laneRepairStart | laneRepairDone | laneFlap | portRetrainDone | hostLinkLight | hostLaneLockTimeout |
    hotReset | linkDisable | bmeClear | configRequest | eventRecordDeliver | portLinkDown | portLinkUp |
    linkRetrainDone | cocoonRequestReceived | cocoonCopyReceived | timeOfValidity | abandonmentTimeout |
    syncTransmit =>
    exact ⟨_, rfl, onDevIf_completes ..⟩
  case modResetAssert | coldStart | configurationLockSet | epochTick | repairRecordWrite | recoveryStart |
    lifeRecordSend | attestationRequest | lowerTreeGenerate | attestationIndicesNearlyExhausted =>
    exact ⟨_, rfl, onNv_completes ..⟩
  case dynDisable | dynMode | queueEnable | queueDisable | qmDoorbell | qmCqDoorbell | contextLoad |
    contextDisable | partitionDisable | partitionEnable | qmMirrorCtl | qmAcctCtl | instanceLoad |
    instanceUnload | qmSrvCtlFair | qmBudget | hpBar2Win | hpEvlogCfg | hpEvlogHead =>
    exact ⟨_, rfl, onHost_completes ..⟩
  case tkTimeLoRead =>
    exact ⟨_, rfl, onHostRead_completes ..⟩
  case mgmtIdentify | mgmtChallenge | mgmtCommit | mgmtProvision | mgmtReprovision | mgmtUnlock | mgmtTestPkg
    | mgmtEnterLoader | mgmtRestart =>
    exact ⟨_, rfl, onMgmt_completes ..⟩
  case gwElaunch | gwCreditAcq | gwCreditPub | gwCreditTake | gwCreditRel | gwRfence | gwTwaitTag |
    gwTwaitClass | gwPtest | threadLoad | threadStore =>
    exact ⟨_, rfl, onThread_completes ..⟩
  case taskException => exact ⟨_, rfl, execTaskException_completes ..⟩
  case wingbeatTick | dramRead | dramWrite | flitReceive | eventRecordWrite => exact ⟨_, rfl, onDevIf_completes ..⟩
  case rcRegisterRead | bar0BadRequest | bar2Read => exact ⟨_, rfl, onHostRead_completes ..⟩
  case bar2Write => exact ⟨_, rfl, onHost_completes ..⟩
  case mgmtStage => exact ⟨_, rfl, onMgmt_completes ..⟩
  case registerWrite off v be wide init =>
    refine ⟨_, rfl, ?_⟩
    split
    · exact onHost_completes ..
    · exact onDevIf_completes ..

end Sys2Proof.Machine

namespace Sys2Proof
open Machine

/-- Settles O56: every meaning is one of the liftings of a change of the device and of what survives power, and a
check of operands stands before it where an event of the hardware bounds them. -/
theorem execStopsOnlyOnIllFormedOperands : Obligations.ExecStopsOnlyOnIllFormedOperands := by
  unfold Obligations.ExecStopsOnlyOnIllFormedOperands
  intro c s
  obtain ⟨r, he, hr⟩ := exec_checked c s
  refine ⟨fun h => ?_, fun h => ?_⟩
  · rw [he, h]; exact hr
  · rw [he, h]; rfl

/-- Settles O57: reset starts from empty tables, in which everything reads as its default. -/
theorem resetIsTheStatedState : Obligations.ResetIsTheStatedState := by
  unfold Obligations.ResetIsTheStatedState
  exact ⟨rfl, rfl, rfl, rfl, rfl, rfl, rfl, fun _ => rfl, by decide, by decide, fun _ => rfl, fun _ => rfl, rfl, rfl,
    rfl, rfl, rfl, reset_wf⟩
end Sys2Proof

namespace Sys2Proof.Machine

/-! ## Bits of merged dwords -/

/-- Numbers without a common bit add without a carry. -/
theorem add_eq_or_of_and_eq_zero {a b : Nat} (h : a &&& b = 0) : a + b = a ||| b := by
  induction a using Nat.strongRecOn generalizing b with
  | ind a ih =>
    rcases Nat.eq_zero_or_pos a with rfl | ha
    · simp
    · have half : a / 2 + b / 2 = a / 2 ||| b / 2 := ih (a / 2) (by omega) (by rw [← Nat.and_div_two, h])
      have hand : ¬ (a % 2 = 1 ∧ b % 2 = 1) := by rw [← Nat.and_mod_two_eq_one, h]; decide
      have hor := @Nat.or_mod_two_eq_one a b
      rw [← Nat.or_div_two] at half
      omega

/-- Taking from a number the bits it shares with a mask clears the mask's bits. -/
theorem bit_sub_and (a m i : Nat) : bit (a - (a &&& m)) i = (bit a i && !bit m i) := by
  have split : (a &&& m) + Nat.ldiff a m = a := by
    rw [add_eq_or_of_and_eq_zero]
    · apply Nat.eq_of_testBit_eq; intro j
      simp only [Nat.testBit_or, Nat.testBit_and, Nat.testBit_ldiff]
      cases a.testBit j <;> cases m.testBit j <;> rfl
    · apply Nat.eq_of_testBit_eq; intro j
      simp only [Nat.testBit_and, Nat.testBit_ldiff, Nat.zero_testBit]
      cases a.testBit j <;> cases m.testBit j <;> rfl
  have : a - (a &&& m) = Nat.ldiff a m := by omega
  rw [this]; exact Nat.testBit_ldiff ..

/-- A sum of numbers without a common bit has the bits of both. -/
theorem bit_add_of_apart {a b : Nat} (h : ∀ i, (bit a i && bit b i) = false) (i : Nat) :
    bit (a + b) i = (bit a i || bit b i) := by
  have : a &&& b = 0 := Nat.eq_of_testBit_eq fun j => by
    rw [Nat.testBit_and, Nat.zero_testBit]; exact h j
  rw [add_eq_or_of_and_eq_zero this]; exact Nat.testBit_or ..

theorem bit_and (a b i : Nat) : bit (a &&& b) i = (bit a i && bit b i) := Nat.testBit_and ..

theorem bit_or (a b i : Nat) : bit (a ||| b) i = (bit a i || bit b i) := Nat.testBit_or ..

/-- The low `n` bits of a number. -/
theorem bit_mod_two_pow (a n i : Nat) : bit (a % 2 ^ n) i = (decide (i < n) && bit a i) := Nat.testBit_mod_two_pow ..

/-- A dword in which the bits of a mask come from `v`. -/
def masked (r v m : Nat) : Nat := r - (r &&& m) + (v &&& m)

theorem bit_masked (r v m i : Nat) : bit (masked r v m) i = if bit m i then bit v i else bit r i := by
  unfold masked
  rw [bit_add_of_apart]
  · rw [bit_sub_and, bit_and]; cases bit m i <;> simp
  · intro j; rw [bit_sub_and, bit_and]; cases bit m j <;> simp

/-- Bits below `n` decide a number modulo 2^n. -/
theorem mod_eq_of_bits {a b n : Nat} (h : ∀ i < n, bit a i = bit b i) : a % 2 ^ n = b % 2 ^ n := by
  apply Nat.eq_of_testBit_eq
  intro i
  have := h i
  simp only [Nat.testBit_mod_two_pow]
  by_cases hi : i < n
  · simpa [hi, bit] using this hi
  · simp [hi]

/-- The bits of the mask of four byte enables. -/
theorem bit_beMask (be : Nat) {i : Nat} (hi : i < 32) : bit (beMask be) i = bit be (i / 8) := by
  have all : ∀ (b0 b1 b2 b3 : Bool) (j : Fin 32),
      bit ((List.range 4).foldl (fun n k => if [b0, b1, b2, b3].getD k false then n + 0xFF * 256 ^ k else n) 0) j =
        [b0, b1, b2, b3].getD (j / 8) false := by decide
  have h := all (bit be 0) (bit be 1) (bit be 2) (bit be 3) ⟨i, hi⟩
  have hk : ∀ k < 4, [bit be 0, bit be 1, bit be 2, bit be 3].getD k false = bit be k := by
    intro k hk
    interval_cases k <;> rfl
  rw [hk (i / 8) (by omega)] at h
  rw [← h]
  rfl

end Sys2Proof.Machine

namespace Sys2Proof.Machine

/-! ## Frames of registers, and steps -/

theorem RegsBut_trans {offs : List Nat} {a b c : Dev} (h : RegsBut offs a b) (k : RegsBut offs b c) : RegsBut offs a c :=
  fun o ho => (k o ho).trans (h o ho)

theorem RegsBut_mono {p q : List Nat} {a b : Dev} (h : RegsBut p a b) (hs : ∀ o ∈ p, o ∈ q) : RegsBut q a b :=
  fun o ho => h o fun hp => ho (hs o hp)

theorem regsBut_of_regs (offs : List Nat) {a b : Dev} (h : b.regs = a.regs) : RegsBut offs a b :=
  fun o _ => by unfold Dev.reg; rw [h]

theorem regsBut_setReg (d : Dev) (o v : Nat) : RegsBut [o] d (d.setReg o v) :=
  fun _ hp => Dev.reg_setReg_ne d v (by simpa using hp)

theorem regsBut_bump (d : Dev) (o n : Nat) : RegsBut [o] d (d.bump o n) := regsBut_setReg d o _

theorem counted_bump (d : Dev) (o : Nat) : Counted d (d.bump o) o := Dev.reg_bump_self ..

/-- A count survives what leaves its register alone. -/
theorem Counted_of_regsBut {a b c : Dev} {o n : Nat} {offs : List Nat} (h : Counted a b o n) (k : RegsBut offs b c)
    (ho : o ∉ offs) : Counted a c o n := (k o ho).trans h

/-- What leaves the register table alone leaves its frame. -/
theorem RegsBut_of_regs_eq {offs : List Nat} {a b c : Dev} (h : RegsBut offs a b) (k : c.regs = b.regs) :
    RegsBut offs a c := RegsBut_trans h (regsBut_of_regs offs k)

theorem Counted_of_regs_eq {a b c : Dev} {o n : Nat} (h : Counted a b o n) (k : c.regs = b.regs) : Counted a c o n :=
  Counted_of_regsBut h (regsBut_of_regs [] k) (by simp)

/-- A bit of a register written. -/
theorem bit_reg_setReg (d : Dev) (o v : Nat) {i : Nat} (hi : i < 32) : bit ((d.setReg o v).reg o) i = bit v i := by
  rw [Dev.reg_setReg_self, bit_mod_two_pow]; simp [hi]

/-- A device that changes in the listed parts alone makes such a step. -/
theorem only_dev {p : List DevField} {s : State} {d : Dev} (h : Kept p s.dev d) : Only p s { s with dev := d } :=
  ⟨h, rfl, rfl⟩

theorem kept_host (d : Dev) (h : HostPort) : Kept [.host] d { d with host := h } := by
  refine ⟨fun f hf => ?_⟩
  cases f
  case host => exact absurd (List.mem_cons_self ..) hf
  all_goals rfl

theorem kept_log (d : Dev) (l : EvLog) : Kept [.log] d { d with log := l } := by
  refine ⟨fun f hf => ?_⟩
  cases f
  case log => exact absurd (List.mem_cons_self ..) hf
  all_goals rfl

theorem kept_time (d : Dev) (t : TimeBase) : Kept [.time] d { d with time := t } := by
  refine ⟨fun f hf => ?_⟩
  cases f
  case time => exact absurd (List.mem_cons_self ..) hf
  all_goals rfl

theorem kept_links (d : Dev) (l : Links) : Kept [.links] d { d with links := l } := by
  refine ⟨fun f hf => ?_⟩
  cases f
  case links => exact absurd (List.mem_cons_self ..) hf
  all_goals rfl

theorem onHost_taken (f : Dev → Dev) {s : State} (h : s.dev.hostReq = 0) :
    onHost f s = .next { s with dev := f s.dev } := by simp [onHost, h]

theorem onHostRead_taken (f : Dev → Nv → Dev) {s : State} (h : s.dev.hostReq = 0) :
    onHostRead f s = .next { s with dev := f s.dev s.nv } := by simp [onHostRead, onNv, h]

theorem onDevIf_met {p : Dev → Bool} (f : Dev → Dev) {s : State} (h : p s.dev = true) :
    onDevIf p f s = .next { s with dev := f s.dev } := by simp [onDevIf, h]

theorem onDevIf_unmet {p : Dev → Bool} (f : Dev → Dev) {s : State} (h : p s.dev = false) :
    onDevIf p f s = .next s := by simp [onDevIf, h]

/-- Well-formed operands reach the command's meaning. -/
theorem checked_of_wf {ok : Bool} (h : ok = true) (r : Res) : checked ok r = r := by rw [h]; rfl

/-- A request is taken after the configuration lock alone (R432). -/
theorem lock_of_taken {d : Dev} (h : d.hostReq = 0) : d.chip.lock = true := by
  unfold Dev.hostReq at h
  cases hl : d.chip.lock with
  | true => rfl
  | false => simp [hl] at h; split at h <;> simp at h

/-- Two register writes that are the same once taken are the same. -/
theorem onHost_congr {f g : Dev → Dev} {s : State} (h : s.dev.hostReq = 0 → f s.dev = g s.dev) :
    onHost f s = onHost g s := by
  unfold onHost
  split
  · rw [h ‹_›]
  · rfl
  · rfl

/-! ## The register map -/

/-- The copies of a register all lie below `lo`, or all from `hi` on. -/
def RegDef.apart (lo hi : Nat) (r : RegDef) : Bool :=
  (decide (r.off < lo) && decide (r.off + r.count * r.stride ≤ lo)) || decide (hi ≤ r.off)

/-- A register with a copy in [lo, hi) is not apart from it. -/
theorem RegDef.not_apart_of_covers {r : RegDef} {off lo hi : Nat} (h : r.covers off = true) (hlo : lo ≤ off)
    (hhi : off < hi) : r.apart lo hi = false := by
  simp only [RegDef.covers, Bool.and_eq_true, decide_eq_true_eq] at h
  obtain ⟨⟨hle, hmod⟩, hdiv⟩ := h
  have hd := Nat.div_add_mod (off - r.off) r.stride
  have hend : r.off < lo → lo < r.off + r.count * r.stride := by
    intro hlt
    rcases Nat.eq_zero_or_pos r.stride with h0 | h0
    · rw [h0, Nat.mod_zero] at hmod; omega
    · have := Nat.mul_lt_mul_of_pos_left hdiv h0
      rw [hmod] at hd
      rw [Nat.mul_comm r.count]; omega
  simp only [RegDef.apart, Bool.or_eq_false_iff, Bool.and_eq_false_iff, decide_eq_false_iff_not]
  omega

/-- The first register that is not apart from a range in which a dword lies is the dword's, where it covers it. -/
theorem regDef?_of_covers {r : RegDef} {off lo hi : Nat} (hr : r.covers off = true) (hlo : lo ≤ off) (hhi : off < hi)
    (hf : regMap.find? (fun a => !a.apart lo hi) = some r) : regDef? off = some r := by
  unfold regDef?
  generalize regMap = l at hf
  induction l with
  | nil => simp at hf
  | cons a l ih =>
    rw [List.find?_cons] at hf ⊢
    split at hf
    · cases hf; rw [hr]
    · have : a.covers off = false := by
        rename_i hn
        cases hc : a.covers off with
        | false => rfl
        | true => simp [RegDef.not_apart_of_covers hc hlo hhi] at hn
      rw [this]; exact ih hf

/-- A dword at a copy's place of a register of the map has a register. -/
theorem regDef?_isSome_of_idx {r : RegDef} (hr : r ∈ regMap) {off : Nat}
    (h : (idx off r.off r.stride r.count).isSome = true) : (regDef? off).isSome = true := by
  unfold idx at h
  split at h
  · rename_i hin
    obtain ⟨hlo, hhi, hmod⟩ := hin
    refine List.find?_isSome.2 ⟨r, hr, ?_⟩
    simp only [RegDef.covers, Bool.and_eq_true, decide_eq_true_eq]
    refine ⟨⟨hlo, hmod⟩, ?_⟩
    apply Nat.div_lt_of_lt_mul
    rw [Nat.mul_comm]; omega
  · simp at h

/-- Without a register no bit of a dword is writable or cleared by a read. -/
theorem masks_of_no_register {off : Nat} (h : regDef? off = none) : rwMask off = 0 ∧ rwlMask off = 0 ∧ rcMask off = 0 := by
  simp [rwMask, rwlMask, rcMask, h]

theorem regDef?_ne_none_of_rwMask {off : Nat} (h : rwMask off ≠ 0) : (regDef? off).isSome = true := by
  cases hd : regDef? off with
  | none => exact absurd (masks_of_no_register hd).1 h
  | some _ => rfl

/-- The enable and mode bits of QM_PCTL_p are writable (R152). -/
theorem rwMask_qmPctl (p : Fin 64) : rwMask (R.qmPctl p) = 3 ∧ rwlMask (R.qmPctl p) = 0 := by
  have at_ : R.qmPctl p = 0x10100 + p * 0x4 := rfl
  have mc : R.mcReg 0 = 0x51000 := rfl
  have h : regDef? (R.qmPctl p) = some ⟨"QM_PCTL_p", 0x10100, 64, 0x4, 0x3, 0x0, 0x0, 0x0, 0x1⟩ := by
    apply regDef?_of_covers (lo := 0x10100) (hi := 0x10200)
    · simp only [at_, RegDef.covers, Bool.and_eq_true, decide_eq_true_eq]; omega
    · omega
    · omega
    · decide +kernel
  have hm : ¬ R.mcReg 0 ≤ R.qmPctl p := by omega
  simp [rwMask, rwlMask, h, mcRegStatic, hm]

/-- Every bit of QM_BUDGET_c is writable (R199). -/
theorem rwMask_qmBudget (c : Fin 1024) : rwMask (R.qmBudget c) = 0xFFFFFFFF ∧ rwlMask (R.qmBudget c) = 0 := by
  have at_ : R.qmBudget c = 0x12000 + c * 0x8 := rfl
  have mc : R.mcReg 0 = 0x51000 := rfl
  have h : regDef? (R.qmBudget c) = some ⟨"QM_BUDGET_c", 0x12000, 1024, 0x8, 0xFFFFFFFF, 0x0, 0x0, 0x0, 0x0⟩ := by
    apply regDef?_of_covers (lo := 0x12000) (hi := 0x14000)
    · simp only [at_, RegDef.covers, Bool.and_eq_true, decide_eq_true_eq]; omega
    · omega
    · omega
    · decide +kernel
  have hm : ¬ R.mcReg 0 ≤ R.qmBudget c := by omega
  simp [rwMask, rwlMask, h, mcRegStatic, hm]

end Sys2Proof.Machine

namespace Sys2Proof.Machine

/-! ## Reads of BAR0 (R6, R451) -/

/-- A dword that no unit gives is the stored one, and reading it clears its RC bits alone. -/
theorem afterRead_of_no_unit {d : Dev} {n : Nv} {off : Nat} (h : d.viewUnit n off = none) :
    d.afterRead off = if rcMask off = 0 then d else d.setReg off (d.reg off - (d.reg off &&& rcMask off)) := by
  have ne (o : Nat) (ho : (d.viewUnit n o).isSome = true) : off ≠ o := by
    rintro rfl; rw [h] at ho; cases ho
  have strike : (idx off (R.rxStrike 0) 64 144).isSome = false := by
    cases hi : idx off (R.rxStrike 0) 64 144 with
    | none => rfl
    | some k =>
      have hw : off / 0x10000 = 8 := by
        unfold idx at hi
        split at hi
        · rename_i hin
          have e : R.rxStrike 0 = 0x81008 := rfl
          omega
        · cases hi
      unfold Dev.viewUnit at h
      rw [hw] at h
      simp only [Dev.viewRx, hi] at h
      split at h <;> simp at h
  unfold Dev.afterRead
  rw [if_neg (ne R.tkTimeLo rfl), if_neg (ne R.qmSrvRecomp rfl), if_neg (ne R.qmSrvRetry rfl),
    if_neg (ne R.qmSrvDraft rfl), if_neg (ne R.qmSrvAccept rfl), if_neg (ne R.qmSrvHold rfl),
    if_neg (ne R.qmKvLow rfl), strike]
  rfl

/-- A read of an offset without a register leaves every register as it was. -/
theorem afterRead_of_no_register {d : Dev} {off : Nat} (h : regDef? off = none) : d.afterRead off = d := by
  have ne (o : Nat) (ho : (regDef? o).isSome = true) : off ≠ o := by
    rintro rfl; rw [h] at ho; cases ho
  have strike : ¬ (idx off (R.rxStrike 0) 64 144).isSome = true := fun hi => by
    have := regDef?_isSome_of_idx (r := ⟨"RX_STRIKE_n", 0x81008, 144, 0x40, 0x0, 0x0, 0x0, 0x0, 0x0⟩) (by decide +kernel) hi
    rw [h] at this; cases this
  unfold Dev.afterRead
  rw [if_neg (ne R.tkTimeLo (by decide +kernel)), if_neg (ne R.qmSrvRecomp (by decide +kernel)),
    if_neg (ne R.qmSrvRetry (by decide +kernel)), if_neg (ne R.qmSrvDraft (by decide +kernel)),
    if_neg (ne R.qmSrvAccept (by decide +kernel)), if_neg (ne R.qmSrvHold (by decide +kernel)),
    if_neg (ne R.qmKvLow (by decide +kernel)), if_neg strike, if_pos (masks_of_no_register h).2.2]

@[simp] theorem afterRead_out (d : Dev) (off : Nat) : (d.afterRead off).out = d.out := by
  simp only [Dev.afterRead, Dev.modInst, apply_ite Dev.out, Dev.setReg_out, ite_self]

@[simp] theorem unused_out (d : Dev) (offs : List Nat) : (d.unused offs).out = d.out := by
  unfold Dev.unused; split <;> rfl

theorem kept_unused (d : Dev) (offs : List Nat) : Kept [.regs] d (d.unused offs) := by
  unfold Dev.unused
  split
  · exact kept_bump ..
  · exact kept_refl ..

theorem unused_of_register (d : Dev) {off : Nat} (h : regDef? off ≠ none) : d.unused [off] = d := by
  simp [Dev.unused, h]

theorem unused_of_no_register (d : Dev) {off : Nat} (h : regDef? off = none) : d.unused [off] = d.bump R.hpUnused := by
  simp [Dev.unused, h]

theorem kept_complete (d : Dev) (st : Nat) (bs : List Byte) (ep : Bool) : Kept [.out] d (d.complete st bs ep) :=
  kept_emit ..

@[simp] theorem complete_out (d : Dev) (st : Nat) (bs : List Byte) (ep : Bool) :
    (d.complete st bs ep).out = d.out ++ [.completion st ep bs] := rfl

theorem view_of_no_register {d : Dev} {n : Nv} {off : Nat} (h : regDef? off = none) : d.view n off = 0 := by
  simp [Dev.view, h]

theorem view_of_no_unit {d : Dev} {n : Nv} {off : Nat} (hr : regDef? off ≠ none) (hu : d.viewUnit n off = none) :
    d.view n off = d.reg off := by
  simp [Dev.view, hr, hu]

/-- A read of a dword with a register that no unit gives: what it leaves. -/
theorem readPlain_bits {d : Dev} {n : Nv} {off : Nat} (hu : d.viewUnit n off = none) (i : Nat) :
    bit ((d.afterRead off).reg off) i = (bit (d.reg off) i && !bit (rcMask off) i) := by
  rw [afterRead_of_no_unit hu]
  split
  · rename_i h0; simp [h0, bit]
  · rw [Dev.reg_setReg_self, bit_mod_two_pow, bit_sub_and]
    by_cases hi : i < 32
    · simp [hi]
    · have : bit (d.reg off) i = false := Nat.testBit_lt_two_pow (lt_of_lt_of_le (Dev.reg_lt d off)
        (Nat.pow_le_pow_right (by decide) (by omega)))
      simp [this]

/-- A 4-byte read that is taken. -/
theorem exec_rcRegisterRead {off : Fin 268435456} {s : State} (hreq : s.dev.hostReq = 0) (h4 : off.val % 4 = 0) :
    exec (.rcRegisterRead off false) s = .next
      { s with dev := ((s.dev.afterRead off).unused [off.val]).complete 0 (toLE 4 (s.dev.view s.nv off)) } := by
  have hwf : (Instr.rcRegisterRead off false).wf = true := by simp [Instr.wf, h4]
  exact (checked_of_wf hwf _).trans (onHostRead_taken _ hreq)

/-- An 8-byte read that is taken. -/
theorem exec_rcRegisterRead_wide {off : Fin 268435456} {s : State} (hreq : s.dev.hostReq = 0) (h8 : off.val % 8 = 0) :
    exec (.rcRegisterRead off true) s = .next { s with dev := s.dev.bar0Read s.nv off true } := by
  have hwf : (Instr.rcRegisterRead off true).wf = true := by simp [Instr.wf, h8]
  exact (checked_of_wf hwf _).trans (onHostRead_taken _ hreq)

theorem registerRead_returns {off : Fin 268435456} {s : State} (hreq : s.dev.hostReq = 0) (h4 : off.val % 4 = 0) :
    Runs (.rcRegisterRead off false) s fun t =>
      t.dev.out = s.dev.out ++ [.completion 0 false (toLE 4 (s.dev.view s.nv off))] ∧ t.nv = s.nv :=
  ⟨_, exec_rcRegisterRead hreq h4, by simp, rfl⟩

theorem registerRead_unused {off : Fin 268435456} {s : State} (hreq : s.dev.hostReq = 0) (h4 : off.val % 4 = 0)
    (hr : regDef? off = none) : Runs (.rcRegisterRead off false) s fun t => s.dev.view s.nv off = 0 ∧
      (Counted s.dev t.dev R.hpUnused ∧ RegsBut [R.hpUnused] s.dev t.dev ∧ Only [.regs, .out] s t) := by
  refine ⟨_, exec_rcRegisterRead hreq h4, view_of_no_register hr, ?_⟩
  rw [afterRead_of_no_register hr, unused_of_no_register _ hr]
  refine ⟨Counted_of_regs_eq (counted_bump s.dev R.hpUnused) rfl,
    RegsBut_of_regs_eq (regsBut_bump s.dev R.hpUnused 1) rfl, only_dev ?_⟩
  exact Kept_trans (Kept_mono (kept_bump ..) (by decide)) (Kept_mono (kept_complete ..) (by decide))

theorem registerRead_plain {off : Fin 268435456} {s : State} (hreq : s.dev.hostReq = 0) (h4 : off.val % 4 = 0)
    (hr : regDef? off ≠ none) (hu : s.dev.viewUnit s.nv off = none) : Runs (.rcRegisterRead off false) s fun t =>
      s.dev.view s.nv off = s.dev.reg off ∧
      (∀ i, bit (t.dev.reg off) i = (bit (s.dev.reg off) i && !bit (rcMask off) i)) ∧
      RegsBut [off.val] s.dev t.dev ∧ (rcMask off = 0 → t.dev.regs = s.dev.regs) ∧ Only [.regs, .out] s t := by
  refine ⟨_, exec_rcRegisterRead hreq h4, view_of_no_unit hr hu, ?_⟩
  rw [unused_of_register _ hr]
  refine ⟨readPlain_bits hu, ?_, ?_, only_dev (Kept_trans ?_ (Kept_mono (kept_complete ..) (by decide)))⟩ <;>
    rw [afterRead_of_no_unit hu]
  · split
    · exact regsBut_of_regs _ rfl
    · exact RegsBut_of_regs_eq (regsBut_setReg s.dev off _) rfl
  · intro h0; rw [if_pos h0]; rfl
  · split
    · exact kept_refl ..
    · exact Kept_mono (kept_setReg ..) (by decide)

theorem registerRead_wide {off : Fin 268435456} {s : State} (hreq : s.dev.hostReq = 0) (h8 : off.val % 8 = 0)
    (hr : regDef? off ≠ none) (hr' : regDef? (off.val + 4) ≠ none) (hu : s.dev.viewUnit s.nv off = none)
    (hu' : s.dev.viewUnit s.nv (off.val + 4) = none) (hc : rcMask off = 0) (hc' : rcMask (off.val + 4) = 0) :
    Runs (.rcRegisterRead off true) s fun t => t.dev.out = s.dev.out ++
      [.completion 0 false (toLE 4 (s.dev.reg off) ++ toLE 4 (s.dev.reg (off.val + 4)))] ∧ Only [.out] s t := by
  have both : s.dev.bar0Read s.nv off true =
      s.dev.complete 0 (toLE 4 (s.dev.reg off) ++ toLE 4 (s.dev.reg (off.val + 4))) := by
    simp only [Dev.bar0Read, Dev.readDword, if_true]
    rw [afterRead_of_no_unit hu, if_pos hc, view_of_no_unit hr hu, afterRead_of_no_unit hu', if_pos hc',
      view_of_no_unit hr' hu']
    simp [Dev.unused, hr, hr']
  refine ⟨_, exec_rcRegisterRead_wide hreq h8, ?_⟩
  rw [both]
  exact ⟨rfl, only_dev (kept_complete ..)⟩

theorem inst_modInst_self (d : Dev) (i : Nat) (f : Inst → Inst) : (d.modInst i f).inst i = f (d.inst i) := tget_tset_self ..

theorem inst_modInst_ne (d : Dev) {i j : Nat} (f : Inst → Inst) (h : j ≠ i) : (d.modInst i f).inst j = d.inst j :=
  tget_tset_ne _ _ _ h

theorem kept_modInst (d : Dev) (i : Nat) (f : Inst → Inst) : Kept [.srv] d (d.modInst i f) := by
  refine ⟨fun g hg => ?_⟩
  cases g
  case srv => exact absurd (List.mem_cons_self ..) hg
  all_goals rfl

theorem registerRead_hold {off : Fin 268435456} {s : State} (hreq : s.dev.hostReq = 0) (h4 : off.val % 4 = 0)
    (ho : off.val = R.qmSrvHold) : Runs (.rcRegisterRead off false) s fun t =>
      s.dev.view s.nv off = min (s.dev.inst s.dev.iSel).hold 0xFFFFFFFF ∧
      t.dev.inst s.dev.iSel = { s.dev.inst s.dev.iSel with hold := 0 } ∧
      (∀ i, i ≠ s.dev.iSel → t.dev.inst i = s.dev.inst i) ∧ Only [.srv, .out] s t := by
  have hr : regDef? off ≠ none := by rw [ho]; decide +kernel
  have after : s.dev.afterRead off = s.dev.modInst s.dev.iSel fun x => { x with hold := 0 } := by rw [ho]; rfl
  refine ⟨_, exec_rcRegisterRead hreq h4, ?_⟩
  rw [unused_of_register _ hr, after]
  refine ⟨?_, inst_modInst_self .., fun i hi => inst_modInst_ne _ _ hi, only_dev ?_⟩
  · have hu : s.dev.viewUnit s.nv R.qmSrvHold = some (min (s.dev.inst s.dev.iSel).hold 0xFFFFFFFF) := rfl
    rw [ho] at hr ⊢
    simp [Dev.view, hr, hu]
  · exact Kept_trans (Kept_mono (kept_modInst ..) (by decide)) (Kept_mono (kept_complete ..) (by decide))

theorem tkTimeLoRead_captures {s : State} (hreq : s.dev.hostReq = 0) : Runs .tkTimeLoRead s fun t =>
    t.dev.out = s.dev.out ++ [.completion 0 false (toLE 4 (s.dev.time.now % 2 ^ 32))] ∧
    t.dev.view t.nv R.tkTimeHi = s.dev.time.now / 2 ^ 32 % 2 ^ 32 ∧
    { t.dev.time with hi := 0 } = { s.dev.time with hi := 0 } ∧ Only [.time, .out] s t := by
  have lo : regDef? R.tkTimeLo ≠ none := by decide +kernel
  have hi : regDef? R.tkTimeHi ≠ none := by decide +kernel
  refine ⟨_, onHostRead_taken (fun d n => d.bar0Read n R.tkTimeLo false) hreq, ?_⟩
  have read : s.dev.bar0Read s.nv R.tkTimeLo false =
      Dev.complete { s.dev with time := { s.dev.time with hi := BitVec.ofNat 32 (s.dev.time.now / 2 ^ 32) } } 0
        (toLE 4 (s.dev.time.now % 2 ^ 32)) := by
    have hv : s.dev.view s.nv R.tkTimeLo = s.dev.time.now % 2 ^ 32 := by
      have hu : s.dev.viewUnit s.nv R.tkTimeLo = some (s.dev.time.now % 2 ^ 32) := rfl
      simp [Dev.view, lo, hu]
    change Dev.complete (Dev.unused _ _) 0 (toLE 4 (s.dev.view s.nv R.tkTimeLo)) = _
    rw [hv, unused_of_register _ lo]; rfl
  rw [read]
  refine ⟨rfl, ?_, rfl, only_dev ?_⟩
  · simp only [Dev.view, hi, Option.isNone_iff_eq_none, if_false]
    exact BitVec.toNat_ofNat ..
  · exact Kept_trans (Kept_mono (kept_time ..) (by decide)) (Kept_mono (kept_complete ..) (by decide))

end Sys2Proof.Machine

namespace Sys2Proof.Machine

/-! ## Writes of BAR0 (R6, R451, R460) -/

/-- The bits of a dword that a write under byte enables takes (R6). -/
def Dev.writable (d : Dev) (off be : Nat) : Nat :=
  (rwMask off ||| (if d.chip.lock then 0 else rwlMask off)) &&& beMask be

theorem writeDword_eq (d : Dev) (off v be : Nat) : d.writeDword off v be =
    if d.writable off be = 0 then d
    else (d.writeUnit off (masked (d.reg off) v (d.writable off be))).getD
      (d.setReg off (masked (d.reg off) v (d.writable off be))) := rfl

/-- A write to a register without an effect of its own stores the merged dword. -/
theorem writeDword_plain {d : Dev} {off : Nat} (hu : ∀ x, d.writeUnit off x = none) (v be : Nat) :
    d.writeDword off v be =
      if d.writable off be = 0 then d else d.setReg off (masked (d.reg off) v (d.writable off be)) := by
  rw [writeDword_eq, hu]; rfl

theorem writeDword_plain_bits {d : Dev} {off : Nat} (hu : ∀ x, d.writeUnit off x = none) (v be : Nat) {i : Nat}
    (hi : i < 32) : bit ((d.writeDword off v be).reg off) i =
      if bit (d.writable off be) i then bit v i else bit (d.reg off) i := by
  rw [writeDword_plain hu]
  split
  · rename_i h0; simp [h0, bit]
  · rw [bit_reg_setReg _ _ _ hi, bit_masked]

theorem writeDword_plain_regsBut {d : Dev} {off : Nat} (hu : ∀ x, d.writeUnit off x = none) (v be : Nat) :
    RegsBut [off] d (d.writeDword off v be) := by
  rw [writeDword_plain hu]
  split
  · exact regsBut_of_regs _ rfl
  · exact regsBut_setReg _ _ _

theorem kept_writeDword_plain {d : Dev} {off : Nat} (hu : ∀ x, d.writeUnit off x = none) (v be : Nat) :
    Kept [.regs] d (d.writeDword off v be) := by
  rw [writeDword_plain hu]
  split
  · exact kept_refl ..
  · exact kept_setReg ..

/-- Nothing is written where no register stands. -/
theorem writeDword_of_no_register {d : Dev} {off : Nat} (h : regDef? off = none) (v be : Nat) :
    d.writeDword off v be = d := by
  obtain ⟨hrw, hrwl, -⟩ := masks_of_no_register h
  rw [writeDword_eq, if_pos]
  simp [Dev.writable, hrw, hrwl]

/-- A 4-byte write that no lock denies and no doorbell takes. -/
theorem regWrite_narrow {d : Dev} {off : Nat} (hq : off / 8 * 8 ≠ R.qmDoorbell) (hc : off / 8 * 8 ≠ R.qmCqDoorbell)
    (hl : rwlMask off = 0 ∨ d.chip.lock = false) (v be init : Nat) : d.regWrite off v be false init =
      (if init = 728 then d.unused [off] else d).writeDword off (v % 2 ^ 32) (be % 16) := by
  have open_ : rwlHit [(off, v % 2 ^ 32, be % 16)] = none ∨ d.chip.lock = false :=
    hl.imp_left fun h0 => by simp [rwlHit, h0]
  simp only [Dev.regWrite, hq, hc, if_false, Bool.false_eq_true]
  rcases open_ with h | h
  · rw [h]; rfl
  · rw [h]; cases rwlHit [(off, v % 2 ^ 32, be % 16)] <;> rfl

/-- The initiators whose register writes are taken in a state: the host, or machine-mode code of a core (R460). -/
theorem exec_registerWrite {off : Fin 268435456} (v : DWord) (be : BitVec 8) {init : Nat} {s : State}
    (hi : (init = 728 ∧ s.dev.hostReq = 0) ∨ (init < 720 ∧ init % 5 < 4 ∧ s.dev.live = true)) (h4 : off.val % 4 = 0) :
    exec (.registerWrite off v be false init) s = .next
      { s with dev := s.dev.regWrite off v.toNat be.toNat false init } := by
  rcases hi with ⟨rfl, hreq⟩ | ⟨hlt, hmod, hlive⟩
  · have hwf : (Instr.registerWrite off v be false 728).wf = true := by simp [Instr.wf, h4]
    exact (checked_of_wf hwf _).trans (onHost_taken (fun d => d.regWrite off v.toNat be.toNat false 728) hreq)
  · have hwf : (Instr.registerWrite off v be false init).wf = true := by simp [Instr.wf, h4, hlt, hmod]
    refine (checked_of_wf hwf _).trans ((if_neg (by omega)).trans ?_)
    exact onDevIf_met (fun d => d.regWrite off v.toNat be.toNat false init) hlive

theorem registerWrite_plain {off : Fin 268435456} (v : DWord) (be : BitVec 8) {init : Nat} {s : State}
    (hi : (init = 728 ∧ s.dev.hostReq = 0) ∨ (init < 720 ∧ init % 5 < 4 ∧ s.dev.live = true)) (h4 : off.val % 4 = 0)
    (hu : ∀ x, s.dev.writeUnit off x = none) (hq : off.val / 8 * 8 ≠ R.qmDoorbell)
    (hc : off.val / 8 * 8 ≠ R.qmCqDoorbell) (hl : rwlMask off = 0 ∨ s.dev.chip.lock = false) :
    Runs (.registerWrite off v be false init) s fun t =>
      (regDef? off ≠ none → ∀ i < 32, bit (t.dev.reg off) i =
        (if (bit (rwMask off) i || bit (rwlMask off) i) && bit be.toNat (i / 8) then bit v.toNat i
          else bit (s.dev.reg off) i)) ∧
      (regDef? off ≠ none → RegsBut [off.val] s.dev t.dev) ∧
      (regDef? off = none → init = 728 → Counted s.dev t.dev R.hpUnused ∧ RegsBut [R.hpUnused] s.dev t.dev) ∧
      Only [.regs] s t := by
  refine ⟨_, exec_registerWrite v be hi h4, ?_⟩
  rw [regWrite_narrow hq hc hl]
  cases hr : regDef? off with
  | none =>
    rw [writeDword_of_no_register hr, unused_of_no_register _ hr]
    refine ⟨fun h => absurd rfl h, fun h => absurd rfl h, fun _ h => ?_, only_dev ?_⟩
    · rw [if_pos h]
      exact ⟨counted_bump .., regsBut_bump _ _ _⟩
    · split
      · exact kept_bump ..
      · exact kept_refl ..
  | some r =>
    have hr' : regDef? off ≠ none := by rw [hr]; simp
    rw [unused_of_register _ hr', ite_self]
    refine ⟨fun _ i hi => ?_, fun _ => writeDword_plain_regsBut hu _ _, fun h => (by cases h),
      only_dev (kept_writeDword_plain hu _ _)⟩
    have open_ : bit (rwMask off ||| (if s.dev.chip.lock then 0 else rwlMask off)) i =
        (bit (rwMask off) i || bit (rwlMask off) i) := by
      rcases hl with h0 | h0
      · rw [h0, ite_self, bit_or]
      · rw [h0, bit_or]; rfl
    have low : bit be.toNat (i / 8) = bit (be.toNat % 16) (i / 8) := by
      rw [show (16 : Nat) = 2 ^ 4 from rfl, bit_mod_two_pow, decide_eq_true (by omega), Bool.true_and]
    rw [writeDword_plain_bits hu _ _ hi, Dev.writable, bit_and, open_, bit_beMask _ hi, low, bit_mod_two_pow,
      decide_eq_true hi, Bool.true_and]

/-! ## Control registers and doorbells -/

/-- A full write of the host to a register whose write has an effect of its own is that effect, where the merged
dword gives the effect what the written one would. -/
theorem hostWrite_effect {off : Fin 268435456} {w : Word} {s : State} {m : Nat} (g : Dev → Dev)
    (hm : rwMask off = m ∧ rwlMask off = 0) (hm0 : m ≠ 0) (hfull : m &&& 0xFFFFFFFF = m) (h4 : off.val % 4 = 0)
    (hq : off.val / 8 * 8 ≠ R.qmDoorbell) (hc : off.val / 8 * 8 ≠ R.qmCqDoorbell)
    (hw : s.dev.writeUnit off (masked (s.dev.reg off) w.toNat m) = some (g s.dev)) :
    exec (.registerWrite off (w.setWidth 64) 0xF false 728) s = onHost g s := by
  have hwf : (Instr.registerWrite off (w.setWidth 64) 0xF false 728).wf = true := by simp [Instr.wf, h4]
  refine (checked_of_wf hwf _).trans ((if_pos rfl).trans (onHost_congr fun hreq => ?_))
  obtain ⟨hrw, hrwl⟩ := hm
  have hr : regDef? off ≠ none := Option.isSome_iff_ne_none.1 (regDef?_ne_none_of_rwMask (by rw [hrw]; exact hm0))
  have hv : (w.setWidth 64).toNat % 2 ^ 32 = w.toNat := by
    have := w.isLt
    rw [BitVec.toNat_setWidth]; omega
  have hmask : s.dev.writable off 15 = m := by
    rw [Dev.writable, lock_of_taken hreq, hrw, if_pos rfl, Nat.or_zero]
    exact hfull
  change s.dev.regWrite off (w.setWidth 64).toNat 15 false 728 = g s.dev
  rw [regWrite_narrow hq hc (.inl hrwl), if_pos rfl, unused_of_register _ hr, hv, writeDword_eq]
  rw [show 15 % 16 = 15 from rfl, hmask, if_neg hm0, hw]
  rfl

/-- Bits of the merged dword that a mask takes are the written ones. -/
theorem bit_masked_of_bit {r v m i : Nat} (h : bit m i = true) : bit (masked r v m) i = bit v i := by
  rw [bit_masked, if_pos h]

theorem masked_mod_two_pow {r v m n : Nat} (h : ∀ i < n, bit m i = true) : masked r v m % 2 ^ n = v % 2 ^ n :=
  mod_eq_of_bits fun i hi => bit_masked_of_bit (h i hi)

end Sys2Proof.Machine

namespace Sys2Proof.Machine

/-- A write of the enable bit of a control register is the command of that name. -/
theorem controlWrite_enable {off : Fin 268435456} {w : Word} {s : State} {m o : Nat} (g : Bool → Dev → Dev)
    (ho : off.val = o) (hm : rwMask o = m ∧ rwlMask o = 0) (hb : bit m 0 = true) (hfull : m &&& 0xFFFFFFFF = m)
    (h4 : o % 4 = 0) (hq : o / 8 * 8 ≠ R.qmDoorbell) (hc : o / 8 * 8 ≠ R.qmCqDoorbell)
    (hw : ∀ (d : Dev) (x : Nat), d.writeUnit o x = some (g (bit x 0) d)) :
    exec (.registerWrite off (w.setWidth 64) 0xF false 728) s = onHost (g (bit w.toNat 0)) s := by
  subst ho
  refine hostWrite_effect _ hm (fun h0 => by simp [h0, bit] at hb) hfull h4 hq hc ?_
  rw [hw, bit_masked_of_bit hb]

/-- A write of the enable and mode bits of a control register is the command of that name. -/
theorem controlWrite_mode {off : Fin 268435456} {w : Word} {s : State} {o : Nat} (g : Bool → Bool → Dev → Dev)
    (ho : off.val = o) (hm : rwMask o = 3 ∧ rwlMask o = 0) (h4 : o % 4 = 0) (hq : o / 8 * 8 ≠ R.qmDoorbell)
    (hc : o / 8 * 8 ≠ R.qmCqDoorbell) (hw : ∀ (d : Dev) (x : Nat), d.writeUnit o x = some (g (bit x 0) (bit x 1) d)) :
    exec (.registerWrite off (w.setWidth 64) 0xF false 728) s = onHost (g (bit w.toNat 0) (bit w.toNat 1)) s := by
  subst ho
  refine hostWrite_effect _ hm (by decide) rfl h4 hq hc ?_
  rw [hw, bit_masked_of_bit (by decide), bit_masked_of_bit (by decide)]

/-- A write of a register with `n` low writable bits is what its effect makes of those bits. -/
theorem controlWrite_value {off : Fin 268435456} {w : Word} {s : State} {o n : Nat} (g : Nat → Dev → Dev)
    (ho : off.val = o) (hm : rwMask o = 2 ^ n - 1 ∧ rwlMask o = 0) (hn : n ∈ [6, 8, 32]) (h4 : o % 4 = 0)
    (hq : o / 8 * 8 ≠ R.qmDoorbell) (hc : o / 8 * 8 ≠ R.qmCqDoorbell)
    (hw : ∀ (d : Dev) (x : Nat), d.writeUnit o x = some (g x d)) (hg : ∀ (d : Dev) (x : Nat), g x d = g (x % 2 ^ n) d) :
    exec (.registerWrite off (w.setWidth 64) 0xF false 728) s = onHost (g w.toNat) s := by
  subst ho
  have low : ∀ i < n, bit (2 ^ n - 1) i = true := fun i hi => by simp [bit, hi]
  have full : 2 ^ n - 1 ≠ 0 ∧ (2 ^ n - 1) &&& 0xFFFFFFFF = 2 ^ n - 1 := by
    fin_cases hn <;> decide
  refine hostWrite_effect _ hm full.1 full.2 h4 hq hc ?_
  rw [hw, hg, masked_mod_two_pow low, ← hg]

theorem ofNat_mod_word (v : Nat) : BitVec.ofNat 32 (v % 2 ^ 32) = BitVec.ofNat 32 v :=
  BitVec.eq_of_toNat_eq (by simp)

theorem bar2Win_mod (d : Dev) (x : Nat) : d.bar2Win x = d.bar2Win (x % 2 ^ 8) := by
  simp [Dev.bar2Win]

theorem evlogCfg_mod (d : Dev) (x : Nat) : d.evlogCfg x = d.evlogCfg (x % 2 ^ 6) := by
  have h0 : bit (x % 2 ^ 6) 0 = bit x 0 := by rw [bit_mod_two_pow]; rfl
  have h1 : bits (x % 2 ^ 6) 1 5 = bits x 1 5 := by unfold bits; omega
  have h2 : x % 2 ^ 6 % 2 = x % 2 := by omega
  simp only [Dev.evlogCfg, h0, h1, h2]

theorem evlogHead_mod (d : Dev) (x : Nat) : d.evlogHead x = d.evlogHead (x % 2 ^ 32) := by
  have hh := Dev.reg_lt d R.hpEvlogHead
  have h1 : (x + 2 ^ 32 - d.reg R.hpEvlogHead) % 2 ^ 32 = (x % 2 ^ 32 + 2 ^ 32 - d.reg R.hpEvlogHead) % 2 ^ 32 := by omega
  have h2 : d.setReg R.hpEvlogHead x = d.setReg R.hpEvlogHead (x % 2 ^ 32) := by
    simp only [Dev.setReg, ofNat_mod_word]
  simp only [Dev.evlogHead, h1, h2]

/-- A dword at a copy's place is that copy's. -/
theorem idx_copy {base stride n k : Nat} (hk : k < n) (hs : 0 < stride) :
    idx (base + k * stride) base stride n = some k := by
  have hlt : k * stride < n * stride := Nat.mul_lt_mul_of_pos_right hk hs
  have hin : base ≤ base + k * stride ∧ base + k * stride < base + n * stride ∧
      (base + k * stride - base) % stride = 0 := by
    refine ⟨by omega, by omega, ?_⟩
    rw [Nat.add_sub_cancel_left, Nat.mul_mod_left]
  rw [idx, if_pos hin, Nat.add_sub_cancel_left, Nat.mul_div_cancel _ hs]

/-- The single registers whose write has an effect of its own. -/
def controlRegs : List Nat := [R.qmQctl, R.qmCctl, R.qmMirrorCtl, R.qmAcctCtl, R.qmSrvCtl, R.qmSrvIctl, R.hpBar2Win,
  R.hpEvlogCfg, R.hpEvlogHead]

/-- A write to a copy of a partition's or a customer's register. -/
theorem writeUnit_of_copy {off : Nat} (h : off ∉ controlRegs) (d : Dev) (v : Nat) : ∃ rest, d.writeUnit off v =
    (((idx off (R.qmPctl 0) 4 64).map fun p => if bit v 0 then d.partitionEnable (Fin.ofNat 64 p) (bit v 1)
        else d.partitionDisable (Fin.ofNat 64 p) (bit v 1)) <|>
      ((idx off (R.qmBudget 0) 8 1024).map fun c => d.qmBudget (Fin.ofNat 1024 c) (BitVec.ofNat 32 v)) <|> rest) := by
  simp only [controlRegs, List.mem_cons, List.not_mem_nil, or_false, not_or] at h
  obtain ⟨h1, h2, h3, h4, h5, h6, h7, h8, h9⟩ := h
  unfold Dev.writeUnit
  rw [if_neg h1, if_neg h2, if_neg h3, if_neg h4, if_neg h5, if_neg h6, if_neg h7, if_neg h8, if_neg h9]
  exact ⟨_, rfl⟩

theorem writeUnit_qmPctl (d : Dev) (p : Fin 64) (v : Nat) : d.writeUnit (R.qmPctl p) v =
    some (if bit v 0 then d.partitionEnable p (bit v 1) else d.partitionDisable p (bit v 1)) := by
  have apart : R.qmPctl p ∉ controlRegs := fun h => by
    have out : ∀ o ∈ controlRegs, o < 0x10100 ∨ 0x10200 ≤ o := by decide
    have := out _ h
    have at_ : R.qmPctl p = 0x10100 + p * 4 := rfl
    omega
  obtain ⟨rest, h⟩ := writeUnit_of_copy apart d v
  have hp : Fin.ofNat 64 p.val = p := Fin.ext (Nat.mod_eq_of_lt p.isLt)
  have hi : idx (R.qmPctl p) (R.qmPctl 0) 4 64 = some p.val := idx_copy p.isLt (by decide)
  rw [h, hi, Option.map_some, hp]
  rfl

theorem writeUnit_qmBudget (d : Dev) (c : Fin 1024) (v : Nat) :
    d.writeUnit (R.qmBudget c) v = some (d.qmBudget c (BitVec.ofNat 32 v)) := by
  have at_ : R.qmBudget c = 0x12000 + c * 8 := rfl
  have apart : R.qmBudget c ∉ controlRegs := fun h => by
    have out : ∀ o ∈ controlRegs, o < 0x12000 ∨ 0x14000 ≤ o := by decide
    have := out _ h
    omega
  obtain ⟨rest, h⟩ := writeUnit_of_copy apart d v
  have hc : Fin.ofNat 1024 c.val = c := Fin.ext (Nat.mod_eq_of_lt c.isLt)
  have hp : idx (R.qmBudget c) (R.qmPctl 0) 4 64 = none := by
    have p0 : R.qmPctl 0 = 0x10100 := rfl
    rw [idx, if_neg (by omega)]
  have hi : idx (R.qmBudget c) (R.qmBudget 0) 8 1024 = some c.val := idx_copy c.isLt (by decide)
  rw [h, hp, hi, Option.map_some, hc]
  rfl

/-- The host's write of 4 bytes to each register with an effect of its own. -/
theorem controlWrites (off : Fin 268435456) (w : Word) (s : State) :
    let hostWrite := exec (.registerWrite off (w.setWidth 64) 0xF false 728) s
    let en := bit w.toNat 0
    let mode := bit w.toNat 1
    (off.val = R.qmQctl → hostWrite = exec (if en then .queueEnable mode else .queueDisable mode) s) ∧
    (off.val = R.qmCctl → hostWrite = exec (if en then .contextLoad else .contextDisable) s) ∧
    (off.val = R.qmMirrorCtl → hostWrite = exec (.qmMirrorCtl en) s) ∧
    (off.val = R.qmAcctCtl → hostWrite = exec (.qmAcctCtl en) s) ∧
    (off.val = R.qmSrvCtl → hostWrite = exec (.qmSrvCtlFair en) s) ∧
    (off.val = R.qmSrvIctl → hostWrite = exec (if en then .instanceLoad mode else .instanceUnload mode) s) ∧
    (∀ p : Fin 64, off.val = R.qmPctl p →
      hostWrite = exec (if en then .partitionEnable p mode else .partitionDisable p mode) s) ∧
    (∀ c : Fin 1024, off.val = R.qmBudget c → hostWrite = exec (.qmBudget c w) s) ∧
    (off.val = R.hpBar2Win → hostWrite = exec (.hpBar2Win w) s) ∧
    (off.val = R.hpEvlogCfg → hostWrite = exec (.hpEvlogCfg w) s) ∧
    (off.val = R.hpEvlogHead → hostWrite = exec (.hpEvlogHead w) s) := by
  intro hostWrite en mode
  refine ⟨fun ho => ?_, fun ho => ?_, fun ho => ?_, fun ho => ?_, fun ho => ?_, fun ho => ?_, fun p ho => ?_,
    fun c ho => ?_, fun ho => ?_, fun ho => ?_, fun ho => ?_⟩
  · refine (controlWrite_mode (fun e m d => if e then d.queueEnable m else d.queueDisable m) ho (by decide +kernel)
      (by decide) (by decide) (by decide) fun _ _ => rfl).trans ?_
    cases h : bit w.toNat 0 <;> rw [show en = _ from h] <;> rfl
  · refine (controlWrite_enable (fun e d => if e then d.contextLoad else d.contextDisable) ho
      (m := 1) (by decide +kernel) (by decide) rfl (by decide) (by decide) (by decide) fun _ _ => rfl).trans ?_
    cases h : bit w.toNat 0 <;> rw [show en = _ from h] <;> rfl
  · exact controlWrite_enable Dev.qmMirrorCtl ho (m := 1) (by decide +kernel) (by decide) rfl (by decide) (by decide)
      (by decide) fun _ _ => rfl
  · exact controlWrite_enable Dev.qmAcctCtl ho (m := 1) (by decide +kernel) (by decide) rfl (by decide) (by decide)
      (by decide) fun _ _ => rfl
  · exact controlWrite_enable Dev.qmSrvCtlFair ho (m := 1) (by decide +kernel) (by decide) rfl (by decide) (by decide)
      (by decide) fun _ _ => rfl
  · refine (controlWrite_mode (fun e m d => if e then d.instanceLoad m else d.instanceUnload m) ho (by decide +kernel)
      (by decide) (by decide) (by decide) fun _ _ => rfl).trans ?_
    cases h : bit w.toNat 0 <;> rw [show en = _ from h] <;> rfl
  · have hp := p.isLt
    have at_ : R.qmPctl p = 0x10100 + p * 4 := rfl
    refine (controlWrite_mode (fun e m d => if e then d.partitionEnable p m else d.partitionDisable p m) ho
      (rwMask_qmPctl p) (by omega) ?_ ?_ fun d v => writeUnit_qmPctl d p v).trans ?_
    · rw [show R.qmDoorbell = 0x10010 from rfl]; omega
    · rw [show R.qmCqDoorbell = 0x10018 from rfl]; omega
    · cases h : bit w.toNat 0 <;> rw [show en = _ from h] <;> rfl
  · have hc := c.isLt
    have at_ : R.qmBudget c = 0x12000 + c * 8 := rfl
    refine (controlWrite_value (n := 32) (fun v d => d.qmBudget c (BitVec.ofNat 32 v)) ho (rwMask_qmBudget c)
      (by decide) (by omega) ?_ ?_ (fun d v => writeUnit_qmBudget d c v) fun d v => ?_).trans ?_
    · rw [show R.qmDoorbell = 0x10010 from rfl]; omega
    · rw [show R.qmCqDoorbell = 0x10018 from rfl]; omega
    · rw [ofNat_mod_word]
    · rw [BitVec.ofNat_toNat]; rfl
  · exact controlWrite_value (n := 8) Dev.bar2Win ho (by decide +kernel) (by decide) (by decide) (by decide) (by decide)
      (fun _ _ => rfl) bar2Win_mod
  · exact controlWrite_value (n := 6) Dev.evlogCfg ho (by decide +kernel) (by decide) (by decide) (by decide) (by decide)
      (fun _ _ => rfl) evlogCfg_mod
  · exact controlWrite_value (n := 32) Dev.evlogHead ho (by decide +kernel) (by decide) (by decide) (by decide)
      (by decide) (fun _ _ => rfl) evlogHead_mod

end Sys2Proof.Machine

namespace Sys2Proof.Machine

/-- A write of 8 bytes is what a doorbell takes (R136). -/
theorem doorbellWrites (off : Fin 268435456) (v : DWord) (s : State) :
    (off.val = R.qmDoorbell → exec (.registerWrite off v 0xFF true 728) s = exec (.qmDoorbell v true) s) ∧
    (off.val = R.qmCqDoorbell → exec (.registerWrite off v 0xFF true 728) s = exec (.qmCqDoorbell v true) s) := by
  have taken {o : Nat} (ho : off.val = o) (h8 : o % 8 = 0) : exec (.registerWrite off v 0xFF true 728) s =
      onHost (fun d => d.regWrite o v.toNat 255 true 728) s := by
    subst ho
    have hwf : (Instr.registerWrite off v 0xFF true 728).wf = true := by simp [Instr.wf, h8]
    exact (checked_of_wf hwf _).trans (if_pos rfl)
  refine ⟨fun ho => (taken ho (by decide)).trans ?_, fun ho => (taken ho (by decide)).trans ?_⟩
  · refine onHost_congr (g := Dev.qmDoorbell v true) fun _ => ?_
    rw [Dev.regWrite, if_pos (by decide), BitVec.ofNat_toNat, BitVec.setWidth_eq]; rfl
  · refine onHost_congr (g := Dev.qmCqDoorbell v true) fun _ => ?_
    rw [Dev.regWrite, if_neg (by decide), if_pos (by decide), BitVec.ofNat_toNat, BitVec.setWidth_eq]; rfl

/-! ## Bad requests, and the registers of the host port -/

/-- What is written is judged by the log alone. -/
theorem Wrote_of_log_eq {a a' b b' : Dev} {r : EventRecord} (h : Wrote a b r) (ha : a'.log = a.log)
    (hb : b'.log = b.log) : Wrote a' b' r := by
  unfold Wrote at *; rwa [ha, hb]

theorem badRequest_aborts {off : Fin 268435456} {len : Fin 4097} {s : State} (hreq : s.dev.hostReq = 0)
    (h4 : ¬ (len.val = 4 ∧ off.val % 4 = 0)) (h8 : ¬ (len.val = 8 ∧ off.val % 8 = 0)) :
    Runs (.bar0BadRequest off len) s fun t =>
      t.dev.out = s.dev.out ++ [.completion 2 false []] ∧ Counted s.dev t.dev R.hpCa ∧
      t.dev.host = { s.dev.host with caEp := s.dev.host.caEp + 1 } ∧
      (s.dev.host.caEp = 0 → Wrote s.dev t.dev (regRec s.dev 5 0x3030 8 0xFF [off, len.val, 1])) ∧
      (s.dev.host.caEp ≠ 0 → Quiet s.dev t.dev) ∧
      RegsBut [R.hpCa, R.hpEvlogLost] s.dev t.dev ∧ Only [.regs, .host, .log, .out] s t := by
  have hwf : (Instr.bar0BadRequest off len).wf = true := by
    simp only [Instr.wf, Bool.not_eq_true', Bool.or_eq_false_iff, Bool.and_eq_false_iff, decide_eq_false_iff_not]
    omega
  refine ⟨_, (checked_of_wf hwf _).trans (onHostRead_taken _ hreq), ?_⟩
  obtain ⟨d, hd⟩ : ∃ d, Dev.bump { s.dev with host := { s.dev.host with caEp := s.dev.host.caEp + 1 } } R.hpCa = d :=
    ⟨_, rfl⟩
  dsimp only
  rw [hd]
  have kd : Kept [.regs, .host] s.dev d := by
    subst hd; exact Kept_trans (Kept_mono (kept_host ..) (by decide)) (Kept_mono (kept_bump ..) (by decide))
  have cd : Counted s.dev d R.hpCa := by subst hd; exact Dev.reg_bump_self ..
  have rd : RegsBut [R.hpCa] s.dev d := by
    subst hd; intro o ho; exact Dev.reg_bump_ne _ _ (by simpa using ho)
  have host : d.host = { s.dev.host with caEp := s.dev.host.caEp + 1 } := by subst hd; rfl
  by_cases h0 : s.dev.host.caEp = 0
  · rw [if_pos (by omega)]
    have ke := kept_event_low d (cls := 5) (by decide) 0x3030 8 0xFF [off.val, len.val, s.dev.host.caEp + 1] 0xFF 0xFFFF
    have re := event_reg d 5 0x3030 8 0xFF [off.val, len.val, s.dev.host.caEp + 1] 0xFF 0xFFFF
    have we := event_wrote d 5 0x3030 8 0xFF [off.val, len.val, s.dev.host.caEp + 1] 0xFF 0xFFFF
    have now : d.time = s.dev.time := kd.same .time (by decide)
    have one : s.dev.host.caEp + 1 = 1 := by omega
    refine ⟨?_, Counted_of_regs_eq (Counted_of_regsBut cd re (by decide)) rfl, (ke.same .host (by decide)).trans host,
      fun _ => ?_, fun h => absurd h0 h, ?_, only_dev ?_⟩
    · rw [complete_out, Dev.evHost, ke.same .out (by decide), kd.same .out (by decide)]
    · rw [now, one] at we
      exact Wrote_of_log_eq we (kd.same .log (by decide)).symm (by rw [one]; rfl)
    · exact RegsBut_of_regs_eq (RegsBut_trans (RegsBut_mono rd (by simp)) (RegsBut_mono re (by simp))) rfl
    · exact Kept_trans (Kept_mono kd (by decide)) (Kept_trans (Kept_mono ke (by decide))
        (Kept_mono (kept_complete ..) (by decide)))
  · rw [if_neg (by omega)]
    refine ⟨?_, Counted_of_regs_eq cd rfl, host, fun h => absurd h h0, fun _ => kd.same .log (by decide), ?_,
      only_dev ?_⟩
    · rw [complete_out, kd.same .out (by decide)]
    · exact RegsBut_of_regs_eq (RegsBut_mono rd (by simp)) rfl
    · exact Kept_trans (Kept_mono kd (by decide)) (Kept_mono (kept_complete ..) (by decide))

theorem bar2Win_write (v : Word) {s : State} (hreq : s.dev.hostReq = 0) : Runs (.hpBar2Win v) s fun t =>
    (v.toNat % 256 ≤ 128 → t.dev.reg R.hpBar2Win = v.toNat % 256) ∧ (128 < v.toNat % 256 → t = s) ∧
    RegsBut [R.hpBar2Win] s.dev t.dev ∧ Only [.regs] s t := by
  refine ⟨_, onHost_taken (Dev.bar2Win v.toNat) hreq, ?_⟩
  unfold Dev.bar2Win
  split
  · refine ⟨fun _ => ?_, fun h => by omega, regsBut_setReg _ _ _, only_dev (kept_setReg ..)⟩
    rw [Dev.reg_setReg_self]; omega
  · exact ⟨fun h => by omega, fun _ => rfl, regsBut_of_regs _ rfl, only_dev (kept_refl ..)⟩

theorem evlogHead_write (v : Word) {s : State} (hreq : s.dev.hostReq = 0) :
    let head := s.dev.reg R.hpEvlogHead
    let room := (s.dev.reg R.hpEvlogTail + 2 ^ 32 - head) % 2 ^ 32
    Runs (.hpEvlogHead v) s fun t =>
      ((v.toNat + 2 ^ 32 - head) % 2 ^ 32 ≤ room → t.dev.reg R.hpEvlogHead = v.toNat) ∧
      (room < (v.toNat + 2 ^ 32 - head) % 2 ^ 32 → t = s) ∧
      RegsBut [R.hpEvlogHead] s.dev t.dev ∧ Only [.regs] s t := by
  intro head room
  refine ⟨_, onHost_taken (Dev.evlogHead v.toNat) hreq, ?_⟩
  simp only [Dev.evlogHead]
  split
  · rename_i h
    refine ⟨fun _ => ?_, fun h' => absurd h (Nat.not_le.2 h'), regsBut_setReg _ _ _, only_dev (kept_setReg ..)⟩
    rw [Dev.reg_setReg_self]; exact Nat.mod_eq_of_lt v.isLt
  · rename_i h
    exact ⟨fun h' => absurd h' h, fun _ => rfl, regsBut_of_regs _ rfl, only_dev (kept_refl ..)⟩

theorem fld_lt (d : Dev) (o lo n : Nat) : d.fld o lo n < 2 ^ n := Nat.mod_lt _ (by positivity)

theorem evlogCfg_write (v : Word) {s : State} (hreq : s.dev.hostReq = 0) : Runs (.hpEvlogCfg v) s fun t =>
      let size := bits v.toNat 1 5
      (bit (s.dev.reg R.hpEvlogCfg) 0 = false → bit v.toNat 0 = true → 7 ≤ size → size ≤ 16 →
        t.dev.reg R.hpEvlogCfg = 2 * size + 1 ∧ t.dev.reg R.hpEvlogTail = 0 ∧ t.dev.reg R.hpEvlogHead = 0) ∧
      (bit (s.dev.reg R.hpEvlogCfg) 0 = false → bit v.toNat 0 = true → size < 7 ∨ 16 < size → t = s) ∧
      (bit (s.dev.reg R.hpEvlogCfg) 0 = false → bit v.toNat 0 = false →
        t.dev.reg R.hpEvlogCfg = 2 * size ∧ RegsBut [R.hpEvlogCfg] s.dev t.dev) ∧
      (bit (s.dev.reg R.hpEvlogCfg) 0 = true →
        t.dev.reg R.hpEvlogCfg = 2 * s.dev.fld R.hpEvlogCfg 1 5 + v.toNat % 2 ∧ RegsBut [R.hpEvlogCfg] s.dev t.dev) ∧
      RegsBut [R.hpEvlogCfg, R.hpEvlogTail, R.hpEvlogHead] s.dev t.dev ∧ Only [.regs] s t := by
  refine ⟨_, onHost_taken (Dev.evlogCfg v.toNat) hreq, ?_⟩
  have hsize : bits v.toNat 1 5 < 2 ^ 5 := Nat.mod_lt _ (by decide)
  have single (x : Nat) : RegsBut [R.hpEvlogCfg, R.hpEvlogTail, R.hpEvlogHead] s.dev (s.dev.setReg R.hpEvlogCfg x) :=
    RegsBut_mono (regsBut_setReg _ _ _) (by simp)
  cases on : bit (s.dev.reg R.hpEvlogCfg) 0 with
  | true =>
    have hf := fld_lt s.dev R.hpEvlogCfg 1 5
    simp only [Dev.evlogCfg, on, if_true, reduceCtorEq, false_implies, true_and, true_implies]
    refine ⟨⟨?_, regsBut_setReg _ _ _⟩, single _, only_dev (kept_setReg ..)⟩
    rw [Dev.reg_setReg_self]; omega
  | false =>
    cases en : bit v.toNat 0 with
    | false =>
      simp only [Dev.evlogCfg, on, en, reduceCtorEq, if_false, false_implies, implies_true, true_and, true_implies]
      refine ⟨⟨?_, regsBut_setReg _ _ _⟩, single _, only_dev (kept_setReg ..)⟩
      rw [Dev.reg_setReg_self]; omega
    | true =>
      simp only [Dev.evlogCfg, on, en, reduceCtorEq, if_false, if_true, false_implies, implies_true, true_and,
        true_implies]
      split
      · refine ⟨fun _ _ => ⟨?_, ?_, ?_⟩, fun h => by omega, ?_, only_dev ?_⟩
        · rw [Dev.reg_setReg_ne _ _ (by decide), Dev.reg_setReg_ne _ _ (by decide), Dev.reg_setReg_self]; omega
        · rw [Dev.reg_setReg_ne _ _ (by decide), Dev.reg_setReg_self, Nat.zero_mod]
        · rw [Dev.reg_setReg_self, Nat.zero_mod]
        · exact RegsBut_trans (single _) (RegsBut_trans (RegsBut_mono (regsBut_setReg _ _ _) (by simp))
            (RegsBut_mono (regsBut_setReg _ _ _) (by simp)))
        · exact Kept_trans (kept_setReg ..) (Kept_trans (kept_setReg ..) (kept_setReg ..))
      · exact ⟨fun _ _ => by omega, fun _ => rfl, regsBut_of_regs _ rfl, only_dev (kept_refl ..)⟩

end Sys2Proof.Machine

namespace Sys2Proof
open Machine

/-- Settles O54: reads and writes by the kind of register they meet. -/
theorem registerReadsAndWrites : Obligations.RegisterReadsAndWrites := by
  unfold Obligations.RegisterReadsAndWrites
  refine ⟨fun off s hreq h4 => ⟨registerRead_returns hreq h4, registerRead_unused hreq h4, registerRead_plain hreq h4,
      registerRead_hold hreq h4, registerRead_wide hreq⟩, fun s hreq => tkTimeLoRead_captures hreq,
    fun off v be init s hi h4 hu hq hc hl => registerWrite_plain v be hi h4 hu hq hc hl, controlWrites, doorbellWrites,
    fun off len s hreq h4 h8 => badRequest_aborts hreq h4 h8,
    fun v s hreq => ⟨bar2Win_write v hreq, evlogHead_write v hreq, evlogCfg_write v hreq⟩⟩

end Sys2Proof

namespace Sys2Proof.Machine

/-! ## Links, configuration space and Bus Master Enable (R449, R450, R454, R455) -/

/-- Two records written one after the other. -/
theorem Logged_of_two {a b c : Dev} {r q : EventRecord} (h : Wrote a b r) (k : Wrote b c q) : Logged a c [r, q] := by
  obtain ⟨-, roomA, -⟩ := h
  obtain ⟨-, roomB, -⟩ := k
  intro hl
  simp only [List.length_cons, List.length_nil] at hl
  obtain ⟨bufB, lostB⟩ := roomA (by omega)
  have := congrArg List.length bufB
  simp only [List.length_append, List.length_cons, List.length_nil] at this
  obtain ⟨bufC, lostC⟩ := roomB (by omega)
  exact ⟨by rw [bufC, bufB, List.append_assoc]; rfl, lostC.trans lostB⟩

theorem Logged_of_log_eq {a b c : Dev} {rs : List EventRecord} (h : Logged a b rs) (hc : c.log = b.log) :
    Logged a c rs := by
  unfold Logged at *; rwa [hc]

/-- The slave port is a sensor port (R42). -/
theorem slavePort_ne_zero (d : Dev) : d.slavePort ≠ some 0 := by
  unfold Dev.slavePort
  split <;> simp

/-- The host link goes down: event 0x3027, and nothing of it stays up or waits. -/
theorem portDown_host (d : Dev) : d.portDown 0 =
    { d.event 5 0x3027 8 0xFF [0] with
      links := { (d.event 5 0x3027 8 0xFF [0]).links with
        up := (d.event 5 0x3027 8 0xFF [0]).links.up.filter (· ≠ 0) }
      host := { (d.event 5 0x3027 8 0xFF [0]).host with up := false, lit := false, bar2 := [] } } := by
  unfold Dev.portDown
  exact if_neg (slavePort_ne_zero _)

/-- The link is taken down by a reset of the host, and configuration space with it. -/
def Dev.linkReset (d : Dev) (why : Nat) : Dev := ((d.evHost 0 0x3032 [why]).portDown 0).cfgReset

/-- What a reset of the link leaves: both records, and the host port as it stands before training. -/
theorem linkReset_effect (d : Dev) (why : Nat) :
    (d.linkReset why).host = { d.host with up := false, lit := false, bar2 := [], cfg := [], d3 := false } ∧
    (d.linkReset why).links = { d.links with up := d.links.up.filter (· ≠ 0) } ∧
    Logged d (d.linkReset why) [regRec d 0 0x3032 8 0xFF [why], portRec d 5 0x3027 0 [0]] ∧
    RegsBut [R.hpEvlogLost] d (d.linkReset why) ∧ Kept [.host, .links, .regs, .log] d (d.linkReset why) := by
  obtain ⟨e, he⟩ : ∃ e, d.event 0 0x3032 8 0xFF [why] = e := ⟨_, rfl⟩
  obtain ⟨g, hg⟩ : ∃ g, e.event 5 0x3027 8 0xFF [0] = g := ⟨_, rfl⟩
  have ke : Kept [.regs, .log] d e := he ▸ kept_event_low d (by decide) ..
  have kg : Kept [.regs, .log] d g := Kept_trans ke (hg ▸ kept_event_low e (by decide) ..)
  have form : d.linkReset why = { g with
      links := { g.links with up := g.links.up.filter (· ≠ 0) }
      host := { g.host with up := false, lit := false, bar2 := [], cfg := [], d3 := false } } := by
    unfold Dev.linkReset Dev.evHost
    rw [he, portDown_host, hg]; rfl
  have host : g.host = d.host := kg.same .host (by decide)
  have links : g.links = d.links := kg.same .links (by decide)
  have now : e.time = d.time := ke.same .time (by decide)
  have logged : Logged d g [regRec d 0 0x3032 8 0xFF [why], portRec d 5 0x3027 0 [0]] := by
    have we := event_wrote d 0 0x3032 8 0xFF [why] 0xFF 0xFFFF
    have wg := event_wrote e 5 0x3027 8 0xFF [0] 0xFF 0xFFFF
    rw [he] at we
    rw [hg, now] at wg
    exact Logged_of_two we wg
  have regs : RegsBut [R.hpEvlogLost] d g :=
    RegsBut_trans (he ▸ event_reg d 0 0x3032 8 0xFF [why] 0xFF 0xFFFF) (hg ▸ event_reg e 5 0x3027 8 0xFF [0] 0xFF 0xFFFF)
  rw [form]
  refine ⟨by rw [host], by rw [links], Logged_of_log_eq logged rfl, RegsBut_of_regs_eq regs rfl, ?_⟩
  refine Kept_trans (Kept_mono kg (by decide)) ?_
  exact Kept_trans (Kept_mono (kept_links g { g.links with up := g.links.up.filter (· ≠ 0) }) (by decide))
    (Kept_mono (kept_host ..) (by decide))

/-- Configuration dword `i` set to a value. -/
def Dev.setCfg (d : Dev) (i : Nat) (v : Word) : Dev := { d with host := { d.host with cfg := tset cfgDef d.host.cfg i v } }

@[simp] theorem cfg_setCfg_self (d : Dev) (i : Nat) (v : Word) : (d.setCfg i v).cfg i = v.toNat := by
  simp [Dev.cfg, Dev.setCfg]

theorem cfg_setCfg_ne (d : Dev) {i j : Nat} (v : Word) (h : j ≠ i) : (d.setCfg i v).cfg j = d.cfg j := by
  simp [Dev.cfg, Dev.setCfg, h]

theorem cfg_of_host_eq {a b : Dev} (h : b.host = a.host) (i : Nat) : b.cfg i = a.cfg i := by
  unfold Dev.cfg; rw [h]

theorem cfg_lt (d : Dev) (i : Nat) : d.cfg i < 2 ^ 32 := (tget cfgDef d.host.cfg i).isLt

theorem kept_setCfg (d : Dev) (i : Nat) (v : Word) : Kept [.host] d (d.setCfg i v) := kept_host ..

theorem setCfg_owed (d : Dev) (i : Nat) (v : Word) : (d.setCfg i v).host.owed = d.host.owed := rfl

/-- Taking away a bit that is set clears it alone. -/
theorem bit_sub_two_pow {a k : Nat} (h : bit a k = true) (i : Nat) :
    bit (a - 2 ^ k) i = (bit a i && decide (k ≠ i)) := by
  have : a &&& 2 ^ k = 2 ^ k := by rw [Nat.and_two_pow, show a.testBit k = true from h]; simp
  have hs := bit_sub_and a (2 ^ k) i
  rw [this] at hs
  rw [hs]
  by_cases hi : k = i
  · simp [hi, bit]
  · simp [hi, bit, Nat.testBit_two_pow_of_ne hi]

theorem bmeOff_of_set {d : Dev} (h : bit (d.cfg 1) 2 = true) :
    d.bmeOff = (d.setCfg 1 (BitVec.ofNat 32 (d.cfg 1 - 4))).event 0 0x3032 8 0xFF [3] := if_pos h

theorem bmeOff_of_clear {d : Dev} (h : bit (d.cfg 1) 2 = false) : d.bmeOff = d :=
  if_neg (by rw [h]; exact Bool.false_ne_true)

/-- Clearing Bus Master Enable changes the host port, and writes its record where it was set. -/
theorem kept_bmeOff (d : Dev) : Kept [.host, .regs, .log] d d.bmeOff := by
  cases h : bit (d.cfg 1) 2 with
  | false => rw [bmeOff_of_clear h]; exact kept_refl ..
  | true =>
    rw [bmeOff_of_set h]
    exact Kept_trans (Kept_mono (kept_setCfg ..) (by decide)) (Kept_mono (kept_event_low _ (by decide) ..) (by decide))

theorem bmeOff_regsBut (d : Dev) : RegsBut [R.hpEvlogLost] d d.bmeOff := by
  cases h : bit (d.cfg 1) 2 with
  | false => rw [bmeOff_of_clear h]; exact regsBut_of_regs _ rfl
  | true =>
    rw [bmeOff_of_set h]
    exact RegsBut_trans (regsBut_of_regs _ rfl) (event_reg _ 0 0x3032 8 0xFF [3] 0xFF 0xFFFF)

theorem bmeOff_host {d : Dev} (h : bit (d.cfg 1) 2 = true) :
    d.bmeOff.host = (d.setCfg 1 (BitVec.ofNat 32 (d.cfg 1 - 4))).host := by
  rw [bmeOff_of_set h]
  exact (kept_event_low _ (by decide) ..).same .host (by decide)

theorem bmeOff_wrote {d : Dev} (h : bit (d.cfg 1) 2 = true) : Wrote d d.bmeOff (regRec d 0 0x3032 8 0xFF [3]) := by
  rw [bmeOff_of_set h]
  exact Wrote_of_log_eq (event_wrote (d.setCfg 1 (BitVec.ofNat 32 (d.cfg 1 - 4))) 0 0x3032 8 0xFF [3] 0xFF 0xFFFF)
    rfl rfl

theorem bmeOff_cfg_ne (d : Dev) {i : Nat} (hi : i ≠ 1) : d.bmeOff.cfg i = d.cfg i := by
  cases h : bit (d.cfg 1) 2 with
  | false => rw [bmeOff_of_clear h]
  | true => rw [cfg_of_host_eq (bmeOff_host h), cfg_setCfg_ne _ _ hi]

/-- The bits of the Command dword that clearing Bus Master Enable leaves. -/
theorem bmeOff_cfg (d : Dev) (j : Nat) : bit (d.bmeOff.cfg 1) j = (bit (d.cfg 1) j && decide (2 ≠ j)) := by
  cases h : bit (d.cfg 1) 2 with
  | false =>
    rw [bmeOff_of_clear h]
    by_cases hj : 2 = j
    · subst hj; rw [h]; rfl
    · simp [hj]
  | true =>
    have hlt := cfg_lt d 1
    rw [cfg_of_host_eq (bmeOff_host h), cfg_setCfg_self, BitVec.toNat_ofNat, Nat.mod_eq_of_lt (by omega)]
    exact bit_sub_two_pow h j

theorem bmeOff_owed (d : Dev) : d.bmeOff.host.owed = d.host.owed := by
  cases h : bit (d.cfg 1) 2 with
  | false => rw [bmeOff_of_clear h]
  | true => rw [bmeOff_host h, setCfg_owed]

theorem hotReset_effect {s : State} (hup : s.dev.host.up = true) :
    exec .hotReset s = .next { s with dev := s.dev.linkReset 1 } :=
  onDevIf_met (p := fun d => d.host.up) (fun d => d.linkReset 1) hup

theorem linkDisable_effect {s : State} (hup : s.dev.host.up = true) : exec .linkDisable s = .next
    { s with dev := { s.dev.linkReset 2 with host := { (s.dev.linkReset 2).host with held := true } } } :=
  onDevIf_met (p := fun d => d.host.up)
    (fun d => { d.linkReset 2 with host := { (d.linkReset 2).host with held := true } }) hup

theorem bmeClear_effect {s : State} (hup : s.dev.host.up = true) : Runs .bmeClear s fun t =>
    bit (t.dev.cfg 1) 2 = false ∧ (∀ i, i ≠ 1 → t.dev.cfg i = s.dev.cfg i) ∧
    (∀ j, j ≠ 2 → bit (t.dev.cfg 1) j = bit (s.dev.cfg 1) j) ∧
    (bit (s.dev.cfg 1) 2 = true → Wrote s.dev t.dev (regRec s.dev 0 0x3032 8 0xFF [3])) ∧
    (bit (s.dev.cfg 1) 2 = false → t = s) ∧
    RegsBut [R.hpEvlogLost] s.dev t.dev ∧ Only [.host, .regs, .log] s t := by
  refine ⟨_, onDevIf_met (p := fun d => d.host.up) Dev.bmeOff hup, ?_, fun i hi => bmeOff_cfg_ne _ hi, fun j hj => ?_, bmeOff_wrote,
    fun h => ?_, bmeOff_regsBut _, only_dev (kept_bmeOff _)⟩
  · rw [bmeOff_cfg]; simp
  · rw [bmeOff_cfg]; simp [Ne.symm hj]
  · rw [bmeOff_of_clear h]

end Sys2Proof.Machine

namespace Sys2Proof.Machine

/-! ## Configuration requests (R449, R450, R454) -/

theorem hostReady_of_host_eq {a b : Dev} (h : b.host = a.host) : b.hostReady = a.hostReady := by
  unfold Dev.hostReady; rw [h, cfg_of_host_eq h]

theorem kept_hostWrites (l : List (Nat × List Byte)) (d : Dev) :
    Kept [.out] d (l.foldl (fun d w => d.hostWrite w.1 w.2) d) :=
  kept_foldl (fun d w => kept_hostWrite d w.1 w.2) l d

theorem hostWrites_out (l : List (Nat × List Byte)) (d : Dev) :
    ∃ o, (l.foldl (fun d w => d.hostWrite w.1 w.2) d).out = d.out ++ o ∧ (l = [] → o = []) := by
  induction l generalizing d with
  | nil => exact ⟨[], by simp, fun _ => rfl⟩
  | cons w l ih =>
    obtain ⟨o, ho, -⟩ := ih (d.hostWrite w.1 w.2)
    refine ⟨splitWrite d.mps (w.2.length + 1) w.1 w.2 ++ o, ?_, fun h => by cases h⟩
    rw [List.foldl_cons, ho, ← List.append_assoc]
    rfl

/-- What waited for the host is sent where the link takes writes: nothing else of the port changes. -/
theorem payOwed_host (d : Dev) :
    d.payOwed.host = { d.host with owed := if d.hostReady then [] else d.host.owed } := by
  unfold Dev.payOwed
  cases h : d.hostReady with
  | false => rfl
  | true => exact (kept_hostWrites _ _).same .host (by decide)

theorem kept_payOwed (d : Dev) : Kept [.host, .out] d d.payOwed := by
  unfold Dev.payOwed
  split
  · refine Kept_trans ?_ (Kept_mono (kept_hostWrites ..) (by decide))
    exact Kept_mono (kept_host ..) (by decide)
  · exact kept_refl ..

theorem payOwed_out (d : Dev) : ∃ o, d.payOwed.out = d.out ++ o ∧ (d.host.owed = [] → o = []) := by
  unfold Dev.payOwed
  split
  · exact hostWrites_out d.host.owed _
  · exact ⟨[], by simp, fun _ => rfl⟩

theorem payOwed_cfg (d : Dev) (i : Nat) : d.payOwed.cfg i = d.cfg i := by
  unfold Dev.cfg; rw [payOwed_host]

theorem payOwed_hostReady (d : Dev) : d.payOwed.hostReady = d.hostReady := by
  unfold Dev.hostReady; rw [payOwed_cfg, payOwed_host]

theorem payOwed_owed (d : Dev) : d.payOwed.host.owed = if d.payOwed.hostReady then [] else d.host.owed := by
  rw [payOwed_hostReady, payOwed_host]

/-- The Function in D3hot, or in D0. -/
def Dev.setD3 (d : Dev) (on : Bool) : Dev := { d with host := { d.host with d3 := on } }

theorem kept_setD3 (d : Dev) (on : Bool) : Kept [.host] d (d.setD3 on) := kept_host ..

theorem cfgWrite_power (d : Dev) (v : Nat) : d.cfgWrite 0x21 v =
    if v % 4 = 0 then (d.setD3 false).payOwed else if v % 4 = 3 then d.setD3 true else d := rfl

/-- The device in which a write of configuration dword `i` has cleared Bus Master Enable, where it does. -/
def Dev.cfgBme (d : Dev) (i v : Nat) : Dev := if i = 1 ∧ bit v 2 = false then d.bmeOff else d

/-- The value a write leaves in configuration dword `i`. -/
def Dev.cfgNew (d : Dev) (i v : Nat) : Nat :=
  (v &&& cfgMask i) + ((d.cfg i &&& cfgClear i) - (d.cfg i &&& cfgClear i &&& v))

theorem cfgWrite_dword {i : Nat} (hi : i ≠ 0x21) (d : Dev) (v : Nat) :
    d.cfgWrite i v = ((d.cfgBme i v).setCfg i (BitVec.ofNat 32 ((d.cfgBme i v).cfgNew i v))).payOwed := by
  unfold Dev.cfgWrite
  rw [if_neg hi]
  rfl

/-- No bit of configuration space is both written and cleared by a write of 1, and all lie in 32 bits. -/
theorem cfgMask_cfgClear (i : Nat) :
    cfgMask i &&& cfgClear i = 0 ∧ cfgMask i < 2 ^ 32 ∧ cfgClear i < 2 ^ 32 := by
  unfold cfgMask cfgClear
  split <;> split <;> simp_all

/-- The bits of a configuration dword that a write leaves (R450). -/
theorem bit_cfgNew (d : Dev) (i v j : Nat) : bit (d.cfgNew i v) j =
    (if bit (cfgMask i) j then bit v j else bit (cfgClear i) j && bit (d.cfg i) j && !bit v j) := by
  obtain ⟨hap, -, -⟩ := cfgMask_cfgClear i
  have apart : ∀ k, (bit (cfgMask i) k && bit (cfgClear i) k) = false := fun k => by
    rw [← bit_and, hap]; exact Nat.zero_testBit k
  have hj := apart j
  unfold Dev.cfgNew
  rw [bit_add_of_apart]
  · rw [bit_and, bit_sub_and, bit_and]
    cases hm : bit (cfgMask i) j with
    | true => rw [hm, Bool.true_and] at hj; simp [hj]
    | false => simp [Bool.and_comm]
  · intro k
    have hk := apart k
    rw [bit_and, bit_sub_and, bit_and]
    cases hm : bit (cfgMask i) k with
    | true => rw [hm, Bool.true_and] at hk; simp [hk]
    | false => simp

theorem cfgNew_lt (d : Dev) (i v : Nat) : d.cfgNew i v < 2 ^ 32 := by
  obtain ⟨-, hm, hc⟩ := cfgMask_cfgClear i
  refine Nat.lt_pow_two_of_testBit _ fun j hj => ?_
  have hi : ∀ {x}, x < 2 ^ 32 → bit x j = false := fun hx =>
    Nat.testBit_lt_two_pow (lt_of_lt_of_le hx (Nat.pow_le_pow_right (by decide) hj))
  have := bit_cfgNew d i v j
  rw [hi hm, hi hc] at this
  exact this

/-- Clearing Bus Master Enable on the way takes nothing that the write of the Command dword does not. -/
theorem cfgBme_effect (d : Dev) (i v : Nat) :
    Kept [.host, .regs, .log] d (d.cfgBme i v) ∧ (d.cfgBme i v).host.owed = d.host.owed ∧
    (∀ k, k ≠ i → (d.cfgBme i v).cfg k = d.cfg k) ∧ (d.cfgBme i v).cfgNew i v = d.cfgNew i v ∧
    (i = 1 → bit (d.cfg 1) 2 = true → bit v 2 = false → Wrote d (d.cfgBme i v) (regRec d 0 0x3032 8 0xFF [3])) ∧
    (¬ (i = 1 ∧ bit (d.cfg 1) 2 = true ∧ bit v 2 = false) → d.cfgBme i v = d) := by
  unfold Dev.cfgBme
  split
  · rename_i h
    obtain ⟨rfl, hv⟩ := h
    refine ⟨kept_bmeOff d, bmeOff_owed d, fun k hk => bmeOff_cfg_ne d hk, ?_, fun _ hb _ => bmeOff_wrote hb,
      fun h => ?_⟩
    · simp [Dev.cfgNew, cfgClear]
    · exact bmeOff_of_clear (by cases hb : bit (d.cfg 1) 2 <;> simp_all)
  · rename_i h
    exact ⟨kept_refl .., rfl, fun _ _ => rfl, rfl, fun hi _ hv => absurd ⟨hi, hv⟩ h, fun _ => rfl⟩

/-- What a write of a configuration dword other than the power-management register leaves. -/
theorem cfgWrite_dword_effect {i : Nat} (hi : i ≠ 0x21) (d : Dev) (v : Nat) :
    (∃ o, (d.cfgWrite i v).out = d.out ++ o ∧ (d.host.owed = [] → o = [])) ∧
    (d.cfgWrite i v).host.owed = (if (d.cfgWrite i v).hostReady then [] else d.host.owed) ∧
    (∀ k, k ≠ i → (d.cfgWrite i v).cfg k = d.cfg k) ∧ (d.cfgWrite i v).cfg i = d.cfgNew i v ∧
    (i = 1 → bit (d.cfg 1) 2 = true → bit v 2 = false →
      Wrote d (d.cfgWrite i v) (regRec d 0 0x3032 8 0xFF [3])) ∧
    (¬ (i = 1 ∧ bit (d.cfg 1) 2 = true ∧ bit v 2 = false) →
      Quiet d (d.cfgWrite i v) ∧ (d.cfgWrite i v).regs = d.regs) ∧
    Kept [.host, .regs, .log, .out] d (d.cfgWrite i v) := by
  obtain ⟨hk, howed, hcfg, hnew, hwrote, hsame⟩ := cfgBme_effect d i v
  have form := cfgWrite_dword hi d v
  rw [hnew] at form
  rw [form]
  obtain ⟨e, he⟩ : ∃ e, (d.cfgBme i v).setCfg i (BitVec.ofNat 32 (d.cfgNew i v)) = e := ⟨_, rfl⟩
  have ke : Kept [.host] (d.cfgBme i v) e := he ▸ kept_setCfg ..
  have kp := kept_payOwed e
  have out : e.out = d.out := (ke.same .out (by decide)).trans (hk.same .out (by decide))
  have owed : e.host.owed = d.host.owed := by rw [← he, setCfg_owed, howed]
  rw [he]
  refine ⟨?_, ?_, fun k h => ?_, ?_, fun h1 hb hv => ?_, fun h => ?_, ?_⟩
  · rw [← out, ← owed]; exact payOwed_out e
  · rw [← owed]; exact payOwed_owed e
  · rw [payOwed_cfg, ← he, cfg_setCfg_ne _ _ h, hcfg k h]
  · rw [payOwed_cfg, ← he, cfg_setCfg_self, BitVec.toNat_ofNat, Nat.mod_eq_of_lt (cfgNew_lt ..)]
  · exact Wrote_of_log_eq (hwrote h1 hb hv) rfl ((kp.same .log (by decide)).trans (ke.same .log (by decide)))
  · rw [hsame h] at ke
    exact ⟨(kp.same .log (by decide)).trans (ke.same .log (by decide)),
      (kp.same .regs (by decide)).trans (ke.same .regs (by decide))⟩
  · exact Kept_trans (Kept_mono hk (by decide)) (Kept_trans (Kept_mono ke (by decide)) (Kept_mono kp (by decide)))

/-- What a write of the power-management register leaves (R454). -/
theorem cfgWrite_power_effect (d : Dev) (v : Nat) :
    (∃ o, (d.cfgWrite 0x21 v).out = d.out ++ o ∧ (d.host.owed = [] → o = [])) ∧
    (v % 4 = 3 → (d.cfgWrite 0x21 v).host = { d.host with d3 := true }) ∧
    (v % 4 = 0 → (d.cfgWrite 0x21 v).host =
      { d.host with d3 := false, owed := if (d.cfgWrite 0x21 v).hostReady then [] else d.host.owed }) ∧
    (v % 4 = 1 ∨ v % 4 = 2 → (d.cfgWrite 0x21 v).host = d.host) ∧
    Kept [.host, .out] d (d.cfgWrite 0x21 v) := by
  rw [cfgWrite_power]
  split
  · rename_i h0
    refine ⟨payOwed_out (d.setD3 false), fun h => by omega, fun _ => ?_, fun h => by omega, ?_⟩
    · rw [payOwed_hostReady, payOwed_host]; rfl
    · exact Kept_trans (Kept_mono (kept_setD3 ..) (by decide)) (kept_payOwed _)
  · split
    · rename_i h3
      exact ⟨⟨[], by simp [Dev.setD3], fun _ => rfl⟩, fun _ => rfl, fun h => by omega, fun h => by omega,
        Kept_mono (kept_setD3 ..) (by decide)⟩
    · rename_i h3
      exact ⟨⟨[], by simp, fun _ => rfl⟩, fun h => absurd h h3, fun h => by omega, fun _ => rfl, kept_refl ..⟩

/-- A configuration read completes with the dword (R449). -/
theorem configRead_effect (off : Fin 4096) (v : Word) {s : State} (hup : s.dev.host.up = true) :
    Runs (.configRequest false off v) s fun t =>
      t.dev.out = s.dev.out ++ [.completion 0 false (toLE 4 (s.dev.cfgRead (off.val / 4)))] ∧
      (off.val / 4 = 0 → s.dev.cfgRead (off.val / 4) = 0x08801F47) ∧ Only [.out] s t := by
  refine ⟨_, onDevIf_met (p := fun d => d.host.up)
    (fun d => d.complete 0 (toLE 4 (d.cfgRead (off.val / 4)))) hup, rfl, fun h0 => ?_, only_dev (kept_complete ..)⟩
  rw [h0]
  simp [Dev.cfgRead, cfgMask, cfgClear, cfgFixed]

/-- A configuration write that is completed. -/
theorem exec_configWrite (off : Fin 4096) (v : Word) {s : State} (hup : s.dev.host.up = true) :
    exec (.configRequest true off v) s = .next
      { s with dev := (s.dev.cfgWrite (off.val / 4) v.toNat).complete 0 } :=
  onDevIf_met (p := fun d => d.host.up) (fun d => (d.cfgWrite (off.val / 4) v.toNat).complete 0) hup

theorem configWrite_effect (off : Fin 4096) (v : Word) {s : State} (hup : s.dev.host.up = true) :
    let i := off.val / 4
    Runs (.configRequest true off v) s fun t =>
        (∃ l, t.dev.out = s.dev.out ++ l ++ [.completion 0 false []] ∧ (s.dev.host.owed = [] → l = [])) ∧
        (i = 0x21 → v.toNat % 4 = 3 → t.dev.host = { s.dev.host with d3 := true }) ∧
        (i = 0x21 → v.toNat % 4 = 0 → { t.dev.host with owed := [] } = { s.dev.host with d3 := false, owed := [] }) ∧
        (i = 0x21 → v.toNat % 4 = 1 ∨ v.toNat % 4 = 2 → t.dev.host = s.dev.host) ∧
        (i ≠ 0x21 ∨ v.toNat % 4 = 0 →
          t.dev.host.owed = if t.dev.hostReady then [] else s.dev.host.owed) ∧
        (i ≠ 0x21 → (∀ k, k ≠ i → t.dev.cfg k = s.dev.cfg k) ∧ ∀ j,
          bit (t.dev.cfg i) j = (if bit (cfgMask i) j then bit v.toNat j
            else bit (cfgClear i) j && bit (s.dev.cfg i) j && !bit v.toNat j)) ∧
        (i = 1 → bit (s.dev.cfg 1) 2 = true → bit v.toNat 2 = false →
          Wrote s.dev t.dev (regRec s.dev 0 0x3032 8 0xFF [3])) ∧
        (¬ (i = 1 ∧ bit (s.dev.cfg 1) 2 = true ∧ bit v.toNat 2 = false) →
          Quiet s.dev t.dev ∧ t.dev.regs = s.dev.regs) ∧
        Only [.host, .regs, .log, .out] s t := by
  intro i
  refine ⟨_, exec_configWrite off v hup, ?_⟩
  dsimp only
  by_cases hi : i = 0x21
  · obtain ⟨⟨o, ho, hnil⟩, h3, h0, h12, hk⟩ := cfgWrite_power_effect s.dev v.toNat
    rw [show off.val / 4 = 0x21 from hi]
    refine ⟨⟨o, by rw [complete_out, ho], hnil⟩, fun _ => h3, fun _ h => ?_, fun _ => h12, fun h => ?_,
      fun h => absurd hi h, fun h => by omega, fun _ => ?_, only_dev ?_⟩
    · have := h0 h
      exact congrArg (fun x : HostPort => { x with owed := [] }) this
    · have := h0 (h.resolve_left fun h => h hi)
      exact congrArg HostPort.owed this
    · exact ⟨hk.same .log (by decide), hk.same .regs (by decide)⟩
    · exact Kept_trans (Kept_mono hk (by decide)) (Kept_mono (kept_complete ..) (by decide))
  · obtain ⟨⟨o, ho, hnil⟩, howed, hne, hself, hwrote, hquiet, hk⟩ := cfgWrite_dword_effect hi s.dev v.toNat
    refine ⟨⟨o, by rw [complete_out, ho], hnil⟩, fun h => absurd h hi, fun h => absurd h hi, fun h => absurd h hi,
      fun _ => howed, fun _ => ⟨hne, fun j => ?_⟩, hwrote, hquiet, only_dev ?_⟩
    · have := bit_cfgNew s.dev i v.toNat j
      rw [← hself] at this
      exact this
    · exact Kept_trans hk (Kept_mono (kept_complete ..) (by decide))

end Sys2Proof.Machine

namespace Sys2Proof.Machine

/-! ## The link going down -/

/-- The link taken down for a reason leaves it so, with both records (R449, R454, R455). -/
theorem linkReset_off {s : State} {d : Dev} (why : Nat) (host : d.host = { (s.dev.linkReset why).host with held := d.host.held })
    (hk : Kept [.host] (s.dev.linkReset why) d) :
    d.host.up = false ∧ d.host.lit = false ∧ d.host.cfg = [] ∧ d.host.d3 = false ∧
    d.links.up = s.dev.links.up.filter (· ≠ 0) ∧
    Logged s.dev d [regRec s.dev 0 0x3032 8 0xFF [why], portRec s.dev 5 0x3027 0 [0]] ∧
    RegsBut [R.hpEvlogLost] s.dev d ∧ Only [.host, .links, .regs, .log] s { s with dev := d } := by
  obtain ⟨hhost, hlinks, hlog, hregs, hkept⟩ := linkReset_effect s.dev why
  have links : d.links = (s.dev.linkReset why).links := hk.same .links (by decide)
  rw [host, hhost, links, hlinks]
  exact ⟨rfl, rfl, rfl, rfl, rfl, Logged_of_log_eq hlog (hk.same .log (by decide)),
    RegsBut_of_regs_eq hregs (hk.same .regs (by decide)), only_dev (Kept_trans hkept (Kept_mono hk (by decide)))⟩

/-- While the link is down no command of the link does anything. -/
theorem linkCommand_of_down {s : State} (h : s.dev.host.up = false) :
    ∀ c ∈ [Instr.hotReset, .linkDisable, .bmeClear], Runs c s fun t => t = s := by
  have stays : ∀ {c} (f : Dev → Dev), exec c s = onDevIf (fun d => d.host.up) f s → Runs c s fun t => t = s :=
    fun _ hc => ⟨_, hc.trans (onDevIf_unmet (p := fun d => d.host.up) _ h), rfl⟩
  intro c hc
  simp only [List.mem_cons, List.not_mem_nil, or_false] at hc
  rcases hc with rfl | rfl | rfl
  · exact stays (fun d => d.linkReset 1) rfl
  · exact stays (fun d => { d.linkReset 2 with host := { (d.linkReset 2).host with held := true } }) rfl
  · exact stays Dev.bmeOff rfl

/-! ## Refused accesses -/

/-- A refused access is counted, and its initiator, partition and target are kept (R181). -/
def Dev.noteDeny (d : Dev) (init part tgt : Nat) : Dev :=
  (d.bump R.secFwDeny).setReg R.secFwLast (init % 1024 + part % 64 * 1024 + tgt % 8 * 65536)

/-- A refused access is noted and writes one event record, below class 4 (R26, R181). -/
theorem deny_event (d : Dev) (init part tgt : Nat) (r26 : Bool) (a : Nat) :
    ∃ code rg bl dt p, d.deny init part tgt r26 a = (d.noteDeny init part tgt).event 2 code rg bl dt p := by
  unfold Dev.deny
  dsimp only
  split
  · exact ⟨_, _, _, _, _, rfl⟩
  · split
    · exact ⟨_, _, _, _, _, rfl⟩
    · exact ⟨_, _, _, _, _, rfl⟩

theorem regsBut_noteDeny (d : Dev) (init part tgt : Nat) :
    RegsBut [R.secFwDeny, R.secFwLast] d (d.noteDeny init part tgt) :=
  RegsBut_trans (RegsBut_mono (regsBut_bump d R.secFwDeny 1) (by simp))
    (RegsBut_mono (regsBut_setReg (d.bump R.secFwDeny) R.secFwLast _) (by simp))

theorem counted_noteDeny (d : Dev) (init part tgt : Nat) : Counted d (d.noteDeny init part tgt) R.secFwDeny :=
  Counted_of_regsBut (counted_bump d R.secFwDeny) (regsBut_setReg (d.bump R.secFwDeny) R.secFwLast _) (by decide)

/-- What a refused access leaves (R181). -/
theorem deny_effect (d : Dev) (init part tgt : Nat) (r26 : Bool) (a : Nat) :
    Counted d (d.deny init part tgt r26 a) R.secFwDeny ∧
    (d.deny init part tgt r26 a).log.total = d.log.total + 1 ∧
    RegsBut [R.secFwDeny, R.secFwLast, R.hpEvlogLost] d (d.deny init part tgt r26 a) := by
  obtain ⟨code, rg, bl, dt, p, h⟩ := deny_event d init part tgt r26 a
  have hreg := event_reg (d.noteDeny init part tgt) 2 code rg bl dt p 0xFFFF
  obtain ⟨total, -, -⟩ := event_wrote (d.noteDeny init part tgt) 2 code rg bl dt p 0xFFFF
  rw [h]
  refine ⟨Counted_of_regsBut (counted_noteDeny d init part tgt) hreg (by decide), total, ?_⟩
  exact RegsBut_trans (RegsBut_mono (regsBut_noteDeny d init part tgt) (by simp)) (RegsBut_mono hreg (by simp))

/-! ## BAR2 (R452, R457, R461) -/

theorem exec_bar2Read {len : Fin 4097} (off : Fin 68719476736) {s : State} (hreq : s.dev.hostReq = 0)
    (hlen : 1 ≤ len.val) :
    exec (.bar2Read off len) s = .next { s with dev := s.dev.bar2Arrive ⟨off, len, none⟩ } :=
  (checked_of_wf (ok := (Instr.bar2Read off len).wf) (by simp [Instr.wf, hlen]) _).trans
    (onHostRead_taken (fun d _ => d.bar2Arrive ⟨off, len, none⟩) hreq)

theorem exec_bar2Write {data : List Byte} (off : Fin 68719476736) (ep : Bool) {s : State} (hreq : s.dev.hostReq = 0)
    (hmin : 1 ≤ data.length) (hmax : data.length ≤ 512) :
    exec (.bar2Write off data ep) s = .next { s with dev := s.dev.bar2Arrive ⟨off, data.length, some (data, ep)⟩ } :=
  (checked_of_wf (ok := (Instr.bar2Write off data ep).wf) (by simp [Instr.wf, hmin, hmax]) _).trans
    (onHost_taken (fun d => d.bar2Arrive ⟨off, data.length, some (data, ep)⟩) hreq)

theorem bar2Arrive_waits {d : Dev} {r : Bar2Req} (h : d.host.bar2 ≠ [] ∨ d.bar2Waits r = true) :
    d.bar2Arrive r = { d with host := { d.host with bar2 := d.host.bar2 ++ [r] } } := if_pos h

theorem bar2Arrive_goes {d : Dev} {r : Bar2Req} (h0 : d.host.bar2 = []) (h : d.bar2Waits r = false) :
    d.bar2Arrive r = d.bar2Do r := if_neg (by simp [h0, h])

/-- A BAR2 access that waits changes the host port alone (R176). -/
theorem bar2_waits {c : Instr} {r : Bar2Req} {s : State}
    (hc : exec c s = .next { s with dev := s.dev.bar2Arrive r })
    (h : s.dev.host.bar2 ≠ [] ∨ s.dev.bar2Waits r = true) :
    Runs c s fun t => t.dev.host = { s.dev.host with bar2 := s.dev.host.bar2 ++ [r] } ∧ Only [.host] s t := by
  refine ⟨_, hc, ?_⟩
  rw [bar2Arrive_waits h]
  exact ⟨rfl, only_dev (kept_host ..)⟩

/-- A read of the window that is taken: its bytes, with EP where a granule is poisoned. -/
def Dev.windowRead (d : Dev) (a n : Nat) : Dev :=
  let w := if d.anyPoison a n then d.bump R.hpEpOut else d
  w.complete 0 (w.rdBytes a n) (d.anyPoison a n)

/-- A write to the window that is taken. -/
def Dev.windowWrite (d : Dev) (a : Nat) (data : List Byte) (ep : Bool) : Dev :=
  let w := d.storeAs d.hostPart a data ep
  if ep then ((w.bump R.hpEpIn).aerAdvisory).evHost 5 0x3033 [a / 64, data.length] else w

/- The kernel must not evaluate `bar2Refuse` on an address of the window, a product with 2^30: the two lemmas that
open `bar2Get` and `bar2Put` therefore put a variable in its place first. -/

theorem bar2Get_eq (d : Dev) (off n : Nat) : d.bar2Get off n =
    (d.bar2Refuse (d.bar2Addr off) n false).elim
      ((d.keyGone (d.bar2Addr off) n).elim (d.windowRead (d.bar2Addr off) n)
        fun g => ((d.keyEvent 728 d.hostPart g).bump R.hpCa).complete 2)
      fun x => ((d.deny 728 d.hostPart x.1 x.2 (d.bar2Addr off)).bump R.hpCa).complete 2 := by
  suffices body : ∀ f, f = @Dev.bar2Get → f d off n = _ from body _ rfl
  intro f hf
  delta Dev.bar2Get at hf
  obtain ⟨refuse, hr⟩ : ∃ r, r = @Dev.bar2Refuse := ⟨_, rfl⟩
  obtain ⟨gone, hg⟩ : ∃ r, r = @Dev.keyGone := ⟨_, rfl⟩
  rw [← hr, ← hg] at hf ⊢
  subst hf
  cases h : refuse d (d.bar2Addr off) n false with
  | some x => simp only [h, Option.elim]
  | none =>
    cases hk : gone d (d.bar2Addr off) n with
    | some g => simp only [h, hk, Option.elim]
    | none => simp only [h, hk, Option.elim, Dev.windowRead]

theorem bar2Put_eq (d : Dev) (off : Nat) (data : List Byte) (ep : Bool) : d.bar2Put off data ep =
    (d.bar2Refuse (d.bar2Addr off) data.length true).elim (d.windowWrite (d.bar2Addr off) data ep)
      fun x => d.deny 728 d.hostPart x.1 x.2 (d.bar2Addr off) := by
  suffices body : ∀ f, f = @Dev.bar2Put → f d off data ep = _ from body _ rfl
  intro f hf
  delta Dev.bar2Put at hf
  obtain ⟨refuse, hr⟩ : ∃ r, r = @Dev.bar2Refuse := ⟨_, rfl⟩
  rw [← hr] at hf ⊢
  subst hf
  cases h : refuse d (d.bar2Addr off) data.length true with
  | some x => simp only [h, Option.elim]
  | none => simp only [h, Option.elim, Dev.windowWrite]

/-- A read of the window is answered with its bytes, and with EP where a granule is poisoned. -/
theorem windowRead_effect (s : State) (a n : Nat) :
    let d := s.dev.windowRead a n
    d.out = s.dev.out ++ [.completion 0 (s.dev.anyPoison a n) (s.dev.rdBytes a n)] ∧
    (s.dev.anyPoison a n = true → Counted s.dev d R.hpEpOut) ∧
    (s.dev.anyPoison a n = false → d.regs = s.dev.regs) ∧
    RegsBut [R.hpEpOut] s.dev d ∧ Only [.regs, .out] s { s with dev := d } := by
  dsimp only
  unfold Dev.windowRead
  cases hp : s.dev.anyPoison a n with
  | true =>
    refine ⟨rfl, fun _ => Counted_of_regs_eq (counted_bump s.dev R.hpEpOut) rfl, (by simp),
      RegsBut_of_regs_eq (regsBut_bump s.dev R.hpEpOut 1) rfl, only_dev ?_⟩
    exact Kept_trans (Kept_mono (kept_bump ..) (by decide)) (Kept_mono (kept_complete ..) (by decide))
  | false =>
    exact ⟨rfl, (by simp), fun _ => rfl, regsBut_of_regs _ rfl, only_dev (Kept_mono (kept_complete ..) (by decide))⟩

/-- What happened to a read before it is completed as Completer Abort shows beside the count. -/
theorem aborted_effect {s : State} {e : Dev} {offs : List Nat} (re : RegsBut offs s.dev e)
    (ke : Kept [.regs, .log] s.dev e) (ho : R.hpCa ∉ offs) :
    let d := (e.bump R.hpCa).complete 2
    d.out = s.dev.out ++ [.completion 2 false []] ∧ Counted s.dev d R.hpCa ∧ d.log = e.log ∧
    RegsBut [R.hpCa] e d ∧ RegsBut (R.hpCa :: offs) s.dev d ∧ Only [.regs, .log, .out] s { s with dev := d } := by
  have out : e.out = s.dev.out := ke.same .out (by decide)
  have counted : Counted s.dev (e.bump R.hpCa) R.hpCa := by
    have := counted_bump e R.hpCa
    unfold Counted at *; rwa [re _ ho] at this
  have regs : RegsBut (R.hpCa :: offs) s.dev (e.bump R.hpCa) :=
    RegsBut_trans (RegsBut_mono re fun _ h => List.mem_cons_of_mem _ h)
      (RegsBut_mono (regsBut_bump e R.hpCa 1) (by simp))
  refine ⟨by rw [complete_out, Dev.bump_out, out], Counted_of_regs_eq counted rfl, rfl,
    RegsBut_of_regs_eq (regsBut_bump e R.hpCa 1) rfl, RegsBut_of_regs_eq regs rfl, only_dev ?_⟩
  exact Kept_trans (Kept_mono ke (by decide)) (Kept_trans (Kept_mono (kept_bump ..) (by decide))
    (Kept_mono (kept_complete ..) (by decide)))

/-- A read under an erased key completes as Completer Abort, with one record (R381). -/
theorem keyGoneRead_effect (s : State) (g : Nat) :
    let d := ((s.dev.keyEvent 728 s.dev.hostPart g).bump R.hpCa).complete 2
    d.out = s.dev.out ++ [.completion 2 false []] ∧ Counted s.dev d R.hpCa ∧ d.log.total = s.dev.log.total + 1 ∧
    RegsBut [R.hpCa, R.hpEvlogLost] s.dev d ∧ Only [.regs, .log, .out] s { s with dev := d } := by
  have ke : Kept [.regs, .log] s.dev (s.dev.keyEvent 728 s.dev.hostPart g) :=
    kept_event_low s.dev (cls := 2) (by decide) 0x9020 4 _ _ 0xFF 0xFFFF
  have re : RegsBut [R.hpEvlogLost] s.dev (s.dev.keyEvent 728 s.dev.hostPart g) :=
    event_reg s.dev 2 0x9020 4 _ _ 0xFF 0xFFFF
  obtain ⟨total, -, -⟩ : Wrote s.dev (s.dev.keyEvent 728 s.dev.hostPart g) _ :=
    event_wrote s.dev 2 0x9020 4 _ _ 0xFF 0xFFFF
  obtain ⟨out, ca, log, -, regs, only⟩ := aborted_effect re ke (by decide)
  exact ⟨out, ca, (congrArg EvLog.total log).trans total, regs, only⟩

/-- A refused read completes as Completer Abort, noted and with one record. -/
theorem refusedRead_effect (s : State) (tgt : Nat) (r26 : Bool) (a : Nat) :
    let d := ((s.dev.deny 728 s.dev.hostPart tgt r26 a).bump R.hpCa).complete 2
    d.out = s.dev.out ++ [.completion 2 false []] ∧ Counted s.dev d R.hpCa ∧ Counted s.dev d R.secFwDeny ∧
    d.log.total = s.dev.log.total + 1 ∧ RegsBut [R.hpCa, R.secFwDeny, R.secFwLast, R.hpEvlogLost] s.dev d ∧
    Only [.regs, .log, .out] s { s with dev := d } := by
  obtain ⟨denied, total, re⟩ := deny_effect s.dev 728 s.dev.hostPart tgt r26 a
  obtain ⟨out, ca, log, rca, regs, only⟩ := aborted_effect re (kept_deny ..) (by decide)
  exact ⟨out, ca, Counted_of_regsBut denied rca (by decide), (congrArg EvLog.total log).trans total, regs, only⟩

/-! ## Poison and the report of a poisoned write -/

theorem mem_granules_start {a n : Nat} (h : 1 ≤ n) : a / 64 ∈ granules a n := by
  unfold granules
  rw [if_neg (by omega)]
  exact List.mem_map.2 ⟨0, List.mem_range.2 (by omega), by simp⟩

theorem poison_setPoison_true (d : Dev) (g h : Nat) :
    tget (fun _ => false) (d.setPoison g true).poison h = (tget (fun _ => false) d.poison h || decide (h = g)) := by
  by_cases e : h = g
  · subst e; simp [Dev.setPoison]
  · simp [Dev.setPoison, e]

theorem poison_foldl_setPoison (l : List Nat) (d : Dev) (h : Nat) :
    tget (fun _ => false) (l.foldl (fun d g => d.setPoison g true) d).poison h =
      (tget (fun _ => false) d.poison h || decide (h ∈ l)) := by
  induction l generalizing d with
  | nil => simp
  | cons g l ih => rw [List.foldl_cons, ih, poison_setPoison_true]; simp [Bool.or_assoc]

theorem storeAs_poison (d : Dev) (p a : Nat) (bs : List Byte) (c : Bool) :
    (d.storeAs p a bs c).poison = (d.store a bs c).poison := by
  unfold Dev.storeAs; dsimp only; split <;> rfl

/-- A write that carries poison leaves its granules poisoned (R126). -/
theorem storeAs_carry_anyPoison (d : Dev) (p a : Nat) {bs : List Byte} (h : 1 ≤ bs.length) :
    (d.storeAs p a bs true).anyPoison a bs.length = true := by
  refine List.any_eq_true.2 ⟨a / 64, mem_granules_start h, ?_⟩
  have carried : d.store a bs true = (granules a bs.length).foldl (fun d g => d.setPoison g true) (d.wr a bs) := rfl
  unfold Dev.poisoned
  rw [storeAs_poison, carried, poison_foldl_setPoison,
    show granule (a / 64 * 64) = a / 64 from Nat.mul_div_cancel _ (by decide)]
  simp [mem_granules_start h]

/-- A poisoned write changes configuration space alone where it is reported (R450). -/
theorem kept_aerAdvisory (d : Dev) : Kept [.host] d d.aerAdvisory := kept_host ..

/-- Configuration dword `i` with bit `b` set. -/
def Dev.cfgSet (d : Dev) (i b : Nat) : Dev := d.setCfg i (BitVec.ofNat 32 (d.cfg i ||| 2 ^ b))

theorem aerAdvisory_eq (d : Dev) : d.aerAdvisory = (d.cfgSet 0x44 13).cfgSet 0x12 16 := rfl

theorem bit_cfgSet (d : Dev) (i : Nat) {b : Nat} (hb : b < 32) : bit ((d.cfgSet i b).cfg i) b = true := by
  rw [Dev.cfgSet, cfg_setCfg_self, BitVec.toNat_ofNat, bit_mod_two_pow]
  simp [bit, hb]

theorem aerAdvisory_bits (d : Dev) :
    bit (d.aerAdvisory.cfg 0x44) 13 = true ∧ bit (d.aerAdvisory.cfg 0x12) 16 = true := by
  rw [aerAdvisory_eq]
  refine ⟨?_, bit_cfgSet _ _ (by decide)⟩
  rw [Dev.cfgSet, cfg_setCfg_ne _ _ (by decide)]
  exact bit_cfgSet _ _ (by decide)

/-- What a write to the window leaves where it is taken. -/
theorem windowWrite_effect (s : State) (a : Nat) {data : List Byte} (ep : Bool) (hlen : 1 ≤ data.length) :
    let d := s.dev.windowWrite a data ep
    Holds d a data ∧ MemBut a data.length s.dev d ∧ d.out = s.dev.out ∧
    (ep = false → Only [.mem, .poison, .enc] s { s with dev := d }) ∧
    (ep = true → d.anyPoison a data.length = true ∧ Counted s.dev d R.hpEpIn ∧
      bit (d.cfg 0x44) 13 = true ∧ bit (d.cfg 0x12) 16 = true ∧
      Wrote s.dev d (regRec s.dev 5 0x3033 8 0xFF [a / 64, data.length]) ∧
      RegsBut [R.hpEpIn, R.hpEvlogLost] s.dev d ∧
      Only [.mem, .poison, .enc, .regs, .host, .log] s { s with dev := d }) := by
  have holds := storeAs_holds s.dev s.dev.hostPart a data ep
  have but := storeAs_memBut s.dev s.dev.hostPart a data ep
  have kst := kept_storeAs s.dev s.dev.hostPart a data ep
  cases ep with
  | false => exact ⟨holds, but, kst.same .out (by decide), fun _ => only_dev kst, (by simp)⟩
  | true =>
    have poison := storeAs_carry_anyPoison s.dev s.dev.hostPart a hlen
    have form : s.dev.windowWrite a data true =
      (((s.dev.storeAs s.dev.hostPart a data true).bump R.hpEpIn).aerAdvisory).evHost 5 0x3033
        [a / 64, data.length] := rfl
    dsimp only
    rw [form]
    generalize s.dev.storeAs s.dev.hostPart a data true = w at *
    obtain ⟨r, hr⟩ : ∃ r, (w.bump R.hpEpIn).aerAdvisory = r := ⟨_, rfl⟩
    have kr : Kept [.regs, .host] w r := Kept_trans (Kept_mono (kept_bump w R.hpEpIn 1) (by decide))
      (Kept_mono (hr ▸ kept_aerAdvisory (w.bump R.hpEpIn)) (by decide))
    have regs : r.regs = (w.bump R.hpEpIn).regs := by rw [← hr]; rfl
    have ksr : Kept [.mem, .poison, .enc, .regs, .host] s.dev r :=
      Kept_trans (Kept_mono kst (by decide)) (Kept_mono kr (by decide))
    have bits := aerAdvisory_bits (w.bump R.hpEpIn)
    rw [hr] at bits
    rw [hr]
    have ke : Kept [.regs, .log] r (r.evHost 5 0x3033 [a / 64, data.length]) := kept_event_low r (by decide) ..
    have we := event_wrote r 5 0x3033 8 0xFF [a / 64, data.length] 0xFF 0xFFFF
    have re : RegsBut [R.hpEvlogLost] r (r.evHost 5 0x3033 [a / 64, data.length]) :=
      event_reg r 5 0x3033 8 0xFF [a / 64, data.length] 0xFF 0xFFFF
    rw [show r.time = s.dev.time from ksr.same .time (by decide)] at we
    generalize hv : r.evHost 5 0x3033 [a / 64, data.length] = v at *
    have we : Wrote r v (regRec s.dev 5 0x3033 8 0xFF [a / 64, data.length]) := hv ▸ we
    have kwv : Kept [.regs, .host, .log] w v := Kept_trans (Kept_mono kr (by decide)) (Kept_mono ke (by decide))
    have mem : v.mem = w.mem := kwv.same .mem (by decide)
    have pois : v.poison = w.poison := kwv.same .poison (by decide)
    have host : v.host = r.host := ke.same .host (by decide)
    have wregs : w.regs = s.dev.regs := kst.same .regs (by decide)
    have rd : ∀ x, v.rd x = w.rd x := fun x => by unfold Dev.rd; rw [mem]
    refine ⟨fun i hi => (rd _).trans (holds i hi), fun x hx => (rd x).trans (but x hx), ?_, (by simp), fun _ =>
      ⟨?_, ?_, ?_, ?_, ?_, ?_, only_dev ?_⟩⟩
    · exact (kwv.same .out (by decide)).trans (kst.same .out (by decide))
    · unfold Dev.anyPoison Dev.poisoned at *; rw [pois]; exact poison
    · have c : Counted w r R.hpEpIn := Counted_of_regs_eq (counted_bump w R.hpEpIn) regs
      have := Counted_of_regsBut c re (by decide)
      unfold Counted Dev.reg at *; rwa [wregs] at this
    · rw [cfg_of_host_eq host]; exact bits.1
    · rw [cfg_of_host_eq host]; exact bits.2
    · exact Wrote_of_log_eq we (ksr.same .log (by decide)).symm rfl
    · refine RegsBut_trans (regsBut_of_regs _ wregs) (RegsBut_trans ?_ (RegsBut_mono re (by simp)))
      exact RegsBut_mono (RegsBut_of_regs_eq (regsBut_bump w R.hpEpIn 1) regs) (by simp)
    · exact Kept_trans (Kept_mono ksr (by decide)) (Kept_mono ke (by decide))

end Sys2Proof.Machine

namespace Sys2Proof.Machine

/-! ## Event records: into the retention buffer (R10, R457) -/

theorem isl_modIsl_self (d : Dev) (i : Isl) (f : Island → Island) : (d.modIsl i f).isl i = f (d.isl i) := by
  cases i <;> rfl

theorem isl_modIsl_ne (d : Dev) {i j : Isl} (f : Island → Island) (h : j ≠ i) : (d.modIsl i f).isl j = d.isl j := by
  cases i with
  | a =>
    cases j with
    | a => exact absurd rfl h
    | b => rfl
  | b =>
    cases j with
    | a => rfl
    | b => exact absurd rfl h

/-- What makes islands request the safe state takes no request back. -/
theorem mem_req_askSafe {d : Dev} {i : Isl} {c x : Nat} (j : Isl) (h : x ∈ (d.isl i).req) :
    x ∈ ((d.askSafe j c).isl i).req := by
  unfold Dev.askSafe
  by_cases hij : i = j
  · subst hij
    rw [isl_modIsl_self]
    split
    · exact h
    · exact List.mem_append_left _ h
  · rwa [isl_modIsl_ne _ _ hij]

/-- An island that runs its firmware has requested the safe state (R321). -/
theorem req_askSafe {d : Dev} {i : Isl} {c : Nat} (hl : (d.isl i).loaded = true) (hs : (d.isl i).state ≠ .halted) :
    c ∈ ((d.askSafe i c).isl i).req := by
  unfold Dev.askSafe
  rw [isl_modIsl_self]
  split
  · rename_i h
    rcases h with h | h | h
    · rw [hl] at h; cases h
    · exact absurd h hs
    · exact h
  · exact List.mem_append_right _ (List.mem_singleton_self c)

/-- Both islands that run their firmware have. -/
theorem req_safeReq {d : Dev} {i : Isl} {c : Nat} (hl : (d.isl i).loaded = true) (hs : (d.isl i).state ≠ .halted) :
    c ∈ ((d.safeReq c).isl i).req := by
  unfold Dev.safeReq
  cases i with
  | a => exact mem_req_askSafe .b (req_askSafe hl hs)
  | b =>
    have other : (d.askSafe .a c).isl .b = d.isl .b := isl_modIsl_ne _ _ (by decide)
    exact req_askSafe (by rw [other]; exact hl) (by rw [other]; exact hs)

theorem logRec_isl (d : Dev) (r : EventRecord) (i : Isl) : (d.logRec r).isl i = d.isl i := by
  cases i with
  | a => exact (kept_logRec d r).same .chA (by decide)
  | b => exact (kept_logRec d r).same .chB (by decide)

/-- A record of class 4 on the event feed has the islands request the safe state with its cause (R308, R321). -/
theorem req_event {d : Dev} {code rg : Nat} (bl : Nat) (dt : List Nat) (p c : Nat) (h6 : rg ≠ 6) (h7 : rg ≠ 7)
    (hc : code ≠ 0x4010) {i : Isl} (hl : (d.isl i).loaded = true) (hs : (d.isl i).state ≠ .halted) :
    feedCause code ∈ ((d.event 4 code rg bl dt p c).isl i).req := by
  have feed : onFeed rg = true := by simp [onFeed, h6, h7]
  have form : d.event 4 code rg bl dt p c =
      (d.logRec ⟨d.time.now, rg, bl, 4, code, p, c, dt⟩).safeReq (feedCause code) := if_pos ⟨rfl, feed, hc⟩
  rw [form]
  exact req_safeReq (by rw [logRec_isl]; exact hl) (by rw [logRec_isl]; exact hs)

theorem eventRecordWrite_records {code cls region block part ctx : Nat} {detail : List Nat} {s : State}
    (hph : s.dev.chip.phase ≠ .modReset)
    (hwf : (Instr.eventRecordWrite code cls region block part ctx detail).wf = true) :
    Runs (.eventRecordWrite code cls region block part ctx detail) s fun t =>
      Wrote s.dev t.dev ⟨s.dev.time.now, region, block, cls, code, part, ctx, detail⟩ ∧
      (cls = 4 → region ≠ 6 → region ≠ 7 → code ≠ 0x4010 → ∀ i : Isl, (s.dev.isl i).loaded = true →
        (s.dev.isl i).state ≠ .halted → feedCause code ∈ (t.dev.isl i).req) ∧
      (cls ≠ 4 → Only [.regs, .log] s t) ∧
      RegsBut [R.hpEvlogLost] s.dev t.dev ∧ Only [.regs, .log, .chA, .chB] s t := by
  refine ⟨_, (checked_of_wf hwf _).trans (onDevIf_met (p := fun d => d.chip.phase != .modReset)
    (fun d => d.event cls code region block detail part ctx) (by simp [hph])), event_wrote .., ?_, fun h =>
    only_dev (kept_event_low _ h ..), event_reg _ cls code region block detail part ctx, only_dev (Kept_mono (kept_event ..) (by decide))⟩
  rintro rfl h6 h7 hc i hl hs
  exact req_event block detail part ctx h6 h7 hc hl hs

/-! ## Event records: to the ring in host memory (R457) -/

@[simp] theorem EventRecord.bytes_length (r : EventRecord) : r.bytes.length = 32 := by
  have detail : r.detailBytes.length = 16 := by
    unfold EventRecord.detailBytes
    split <;> simp [toLE_length]
  simp [EventRecord.bytes, toLE_length, detail]

theorem mps_ge (d : Dev) : 128 ≤ d.mps := by
  have := Nat.one_le_two_pow (n := bits (d.cfg 0x12) 5 3)
  unfold Dev.mps
  omega

/-- A write that stays in one 4 KiB range and is not above 128 bytes is one request (R453). -/
theorem hostWrite_out_of_short (d : Dev) {a : Nat} {bs : List Byte} (hbs : bs ≠ []) (hmax : bs.length ≤ 128)
    (ha : a % 4096 + bs.length ≤ 4096) : (d.hostWrite a bs).out = d.out ++ [.hostWrite a bs] := by
  have fits : bs.length ≤ min (max d.mps 1) (4096 - a % 4096) := by
    have := mps_ge d
    omega
  obtain ⟨b, l, rfl⟩ := List.exists_cons_of_ne_nil hbs
  have one : splitWrite d.mps ((b :: l).length + 1) a (b :: l) = [.hostWrite a (b :: l)] := by
    rw [splitWrite]
    · rw [List.take_of_length_le fits, List.drop_of_length_le fits]
      rfl
    · exact fun h => by cases h
  unfold Dev.hostWrite
  rw [one]

/-- Place of the oldest record's copy in the ring. -/
def Dev.ringAddr (d : Dev) : Nat :=
  d.reg R.hpEvlogLo + d.reg R.hpEvlogHi * 2 ^ 32 + 32 * (d.reg R.hpEvlogTail % 2 ^ d.fld R.hpEvlogCfg 1 5)

/-- The oldest record sent to the ring, TAIL moved, and the records that were lost forgotten. -/
def Dev.handedOver (d : Dev) (r : EventRecord) (rest : List EventRecord) : Dev :=
  { (d.hostWrite d.ringAddr r.bytes).setReg R.hpEvlogTail ((d.reg R.hpEvlogTail + 1) % 2 ^ 32) with
    log := { d.log with buf := rest, lost := 0, lostAt := 0 } }

theorem deliver_eq {d : Dev} {r : EventRecord} {rest : List EventRecord} (h : d.log.buf = r :: rest) :
    d.deliver = if d.log.lost = 0 then d.handedOver r rest
      else (d.handedOver r rest).evHost 5 0x3031 [d.log.lost, d.log.lostAt] := by
  unfold Dev.deliver
  rw [h]
  rfl

theorem kept_handedOver (d : Dev) (r : EventRecord) (rest : List EventRecord) :
    Kept [.regs, .log, .out] d (d.handedOver r rest) :=
  Kept_trans (Kept_mono (kept_hostWrite d d.ringAddr r.bytes) (by decide))
    (Kept_trans (Kept_mono (kept_setReg _ R.hpEvlogTail ((d.reg R.hpEvlogTail + 1) % 2 ^ 32)) (by decide))
      (Kept_mono (kept_log ..) (by decide)))

theorem handedOver_out {d : Dev} (r : EventRecord) (rest : List EventRecord) (h : d.reg R.hpEvlogLo % 4096 = 0) :
    (d.handedOver r rest).out = d.out ++ [.hostWrite d.ringAddr r.bytes] := by
  refine hostWrite_out_of_short d (fun hn => ?_) (by simp) ?_
  · have := congrArg List.length hn; simp at this
  · rw [EventRecord.bytes_length]
    unfold Dev.ringAddr
    omega

theorem handedOver_regs (d : Dev) (r : EventRecord) (rest : List EventRecord) :
    RegsBut [R.hpEvlogTail] d (d.handedOver r rest) ∧
    (d.handedOver r rest).reg R.hpEvlogTail = (d.reg R.hpEvlogTail + 1) % 2 ^ 32 := by
  have regs : (d.handedOver r rest).regs = (d.setReg R.hpEvlogTail ((d.reg R.hpEvlogTail + 1) % 2 ^ 32)).regs := rfl
  refine ⟨RegsBut_of_regs_eq (regsBut_setReg d R.hpEvlogTail _) regs, ?_⟩
  have same := regsBut_of_regs [] regs R.hpEvlogTail (by simp)
  rw [same, Dev.reg_setReg_self, Nat.mod_mod]

/-- An event record that finds room in the retention buffer leaves every register as it was. -/
theorem event_low_room {d : Dev} {cls : Nat} (hc : cls ≠ 4) (code rg bl : Nat) (dt : List Nat) (p c : Nat)
    (h : d.log.buf.length < 4096) :
    d.event cls code rg bl dt p c = { d with log := { d.log with
      total := d.log.total + 1, buf := d.log.buf ++ [⟨d.time.now, rg, bl, cls, code, p, c, dt⟩] } } := by
  unfold Dev.event Dev.eventAt
  dsimp only
  rw [if_neg (by omega)]
  unfold Dev.logRec
  dsimp only
  rw [if_pos h]

theorem eventRecordDeliver_moves {r : EventRecord} {rest : List EventRecord} {s : State} (hbuf : s.dev.log.buf = r :: rest)
    (hlen : s.dev.log.buf.length ≤ 4096) (hgo : s.dev.evlogGo = true) (hlo : s.dev.reg R.hpEvlogLo % 4096 = 0) :
    Runs .eventRecordDeliver s fun t =>
      t.dev.out = s.dev.out ++ [.hostWrite s.dev.ringAddr r.bytes] ∧
      t.dev.reg R.hpEvlogTail = (s.dev.reg R.hpEvlogTail + 1) % 2 ^ 32 ∧ t.dev.log.lost = 0 ∧
      (s.dev.log.lost = 0 → t.dev.log.buf = rest) ∧
      (s.dev.log.lost ≠ 0 → t.dev.log.buf = rest ++ [regRec s.dev 5 0x3031 8 0xFF [s.dev.log.lost, s.dev.log.lostAt]]) ∧
      RegsBut [R.hpEvlogTail] s.dev t.dev ∧ Only [.regs, .log, .out] s t := by
  obtain ⟨regs, tail⟩ := handedOver_regs s.dev r rest
  have out := handedOver_out r rest hlo
  have kept := kept_handedOver s.dev r rest
  refine ⟨_, onDevIf_met Dev.deliver hgo, ?_⟩
  dsimp only
  rw [deliver_eq hbuf]
  by_cases hlost : s.dev.log.lost = 0
  · rw [if_pos hlost]
    exact ⟨out, tail, rfl, fun _ => rfl, fun h => absurd hlost h, regs, only_dev kept⟩
  · have room : (s.dev.handedOver r rest).log.buf.length < 4096 := by
      rw [hbuf] at hlen
      exact hlen
    rw [if_neg hlost]
    unfold Dev.evHost
    rw [event_low_room (by decide) _ _ _ _ _ _ room]
    refine ⟨out, tail, rfl, fun h => absurd h hlost, fun _ => ?_, RegsBut_of_regs_eq regs rfl, only_dev ?_⟩
    · have now : (s.dev.handedOver r rest).time = s.dev.time := kept.same .time (by decide)
      rw [now]; rfl
    · exact Kept_trans kept (Kept_mono (kept_log ..) (by decide))

/-- While the ring is full no record is delivered. -/
theorem eventRecordDeliver_full {s : State}
    (h : 2 ^ s.dev.fld R.hpEvlogCfg 1 5 ≤ (s.dev.reg R.hpEvlogTail + 2 ^ 32 - s.dev.reg R.hpEvlogHead) % 2 ^ 32) :
    Runs .eventRecordDeliver s fun t => t = s := by
  have stop : s.dev.evlogGo = false := by
    unfold Dev.evlogGo
    rw [decide_eq_false (Nat.not_lt.2 h), Bool.and_false]
  exact ⟨_, onDevIf_unmet Dev.deliver stop, rfl⟩

end Sys2Proof.Machine

namespace Sys2Proof.Machine

/-! ## O52 -/

theorem hotReset_off {s : State} (hup : s.dev.host.up = true) : Runs .hotReset s fun t =>
    (t.dev.host.up = false ∧ t.dev.host.lit = false ∧ t.dev.host.cfg = [] ∧ t.dev.host.d3 = false ∧
      t.dev.links.up = s.dev.links.up.filter (· ≠ 0) ∧
      Logged s.dev t.dev [regRec s.dev 0 0x3032 8 0xFF [1], portRec s.dev 5 0x3027 0 [0]] ∧
      RegsBut [R.hpEvlogLost] s.dev t.dev ∧ Only [.host, .links, .regs, .log] s t) ∧
    t.dev.host.held = s.dev.host.held := by
  refine ⟨_, hotReset_effect hup, linkReset_off 1 rfl (kept_refl ..), ?_⟩
  obtain ⟨host, -⟩ := linkReset_effect s.dev 1
  rw [host]

theorem linkDisable_off {s : State} (hup : s.dev.host.up = true) : Runs .linkDisable s fun t =>
    (t.dev.host.up = false ∧ t.dev.host.lit = false ∧ t.dev.host.cfg = [] ∧ t.dev.host.d3 = false ∧
      t.dev.links.up = s.dev.links.up.filter (· ≠ 0) ∧
      Logged s.dev t.dev [regRec s.dev 0 0x3032 8 0xFF [2], portRec s.dev 5 0x3027 0 [0]] ∧
      RegsBut [R.hpEvlogLost] s.dev t.dev ∧ Only [.host, .links, .regs, .log] s t) ∧
    t.dev.host.held = true := by
  exact ⟨_, linkDisable_effect hup, linkReset_off 2 rfl (kept_host ..), rfl⟩

/-- A BAR2 read that does not wait: taken, under an erased key, or refused. -/
theorem bar2Read_goes {len : Fin 4097} {off : Fin 68719476736} {a : Nat} {s : State} (hreq : s.dev.hostReq = 0)
    (hlen : 1 ≤ len.val) (ha : s.dev.bar2Addr off = a) (h0 : s.dev.host.bar2 = [])
    (hw : s.dev.bar2Waits ⟨off, len, none⟩ = false) :
    (s.dev.bar2Refuse a len.val false = none → s.dev.keyGone a len.val = none →
      exec (.bar2Read off len) s = .next { s with dev := s.dev.windowRead a len }) ∧
    (∀ g, s.dev.bar2Refuse a len.val false = none → s.dev.keyGone a len.val = some g →
      exec (.bar2Read off len) s =
        .next { s with dev := ((s.dev.keyEvent 728 s.dev.hostPart g).bump R.hpCa).complete 2 }) ∧
    ∀ tgt r26, s.dev.bar2Refuse a len.val false = some (tgt, r26) →
      exec (.bar2Read off len) s =
        .next { s with dev := ((s.dev.deny 728 s.dev.hostPart tgt r26 a).bump R.hpCa).complete 2 } := by
  have run := exec_bar2Read off hreq hlen
  have read : s.dev.bar2Arrive ⟨off, len, none⟩ = s.dev.bar2Get off len := bar2Arrive_goes h0 hw
  rw [read, bar2Get_eq, ha] at run
  refine ⟨fun hr hk => ?_, fun g hr hk => ?_, fun tgt r26 hr => ?_⟩
  · rw [run, hr, hk]; rfl
  · rw [run, hr, hk]; rfl
  · rw [run, hr]; rfl

/-- A BAR2 write that does not wait: taken, or refused. -/
theorem bar2Write_goes {data : List Byte} {off : Fin 68719476736} (ep : Bool) {a : Nat} {s : State}
    (hreq : s.dev.hostReq = 0) (hmin : 1 ≤ data.length) (hmax : data.length ≤ 512) (ha : s.dev.bar2Addr off = a)
    (h0 : s.dev.host.bar2 = []) (hw : s.dev.bar2Waits ⟨off, data.length, some (data, ep)⟩ = false) :
    (s.dev.bar2Refuse a data.length true = none →
      exec (.bar2Write off data ep) s = .next { s with dev := s.dev.windowWrite a data ep }) ∧
    ∀ tgt r26, s.dev.bar2Refuse a data.length true = some (tgt, r26) →
      exec (.bar2Write off data ep) s = .next { s with dev := s.dev.deny 728 s.dev.hostPart tgt r26 a } := by
  have run := exec_bar2Write off ep hreq hmin hmax
  have write : s.dev.bar2Arrive ⟨off, data.length, some (data, ep)⟩ = s.dev.bar2Put off data ep := bar2Arrive_goes h0 hw
  rw [write, bar2Put_eq, ha] at run
  refine ⟨fun hr => ?_, fun tgt r26 hr => ?_⟩
  · rw [run, hr]; rfl
  · rw [run, hr]; rfl

theorem bar2Addr_eq (d : Dev) (off : Nat) : d.bar2Addr off = d.fld R.hpBar2Win 0 8 * 2 ^ 30 + off := rfl

end Sys2Proof.Machine

namespace Sys2Proof
open Machine

/-- Settles O52: the links and configuration space by `linkReset_effect` and `cfgWrite_dword_effect`, BAR2 by the
outcome of an access, the event log by `event_wrote` and `deliver_eq`. -/
theorem hostLinkWindowAndLog : Obligations.HostLinkWindowAndLog := by
  unfold Obligations.HostLinkWindowAndLog
  refine ⟨fun s hup => ⟨hotReset_off hup, linkDisable_off hup, bmeClear_effect hup, fun off v =>
    ⟨configRead_effect off v hup, configWrite_effect off v hup⟩⟩, fun s h => linkCommand_of_down h,
    fun off len s hreq hlen => ?_, fun off data ep s hreq hmin hmax => ?_,
    fun code cls region block part ctx detail s hph hwf => eventRecordWrite_records hph hwf,
    fun r rest s hbuf hlen hen hready => ⟨fun hroom hlo => ?_, eventRecordDeliver_full⟩⟩
  · intro a req
    refine ⟨bar2_waits (exec_bar2Read off hreq hlen), fun h0 hw => ?_⟩
    obtain ⟨taken, gone, refused⟩ := bar2Read_goes (a := a) hreq hlen (bar2Addr_eq ..) h0 hw
    exact ⟨fun hr hk => ⟨_, taken hr hk, windowRead_effect s a len⟩,
      fun g hr hk => ⟨_, gone g hr hk, keyGoneRead_effect s g⟩,
      fun tgt r26 hr => ⟨_, refused tgt r26 hr, refusedRead_effect s tgt r26 a⟩⟩
  · intro a req
    refine ⟨bar2_waits (exec_bar2Write off ep hreq hmin hmax), fun h0 hw => ?_⟩
    obtain ⟨taken, refused⟩ := bar2Write_goes ep (a := a) hreq hmin hmax (bar2Addr_eq ..) h0 hw
    refine ⟨fun hr => ⟨_, taken hr, windowWrite_effect s a ep hmin⟩, fun tgt r26 hr => ⟨_, refused tgt r26 hr, ?_⟩⟩
    obtain ⟨denied, total, regs⟩ := deny_effect s.dev 728 s.dev.hostPart tgt r26 a
    exact ⟨denied, total, regs, only_dev (kept_deny ..)⟩
  · have go : s.dev.evlogGo = true := by
      unfold Dev.evlogGo
      rw [hen, hready, decide_eq_true hroom]; rfl
    exact eventRecordDeliver_moves hbuf hlen go hlo

end Sys2Proof

namespace Sys2Proof.Machine

/-! ## The canonical forms of memory and of the operations

Memory and the trackers' operations are tables. Four functions write them entry by entry (`wr`, `zero`, `copy` and
`setOp`), the compute reset filters the one and empties the other, and MOD_RESET_N empties both. Every other function
of the device is put together from these and from updates of other fields, so each has one lemma: it keeps both forms.
The lemmas stand in the order of the model's functions; a command's lemma follows from those of the functions it
applies. -/

section

/-- Memory and the operations are in canonical form (R24, R145). -/
def TablesOk (d : Dev) : Prop := MemOk d ∧ OpsOk d

variable {d : Dev}

theorem tablesOk_ite {c : Prop} [Decidable c] {a b : Dev} (ha : TablesOk a) (hb : TablesOk b) :
    TablesOk (if c then a else b) := by
  split <;> assumption

theorem tablesOk_foldl {α : Type} {f : Dev → α → Dev} {l : List α} (hf : ∀ d x, TablesOk d → TablesOk (f d x))
    (h : TablesOk d) : TablesOk (l.foldl f d) := by
  induction l generalizing d with
  | nil => exact h
  | cons x l ih => exact ih (hf _ x h)

theorem tablesOk_doIf {p : Dev → Bool} {f : Dev → Dev} (hf : ∀ d, TablesOk d → TablesOk (f d)) (h : TablesOk d) :
    TablesOk (doIf p f d) :=
  tablesOk_ite (hf _ h) h

theorem tablesOk_doDev {f : Dev → Dev} (hf : ∀ d, TablesOk d → TablesOk (f d)) (h : TablesOk d) :
    TablesOk (doDev f d) :=
  hf _ h

theorem tablesOk_applyAll {α : Type} {f : Dev → α → Dev} {l : List α} (hf : ∀ d x, TablesOk d → TablesOk (f d x))
    (h : TablesOk d) : TablesOk (applyAll f l d) :=
  tablesOk_foldl hf h

/-- An update of fields other than memory and operations. -/
theorem tablesOk_update {time chip regs poison enc blocks tiles qm ctxs parts srv fus pl chA chB dram links pwr sec
    host log retire out free} (h : TablesOk d) :
    TablesOk ⟨time, chip, regs, d.mem, poison, enc, blocks, tiles, d.ops, qm, ctxs, parts, srv, fus, pl, chA, chB,
      dram, links, pwr, sec, host, log, retire, out, free⟩ :=
  ⟨h.1, h.2⟩

/-- The device of a pair that a `match` has taken apart, here and in the next three. -/
theorem tablesOk_fst {α : Type} {p : Dev × α} {a : α} (h : TablesOk p.1) (e : p = (d, a)) : TablesOk d := by
  rwa [e] at h

theorem tablesOk_snd {α : Type} {p : α × Dev} {a : α} (h : TablesOk p.2) (e : p = (a, d)) : TablesOk d := by
  rwa [e] at h

theorem tablesOk_sndSnd {α β : Type} {p : α × β × Dev} {a : α} {b : β} (h : TablesOk p.2.2) (e : p = (a, b, d)) :
    TablesOk d := by
  rwa [e] at h

theorem tablesOk_foldlPair {α β : Type} {f : Dev × β → α → Dev × β} {l : List α} {b : β}
    (hf : ∀ r x, TablesOk r.1 → TablesOk (f r x).1) (h : TablesOk d) : TablesOk (l.foldl f (d, b)).1 := by
  suffices key : ∀ r : Dev × β, TablesOk r.1 → TablesOk (l.foldl f r).1 from key (d, b) h
  induction l with
  | nil => exact fun _ h => h
  | cons x l ih => exact fun r h => ih (f r x) (hf r x h)

/-! ### Ops -/

theorem tablesOk_setBlk (h : TablesOk d) {b : Nat} {v : Block} : TablesOk (d.setBlk b v) :=
  tablesOk_update h

theorem tablesOk_modBlk (h : TablesOk d) {b : Nat} {f : Block → Block} : TablesOk (d.modBlk b f) :=
  tablesOk_setBlk h

theorem tablesOk_setTile (h : TablesOk d) {t : Nat} {v : Tile} : TablesOk (d.setTile t v) :=
  tablesOk_update h

theorem tablesOk_modTile (h : TablesOk d) {t : Nat} {f : Tile → Tile} : TablesOk (d.modTile t f) :=
  tablesOk_setTile h

theorem tablesOk_setOp (h : TablesOk d) {k : Nat} {v : Op} : TablesOk (d.setOp k v) := ⟨h.1, setOp_wf h.2 k v⟩

theorem tablesOk_modOp (h : TablesOk d) {k : Nat} {f : Op → Op} : TablesOk (d.modOp k f) :=
  tablesOk_setOp h

theorem tablesOk_setCtx (h : TablesOk d) {c : Nat} {v : Ctx} : TablesOk (d.setCtx c v) :=
  tablesOk_update h

theorem tablesOk_modCtx (h : TablesOk d) {c : Nat} {f : Ctx → Ctx} : TablesOk (d.modCtx c f) :=
  tablesOk_setCtx h

theorem tablesOk_setPart (h : TablesOk d) {p : Nat} {v : Part} : TablesOk (d.setPart p v) :=
  tablesOk_update h

theorem tablesOk_modPart (h : TablesOk d) {p : Nat} {f : Part → Part} : TablesOk (d.modPart p f) :=
  tablesOk_setPart h

theorem tablesOk_modThr (h : TablesOk d) {b n : Nat} {f : Thread → Thread} : TablesOk (d.modThr b n f) :=
  tablesOk_modBlk h

theorem tablesOk_modIsl (h : TablesOk d) {i : Isl} {f : Island → Island} : TablesOk (d.modIsl i f) := by
  unfold Dev.modIsl
  split <;> exact tablesOk_update h

theorem tablesOk_setReg (h : TablesOk d) {off v : Nat} : TablesOk (d.setReg off v) :=
  tablesOk_update h

theorem tablesOk_setFld (h : TablesOk d) {off lo n v : Nat} : TablesOk (d.setFld off lo n v) :=
  tablesOk_setReg h

theorem tablesOk_bump (h : TablesOk d) {off n : Nat} : TablesOk (d.bump off n) :=
  tablesOk_setReg h

theorem tablesOk_bump16 (h : TablesOk d) {off lo : Nat} : TablesOk (d.bump16 off lo) :=
  tablesOk_setFld h

theorem tablesOk_askSafe (h : TablesOk d) {i : Isl} {cause : Nat} : TablesOk (d.askSafe i cause) :=
  tablesOk_modIsl h

theorem tablesOk_safeReq (h : TablesOk d) {cause : Nat} : TablesOk (d.safeReq cause) :=
  tablesOk_askSafe (tablesOk_askSafe h)

theorem tablesOk_logRec (h : TablesOk d) {r : EventRecord} : TablesOk (d.logRec r) := by
  unfold Dev.logRec
  extract_lets _ d2 _ d4
  have h2 : TablesOk d2 := tablesOk_update h
  have h4 : TablesOk d4 := tablesOk_update h2
  exact tablesOk_ite (tablesOk_update h2) (tablesOk_bump h4)

theorem tablesOk_eventAt (h : TablesOk d) {time cls code region block : Nat} {detail : List Nat} {part ctx : Nat} :
    TablesOk (d.eventAt time cls code region block detail part ctx) := by
  unfold Dev.eventAt
  extract_lets d1
  have h1 : TablesOk d1 := tablesOk_logRec h
  exact tablesOk_ite (tablesOk_safeReq h1) h1

theorem tablesOk_event (h : TablesOk d) {cls code region block : Nat} {detail : List Nat} {part ctx : Nat} :
    TablesOk (d.event cls code region block detail part ctx) :=
  tablesOk_eventAt h

theorem tablesOk_evHub (h : TablesOk d) {cls code : Nat} {detail : List Nat} {block : Nat} :
    TablesOk (d.evHub cls code detail block) :=
  tablesOk_event h

theorem tablesOk_evBlk (h : TablesOk d) {cls code b : Nat} {detail : List Nat} {part ctx : Nat} :
    TablesOk (d.evBlk cls code b detail part ctx) :=
  tablesOk_event h

theorem tablesOk_evFloor (h : TablesOk d) {cls code : Nat} {detail : List Nat} : TablesOk (d.evFloor cls code detail) :=
  tablesOk_event h

theorem tablesOk_evIsl (h : TablesOk d) {i : Isl} {cls code : Nat} {detail : List Nat} :
    TablesOk (d.evIsl i cls code detail) :=
  tablesOk_event h

theorem tablesOk_evSec (h : TablesOk d) {cls code : Nat} {detail : List Nat} : TablesOk (d.evSec cls code detail) :=
  tablesOk_event h

theorem tablesOk_emit (h : TablesOk d) {o : Out} : TablesOk (d.emit o) :=
  tablesOk_update h

theorem tablesOk_fresh (h : TablesOk d) : TablesOk d.fresh.2 :=
  tablesOk_update h

theorem tablesOk_retireReq (h : TablesOk d) {b cause : Nat} : TablesOk (d.retireReq b cause) :=
  tablesOk_ite h (tablesOk_update h)

theorem tablesOk_wr (h : TablesOk d) {a : Nat} {bs : List Byte} : TablesOk (d.wr a bs) := ⟨wr_wf h.1 a bs, h.2⟩

theorem tablesOk_setPoison (h : TablesOk d) {g : Nat} {p : Bool} : TablesOk (d.setPoison g p) :=
  tablesOk_update h

theorem tablesOk_poisonRange (h : TablesOk d) {a n : Nat} : TablesOk (d.poisonRange a n) :=
  tablesOk_foldl (fun _ _ h1 => tablesOk_setPoison h1) h

theorem tablesOk_store (h : TablesOk d) {a : Nat} {bs : List Byte} {carry : Bool} : TablesOk (d.store a bs carry) := by
  unfold Dev.store
  extract_lets d1
  have h1 : TablesOk d1 := tablesOk_wr h
  exact tablesOk_foldl (fun _ _ h2 => tablesOk_ite (tablesOk_setPoison h2) (tablesOk_ite (tablesOk_setPoison h2) h2)) h1

theorem tablesOk_zero (h : TablesOk d) {a n : Nat} : TablesOk (d.zero a n) := ⟨zero_wf h.1 a n, h.2⟩

theorem tablesOk_copy (h : TablesOk d) {src dst n : Nat} : TablesOk (d.copy src dst n) := ⟨copy_wf h.1 src dst n, h.2⟩

theorem tablesOk_storeAs (h : TablesOk d) {part a : Nat} {bs : List Byte} {carry : Bool} :
    TablesOk (d.storeAs part a bs carry) := by
  unfold Dev.storeAs
  extract_lets d1
  have h1 : TablesOk d1 := tablesOk_store h
  exact tablesOk_ite (tablesOk_update h1) h1

theorem tablesOk_evChan (h : TablesOk d) {cls code k : Nat} {detail : List Nat} :
    TablesOk (d.evChan cls code k detail) :=
  tablesOk_event h

theorem tablesOk_keyEvent (h : TablesOk d) {init part g : Nat} : TablesOk (d.keyEvent init part g) := by
  unfold Dev.keyEvent
  extract_lets _
  exact tablesOk_evChan h

theorem tablesOk_deny (h : TablesOk d) {init part tgt : Nat} {r26 : Bool} {a : Nat} :
    TablesOk (d.deny init part tgt r26 a) := by
  unfold Dev.deny
  extract_lets d1 d2
  have h1 : TablesOk d1 := tablesOk_bump h
  have h2 : TablesOk d2 := tablesOk_setReg h1
  apply tablesOk_ite
  · exact tablesOk_evSec h2
  · split
    · exact tablesOk_evBlk h2
    · exact tablesOk_event h2

theorem tablesOk_peak (h : TablesOk d) {t : Nat} : TablesOk (d.peak t) :=
  tablesOk_setFld h

theorem tablesOk_alloc (h : TablesOk d) {t : Nat} {o : Op} : TablesOk (d.alloc t o).2 := by
  unfold Dev.alloc
  extract_lets _
  exact tablesOk_peak (tablesOk_setOp h)

theorem tablesOk_settle (h : TablesOk d) {k st : Nat} : TablesOk (d.settle k st) :=
  tablesOk_modOp h

theorem tablesOk_poisonOut (h : TablesOk d) {b : Nat} {e : EngOp} : TablesOk (d.poisonOut b e) :=
  tablesOk_foldl (fun _ _ h1 => tablesOk_ite (tablesOk_poisonRange h1) h1) h

theorem tablesOk_freeArb (h : TablesOk d) {b : Nat} {e : EngOp} : TablesOk (d.freeArb b e) := by
  unfold Dev.freeArb
  split
  · exact h
  · extract_lets d1
    have h1 : TablesOk d1 := tablesOk_modBlk h
    exact tablesOk_modTile h1

theorem tablesOk_releaseBlk (h : TablesOk d) {b : Nat} : TablesOk (d.releaseBlk b) :=
  tablesOk_modBlk h

theorem tablesOk_unwait (h : TablesOk d) {p : Nat × Nat → Bool} : TablesOk (d.unwait p) :=
  tablesOk_update h

theorem tablesOk_startStatic (h : TablesOk d) {b n c : Nat} : TablesOk (d.startStatic b n c) := by
  unfold Dev.startStatic
  extract_lets _
  exact tablesOk_modBlk (tablesOk_alloc h)

theorem tablesOk_hostWrite (h : TablesOk d) {a : Nat} {bs : List Byte} : TablesOk (d.hostWrite a bs) :=
  tablesOk_update h

/-! ### Engine -/

/- The kernel must not evaluate a refusal, a place in DRAM or a probe on an address that is a sum or a product with a
literal: it does so when it compares a function's application with its body, where that begins with a `match`. Such a
function is therefore opened as a variable equal to it, and a function it takes apart stands as a variable as well. -/

theorem tablesOk_sramEcc (h : TablesOk d) {b : Nat} {f : EccFinding} : TablesOk (d.sramEcc b f) := by
  unfold Dev.sramEcc
  apply tablesOk_ite
  · exact h
  · split
    extract_lets _ d2 d3 d4
    have h2 : TablesOk d2 := tablesOk_setReg h
    have h3 : TablesOk d3 := tablesOk_setPoison (tablesOk_bump h2)
    have h4 : TablesOk d4 := tablesOk_evBlk (tablesOk_bump h2)
    exact tablesOk_ite (tablesOk_modBlk (tablesOk_evBlk h3)) (tablesOk_modBlk h4)

theorem tablesOk_sramEccs (h : TablesOk d) {b : Nat} {fs : List EccFinding} : TablesOk (d.sramEccs b fs) :=
  tablesOk_foldl (fun _ _ h1 => tablesOk_sramEcc h1) h

theorem tablesOk_modEng (h : TablesOk d) {b : Nat} {e : EngOp} {f : EngOp → EngOp} : TablesOk (d.modEng b e f) :=
  tablesOk_modBlk h

theorem tablesOk_writeBeats (h : TablesOk d) {base : Nat} {c : Desc} {beats : List Beat} :
    TablesOk (d.writeBeats base c beats) := by
  unfold Dev.writeBeats
  extract_lets d1
  have h1 : TablesOk d1 := tablesOk_foldl (fun _ _ h2 => tablesOk_wr h2) h
  exact tablesOk_ite h1 (tablesOk_foldl (fun _ _ h2 => tablesOk_foldl (fun _ _ h3 => tablesOk_ite
    (tablesOk_setPoison h3) h3) h2) h1)

theorem tablesOk_cutBeats (h : TablesOk d) {b : Nat} {e : EngOp} : TablesOk (d.cutBeats b e) := by
  unfold Dev.cutBeats
  extract_lets _
  split
  · exact h
  · split
    rename_i _ _ d2 e
    have h2 : TablesOk d2 := tablesOk_snd (tablesOk_fresh h) e
    extract_lets _ _ _ _
    exact tablesOk_foldl (fun _ _ h7 => tablesOk_wr h7) h2

theorem tablesOk_dropEng (h : TablesOk d) {b : Nat} {e : EngOp} : TablesOk (d.dropEng b e) := by
  unfold Dev.dropEng
  extract_lets d1
  have h1 : TablesOk d1 := tablesOk_freeArb (tablesOk_poisonOut (tablesOk_cutBeats h))
  exact tablesOk_modBlk h1

theorem tablesOk_killEng (h : TablesOk d) {b : Nat} {p : EngOp → Bool} : TablesOk (d.killEng b p) := by
  unfold Dev.killEng
  refine tablesOk_foldl (fun d x h1 => ?_) h
  extract_lets d2
  have h2 : TablesOk d2 := tablesOk_modOp h1
  exact tablesOk_ite (tablesOk_modEng h2) (tablesOk_dropEng h2)

theorem tablesOk_endOp (h : TablesOk d) {k st : Nat} {kill : Bool} : TablesOk (d.endOp k st kill) := by
  unfold Dev.endOp
  extract_lets _ d2
  have h2 : TablesOk d2 := tablesOk_settle h
  apply tablesOk_ite
  · exact h
  · split
    · exact h2
    · extract_lets d3
      have h3 : TablesOk d3 := tablesOk_ite (tablesOk_killEng h2) h2
      split
      · exact tablesOk_releaseBlk h3
      · extract_lets st' d5
        have h5 : TablesOk d5 := tablesOk_ite (tablesOk_unwait (tablesOk_modBlk h3)) h3
        clear_value st'
        split
        · exact tablesOk_startStatic (tablesOk_ite (tablesOk_unwait (tablesOk_modBlk h3)) h3)
        · exact tablesOk_releaseBlk (tablesOk_ite (tablesOk_unwait (tablesOk_modBlk h3)) h3)

theorem tablesOk_report (h : TablesOk d) {b : Nat} {e : EngOp} {st : Nat} {compared : Bool} :
    TablesOk (d.report b e st compared) := by
  unfold Dev.report
  extract_lets _ d2 d3 d4 d5 d6 d7 d8 d9
  have h2 : TablesOk d2 := tablesOk_freeArb (tablesOk_ite h (tablesOk_poisonOut h))
  have h3 : TablesOk d3 := tablesOk_modBlk h2
  have h4 : TablesOk d4 := tablesOk_ite (tablesOk_bump h3) h3
  have h5 : TablesOk d5 := tablesOk_ite (tablesOk_bump h4) h4
  have h6 : TablesOk d6 := tablesOk_ite (tablesOk_bump h5) h5
  have h7 : TablesOk d7 := tablesOk_ite (tablesOk_bump h6) h6
  have h8 : TablesOk d8 := tablesOk_modOp h7
  have h9 : TablesOk d9 := by
    unfold d9
    split
    · exact tablesOk_settle h8
    · exact tablesOk_ite (tablesOk_modThr h8) h8
  exact tablesOk_releaseBlk h9

theorem tablesOk_strike (h : TablesOk d) {b : Nat} : TablesOk (d.strike b) := by
  unfold Dev.strike
  extract_lets _ _ _ d4
  have h4 : TablesOk d4 := tablesOk_modBlk h
  exact tablesOk_ite h4 (tablesOk_retireReq (tablesOk_evBlk h4))

theorem tablesOk_copyCoded (h : TablesOk d) {parts : List (Nat × Nat × Nat)} : TablesOk (d.copyCoded parts) := by
  unfold Dev.copyCoded
  extract_lets d1
  have h1 : TablesOk d1 := tablesOk_foldl (fun _ _ h2 => tablesOk_foldl (fun _ _ h3 => tablesOk_setPoison h3) h2) h
  refine tablesOk_foldl (fun d x h2 => ?_) h1
  extract_lets d3
  have h3 : TablesOk d3 := tablesOk_wr h2
  refine tablesOk_foldl (fun d x h4 => ?_) h3
  extract_lets _ _
  exact tablesOk_ite (tablesOk_setPoison h4) h4

theorem tablesOk_copyPre (h : TablesOk d) {b half : Nat} {e : EngOp} : TablesOk (d.copyPre b half e) := by
  unfold Dev.copyPre
  extract_lets _ _ _ _
  split
  · exact h
  · exact tablesOk_copyCoded h

theorem tablesOk_engStart (h : TablesOk d) {b : Nat} {latch : Option Nat} {ecc : List EccFinding} :
    TablesOk (d.engStart b latch ecc) := by
  suffices body : ∀ f, f = @Dev.engStart → TablesOk (f d b latch ecc) from body _ rfl
  intro f hf
  delta Dev.engStart at hf
  obtain ⟨refusal, hr⟩ : ∃ p, p = @Dev.refusal := ⟨_, rfl⟩
  rw [← hr] at hf
  subst hf
  beta_reduce
  refine tablesOk_ite h ?_
  extract_lets d1
  have h1 : TablesOk d1 := tablesOk_modBlk h
  clear_value d1
  generalize (d1.blk b).nextOp = x
  split
  · exact h1
  · rename_i e
    extract_lets err d3 d4 d5 _ _ _ _ d10
    have h3 : TablesOk d3 := tablesOk_setFld (tablesOk_bump h1)
    refine tablesOk_ite (tablesOk_report (tablesOk_evBlk h3)) ?_
    generalize refusal d1 (5 * b + 4) (d1.idPart b e.static e.part) (blockBase b) false false = x
    split
    · exact tablesOk_report (tablesOk_deny h1)
    · have h4 : TablesOk d4 := by
        unfold d4
        split
        · exact tablesOk_evBlk h1
        · exact h1
      have h5 : TablesOk d5 := tablesOk_sramEccs h4
      have h10 : TablesOk d10 := tablesOk_ite (tablesOk_copyPre h5) h5
      exact tablesOk_modEng h10

theorem tablesOk_lastCell (h : TablesOk d) {b cell syn : Nat} : TablesOk (d.lastCell b cell syn) :=
  tablesOk_setReg h

theorem tablesOk_ending (h : TablesOk d) {k : Nat} : TablesOk (d.ending k) := by
  unfold Dev.ending
  extract_lets _
  exact tablesOk_foldl (fun _ _ h2 => tablesOk_modBlk h2) h

theorem tablesOk_lateEnd (h : TablesOk d) {k : Nat} : TablesOk (d.lateEnd k) := by
  unfold Dev.lateEnd
  extract_lets _ d2 d3 d4 d5 d6 _
  have h2 : TablesOk d2 := tablesOk_ending h
  have h3 : TablesOk d3 := by
    unfold d3
    split
    · exact tablesOk_killEng h2
    · exact tablesOk_endOp h2
  have h4 : TablesOk d4 := tablesOk_modOp h3
  have h5 : TablesOk d5 := tablesOk_foldl (fun _ _ h8 => tablesOk_poisonRange h8) h4
  have h6 : TablesOk d6 := tablesOk_bump h5
  split
  · exact tablesOk_evBlk h6
  · exact tablesOk_event h6

theorem tablesOk_drained (h : TablesOk d) {b : Nat} : TablesOk (d.drained b) := by
  unfold Dev.drained
  apply tablesOk_ite
  · exact h
  · split
    · exact h
    · extract_lets d1
      have h1 : TablesOk d1 := tablesOk_ite (tablesOk_report (tablesOk_cutBeats h)) (tablesOk_ite (tablesOk_report
        (tablesOk_cutBeats h)) h)
      exact tablesOk_ite (tablesOk_dropEng h) (tablesOk_ite (tablesOk_lateEnd h1) h1)

theorem tablesOk_beatDone (h : TablesOk d) {b cell : Nat} : TablesOk (d.beatDone b cell) :=
  tablesOk_drained (tablesOk_modBlk h)

theorem tablesOk_poisonCurrent (h : TablesOk d) {b cell : Nat} : TablesOk (d.poisonCurrent b cell) := by
  unfold Dev.poisonCurrent
  extract_lets _
  refine tablesOk_beatDone ?_
  split
  · extract_lets d2
    have h2 : TablesOk d2 := tablesOk_modEng h
    exact tablesOk_ite h2 (tablesOk_modBlk h2)
  · exact h

theorem tablesOk_uncheckCurrent (h : TablesOk d) {b : Nat} : TablesOk (d.uncheckCurrent b) := by
  unfold Dev.uncheckCurrent
  split
  · exact tablesOk_modEng h
  · exact h

theorem tablesOk_dropBeats (h : TablesOk d) {b : Nat} : TablesOk (d.dropBeats b) := by
  unfold Dev.dropBeats
  extract_lets _ d2
  have h2 : TablesOk d2 := tablesOk_foldl (fun _ _ h3 => tablesOk_eventAt h3) h
  exact tablesOk_modBlk h2

theorem tablesOk_dropArb (h : TablesOk d) {e : EngOp} : TablesOk (d.dropArb e) := by
  unfold Dev.dropArb
  split
  · exact tablesOk_dropBeats h
  · exact h

theorem tablesOk_engEnd (h : TablesOk d) {b : Nat} : TablesOk (d.engEnd b) := by
  unfold Dev.engEnd
  extract_lets d1 _
  have h1 : TablesOk d1 := tablesOk_modBlk h
  split
  · exact h
  · extract_lets _ _ d5 d6 _ d8 d9 _
    have h5 : TablesOk d5 := tablesOk_writeBeats h1
    have h6 : TablesOk d6 := tablesOk_ite (tablesOk_bump h5) h5
    have h8 : TablesOk d8 := tablesOk_modEng h6
    have h9 : TablesOk d9 := tablesOk_modBlk h8
    split
    · exact tablesOk_report h1
    · exact tablesOk_ite (tablesOk_ite (tablesOk_modEng h9) (tablesOk_report h8)) (tablesOk_ite (tablesOk_report h1)
        (tablesOk_modEng h1))

theorem tablesOk_abortDyn (h : TablesOk d) {b : Nat} : TablesOk (d.abortDyn b) :=
  tablesOk_foldl (fun _ _ h1 => tablesOk_ite (tablesOk_modEng h1) (tablesOk_report (tablesOk_cutBeats h1))) h

theorem tablesOk_dynDisable (h : TablesOk d) {b : Fin 144} {v : Bool} : TablesOk (Dev.dynDisable b v d) := by
  unfold Dev.dynDisable
  refine tablesOk_doIf (fun _ h1 => ?_) h
  extract_lets _ d3 d4
  have h3 : TablesOk d3 := tablesOk_setFld h1
  have h4 : TablesOk d4 := tablesOk_ite h3 (tablesOk_modBlk h3)
  exact tablesOk_ite (tablesOk_ite (tablesOk_abortDyn h4) h4) (tablesOk_modBlk h3)

theorem tablesOk_dynMode (h : TablesOk d) {b : Fin 144} {v : Bool} : TablesOk (Dev.dynMode b v d) := by
  unfold Dev.dynMode
  refine tablesOk_doDev (fun _ h1 => ?_) h
  extract_lets _ d3
  have h3 : TablesOk d3 := tablesOk_setFld h1
  exact tablesOk_ite (tablesOk_abortDyn h3) h3

/-! ### Ppu -/

theorem tablesOk_denyN (h : TablesOk d) {init part a n : Nat} {write : Bool} :
    TablesOk (d.denyN init part a n write) := by
  unfold Dev.denyN
  split
  · exact tablesOk_deny h
  · exact h

theorem tablesOk_ppuEnd (h : TablesOk d) {k : Nat} {lockstep : Option Nat} : TablesOk (d.ppuEnd k lockstep) := by
  unfold Dev.ppuEnd
  extract_lets _ _ _ _
  apply tablesOk_ite
  · exact tablesOk_settle h
  · split
    · exact tablesOk_settle (tablesOk_deny h)
    · split
      · extract_lets d5
        have h5 : TablesOk d5 := tablesOk_event (tablesOk_bump16 h)
        exact tablesOk_settle (tablesOk_poisonRange (tablesOk_storeAs h5))
      · exact tablesOk_settle (tablesOk_storeAs h)

theorem tablesOk_ppuNext (h : TablesOk d) : TablesOk d.ppuNext := by
  unfold Dev.ppuNext
  extract_lets _
  exact tablesOk_foldl (fun _ _ h2 => tablesOk_modOp h2) h

/-! ### Cores -/

theorem tablesOk_modT (h : TablesOk d) {t : ThreadId} {f : Thread → Thread} : TablesOk (d.modT t f) :=
  tablesOk_modThr h

theorem tablesOk_issued (h : TablesOk d) {t : ThreadId} : TablesOk (d.issued t) :=
  tablesOk_modBlk h

theorem tablesOk_ret (h : TablesOk d) {t : ThreadId} {rd v : Nat} : TablesOk (d.ret t rd v) :=
  tablesOk_modT h

theorem tablesOk_stall (h : TablesOk d) {t : ThreadId} {i : Instr} : TablesOk (d.stall t i) :=
  tablesOk_modT h

theorem tablesOk_sbStall (h : TablesOk d) {t : ThreadId} {i : Instr} : TablesOk (d.sbStall t i) :=
  tablesOk_stall (tablesOk_bump (tablesOk_fresh h))

theorem tablesOk_except (h : TablesOk d) {t : ThreadId} {st cause : Nat} : TablesOk (d.except t st cause) := by
  unfold Dev.except
  extract_lets d1
  have h1 : TablesOk d1 := tablesOk_setReg (tablesOk_bump h)
  exact tablesOk_endOp h1

theorem tablesOk_excPoison (h : TablesOk d) {t : ThreadId} {cause : Nat} : TablesOk (d.excPoison t cause) :=
  tablesOk_except (tablesOk_evBlk h)

theorem tablesOk_excReloc (h : TablesOk d) {t : ThreadId} {ea : Nat} : TablesOk (d.excReloc t ea) :=
  tablesOk_except (tablesOk_evBlk h)

theorem tablesOk_thAccess (h : TablesOk d) {t : ThreadId} {ea n : Nat} {write : Bool} :
    TablesOk (d.thAccess t ea n write).1 := by
  unfold Dev.thAccess
  extract_lets _
  split
  · exact tablesOk_excReloc h
  · exact tablesOk_except (tablesOk_deny h)
  · split
    · exact tablesOk_except (tablesOk_deny h)
    · exact h

theorem tablesOk_hubEcc (h : TablesOk d) {f : EccFinding} : TablesOk (d.hubEcc f) :=
  tablesOk_ite h (tablesOk_ite (tablesOk_event (tablesOk_setPoison (tablesOk_bump h))) (tablesOk_event
    (tablesOk_bump h)))

theorem tablesOk_accEcc (h : TablesOk d) {fs : List EccFinding} : TablesOk (d.accEcc fs) := by
  unfold Dev.accEcc
  refine tablesOk_foldl (fun d x h1 => ?_) h
  split
  · exact tablesOk_sramEcc h1
  · exact tablesOk_hubEcc h1
  · exact h1

theorem tablesOk_thAddrs (h : TablesOk d) {t : ThreadId} {write : Bool} {l : List (Nat × Nat)} :
    TablesOk (d.thAddrs t write l).1 := by
  induction l generalizing d with
  | nil => exact h
  | cons x l ih =>
    unfold Dev.thAddrs
    split
    · rename_i _ e
      exact tablesOk_fst (tablesOk_thAccess h) e
    · rename_i _ _ e
      have h1 := ih (tablesOk_fst (tablesOk_thAccess h) e)
      split <;> rename_i e1 <;> exact tablesOk_fst h1 e1

theorem tablesOk_breakResv (h : TablesOk d) {a n : Nat} : TablesOk (d.breakResv a n) :=
  tablesOk_update h

theorem tablesOk_land (h : TablesOk d) {part a : Nat} {bs : List Byte} {poison : Bool} :
    TablesOk (d.land part a bs poison) :=
  tablesOk_breakResv (tablesOk_storeAs h)

theorem tablesOk_flushBlk (h : TablesOk d) {b : Nat} : TablesOk (d.flushBlk b) := by
  unfold Dev.flushBlk
  extract_lets _
  exact tablesOk_ite h (tablesOk_foldl (fun _ _ h2 => tablesOk_ite (tablesOk_modBlk h2) (tablesOk_land h2))
    (tablesOk_modBlk h))

theorem tablesOk_flushFar (h : TablesOk d) {t : ThreadId} {ps : List (Nat × Nat)} : TablesOk (d.flushFar t ps) :=
  tablesOk_foldl (fun _ _ h1 => tablesOk_flushBlk h1) h

theorem tablesOk_thLoad (h : TablesOk d) {t : ThreadId} {i : Instr} {rd ea w n : Nat} {sext : Bool} {kind : LoadKind}
    {ecc : List EccFinding} : TablesOk (d.thLoad t i rd ea w n sext kind ecc) := by
  unfold Dev.thLoad
  apply tablesOk_ite
  · exact tablesOk_ret h
  · apply tablesOk_ite
    · exact tablesOk_excPoison h
    · split
      · rename_i _ d1 e
        have h1 : TablesOk d1 := tablesOk_fst (tablesOk_thAddrs h) e
        exact h1
      · rename_i _ d1 _ e
        have h1 : TablesOk d1 := tablesOk_fst (tablesOk_thAddrs h) e
        extract_lets d2 d3 _ d5 d6 _
        have h2 : TablesOk d2 := tablesOk_flushFar h1
        have h3 : TablesOk d3 := tablesOk_accEcc h2
        have h5 : TablesOk d5 := tablesOk_ite (tablesOk_bump h3) h3
        have h6 : TablesOk d6 := tablesOk_modT h5
        apply tablesOk_ite
        · exact tablesOk_excReloc h1
        · apply tablesOk_ite
          · exact tablesOk_stall h2
          · apply tablesOk_ite
            · exact tablesOk_sbStall h2
            · split
              · exact tablesOk_except (tablesOk_keyEvent h3)
              · apply tablesOk_ite
                · exact tablesOk_except h3
                · split
                  · exact tablesOk_ret (tablesOk_modT (tablesOk_modT h5))
                  · exact tablesOk_ret (tablesOk_modT (tablesOk_modT h5))
                  · exact tablesOk_ret h6

theorem tablesOk_thWrite (h : TablesOk d) {t : ThreadId} {a : Nat} {bs : List Byte} : TablesOk (d.thWrite t a bs) := by
  unfold Dev.thWrite
  extract_lets _
  exact tablesOk_ite (tablesOk_modBlk h) (tablesOk_land h)

theorem tablesOk_thPieces (h : TablesOk d) {t : ThreadId} {l : List (Nat × Nat)} {bs : List Byte} :
    TablesOk (d.thPieces t l bs) := by
  induction l generalizing d bs with
  | nil => exact h
  | cons x l ih => exact ih (tablesOk_thWrite h)

theorem tablesOk_thPut (h : TablesOk d) {t : ThreadId} {ps : List (Nat × Nat)} {n v : Nat} {kind : StoreKind}
    {rd : Nat} : TablesOk (d.thPut t ps n v kind rd) := by
  unfold Dev.thPut
  extract_lets _ _ _ d4
  have h4 : TablesOk d4 := tablesOk_modT h
  split
  · exact tablesOk_ite (tablesOk_ret (tablesOk_thPieces h)) (tablesOk_ret (tablesOk_modT h))
  · exact tablesOk_ret (tablesOk_thPieces h4)
  · exact tablesOk_ret (tablesOk_thPieces h)

theorem tablesOk_thStore (h : TablesOk d) {t : ThreadId} {i : Instr} {ea w n v : Nat} {kind : StoreKind} {rd : Nat}
    {ecc : List EccFinding} : TablesOk (d.thStore t i ea w n v kind rd ecc) := by
  unfold Dev.thStore
  apply tablesOk_ite
  · exact tablesOk_ret h
  · apply tablesOk_ite
    · exact tablesOk_excPoison h
    · split
      · rename_i _ d1 e
        have h1 : TablesOk d1 := tablesOk_fst (tablesOk_thAddrs h) e
        exact h1
      · rename_i _ d1 _ e
        have h1 : TablesOk d1 := tablesOk_fst (tablesOk_thAddrs h) e
        extract_lets _
        apply tablesOk_ite
        · exact tablesOk_excReloc h1
        · split
          · exact tablesOk_except (tablesOk_evBlk h1)
          · exact tablesOk_ite (tablesOk_sbStall h1) (tablesOk_ite (tablesOk_stall h1) (tablesOk_thPut (tablesOk_accEcc
              (tablesOk_flushFar h1))))

theorem tablesOk_modPool (h : TablesOk d) {b p : Nat} {f : Pool → Pool} : TablesOk (d.modPool b p f) :=
  tablesOk_modBlk h

theorem tablesOk_closePool (h : TablesOk d) {b p : Nat} {abort : Bool} : TablesOk (d.closePool b p abort) := by
  unfold Dev.closePool
  extract_lets _ _ d3 d4
  have h3 : TablesOk d3 := by
    refine tablesOk_foldl (fun d x h5 => ?_) h
    extract_lets _
    exact tablesOk_except (tablesOk_deny h5)
  have h4 : TablesOk d4 := tablesOk_ite (tablesOk_foldl (fun _ _ h5 => tablesOk_endOp h5) h3) h3
  exact tablesOk_modPool h4

theorem tablesOk_setPoolCsr (h : TablesOk d) {t : ThreadId} {v : Nat} : TablesOk (d.setPoolCsr t v) := by
  unfold Dev.setPoolCsr
  extract_lets _ _ _
  exact tablesOk_ite (tablesOk_ite h (tablesOk_modPool h)) (tablesOk_ite (tablesOk_closePool h) h)

theorem tablesOk_setCsr (h : TablesOk d) {t : ThreadId} {n v : Nat} : TablesOk (d.setCsr t n v) :=
  tablesOk_ite (tablesOk_setPoolCsr h) (tablesOk_modT h)

theorem tablesOk_csrOp (h : TablesOk d) {t : ThreadId} {rd n : Nat} {write : Option (Nat → Nat)} :
    TablesOk (d.csrOp t rd n write) := by
  unfold Dev.csrOp
  extract_lets d1
  have h1 : TablesOk d1 := tablesOk_update h
  split
  · exact tablesOk_excPoison h
  · apply tablesOk_ite
    · exact tablesOk_excPoison h
    · refine tablesOk_ret ?_
      split
      · exact tablesOk_setCsr h1
      · exact h1

theorem tablesOk_elaunch (h : TablesOk d) {t : ThreadId} {i : Instr} {rd off : Nat} :
    TablesOk (d.elaunch t i rd off) := by
  unfold Dev.elaunch
  extract_lets _ _ _ _ _ _ d7 _ d9 d10 _ _ _ d14 d15 d16
  have h7 : TablesOk d7 := tablesOk_modT (tablesOk_modT h)
  have h9 : TablesOk d9 := tablesOk_ite h (tablesOk_modBlk h)
  have h10 : TablesOk d10 := tablesOk_modT h9
  have h14 : TablesOk d14 := tablesOk_ite (tablesOk_bump h10) h10
  have h15 : TablesOk d15 := tablesOk_modBlk h14
  have h16 : TablesOk d16 := tablesOk_peak (tablesOk_modOp h15)
  exact tablesOk_ite (tablesOk_ret (tablesOk_modOp h7)) (tablesOk_ite (tablesOk_stall h10) (tablesOk_ite
    (tablesOk_sbStall h10) (tablesOk_ret (tablesOk_modT h16))))

theorem tablesOk_noPool (h : TablesOk d) {t : ThreadId} {a cause : Nat} : TablesOk (d.noPool t a cause) := by
  unfold Dev.noPool
  extract_lets _
  exact tablesOk_except (tablesOk_deny h)

theorem tablesOk_grant (h : TablesOk d) {b p n wb wt rd : Nat} : TablesOk (d.grant b p n wb wt rd) := by
  unfold Dev.grant
  extract_lets _ _ d3
  have h3 : TablesOk d3 := tablesOk_modPool h
  exact tablesOk_modThr h3

theorem tablesOk_serve (h : TablesOk d) {b p : Nat} : TablesOk (d.serve b p) := by
  unfold Dev.serve
  refine tablesOk_foldlPair (fun r w h1 => ?_) h
  dsimp only
  split
  · split
    · exact h1
    · split
      · exact tablesOk_grant (tablesOk_modBlk h1)
      · exact tablesOk_modThr (tablesOk_bump (tablesOk_modBlk h1))
  · exact h1

theorem tablesOk_execGwCreditAcq_wait' (h : TablesOk d) {t : ThreadId} {rd : XReg} {b p n : Nat} :
    TablesOk (execGwCreditAcq.wait' t rd d b p n) :=
  tablesOk_modBlk (tablesOk_modT h)

theorem tablesOk_wake (h : TablesOk d) {b n : Nat} {expired : Bool} {deadline : Option Nat} {slot : Nat} :
    TablesOk (d.wake b n expired deadline slot) := by
  unfold Dev.wake
  extract_lets _ _
  split
  · extract_lets d3
    have h3 : TablesOk d3 := tablesOk_modThr h
    split
    · extract_lets _
      exact tablesOk_modThr (tablesOk_alloc h3)
    · exact h3
  · exact tablesOk_modThr h
  · exact h

theorem tablesOk_arrayError (h : TablesOk d) {b : Nat} : TablesOk (d.arrayError b) := by
  unfold Dev.arrayError
  extract_lets _ _ _ d4
  have h4 : TablesOk d4 := tablesOk_modBlk h
  exact tablesOk_ite (tablesOk_retireReq (tablesOk_evBlk h4)) h4

/-! ### Kv -/

theorem tablesOk_modInst (h : TablesOk d) {i : Nat} {f : Inst → Inst} : TablesOk (d.modInst i f) :=
  tablesOk_update h

theorem tablesOk_modReq (h : TablesOk d) {k : Nat} {f : Req → Req} : TablesOk (d.modReq k f) :=
  tablesOk_update h

theorem tablesOk_modPfx (h : TablesOk d) {e : Nat} {f : Pfx → Pfx} : TablesOk (d.modPfx e f) :=
  tablesOk_update h

theorem tablesOk_kvPop (h : TablesOk d) {i n : Nat} {d' : Dev} (e : d.kvPop i = some (n, d')) : TablesOk d' := by
  unfold Dev.kvPop at e
  dsimp only at e
  split at e
  · cases e
  · cases e
    exact tablesOk_modInst h

theorem tablesOk_kvPush (h : TablesOk d) {i n : Nat} : TablesOk (d.kvPush i n) := by
  unfold Dev.kvPush
  extract_lets _
  exact tablesOk_modInst (tablesOk_storeAs h)

theorem tablesOk_writeTable (h : TablesOk d) {i slot : Nat} {kv : List Nat} : TablesOk (d.writeTable i slot kv) := by
  unfold Dev.writeTable
  extract_lets _ _
  exact tablesOk_storeAs h

theorem tablesOk_outWrite (h : TablesOk d) {k : Nat} {r : Req} {off : Nat} {bs : List Byte} :
    TablesOk (d.outWrite k r off bs) :=
  tablesOk_ite (tablesOk_ite (tablesOk_hostWrite h) (tablesOk_update h)) (tablesOk_storeAs h)

theorem tablesOk_payOwed (h : TablesOk d) : TablesOk d.payOwed :=
  tablesOk_ite (tablesOk_foldl (fun _ _ h1 => tablesOk_hostWrite h1) (tablesOk_update h)) h

theorem tablesOk_stream (h : TablesOk d) {k : Nat} : TablesOk (d.stream k) := by
  unfold Dev.stream
  extract_lets _ d2 d3
  have h2 : TablesOk d2 := tablesOk_outWrite h
  have h3 : TablesOk d3 := tablesOk_outWrite h2
  exact tablesOk_modReq (tablesOk_outWrite h3)

theorem tablesOk_collision (h : TablesOk d) {r : Req} {e : Nat} : TablesOk (d.collision r e) :=
  tablesOk_event (tablesOk_bump h)

theorem tablesOk_pfxWalk (h : TablesOk d) {r : Req} {fuel j prev parent : Nat} {hits : List Nat} :
    TablesOk (d.pfxWalk r fuel j prev parent hits).1 := by
  induction fuel generalizing d j prev parent hits with
  | zero => exact h
  | succ fuel ih =>
    unfold Dev.pfxWalk
    dsimp only
    split
    · exact ih (tablesOk_modPfx (tablesOk_bump h))
    · dsimp only
      split
      · exact tablesOk_collision (tablesOk_bump h)
      · exact tablesOk_bump h

theorem tablesOk_pfxRelease (h : TablesOk d) {e : Nat} : TablesOk (d.pfxRelease e) := by
  unfold Dev.pfxRelease
  extract_lets d1 _
  have h1 : TablesOk d1 := tablesOk_modPfx h
  exact tablesOk_ite (tablesOk_modPfx (tablesOk_kvPush h1)) h1

theorem tablesOk_reqHold (h : TablesOk d) {k : Nat} : TablesOk (d.reqHold k) := by
  unfold Dev.reqHold
  extract_lets _ d2 _ d4
  have h2 : TablesOk d2 := tablesOk_foldl (fun _ _ h5 => tablesOk_pfxRelease h5) h
  have h4 : TablesOk d4 := tablesOk_foldl (fun _ _ h5 => tablesOk_kvPush h5) h2
  exact tablesOk_ite (tablesOk_writeTable h4) h4

theorem tablesOk_reqGone (h : TablesOk d) {k : Nat} : TablesOk (d.reqGone k) := by
  unfold Dev.reqGone
  extract_lets _ d2
  have h2 : TablesOk d2 := tablesOk_reqHold h
  exact tablesOk_modReq (tablesOk_modInst h2)

theorem tablesOk_finish (h : TablesOk d) {k st : Nat} : TablesOk (d.finish k st) := by
  unfold Dev.finish
  extract_lets _
  exact tablesOk_ite h (tablesOk_ite (tablesOk_reqGone (tablesOk_settle h)) (tablesOk_endOp h))

/-! ### Queues -/

theorem tablesOk_qSet (h : TablesOk d) {q i lo n v : Nat} : TablesOk (d.qSet q i lo n v) :=
  tablesOk_storeAs h

theorem tablesOk_qSetState (h : TablesOk d) {q v : Nat} : TablesOk (d.qSetState q v) := by
  unfold Dev.qSetState
  extract_lets d1 _
  have h1 : TablesOk d1 := tablesOk_qSet h
  exact tablesOk_update h1

theorem tablesOk_cacheFill (h : TablesOk d) : TablesOk d.cacheFill := by
  unfold Dev.cacheFill
  extract_lets _
  apply tablesOk_ite
  · exact h
  · split
    · exact h
    · exact tablesOk_update h

theorem tablesOk_cacheSweep (h : TablesOk d) : TablesOk d.cacheSweep := by
  unfold Dev.cacheSweep
  extract_lets _ _
  exact tablesOk_ite h (tablesOk_foldl (fun _ _ h3 => tablesOk_cacheFill h3) (tablesOk_update h))

theorem tablesOk_cacheIn (h : TablesOk d) {q : Nat} : TablesOk (d.cacheIn q) := by
  unfold Dev.cacheIn
  extract_lets d1 _ d3 _
  have h1 : TablesOk d1 := tablesOk_cacheSweep h
  have h3 : TablesOk d3 := tablesOk_bump h1
  exact tablesOk_ite h1 (tablesOk_ite (tablesOk_update h1) (tablesOk_update h3))

theorem tablesOk_cacheOut (h : TablesOk d) {q : Nat} : TablesOk (d.cacheOut q) :=
  tablesOk_ite (tablesOk_cacheFill (tablesOk_update h)) h

theorem tablesOk_sweepSaved (h : TablesOk d) {t : Nat} : TablesOk (d.sweepSaved t) := by
  unfold Dev.sweepSaved
  extract_lets _ _ _ d4 _
  have h4 : TablesOk d4 := by
    refine tablesOk_foldl (fun d x h6 => ?_) h
    extract_lets d7
    have h7 : TablesOk d7 := tablesOk_foldl (fun _ _ h8 => tablesOk_modOp h8) h6
    exact tablesOk_foldl (fun _ _ h8 => tablesOk_modOp h8) h7
  exact tablesOk_setTile h4

theorem tablesOk_sweepAll (h : TablesOk d) : TablesOk d.sweepAll :=
  tablesOk_foldl (fun _ _ h1 => tablesOk_sweepSaved h1) h

theorem tablesOk_modDis (h : TablesOk d) {x : DisObj} {f : Disabling → Disabling} : TablesOk (d.modDis x f) :=
  tablesOk_update h

theorem tablesOk_abortObj (h : TablesOk d) {x : DisObj} : TablesOk (d.abortObj x) := by
  unfold Dev.abortObj
  extract_lets _ d2
  have h2 : TablesOk d2 := tablesOk_sweepAll (tablesOk_foldl (fun _ _ h3 => tablesOk_finish h3) h)
  exact tablesOk_modDis h2

theorem tablesOk_instFree (h : TablesOk d) {i : Nat} : TablesOk (d.instFree i) := by
  unfold Dev.instFree
  extract_lets _ d2 _
  have h2 : TablesOk d2 := tablesOk_modCtx h
  exact tablesOk_update h2

theorem tablesOk_disDone (h : TablesOk d) {e : Disabling} : TablesOk (d.disDone e) := by
  unfold Dev.disDone
  extract_lets _ d2
  have h2 : TablesOk d2 := tablesOk_update h
  apply tablesOk_ite
  · exact h2
  · split
    · exact tablesOk_evHub (tablesOk_qSetState h2)
    · extract_lets d3 d4
      have h3 : TablesOk d3 := tablesOk_foldl (fun _ _ h5 => tablesOk_qSetState h5) h2
      have h4 : TablesOk d4 := tablesOk_setCtx h3
      split
      · exact tablesOk_evBlk h4
      · exact tablesOk_evHub h4
    · exact tablesOk_evHub (tablesOk_modPart h2)
    · exact tablesOk_instFree h2

theorem tablesOk_disCheck (h : TablesOk d) : TablesOk d.disCheck :=
  tablesOk_foldl (fun _ _ h1 => tablesOk_ite (tablesOk_disDone h1) h1) h

theorem tablesOk_disStartClosing {x : DisObj} {abort error shed : Bool} {close : Dev → Dev}
    (hc : ∀ d, TablesOk d → TablesOk (close d)) (h : TablesOk d) : TablesOk (d.disStart x abort error shed close) :=
  tablesOk_disCheck (hc _ (tablesOk_ite (tablesOk_abortObj (tablesOk_update h)) (tablesOk_update h)))

theorem tablesOk_disStart (h : TablesOk d) {x : DisObj} {abort error shed : Bool} :
    TablesOk (d.disStart x abort error shed) :=
  tablesOk_disStartClosing (fun _ h1 => h1) h

theorem tablesOk_cqHold (h : TablesOk d) : TablesOk d.cqHold := by
  unfold Dev.cqHold
  extract_lets _ _ _ d4 _
  have h4 : TablesOk d4 := tablesOk_bump h
  exact tablesOk_update h4

theorem tablesOk_freshen (h : TablesOk d) {q : Nat} : TablesOk (d.freshen q) := by
  unfold Dev.freshen
  extract_lets _ _ _ _
  exact tablesOk_update h

theorem tablesOk_announceLeft (h : TablesOk d) {q : Nat} : TablesOk (d.announceLeft q) :=
  tablesOk_update h

theorem tablesOk_queueEnable (h : TablesOk d) {mode : Bool} : TablesOk (Dev.queueEnable mode d) := by
  unfold Dev.queueEnable
  refine tablesOk_doIf (fun _ h1 => ?_) h
  extract_lets _ _ d4 d5 d6 _
  have h4 : TablesOk d4 := tablesOk_qSet h1
  have h5 : TablesOk d5 := tablesOk_announceLeft (tablesOk_freshen (tablesOk_qSetState h4))
  have h6 : TablesOk d6 := tablesOk_cacheIn h5
  apply tablesOk_ite
  · exact h4
  · split
    · exact tablesOk_ite h5 (tablesOk_cqHold (tablesOk_ite h6 (tablesOk_update h6)))
    · exact tablesOk_evHub (tablesOk_qSetState h4)

theorem tablesOk_queueDisable (h : TablesOk d) {mode : Bool} : TablesOk (Dev.queueDisable mode d) := by
  unfold Dev.queueDisable
  refine tablesOk_doDev (fun _ h1 => ?_) h
  extract_lets _ d3
  have h3 : TablesOk d3 := tablesOk_qSet h1
  split
  · exact tablesOk_disStart (tablesOk_qSetState h3)
  · exact tablesOk_ite (tablesOk_disCheck (tablesOk_abortObj h3)) h3
  · exact tablesOk_ite h3 (tablesOk_qSetState h3)
  · exact h3

theorem tablesOk_qmDoorbell (h : TablesOk d) {v : DWord} {wide : Bool} : TablesOk (Dev.qmDoorbell v wide d) := by
  unfold Dev.qmDoorbell
  extract_lets _ _
  refine tablesOk_doDev (fun _ h3 => ?_) h
  extract_lets _ d5 _ d7
  have h5 : TablesOk d5 := tablesOk_cacheIn (tablesOk_qSet (tablesOk_freshen h3))
  have h7 : TablesOk d7 := tablesOk_evHub (tablesOk_bump h3)
  apply tablesOk_ite
  · exact tablesOk_bump h3
  · apply tablesOk_ite
    · exact tablesOk_ite (tablesOk_cacheOut h5) (tablesOk_cqHold (tablesOk_update h5))
    · split
      · exact tablesOk_disStart (tablesOk_qSetState h7)
      · exact tablesOk_modDis h7
      · exact tablesOk_qSetState h7

theorem tablesOk_qmCqDoorbell (h : TablesOk d) {v : DWord} {wide : Bool} : TablesOk (Dev.qmCqDoorbell v wide d) := by
  unfold Dev.qmCqDoorbell
  extract_lets _ _
  refine tablesOk_doDev (fun _ h3 => ?_) h
  extract_lets _
  exact tablesOk_ite (tablesOk_bump h3) (tablesOk_ite (tablesOk_cqHold (tablesOk_modCtx h3)) (tablesOk_evHub
    (tablesOk_bump h3)))

theorem tablesOk_contextLoad (h : TablesOk d) : TablesOk d.contextLoad := by
  unfold Dev.contextLoad
  refine tablesOk_doIf (fun _ h1 => ?_) h
  extract_lets _
  apply tablesOk_ite
  · exact tablesOk_evHub h1
  · split
    · exact tablesOk_setCtx h1
    · exact tablesOk_evHub h1

theorem tablesOk_closePools (h : TablesOk d) {c : Nat} {abort : Bool} : TablesOk (d.closePools c abort) := by
  unfold Dev.closePools
  extract_lets d1
  have h1 : TablesOk d1 := tablesOk_foldl (fun _ _ h2 => tablesOk_closePool h2) h
  exact tablesOk_update h1

theorem tablesOk_contextDisable (h : TablesOk d) : TablesOk d.contextDisable := by
  unfold Dev.contextDisable
  refine tablesOk_doDev (fun _ h1 => ?_) h
  exact tablesOk_ite (tablesOk_evHub h1) (tablesOk_ite h1
    (tablesOk_disStartClosing (fun _ h2 => tablesOk_modDis (tablesOk_closePools h2)) (tablesOk_modCtx h1)))

theorem tablesOk_partitionDisable (h : TablesOk d) {p : Fin 64} {mode : Bool} :
    TablesOk (Dev.partitionDisable p mode d) := by
  unfold Dev.partitionDisable
  refine tablesOk_doDev (fun _ h1 => ?_) h
  extract_lets _ d3
  have h3 : TablesOk d3 := tablesOk_setFld (tablesOk_setFld h1)
  apply tablesOk_ite
  · exact h1
  · apply tablesOk_ite
    · exact h3
    · split
      · exact tablesOk_disStart (tablesOk_modPart h3)
      · exact tablesOk_ite (tablesOk_disCheck (tablesOk_abortObj h3)) h3
      · exact h3

theorem tablesOk_partitionEnable (h : TablesOk d) {p : Fin 64} {mode : Bool} :
    TablesOk (Dev.partitionEnable p mode d) := by
  unfold Dev.partitionEnable
  refine tablesOk_doIf (fun _ h1 => ?_) h
  extract_lets _ d3
  have h3 : TablesOk d3 := tablesOk_setFld (tablesOk_setFld h1)
  exact tablesOk_ite h3 (tablesOk_modPart h3)

theorem tablesOk_account (h : TablesOk d) {o : Op} {st : Nat} : TablesOk (d.account o st) :=
  tablesOk_ite h (tablesOk_update h)

theorem tablesOk_writeRecord (h : TablesOk d) {k st : Nat} : TablesOk (d.writeRecord k st) := by
  unfold Dev.writeRecord
  extract_lets _ _ _ _ d5
  have h5 : TablesOk d5 := by
    refine tablesOk_ite (tablesOk_hostWrite (tablesOk_hostWrite h)) ?_
    split
    · exact tablesOk_deny h
    · exact tablesOk_storeAs h
  exact tablesOk_ite h (tablesOk_modCtx h5)

theorem tablesOk_frameCount (h : TablesOk d) {part st : Nat} : TablesOk (d.frameCount part st) :=
  tablesOk_update h

theorem tablesOk_stepTask (h : TablesOk d) {k st : Nat} : TablesOk (d.stepTask k st) := by
  unfold Dev.stepTask
  split
  · exact h
  · exact tablesOk_modInst h

theorem tablesOk_plannerFail (h : TablesOk d) {o : Op} {st : Nat} : TablesOk (d.plannerFail o st) :=
  tablesOk_ite h (tablesOk_update h)

theorem tablesOk_opRecord (h : TablesOk d) {k : Nat} : TablesOk (d.opRecord k) := by
  unfold Dev.opRecord
  extract_lets d1 _ _ d4 d5 d6 d7
  have h1 : TablesOk d1 := tablesOk_sweepAll h
  have h4 : TablesOk d4 := tablesOk_plannerFail (tablesOk_stepTask (tablesOk_frameCount (tablesOk_account
    (tablesOk_writeRecord h1))))
  have h5 : TablesOk d5 := tablesOk_ite (tablesOk_modReq h4) h4
  have h6 : TablesOk d6 := tablesOk_setOp h5
  have h7 : TablesOk d7 := tablesOk_ite (tablesOk_cacheOut h6) h6
  exact tablesOk_cqHold (tablesOk_disCheck h7)

theorem tablesOk_lateOp (h : TablesOk d) {k : Nat} : TablesOk (d.lateOp k) := by
  unfold Dev.lateOp
  extract_lets _ d2
  have h2 : TablesOk d2 := tablesOk_lateEnd h
  exact tablesOk_ite (tablesOk_reqGone h2) h2

theorem tablesOk_abandon (h : TablesOk d) {k : Nat} : TablesOk (d.abandon k) := by
  unfold Dev.abandon
  extract_lets _
  exact tablesOk_ite (tablesOk_sweepAll (tablesOk_lateOp h)) (tablesOk_foldl (fun _ _ h2 => tablesOk_modEng h2) h)

theorem tablesOk_qmMirrorCtl (h : TablesOk d) {en : Bool} : TablesOk (Dev.qmMirrorCtl en d) :=
  tablesOk_doDev (fun _ h1 => tablesOk_setFld h1) h

theorem tablesOk_qmAcctCtl (h : TablesOk d) {en : Bool} : TablesOk (Dev.qmAcctCtl en d) := by
  unfold Dev.qmAcctCtl
  refine tablesOk_doDev (fun _ h1 => ?_) h
  extract_lets d2 _
  have h2 : TablesOk d2 := tablesOk_setFld h1
  exact tablesOk_update h2

/-! ### Sched -/

theorem tablesOk_charge (h : TablesOk d) {c n : Nat} : TablesOk (d.charge c n) := by
  unfold Dev.charge
  extract_lets _ _ d3 _ d5
  have h3 : TablesOk d3 := tablesOk_update h
  have h5 : TablesOk d5 := tablesOk_update h3
  exact tablesOk_ite h (tablesOk_ite (tablesOk_event h5) h3)

theorem tablesOk_setDeficit (h : TablesOk d) {q v : Nat} : TablesOk (d.setDeficit q v) :=
  tablesOk_update h

theorem tablesOk_wdrr {a d' : Dev} (h :
    TablesOk d) {qs : List Nat} {fuel n : Nat} (e : a.wdrr qs fuel d = some (n, d')) :
    TablesOk d' := by
  induction fuel generalizing d with
  | zero => cases e
  | succ fuel ih =>
    unfold Dev.wdrr at e
    dsimp only at e
    split at e
    · cases e
      exact tablesOk_setDeficit h
    · split at e
      · cases e
      · exact ih (tablesOk_update (tablesOk_setDeficit h)) e

theorem tablesOk_budgetPick (h : TablesOk d) {qs : List Nat} {n : Nat} {d' : Dev} (e : d.budgetPick qs = some (n, d')) :
    TablesOk d' := by
  unfold Dev.budgetPick at e
  dsimp only at e
  split at e
  · cases e
    exact tablesOk_update h
  · cases e

theorem tablesOk_pick (h : TablesOk d) {n : Nat} {d' : Dev} (e : d.pick = some (n, d')) : TablesOk d' := by
  unfold Dev.pick at e
  dsimp only at e
  split at e
  · exact tablesOk_budgetPick h e
  · exact tablesOk_wdrr h e

theorem tablesOk_pullRequest (h : TablesOk d) {k i q slot : Nat} : TablesOk (d.pullRequest k i q slot) := by
  unfold Dev.pullRequest
  extract_lets _ _ _ _ _ _ _ _ _ _ d11 _ d13 d14
  have h11 : TablesOk d11 := tablesOk_modReq h
  have h13 : TablesOk d13 := tablesOk_update h11
  have h14 : TablesOk d14 := tablesOk_outWrite h13
  apply tablesOk_ite
  · exact tablesOk_settle h
  · split
    · exact tablesOk_settle (tablesOk_deny h)
    · apply tablesOk_ite
      · exact tablesOk_settle h
      · split
        · exact tablesOk_settle (tablesOk_event h)
        · apply tablesOk_ite
          · exact tablesOk_settle h
          · split
            · exact tablesOk_settle (tablesOk_deny h)
            · exact tablesOk_ite (tablesOk_settle h) (tablesOk_modInst h14)

theorem tablesOk_pull (h : TablesOk d) {q : Nat} : TablesOk (d.pull q) := by
  suffices body : ∀ f, f = @Dev.pull → TablesOk (f d q) from body _ rfl
  intro f hf
  delta Dev.pull at hf
  subst hf
  beta_reduce
  extract_lets _ _ no _ _ _ _ _ _ d1 _ d2 _ d3 inst _ d4 _ d5 _ d6
  have h1 : TablesOk d1 := tablesOk_qSet h
  have h3 : TablesOk d3 := tablesOk_update (tablesOk_update h1)
  have h4 : TablesOk d4 := tablesOk_ite (tablesOk_charge h3) h3
  have h5 : TablesOk d5 := tablesOk_ite (tablesOk_setDeficit h4) h4
  have h6 : TablesOk d6 := tablesOk_setOp h5
  clear_value d6 d5 no inst
  split
  · exact tablesOk_deny (tablesOk_alloc h5)
  · refine tablesOk_ite (tablesOk_evHub (tablesOk_alloc h5)) ?_
    split
    · exact tablesOk_pullRequest (tablesOk_alloc h5)
    · exact tablesOk_ite (tablesOk_alloc h5) (tablesOk_update h6)

theorem tablesOk_openPools (h : TablesOk d) {b c : Nat} : TablesOk (d.openPools b c) :=
  tablesOk_ite h (tablesOk_modBlk h)

theorem tablesOk_retoken (h : TablesOk d) {k tok : Nat} : TablesOk (d.retoken k tok) :=
  tablesOk_update h

theorem tablesOk_placeTask (h : TablesOk d) {k b : Nat} : TablesOk (d.placeTask k b) := by
  unfold Dev.placeTask
  extract_lets _ d2
  have h2 : TablesOk d2 := tablesOk_setOp h
  split
  · exact h
  · split
    rename_i _ _ d3 e
    have h3 : TablesOk d3 := tablesOk_snd (tablesOk_alloc h2) e
    extract_lets _ d5 _ _ _ _ d10
    have h5 : TablesOk d5 := tablesOk_retoken (tablesOk_update h3)
    have h10 : TablesOk d10 := tablesOk_modBlk h5
    exact tablesOk_modCtx (tablesOk_openPools h10)

theorem tablesOk_blkStalls (h : TablesOk d) {o : Op} : TablesOk (d.blkStalls o) :=
  tablesOk_foldl (fun _ _ h1 => tablesOk_bump h1) h

theorem tablesOk_dispatchOne (h : TablesOk d) {k : Nat} {d' : Dev} (e : d.dispatchOne k = some d') : TablesOk d' := by
  unfold Dev.dispatchOne at e
  dsimp only at e
  split at e
  · split at e
    · cases e
      exact tablesOk_retoken (tablesOk_alloc (tablesOk_update (tablesOk_setOp h)))
    · cases e
  · split at e
    · cases e
    · split at e
      · split at e
        · cases e
          refine tablesOk_placeTask ?_
          split
          · exact tablesOk_bump (tablesOk_ite h (tablesOk_blkStalls h))
          · exact tablesOk_ite h (tablesOk_blkStalls h)
        · split at e
          · cases e
            exact tablesOk_modOp (tablesOk_blkStalls h)
          · cases e
      · split at e
        · cases e
          exact tablesOk_alloc (tablesOk_update (tablesOk_setOp h))
        · cases e

theorem tablesOk_restartTask (h : TablesOk d) {k b : Nat} : TablesOk (d.restartTask k b) := by
  unfold Dev.restartTask
  extract_lets _ _ _ _
  split
  · exact h
  · extract_lets d5 d6
    have h5 : TablesOk d5 := tablesOk_modOp h
    have h6 : TablesOk d6 := tablesOk_modBlk h5
    exact tablesOk_bump (tablesOk_modCtx (tablesOk_openPools h6))

theorem tablesOk_replayOne (h : TablesOk d) {t : Nat} {d' : Dev} (e : d.replayOne t = some d') : TablesOk d' := by
  unfold Dev.replayOne at e
  dsimp only at e
  split at e
  · split at e
    · cases e
    · obtain ⟨k, -, e⟩ := Option.bind_eq_some_iff.1 e
      split at e
      · obtain ⟨n, -, rfl⟩ := Option.map_eq_some_iff.1 e
        exact tablesOk_restartTask (tablesOk_modTile h)
      · split at e
        · cases e
          exact tablesOk_restartTask h
        · cases e
  · cases e

theorem tablesOk_replaceOne (h : TablesOk d) {t : Nat} {d' : Dev} (e : d.replaceOne t = some d') : TablesOk d' := by
  unfold Dev.replaceOne at e
  split at e
  · cases e
  · rcases (Option.orElse_eq_some _ _ _).1 e with e | ⟨-, e⟩
    · exact tablesOk_replayOne h e
    · obtain ⟨k, -, e⟩ := List.exists_of_findSome?_eq_some e
      dsimp only at e
      obtain ⟨b, -, rfl⟩ := Option.map_eq_some_iff.1 e
      refine tablesOk_restartTask ?_
      split
      · exact tablesOk_bump h
      · exact h

theorem tablesOk_abortSet (h : TablesOk d) {b : Nat} : TablesOk (d.abortSet b) := by
  unfold Dev.abortSet
  extract_lets _ d2 d3
  have h2 : TablesOk d2 := tablesOk_foldl (fun _ _ h4 => tablesOk_finish h4) h
  have h3 : TablesOk d3 := tablesOk_evBlk (tablesOk_bump h2)
  exact tablesOk_ite (tablesOk_modBlk h) (tablesOk_modBlk h3)

theorem tablesOk_preemptStart (h : TablesOk d) {b : Nat} : TablesOk (d.preemptStart b) := by
  unfold Dev.preemptStart
  split
  · exact tablesOk_abortSet h
  · extract_lets d1 _
    have h1 : TablesOk d1 := tablesOk_modBlk h
    exact tablesOk_unwait h1

theorem tablesOk_cancelGrant (h : TablesOk d) {b p a : Nat} : TablesOk (d.cancelGrant b p a) := by
  unfold Dev.cancelGrant
  extract_lets _ d2 d3
  have h2 : TablesOk d2 := tablesOk_evBlk h
  have h3 : TablesOk d3 := by
    unfold d3
    split
    · exact tablesOk_finish h2
    · exact h2
  exact tablesOk_modPool (tablesOk_modBlk h3)

theorem tablesOk_saveDone (h : TablesOk d) {b : Nat} {p : Preempt} : TablesOk (d.saveDone b p) := by
  unfold Dev.saveDone
  extract_lets _ _ _ _ _ d6 _ _ d9 d10 d11 d12
  have h6 : TablesOk d6 := tablesOk_copy h
  have h9 : TablesOk d9 := tablesOk_update h6
  have h10 : TablesOk d10 := tablesOk_foldl (fun _ _ h13 => tablesOk_modOp h13) h9
  have h11 : TablesOk d11 := tablesOk_modBlk h10
  have h12 : TablesOk d12 := tablesOk_bump h11
  exact tablesOk_modTile h12

theorem tablesOk_resumeWaits (h : TablesOk d) {s : SavedSet} {b : Nat} : TablesOk (d.resumeWaits s b) := by
  unfold Dev.resumeWaits
  extract_lets _ d2 d3
  have h2 : TablesOk d2 := tablesOk_foldl (fun _ _ h4 => tablesOk_modThr h4) h
  have h3 : TablesOk d3 := tablesOk_modBlk h2
  exact tablesOk_foldl (fun _ _ h4 => tablesOk_serve h4) h3

theorem tablesOk_resumeSet (h : TablesOk d) {t slot b : Nat} {s : SavedSet} : TablesOk (d.resumeSet t slot b s) := by
  unfold Dev.resumeSet
  extract_lets _ d2 d3 d4 d5
  have h2 : TablesOk d2 := tablesOk_copy h
  have h3 : TablesOk d3 := by
    refine tablesOk_foldl (fun d x h6 => ?_) h2
    extract_lets _
    split
    · extract_lets d8 d9
      have h8 : TablesOk d8 := tablesOk_modOp h6
      have h9 : TablesOk d9 := tablesOk_modCtx h8
      exact tablesOk_modThr h9
    · exact h6
  have h4 : TablesOk d4 := tablesOk_modBlk h3
  have h5 : TablesOk d5 := tablesOk_resumeWaits (tablesOk_modTile h4)
  exact tablesOk_foldl (fun _ _ h6 => tablesOk_report h6) h5

/-! ### Serving -/

theorem tablesOk_instanceLoad (h : TablesOk d) {mode : Bool} : TablesOk (Dev.instanceLoad mode d) := by
  unfold Dev.instanceLoad
  refine tablesOk_doIf (fun _ h1 => ?_) h
  extract_lets _ d3 _ d5 _ _ d8 d9
  have h3 : TablesOk d3 := tablesOk_setFld h1
  have h5 : TablesOk d5 := tablesOk_store h3
  have h8 : TablesOk d8 := tablesOk_update h5
  have h9 : TablesOk d9 := tablesOk_storeAs h8
  split
  · exact tablesOk_modCtx h9
  · exact tablesOk_event h3

theorem tablesOk_instanceUnload (h : TablesOk d) {mode : Bool} : TablesOk (Dev.instanceUnload mode d) := by
  unfold Dev.instanceUnload
  refine tablesOk_doDev (fun _ h1 => ?_) h
  extract_lets _ d3
  have h3 : TablesOk d3 := tablesOk_setFld h1
  split
  · exact h3
  · exact tablesOk_ite (tablesOk_disCheck (tablesOk_abortObj h3)) h3
  · exact tablesOk_disStart (tablesOk_modInst h3)

theorem tablesOk_qmSrvCtlFair (h : TablesOk d) {v : Bool} : TablesOk (Dev.qmSrvCtlFair v d) :=
  tablesOk_doDev (fun _ h1 => tablesOk_setFld h1) h

theorem tablesOk_qmBudget (h : TablesOk d) {c : Fin 1024} {v : Word} : TablesOk (Dev.qmBudget c v d) :=
  tablesOk_doDev (fun _ h1 => tablesOk_setReg h1) h

theorem tablesOk_pfxEvict (h : TablesOk d) {e : Nat} : TablesOk (d.pfxEvict e) := by
  unfold Dev.pfxEvict
  extract_lets _
  exact tablesOk_modPfx (tablesOk_kvPush (tablesOk_bump h))

theorem tablesOk_pfxInsert (h : TablesOk d) {k j x parent : Nat} : TablesOk (d.pfxInsert k j x parent).1 := by
  unfold Dev.pfxInsert
  extract_lets _ _ ms
  split
  · exact h
  · split
    · clear_value ms
      split
      · exact tablesOk_collision h
      · exact tablesOk_bump h
    · extract_lets d4 d5 d6
      have h4 : TablesOk d4 := tablesOk_ite (tablesOk_pfxEvict h) h
      have h5 : TablesOk d5 := tablesOk_storeAs h4
      have h6 : TablesOk d6 := tablesOk_modPfx h5
      clear_value ms
      split
      · exact tablesOk_collision h
      · exact tablesOk_modReq (tablesOk_modPfx (tablesOk_storeAs (tablesOk_ite (tablesOk_pfxEvict h) h)))

theorem tablesOk_pfxChain (h : TablesOk d) {k lo fuel j prev parent : Nat} :
    TablesOk (d.pfxChain k lo fuel j prev parent) := by
  induction fuel generalizing d j prev parent with
  | zero => exact h
  | succ fuel ih =>
    unfold Dev.pfxChain
    dsimp only
    split
    · exact ih h
    · split
      · split
        · exact ih h
        · exact h
      · split <;> rename_i e
        · exact ih (tablesOk_fst (tablesOk_pfxInsert h) e)
        · exact tablesOk_fst (tablesOk_pfxInsert h) e

theorem tablesOk_pfxRecord (h : TablesOk d) {k lo hi : Nat} : TablesOk (d.pfxRecord k lo hi) :=
  tablesOk_ite (tablesOk_pfxChain h) h

theorem tablesOk_pfxEnd (h : TablesOk d) {k : Nat} : TablesOk (d.pfxEnd k) := by
  unfold Dev.pfxEnd
  extract_lets _
  exact tablesOk_ite (tablesOk_pfxRecord h) h

theorem tablesOk_applyEntry (h : TablesOk d) {i : Nat} {unchecked : Bool} {e : PlanEntry} :
    TablesOk (d.applyEntry i unchecked e) := by
  unfold Dev.applyEntry
  extract_lets _ _ d3 _ _ _ _ d8 _ _ d11 d12 d13 d14 d15
  have h3 : TablesOk d3 := tablesOk_modReq h
  have h8 : TablesOk d8 := tablesOk_modInst h3
  have h11 : TablesOk d11 := tablesOk_modReq h8
  have h12 : TablesOk d12 := tablesOk_ite (tablesOk_event h11) h11
  have h13 : TablesOk d13 := tablesOk_modReq h3
  have h14 : TablesOk d14 := tablesOk_pfxRecord h13
  have h15 : TablesOk d15 := tablesOk_modReq h14
  exact tablesOk_ite (tablesOk_pfxEnd (tablesOk_stream h12)) (tablesOk_ite (tablesOk_pfxEnd (tablesOk_stream
    (tablesOk_modReq h15))) h14)

theorem tablesOk_endReq (h : TablesOk d) {k st : Nat} : TablesOk (d.endReq k st) := by
  unfold Dev.endReq
  extract_lets _ d2
  have h2 : TablesOk d2 := tablesOk_modOp h
  exact tablesOk_finish h2

theorem tablesOk_cancels (h : TablesOk d) {i : Nat} : TablesOk (d.cancels i) := by
  unfold Dev.cancels
  extract_lets _
  refine tablesOk_foldl (fun d x h2 => ?_) h
  split
  · exact tablesOk_endReq (tablesOk_ite h2 (tablesOk_pfxEnd h2))
  · exact h2

theorem tablesOk_recompute (h : TablesOk d) {i : Nat} : TablesOk (d.recompute i) := by
  unfold Dev.recompute
  split
  · exact h
  · extract_lets d1 d2 d3 _ d5
    have h1 : TablesOk d1 := tablesOk_reqHold h
    have h2 : TablesOk d2 := tablesOk_modReq h1
    have h3 : TablesOk d3 := tablesOk_modOp h2
    have h5 : TablesOk d5 := tablesOk_modInst h3
    exact tablesOk_event h5

theorem tablesOk_assign (h : TablesOk d) {k n fuel : Nat} : TablesOk (Dev.assign k n fuel d) := by
  induction fuel generalizing d with
  | zero => exact h
  | succ fuel ih =>
    unfold Dev.assign
    dsimp only
    split
    · exact h
    · split
      · rename_i e
        exact ih (tablesOk_modReq (tablesOk_kvPop h e))
      · split
        · exact ih (tablesOk_pfxEvict h)
        · exact ih (tablesOk_recompute h)

theorem tablesOk_admitReqs (h : TablesOk d) {i : Nat} {l : List Nat} : TablesOk (Dev.admitReqs i l d) := by
  induction l generalizing d with
  | nil => exact h
  | cons k l ih =>
    unfold Dev.admitReqs
    dsimp only
    split
    · exact h
    · split
      · exact h
      · exact ih (tablesOk_modInst (tablesOk_modReq h))

theorem tablesOk_addEntry (h : TablesOk d) {i k kind draft count : Nat} :
    TablesOk (d.addEntry i k kind draft count) := by
  unfold Dev.addEntry
  extract_lets _ _ d3 _ d5
  have h3 : TablesOk d3 := tablesOk_assign h
  have h5 : TablesOk d5 := tablesOk_ite h3 (tablesOk_modOp (tablesOk_modReq h3))
  exact tablesOk_ite h3 (tablesOk_modInst h5)

theorem tablesOk_composeDecode (h : TablesOk d) {i : Nat} : TablesOk (d.composeDecode i) := by
  unfold Dev.composeDecode
  refine tablesOk_foldl (fun d x h1 => ?_) h
  extract_lets _
  exact tablesOk_ite h1 (tablesOk_addEntry h1)

theorem tablesOk_composePrefill (h : TablesOk d) {i : Nat} {l : List Nat} : TablesOk (Dev.composePrefill i l d) := by
  induction l generalizing d with
  | nil => exact h
  | cons k l ih =>
    unfold Dev.composePrefill
    dsimp only
    split
    · exact ih h
    · exact tablesOk_ite h (ih (tablesOk_addEntry h))

theorem tablesOk_planHeader (h : TablesOk d) {i pass : Nat} : TablesOk (d.planHeader i pass) := by
  unfold Dev.planHeader
  extract_lets _
  exact tablesOk_storeAs h

theorem tablesOk_planWrite (h : TablesOk d) {i : Nat} {e : PlanEntry} : TablesOk (d.planWrite i e) := by
  unfold Dev.planWrite
  extract_lets _ _ d3 _ _ d6
  have h3 : TablesOk d3 := tablesOk_writeTable h
  have h6 : TablesOk d6 := tablesOk_ite h3 (tablesOk_storeAs h3)
  exact tablesOk_storeAs h6

theorem tablesOk_planAll (h : TablesOk d) {i : Nat} : TablesOk (d.planAll i) := by
  unfold Dev.planAll
  extract_lets d1
  have h1 : TablesOk d1 := tablesOk_modInst h
  exact tablesOk_foldl (fun _ _ h2 => tablesOk_planWrite h2) h1

theorem tablesOk_startPass (h : TablesOk d) {i pass : Nat} : TablesOk (d.startPass i pass) := by
  unfold Dev.startPass
  extract_lets d1 d2 _ _ _
  have h1 : TablesOk d1 := tablesOk_planHeader h
  have h2 : TablesOk d2 := tablesOk_modInst h1
  refine tablesOk_cqHold (tablesOk_foldl (fun d x h6 => ?_) h2)
  extract_lets _ d8 _ d10
  have h8 : TablesOk d8 := tablesOk_setOp h6
  have h10 : TablesOk d10 := tablesOk_update h8
  exact tablesOk_modInst h10

theorem tablesOk_nextStep (h : TablesOk d) {i : Nat} : TablesOk (d.nextStep i) := by
  unfold Dev.nextStep
  extract_lets d1 d2 _ d4 d5 d6 _ d8
  have h1 : TablesOk d1 := tablesOk_modInst h
  have h2 : TablesOk d2 := tablesOk_admitReqs h1
  have h4 : TablesOk d4 := tablesOk_modInst h2
  have h5 : TablesOk d5 := tablesOk_composeDecode h4
  have h6 : TablesOk d6 := tablesOk_composePrefill h5
  have h8 : TablesOk d8 := tablesOk_modInst h6
  exact tablesOk_ite h1 (tablesOk_ite h6 (tablesOk_startPass (tablesOk_planAll h8)))

theorem tablesOk_endReqs (h : TablesOk d) {ks : List Nat} {st : Nat} : TablesOk (d.endReqs ks st) :=
  tablesOk_foldl (fun _ _ h1 => tablesOk_endReq h1) h

theorem tablesOk_stepRep (h : TablesOk d) {i : Nat} : TablesOk (d.stepRep i) := by
  unfold Dev.stepRep
  extract_lets _
  exact tablesOk_foldl (fun _ _ h2 => tablesOk_modReq h2) h

theorem tablesOk_memEnds (h : TablesOk d) {i : Nat} : TablesOk (d.memEnds i) := by
  unfold Dev.memEnds
  extract_lets _ _
  exact tablesOk_modInst (tablesOk_endReqs h)

theorem tablesOk_chargeStep (h : TablesOk d) {i : Nat} : TablesOk (d.chargeStep i) := by
  unfold Dev.chargeStep
  extract_lets d1
  have h1 : TablesOk d1 := tablesOk_foldl (fun _ _ h2 => tablesOk_charge h2) h
  exact tablesOk_modInst h1

theorem tablesOk_outcome (h : TablesOk d) {i : Nat} : TablesOk (d.outcome i).1 := by
  unfold Dev.outcome
  extract_lets _ d2 _ d4 d5 d6 _ d8 _ d10 d11 d12
  have h2 : TablesOk d2 := tablesOk_stepRep h
  have h4 : TablesOk d4 := tablesOk_endReqs h2
  have h5 : TablesOk d5 := tablesOk_modInst h4
  have h6 : TablesOk d6 := tablesOk_memEnds h2
  have h8 : TablesOk d8 := tablesOk_event h6
  have h10 : TablesOk d10 := tablesOk_event h6
  have h11 : TablesOk d11 := tablesOk_modInst h10
  have h12 : TablesOk d12 := tablesOk_ite h11 (tablesOk_planAll h11)
  split
  · exact tablesOk_endReqs h5
  · split
    · split
      · exact h6
      · split
        · exact tablesOk_endReqs h8
        · exact tablesOk_startPass h12
    · exact tablesOk_foldl (fun _ _ h13 => tablesOk_applyEntry h13) h6

theorem tablesOk_boundary (h : TablesOk d) {i : Nat} : TablesOk (d.boundary i) := by
  unfold Dev.boundary
  extract_lets _
  apply tablesOk_ite
  · exact tablesOk_startPass h
  · split
    rename_i _ d2 _ e
    have h2 : TablesOk d2 := by
      refine tablesOk_fst ?_ e
      split
      · exact tablesOk_memEnds h
      · exact tablesOk_outcome h
    exact tablesOk_ite h2 (tablesOk_disCheck (tablesOk_nextStep (tablesOk_cancels (tablesOk_chargeStep h2))))

/-! ### Redundancy -/

theorem tablesOk_rxOutcome (h : TablesOk d) {b code : Nat} : TablesOk (d.rxOutcome b code) :=
  tablesOk_setFld h

theorem tablesOk_arbFail (h : TablesOk d) {b : Nat} {e : EngOp} {reason : Nat} : TablesOk (d.arbFail b e reason) := by
  unfold Dev.arbFail
  extract_lets _ d2
  have h2 : TablesOk d2 := tablesOk_evBlk (tablesOk_bump (tablesOk_rxOutcome h))
  exact tablesOk_report h2

theorem tablesOk_arbStart (h : TablesOk d) {b : Nat} {e : EngOp} : TablesOk (d.arbStart b e) := by
  unfold Dev.arbStart
  apply tablesOk_ite
  · exact tablesOk_arbFail h
  · split
    · extract_lets d1 d2
      have h1 : TablesOk d1 := tablesOk_modBlk h
      have h2 : TablesOk d2 := tablesOk_modEng h1
      exact tablesOk_modTile h2
    · exact tablesOk_ite (tablesOk_arbFail h) (tablesOk_ite h (tablesOk_modEng h))

theorem tablesOk_arbRetry (h : TablesOk d) : TablesOk d.arbRetry :=
  tablesOk_foldl (fun _ _ h1 => tablesOk_arbStart h1) h

theorem tablesOk_copyPop (h : TablesOk d) {t : Nat} : TablesOk (d.copyPop t) :=
  tablesOk_modTile h

theorem tablesOk_moveRange (h : TablesOk d) {src dst off n : Nat} : TablesOk (d.moveRange src dst off n) := by
  unfold Dev.moveRange
  extract_lets _ d2
  have h2 : TablesOk d2 := tablesOk_wr h
  exact tablesOk_foldl (fun _ _ h3 => tablesOk_setPoison h3) h2

theorem tablesOk_arbNeither (h : TablesOk d) {b : Nat} {e : EngOp} : TablesOk (d.arbNeither b e) := by
  unfold Dev.arbNeither
  extract_lets d1
  have h1 : TablesOk d1 := tablesOk_evBlk (tablesOk_bump (tablesOk_rxOutcome h))
  exact tablesOk_strike (tablesOk_report h1)

/-! ### Moult -/

theorem tablesOk_stopHandling (h : TablesOk d) {b : Nat} : TablesOk (d.stopHandling b) :=
  tablesOk_ite h (tablesOk_dropBeats h)

theorem tablesOk_killBlock (h : TablesOk d) {b stStatic stDyn : Nat} : TablesOk (d.killBlock b stStatic stDyn) := by
  unfold Dev.killBlock
  extract_lets _ _ d3 _ d5 d6 d7
  have h3 : TablesOk d3 := tablesOk_stopHandling h
  have h5 : TablesOk d5 := by
    unfold d5
    split
    · split
      · exact tablesOk_arbNeither h3
      · exact h3
    · exact h3
  have h6 : TablesOk d6 := tablesOk_foldl (fun _ _ h8 => tablesOk_ite (tablesOk_settle h8) (tablesOk_ite
    (tablesOk_endOp h8) (tablesOk_finish h8))) h5
  have h7 : TablesOk d7 := tablesOk_unwait (tablesOk_killEng h6)
  exact tablesOk_modBlk h7

theorem tablesOk_modMoult (h : TablesOk d) {b : Nat} {f : Moult → Moult} : TablesOk (d.modMoult b f) :=
  tablesOk_modTile h

theorem tablesOk_makeDonor (h : TablesOk d) {b x : Nat} : TablesOk (d.makeDonor b x) := by
  unfold Dev.makeDonor
  extract_lets d1 _
  have h1 : TablesOk d1 := tablesOk_modMoult (tablesOk_modBlk h)
  exact tablesOk_foldl (fun _ _ h3 => tablesOk_finish h3) h1

theorem tablesOk_gate (h : TablesOk d) {b : Nat} : TablesOk (d.gate b) :=
  tablesOk_killBlock (tablesOk_modBlk h)

theorem tablesOk_planMoult (h : TablesOk d) {b : Nat} : TablesOk (d.planMoult b) := by
  unfold Dev.planMoult
  extract_lets _ d2
  have h2 : TablesOk d2 := tablesOk_modTile h
  split
  · exact h
  · apply tablesOk_ite
    · exact h
    · apply tablesOk_ite
      · exact tablesOk_modMoult h
      · apply tablesOk_ite
        · exact h
        · split
          · exact tablesOk_makeDonor h
          · exact tablesOk_gate (tablesOk_event h2)

theorem tablesOk_moultWait (h : TablesOk d) : TablesOk d.moultWait :=
  tablesOk_foldl (fun _ _ h1 => tablesOk_planMoult h1) h

theorem tablesOk_retireBlock (h : TablesOk d) {b cause : Nat} : TablesOk (d.retireBlock b cause) := by
  unfold Dev.retireBlock
  extract_lets _ d2 _ _ pend d6 _ d8 _ d10 _ d12 d13 d14
  have h2 : TablesOk d2 := tablesOk_update h
  have h6 : TablesOk d6 := tablesOk_modBlk h2
  have h8 : TablesOk d8 := tablesOk_modTile h6
  have h10 : TablesOk d10 := tablesOk_ite (tablesOk_modTile h8) h8
  have h12 : TablesOk d12 := tablesOk_evBlk (tablesOk_stopHandling h10)
  have h13 : TablesOk d13 := tablesOk_killBlock h12
  have h14 : TablesOk d14 := tablesOk_ite (tablesOk_planMoult h13) (tablesOk_gate h13)
  clear_value pend
  split
  · exact tablesOk_planMoult (tablesOk_ite (tablesOk_planMoult (tablesOk_killBlock (tablesOk_evBlk
      (tablesOk_stopHandling (tablesOk_ite (tablesOk_modTile (tablesOk_modTile (tablesOk_modBlk h2))) (tablesOk_modTile
        (tablesOk_modBlk h2))))))) (tablesOk_gate (tablesOk_killBlock (tablesOk_evBlk (tablesOk_stopHandling
          (tablesOk_ite (tablesOk_modTile (tablesOk_modTile (tablesOk_modBlk h2))) (tablesOk_modTile
            (tablesOk_modBlk h2))))))))
  · exact tablesOk_ite (tablesOk_planMoult (tablesOk_killBlock (tablesOk_evBlk (tablesOk_stopHandling (tablesOk_ite
      (tablesOk_modTile (tablesOk_modTile (tablesOk_modBlk h2))) (tablesOk_modTile (tablesOk_modBlk h2)))))))
        (tablesOk_gate (tablesOk_killBlock (tablesOk_evBlk (tablesOk_stopHandling (tablesOk_ite (tablesOk_modTile
          (tablesOk_modTile (tablesOk_modBlk h2))) (tablesOk_modTile (tablesOk_modBlk h2)))))))

theorem tablesOk_startThreads (h : TablesOk d) {t l : Nat} : TablesOk (d.startThreads t l) :=
  tablesOk_foldl (fun _ _ h1 => tablesOk_ite (tablesOk_foldl (fun _ _ h2 => tablesOk_startStatic
    (tablesOk_openPools h2)) h1) h1) h

/-! ### Fusion -/

theorem tablesOk_modStr (h : TablesOk d) {n : Nat} {f : Stream → Stream} : TablesOk (d.modStr n f) :=
  tablesOk_update h

theorem tablesOk_modFus (h : TablesOk d) {f : Fusion → Fusion} : TablesOk (d.modFus f) :=
  tablesOk_update h

theorem tablesOk_fuWrite (h : TablesOk d) {init part a : Nat} {bs : List Byte} :
    TablesOk (d.fuWrite init part a bs).1 := by
  unfold Dev.fuWrite
  split
  · exact h
  · split
    · exact tablesOk_storeAs h
    · exact tablesOk_denyN h

theorem tablesOk_fuRead (h : TablesOk d) {init part a n : Nat} : TablesOk (d.fuRead init part a n).1 := by
  unfold Dev.fuRead
  split
  · exact h
  · split
    · exact h
    · exact tablesOk_denyN h

theorem tablesOk_history (h : TablesOk d) {n : Nat} {late missing : Bool} : TablesOk (d.history n late missing) := by
  unfold Dev.history
  extract_lets _ _ _ _ _ _ d7
  have h7 : TablesOk d7 := tablesOk_modStr h
  exact tablesOk_ite h7 (tablesOk_event h7)

theorem tablesOk_commitFrame (h : TablesOk d) {n : Nat} {a : Asm} {instant seq : Nat} {gap : Bool} :
    TablesOk (d.commitFrame n a instant seq gap) := by
  unfold Dev.commitFrame
  extract_lets _ _ _
  apply tablesOk_ite
  · exact tablesOk_bump h
  · split
    rename_i _ _ d4 e
    have h4 : TablesOk d4 := by
      refine tablesOk_snd ?_ e
      split
      · exact h
      · exact tablesOk_fresh h
    split
    rename_i _ d5 _ e
    have h5 : TablesOk d5 := tablesOk_fst (tablesOk_fuWrite h4) e
    extract_lets d6 _
    have h6 : TablesOk d6 := tablesOk_ite (tablesOk_bump h5) h5
    exact tablesOk_ite (tablesOk_modStr (tablesOk_bump h5)) (tablesOk_modStr h6)

theorem tablesOk_wholeFrame (h : TablesOk d) {n : Nat} {a : Asm} {gap : Bool} : TablesOk (d.wholeFrame n a gap) := by
  unfold Dev.wholeFrame
  split
  · exact tablesOk_commitFrame h
  · exact tablesOk_modStr (tablesOk_bump h)

theorem tablesOk_openFrame (h : TablesOk d) {n : Nat} : TablesOk (d.openFrame n).1 := by
  unfold Dev.openFrame
  split
  · exact tablesOk_modStr h
  · exact tablesOk_bump h

theorem tablesOk_beginFrame (h : TablesOk d) {n : Nat} : TablesOk (d.beginFrame n).1 := by
  unfold Dev.beginFrame
  extract_lets d1
  have h1 : TablesOk d1 := by
    unfold d1
    split
    · exact tablesOk_ite (tablesOk_bump h) h
    · exact h
  exact tablesOk_openFrame h1

theorem tablesOk_appendData (h : TablesOk d) {n : Nat} {a : Asm} {p : Avtpdu} {data : List Byte} :
    TablesOk (d.appendData n a p data).1 := by
  unfold Dev.appendData
  extract_lets _
  split
  · exact h
  · split
    · exact h
    · exact tablesOk_fuWrite h

theorem tablesOk_framePdu (h : TablesOk d) {n : Nat} {p : Avtpdu} {gap : Bool} : TablesOk (d.framePdu n p gap) := by
  unfold Dev.framePdu
  extract_lets _ cur _
  split
  rename_i _ d4 _ e
  have h4 : TablesOk d4 := by
    refine tablesOk_fst ?_ e
    clear_value cur
    split
    · exact h
    · exact tablesOk_beginFrame h
  extract_lets _
  split
  rename_i _ d6 _ e
  have h6 : TablesOk d6 := by
    refine tablesOk_fst ?_ e
    split
    · exact h4
    · exact tablesOk_appendData h4
  extract_lets _ d8
  have h8 : TablesOk d8 := tablesOk_modStr h6
  exact tablesOk_ite (tablesOk_modStr h6) (tablesOk_ite (tablesOk_modStr h8) (tablesOk_wholeFrame h8))

theorem tablesOk_inertialPdu (h : TablesOk d) {n : Nat} {p : Avtpdu} : TablesOk (d.inertialPdu n p) := by
  unfold Dev.inertialPdu
  extract_lets _ _
  apply tablesOk_ite
  · exact tablesOk_bump h
  · split
    rename_i _ d3 _ e
    have h3 : TablesOk d3 := by
      refine tablesOk_fst ?_ e
      split
      · exact h
      · exact tablesOk_openFrame h
    split
    rename_i _ d4 _ e
    have h4 : TablesOk d4 := tablesOk_fst (tablesOk_appendData h3) e
    extract_lets _
    exact tablesOk_modStr h4

theorem tablesOk_audioWrite (h : TablesOk d) {n j pos c v : Nat} : TablesOk (d.audioWrite n j pos c v) := by
  unfold Dev.audioWrite
  extract_lets _
  exact tablesOk_ite h (tablesOk_fuWrite h)

theorem tablesOk_putSample (h : TablesOk d) {n t i : Nat} {vs : List Nat} : TablesOk (d.putSample n t i vs) := by
  suffices body : ∀ f, f = @Dev.putSample → TablesOk (f d n t i vs) from body _ rfl
  intro f hf
  delta Dev.putSample at hf
  obtain ⟨place, hp⟩ : ∃ p, p = @audioPlace := ⟨_, rfl⟩
  rw [← hp] at hf
  subst hf
  beta_reduce
  split
  refine tablesOk_ite ?_ (tablesOk_ite ?_ ?_)
  · exact tablesOk_modStr (tablesOk_bump h)
  · exact tablesOk_modStr (tablesOk_bump h)
  · refine tablesOk_foldl (fun d x h4 => ?_) h
    extract_lets d5
    have h5 : TablesOk d5 := tablesOk_ite (tablesOk_audioWrite h4) h4
    exact tablesOk_modStr h5

theorem tablesOk_noteBlock (h : TablesOk d) {n t j : Nat} : TablesOk (d.noteBlock n t j) :=
  tablesOk_ite h (tablesOk_modStr h)

theorem tablesOk_audioPdu (h : TablesOk d) {n : Nat} {p : Avtpdu} : TablesOk (d.audioPdu n p) := by
  unfold Dev.audioPdu
  extract_lets _ _ _ _ d5
  have h5 : TablesOk d5 := tablesOk_modStr h
  exact tablesOk_ite h (tablesOk_foldl (fun _ _ h6 => tablesOk_putSample (tablesOk_noteBlock h6)) h5)

theorem tablesOk_writeHeld (h : TablesOk d) {n j : Nat} : TablesOk (d.writeHeld n j) :=
  tablesOk_foldl (fun _ _ h1 => tablesOk_audioWrite h1) h

theorem tablesOk_closeArray (h : TablesOk d) {n j : Nat} : TablesOk (d.closeArray n j) := by
  unfold Dev.closeArray
  extract_lets _ _ _ d1 _ _ _ _
  have h1 : TablesOk d1 := tablesOk_bump h
  split
  rename_i _ _ _ d2 e
  have h2 : TablesOk d2 := by
    refine tablesOk_sndSnd ?_ e
    split
    · exact h1
    · exact tablesOk_fresh (tablesOk_fresh h1)
  extract_lets _ _
  split
  rename_i _ d3 _ e
  have h3 : TablesOk d3 := by
    refine tablesOk_fst ?_ e
    split
    · exact tablesOk_fuWrite h2
    · exact tablesOk_bump h2
  split
  rename_i _ d4 _ e
  have h4 : TablesOk d4 := by
    refine tablesOk_fst ?_ e
    split
    · exact tablesOk_fuWrite h3
    · exact h3
  exact tablesOk_history (tablesOk_writeHeld (tablesOk_modStr h4))

theorem tablesOk_dropFrame (h : TablesOk d) {port kind : Nat} : TablesOk (d.dropFrame port kind) :=
  tablesOk_modFus h

theorem tablesOk_streamPdu (h : TablesOk d) {n : Nat} {p : Avtpdu} : TablesOk (d.streamPdu n p) := by
  unfold Dev.streamPdu
  extract_lets _ d2
  have h2 : TablesOk d2 := tablesOk_modStr h
  split
  · exact tablesOk_audioPdu h2
  · exact tablesOk_inertialPdu h2
  · exact tablesOk_framePdu h2

theorem tablesOk_egoMotion (h : TablesOk d) : TablesOk d.egoMotion.1 := by
  unfold Dev.egoMotion
  dsimp only
  split
  · exact h
  · split
    · exact tablesOk_fuRead h
    · exact h

theorem tablesOk_transform (h : TablesOk d) {n : Nat} {a : Asm} {ego : Option (List Byte)} {instant : Nat} :
    TablesOk (d.transform n a ego instant) := by
  unfold Dev.transform
  extract_lets _
  split
  rename_i _ d2 _ e
  have h2 : TablesOk d2 := tablesOk_fst (tablesOk_fuRead h) e
  split
  rename_i _ d3 _ e
  have h3 : TablesOk d3 := tablesOk_fst (tablesOk_fuRead h2) e
  refine tablesOk_foldl (fun d x h4 => ?_) h3
  extract_lets _
  exact tablesOk_fuWrite h4

theorem tablesOk_closeWindows (h : TablesOk d) {w n : Nat} : TablesOk (d.closeWindows w n) := by
  unfold Dev.closeWindows
  extract_lets _ d2
  have h2 : TablesOk d2 := tablesOk_modStr h
  exact tablesOk_foldl (fun _ _ h3 => tablesOk_ite (tablesOk_modStr (tablesOk_ite (tablesOk_bump h3) h3))
    (tablesOk_commitFrame h3)) h2

theorem tablesOk_sealStream (h : TablesOk d) {k n : Nat} : TablesOk (d.sealStream k n).1 := by
  unfold Dev.sealStream
  extract_lets _ _ _ _ _ _ _ _ d9 d10 d11
  have h9 : TablesOk d9 := tablesOk_ite (tablesOk_bump h) h
  have h10 : TablesOk d10 := tablesOk_modStr h9
  have h11 : TablesOk d11 := tablesOk_ite (tablesOk_history h10) h10
  split
  · exact h
  · split
    · split <;> exact h
    · exact tablesOk_ite (tablesOk_history h11) h11

theorem tablesOk_hubWrite (h : TablesOk d) {off : Nat} {bs : List Byte} : TablesOk (d.hubWrite off bs) :=
  tablesOk_fuWrite h

theorem tablesOk_stepEvent (h : TablesOk d) {who old new cause : Nat} : TablesOk (d.stepEvent who old new cause) :=
  tablesOk_ite (tablesOk_event h) (tablesOk_ite (tablesOk_event h) h)

theorem tablesOk_applySector (h : TablesOk d) {s new : Nat} : TablesOk (d.applySector s new) := by
  unfold Dev.applySector
  extract_lets _ _ d3
  have h3 : TablesOk d3 := tablesOk_modFus h
  exact tablesOk_stepEvent h3

theorem tablesOk_modUp (h : TablesOk d) {k : Nat} {f : Update → Update} : TablesOk (d.modUp k f) :=
  tablesOk_modFus h

theorem tablesOk_applyUpdate (h : TablesOk d) {k new cause : Nat} : TablesOk (d.applyUpdate k new cause) := by
  unfold Dev.applyUpdate
  extract_lets _ _ d3 d4 _
  have h3 : TablesOk d3 := tablesOk_stepEvent (tablesOk_modFus h)
  have h4 : TablesOk d4 := tablesOk_modUp h3
  exact tablesOk_setReg (tablesOk_setReg (tablesOk_setReg h4))

theorem tablesOk_evalSteps (h : TablesOk d) {u : Update} {g : List Byte} : TablesOk (d.evalSteps u g) := by
  unfold Dev.evalSteps
  extract_lets _ _ d3 d4 _ _ _
  have h3 : TablesOk d3 := by
    refine tablesOk_foldl (fun d x h8 => ?_) h
    split
    · exact tablesOk_event h8
    · exact h8
  have h4 : TablesOk d4 := tablesOk_foldl (fun _ _ h8 => tablesOk_applySector h8) h3
  exact tablesOk_ite (tablesOk_applyUpdate h4) (tablesOk_ite (tablesOk_applyUpdate h4) (tablesOk_ite
    (tablesOk_applyUpdate h4) (tablesOk_applyUpdate h4)))

theorem tablesOk_outHeader (h : TablesOk d) {kind slot field : Nat} {u : Option Update} :
    TablesOk (d.outHeader kind slot field u) := by
  unfold Dev.outHeader
  extract_lets _ d2 _ _
  have h2 : TablesOk d2 := tablesOk_modFus h
  exact tablesOk_ite h2 (tablesOk_fuWrite h2)

theorem tablesOk_releaseHeld (h : TablesOk d) {k : Nat} : TablesOk (d.releaseHeld k) := by
  unfold Dev.releaseHeld
  extract_lets _ d2
  have h2 : TablesOk d2 := tablesOk_foldl (fun _ _ h3 => tablesOk_outHeader h3) h
  exact tablesOk_modUp h2

theorem tablesOk_instar (h : TablesOk d) : TablesOk d.instar := by
  unfold Dev.instar
  extract_lets _ d2
  have h2 : TablesOk d2 := tablesOk_update h
  exact tablesOk_modFus h2

theorem tablesOk_advance (h : TablesOk d) {k : Nat} : TablesOk (d.advance k) := by
  unfold Dev.advance
  extract_lets d1
  have h1 : TablesOk d1 := tablesOk_modFus (tablesOk_modUp h)
  exact tablesOk_ite (tablesOk_event (tablesOk_modFus h1)) h1

theorem tablesOk_accept (h : TablesOk d) {kind slot k : Nat} : TablesOk (d.accept kind slot k) := by
  suffices body : ∀ f, f = @Dev.accept → TablesOk (f d kind slot k) from body _ rfl
  intro f hf
  delta Dev.accept at hf
  obtain ⟨fuRead, hr⟩ : ∃ p, p = @Dev.fuRead := ⟨_, rfl⟩
  rw [← hr] at hf
  subst hf
  beta_reduce
  extract_lets d1 u d2 d3
  have h1 : TablesOk d1 := tablesOk_ite h (tablesOk_modFus h)
  have h2 : TablesOk d2 := by
    refine tablesOk_ite h1 (tablesOk_modUp (tablesOk_evalSteps ?_))
    rw [hr]
    exact tablesOk_fuRead h1
  clear_value d1 d2 u
  split
  · exact tablesOk_releaseHeld (tablesOk_outHeader h2)
  · exact tablesOk_ite (tablesOk_advance (tablesOk_outHeader h1)) (tablesOk_outHeader h1)
  · exact tablesOk_outHeader h1
  · exact tablesOk_outHeader h1
  · exact tablesOk_ite (tablesOk_outHeader h1)
      (tablesOk_ite (tablesOk_modFus h1) (tablesOk_ite (tablesOk_outHeader h1) (tablesOk_modUp h1)))

theorem tablesOk_initState (h : TablesOk d) : TablesOk d.initState := by
  unfold Dev.initState
  extract_lets _ _
  exact tablesOk_ite h (tablesOk_ite (tablesOk_denyN h) (tablesOk_ite (tablesOk_denyN h) (tablesOk_copy h)))

theorem tablesOk_deadlineOf (h : TablesOk d) {u : Update} : TablesOk (d.deadlineOf u) := by
  unfold Dev.deadlineOf
  extract_lets d1 d2 d3 d4 d5
  have h1 : TablesOk d1 := tablesOk_modUp h
  have h2 : TablesOk d2 := tablesOk_ite h1 (tablesOk_applyUpdate h1)
  have h3 : TablesOk d3 := tablesOk_ite h2 (tablesOk_releaseHeld h2)
  have h4 : TablesOk d4 := tablesOk_modFus h3
  have h5 : TablesOk d5 := tablesOk_instar (tablesOk_initState h4)
  exact tablesOk_ite h3 (tablesOk_ite h4 (tablesOk_event (tablesOk_modFus h5)))

theorem tablesOk_trustAll (h : TablesOk d) : TablesOk d.trustAll := by
  unfold Dev.trustAll
  refine tablesOk_foldl (fun d x h1 => ?_) h
  extract_lets _
  exact tablesOk_ite h1 (tablesOk_event h1)

theorem tablesOk_instarBegin (h : TablesOk d) : TablesOk d.instarBegin := by
  unfold Dev.instarBegin
  extract_lets d1
  have h1 : TablesOk d1 := tablesOk_initState (tablesOk_modFus (tablesOk_trustAll h))
  exact tablesOk_instar h1

/-! ### Planner -/

theorem tablesOk_modPl (h : TablesOk d) {f : Planner → Planner} : TablesOk (d.modPl f) :=
  tablesOk_update h

theorem tablesOk_modCand (h : TablesOk d) {i : Nat} {f : Cand → Cand} : TablesOk (d.modCand i f) :=
  tablesOk_modPl h

theorem tablesOk_evPl (h : TablesOk d) {cls code : Nat} {detail : List Nat} : TablesOk (d.evPl cls code detail) :=
  tablesOk_evHub h

theorem tablesOk_writeResult (h : TablesOk d) {i : Nat} : TablesOk (d.writeResult i) := by
  suffices body : ∀ f, f = @Dev.writeResult → TablesOk (f d i) from body _ rfl
  intro f hf
  delta Dev.writeResult at hf
  subst hf
  beta_reduce
  extract_lets _
  exact tablesOk_fuWrite h

theorem tablesOk_rechoose (h : TablesOk d) : TablesOk d.rechoose := by
  unfold Dev.rechoose
  apply tablesOk_ite
  · exact h
  · split
    · exact tablesOk_ite h (tablesOk_modPl h)
    · exact tablesOk_modPl h

theorem tablesOk_recheckNow (h : TablesOk d) {i : Nat} : TablesOk (d.recheckNow i) :=
  tablesOk_ite h (tablesOk_modCand h)

theorem tablesOk_headRechecks (h : TablesOk d) : TablesOk d.headRechecks := by
  unfold Dev.headRechecks
  extract_lets _
  split
  · exact tablesOk_modPl h
  · extract_lets _
    exact tablesOk_modPl (tablesOk_foldl (fun _ _ h3 => tablesOk_recheckNow h3) h)

theorem tablesOk_fillLanes (h : TablesOk d) : TablesOk d.fillLanes := by
  unfold Dev.fillLanes
  refine tablesOk_foldl (fun d x h1 => ?_) h
  apply tablesOk_ite
  · exact h1
  · split
    · exact h1
    · exact tablesOk_modPl (tablesOk_modCand h1)

theorem tablesOk_deltaCheck (h : TablesOk d) {i : Nat} : TablesOk (d.deltaCheck i) :=
  tablesOk_bump (tablesOk_modCand h)

theorem tablesOk_deltaTest (h : TablesOk d) {i : Nat} : TablesOk (d.deltaTest i) :=
  tablesOk_ite (tablesOk_deltaCheck h) (tablesOk_writeResult (tablesOk_modCand h))

theorem tablesOk_deltaScan (h : TablesOk d) : TablesOk d.deltaScan := by
  unfold Dev.deltaScan
  refine tablesOk_foldl (fun d x h1 => ?_) h
  extract_lets _
  exact tablesOk_ite h1 (tablesOk_deltaTest h1)

theorem tablesOk_unfree (h : TablesOk d) {gen : Nat} : TablesOk (d.unfree gen) :=
  tablesOk_foldl (fun _ _ h1 => tablesOk_writeResult (tablesOk_modCand h1)) h

theorem tablesOk_badNode (h : TablesOk d) {gen node : Nat} : TablesOk (d.badNode gen node) :=
  tablesOk_ite h (tablesOk_evPl (tablesOk_unfree (tablesOk_modPl h)))

theorem tablesOk_runEyes (h : TablesOk d) : TablesOk d.runEyes.1 := by
  suffices body : ∀ f, f = @Dev.runEyes → TablesOk (f d).1 from body _ rfl
  intro f hf
  delta Dev.runEyes at hf
  obtain ⟨probe, hp⟩ : ∃ p, p = @Dev.probe := ⟨_, rfl⟩
  obtain ⟨eyespot, he⟩ : ∃ p, p = @Dev.eyespot := ⟨_, rfl⟩
  rw [← hp, ← he] at hf
  subst hf
  beta_reduce
  refine tablesOk_foldlPair (fun r i h1 => ?_) h
  extract_lets f _ d1 d2
  have h2 : TablesOk d1 := by
    unfold d1
    clear_value f
    split
    · exact tablesOk_badNode h1
    · exact h1
  have h3 : TablesOk d2 := by
    unfold d2
    clear_value f d1
    split
    · exact tablesOk_denyN h2
    · exact h2
  split
  · exact h3
  · exact tablesOk_bump (tablesOk_evPl (tablesOk_modPl h3))

theorem tablesOk_tickEyes (h : TablesOk d) : TablesOk d.tickEyes := by
  suffices body : ∀ f, f = @Dev.tickEyes → TablesOk (f d) from body _ rfl
  intro f hf
  delta Dev.tickEyes at hf
  subst hf
  beta_reduce
  extract_lets d1
  have h1 : TablesOk d1 := tablesOk_modPl h
  clear_value d1
  refine tablesOk_ite ?_ (tablesOk_modPl h1)
  have h2 := tablesOk_runEyes h1
  generalize d1.runEyes = r at h2 ⊢
  obtain ⟨d2, ok⟩ := r
  exact tablesOk_modPl h2

theorem tablesOk_mapReads (h : TablesOk d) {w : Nat} : TablesOk (d.mapReads w) := by
  unfold Dev.mapReads
  extract_lets _ _
  exact tablesOk_foldl (fun _ _ h3 => tablesOk_ite h3 (tablesOk_denyN h3)) h

theorem tablesOk_acceptMap (h : TablesOk d) {w : Nat} : TablesOk (d.acceptMap w) := by
  suffices body : ∀ f, f = @Dev.acceptMap → TablesOk (f d w) from body _ rfl
  intro f hf
  delta Dev.acceptMap at hf
  subst hf
  beta_reduce
  extract_lets _ _ d3
  have h3 : TablesOk d3 := tablesOk_modPl h
  split
  rename_i _ d4 _ e
  have h4 : TablesOk d4 := tablesOk_fst (tablesOk_runEyes h3) e
  extract_lets d5 d6
  have h5 : TablesOk d5 := tablesOk_modPl h4
  have h6 : TablesOk d6 := tablesOk_ite (tablesOk_deltaScan h5) h5
  exact tablesOk_rechoose (tablesOk_fillLanes h6)

theorem tablesOk_openSet (h : TablesOk d) {f : Nat} : TablesOk (d.openSet f) := by
  unfold Dev.openSet
  split
  rename_i _ _ d1 e
  have h1 : TablesOk d1 := tablesOk_snd (tablesOk_fresh h) e
  extract_lets d2
  have h2 : TablesOk d2 := tablesOk_modPl h1
  exact tablesOk_ite (tablesOk_zero h2) (tablesOk_denyN h2)

theorem tablesOk_choiceFailed (h : TablesOk d) {slot : Nat} : TablesOk (d.choiceFailed slot) := by
  unfold Dev.choiceFailed
  extract_lets d1
  have h1 : TablesOk d1 := tablesOk_rechoose (tablesOk_headRechecks (tablesOk_modPl h))
  exact tablesOk_evPl (tablesOk_bump h1)

theorem tablesOk_recordVerdict (h : TablesOk d) {l : InCheck} {v r hit : Nat} :
    TablesOk (d.recordVerdict l v r hit) := by
  unfold Dev.recordVerdict
  extract_lets _ d2 d3 d4
  have h2 : TablesOk d2 := tablesOk_modCand h
  have h3 : TablesOk d3 := tablesOk_bump h2
  have h4 : TablesOk d4 := tablesOk_ite (tablesOk_bump h3) h3
  exact tablesOk_writeResult h4

theorem tablesOk_lateTest (h : TablesOk d) {l : InCheck} : TablesOk (d.lateTest l) :=
  tablesOk_ite h (tablesOk_deltaTest h)

theorem tablesOk_checkChoice (h : TablesOk d) {slot v : Nat} : TablesOk (d.checkChoice slot v) :=
  tablesOk_ite (tablesOk_choiceFailed h) (tablesOk_modPl h)

theorem tablesOk_giveVerdict (h : TablesOk d) {l : InCheck} {x : Nat × Nat × Nat × Option Nat × Option (Nat × Nat)} :
    TablesOk (d.giveVerdict l x) := by
  unfold Dev.giveVerdict
  extract_lets d1 d2
  have h1 : TablesOk d1 := by
    unfold d1
    split
    · exact tablesOk_badNode h
    · exact h
  have h2 : TablesOk d2 := by
    unfold d2
    split
    · exact tablesOk_denyN h1
    · exact h1
  exact tablesOk_checkChoice (tablesOk_lateTest (tablesOk_recordVerdict h2))

theorem tablesOk_finishCheck (h : TablesOk d) {l : InCheck} : TablesOk (d.finishCheck l) :=
  tablesOk_giveVerdict h

theorem tablesOk_reportFrame (h : TablesOk d) {f cause mask gen : Nat} {cocoon : List Byte} :
    TablesOk (d.reportFrame f cause mask gen cocoon) := by
  unfold Dev.reportFrame
  extract_lets d1
  have h1 : TablesOk d1 := tablesOk_emit h
  exact tablesOk_update h1

theorem tablesOk_eyeCount (h : TablesOk d) : TablesOk d.eyeCount := by
  unfold Dev.eyeCount
  extract_lets _ d2
  have h2 : TablesOk d2 := tablesOk_modPl h
  exact tablesOk_ite (tablesOk_evPl h2) h2

theorem tablesOk_withhold (h : TablesOk d) {first : Nat} {causes : List Nat} : TablesOk (d.withhold first causes) := by
  unfold Dev.withhold
  extract_lets _ _ d3 d4
  have h3 : TablesOk d3 := tablesOk_bump (tablesOk_evPl h)
  have h4 : TablesOk d4 := tablesOk_setReg h3
  exact tablesOk_reportFrame (tablesOk_setReg h4)

theorem tablesOk_releaseChoice (h : TablesOk d) {c : Nat} : TablesOk (d.releaseChoice c) := by
  unfold Dev.releaseChoice
  extract_lets _ _ _ _ d5 d6
  have h5 : TablesOk d5 := tablesOk_modPl h
  have h6 : TablesOk d6 := tablesOk_setReg (tablesOk_setReg h5)
  exact tablesOk_reportFrame h6

theorem tablesOk_cutoff (h : TablesOk d) : TablesOk d.cutoff := by
  unfold Dev.cutoff
  extract_lets d1 d2 d3
  have h1 : TablesOk d1 := tablesOk_eyeCount h
  have h2 : TablesOk d2 := tablesOk_bump h1
  have h3 : TablesOk d3 := by
    unfold d3
    split
    · exact tablesOk_releaseChoice h2
    · exact h2
    · exact tablesOk_withhold h2
  exact tablesOk_modPl h3

/-! ### Islands -/

theorem tablesOk_clearCauses (h : TablesOk d) {i : Isl} : TablesOk (d.clearCauses i) := by
  unfold Dev.clearCauses
  extract_lets _
  exact tablesOk_modIsl h

theorem tablesOk_revoteOne (h : TablesOk d) {i : Isl} : TablesOk (d.revoteOne i) := by
  unfold Dev.revoteOne
  extract_lets _ d2 _ d4 _
  have h2 : TablesOk d2 := tablesOk_ite (tablesOk_clearCauses h) h
  have h4 : TablesOk d4 := tablesOk_modIsl h2
  exact tablesOk_ite (tablesOk_evIsl (tablesOk_update h4)) h4

theorem tablesOk_revote (h : TablesOk d) : TablesOk d.revote :=
  tablesOk_revoteOne (tablesOk_revoteOne h)

theorem tablesOk_islReq (h : TablesOk d) {i : Isl} {cause : Nat} : TablesOk (d.islReq i cause) :=
  tablesOk_ite h (tablesOk_revoteOne (tablesOk_modIsl (tablesOk_askSafe h)))

theorem tablesOk_enableVote (h : TablesOk d) : TablesOk d.enableVote := by
  unfold Dev.enableVote
  extract_lets d1 _ d3
  have h1 : TablesOk d1 := tablesOk_revote h
  have h3 : TablesOk d3 := tablesOk_update h1
  exact tablesOk_ite (tablesOk_evIsl h3) h1

theorem tablesOk_halt (h : TablesOk d) : TablesOk d.halt := by
  unfold Dev.halt
  extract_lets _ d2 d3 _
  have h2 : TablesOk d2 := tablesOk_ite (tablesOk_evIsl h) h
  have h3 : TablesOk d3 := tablesOk_ite (tablesOk_evIsl h2) h2
  exact tablesOk_revote (tablesOk_update h3)

theorem tablesOk_lowerFirst (h : TablesOk d) : TablesOk d.lowerFirst :=
  tablesOk_foldl (fun _ _ h1 => tablesOk_dropBeats h1) h

theorem tablesOk_commitSafe (h : TablesOk d) {i : Isl} {cause who : Nat} : TablesOk (d.commitSafe i cause who) := by
  unfold Dev.commitSafe
  extract_lets d1 d2 d3 _ d5
  have h1 : TablesOk d1 := tablesOk_evIsl (tablesOk_lowerFirst h)
  have h2 : TablesOk d2 := tablesOk_emit (tablesOk_modIsl h1)
  have h3 : TablesOk d3 := tablesOk_modIsl h2
  have h5 : TablesOk d5 := tablesOk_ite h3 (tablesOk_update h3)
  exact tablesOk_ite (tablesOk_halt h5) (tablesOk_revote h5)

theorem tablesOk_shedAll (h : TablesOk d) : TablesOk d.shedAll := by
  unfold Dev.shedAll
  refine tablesOk_foldl (fun d x h1 => ?_) h
  extract_lets _
  exact tablesOk_ite (tablesOk_disStart (tablesOk_modPart h1)) h1

theorem tablesOk_unshedAll (h : TablesOk d) : TablesOk d.unshedAll := by
  unfold Dev.unshedAll
  refine tablesOk_foldl (fun d x h1 => ?_) h
  extract_lets _ _ d4
  have h4 : TablesOk d4 := tablesOk_modPart h1
  exact tablesOk_ite (tablesOk_ite (tablesOk_modPart h4) (tablesOk_ite (tablesOk_disStart (tablesOk_modPart h4)) h4)) h1

theorem tablesOk_shedLoad (h : TablesOk d) {old : Nat} : TablesOk (d.shedLoad old) := by
  unfold Dev.shedLoad
  extract_lets _
  exact tablesOk_ite (tablesOk_shedAll h) (tablesOk_ite (tablesOk_unshedAll h) h)

theorem tablesOk_reducePart (h : TablesOk d) {p : Nat} : TablesOk (d.reducePart p) :=
  tablesOk_disStart (tablesOk_modPart h)

theorem tablesOk_unreducePart (h : TablesOk d) {p : Nat} : TablesOk (d.unreducePart p) := by
  unfold Dev.unreducePart
  extract_lets d1 _
  have h1 : TablesOk d1 := tablesOk_modPart h
  exact tablesOk_update h1

theorem tablesOk_reduceTick (h : TablesOk d) : TablesOk d.reduceTick := by
  unfold Dev.reduceTick
  extract_lets _
  refine tablesOk_foldl (fun d x h2 => ?_) h
  extract_lets _
  exact tablesOk_ite h2 (tablesOk_ite (tablesOk_reducePart h2) (tablesOk_unreducePart h2))

theorem tablesOk_stepEval (h : TablesOk d) {i : Isl} : TablesOk (d.stepEval i) := by
  unfold Dev.stepEval
  extract_lets _ _ _ _ d5 d6 d7
  have h5 : TablesOk d5 := tablesOk_modIsl h
  have h6 : TablesOk d6 := tablesOk_ite (tablesOk_evIsl h5) (tablesOk_evIsl h5)
  have h7 : TablesOk d7 := tablesOk_ite (tablesOk_islReq h6) h6
  exact tablesOk_ite h (tablesOk_revoteOne (tablesOk_shedLoad h7))

theorem tablesOk_playStart (h : TablesOk d) {i : Isl} {f reason : Nat} : TablesOk (d.playStart i f reason) :=
  tablesOk_ite h (tablesOk_evIsl (tablesOk_modIsl h))

theorem tablesOk_playEnd (h : TablesOk d) {i : Isl} {f : Nat} : TablesOk (d.playEnd i f) := by
  unfold Dev.playEnd
  extract_lets _
  exact tablesOk_ite h (tablesOk_evIsl (tablesOk_modPl (tablesOk_modIsl h)))

theorem tablesOk_playCount (h : TablesOk d) {i : Isl} : TablesOk (d.playCount i) := by
  unfold Dev.playCount
  extract_lets _ _ d3
  have h3 : TablesOk d3 := tablesOk_modIsl h
  exact tablesOk_ite h (tablesOk_ite (tablesOk_islReq h3) h3)

theorem tablesOk_playLate (h : TablesOk d) {i : Isl} {f : Nat} : TablesOk (d.playLate i f) :=
  tablesOk_ite h (tablesOk_playCount (tablesOk_playStart h))

theorem tablesOk_feedCount (h : TablesOk d) {i : Isl} {bad : Bool} : TablesOk (d.feedCount i bad) := by
  unfold Dev.feedCount
  extract_lets _ d2
  have h2 : TablesOk d2 := tablesOk_modIsl h
  exact tablesOk_ite (tablesOk_islReq h2) h2

theorem tablesOk_judge (h : TablesOk d) {i : Isl} {f : Nat} : TablesOk (d.judge i f) := by
  unfold Dev.judge
  extract_lets _ d2
  have h2 : TablesOk d2 := tablesOk_modIsl h
  exact tablesOk_ite (tablesOk_ite (tablesOk_playEnd h2) h2) (tablesOk_ite (tablesOk_ite h (tablesOk_playStart h))
    (tablesOk_ite (tablesOk_modIsl h) (tablesOk_playStart h)))

theorem tablesOk_askCocoon (h : TablesOk d) {i : Isl} {f : Nat} : TablesOk (d.askCocoon i f) :=
  tablesOk_emit (tablesOk_modIsl h)

theorem tablesOk_exchange (h : TablesOk d) {i : Isl} {x : Option Heartbeat} : TablesOk (d.exchange i x) := by
  unfold Dev.exchange
  extract_lets _ _ _ _ d5
  have h5 : TablesOk d5 := tablesOk_ite (tablesOk_modIsl h) h
  apply tablesOk_ite
  · exact h
  · apply tablesOk_ite
    · exact tablesOk_ite (tablesOk_askCocoon h) (tablesOk_playLate (tablesOk_modIsl h))
    · split
      · exact h
      · exact tablesOk_ite (tablesOk_askCocoon h) (tablesOk_ite (tablesOk_islReq h5) h)

theorem tablesOk_latentNow (h : TablesOk d) : TablesOk d.latentNow := by
  unfold Dev.latentNow
  extract_lets _ _ _
  exact tablesOk_update h

theorem tablesOk_checkpoint (h : TablesOk d) {b : Nat} : TablesOk (d.checkpoint b) := by
  unfold Dev.checkpoint
  split
  · exact h
  · exact tablesOk_store h

theorem tablesOk_openTest (h : TablesOk d) {b addr : Nat} : TablesOk (d.openTest b addr) := by
  unfold Dev.openTest
  extract_lets _ _
  exact tablesOk_modBlk h

theorem tablesOk_mirrorIslands (h : TablesOk d) : TablesOk d.mirrorIslands := by
  unfold Dev.mirrorIslands
  extract_lets _ _ _
  exact tablesOk_update h

/-! ### Reset -/

theorem tablesOk_holdover (h : TablesOk d) : TablesOk d.holdover := by
  unfold Dev.holdover
  extract_lets _
  exact tablesOk_ite (tablesOk_evFloor (tablesOk_setFld h)) h

theorem tablesOk_computeReset (h : TablesOk d) : TablesOk d.computeReset := by
  have h1 : TablesOk d.lowerFirst.holdover := tablesOk_holdover (tablesOk_lowerFirst h)
  exact ⟨twf_filter _ h1.1, rfl⟩

theorem tablesOk_assertReset (h : TablesOk d) : TablesOk d.assertReset :=
  tablesOk_ite h (tablesOk_revote (tablesOk_computeReset h))

theorem tablesOk_recoveryFails (h : TablesOk d) : TablesOk d.recoveryFails := by
  unfold Dev.recoveryFails
  extract_lets d1 d2 _ d4
  have h1 : TablesOk d1 := tablesOk_update h
  have h2 : TablesOk d2 := tablesOk_revote (tablesOk_computeReset h1)
  have h4 : TablesOk d4 := tablesOk_update h2
  exact tablesOk_ite (tablesOk_halt h4) h4

theorem tablesOk_recoveryLate (h : TablesOk d) {step : Nat} : TablesOk (d.recoveryLate step) := by
  unfold Dev.recoveryLate
  extract_lets _ d2 d3
  have h2 : TablesOk d2 := tablesOk_ite (tablesOk_evIsl h) h
  have h3 : TablesOk d3 := tablesOk_ite (tablesOk_evIsl h2) h2
  exact tablesOk_recoveryFails h3

/-! ### Thermal -/

theorem tablesOk_flagRecords (h : TablesOk d) : TablesOk d.flagRecords := by
  unfold Dev.flagRecords
  extract_lets _
  refine tablesOk_foldl (fun d x h2 => ?_) h
  extract_lets _ _ d5
  have h5 : TablesOk d5 := tablesOk_update h2
  exact tablesOk_ite (tablesOk_evFloor h5) h2

theorem tablesOk_ownRaise (h : TablesOk d) {i : Isl} {n : Nat} : TablesOk (d.ownRaise i n) :=
  tablesOk_ite h (tablesOk_stepEval (tablesOk_modIsl h))

theorem tablesOk_junction (h : TablesOk d) {i : Isl} : TablesOk (d.junction i) :=
  tablesOk_ite (tablesOk_islReq (tablesOk_ownRaise h)) h

theorem tablesOk_sudden (h : TablesOk d) {i : Isl} : TablesOk (d.sudden i) := by
  unfold Dev.sudden
  extract_lets _
  split
  · exact tablesOk_ite h (tablesOk_islReq (tablesOk_evIsl h))
  · exact h

theorem tablesOk_islandHot (h : TablesOk d) {i : Isl} : TablesOk (d.islandHot i) := by
  unfold Dev.islandHot
  extract_lets _ _
  exact tablesOk_ite (tablesOk_evIsl (tablesOk_modIsl h)) h

theorem tablesOk_islandSense (h : TablesOk d) {i : Isl} {ok : Bool} {tin tout : Int} :
    TablesOk (d.islandSense i ok tin tout) := by
  unfold Dev.islandSense
  extract_lets d1 _ _ d4 d5 _ d7
  have h1 : TablesOk d1 := tablesOk_modIsl h
  have h4 : TablesOk d4 := tablesOk_modIsl h1
  have h5 : TablesOk d5 := tablesOk_islandHot (tablesOk_sudden (tablesOk_junction h4))
  have h7 : TablesOk d7 := tablesOk_modIsl h5
  exact tablesOk_ite h (tablesOk_ite h1 (tablesOk_ite (tablesOk_islReq h7) h7))

theorem tablesOk_coreCurrent (h : TablesOk d) {amps : Nat} : TablesOk (d.coreCurrent amps) := by
  unfold Dev.coreCurrent
  extract_lets _ _ _ d4 _
  have h4 : TablesOk d4 := tablesOk_update h
  exact tablesOk_ite (tablesOk_evFloor (tablesOk_update h4)) h4

theorem tablesOk_power (h : TablesOk d) {rails : List (Nat × Nat)} : TablesOk (d.power rails) := by
  unfold Dev.power
  extract_lets _ _ d3 d4
  have h3 : TablesOk d3 := tablesOk_update h
  have h4 : TablesOk d4 := tablesOk_setFld h3
  exact tablesOk_coreCurrent h4

theorem tablesOk_sense (h : TablesOk d) {inp : TickIn} : TablesOk (d.sense inp) := by
  unfold Dev.sense
  extract_lets _ d2 _ d4 d5 _
  have h2 : TablesOk d2 := tablesOk_update h
  have h4 : TablesOk d4 := tablesOk_update h2
  have h5 : TablesOk d5 := tablesOk_power (tablesOk_flagRecords h4)
  exact tablesOk_islandSense (tablesOk_islandSense h5)

theorem tablesOk_powerEpoch (h : TablesOk d) : TablesOk d.powerEpoch := by
  unfold Dev.powerEpoch
  extract_lets _ _ _ d4
  have h4 : TablesOk d4 := tablesOk_update h
  exact tablesOk_ite (tablesOk_evFloor h4) h4

theorem tablesOk_thermalEpoch (h : TablesOk d) {i : Isl} : TablesOk (d.thermalEpoch i) := by
  unfold Dev.thermalEpoch
  extract_lets d1 _ _
  have h1 : TablesOk d1 := tablesOk_modIsl h
  exact tablesOk_ite h (tablesOk_ite (tablesOk_ownRaise h1) (tablesOk_ite (tablesOk_modIsl h1) (tablesOk_ite
    (tablesOk_modIsl h1) (tablesOk_stepEval (tablesOk_modIsl h1)))))

theorem tablesOk_life (h : TablesOk d) {i : Isl} : TablesOk (d.life i) := by
  unfold Dev.life
  extract_lets _ d2 _ _ _ d6 d7
  have h2 : TablesOk d2 := tablesOk_modIsl h
  have h6 : TablesOk d6 := tablesOk_modIsl h2
  have h7 : TablesOk d7 := tablesOk_ite (tablesOk_evIsl h6) h6
  exact tablesOk_ite h (tablesOk_ite (tablesOk_evIsl h7) h7)

/-! ### Hang -/

theorem tablesOk_watchAll (h : TablesOk d) {prog : List WatchUnit} : TablesOk (d.watchAll prog) := by
  unfold Dev.watchAll
  refine tablesOk_foldl (fun d x h1 => ?_) h
  extract_lets _ _ _
  exact tablesOk_modBlk h1

theorem tablesOk_watchUnits (h : TablesOk d) {t : Nat} : TablesOk (d.watchUnits t) := by
  unfold Dev.watchUnits
  extract_lets _ _
  exact tablesOk_modTile h

theorem tablesOk_interrupt (h : TablesOk d) {b : Nat} : TablesOk (d.interrupt b) := by
  unfold Dev.interrupt
  extract_lets _
  refine tablesOk_foldl (fun d x h2 => ?_) h
  extract_lets d3
  have h3 : TablesOk d3 := tablesOk_modOp h2
  exact tablesOk_ite h3 (tablesOk_ite (tablesOk_settle h3) (tablesOk_modOp h3))

theorem tablesOk_resetBlock (h : TablesOk d) {b : Nat} : TablesOk (d.resetBlock b) := by
  unfold Dev.resetBlock
  extract_lets d1 d2 d3
  have h1 : TablesOk d1 := tablesOk_interrupt (tablesOk_dropBeats h)
  have h2 : TablesOk d2 := tablesOk_unwait (tablesOk_foldl (fun _ _ h4 => tablesOk_freeArb (tablesOk_dropArb h4)) h1)
  have h3 : TablesOk d3 := tablesOk_modBlk h2
  exact tablesOk_zero h3

theorem tablesOk_cancelInto (h : TablesOk d) {inside : Nat → Bool} : TablesOk (d.cancelInto inside) := by
  unfold Dev.cancelInto
  extract_lets _ _
  exact tablesOk_sweepAll (tablesOk_foldl (fun _ _ h3 => tablesOk_ite (tablesOk_endOp h3) (tablesOk_finish h3)) h)

theorem tablesOk_restartStatic (h : TablesOk d) {b : Nat} : TablesOk (d.restartStatic b) := by
  unfold Dev.restartStatic
  split
  · exact h
  · exact tablesOk_startThreads h

theorem tablesOk_resumeBlk (h : TablesOk d) {b : Nat} : TablesOk (d.resumeBlk b) := by
  unfold Dev.resumeBlk
  extract_lets _ d2
  have h2 : TablesOk d2 := tablesOk_modBlk h
  exact tablesOk_ite (tablesOk_restartStatic h2) h2

theorem tablesOk_staticHangs (h : TablesOk d) {t b : Nat} {cs : List Nat} : TablesOk (d.staticHangs t b cs) := by
  unfold Dev.staticHangs
  extract_lets _
  refine tablesOk_foldl (fun d x h2 => ?_) h
  extract_lets _ d4
  have h4 : TablesOk d4 := tablesOk_modTile h2
  exact tablesOk_ite (tablesOk_evBlk (tablesOk_modTile h4)) h4

theorem tablesOk_unexplained (h : TablesOk d) {b : Nat} : TablesOk (d.unexplained b) := by
  unfold Dev.unexplained
  extract_lets _ _ d3
  have h3 : TablesOk d3 := tablesOk_modBlk h
  exact tablesOk_ite (tablesOk_retireReq (tablesOk_evBlk h3)) h3

theorem tablesOk_replayEnd (h : TablesOk d) {t : Nat} : TablesOk (d.replayEnd t) := by
  unfold Dev.replayEnd
  extract_lets _ d2
  have h2 : TablesOk d2 := tablesOk_modTile h
  split
  · exact h2
  · extract_lets d3
    have h3 : TablesOk d3 := tablesOk_ite (tablesOk_evBlk h2) h2
    exact tablesOk_ite h3 (tablesOk_foldl (fun _ _ h4 => tablesOk_unexplained h4) h3)

theorem tablesOk_nextSuspect (h : TablesOk d) {t : Nat} : TablesOk (d.nextSuspect t) := by
  unfold Dev.nextSuspect
  split
  · refine tablesOk_foldl (fun d _ h1 => ?_) (tablesOk_modTile h)
    cases e : d.replayOne t with
    | none => exact h1
    | some d2 => exact tablesOk_replayOne h1 e
  · exact tablesOk_replayEnd h

theorem tablesOk_quarantine (h : TablesOk d) {t c b : Nat} : TablesOk (d.quarantine t c b) := by
  unfold Dev.quarantine
  extract_lets _ d2 d3 d4 d5 _ _
  have h2 : TablesOk d2 := tablesOk_sweepAll (tablesOk_foldl (fun _ _ h8 => tablesOk_finish h8) h)
  have h3 : TablesOk d3 := tablesOk_foldl (fun _ _ h8 => tablesOk_qSetState h8) h2
  have h4 : TablesOk d4 := tablesOk_modTile (tablesOk_closePools (tablesOk_modCtx h3))
  have h5 : TablesOk d5 := tablesOk_bump h4
  exact tablesOk_disCheck (tablesOk_update h5)

theorem tablesOk_regionReset (h : TablesOk d) {t : Nat} {bs : List Nat} : TablesOk (d.regionReset t bs) := by
  unfold Dev.regionReset
  extract_lets _ _ _ _ _ d6 d7 _ d9 d10 d11 d12
  have h6 : TablesOk d6 := tablesOk_evBlk (tablesOk_foldl (fun _ _ h13 => tablesOk_dropBeats h13) h)
  have h7 : TablesOk d7 := tablesOk_modBlk h6
  have h9 : TablesOk d9 := tablesOk_modTile h7
  have h10 : TablesOk d10 := tablesOk_foldl (fun _ _ h13 => tablesOk_staticHangs h13) (tablesOk_bump h9)
  have h11 : TablesOk d11 := tablesOk_ite (tablesOk_event h10) h10
  have h12 : TablesOk d12 := tablesOk_foldl (fun _ _ h13 => tablesOk_resetBlock h13) h11
  exact tablesOk_cancelInto h12

theorem tablesOk_corruptAt (h : TablesOk d) {t : Nat} {corrupt : List (Fin 36)} : TablesOk (d.corruptAt t corrupt) :=
  tablesOk_foldl (fun _ _ h1 => tablesOk_modBlk h1) h

theorem tablesOk_resetFails (h : TablesOk d) {t reason : Nat} : TablesOk (d.resetFails t reason) :=
  tablesOk_ite h (tablesOk_event (tablesOk_modTile h))

theorem tablesOk_replayOn (h : TablesOk d) {t : Nat} : TablesOk (d.replayOn t) := by
  unfold Dev.replayOn
  extract_lets _ _
  exact tablesOk_ite (tablesOk_nextSuspect h) h

theorem tablesOk_blockBack (h : TablesOk d) {t b : Nat} : TablesOk (d.blockBack t b) :=
  tablesOk_replayOn (tablesOk_resumeBlk (tablesOk_modTile h))

theorem tablesOk_blockReset (h : TablesOk d) {t b : Nat} : TablesOk (d.blockReset t b) := by
  unfold Dev.blockReset
  extract_lets _ _ _ _ _ _ _ _ _ d10 d11 d12 d13 d14 d15 d16
  have h10 : TablesOk d10 := tablesOk_evBlk (tablesOk_dropBeats h)
  have h11 : TablesOk d11 := tablesOk_modBlk h10
  have h12 : TablesOk d12 := tablesOk_staticHangs (tablesOk_bump h11)
  have h13 : TablesOk d13 := by
    unfold d13
    split
    · cases List.find? _ _ with
      | none => exact h12
      | some e => exact tablesOk_arbNeither h12
    · exact h12
  have h14 : TablesOk d14 := tablesOk_resetBlock h13
  have h15 : TablesOk d15 := tablesOk_cancelInto h14
  have h16 : TablesOk d16 := tablesOk_foldl (fun _ _ h17 => tablesOk_quarantine h17) h15
  exact tablesOk_modTile h16

/-! ### Dram -/

theorem tablesOk_modRank (h : TablesOk d) {r : Nat} {f : Rank → Rank} : TablesOk (d.modRank r f) :=
  tablesOk_update h

theorem tablesOk_modChan (h : TablesOk d) {k : Nat} {f : Chan → Chan} : TablesOk (d.modChan k f) :=
  tablesOk_update h

theorem tablesOk_evMig (h : TablesOk d) {cls code : Nat} {detail : List Nat} : TablesOk (d.evMig cls code detail) :=
  tablesOk_event h

theorem tablesOk_spareReq (h : TablesOk d) {r cause : Nat} : TablesOk (d.spareReq r cause) :=
  tablesOk_ite h (tablesOk_update h)

theorem tablesOk_markPage (h : TablesOk d) {r page : Nat} : TablesOk (d.markPage r page) :=
  tablesOk_modChan h

theorem tablesOk_chanServes (h : TablesOk d) {k : Nat} : TablesOk (d.chanServes k) :=
  tablesOk_modChan h

theorem tablesOk_queueWrite (h : TablesOk d) {a : Nat} : TablesOk (d.queueWrite a) := by
  suffices body : ∀ f, f = @Dev.queueWrite → TablesOk (f d a) from body _ rfl
  intro f hf
  delta Dev.queueWrite at hf
  subst hf
  beta_reduce
  split
  · exact h
  · extract_lets d1
    have h1 : TablesOk d1 := tablesOk_chanServes h
    exact tablesOk_modChan h1

theorem tablesOk_writeBack (h : TablesOk d) {a : Nat} : TablesOk (d.writeBack a) := by
  suffices body : ∀ f, f = @Dev.writeBack → TablesOk (f d a) from body _ rfl
  intro f hf
  delta Dev.writeBack at hf
  subst hf
  beta_reduce
  split
  · exact tablesOk_ite h (tablesOk_queueWrite h)
  · exact h

theorem tablesOk_dramCorrected (h : TablesOk d) {a n symbol : Nat} : TablesOk (d.dramCorrected a n symbol) := by
  suffices body : ∀ f, f = @Dev.dramCorrected → TablesOk (f d a n symbol) from body _ rfl
  intro f hf
  delta Dev.dramCorrected at hf
  obtain ⟨locate, hl⟩ : ∃ p, p = @Dev.locate := ⟨_, rfl⟩
  rw [← hl] at hf
  subst hf
  beta_reduce
  generalize locate d a = x
  split
  · exact h
  · extract_lets d1 d2 d3 _ _ _ d7 d8 _ d10
    have h1 : TablesOk d1 := tablesOk_writeBack h
    have h2 : TablesOk d2 := tablesOk_setReg (tablesOk_setReg h1)
    have h3 : TablesOk d3 := tablesOk_evChan h2
    have h7 : TablesOk d7 := tablesOk_modRank h3
    have h8 : TablesOk d8 := tablesOk_ite h3 (tablesOk_ite (tablesOk_spareReq h7) h7)
    have h10 : TablesOk d10 := tablesOk_modChan h8
    exact tablesOk_ite (tablesOk_markPage h10) h10

theorem tablesOk_kvLost (h : TablesOk d) {a : Nat} : TablesOk (d.kvLost a) := by
  unfold Dev.kvLost
  refine tablesOk_foldl (fun d x h1 => ?_) h
  extract_lets _ _ d4
  have h4 : TablesOk d4 := tablesOk_ite h1 (tablesOk_modInst h1)
  exact tablesOk_ite (tablesOk_foldl (fun _ _ h5 => tablesOk_ite (tablesOk_modPfx (tablesOk_kvPush h5))
    (tablesOk_modPfx h5)) h4) h1

theorem tablesOk_accessEnds (h : TablesOk d) {token : Option Nat} {st : Nat} : TablesOk (d.accessEnds token st) := by
  unfold Dev.accessEnds
  split
  · exact tablesOk_ite h (tablesOk_endOp h)
  · exact h

theorem tablesOk_listPoison (h : TablesOk d) {g : Nat} : TablesOk (d.listPoison g) :=
  tablesOk_ite h (tablesOk_ite (tablesOk_update h) (tablesOk_update h))

theorem tablesOk_dramLost (h : TablesOk d) {a : Nat} {token : Option Nat} : TablesOk (d.dramLost a token) := by
  suffices body : ∀ f, f = @Dev.dramLost → TablesOk (f d a token) from body _ rfl
  intro f hf
  delta Dev.dramLost at hf
  subst hf
  beta_reduce
  split
  · exact h
  · split
    rename_i _ _ d1 e
    have h1 : TablesOk d1 := tablesOk_snd (tablesOk_fresh h) e
    extract_lets d2 d3 d4 d5
    have h2 : TablesOk d2 := tablesOk_setReg (tablesOk_setReg h1)
    have h3 : TablesOk d3 := tablesOk_modRank h2
    have h4 : TablesOk d4 := tablesOk_writeBack (tablesOk_listPoison (tablesOk_setPoison (tablesOk_zero h3)))
    have h5 : TablesOk d5 := tablesOk_evChan h4
    exact tablesOk_accessEnds (tablesOk_spareReq (tablesOk_kvLost h5))

theorem tablesOk_putSet (h : TablesOk d) {g : Nat} {l : List Line} : TablesOk (d.putSet g l) :=
  tablesOk_update h

theorem tablesOk_evictLine (h : TablesOk d) {l : Line} : TablesOk (d.evictLine l) :=
  tablesOk_ite (tablesOk_writeBack h) (tablesOk_ite (tablesOk_setPoison h) h)

theorem tablesOk_allocLine (h : TablesOk d) {part label g : Nat} {dirty : Bool} :
    TablesOk (d.allocLine part label g dirty) := by
  unfold Dev.allocLine
  extract_lets _ _ _
  apply tablesOk_ite
  · exact h
  · split
    · exact tablesOk_putSet h
    · split
      · exact tablesOk_putSet (tablesOk_evictLine h)
      · exact h

theorem tablesOk_cacheEcc (h : TablesOk d) {bad : Nat} {token : Option Nat} {l : Line} :
    TablesOk (d.cacheEcc bad token l).1 := by
  unfold Dev.cacheEcc
  extract_lets _ d2 _ d4 d5 _
  have h2 : TablesOk d2 := tablesOk_kvLost (tablesOk_event (tablesOk_bump h))
  have h4 : TablesOk d4 := tablesOk_setPoison h2
  have h5 : TablesOk d5 := tablesOk_ite (tablesOk_listPoison h4) h4
  split
  · exact h
  · split
    · exact tablesOk_event (tablesOk_bump h)
    · exact tablesOk_accessEnds (tablesOk_putSet h5)

theorem tablesOk_dramDeny (h : TablesOk d) {r : DramReq} {tgt : Nat} {r26 : Bool} : TablesOk (d.dramDeny r tgt r26) :=
  tablesOk_accessEnds (tablesOk_deny h)

theorem tablesOk_dramAdmit (h : TablesOk d) {r : DramReq} : TablesOk (d.dramAdmit r).1 := by
  unfold Dev.dramAdmit
  dsimp only
  split
  · exact tablesOk_dramDeny h
  · split
    · exact tablesOk_dramDeny h
    · exact h

theorem tablesOk_miscorrect (h : TablesOk d) {a : DramAcc} : TablesOk (d.miscorrect a) := by
  unfold Dev.miscorrect
  extract_lets _
  exact tablesOk_ite (tablesOk_wr (tablesOk_fresh (tablesOk_ite (tablesOk_wr (tablesOk_fresh h)) h))) (tablesOk_ite
    (tablesOk_wr (tablesOk_fresh h)) h)

theorem tablesOk_dramFetch (h : TablesOk d) {a : DramAcc} {token : Option Nat} : TablesOk (d.dramFetch a token).1 := by
  unfold Dev.dramFetch
  extract_lets _ d2
  have h2 : TablesOk d2 := tablesOk_miscorrect h
  split
  · exact tablesOk_dramLost h
  · split
    · exact h2
    · exact tablesOk_dramCorrected h2

theorem tablesOk_rawWait (h : TablesOk d) {k sub g : Nat} : TablesOk (d.rawWait k sub g) := by
  unfold Dev.rawWait
  extract_lets _
  split
  · exact h
  · extract_lets _
    exact tablesOk_modChan (tablesOk_bump h)

theorem tablesOk_dramGet (h : TablesOk d) {r : DramReq} : TablesOk (d.dramGet r) := by
  suffices body : ∀ f, f = @Dev.dramGet → TablesOk (f d r) from body _ rfl
  intro f hf
  delta Dev.dramGet at hf
  obtain ⟨keyGone, hk⟩ : ∃ p, p = @Dev.keyGone := ⟨_, rfl⟩
  obtain ⟨locate, hl⟩ : ∃ p, p = @Dev.locate := ⟨_, rfl⟩
  rw [← hk, ← hl] at hf
  subst hf
  beta_reduce
  extract_lets a token
  have h1 := tablesOk_dramAdmit h (r := r)
  generalize d.dramAdmit r = x at h1 ⊢
  obtain ⟨d1, ok⟩ := x
  cases ok with
  | false => exact h1
  | true =>
    dsimp only at h1 ⊢
    generalize keyGone d1 a.addr 1 = gone
    cases gone with
    | some g => exact tablesOk_accessEnds (tablesOk_keyEvent h1)
    | none =>
      dsimp only
      generalize List.find? _ _ = line
      cases line with
      | some l =>
        dsimp only
        have h2 := tablesOk_cacheEcc h1 (bad := a.cacheBad) (token := token) (l := l)
        generalize d1.cacheEcc a.cacheBad token l = y at h2 ⊢
        obtain ⟨d2, bad⟩ := y
        cases bad with
        | true => exact h2
        | false => exact tablesOk_putSet h2
      | none =>
        dsimp only
        generalize locate d1 a.addr = at_
        split
        · exact h1
        · exact tablesOk_allocLine (tablesOk_dramFetch (tablesOk_rawWait (tablesOk_chanServes h1)))

theorem tablesOk_dramPut (h : TablesOk d) {r : DramReq} {w : DramData} : TablesOk (d.dramPut r w) := by
  suffices body : ∀ f, f = @Dev.dramPut → TablesOk (f d r w) from body _ rfl
  intro f hf
  delta Dev.dramPut at hf
  subst hf
  beta_reduce
  extract_lets a token
  have h1 := tablesOk_dramAdmit h (r := r)
  generalize d.dramAdmit r = x at h1 ⊢
  obtain ⟨d1, ok⟩ := x
  cases ok with
  | false => exact h1
  | true =>
    dsimp only at h1 ⊢
    generalize List.find? _ _ = hit
    cases hit with
    | some l => exact tablesOk_putSet (tablesOk_listPoison (tablesOk_storeAs (tablesOk_ite h1 (tablesOk_cacheEcc h1))))
    | none =>
      exact tablesOk_allocLine (tablesOk_queueWrite
        (tablesOk_listPoison (tablesOk_storeAs (tablesOk_ite h1 (tablesOk_dramFetch h1)))))

theorem tablesOk_serveReq (h : TablesOk d) {r : DramReq} : TablesOk (d.serveReq r) := by
  unfold Dev.serveReq
  split
  · exact tablesOk_dramPut h
  · exact tablesOk_dramGet h

theorem tablesOk_issueReq (h : TablesOk d) {r : DramReq} : TablesOk (d.issueReq r) :=
  tablesOk_ite (tablesOk_modChan h) (tablesOk_serveReq h)

theorem tablesOk_chanGoes (h : TablesOk d) {k : Nat} : TablesOk (d.chanGoes k) :=
  tablesOk_foldl (fun _ _ h1 => tablesOk_serveReq h1) (tablesOk_ite h (tablesOk_modChan h))

theorem tablesOk_release (h : TablesOk d) {k : Nat} : TablesOk (d.release k) := by
  unfold Dev.release
  extract_lets _ _ _
  split
  · exact h
  · exact tablesOk_ite (tablesOk_dramDeny (tablesOk_update h)) (tablesOk_ite (tablesOk_issueReq (tablesOk_update h)) h)

theorem tablesOk_evHost (h : TablesOk d) {cls code : Nat} {detail : List Nat} : TablesOk (d.evHost cls code detail) :=
  tablesOk_event h

theorem tablesOk_complete (h : TablesOk d) {status : Nat} {data : List Byte} {ep : Bool} :
    TablesOk (d.complete status data ep) :=
  tablesOk_emit h

theorem tablesOk_windowRead (h : TablesOk d) {a n : Nat} : TablesOk (d.windowRead a n) := by
  unfold Dev.windowRead
  split
  · exact tablesOk_complete (tablesOk_bump h)
  · exact tablesOk_complete h

theorem tablesOk_bar2Get (h : TablesOk d) {off n : Nat} : TablesOk (d.bar2Get off n) := by
  rw [bar2Get_eq]
  cases d.bar2Refuse (d.bar2Addr off) n false with
  | some x => exact tablesOk_complete (tablesOk_bump (tablesOk_deny h))
  | none =>
    cases d.keyGone (d.bar2Addr off) n with
    | some g => exact tablesOk_complete (tablesOk_bump (tablesOk_keyEvent h))
    | none => exact tablesOk_windowRead h

theorem tablesOk_aerAdvisory (h : TablesOk d) : TablesOk d.aerAdvisory := by
  unfold Dev.aerAdvisory
  extract_lets _ _
  exact tablesOk_update h

theorem tablesOk_windowWrite (h : TablesOk d) {a : Nat} {data : List Byte} {ep : Bool} :
    TablesOk (d.windowWrite a data ep) :=
  tablesOk_ite (tablesOk_evHost (tablesOk_aerAdvisory (tablesOk_bump (tablesOk_storeAs h)))) (tablesOk_storeAs h)

theorem tablesOk_bar2Put (h : TablesOk d) {off : Nat} {data : List Byte} {ep : Bool} :
    TablesOk (d.bar2Put off data ep) := by
  rw [bar2Put_eq]
  cases d.bar2Refuse (d.bar2Addr off) data.length true with
  | some x => exact tablesOk_deny h
  | none => exact tablesOk_windowWrite h

theorem tablesOk_bar2Do (h : TablesOk d) {r : Bar2Req} : TablesOk (d.bar2Do r) := by
  unfold Dev.bar2Do
  split
  · exact tablesOk_bar2Put h
  · exact tablesOk_bar2Get h

theorem tablesOk_bar2Arrive (h : TablesOk d) {r : Bar2Req} : TablesOk (d.bar2Arrive r) :=
  tablesOk_ite (tablesOk_update h) (tablesOk_bar2Do h)

theorem tablesOk_bar2Drain (h : TablesOk d) : TablesOk d.bar2Drain :=
  tablesOk_foldl (fun _ _ h1 => tablesOk_ite (tablesOk_bar2Do (tablesOk_update h1)) h1) h

theorem tablesOk_drainReqs (h : TablesOk d) {k : Nat} : TablesOk (d.drainReqs k) :=
  tablesOk_bar2Drain (tablesOk_foldl (fun _ _ h1 => tablesOk_release h1) h)

theorem tablesOk_respond (h : TablesOk d) {k : Nat} : TablesOk (d.respond k) :=
  tablesOk_drainReqs (tablesOk_update h)

theorem tablesOk_panicAt (h : TablesOk d) {p : Nat} : TablesOk (d.panicAt p) := by
  unfold Dev.panicAt
  extract_lets _ _ _ d4 _
  have h4 : TablesOk d4 := tablesOk_bump h
  exact tablesOk_ite (tablesOk_update h4) (tablesOk_ite (tablesOk_update h) h)

theorem tablesOk_portFill (h : TablesOk d) {p n : Nat} : TablesOk (d.portFill p n) :=
  tablesOk_panicAt (tablesOk_update h)

theorem tablesOk_arrive (h : TablesOk d) {a : DramAcc} {w : Option DramData} : TablesOk (d.arrive a w) := by
  unfold Dev.arrive
  extract_lets _ d2 d3 _ _ d6
  have h2 : TablesOk d2 := tablesOk_portFill (tablesOk_portFill h)
  have h3 : TablesOk d3 := tablesOk_foldl (fun _ _ h7 => tablesOk_respond h7) h2
  have h6 : TablesOk d6 := tablesOk_update h3
  exact tablesOk_drainReqs h6

theorem tablesOk_scrubOne (h : TablesOk d) {y : Nat × Bool} : TablesOk (d.scrubOne y) := by
  suffices body : ∀ f, f = @Dev.scrubOne → TablesOk (f d y) from body _ rfl
  intro f hf
  delta Dev.scrubOne at hf
  subst hf
  beta_reduce
  extract_lets x a d1
  have h1 : TablesOk d1 := tablesOk_dramCorrected h
  clear_value d1 a
  split
  · exact h1
  · exact tablesOk_ite (tablesOk_markPage h1) h1

theorem tablesOk_retireSpare (h : TablesOk d) {r reason : Nat} : TablesOk (d.retireSpare r reason) :=
  tablesOk_evMig (tablesOk_modRank h)

theorem tablesOk_migrate (h : TablesOk d) {r cause : Nat} : TablesOk (d.migrate r cause) := by
  unfold Dev.migrate
  extract_lets _ _
  split
  · exact tablesOk_evMig (tablesOk_modRank h)
  · extract_lets _ d4
    have h4 : TablesOk d4 := tablesOk_update h
    exact tablesOk_evMig (tablesOk_modRank h4)

theorem tablesOk_abandonSpare (h : TablesOk d) {reason : Nat} : TablesOk (d.abandonSpare reason) := by
  unfold Dev.abandonSpare
  split
  · exact h
  · extract_lets d1 _ d3
    have h1 : TablesOk d1 := tablesOk_retireSpare h
    have h3 : TablesOk d3 := tablesOk_update h1
    exact tablesOk_migrate h3

theorem tablesOk_spareDead (h : TablesOk d) : TablesOk d.spareDead :=
  tablesOk_abandonSpare (tablesOk_fresh h)

theorem tablesOk_copyBad (h : TablesOk d) {m : Mig} {gs : List Nat} : TablesOk (d.copyBad m gs) := by
  unfold Dev.copyBad
  refine tablesOk_foldl (fun d x h1 => ?_) h
  extract_lets _
  exact tablesOk_listPoison (tablesOk_setPoison (tablesOk_zero h1))

theorem tablesOk_rankDead (h : TablesOk d) {r : Nat} : TablesOk (d.rankDead r) :=
  tablesOk_ite (tablesOk_abandonSpare h) (tablesOk_ite h (tablesOk_spareReq (tablesOk_modRank h)))

theorem tablesOk_trainDram (h : TablesOk d) {failed : List (Fin 48)} : TablesOk (d.trainDram failed) :=
  tablesOk_foldl (fun _ _ h1 => tablesOk_modChan (tablesOk_modRank (tablesOk_modRank h1))) h

theorem tablesOk_poolLists (h : TablesOk d) {recorded : Option Nat} : TablesOk (d.poolLists recorded) := by
  unfold Dev.poolLists
  extract_lets _ _ _ _ d5
  have h5 : TablesOk d5 := tablesOk_update h
  exact tablesOk_ite h (tablesOk_ite h5 (tablesOk_evHub h5))

theorem tablesOk_repairPage (h : TablesOk d) {k page : Nat} : TablesOk (d.repairPage k page) :=
  tablesOk_ite (tablesOk_modChan (tablesOk_evChan (tablesOk_fresh h))) (tablesOk_modChan (tablesOk_evChan
    (tablesOk_fresh h)))

theorem tablesOk_repairPages (h : TablesOk d) : TablesOk d.repairPages :=
  tablesOk_foldl (fun _ _ h1 => tablesOk_foldl (fun _ _ h2 => tablesOk_repairPage h2) h1) h

theorem tablesOk_resumeMig (h : TablesOk d) {m : Option (Nat × Nat)} : TablesOk (d.resumeMig m) := by
  unfold Dev.resumeMig
  split
  · exact tablesOk_ite h (tablesOk_spareReq h)
  · exact h

/-! ### Links -/

theorem tablesOk_modLmod (h : TablesOk d) {m : Nat} {f : Lmod → Lmod} : TablesOk (d.modLmod m f) :=
  tablesOk_update h

theorem tablesOk_modLink (h : TablesOk d) {k : Nat} {f : Link → Link} : TablesOk (d.modLink k f) :=
  tablesOk_update h

theorem tablesOk_evLink (h : TablesOk d) {cls code k : Nat} {detail : List Nat} :
    TablesOk (d.evLink cls code k detail) := by
  unfold Dev.evLink
  extract_lets _
  exact tablesOk_ite (tablesOk_event h) (tablesOk_event h)

theorem tablesOk_hubCheck (h : TablesOk d) {before : Dev} {k : Nat} : TablesOk (d.hubCheck before k) := by
  unfold Dev.hubCheck
  extract_lets _
  exact tablesOk_ite (tablesOk_event h) h

theorem tablesOk_linkCount (h : TablesOk d) {k : Nat} {r : Nat → Nat} : TablesOk (d.linkCount k r) :=
  tablesOk_foldl (fun _ _ h1 => tablesOk_bump h1) h

theorem tablesOk_linkLast (h : TablesOk d) {k lo lane : Nat} : TablesOk (d.linkLast k lo lane) :=
  tablesOk_foldl (fun _ _ h1 => tablesOk_setFld h1) h

theorem tablesOk_assignRoles (h : TablesOk d) : TablesOk d.assignRoles := by
  unfold Dev.assignRoles
  extract_lets d1
  have h1 : TablesOk d1 := by
    refine tablesOk_foldl (fun d x h2 => ?_) h
    extract_lets _ _ _
    exact tablesOk_modLmod (tablesOk_modLmod h2)
  exact tablesOk_foldl (fun _ _ h2 => tablesOk_modLink h2) h1

theorem tablesOk_attributed (h : TablesOk d) {k : Nat} {lanes : List Nat} {retry : Bool} :
    TablesOk (d.attributed k lanes retry) := by
  unfold Dev.attributed
  extract_lets d1
  have h1 : TablesOk d1 := tablesOk_foldl (fun _ _ h2 => tablesOk_linkLast (tablesOk_linkCount h2)) h
  exact tablesOk_modLink h1

theorem tablesOk_flitBad (h : TablesOk d) {l : Nat} {f : List Byte} : TablesOk (d.flitBad l f) := by
  unfold Dev.flitBad
  extract_lets _ _
  exact tablesOk_ite (tablesOk_attributed h) (tablesOk_ite h (tablesOk_emit (tablesOk_modLink h)))

theorem tablesOk_flitData (h : TablesOk d) {l : Nat} {f : List Byte} : TablesOk (d.flitData l f) := by
  unfold Dev.flitData
  extract_lets _ _ _ d4
  have h4 : TablesOk d4 := tablesOk_foldl (fun _ _ h5 => tablesOk_attributed h5) h
  exact tablesOk_ite (tablesOk_emit (tablesOk_modLink h4)) (tablesOk_ite h (tablesOk_emit (tablesOk_modLink h)))

theorem tablesOk_linkDown (h : TablesOk d) {k : Nat} : TablesOk (d.linkDown k) := by
  unfold Dev.linkDown
  extract_lets d1 d2 _
  have h1 : TablesOk d1 := h
  have h2 : TablesOk d2 := tablesOk_modLink h
  exact tablesOk_ite (tablesOk_evLink h2) (tablesOk_ite (tablesOk_hubCheck (tablesOk_evLink h2)) (tablesOk_evLink h2))

theorem tablesOk_retireLane (h : TablesOk d) {k lane : Nat} : TablesOk (d.retireLane k lane) := by
  unfold Dev.retireLane
  extract_lets d1 d2 d3 d4
  have h1 : TablesOk d1 := h
  have h2 : TablesOk d2 := tablesOk_foldl (fun _ _ h5 => tablesOk_modLmod h5) h
  have h3 : TablesOk d3 := tablesOk_modLink h2
  have h4 : TablesOk d4 := tablesOk_hubCheck (tablesOk_evLink h3)
  exact tablesOk_ite (tablesOk_linkDown h4) h4

theorem tablesOk_laneRepaired (h : TablesOk d) {k lane r : Nat} : TablesOk (d.laneRepaired k lane r) := by
  unfold Dev.laneRepaired
  extract_lets d1 d2 d3 d4
  have h1 : TablesOk d1 := tablesOk_foldl (fun _ _ h5 => tablesOk_modLmod h5) h
  have h2 : TablesOk d2 := tablesOk_modLink h1
  have h3 : TablesOk d3 := tablesOk_linkLast (tablesOk_linkCount h2)
  have h4 : TablesOk d4 := tablesOk_evLink h3
  exact tablesOk_foldl (fun _ _ h5 => tablesOk_ite (tablesOk_evLink h5) h5) h4

theorem tablesOk_linksTick (h : TablesOk d) : TablesOk d.linksTick :=
  tablesOk_update h

theorem tablesOk_linksEpoch (h : TablesOk d) : TablesOk d.linksEpoch := by
  unfold Dev.linksEpoch
  extract_lets d1 _
  have h1 : TablesOk d1 := tablesOk_foldl (fun _ _ h3 => tablesOk_ite h3 (tablesOk_evLink h3)) h
  exact tablesOk_update h1

theorem tablesOk_modLane (h : TablesOk d) {n : Nat} {f : OptLane → OptLane} : TablesOk (d.modLane n f) :=
  tablesOk_update h

theorem tablesOk_evLane (h : TablesOk d) {cls code n : Nat} {detail : List Nat} :
    TablesOk (d.evLane cls code n detail) :=
  tablesOk_event h

theorem tablesOk_evPort (h : TablesOk d) {cls code port : Nat} {detail : List Nat} :
    TablesOk (d.evPort cls code port detail) :=
  tablesOk_event h

theorem tablesOk_portDown (h : TablesOk d) {port : Nat} : TablesOk (d.portDown port) := by
  unfold Dev.portDown
  extract_lets d1 _ d3 _ d5
  have h1 : TablesOk d1 := tablesOk_evPort h
  have h3 : TablesOk d3 := tablesOk_update h1
  have h5 : TablesOk d5 := tablesOk_ite (tablesOk_update h3) h3
  exact tablesOk_ite (tablesOk_holdover h5) h5

theorem tablesOk_portUp (h : TablesOk d) {port width : Nat} : TablesOk (d.portUp port width) := by
  unfold Dev.portUp
  extract_lets _ d2 _ _ d5 d6
  have h2 : TablesOk d2 := tablesOk_update h
  have h5 : TablesOk d5 := tablesOk_ite (tablesOk_update h2) h2
  have h6 : TablesOk d6 := tablesOk_evPort h5
  exact tablesOk_ite (tablesOk_payOwed h6) h6

theorem tablesOk_hostRecovery (h : TablesOk d) : TablesOk d.hostRecovery :=
  tablesOk_update h

theorem tablesOk_hostNarrow (h : TablesOk d) {n : Nat} : TablesOk (d.hostNarrow n) := by
  unfold Dev.hostNarrow
  extract_lets d1 d2 _
  have h1 : TablesOk d1 := tablesOk_evLane h
  have h2 : TablesOk d2 := tablesOk_hostRecovery h1
  exact tablesOk_ite h1 (tablesOk_ite (tablesOk_portDown h1) (tablesOk_update h2))

theorem tablesOk_startRetrain (h : TablesOk d) {port : Nat} : TablesOk (d.startRetrain port) := by
  unfold Dev.startRetrain
  extract_lets _ d2
  have h2 : TablesOk d2 := tablesOk_update h
  exact tablesOk_ite h (tablesOk_ite (tablesOk_ite (tablesOk_hostRecovery h2) h2) (tablesOk_ite h2 (tablesOk_ite
    (tablesOk_portDown h2) h2)))

theorem tablesOk_moultLaser (h : TablesOk d) {n reason : Nat} : TablesOk (d.moultLaser n reason) := by
  unfold Dev.moultLaser
  extract_lets _ _ d3 d4
  have h3 : TablesOk d3 := tablesOk_update h
  have h4 : TablesOk d4 := tablesOk_modLane h3
  exact tablesOk_evLane (tablesOk_evLane h4)

theorem tablesOk_moultLane (h : TablesOk d) {n sp port : Nat} : TablesOk (d.moultLane n sp port) := by
  unfold Dev.moultLane
  extract_lets d1 d2 _ d4
  have h1 : TablesOk d1 := tablesOk_modLane h
  have h2 : TablesOk d2 := tablesOk_modLane h1
  have h4 : TablesOk d4 := tablesOk_evLane h2
  exact tablesOk_ite (tablesOk_evLane h4) h4

theorem tablesOk_moultOne (h : TablesOk d) {port n : Nat} : TablesOk (d.moultOne port n) := by
  unfold Dev.moultOne
  extract_lets d1
  have h1 : TablesOk d1 := tablesOk_modLane h
  split
  · exact h
  · exact tablesOk_ite (tablesOk_moultLaser h) (tablesOk_modLane h)
  · apply tablesOk_ite
    · exact tablesOk_moultLaser h
    · split
      · exact tablesOk_moultLane h
      · exact tablesOk_ite (tablesOk_moultLaser h) (tablesOk_ite (tablesOk_hostNarrow h1) h1)

theorem tablesOk_lanePast (h : TablesOk d) {n port : Nat} : TablesOk (d.lanePast n port) := by
  unfold Dev.lanePast
  extract_lets _ _ d3 d4
  have h3 : TablesOk d3 := tablesOk_evLane h
  have h4 : TablesOk d4 := tablesOk_modLane h3
  exact tablesOk_ite (tablesOk_evLane (tablesOk_modLane h)) (tablesOk_ite (tablesOk_ite (tablesOk_evLane h) h)
    (tablesOk_startRetrain h4))

theorem tablesOk_laneSample (h : TablesOk d) {q : LaneSample} : TablesOk (d.laneSample q) := by
  unfold Dev.laneSample
  extract_lets _ _ d3 d4 d5 d6
  have h3 : TablesOk d3 := tablesOk_modLane h
  have h4 : TablesOk d4 := tablesOk_setReg h3
  have h5 : TablesOk d5 := tablesOk_ite (tablesOk_evLane h4) (tablesOk_ite (tablesOk_evLane h4) h4)
  have h6 : TablesOk d6 := tablesOk_modLane h5
  exact tablesOk_ite h (tablesOk_ite (tablesOk_ite (tablesOk_startRetrain (tablesOk_modLane h6)) h6) h5)

theorem tablesOk_telemetry (h : TablesOk d) {lanes : List LaneSample} : TablesOk (d.telemetry lanes) :=
  tablesOk_foldl (fun _ _ h1 => tablesOk_laneSample h1) h

theorem tablesOk_startLasers (h : TablesOk d) : TablesOk d.startLasers :=
  tablesOk_foldl (fun _ _ h1 => tablesOk_ite (tablesOk_moultLaser h1) h1) h

theorem tablesOk_startPorts (h : TablesOk d) : TablesOk d.startPorts :=
  tablesOk_foldl (fun _ _ h1 => tablesOk_portUp h1) h

theorem tablesOk_hostUp (h : TablesOk d) : TablesOk d.hostUp :=
  tablesOk_ite h (tablesOk_portUp h)

/-! ### Image -/

theorem tablesOk_loadRegs (h : TablesOk d) {ps : List (Nat × Nat)} : TablesOk (d.loadRegs ps) := by
  unfold Dev.loadRegs
  refine tablesOk_foldl (fun d x h1 => ?_) h
  extract_lets _
  exact tablesOk_setReg h1

/-! ### Boot -/

theorem tablesOk_modReset (_ : TablesOk d) : TablesOk d.modReset := ⟨rfl, rfl⟩

theorem tablesOk_repairBlocks (h : TablesOk d) {r : Repair} : TablesOk (d.repairBlocks r) := by
  unfold Dev.repairBlocks
  extract_lets d1 d2 d3 d4
  have h1 : TablesOk d1 := tablesOk_applyAll (fun _ _ h5 => tablesOk_modBlk h5) h
  have h2 : TablesOk d2 := tablesOk_applyAll (fun _ _ h5 => tablesOk_modBlk h5) h1
  have h3 : TablesOk d3 := tablesOk_applyAll (fun _ _ h5 => tablesOk_modBlk h5) h2
  have h4 : TablesOk d4 := tablesOk_applyAll (fun _ _ h5 => tablesOk_modBlk h5) h3
  exact tablesOk_applyAll (fun _ _ h5 => tablesOk_modBlk h5) h4

theorem tablesOk_repairRanks (h : TablesOk d) {r : Repair} : TablesOk (d.repairRanks r) := by
  unfold Dev.repairRanks
  extract_lets d1 _
  have h1 : TablesOk d1 := tablesOk_applyAll (fun _ _ h3 => tablesOk_modRank h3) h
  exact tablesOk_update h1

theorem tablesOk_repairMarks (h : TablesOk d) {r : Repair} : TablesOk (d.repairMarks r) := by
  unfold Dev.repairMarks
  extract_lets d1 _
  have h1 : TablesOk d1 := tablesOk_applyAll (fun _ _ h3 => tablesOk_modChan h3) h
  exact tablesOk_update h1

theorem tablesOk_repairLanes (h : TablesOk d) {r : Repair} : TablesOk (d.repairLanes r) := by
  unfold Dev.repairLanes
  extract_lets d1 d2 d3 d4 d5 d6 d7 d8 d9 _
  have h1 : TablesOk d1 := tablesOk_applyAll (fun _ _ h11 => tablesOk_modLmod h11) h
  have h2 : TablesOk d2 := tablesOk_applyAll (fun _ _ h11 => tablesOk_modLmod h11) h1
  have h3 : TablesOk d3 := tablesOk_applyAll (fun _ _ h11 => tablesOk_modLmod h11) h2
  have h4 : TablesOk d4 := tablesOk_foldl (fun _ _ h11 => tablesOk_modLane h11) h3
  have h5 : TablesOk d5 := tablesOk_applyAll (fun _ _ h11 => tablesOk_modLane h11) h4
  have h6 : TablesOk d6 := tablesOk_applyAll (fun _ _ h11 => tablesOk_modLane h11) h5
  have h7 : TablesOk d7 := tablesOk_applyAll (fun _ _ h11 => tablesOk_modLane h11) h6
  have h8 : TablesOk d8 := tablesOk_applyAll (fun _ _ h11 => tablesOk_modLane h11) h7
  have h9 : TablesOk d9 := tablesOk_applyAll (fun _ _ h11 => tablesOk_modLane h11) h8
  exact tablesOk_update h9

theorem tablesOk_moultStart (h : TablesOk d) {b l x : Nat} : TablesOk (d.moultStart b l x) := by
  unfold Dev.moultStart
  extract_lets _ _ d3 d4 d5
  have h3 : TablesOk d3 := tablesOk_modTile h
  have h4 : TablesOk d4 := tablesOk_setReg (tablesOk_modBlk h3)
  have h5 : TablesOk d5 := tablesOk_evBlk h4
  exact tablesOk_ite (tablesOk_event h5) h5

theorem tablesOk_remapStart (h : TablesOk d) {b : Nat} : TablesOk (d.remapStart b).1 := by
  unfold Dev.remapStart
  extract_lets _
  split
  · exact h
  · split
    · exact h
    · split
      · exact tablesOk_moultStart h
      · split
        · exact tablesOk_event h
        · extract_lets d2
          have h2 : TablesOk d2 := by
            unfold d2
            split
            · exact tablesOk_modTile h
            · exact h
          exact tablesOk_moultStart h2

theorem tablesOk_applyMoved (h : TablesOk d) {r : Repair} {t : Nat} : TablesOk (d.applyMoved r t) := by
  unfold Dev.applyMoved
  extract_lets _ _ d3 _
  have h3 : TablesOk d3 := tablesOk_foldl (fun _ _ h5 => tablesOk_modTile h5) (tablesOk_modTile h)
  exact tablesOk_ite h3 h

theorem tablesOk_loadMap (h : TablesOk d) {c : CfgImage} {r : Repair} : TablesOk (d.loadMap c r) := by
  unfold Dev.loadMap
  extract_lets d1 d2 d3
  have h1 : TablesOk d1 := tablesOk_foldl (fun _ _ h4 => tablesOk_foldl (fun _ _ h5 => tablesOk_modTile h5) h4) h
  have h2 : TablesOk d2 := tablesOk_foldl (fun _ _ h4 => tablesOk_applyMoved h4) h1
  have h3 : TablesOk d3 := by
    refine tablesOk_foldl (fun d x h4 => ?_) h2
    extract_lets _
    exact tablesOk_ite h4 (tablesOk_modBlk h4)
  exact tablesOk_foldl (fun _ _ h4 => tablesOk_setReg h4) h3

theorem tablesOk_loadStore (h : TablesOk d) {c : CfgImage} : TablesOk (d.loadStore c) := by
  unfold Dev.loadStore
  extract_lets d1 _
  have h1 : TablesOk d1 := tablesOk_foldl (fun _ _ h3 => tablesOk_store h3) h
  exact tablesOk_foldl (fun _ _ h3 => tablesOk_foldl (fun _ _ h4 => tablesOk_store h4) h3) h1

theorem tablesOk_loadParts (h : TablesOk d) {c : CfgImage} : TablesOk (d.loadParts c) := by
  unfold Dev.loadParts
  extract_lets d1
  have h1 : TablesOk d1 := tablesOk_foldl (fun _ _ h2 => tablesOk_setPart h2) h
  exact tablesOk_foldl (fun _ _ h2 => tablesOk_setCtx h2) h1

theorem tablesOk_loadImage (h : TablesOk d) {c : CfgImage} {r : Repair} : TablesOk (d.loadImage c r) := by
  unfold Dev.loadImage
  extract_lets _ d2
  have h2 : TablesOk d2 := tablesOk_update h
  exact tablesOk_loadMap (tablesOk_loadStore (tablesOk_loadParts (tablesOk_loadRegs h2)))

theorem tablesOk_loadModel (h : TablesOk d) {m : Model} : TablesOk (d.loadModel m) :=
  tablesOk_foldl (fun _ _ h1 => tablesOk_store h1) h

theorem tablesOk_loadModels (h : TablesOk d) {n : Nv} {l : List Nat} : TablesOk (Dev.loadModels n l d).1 := by
  induction l generalizing d with
  | nil => exact h
  | cons k l ih =>
    unfold Dev.loadModels
    split
    · exact h
    · dsimp only
      generalize Fuses.verify _ _ _ _ = x
      split
      · split
        · exact h
        · exact ih (tablesOk_foldl (fun _ _ h1 => tablesOk_loadModel h1) (tablesOk_update h))
      · exact h

theorem tablesOk_extend (h : TablesOk d) {k : Nat} {x : BitVec 256} : TablesOk (d.extend k x) :=
  tablesOk_update h

theorem tablesOk_enterLoader (h : TablesOk d) {reason : Nat} : TablesOk (d.enterLoader reason) :=
  tablesOk_evSec (tablesOk_update h)

theorem tablesOk_rejected (h : TablesOk d) {type reason sec : Nat} : TablesOk (d.rejected type reason sec) := by
  unfold Dev.rejected
  split
  rename_i _ _ d1 e
  have h1 : TablesOk d1 := tablesOk_snd (tablesOk_fresh h) e
  extract_lets _ _ _ d5
  have h5 : TablesOk d5 := tablesOk_update h1
  exact tablesOk_evSec h5

theorem tablesOk_rejectImage (h : TablesOk d) {type reason sec : Nat} : TablesOk (d.rejectImage type reason sec) :=
  tablesOk_enterLoader (tablesOk_rejected h)

theorem tablesOk_testContent (h : TablesOk d) {n : Nv} : TablesOk (d.testContent n).1 := by
  unfold Dev.testContent
  extract_lets _ _
  split
  · exact tablesOk_modIsl (tablesOk_modIsl (tablesOk_extend h))
  · exact h

theorem tablesOk_startDram (h : TablesOk d) {failed : List (Fin 48)} {recorded : Option Nat} :
    TablesOk (d.startDram failed recorded) :=
  tablesOk_repairPages (tablesOk_poolLists (tablesOk_trainDram h))

theorem tablesOk_coldLoad (h : TablesOk d) {n : Nv} {failed : List (Fin 48)} {fw : ImgHeader} {c : CfgImage} :
    TablesOk (d.coldLoad n failed fw c).1 := by
  unfold Dev.coldLoad
  extract_lets d1 d2 _ _ _ d6
  have h1 : TablesOk d1 := tablesOk_extend (tablesOk_extend h)
  have h2 : TablesOk d2 := tablesOk_startDram (tablesOk_assignRoles (tablesOk_loadImage h1))
  have h6 : TablesOk d6 := tablesOk_update h2
  split
  · rename_i _ d7 e
    have h7 : TablesOk d7 := tablesOk_fst (tablesOk_loadModels h6) e
    split
    rename_i _ d8 _ e
    have h8 : TablesOk d8 := tablesOk_fst (tablesOk_testContent h7) e
    extract_lets d9 d10 _
    have h9 : TablesOk d9 := tablesOk_startPorts (tablesOk_startLasers h8)
    have h10 : TablesOk d10 := tablesOk_ite (tablesOk_setFld h9) h9
    exact tablesOk_update h10
  · rename_i _ d7 _ _ e
    have h7 : TablesOk d7 := tablesOk_fst (tablesOk_loadModels h6) e
    exact tablesOk_rejectImage h7

theorem tablesOk_coldStart (h : TablesOk d) {n : Nv} {failed : List (Fin 48)} : TablesOk (d.coldStart n failed).1 := by
  unfold Dev.coldStart
  extract_lets _ _ d3 d4 _ _ _ d8 _
  have h3 : TablesOk d3 := tablesOk_update h
  have h4 : TablesOk d4 := tablesOk_extend h3
  have h8 : TablesOk d8 := tablesOk_repairLanes (tablesOk_repairMarks (tablesOk_repairRanks (tablesOk_repairBlocks h4)))
  split
  · split
    · split
      · exact tablesOk_coldLoad h8
      · exact tablesOk_rejectImage (tablesOk_extend h8)
    · exact tablesOk_rejectImage (tablesOk_extend h8)
    · exact tablesOk_rejectImage h8
  · exact tablesOk_enterLoader h8

theorem tablesOk_zeroSpads (h : TablesOk d) : TablesOk d.zeroSpads :=
  tablesOk_zero h

theorem tablesOk_injRetire (h : TablesOk d) {b : Nat} : TablesOk (d.injRetire b) := by
  unfold Dev.injRetire
  extract_lets d1
  have h1 : TablesOk d1 := tablesOk_modBlk h
  exact tablesOk_ite h (tablesOk_evBlk h1)

theorem tablesOk_remapAll (h : TablesOk d) : TablesOk d.remapAll.1 := by
  unfold Dev.remapAll
  refine tablesOk_foldlPair (fun r b h1 => ?_) h
  split
  · exact tablesOk_remapStart h1
  · exact h1

theorem tablesOk_injAction (h : TablesOk d) {left : List Nat} {f : InjFail} : TablesOk (d.injAction left f).1 := by
  unfold Dev.injAction
  extract_lets _ _ _ _ _ _
  split
  · exact tablesOk_spareReq (tablesOk_spareReq h)
  · exact tablesOk_modLink h
  · exact h

theorem tablesOk_testCutoff (h : TablesOk d) {c : Nat} : TablesOk (d.testCutoff c) :=
  tablesOk_withhold (tablesOk_fresh h)

theorem tablesOk_injReports (h : TablesOk d) {fails : List InjFail} : TablesOk (d.injReports fails) := by
  unfold Dev.injReports
  extract_lets _ _ d3 d4 d5 _
  have h3 : TablesOk d3 := tablesOk_foldl (fun _ _ h7 => tablesOk_foldl (fun _ _ h8 => tablesOk_evBlk h8)
    (tablesOk_fresh h7)) h
  have h4 : TablesOk d4 := tablesOk_ite (tablesOk_testCutoff (tablesOk_bump (tablesOk_evPl (tablesOk_fresh h3)))) h3
  have h5 : TablesOk d5 := tablesOk_ite (tablesOk_testCutoff h4) h4
  exact tablesOk_update h5

theorem tablesOk_injEnd (h : TablesOk d) {i : Isl} : TablesOk (d.injEnd i) := by
  unfold Dev.injEnd
  extract_lets _ d2
  have h2 : TablesOk d2 := tablesOk_modIsl h
  apply tablesOk_ite
  · exact h
  · split
    · exact tablesOk_evIsl h2
    · exact h2

theorem tablesOk_injJoin (h : TablesOk d) {i : Isl} : TablesOk (d.injJoin i) :=
  tablesOk_ite (tablesOk_islReq (tablesOk_modIsl h)) h

theorem tablesOk_enable (h : TablesOk d) {mig : Option (Nat × Nat)} : TablesOk (d.enable mig) := by
  unfold Dev.enable
  extract_lets _ d2 d3 d4 d5 d6
  have h2 : TablesOk d2 := tablesOk_update h
  have h3 : TablesOk d3 := tablesOk_clearCauses (tablesOk_clearCauses h2)
  have h4 : TablesOk d4 := tablesOk_foldl (fun _ _ h7 => tablesOk_foldl (fun _ _ h8 => tablesOk_startThreads h8) h7) h3
  have h5 : TablesOk d5 := tablesOk_resumeMig (tablesOk_shedLoad h4)
  have h6 : TablesOk d6 := tablesOk_foldl (fun _ _ h7 => tablesOk_modPart h7) h5
  exact tablesOk_revote h6

theorem tablesOk_recovered (h : TablesOk d) : TablesOk d.recovered := by
  unfold Dev.recovered
  split
  rename_i _ _ d1 e
  have h1 : TablesOk d1 := tablesOk_snd (tablesOk_fresh h) e
  extract_lets _ _ d4 d5
  have h4 : TablesOk d4 := tablesOk_update h1
  have h5 : TablesOk d5 := tablesOk_ite (tablesOk_evIsl h4) h4
  exact tablesOk_ite (tablesOk_evIsl h5) h5

theorem tablesOk_queuesOff (h : TablesOk d) : TablesOk d.queuesOff := by
  unfold Dev.queuesOff
  extract_lets _ _
  exact tablesOk_foldl (fun _ _ h3 => tablesOk_qSet h3) h

theorem tablesOk_listAll (h : TablesOk d) : TablesOk d.listAll :=
  tablesOk_foldl (fun _ _ h1 => tablesOk_listPoison h1) h

theorem tablesOk_reloadChunk (h : TablesOk d) {keys : Nat} {x : Model × Nat} : TablesOk (d.reloadChunk keys x) := by
  unfold Dev.reloadChunk
  extract_lets _
  split
  · exact h
  · extract_lets d2 _
    have h2 : TablesOk d2 := tablesOk_store h
    exact tablesOk_ite (tablesOk_update h2) h

theorem tablesOk_recover (h : TablesOk d) {n : Nv} {failed : List (Fin 48)} {c : CfgImage} :
    TablesOk (d.recover n failed c) := by
  unfold Dev.recover
  extract_lets _ _ _ d4 _ d6 d7
  have h4 : TablesOk d4 := tablesOk_update h
  have h6 : TablesOk d6 := tablesOk_loadImage (tablesOk_repairLanes (tablesOk_repairRanks (tablesOk_repairBlocks h4)))
  have h7 : TablesOk d7 := tablesOk_assignRoles (tablesOk_repairPages (tablesOk_poolLists (tablesOk_trainDram h6)))
  exact tablesOk_startPorts (tablesOk_startLasers (tablesOk_queuesOff h7))

theorem tablesOk_pulse (h : TablesOk d) {n : Nv} {failed : List (Fin 48)} {type : Option Nat} :
    TablesOk (d.pulse n failed type).1 := by
  unfold Dev.pulse
  extract_lets d1 d2
  have h1 : TablesOk d1 := tablesOk_modReset h
  have h2 : TablesOk d2 := by
    unfold d2
    split
    · exact tablesOk_evSec h1
    · exact h1
  exact tablesOk_coldStart h2

/-! ### Security -/

theorem tablesOk_answer (h : TablesOk d) {seq : BitVec 16} {status : Nat} {data : List Nat} :
    TablesOk (d.answer seq status data) :=
  tablesOk_emit h

theorem tablesOk_refuse (h : TablesOk d) {seq : BitVec 16} {type reason : Nat} : TablesOk (d.refuse seq type reason) :=
  tablesOk_answer (tablesOk_evSec h)

theorem tablesOk_refuseFree (h : TablesOk d) {seq : BitVec 16} {type : Nat} : TablesOk (d.refuseFree seq type) :=
  tablesOk_refuse (tablesOk_fresh h)

theorem tablesOk_commitFails (h : TablesOk d) {seq : BitVec 16} {type reason sec : Nat} :
    TablesOk (d.commitFails seq type reason sec) :=
  tablesOk_answer (tablesOk_rejected h)

theorem tablesOk_committed (h : TablesOk d) {seq : BitVec 16} {lu : Nat} {x : ImgHeader} :
    TablesOk (d.committed seq lu x) :=
  tablesOk_answer (tablesOk_evSec h)

theorem tablesOk_endFirstPass (h : TablesOk d) {p b : Nat} : TablesOk (d.endFirstPass p b).1 := by
  unfold Dev.endFirstPass
  extract_lets _ _ d3
  have h3 : TablesOk d3 := tablesOk_modBlk (tablesOk_foldl (fun _ _ h4 => tablesOk_modEng h4) h)
  exact tablesOk_foldl (fun _ _ h4 => tablesOk_report h4) h3

theorem tablesOk_attach (h : TablesOk d) {p : Nat} : TablesOk (d.attach p) := by
  unfold Dev.attach
  extract_lets d1
  have h1 : TablesOk d1 := tablesOk_modPart h
  split
  rename_i _ d2 _ e
  have h2 : TablesOk d2 := by
    refine tablesOk_fst (tablesOk_foldlPair (fun r b h2 => ?_) h1) e
    exact tablesOk_endFirstPass h2
  exact tablesOk_event (tablesOk_update h2)

theorem tablesOk_unlock (h : TablesOk d) {seq : BitVec 16} {ps : List Nat} : TablesOk (d.unlock seq ps) := by
  unfold Dev.unlock
  extract_lets d1 _ d3
  have h1 : TablesOk d1 := tablesOk_evSec h
  have h3 : TablesOk d3 := tablesOk_update h1
  exact tablesOk_answer (tablesOk_foldl (fun _ _ h4 => tablesOk_attach h4) h3)

theorem tablesOk_takeIndex (h : TablesOk d) {n : Nv} : TablesOk (d.takeIndex n).2.1 := by
  unfold Dev.takeIndex
  extract_lets _ _ _
  split
  rename_i _ d4 _ e
  have h4 : TablesOk d4 := by
    refine tablesOk_fst ?_ e
    split
    · exact tablesOk_evSec h
    · exact h
  exact tablesOk_update h4

theorem tablesOk_attWrite (h : TablesOk d) {k part cls out : Nat} {bs : List Byte} :
    TablesOk (d.attWrite k part cls out bs) := by
  unfold Dev.attWrite
  split
  · exact tablesOk_settle (tablesOk_deny h)
  · exact tablesOk_settle (tablesOk_storeAs h)

theorem tablesOk_attest (h : TablesOk d) {n : Nv} {k : Nat} : TablesOk (d.attest n k).1 := by
  suffices body : ∀ f, f = @Dev.attest → TablesOk (f d n k).1 from body _ rfl
  intro f hf
  delta Dev.attest at hf
  obtain ⟨refusalAt, hr⟩ : ∃ p, p = @Dev.refusalAt := ⟨_, rfl⟩
  obtain ⟨takeIndex, ht⟩ : ∃ p, p = @Dev.takeIndex := ⟨_, rfl⟩
  rw [← hr, ← ht] at hf
  subst hf
  beta_reduce
  extract_lets o a
  generalize refusalAt d 720 o.part o.cls a 64 false = x
  cases x with
  | some x => exact tablesOk_settle (tablesOk_deny h)
  | none =>
    have h1 : TablesOk (takeIndex d n).2.1 := by
      rw [ht]
      exact tablesOk_takeIndex h
    dsimp only
    clear_value a o
    split
    · exact tablesOk_settle h
    · split
      · dsimp only
        exact tablesOk_attWrite h
      · split
        · exact tablesOk_settle h
        · split
          · exact h
          · dsimp only
            exact tablesOk_attWrite (tablesOk_update h1)

/-! ### View -/

theorem tablesOk_afterRead (h : TablesOk d) {off : Nat} : TablesOk (d.afterRead off) := by
  unfold Dev.afterRead
  extract_lets _ _
  exact tablesOk_ite (tablesOk_update h) (tablesOk_ite (tablesOk_modInst h) (tablesOk_ite (tablesOk_modInst h)
    (tablesOk_ite (tablesOk_modInst h) (tablesOk_ite (tablesOk_modInst h) (tablesOk_ite (tablesOk_modInst h)
      (tablesOk_ite (tablesOk_modInst h) (tablesOk_ite (tablesOk_update h) (tablesOk_ite h (tablesOk_setReg h)))))))))

theorem tablesOk_readDword (h : TablesOk d) {n : Nv} {off : Nat} : TablesOk (d.readDword n off).2 :=
  tablesOk_afterRead h

/-! ### HostPort -/

theorem tablesOk_cfgReset (h : TablesOk d) : TablesOk d.cfgReset :=
  tablesOk_update h

theorem tablesOk_bmeOff (h : TablesOk d) : TablesOk d.bmeOff :=
  tablesOk_ite (tablesOk_evHost (tablesOk_update h)) h

theorem tablesOk_cfgWrite (h : TablesOk d) {i v : Nat} : TablesOk (d.cfgWrite i v) := by
  unfold Dev.cfgWrite
  extract_lets _ d2 _ _ _
  have h2 : TablesOk d2 := tablesOk_ite (tablesOk_bmeOff h) h
  exact tablesOk_ite (tablesOk_ite (tablesOk_payOwed (tablesOk_update h)) (tablesOk_ite (tablesOk_update h) h))
    (tablesOk_payOwed (tablesOk_update h2))

theorem tablesOk_unused (h : TablesOk d) {offs : List Nat} : TablesOk (d.unused offs) :=
  tablesOk_ite (tablesOk_bump h) h

theorem tablesOk_bar0Read (h : TablesOk d) {n : Nv} {off : Nat} {wide : Bool} : TablesOk (d.bar0Read n off wide) := by
  unfold Dev.bar0Read
  have h1 := tablesOk_readDword h (n := n) (off := off)
  have h2 := tablesOk_readDword h1 (n := n) (off := off + 4)
  exact tablesOk_ite (tablesOk_complete (tablesOk_unused h2)) (tablesOk_complete (tablesOk_unused h1))

theorem tablesOk_bar2Win (h : TablesOk d) {v : Nat} : TablesOk (Dev.bar2Win v d) :=
  tablesOk_ite (tablesOk_setReg h) h

theorem tablesOk_evlogCfg (h : TablesOk d) {v : Nat} : TablesOk (Dev.evlogCfg v d) := by
  unfold Dev.evlogCfg
  extract_lets _ _
  exact tablesOk_ite (tablesOk_setReg h) (tablesOk_ite (tablesOk_ite (tablesOk_setReg (tablesOk_setReg
    (tablesOk_setReg h))) h) (tablesOk_setReg h))

theorem tablesOk_evlogHead (h : TablesOk d) {v : Nat} : TablesOk (Dev.evlogHead v d) := by
  unfold Dev.evlogHead
  extract_lets _ _
  exact tablesOk_ite (tablesOk_setReg h) h

theorem tablesOk_some_ite {c : Prop} [Decidable c] {a d' : Dev} {o : Option Dev} (ha : TablesOk a)
    (ho : o = some d' → TablesOk d') (e : (if c then some a else o) = some d') : TablesOk d' := by
  split at e
  · cases e
    exact ha
  · exact ho e

theorem tablesOk_map_orElse {α : Type} {x : Option α} {f : α → Dev} {d' : Dev} {o : Option Dev}
    (hf : ∀ a, TablesOk (f a)) (ho : o = some d' → TablesOk d') (e : (x.map f <|> o) = some d') : TablesOk d' := by
  cases x with
  | none => exact ho e
  | some a =>
    cases e
    exact hf a

theorem tablesOk_writeUnit (h : TablesOk d) {off v : Nat} {d' : Dev} (e : d.writeUnit off v = some d') :
    TablesOk d' := by
  unfold Dev.writeUnit at e
  revert e
  refine tablesOk_some_ite (tablesOk_ite (tablesOk_queueEnable h) (tablesOk_queueDisable h)) ?_
  refine tablesOk_some_ite (tablesOk_ite (tablesOk_contextLoad h) (tablesOk_contextDisable h)) ?_
  refine tablesOk_some_ite (tablesOk_qmMirrorCtl h) ?_
  refine tablesOk_some_ite (tablesOk_qmAcctCtl h) ?_
  refine tablesOk_some_ite (tablesOk_qmSrvCtlFair h) ?_
  refine tablesOk_some_ite (tablesOk_ite (tablesOk_instanceLoad h) (tablesOk_instanceUnload h)) ?_
  refine tablesOk_some_ite (tablesOk_bar2Win h) ?_
  refine tablesOk_some_ite (tablesOk_evlogCfg h) ?_
  refine tablesOk_some_ite (tablesOk_evlogHead h) ?_
  refine tablesOk_map_orElse (fun p => tablesOk_ite (tablesOk_partitionEnable h) (tablesOk_partitionDisable h)) ?_
  refine tablesOk_map_orElse (fun c => tablesOk_qmBudget h) ?_
  refine tablesOk_map_orElse (fun p => tablesOk_panicAt (tablesOk_setReg h)) ?_
  refine tablesOk_map_orElse (fun k => tablesOk_drainReqs (tablesOk_setReg h)) ?_
  intro e
  obtain ⟨b, -, rfl⟩ := Option.map_eq_some_iff.1 e
  exact tablesOk_dynDisable (tablesOk_dynMode h)

theorem tablesOk_writeDword (h : TablesOk d) {off v be : Nat} : TablesOk (d.writeDword off v be) := by
  unfold Dev.writeDword
  extract_lets _ m x
  refine tablesOk_ite h ?_
  cases e : d.writeUnit off x with
  | none => exact tablesOk_setReg h
  | some d1 => exact tablesOk_writeUnit h e

theorem tablesOk_regWrite (h : TablesOk d) {off v be : Nat} {wide : Bool} {init : Nat} :
    TablesOk (d.regWrite off v be wide init) := by
  unfold Dev.regWrite
  extract_lets _ _ d3 d4
  have h3 : TablesOk d3 := by
    unfold d3
    split
    · exact tablesOk_evSec (tablesOk_bump h)
    · exact h
  have h4 : TablesOk d4 := tablesOk_ite (tablesOk_unused h3) h3
  exact tablesOk_ite (tablesOk_qmDoorbell h) (tablesOk_ite (tablesOk_qmCqDoorbell h) (tablesOk_foldl (fun _ _ h5 =>
    tablesOk_writeDword h5) h4))

theorem tablesOk_deliver (h : TablesOk d) : TablesOk d.deliver := by
  unfold Dev.deliver
  extract_lets _ _
  split
  · exact h
  · extract_lets d3 _ _ _ d7
    have h3 : TablesOk d3 := tablesOk_setReg (tablesOk_hostWrite h)
    have h7 : TablesOk d7 := tablesOk_update h3
    exact tablesOk_ite h7 (tablesOk_evHost h7)

/-! ### Tick -/

theorem tablesOk_blockTick (h : TablesOk d) {b : Nat} {f : TickRec} : TablesOk (d.blockTick b f) := by
  unfold Dev.blockTick
  extract_lets d1 _
  have h1 : TablesOk d1 := tablesOk_evBlk h
  exact tablesOk_retireReq (tablesOk_foldl (fun _ _ h3 => tablesOk_endOp h3) h1)

theorem tablesOk_fabricTick (h : TablesOk d) {fs : List TickRec} : TablesOk (d.fabricTick fs) := by
  unfold Dev.fabricTick
  extract_lets _ _ _
  split
  · exact h
  · exact tablesOk_event h

theorem tablesOk_tickFaults (h : TablesOk d) {fs : List TickRec} : TablesOk (d.tickFaults fs) := by
  unfold Dev.tickFaults
  extract_lets _ _ d3 d4
  have h3 : TablesOk d3 := tablesOk_update h
  have h4 : TablesOk d4 := tablesOk_bump h3
  apply tablesOk_ite
  · exact h4
  · apply tablesOk_ite
    · exact tablesOk_fabricTick h4
    · refine tablesOk_foldl (fun d x h5 => ?_) h4
      split
      · exact tablesOk_blockTick h5
      · exact h5

theorem tablesOk_islTickBad (h : TablesOk d) {i : Isl} {f : TickRec} {cycles : Nat} :
    TablesOk (d.islTickBad i f cycles) := by
  unfold Dev.islTickBad
  extract_lets _ _ d3
  have h3 : TablesOk d3 := tablesOk_modIsl h
  exact tablesOk_ite (tablesOk_islReq (tablesOk_evIsl (tablesOk_modIsl h3))) h3

theorem tablesOk_islTick (h : TablesOk d) {i : Isl} {fs : List TickFault} : TablesOk (d.islTick i fs) := by
  unfold Dev.islTick
  extract_lets _ d2 _
  have h2 : TablesOk d2 := by
    unfold d2
    split
    · exact tablesOk_ite h (tablesOk_modIsl h)
    · exact tablesOk_islTickBad h
  exact tablesOk_ite h (tablesOk_modIsl h2)

theorem tablesOk_wakeClass (h : TablesOk d) {c : Nat} : TablesOk (d.wakeClass c) :=
  tablesOk_foldl (fun _ _ h1 => tablesOk_ite (tablesOk_wake h1) h1) h

theorem tablesOk_skipWord (h : TablesOk d) {w : LWord} {region : Nat} : TablesOk (d.skipWord w region) :=
  tablesOk_event (tablesOk_bump h)

theorem tablesOk_lostItem (h : TablesOk d) {w : LWord} {b : Nat} {x : Thread} : TablesOk (d.lostItem w b x) := by
  unfold Dev.lostItem
  split
  · exact h
  · extract_lets _
    exact tablesOk_settle (tablesOk_alloc h)

theorem tablesOk_wordWake (h : TablesOk d) {w : LWord} {b : Nat} : TablesOk (d.wordWake w b) :=
  tablesOk_foldl (fun _ _ h1 => tablesOk_ite (tablesOk_lostItem h1) (tablesOk_wake h1)) h

theorem tablesOk_wordEngine (h : TablesOk d) {w : LWord} {t l b : Nat} : TablesOk (d.wordEngine w t l b) := by
  unfold Dev.wordEngine
  extract_lets _ _ _ _ d5 _ _
  have h5 : TablesOk d5 := tablesOk_ite (tablesOk_bump h) h
  apply tablesOk_ite
  · exact h
  · split
    rename_i _ _ d8 e
    have h8 : TablesOk d8 := tablesOk_snd (tablesOk_alloc h5) e
    extract_lets _ _
    exact tablesOk_ite (tablesOk_report h8) (tablesOk_modBlk h8)

theorem tablesOk_wordRepeat (h : TablesOk d) {w : LWord} {b : Nat} : TablesOk (d.wordRepeat w b) := by
  unfold Dev.wordRepeat
  split
  · exact h
  · exact tablesOk_ite (tablesOk_modBlk (tablesOk_modEng h)) (tablesOk_ite (tablesOk_report h) (tablesOk_modEng h))

theorem tablesOk_suspendTest (h : TablesOk d) {b : Nat} : TablesOk (d.suspendTest b) := by
  unfold Dev.suspendTest
  apply tablesOk_ite
  · exact h
  · split
    rename_i _ _ d1 e
    have h1 : TablesOk d1 := tablesOk_snd (tablesOk_fresh h) e
    split
    rename_i _ _ d2 e
    have h2 : TablesOk d2 := tablesOk_snd (tablesOk_fresh h1) e
    extract_lets d3
    have h3 : TablesOk d3 := tablesOk_modBlk h2
    exact tablesOk_modBlk (tablesOk_checkpoint h3)

theorem tablesOk_clearDyn (h : TablesOk d) {b : Nat} : TablesOk (d.clearDyn b) := by
  unfold Dev.clearDyn
  extract_lets _ _ d3 d4
  have h3 : TablesOk d3 := tablesOk_abortSet h
  have h4 : TablesOk d4 := tablesOk_killEng h3
  exact tablesOk_ite (tablesOk_evBlk (tablesOk_bump h4)) h4

theorem tablesOk_slotBegin (h : TablesOk d) {w : LWord} {b : Nat} : TablesOk (d.slotBegin w b) :=
  tablesOk_modBlk (tablesOk_suspendTest (tablesOk_clearDyn h))

theorem tablesOk_slotEnd (h : TablesOk d) {b : Nat} : TablesOk (d.slotEnd b) :=
  tablesOk_modBlk (tablesOk_suspendTest h)

theorem tablesOk_assigned (h : TablesOk d) {w : LWord} {b : Nat} : TablesOk (d.assigned w b) := by
  unfold Dev.assigned
  split
  · exact tablesOk_modBlk h
  · exact tablesOk_modBlk h
  · exact h

theorem tablesOk_wordBlock (h : TablesOk d) {w : LWord} {t l : Nat} : TablesOk (d.wordBlock w t l) := by
  unfold Dev.wordBlock
  extract_lets _
  apply tablesOk_ite
  · exact tablesOk_assigned h
  · split
    · exact tablesOk_wordWake h
    · exact tablesOk_wordEngine h
    · exact tablesOk_slotBegin h
    · exact tablesOk_slotEnd h
    · exact tablesOk_openTest h
    · exact tablesOk_wordRepeat h
    · exact h

theorem tablesOk_wordTile (h : TablesOk d) {w : LWord} {t : Nat} : TablesOk (d.wordTile w t) := by
  unfold Dev.wordTile
  extract_lets _ _ d3
  have h3 : TablesOk d3 := tablesOk_ite (tablesOk_skipWord h) h
  exact tablesOk_ite (tablesOk_skipWord h) (tablesOk_foldl (fun _ _ h4 => tablesOk_wordBlock h4) h3)

theorem tablesOk_wordHub (h : TablesOk d) {w : LWord} : TablesOk (d.wordHub w) := by
  unfold Dev.wordHub
  extract_lets _ _ _
  exact tablesOk_ite (tablesOk_skipWord h) (tablesOk_ite (tablesOk_ite h (tablesOk_alloc h)) h)

theorem tablesOk_runWord (h : TablesOk d) {w : LWord} : TablesOk (d.runWord w) := by
  unfold Dev.runWord
  extract_lets _ d2 _ d4 d5
  have h2 : TablesOk d2 := tablesOk_ite (tablesOk_update h) h
  have h4 : TablesOk d4 := tablesOk_ite (tablesOk_bump h2) h2
  have h5 : TablesOk d5 := tablesOk_foldl (fun _ _ h6 => tablesOk_wordTile h6) h4
  exact tablesOk_ite h2 (tablesOk_ite (tablesOk_wordHub h5) h5)

theorem tablesOk_wordInReset (h : TablesOk d) {w : LWord} : TablesOk (d.wordInReset w) := by
  unfold Dev.wordInReset
  extract_lets d1
  have h1 : TablesOk d1 := tablesOk_foldl (fun _ _ h2 => tablesOk_skipWord h2) h
  exact tablesOk_ite (tablesOk_skipWord h1) h1

theorem tablesOk_runWords (h : TablesOk d) : TablesOk d.runWords := by
  unfold Dev.runWords
  extract_lets _ _ d3
  have h3 : TablesOk d3 := tablesOk_ite (tablesOk_update h) h
  exact tablesOk_ite (tablesOk_ite (tablesOk_foldl (fun _ _ h4 => tablesOk_wordInReset h4) h) h) (tablesOk_ite
    (tablesOk_foldl (fun _ _ h4 => tablesOk_runWord h4) h3) h3)

theorem tablesOk_queueTrig (h : TablesOk d) {n : Nat} : TablesOk (d.queueTrig n) := by
  unfold Dev.queueTrig
  extract_lets _ _ _ _ _ _
  exact tablesOk_ite (tablesOk_update h) h

theorem tablesOk_sendTrigs (h : TablesOk d) : TablesOk d.sendTrigs := by
  unfold Dev.sendTrigs
  extract_lets _ d2 _
  have h2 : TablesOk d2 := tablesOk_foldl (fun _ _ h4 => tablesOk_emit h4) h
  exact tablesOk_update h2

theorem tablesOk_triggers (h : TablesOk d) : TablesOk d.triggers :=
  tablesOk_ite h (tablesOk_sendTrigs (tablesOk_foldl (fun _ _ h1 => tablesOk_queueTrig h1) h))

theorem tablesOk_stalls (h : TablesOk d) : TablesOk d.stalls :=
  tablesOk_ite h (tablesOk_foldl (fun _ _ h1 => tablesOk_ite (tablesOk_modTile (tablesOk_bump h1)) h1) h)

theorem tablesOk_traffic (h : TablesOk d) {l : List (Fin 8 × Fin 16 × Fin 16777216 × Bool)} :
    TablesOk (d.traffic l) := by
  unfold Dev.traffic
  extract_lets _ _
  exact tablesOk_update h

theorem tablesOk_responses (h : TablesOk d) {l : List (Fin 8 × Fin 16)} : TablesOk (d.responses l) :=
  tablesOk_foldl (fun _ _ h1 => tablesOk_respond h1) h

theorem tablesOk_beginWb (h : TablesOk d) : TablesOk d.beginWb :=
  tablesOk_update h

theorem tablesOk_flushAll (h : TablesOk d) : TablesOk d.flushAll :=
  tablesOk_foldl (fun _ _ h1 => tablesOk_flushBlk h1) h

theorem tablesOk_wingbeat (h : TablesOk d) {inp : TickIn} : TablesOk (Dev.wingbeat inp d) := by
  unfold Dev.wingbeat
  extract_lets d1 d2 d3 d4 d5 d6
  have h1 : TablesOk d1 := tablesOk_beginWb h
  have h2 : TablesOk d2 := tablesOk_tickFaults h1
  have h3 : TablesOk d3 := tablesOk_islTick (tablesOk_islTick h2)
  have h4 : TablesOk d4 := tablesOk_flushAll h3
  have h5 : TablesOk d5 := tablesOk_foldl (fun _ _ h7 => tablesOk_watchUnits h7) (tablesOk_watchAll (tablesOk_sense h4))
  have h6 : TablesOk d6 := tablesOk_responses (tablesOk_traffic (tablesOk_stalls (tablesOk_moultWait (tablesOk_arbRetry
    (tablesOk_linksTick h5)))))
  exact tablesOk_triggers (tablesOk_runWords (tablesOk_wakeClass h6))

/-! ### Time -/

theorem tablesOk_tick (h : TablesOk d) {c : Nat} : TablesOk (d.tick c) :=
  tablesOk_update h

theorem tablesOk_mirrorWrite (h : TablesOk d) : TablesOk d.mirrorWrite := by
  unfold Dev.mirrorWrite
  extract_lets _ _ d3 d4 _
  have h3 : TablesOk d3 := tablesOk_hostWrite (tablesOk_hostWrite h)
  have h4 : TablesOk d4 := tablesOk_hostWrite h3
  exact tablesOk_ite h (tablesOk_ite (tablesOk_evHub (tablesOk_bump h)) (tablesOk_update h4))

theorem tablesOk_guarMiss (h : TablesOk d) {k : Nat} : TablesOk (d.guarMiss k) := by
  unfold Dev.guarMiss
  extract_lets _
  exact tablesOk_ite (tablesOk_evHub (tablesOk_bump h)) h

theorem tablesOk_guarantees (h : TablesOk d) : TablesOk d.guarantees := by
  unfold Dev.guarantees
  extract_lets d1 _
  have h1 : TablesOk d1 := tablesOk_foldl (fun _ _ h3 => tablesOk_guarMiss h3) h
  exact tablesOk_update h1

theorem tablesOk_resumeRepeat (h : TablesOk d) {p : Nat} : TablesOk (d.resumeRepeat p) := by
  unfold Dev.resumeRepeat
  extract_lets _ d2 _ d4
  have h2 : TablesOk d2 := tablesOk_modPart h
  have h4 : TablesOk d4 := tablesOk_foldl (fun _ _ h5 => tablesOk_modBlk h5) h2
  exact tablesOk_ite (tablesOk_event h4) h

theorem tablesOk_voteTick (h : TablesOk d) : TablesOk d.voteTick :=
  tablesOk_ite (tablesOk_enableVote h) (tablesOk_revote h)

theorem tablesOk_frameLive (h : TablesOk d) : TablesOk d.frameLive := by
  unfold Dev.frameLive
  extract_lets d1
  have h1 : TablesOk d1 := tablesOk_reduceTick (tablesOk_wakeClass h)
  exact tablesOk_ite h (tablesOk_tickEyes (tablesOk_openSet (tablesOk_foldl (fun _ _ h2 =>
    tablesOk_resumeRepeat h2) h1)))

theorem tablesOk_frameHub (h : TablesOk d) : TablesOk d.frameHub := by
  unfold Dev.frameHub
  extract_lets d1 _
  have h1 : TablesOk d1 := tablesOk_mirrorWrite (tablesOk_guarantees (tablesOk_frameLive h))
  exact tablesOk_ite h (tablesOk_update h1)

theorem tablesOk_controlFrame (h : TablesOk d) : TablesOk d.controlFrame :=
  tablesOk_frameHub (tablesOk_mirrorIslands (tablesOk_voteTick (tablesOk_tick h)))

theorem tablesOk_perceptionFrame (h : TablesOk d) : TablesOk d.perceptionFrame := by
  unfold Dev.perceptionFrame
  extract_lets d1 d2
  have h1 : TablesOk d1 := tablesOk_tick h
  have h2 : TablesOk d2 := tablesOk_wakeClass h1
  exact tablesOk_ite h1 (tablesOk_ite h2 (tablesOk_instarBegin h2))

theorem tablesOk_acctWrite (h : TablesOk d) : TablesOk d.acctWrite := by
  unfold Dev.acctWrite
  extract_lets _ d2 _
  have h2 : TablesOk d2 := by
    refine tablesOk_foldl (fun d x h4 => ?_) h
    extract_lets _
    exact tablesOk_hostWrite (tablesOk_hostWrite h4)
  exact tablesOk_ite h (tablesOk_ite (tablesOk_evHub h) (tablesOk_update h2))

theorem tablesOk_refill (h : TablesOk d) : TablesOk d.refill := by
  unfold Dev.refill
  extract_lets _ _ _ _ _ _
  exact tablesOk_update h

theorem tablesOk_holdTick (h : TablesOk d) : TablesOk d.holdTick := by
  unfold Dev.holdTick
  refine tablesOk_foldl (fun d x h1 => ?_) h
  extract_lets _ d3
  have h3 : TablesOk d3 := tablesOk_modReq h1
  exact tablesOk_ite (tablesOk_finish h3) h3

theorem tablesOk_stallEpoch (h : TablesOk d) : TablesOk d.stallEpoch := by
  unfold Dev.stallEpoch
  refine tablesOk_foldl (fun d x h1 => ?_) h
  extract_lets _ d3
  have h3 : TablesOk d3 := tablesOk_modTile h1
  exact tablesOk_ite h3 (tablesOk_event h3)

theorem tablesOk_epochCounts (h : TablesOk d) : TablesOk d.epochCounts :=
  tablesOk_update h

theorem tablesOk_gptpEpoch (h : TablesOk d) : TablesOk d.gptpEpoch := by
  unfold Dev.gptpEpoch
  extract_lets d1
  have h1 : TablesOk d1 := tablesOk_foldl (fun _ _ h2 => tablesOk_emit h2) h
  split
  rename_i _ _ d2 e
  have h2 : TablesOk d2 := by
    refine tablesOk_snd ?_ e
    split
    · exact h1
    · exact tablesOk_fresh h1
  exact tablesOk_foldl (fun _ _ h3 => tablesOk_emit h3) h2

theorem tablesOk_hourTick (h : TablesOk d) : TablesOk d.hourTick := by
  unfold Dev.hourTick
  extract_lets _
  exact tablesOk_ite (tablesOk_update h) (tablesOk_update h)

theorem tablesOk_mismatchTick (h : TablesOk d) : TablesOk d.mismatchTick :=
  tablesOk_ite (tablesOk_evFloor h) h

theorem tablesOk_epochTick (h : TablesOk d) {lanes : List LaneSample} : TablesOk (Dev.epochTick lanes d) := by
  unfold Dev.epochTick
  extract_lets d1 d2 d3 d4 d5 d6
  have h1 : TablesOk d1 := tablesOk_gptpEpoch (tablesOk_mismatchTick (tablesOk_hourTick (tablesOk_tick h)))
  have h2 : TablesOk d2 := tablesOk_doIf (fun _ h7 => tablesOk_wakeClass h7) h1
  have h3 : TablesOk d3 := tablesOk_ite h2 (tablesOk_holdTick (tablesOk_refill (tablesOk_acctWrite h2)))
  have h4 : TablesOk d4 := tablesOk_powerEpoch (tablesOk_stallEpoch h3)
  have h5 : TablesOk d5 := tablesOk_thermalEpoch (tablesOk_thermalEpoch h4)
  have h6 : TablesOk d6 := tablesOk_life (tablesOk_life h5)
  exact tablesOk_epochCounts (tablesOk_linksEpoch (tablesOk_telemetry h6))

theorem tablesOk_acquire (h : TablesOk d) {gm : Nat} : TablesOk (d.acquire gm) := by
  unfold Dev.acquire
  extract_lets _ _ _ d4 _ _
  have h4 : TablesOk d4 := tablesOk_update h
  exact tablesOk_update h4

theorem tablesOk_enterLocked (h : TablesOk d) {off : Int} : TablesOk (d.enterLocked off) :=
  tablesOk_evFloor (tablesOk_setFld h)

theorem tablesOk_discipline (h : TablesOk d) {off : Int} : TablesOk (d.discipline off) := by
  unfold Dev.discipline
  extract_lets d1
  have h1 : TablesOk d1 := tablesOk_ite (tablesOk_enterLocked h) h
  exact tablesOk_setReg h1

theorem tablesOk_syncIn (h : TablesOk d) {gm : Nat} : TablesOk (Dev.syncIn gm d) := by
  unfold Dev.syncIn
  extract_lets d1 _ _ d4 d5 _
  have h1 : TablesOk d1 := tablesOk_ite (tablesOk_holdover h) h
  have h4 : TablesOk d4 := tablesOk_setReg h1
  have h5 : TablesOk d5 := tablesOk_ite (tablesOk_enterLocked (tablesOk_acquire h4)) (tablesOk_ite h4 (tablesOk_ite
    (tablesOk_evFloor (tablesOk_setReg (tablesOk_setFld h4))) (tablesOk_discipline h4)))
  exact tablesOk_update h5

end

/-! ### The commands -/

section
variable {d : Dev} {s : State}

/-- A next state that an outcome answers has both forms. -/
def ResOk (r : Res) : Prop := ∀ t, r = .next t → TablesOk t.dev

theorem resOk_next {t : State} (h : TablesOk t.dev) : ResOk (.next t) := by
  rintro _ ⟨⟩
  exact h

theorem resOk_checked {ok : Bool} {r : Res} (h : ResOk r) : ResOk (checked ok r) := by
  cases ok with
  | true => exact h
  | false => exact fun _ e => nomatch e

theorem resOk_onDev {f : Dev → Dev} (hf : ∀ d, TablesOk d → TablesOk (f d)) (h : TablesOk s.dev) :
    ResOk (onDev f s) :=
  resOk_next (hf _ h)

theorem resOk_onDevIf {p : Dev → Bool} {f : Dev → Dev} (hf : ∀ d, TablesOk d → TablesOk (f d)) (h : TablesOk s.dev) :
    ResOk (onDevIf p f s) :=
  resOk_next (tablesOk_ite (hf _ h) h)

theorem resOk_onNv {f : Dev → Nv → Dev × Nv} (hf : ∀ d n, TablesOk d → TablesOk (f d n).1) (h : TablesOk s.dev) :
    ResOk (onNv f s) :=
  resOk_next (hf _ _ h)

theorem resOk_onHost {f : Dev → Dev} (hf : ∀ d, TablesOk d → TablesOk (f d)) (h : TablesOk s.dev) :
    ResOk (onHost f s) := by
  refine resOk_next ?_
  dsimp only
  split
  · exact hf _ h
  · exact tablesOk_bump h
  · exact h

theorem resOk_onHostRead {f : Dev → Nv → Dev} (hf : ∀ d n, TablesOk d → TablesOk (f d n)) (h : TablesOk s.dev) :
    ResOk (onHostRead f s) := by
  refine resOk_onNv (fun d n h1 => ?_) h
  split
  · exact hf d n h1
  · exact tablesOk_complete (tablesOk_bump h1)
  · exact h1

theorem resOk_onMgmt {seq : BitVec 16} {loader operation : Bool} {f : Dev → Nv → Dev × Nv}
    (hf : ∀ d n, TablesOk d → TablesOk (f d n).1) (h : TablesOk s.dev) : ResOk (onMgmt seq loader operation f s) := by
  refine resOk_onNv (fun d n h1 => ?_) h
  split
  · exact h1
  · split
    · exact tablesOk_answer h1
    · exact hf d n h1

theorem resOk_onThread {t : ThreadId} {i : Instr} {f : Dev → Dev} (hf : ∀ d, TablesOk d → TablesOk (f d))
    (h : TablesOk s.dev) : ResOk (onThread t i f s) :=
  resOk_onDevIf (fun _ h1 => hf _ (tablesOk_issued h1)) h

theorem resOk_execEngineOpStart (h : TablesOk s.dev) {b : Fin 144} {latch : Option (Fin 32)} {ecc : List EccFinding} :
    ResOk (execEngineOpStart b latch ecc s) :=
  resOk_onDev (fun _ h1 => tablesOk_engStart h1) h

theorem resOk_execResidueMismatch (h : TablesOk s.dev) {b : Fin 144} {cell : Fin 32} {u : Upset} :
    ResOk (execResidueMismatch b cell u s) :=
  resOk_onDevIf (fun _ h1 => tablesOk_modBlk (tablesOk_lastCell h1)) h

theorem resOk_execResidueRetryCheck (h : TablesOk s.dev) {b : Fin 144} {cell : Fin 32} {r : RetryResult} :
    ResOk (execResidueRetryCheck b cell r s) := by
  refine resOk_onDev (fun _ h1 => ?_) h
  extract_lets _
  split
  · exact h1
  · extract_lets _
    split
    · exact tablesOk_beatDone (tablesOk_evBlk (tablesOk_bump h1))
    · exact tablesOk_poisonCurrent (tablesOk_evBlk h1)
    · exact tablesOk_modBlk h1

theorem resOk_execCheckerInjectionDone (h : TablesOk s.dev) {b : Fin 144} {cell : Fin 32} {missed : Fin 65} :
    ResOk (execCheckerInjectionDone b cell missed s) := by
  refine resOk_onDev (fun _ h1 => ?_) h
  extract_lets _ d3 d4
  have h3 : TablesOk d3 := tablesOk_modBlk (tablesOk_evBlk h1)
  have h4 : TablesOk d4 := tablesOk_retireReq h3
  split
  · exact h1
  · exact tablesOk_ite (tablesOk_strike (tablesOk_poisonCurrent (tablesOk_evBlk h1))) (tablesOk_ite
      (tablesOk_poisonCurrent h4) (tablesOk_beatDone (tablesOk_uncheckCurrent h4)))

theorem resOk_execEngineOpComplete (h : TablesOk s.dev) {b : Fin 144} : ResOk (execEngineOpComplete b s) :=
  resOk_onDevIf (fun _ h1 => tablesOk_engEnd h1) h

theorem resOk_execDynDisable (h : TablesOk s.dev) {b : Fin 144} {v : Bool} : ResOk (execDynDisable b v s) :=
  resOk_onHost (fun _ h1 => tablesOk_dynDisable h1) h

theorem resOk_execDynMode (h : TablesOk s.dev) {b : Fin 144} {v : Bool} : ResOk (execDynMode b v s) :=
  resOk_onHost (fun _ h1 => tablesOk_dynMode h1) h

theorem resOk_execEngineDrainLimit (h : TablesOk s.dev) {b : Fin 144} : ResOk (execEngineDrainLimit b s) :=
  resOk_onDevIf (fun _ h1 => tablesOk_abortDyn h1) h

theorem resOk_execPpuOpComplete (h : TablesOk s.dev) {token : Fin 16384} {lockstep : Option (Fin 4294967296)} :
    ResOk (execPpuOpComplete token lockstep s) :=
  resOk_onDevIf (fun _ h1 => tablesOk_ppuNext (tablesOk_ppuEnd h1)) h

theorem resOk_execThreadLoad (h : TablesOk s.dev) {t : ThreadId} {rd rs1 : XReg} {imm : BitVec 12} {width : Fin 4}
    {sext : Bool} {kind : LoadKind} {ecc : List EccFinding} :
    ResOk (execThreadLoad t rd rs1 imm width sext kind ecc s) := by
  unfold execThreadLoad
  refine resOk_onThread (fun d h1 => ?_) h
  cases kind with
  | csr n => exact tablesOk_csrOp h1
  | reserved | vector | plain | float => exact tablesOk_thLoad h1

theorem resOk_execThreadStore (h : TablesOk s.dev) {t : ThreadId} {rs1 rs2 : XReg} {imm : BitVec 12} {width : Fin 4}
    {kind : StoreKind} {rd : XReg} {ecc : List EccFinding} :
    ResOk (execThreadStore t rs1 rs2 imm width kind rd ecc s) := by
  unfold execThreadStore
  refine resOk_onThread (fun _ h1 => ?_) h
  extract_lets _
  split
  · exact tablesOk_csrOp h1
  · exact tablesOk_thStore h1
  · exact tablesOk_thStore h1
  · exact tablesOk_thStore h1
  · exact tablesOk_thStore h1

theorem resOk_execGwPtest (h : TablesOk s.dev) {t : ThreadId} {rd rs1 : XReg} : ResOk (execGwPtest t rd rs1 s) := by
  refine resOk_onThread (fun _ h1 => ?_) h
  apply tablesOk_ite
  · exact tablesOk_ret h1
  · split
    · rename_i _ d2 e
      have h2 : TablesOk d2 := tablesOk_fst (tablesOk_thAccess h1) e
      exact h2
    · rename_i _ d2 _ e
      have h2 : TablesOk d2 := tablesOk_fst (tablesOk_thAccess h1) e
      exact tablesOk_ret h2

theorem resOk_execGwElaunch (h : TablesOk s.dev) {t : ThreadId} {rd rs1 : XReg} : ResOk (execGwElaunch t rd rs1 s) :=
  resOk_onThread (fun _ h1 => tablesOk_elaunch h1) h

theorem resOk_execGwRfence (h : TablesOk s.dev) {t : ThreadId} {rs1 rs2 : XReg} : ResOk (execGwRfence t rs1 rs2 s) := by
  refine resOk_onThread (fun _ h1 => ?_) h
  extract_lets _ _ _ _
  exact tablesOk_ite (tablesOk_stall h1) (tablesOk_ret h1)

theorem resOk_execGwCreditAcq (h : TablesOk s.dev) {t : ThreadId} {rd rs1 rs2 : XReg} :
    ResOk (execGwCreditAcq t rd rs1 rs2 s) := by
  refine resOk_onThread (fun _ h1 => ?_) h
  extract_lets _ _
  split
  · exact tablesOk_excReloc h1
  · exact tablesOk_except (tablesOk_deny h1)
  · apply tablesOk_ite
    · exact tablesOk_stall h1
    · split
      · exact tablesOk_noPool h1
      · extract_lets _ _
        apply tablesOk_ite
        · exact tablesOk_except (tablesOk_deny h1)
        · split
          · exact tablesOk_ret (tablesOk_bump h1)
          · exact tablesOk_ite (tablesOk_ite (tablesOk_ret h1) (tablesOk_execGwCreditAcq_wait' h1)) (tablesOk_grant h1)
          · exact tablesOk_ite (tablesOk_ret h1) (tablesOk_execGwCreditAcq_wait' h1)

theorem resOk_execGwCreditPub (h : TablesOk s.dev) {t : ThreadId} {rs1 : XReg} : ResOk (execGwCreditPub t rs1 s) := by
  refine resOk_onThread (fun _ h1 => ?_) h
  split
  · exact tablesOk_excReloc h1
  · exact tablesOk_except (tablesOk_deny h1)
  · split
    · extract_lets d2
      have h2 : TablesOk d2 := tablesOk_flushBlk h1
      exact tablesOk_ite (tablesOk_stall h2) (tablesOk_ret (tablesOk_modT (tablesOk_modPool h2)))
    · exact tablesOk_ret h1

theorem resOk_execGwCreditTake (h : TablesOk s.dev) {t : ThreadId} {rd rs1 rs2 : XReg} :
    ResOk (execGwCreditTake t rd rs1 rs2 s) := by
  refine resOk_onThread (fun _ h1 => ?_) h
  extract_lets _
  split
  · exact tablesOk_excReloc h1
  · exact tablesOk_except (tablesOk_deny h1)
  · split
    · exact tablesOk_noPool h1
    · extract_lets _
      exact tablesOk_ite (tablesOk_except (tablesOk_deny h1)) (tablesOk_ite (tablesOk_ret h1) (tablesOk_ite
        (tablesOk_ite (tablesOk_ret h1) (tablesOk_stall h1)) (tablesOk_ret (tablesOk_modPool h1))))

theorem resOk_execGwCreditRel (h : TablesOk s.dev) {t : ThreadId} {rs1 rs2 : XReg} :
    ResOk (execGwCreditRel t rs1 rs2 s) := by
  refine resOk_onThread (fun _ h1 => ?_) h
  split
  · exact tablesOk_excReloc h1
  · exact tablesOk_except (tablesOk_deny h1)
  · split
    · exact tablesOk_noPool h1
    · extract_lets _
      exact tablesOk_ret (tablesOk_serve (tablesOk_modPool h1))

theorem resOk_execGwTwaitTag (h : TablesOk s.dev) {t : ThreadId} {rd rs1 rs2 : XReg} :
    ResOk (execGwTwaitTag t rd rs1 rs2 s) := by
  refine resOk_onThread (fun _ h1 => ?_) h
  extract_lets _ _ _ d5
  have h5 : TablesOk d5 := tablesOk_ite (tablesOk_modT (tablesOk_settle h1)) h1
  exact tablesOk_modT h5

theorem resOk_execGwTwaitClass (h : TablesOk s.dev) {t : ThreadId} {rd rs1 rs2 : XReg} :
    ResOk (execGwTwaitClass t rd rs1 rs2 s) := by
  refine resOk_onThread (fun _ h1 => ?_) h
  extract_lets _
  exact tablesOk_ite (tablesOk_excPoison h1) (tablesOk_modT h1)

theorem resOk_execTwaitLimitExpiry (h : TablesOk s.dev) {t : ThreadId} : ResOk (execTwaitLimitExpiry t s) :=
  resOk_onDevIf (fun _ h1 => tablesOk_wake h1) h

theorem resOk_execCoreArrayParity (h : TablesOk s.dev) {t : ThreadId} {array : Fin 256} :
    ResOk (execCoreArrayParity t array s) := by
  refine resOk_onDevIf (fun _ h1 => ?_) h
  extract_lets d2 d3
  have h2 : TablesOk d2 := tablesOk_evBlk (tablesOk_bump h1)
  have h3 : TablesOk d3 := tablesOk_ite (tablesOk_except h2) h2
  exact tablesOk_arrayError h3

theorem resOk_execScrubPassComplete (h : TablesOk s.dev) {b : Fin 144} {ecc : List EccFinding} :
    ResOk (execScrubPassComplete b ecc s) := by
  refine resOk_onDevIf (fun _ h1 => ?_) h
  extract_lets _ d3 _ d5
  have h3 : TablesOk d3 := tablesOk_sramEccs h1
  have h5 : TablesOk d5 := tablesOk_setReg h3
  exact tablesOk_modBlk h5

theorem resOk_execRowRepair (h : TablesOk s.dev) {b : Fin 144} {sp : Fin 5} {bank : Fin 16} {row : Fin 64} :
    ResOk (execRowRepair b sp bank row s) := by
  refine resOk_onDevIf (fun _ h1 => ?_) h
  extract_lets _ _ _ d5 d6 d7
  have h5 : TablesOk d5 := tablesOk_modBlk h1
  have h6 : TablesOk d6 := tablesOk_modBlk h5
  have h7 : TablesOk d7 := tablesOk_evBlk h6
  exact tablesOk_ite (tablesOk_ite (tablesOk_evBlk h7) h7) (tablesOk_retireReq (tablesOk_evBlk h5))

theorem resOk_execQueueEnable (h : TablesOk s.dev) {mode : Bool} : ResOk (execQueueEnable mode s) :=
  resOk_onHost (fun _ h1 => tablesOk_queueEnable h1) h

theorem resOk_execQueueDisable (h : TablesOk s.dev) {mode : Bool} : ResOk (execQueueDisable mode s) :=
  resOk_onHost (fun _ h1 => tablesOk_queueDisable h1) h

theorem resOk_execQmDoorbell (h : TablesOk s.dev) {v : DWord} {wide : Bool} : ResOk (execQmDoorbell v wide s) :=
  resOk_onHost (fun _ h1 => tablesOk_qmDoorbell h1) h

theorem resOk_execQmCqDoorbell (h : TablesOk s.dev) {v : DWord} {wide : Bool} : ResOk (execQmCqDoorbell v wide s) :=
  resOk_onHost (fun _ h1 => tablesOk_qmCqDoorbell h1) h

theorem resOk_execContextLoad (h : TablesOk s.dev) : ResOk (execContextLoad s) :=
  resOk_onHost (fun _ h1 => tablesOk_contextLoad h1) h

theorem resOk_execContextDisable (h : TablesOk s.dev) : ResOk (execContextDisable s) :=
  resOk_onHost (fun _ h1 => tablesOk_contextDisable h1) h

theorem resOk_execPartitionDisable (h : TablesOk s.dev) {p : Fin 64} {mode : Bool} :
    ResOk (execPartitionDisable p mode s) :=
  resOk_onHost (fun _ h1 => tablesOk_partitionDisable h1) h

theorem resOk_execPartitionEnable (h : TablesOk s.dev) {p : Fin 64} {mode : Bool} :
    ResOk (execPartitionEnable p mode s) :=
  resOk_onHost (fun _ h1 => tablesOk_partitionEnable h1) h

theorem resOk_execDrainLimit (h : TablesOk s.dev) {o : DisObj} : ResOk (execDrainLimit o s) := by
  refine resOk_onDev (fun _ h1 => ?_) h
  extract_lets d2 _ _
  have h2 : TablesOk d2 := tablesOk_ite (tablesOk_disCheck (tablesOk_abortObj h1)) h1
  exact tablesOk_foldl (fun _ _ h5 => tablesOk_finish h5) h2

theorem resOk_execTaskComplete (h : TablesOk s.dev) {token : Fin 16384} : ResOk (execTaskComplete token s) := by
  refine resOk_onDevIf (fun _ h1 => ?_) h
  extract_lets _ d3 d4
  have h3 : TablesOk d3 := tablesOk_ite (tablesOk_abandon h1) h1
  have h4 : TablesOk d4 := by
    refine tablesOk_ite ?_ h3
    split
    · exact tablesOk_endOp h3
    · exact h3
  exact tablesOk_ite (tablesOk_opRecord h4) h4

theorem resOk_execFenceComplete (h : TablesOk s.dev) {token : Fin 16384} : ResOk (execFenceComplete token s) :=
  resOk_onDevIf (fun _ h1 => tablesOk_settle h1) h

theorem resOk_execDeadlineAbandon (h : TablesOk s.dev) {token : Fin 16384} : ResOk (execDeadlineAbandon token s) :=
  resOk_onDevIf (fun _ h1 => tablesOk_abandon h1) h

theorem resOk_execQmMirrorCtl (h : TablesOk s.dev) {en : Bool} : ResOk (execQmMirrorCtl en s) :=
  resOk_onHost (fun _ h1 => tablesOk_qmMirrorCtl h1) h

theorem resOk_execQmAcctCtl (h : TablesOk s.dev) {en : Bool} : ResOk (execQmAcctCtl en s) :=
  resOk_onHost (fun _ h1 => tablesOk_qmAcctCtl h1) h

theorem resOk_execDescriptorPull (h : TablesOk s.dev) : ResOk (execDescriptorPull s) := by
  refine resOk_onDev (fun _ h1 => ?_) h
  split
  · rename_i _ _ d2 e
    have h2 : TablesOk d2 := tablesOk_pick h1 e
    exact tablesOk_cqHold (tablesOk_pull h2)
  · exact tablesOk_cqHold h1

theorem tablesOk_getD {x : Option Dev} (hx : ∀ d', x = some d' → TablesOk d') (h : TablesOk d) :
    TablesOk (x.getD d) := by
  cases x with
  | none => exact h
  | some d' => exact hx d' rfl

theorem resOk_execOperationDispatch (h : TablesOk s.dev) : ResOk (execOperationDispatch s) := by
  refine resOk_onDevIf (fun d h1 => tablesOk_getD (fun d' e => ?_) h1) h
  rcases (Option.orElse_eq_some _ _ _).1 e with e | ⟨-, e⟩
  · obtain ⟨t, -, e⟩ := List.exists_of_findSome?_eq_some e
    exact tablesOk_replaceOne h1 e
  · obtain ⟨k, -, e⟩ := List.exists_of_findSome?_eq_some e
    exact tablesOk_dispatchOne h1 e

theorem resOk_execPreemptionStart (h : TablesOk s.dev) {b : Fin 144} : ResOk (execPreemptionStart b s) :=
  resOk_onDevIf (fun _ h1 => tablesOk_preemptStart h1) h

theorem resOk_execGrantCancelAtPreemption (h : TablesOk s.dev) {b : Fin 144} :
    ResOk (execGrantCancelAtPreemption b s) := by
  refine resOk_onDevIf (fun _ h1 => ?_) h
  extract_lets _
  exact tablesOk_sweepAll (tablesOk_foldl (fun _ _ h3 => tablesOk_cancelGrant h3) h1)

theorem resOk_execSaveComplete (h : TablesOk s.dev) {b : Fin 144} : ResOk (execSaveComplete b s) := by
  refine resOk_onDevIf (fun _ h1 => ?_) h
  split
  · exact tablesOk_saveDone h1
  · exact h1

theorem resOk_execSavedSetResume (h : TablesOk s.dev) {t : Fin 4} : ResOk (execSavedSetResume t s) := by
  refine resOk_onDevIf (fun _ h1 => ?_) h
  split
  · split
    · exact tablesOk_resumeSet h1
    · exact h1
  · exact h1

theorem resOk_execInstanceLoad (h : TablesOk s.dev) {mode : Bool} : ResOk (execInstanceLoad mode s) :=
  resOk_onHost (fun _ h1 => tablesOk_instanceLoad h1) h

theorem resOk_execInstanceUnload (h : TablesOk s.dev) {mode : Bool} : ResOk (execInstanceUnload mode s) :=
  resOk_onHost (fun _ h1 => tablesOk_instanceUnload h1) h

theorem resOk_execQmSrvCtlFair (h : TablesOk s.dev) {v : Bool} : ResOk (execQmSrvCtlFair v s) :=
  resOk_onHost (fun _ h1 => tablesOk_qmSrvCtlFair h1) h

theorem resOk_execQmBudget (h : TablesOk s.dev) {c : Fin 1024} {v : Word} : ResOk (execQmBudget c v s) :=
  resOk_onHost (fun _ h1 => tablesOk_qmBudget h1) h

theorem resOk_execPrefixLookupDone (h : TablesOk s.dev) {token : Fin 16384} : ResOk (execPrefixLookupDone token s) := by
  refine resOk_onDevIf (fun _ h1 => ?_) h
  extract_lets _ _
  split
  rename_i _ d4 _ e
  have h4 : TablesOk d4 := tablesOk_fst (tablesOk_pfxWalk h1) e
  split
  rename_i _ d5 _ e
  have h5 : TablesOk d5 := by
    refine tablesOk_fst ?_ e
    split
    · split
      · exact tablesOk_pfxRelease h4
      · exact h4
    · exact h4
  extract_lets d6
  have h6 : TablesOk d6 := tablesOk_modReq h5
  exact tablesOk_outWrite h6

theorem resOk_execStepBoundary (h : TablesOk s.dev) {i : Fin 8} : ResOk (execStepBoundary i s) :=
  resOk_onDevIf (fun _ h1 => tablesOk_boundary h1) h

theorem resOk_execRepeatCompare (h : TablesOk s.dev) {b : Fin 144} {differ : List (Fin 8192)}
    {uncorrectable : Option (Fin 8192)} : ResOk (execRepeatCompare b differ uncorrectable s) := by
  refine resOk_onDev (fun _ h1 => ?_) h
  split
  · exact h1
  · extract_lets _
    split
    · exact tablesOk_report (tablesOk_evBlk h1)
    · split
      · exact tablesOk_report (tablesOk_bump h1)
      · extract_lets d3 d4
        have h3 : TablesOk d3 := tablesOk_setReg (tablesOk_bump h1)
        have h4 : TablesOk d4 := tablesOk_modEng h3
        exact tablesOk_arbStart h4

theorem resOk_execArbitrationWaitExpiry (h : TablesOk s.dev) {b : Fin 144} : ResOk (execArbitrationWaitExpiry b s) := by
  refine resOk_onDev (fun _ h1 => ?_) h
  split
  · exact tablesOk_arbFail h1
  · exact h1

theorem resOk_execCopyInDone (h : TablesOk s.dev) {t : Fin 4} : ResOk (execCopyInDone t s) := by
  refine resOk_onDev (fun _ h1 => ?_) h
  split
  · exact h1
  · extract_lets _ _ _ d5
    have h5 : TablesOk d5 := tablesOk_foldl (fun _ _ h6 => tablesOk_moveRange h6) (tablesOk_copyPop h1)
    exact tablesOk_modEng (tablesOk_bump h5)

theorem resOk_execArbitrationOutcome (h : TablesOk s.dev) {b : Fin 144} {v : ThirdSigs} {poisoned : Bool} :
    ResOk (execArbitrationOutcome b v poisoned s) := by
  refine resOk_onDev (fun _ h1 => ?_) h
  split
  · exact h1
  · extract_lets _ _ _ d5 _ result _ d9 d10 d11 d12
    have h5 : TablesOk d5 := tablesOk_modEng h1
    have h9 : TablesOk d9 := tablesOk_ite (tablesOk_cutBeats h5) (tablesOk_writeBeats h5)
    have h10 : TablesOk d10 := tablesOk_evBlk (tablesOk_rxOutcome h9)
    have h11 : TablesOk d11 := tablesOk_strike (tablesOk_rxOutcome h9)
    have h12 : TablesOk d12 := tablesOk_modEng h11
    apply tablesOk_ite
    · exact h1
    · clear_value result
      split
      · exact tablesOk_arbRetry (tablesOk_arbNeither (tablesOk_ite (tablesOk_cutBeats h5) (tablesOk_writeBeats h5)))
      · exact tablesOk_arbRetry (tablesOk_strike (tablesOk_report (tablesOk_evBlk (tablesOk_rxOutcome (tablesOk_ite
          (tablesOk_cutBeats h5) (tablesOk_writeBeats h5))))))
      · exact tablesOk_modTile (tablesOk_modEng (tablesOk_strike (tablesOk_rxOutcome (tablesOk_ite
          (tablesOk_cutBeats h5) (tablesOk_writeBeats h5)))))

theorem resOk_execCopyBackDone (h : TablesOk s.dev) {t : Fin 4} : ResOk (execCopyBackDone t s) := by
  refine resOk_onDev (fun _ h1 => ?_) h
  split
  · exact h1
  · extract_lets _ _ d4 d5
    have h4 : TablesOk d4 := tablesOk_foldl (fun _ _ h6 => tablesOk_moveRange h6) (tablesOk_copyPop h1)
    have h5 : TablesOk d5 := tablesOk_evBlk h4
    exact tablesOk_arbRetry (tablesOk_report h5)

theorem resOk_execStrikeExpiry (h : TablesOk s.dev) {b : Fin 144} : ResOk (execStrikeExpiry b s) :=
  resOk_onDev (fun _ h1 => tablesOk_modBlk h1) h

theorem resOk_execDebugSessionDetach (h : TablesOk s.dev) : ResOk (execDebugSessionDetach s) := by
  refine resOk_onDevIf (fun _ h1 => ?_) h
  extract_lets d2 _
  have h2 : TablesOk d2 := tablesOk_foldl (fun _ _ h4 => tablesOk_modPart h4) h1
  exact tablesOk_update h2

theorem resOk_execMoultDecision (h : TablesOk s.dev) {b : Fin 144} : ResOk (execMoultDecision b s) := by
  refine resOk_onDev (fun _ h1 => ?_) h
  split
  · exact tablesOk_retireBlock h1
  · exact h1

theorem resOk_execMoultRemap (h : TablesOk s.dev) {b : Fin 144} : ResOk (execMoultRemap b s) := by
  refine resOk_onDev (fun _ h1 => ?_) h
  extract_lets _
  split
  · exact h1
  · split
    · apply tablesOk_ite
      · exact h1
      · split
        · exact tablesOk_planMoult (tablesOk_modMoult h1)
        · extract_lets _ d4 d5 _ d7
          have h4 : TablesOk d4 := tablesOk_modTile h1
          have h5 : TablesOk d5 := by
            unfold d5
            split
            · exact tablesOk_modTile h4
            · exact h4
          have h7 : TablesOk d7 := tablesOk_setReg h5
          exact tablesOk_modMoult (tablesOk_modBlk h7)
    · exact h1

theorem resOk_execMoultEffect (h : TablesOk s.dev) {b : Fin 144} : ResOk (execMoultEffect b s) := by
  refine resOk_onDev (fun _ h1 => ?_) h
  extract_lets _
  split
  · exact h1
  · split
    · extract_lets _ d4 d5 _ d7 d8 d9
      have h4 : TablesOk d4 := tablesOk_modBlk h1
      have h5 : TablesOk d5 := tablesOk_gate h4
      have h7 : TablesOk d7 := tablesOk_modTile h5
      have h8 : TablesOk d8 := tablesOk_evBlk h7
      have h9 : TablesOk d9 := tablesOk_startThreads h8
      exact tablesOk_ite h1 (tablesOk_ite (tablesOk_event h9) h9)
    · exact h1

theorem resOk_execDonorEmptied (h : TablesOk s.dev) {b : Fin 144} : ResOk (execDonorEmptied b s) := by
  refine resOk_onDevIf (fun _ h1 => ?_) h
  extract_lets _ _
  exact tablesOk_modTile h1

theorem resOk_execRepairRecordWrite (h : TablesOk s.dev) : ResOk (execRepairRecordWrite s) := by
  refine resOk_onNv (fun _ _ h1 => ?_) h
  extract_lets _ _ _
  split
  · exact h1
  · split <;> exact h1

theorem resOk_execAudioBlockClose (h : TablesOk s.dev) : ResOk (execAudioBlockClose s) := by
  refine resOk_onDevIf (fun _ h1 => ?_) h
  extract_lets _ d3
  have h3 : TablesOk d3 := tablesOk_foldl (fun _ _ h4 => tablesOk_closeArray h4) h1
  exact tablesOk_modFus h3

theorem resOk_execAvtpduReceived (h : TablesOk s.dev) {p : Avtpdu} : ResOk (execAvtpduReceived p s) := by
  refine resOk_onDevIf (fun _ h1 => ?_) h
  apply tablesOk_ite
  · exact tablesOk_dropFrame h1
  · apply tablesOk_ite
    · exact tablesOk_dropFrame h1
    · apply tablesOk_ite
      · exact h1
      · split
        · exact tablesOk_bump h1
        · exact tablesOk_ite (tablesOk_streamPdu h1) h1

theorem resOk_execLidarDeskewDone (h : TablesOk s.dev) {stream : Fin 64} : ResOk (execLidarDeskewDone stream s) := by
  refine resOk_onDevIf (fun _ h1 => ?_) h
  split
  · split
    rename_i _ d2 _ e
    have h2 : TablesOk d2 := tablesOk_fst (tablesOk_egoMotion h1) e
    extract_lets d3 d4
    have h3 : TablesOk d3 := by
      unfold d3
      split
      · exact tablesOk_transform h2
      · exact h2
    have h4 : TablesOk d4 := tablesOk_modStr h3
    exact tablesOk_wholeFrame h4
  · exact h1

theorem resOk_execTimeOfValidity (h : TablesOk s.dev) : ResOk (execTimeOfValidity s) := by
  refine resOk_onDevIf (fun _ h1 => ?_) h
  extract_lets _
  exact tablesOk_modFus (tablesOk_foldl (fun _ _ h3 => tablesOk_closeWindows h3) h1)

theorem resOk_execUpdateSeal (h : TablesOk s.dev) : ResOk (execUpdateSeal s) := by
  refine resOk_onDevIf (fun _ h1 => ?_) h
  extract_lets _ _ _ _
  split
  rename_i _ d6 _ e
  have h6 : TablesOk d6 := by
    refine tablesOk_fst (tablesOk_foldlPair (fun _ _ h7 => ?_) h1) e
    exact tablesOk_sealStream h7
  extract_lets d7
  have h7 : TablesOk d7 := tablesOk_hubWrite h6
  exact tablesOk_modFus h7

theorem resOk_execOutputCommit (h : TablesOk s.dev) {kind : Fin 6} : ResOk (execOutputCommit kind s) := by
  refine resOk_onDevIf (fun _ h1 => ?_) h
  extract_lets _
  split
  · exact tablesOk_accept h1
  · exact tablesOk_event h1

theorem resOk_execReleaseDeadline (h : TablesOk s.dev) : ResOk (execReleaseDeadline s) := by
  refine resOk_onDevIf (fun _ h1 => ?_) h
  split
  · exact tablesOk_deadlineOf h1
  · exact h1

theorem resOk_execMapCommit (h : TablesOk s.dev) : ResOk (execMapCommit s) := by
  refine resOk_onDevIf (fun _ h1 => ?_) h
  extract_lets _ d3
  have h3 : TablesOk d3 := tablesOk_mapReads h1
  split
  · exact tablesOk_acceptMap h3
  · exact tablesOk_evPl h3

theorem resOk_execSetCommit (h : TablesOk s.dev) : ResOk (execSetCommit s) := by
  refine resOk_onDevIf (fun _ h1 => ?_) h
  extract_lets _ d3 _ _ d6
  have h3 : TablesOk d3 := tablesOk_denyN h1
  have h6 : TablesOk d6 := tablesOk_foldl (fun _ _ h7 => tablesOk_modCand h7) h3
  split
  · exact tablesOk_fillLanes (tablesOk_modPl h6)
  · exact tablesOk_evPl h3

theorem resOk_execCandidateCheckDone (h : TablesOk s.dev) : ResOk (execCandidateCheckDone s) := by
  refine resOk_onDevIf (fun _ h1 => ?_) h
  split
  · exact h1
  · exact tablesOk_rechoose (tablesOk_fillLanes (tablesOk_finishCheck (tablesOk_modPl h1)))

theorem resOk_execSelectionInstant (h : TablesOk s.dev) : ResOk (execSelectionInstant s) :=
  resOk_onDevIf (fun _ h1 => tablesOk_rechoose (tablesOk_fillLanes (tablesOk_headRechecks (tablesOk_modPl h1)))) h

theorem resOk_execGateCutoff (h : TablesOk s.dev) : ResOk (execGateCutoff s) :=
  resOk_onDevIf (fun _ h1 => tablesOk_cutoff h1) h

theorem resOk_execPrimaryRelease (h : TablesOk s.dev) : ResOk (execPrimaryRelease s) := by
  refine resOk_onDevIf (fun _ h1 => ?_) h
  extract_lets _ _ _ d5
  have h5 : TablesOk d5 := tablesOk_modPl h1
  split
  · exact h1
  · extract_lets d6
    have h6 : TablesOk d6 := tablesOk_foldl (fun _ _ h7 => tablesOk_emit h7) h5
    exact tablesOk_ite h5 (tablesOk_modPl h6)

theorem resOk_execTransmitConfirmation (h : TablesOk s.dev) {port : Fin 2} :
    ResOk (execTransmitConfirmation port s) := by
  refine resOk_onDevIf (fun _ h1 => ?_) h
  split
  · exact h1
  · extract_lets _ d3
    have h3 : TablesOk d3 := tablesOk_emit (tablesOk_modPl h1)
    exact tablesOk_update h3

theorem resOk_execSafeStateCommit (h : TablesOk s.dev) {i : Isl} : ResOk (execSafeStateCommit i s) := by
  refine resOk_onDev (fun _ h1 => ?_) h
  split
  · exact h1
  · extract_lets d2 d3
    have h2 : TablesOk d2 := tablesOk_modIsl h1
    have h3 : TablesOk d3 := tablesOk_modIsl h2
    exact tablesOk_ite h2 (tablesOk_ite (tablesOk_commitSafe h3) (tablesOk_evIsl h3))

theorem resOk_execSafeStateRequestReceived (h : TablesOk s.dev) {i : Isl} :
    ResOk (execSafeStateRequestReceived i s) := by
  refine resOk_onDev (fun _ h1 => ?_) h
  extract_lets d2
  have h2 : TablesOk d2 := tablesOk_modIsl h1
  split
  · exact h1
  · exact tablesOk_ite (tablesOk_commitSafe h2) h2

theorem resOk_execFrameEvaluation (h : TablesOk s.dev) {i : Isl} {reportOk feedOk : Bool} :
    ResOk (execFrameEvaluation i reportOk feedOk s) := by
  refine resOk_onDevIf (fun _ h1 => ?_) h
  extract_lets _ d3 _ _ d6 d7 d8
  have h3 : TablesOk d3 := by
    unfold d3
    split
    · exact tablesOk_modIsl (tablesOk_playLate h1)
    · exact h1
  have h6 : TablesOk d6 := tablesOk_ite h3 (tablesOk_modIsl h3)
  have h7 : TablesOk d7 := tablesOk_ite h6 (tablesOk_modIsl h6)
  have h8 : TablesOk d8 := tablesOk_modIsl h7
  exact tablesOk_playCount (tablesOk_feedCount (tablesOk_judge h8))

theorem resOk_execCocoonMessageSend (h : TablesOk s.dev) {i : Isl} : ResOk (execCocoonMessageSend i s) := by
  refine resOk_onDevIf (fun _ h1 => ?_) h
  extract_lets _ _ d4 d5
  have h4 : TablesOk d4 := tablesOk_playStart h1
  have h5 : TablesOk d5 := tablesOk_modIsl h4
  exact tablesOk_ite h5 (tablesOk_emit h5)

theorem resOk_execStatusMessageSend (h : TablesOk s.dev) {i : Isl} : ResOk (execStatusMessageSend i s) := by
  refine resOk_onDevIf (fun _ h1 => ?_) h
  extract_lets _ _
  exact tablesOk_emit (tablesOk_modIsl h1)

theorem resOk_execHeartbeatSend (h : TablesOk s.dev) {i : Isl} : ResOk (execHeartbeatSend i s) := by
  refine resOk_onDevIf (fun _ h1 => ?_) h
  extract_lets _
  exact tablesOk_emit (tablesOk_modIsl h1)

theorem resOk_execHeartbeatReceive (h : TablesOk s.dev) {i : Isl} {x : HbObs} : ResOk (execHeartbeatReceive i x s) := by
  refine resOk_onDevIf (fun _ h1 => ?_) h
  split
  · extract_lets d2 d3
    have h2 : TablesOk d2 := tablesOk_modIsl h1
    have h3 : TablesOk d3 := tablesOk_ite (tablesOk_islReq h2) h2
    exact tablesOk_revoteOne (tablesOk_stepEval (tablesOk_exchange h3))
  · exact tablesOk_exchange (tablesOk_modIsl h1)
  · exact tablesOk_exchange (tablesOk_modIsl h1)

theorem resOk_execPeerLost (h : TablesOk s.dev) {i : Isl} : ResOk (execPeerLost i s) := by
  refine resOk_onDevIf (fun _ h1 => ?_) h
  extract_lets _ d3
  have h3 : TablesOk d3 := tablesOk_evIsl (tablesOk_modIsl h1)
  exact tablesOk_revoteOne (tablesOk_islReq h3)

theorem resOk_execCocoonRequestReceived (h : TablesOk s.dev) {i : Isl} {frame : Fin 140737488355328} :
    ResOk (execCocoonRequestReceived i frame s) :=
  resOk_onDevIf (fun _ h1 => tablesOk_emit h1) h

theorem resOk_execCocoonCopyReceived (h : TablesOk s.dev) {i : Isl} {frame : Fin 140737488355328} {gen : BitVec 16}
    {crcOk : Bool} {data : List Byte} : ResOk (execCocoonCopyReceived i frame gen crcOk data s) := by
  refine resOk_onDevIf (fun _ h1 => ?_) h
  extract_lets _ _ d4 d5
  have h4 : TablesOk d4 := tablesOk_modIsl h1
  have h5 : TablesOk d5 := tablesOk_modIsl h4
  exact tablesOk_ite (tablesOk_evIsl (tablesOk_ite (tablesOk_playEnd h5) h5)) (tablesOk_playLate h4)

theorem resOk_execSelftestPassEnd (h : TablesOk s.dev) {b : Fin 144} {good : Bool} {pattern : Word} :
    ResOk (execSelftestPassEnd b good pattern s) := by
  refine resOk_onDevIf (fun _ h1 => ?_) h
  extract_lets _ _ d4
  have h4 : TablesOk d4 := tablesOk_modBlk h1
  exact tablesOk_ite (tablesOk_latentNow (tablesOk_checkpoint h4)) (tablesOk_retireReq (tablesOk_evIsl
    (tablesOk_modBlk h1)))

theorem resOk_execSelftestOverdue (h : TablesOk s.dev) {b : Fin 144} : ResOk (execSelftestOverdue b s) := by
  refine resOk_onDevIf (fun _ h1 => ?_) h
  extract_lets _ d3 d4
  have h3 : TablesOk d3 := tablesOk_modBlk h1
  have h4 : TablesOk d4 := tablesOk_ite (tablesOk_evIsl h3) h3
  exact tablesOk_latentNow (tablesOk_ite (tablesOk_evIsl h4) h4)

theorem resOk_execComputeResetAssert (h : TablesOk s.dev) : ResOk (execComputeResetAssert s) :=
  resOk_onDevIf (fun _ h1 => tablesOk_assertReset h1) h

theorem resOk_execRecoveryStepTimeout (h : TablesOk s.dev) {step : Fin 16} {ms : Fin 65536} :
    ResOk (execRecoveryStepTimeout step ms s) :=
  resOk_onDevIf (fun _ h1 => tablesOk_recoveryLate h1) h

theorem resOk_execSensorMarkFailed (h : TablesOk s.dev) {pair : Fin 62} : ResOk (execSensorMarkFailed pair s) := by
  refine resOk_onDevIf (fun _ h1 => ?_) h
  extract_lets _ _ _ _ _ _ _ _ _ _ _ d13 _ d15
  have h13 : TablesOk d13 := tablesOk_update h1
  have h15 : TablesOk d15 := tablesOk_ite (tablesOk_evFloor h13) h13
  exact tablesOk_ite (tablesOk_evFloor h15) h15

theorem resOk_execRailFault (h : TablesOk s.dev) {rail : Fin 5} {mv : BitVec 16} : ResOk (execRailFault rail mv s) := by
  refine resOk_onDevIf (fun _ h1 => ?_) h
  extract_lets _ d3 _ d5
  have h3 : TablesOk d3 := tablesOk_evFloor (tablesOk_bump (tablesOk_lowerFirst h1))
  have h5 : TablesOk d5 := tablesOk_update h3
  exact tablesOk_ite (tablesOk_recoveryFails h5) (tablesOk_assertReset h5)

theorem resOk_execPhaseFault (h : TablesOk s.dev) {phase : Fin 576} {cause : PhaseCause} :
    ResOk (execPhaseFault phase cause s) := by
  refine resOk_onDevIf (fun _ h1 => ?_) h
  extract_lets _ _ d4
  have h4 : TablesOk d4 := tablesOk_update h1
  exact tablesOk_ite (tablesOk_retireReq (tablesOk_killBlock (tablesOk_evBlk (tablesOk_stopHandling h4))))
    (tablesOk_evFloor h4)

theorem resOk_execAnalogTrip (h : TablesOk s.dev) {pair : Fin 60} : ResOk (execAnalogTrip pair s) := by
  refine resOk_onDevIf (fun _ h1 => ?_) h
  extract_lets _ _ d4 d5
  have h4 : TablesOk d4 := tablesOk_update h1
  have h5 : TablesOk d5 := tablesOk_evFloor (tablesOk_lowerFirst h4)
  exact tablesOk_ite (tablesOk_recoveryFails h5) (tablesOk_assertReset h5)

theorem resOk_execTripRelease (h : TablesOk s.dev) : ResOk (execTripRelease s) :=
  resOk_onDevIf (fun _ h1 => tablesOk_ite (tablesOk_update h1) (tablesOk_ite (tablesOk_recoveryFails h1) h1)) h

theorem resOk_execLifeRecordSend (h : TablesOk s.dev) {i : Isl} : ResOk (execLifeRecordSend i s) := by
  refine resOk_onNv (fun _ _ h1 => ?_) h
  extract_lets _
  split
  · exact tablesOk_emit (tablesOk_modIsl h1)
  · exact h1

theorem resOk_execLifeReport (h : TablesOk s.dev) {i : Isl} : ResOk (execLifeReport i s) := by
  refine resOk_onDevIf (fun _ h1 => ?_) h
  extract_lets _ _ _
  exact tablesOk_evIsl (tablesOk_modIsl h1)

theorem resOk_execRegionResume (h : TablesOk s.dev) {t : Fin 4} : ResOk (execRegionResume t s) := by
  refine resOk_onDevIf (fun _ h1 => ?_) h
  apply tablesOk_ite
  · exact tablesOk_ite (tablesOk_resetFails h1) (tablesOk_nextSuspect (tablesOk_foldl (fun _ _ h2 =>
      tablesOk_resumeBlk h2) (tablesOk_modTile h1)))
  · split
    · exact tablesOk_ite (tablesOk_resetFails h1) (tablesOk_blockBack h1)
    · exact h1

theorem resOk_execReplayHang (h : TablesOk s.dev) {b : Fin 144} : ResOk (execReplayHang b s) :=
  resOk_onDevIf (fun _ h1 => tablesOk_blockReset h1) h

theorem resOk_execHangDetected (h : TablesOk s.dev) {x : HangIn} : ResOk (execHangDetected x s) := by
  refine resOk_onDevIf (fun _ h1 => ?_) h
  extract_lets d2
  have h2 : TablesOk d2 := tablesOk_corruptAt h1
  exact tablesOk_ite (tablesOk_regionReset h2) (tablesOk_foldl (fun _ _ h3 => tablesOk_blockReset h3) h2)

theorem resOk_execSuspectReplayComplete (h : TablesOk s.dev) {t : Fin 4} : ResOk (execSuspectReplayComplete t s) := by
  refine resOk_onDevIf (fun _ h1 => ?_) h
  extract_lets d2
  have h2 : TablesOk d2 := tablesOk_modTile h1
  exact tablesOk_replayOn h2

theorem resOk_execUnitHangDetected (h : TablesOk s.dev) {region : Fin 5} {unit : Fin 256} :
    ResOk (execUnitHangDetected region unit s) :=
  resOk_onDevIf (fun _ h1 => tablesOk_event h1) h

theorem resOk_execRegionResetFail (h : TablesOk s.dev) {t : Fin 4} {reason : Fin 5} :
    ResOk (execRegionResetFail t reason s) :=
  resOk_onDevIf (fun _ h1 => tablesOk_resetFails h1) h

theorem resOk_execUnexplainedHangExpiry (h : TablesOk s.dev) {b : Fin 144} : ResOk (execUnexplainedHangExpiry b s) := by
  refine resOk_onDev (fun _ h1 => ?_) h
  extract_lets _
  exact tablesOk_modBlk h1

theorem resOk_execAbandonmentTimeout (h : TablesOk s.dev) {b : Fin 144} : ResOk (execAbandonmentTimeout b s) := by
  refine resOk_onDevIf (fun _ h1 => ?_) h
  extract_lets d2
  have h2 : TablesOk d2 := tablesOk_modBlk h1
  exact tablesOk_ite (tablesOk_regionReset h2) (tablesOk_blockReset h2)

theorem resOk_execDramRead (h : TablesOk s.dev) {a : DramAcc} : ResOk (execDramRead a s) :=
  resOk_checked (resOk_onDevIf (fun _ h1 => tablesOk_arrive h1) h)

theorem resOk_execDramWrite (h : TablesOk s.dev) {a : DramAcc} {w : DramData} : ResOk (execDramWrite a w s) :=
  resOk_checked (resOk_onDevIf (fun _ h1 => tablesOk_arrive h1) h)

theorem resOk_execDramRefresh (h : TablesOk s.dev) {k : Fin 48} {sub : Fin 2} {demand : RefreshIn} :
    ResOk (execDramRefresh k sub demand s) := by
  refine resOk_onDevIf (fun _ h1 => ?_) h
  extract_lets _
  exact tablesOk_chanGoes (tablesOk_modChan h1)

theorem resOk_execTimingRecentre (h : TablesOk s.dev) {k : Fin 48} : ResOk (execTimingRecentre k s) :=
  resOk_onDevIf (fun _ h1 => tablesOk_modChan h1) h

theorem resOk_execPatrolScrubPass (h : TablesOk s.dev) {corrected : List (Fin 1099511627776 × Bool)}
    {poisoned : List (Fin 1099511627776)} : ResOk (execPatrolScrubPass corrected poisoned s) := by
  refine resOk_onDevIf (fun _ h1 => ?_) h
  extract_lets _ _ _ _ d6 d7 d8 _ d10
  have h6 : TablesOk d6 := tablesOk_update h1
  have h7 : TablesOk d7 := tablesOk_foldl (fun _ _ h11 => tablesOk_scrubOne h11) h6
  have h8 : TablesOk d8 := tablesOk_foldl (fun _ _ h11 => tablesOk_dramLost h11) h7
  have h10 : TablesOk d10 := tablesOk_foldl (fun _ _ h11 => tablesOk_ite h11 (tablesOk_modChan h11)) h8
  exact tablesOk_evHub h10

theorem resOk_execSpareRankScrub (h : TablesOk s.dev) {r : Fin 96} {ok : Bool} : ResOk (execSpareRankScrub r ok s) := by
  refine resOk_onDevIf (fun _ h1 => ?_) h
  extract_lets d2
  have h2 : TablesOk d2 := tablesOk_modRank h1
  exact tablesOk_ite h2 (tablesOk_retireSpare h2)

theorem resOk_execCommandParityAlert (h : TablesOk s.dev) {k : Fin 48} {entry : Fin 64} :
    ResOk (execCommandParityAlert k entry s) := by
  refine resOk_onDevIf (fun _ h1 => ?_) h
  extract_lets _
  exact tablesOk_ite (tablesOk_modChan h1) (tablesOk_modChan (tablesOk_evChan (tablesOk_bump16 h1)))

theorem resOk_execRankSparingDecision (h : TablesOk s.dev) : ResOk (execRankSparingDecision s) := by
  refine resOk_onDevIf (fun _ h1 => ?_) h
  extract_lets _
  split
  · exact h1
  · exact tablesOk_migrate (tablesOk_update h1)

theorem resOk_execSpareRankTrained (h : TablesOk s.dev) {ok : Bool} : ResOk (execSpareRankTrained ok s) :=
  resOk_onDevIf (fun _ h1 => tablesOk_ite (tablesOk_update h1) (tablesOk_spareDead h1)) h

theorem resOk_execPageCopyDone (h : TablesOk s.dev) {unreadable : List (Fin 64)} {readBack spareBad : Bool} :
    ResOk (execPageCopyDone unreadable readBack spareBad s) := by
  refine resOk_onDevIf (fun _ h1 => ?_) h
  split
  · exact h1
  · extract_lets _ _
    exact tablesOk_ite (tablesOk_abandonSpare h1) (tablesOk_ite (tablesOk_ite (tablesOk_abandonSpare h1)
      (tablesOk_update h1)) (tablesOk_update (tablesOk_copyBad h1)))

theorem resOk_execMigrationCommit (h : TablesOk s.dev) : ResOk (execMigrationCommit s) := by
  refine resOk_onDevIf (fun _ h1 => ?_) h
  extract_lets _
  split
  · exact h1
  · extract_lets d3 d4 d5
    have h3 : TablesOk d3 := tablesOk_update h1
    have h4 : TablesOk d4 := tablesOk_modRank (tablesOk_modRank h3)
    have h5 : TablesOk d5 := tablesOk_evMig h4
    exact tablesOk_ite h5 (tablesOk_evMig h5)

theorem resOk_execChannelRetrainDone (h : TablesOk s.dev) {k : Fin 48} {ok : Bool} :
    ResOk (execChannelRetrainDone k ok s) := by
  refine resOk_onDevIf (fun _ h1 => ?_) h
  extract_lets _ d3 d4 d5
  have h3 : TablesOk d3 := tablesOk_evChan h1
  have h4 : TablesOk d4 := tablesOk_modChan h3
  have h5 : TablesOk d5 := tablesOk_ite h4 (tablesOk_rankDead (tablesOk_rankDead (tablesOk_evChan h4)))
  exact tablesOk_chanGoes h5

theorem resOk_execFlitReceive (h : TablesOk s.dev) {l : Fin 48} {head ack : BitVec 16} {credits : BitVec 32}
    {slots : List Byte} {crc : DWord} : ResOk (execFlitReceive l head ack credits slots crc s) := by
  unfold execFlitReceive
  refine resOk_checked (resOk_onDevIf (fun _ h1 => ?_) h)
  extract_lets _ _ d4
  have h4 : TablesOk d4 := tablesOk_ite (tablesOk_modLink h1) h1
  exact tablesOk_ite (tablesOk_flitBad h1) (tablesOk_ite (tablesOk_flitData h4) h4)

theorem resOk_execFlitReplay (h : TablesOk s.dev) {l : Fin 48} {seq : Fin 4096} : ResOk (execFlitReplay l seq s) := by
  refine resOk_onDevIf (fun _ h1 => ?_) h
  extract_lets _ _ d4 d5
  have h4 : TablesOk d4 := tablesOk_modLink (tablesOk_linkCount h1)
  have h5 : TablesOk d5 := tablesOk_emit h4
  exact tablesOk_ite (tablesOk_evLink h5) h5

theorem resOk_execLinkRetrain (h : TablesOk s.dev) {k : Fin 24} : ResOk (execLinkRetrain k s) :=
  resOk_onDevIf (fun _ h1 => tablesOk_modLink (tablesOk_linkCount h1)) h

theorem resOk_execLinkRetrainDone (h : TablesOk s.dev) {k : Fin 24} {ok : Bool} :
    ResOk (execLinkRetrainDone k ok s) := by
  refine resOk_onDevIf (fun _ h1 => ?_) h
  extract_lets d2
  have h2 : TablesOk d2 := tablesOk_evLink h1
  exact tablesOk_ite (tablesOk_modLink h2) (tablesOk_linkDown h2)

theorem resOk_execLaneRepairStart (h : TablesOk s.dev) {k : Fin 24} {lane : Fin 64} :
    ResOk (execLaneRepairStart k lane s) := by
  refine resOk_onDevIf (fun _ h1 => ?_) h
  split
  · exact tablesOk_retireLane h1
  · extract_lets d2
    have h2 : TablesOk d2 := tablesOk_foldl (fun _ _ h3 => tablesOk_modLmod h3) h1
    exact tablesOk_modLink h2

theorem resOk_execLaneRepairDone (h : TablesOk s.dev) {k : Fin 24} {ok : Bool} : ResOk (execLaneRepairDone k ok s) := by
  refine resOk_onDevIf (fun _ h1 => ?_) h
  extract_lets d2
  have h2 : TablesOk d2 := tablesOk_modLink h1
  split
  · exact h1
  · exact tablesOk_ite (tablesOk_laneRepaired h2) h2

theorem resOk_execPortRetrainDone (h : TablesOk s.dev) {port : Fin 8} : ResOk (execPortRetrainDone port s) := by
  refine resOk_onDevIf (fun _ h1 => ?_) h
  extract_lets _ d3 _ d5 _
  have h3 : TablesOk d3 := tablesOk_foldl (fun _ _ h7 => tablesOk_moultOne h7) h1
  have h5 : TablesOk d5 := tablesOk_update h3
  exact tablesOk_ite h5 (tablesOk_ite (tablesOk_update h5) (tablesOk_portUp h5))

theorem resOk_execLaneFlap (h : TablesOk s.dev) {lane : Fin 96} {laserFault : Bool} :
    ResOk (execLaneFlap lane laserFault s) := by
  refine resOk_onDevIf (fun _ h1 => ?_) h
  extract_lets _ d3
  have h3 : TablesOk d3 := tablesOk_modLane h1
  exact tablesOk_ite (tablesOk_lanePast h3) h3

theorem resOk_execPortLinkDown (h : TablesOk s.dev) {port : Fin 10} : ResOk (execPortLinkDown port s) :=
  resOk_onDevIf (fun _ h1 => tablesOk_ite (tablesOk_update h1) (tablesOk_portDown h1)) h

theorem resOk_execPortLinkUp (h : TablesOk s.dev) {port : Fin 10} {width : Fin 17} :
    ResOk (execPortLinkUp port width s) :=
  resOk_onDevIf (fun _ h1 => tablesOk_ite (tablesOk_update h1) (tablesOk_portUp h1)) h

theorem resOk_execHostLinkLight (h : TablesOk s.dev) {unlocked : List (Fin 16)} :
    ResOk (execHostLinkLight unlocked s) := by
  refine resOk_onDevIf (fun _ h1 => ?_) h
  extract_lets _ _ _ d5
  have h5 : TablesOk d5 := tablesOk_update h1
  exact tablesOk_ite (tablesOk_hostUp h5) h5

theorem resOk_execHostLaneLockTimeout (h : TablesOk s.dev) {lane : Fin 16} :
    ResOk (execHostLaneLockTimeout lane s) := by
  refine resOk_onDevIf (fun _ h1 => ?_) h
  extract_lets _ d3 d4
  have h3 : TablesOk d3 := tablesOk_update h1
  have h4 : TablesOk d4 := tablesOk_hostNarrow h3
  exact tablesOk_ite (tablesOk_hostUp h4) h4

theorem resOk_execModResetAssert (h : TablesOk s.dev) : ResOk (execModResetAssert s) :=
  resOk_onNv (fun _ _ h1 => tablesOk_modReset (tablesOk_fresh h1)) h

theorem resOk_execIslandReset (h : TablesOk s.dev) {i : Isl} : ResOk (execIslandReset i s) :=
  resOk_onDev (fun _ h1 => tablesOk_revote (tablesOk_modIsl h1)) h

theorem resOk_execIslandRailLow (h : TablesOk s.dev) {i : Isl} : ResOk (execIslandRailLow i s) :=
  resOk_onDev (fun _ h1 => tablesOk_revote (tablesOk_modIsl h1)) h

theorem resOk_execColdStart (h : TablesOk s.dev) {failed : List (Fin 48)} : ResOk (execColdStart failed s) := by
  refine resOk_onNv (fun _ _ h1 => ?_) h
  split
  · exact tablesOk_coldStart h1
  · exact h1

theorem resOk_execConfigurationLockSet (h : TablesOk s.dev) : ResOk (execConfigurationLockSet s) := by
  refine resOk_onNv (fun _ _ h1 => ?_) h
  extract_lets _ _ _ _
  split
  · exact h1
  · exact tablesOk_update h1

theorem resOk_execStartUpInjection (h : TablesOk s.dev) {fails : List InjFail} :
    ResOk (execStartUpInjection fails s) := by
  refine resOk_onDevIf (fun _ h1 => ?_) h
  extract_lets _ d3 d4 d5 _
  have h3 : TablesOk d3 := tablesOk_zeroSpads h1
  have h4 : TablesOk d4 := tablesOk_update h3
  have h5 : TablesOk d5 := tablesOk_injReports h4
  split
  rename_i _ d7 _ e
  have h7 : TablesOk d7 := tablesOk_fst (tablesOk_remapAll (tablesOk_foldl (fun _ _ h8 => tablesOk_injRetire h8) h5)) e
  extract_lets d8 _ d10
  have h8 : TablesOk d8 := tablesOk_foldl (fun _ _ h11 => tablesOk_modIsl (tablesOk_injAction h11)) h7
  have h10 : TablesOk d10 := tablesOk_update h8
  exact tablesOk_revote h10

theorem resOk_execInjectionComplete (h : TablesOk s.dev) : ResOk (execInjectionComplete s) := by
  refine resOk_onDevIf (fun _ h1 => ?_) h
  extract_lets _ _ _ d5 d6 d7
  have h5 : TablesOk d5 := tablesOk_injEnd (tablesOk_injEnd h1)
  have h6 : TablesOk d6 := tablesOk_ite (tablesOk_recovered h5) h5
  have h7 : TablesOk d7 := tablesOk_injJoin (tablesOk_injJoin h6)
  exact tablesOk_ite (tablesOk_recoveryFails h5) (tablesOk_ite (tablesOk_recoveryLate h5) (tablesOk_enable h7))

theorem resOk_execIslandFirmwareLoad (h : TablesOk s.dev) {i : Isl} : ResOk (execIslandFirmwareLoad i s) := by
  refine resOk_onDevIf (fun _ h1 => ?_) h
  extract_lets _ _ _ _ _ _ d8
  have h8 : TablesOk d8 := tablesOk_modIsl h1
  exact tablesOk_ite (tablesOk_modIsl h1) (tablesOk_ite (tablesOk_islReq h8) h8)

theorem resOk_execRecoveryStart (h : TablesOk s.dev) {failed : List (Fin 48)} : ResOk (execRecoveryStart failed s) := by
  refine resOk_onNv (fun _ _ h1 => ?_) h
  extract_lets d2
  have h2 : TablesOk d2 := tablesOk_listAll h1
  split
  · exact h1
  · split
    · exact tablesOk_pulse h1
    · split
      · extract_lets _
        split
        · exact tablesOk_pulse h2
        · exact tablesOk_foldl (fun _ _ h4 => tablesOk_reloadChunk h4) (tablesOk_recover h2)
      · exact tablesOk_pulse h1

theorem resOk_execMgmtIdentify (h : TablesOk s.dev) {seq : BitVec 16} : ResOk (execMgmtIdentify seq s) :=
  resOk_onMgmt (fun _ _ h1 => tablesOk_answer h1) h

theorem resOk_execMgmtChallenge (h : TablesOk s.dev) {seq : BitVec 16} : ResOk (execMgmtChallenge seq s) := by
  refine resOk_onMgmt (fun _ _ h1 => ?_) h
  split
  rename_i _ _ d2 e
  have h2 : TablesOk d2 := tablesOk_snd (tablesOk_fresh h1) e
  extract_lets _ _
  exact tablesOk_answer (tablesOk_update h2)

theorem resOk_execMgmtStage (h : TablesOk s.dev) {seq : BitVec 16} {off : Fin 274877906944} {data : List Byte} :
    ResOk (execMgmtStage seq off data s) :=
  resOk_checked (resOk_onMgmt (fun _ _ h1 => tablesOk_answer (tablesOk_update h1)) h)

theorem resOk_execMgmtCommit (h : TablesOk s.dev) {seq : BitVec 16} {lu : Fin 256} {img : Staged} :
    ResOk (execMgmtCommit seq lu img s) := by
  refine resOk_onMgmt (fun _ _ h1 => ?_) h
  extract_lets _
  split
  · split
    · exact tablesOk_committed h1
    · exact tablesOk_commitFails h1
  · split
    · exact tablesOk_committed h1
    · exact tablesOk_commitFails h1
  · split
    · split
      · exact tablesOk_commitFails h1
      · exact tablesOk_committed h1
    · exact tablesOk_commitFails h1
  · exact tablesOk_commitFails h1
  · exact tablesOk_commitFails h1
  · exact tablesOk_commitFails h1

theorem resOk_execMgmtProvision (h : TablesOk s.dev) {seq : BitVec 16} {tok : Token} :
    ResOk (execMgmtProvision seq tok s) := by
  refine resOk_onMgmt (fun _ _ h1 => ?_) h
  extract_lets _ _ _
  split
  · split
    · exact tablesOk_refuseFree h1
    · exact tablesOk_answer (tablesOk_update h1)
  · exact tablesOk_refuse h1

theorem resOk_execMgmtReprovision (h : TablesOk s.dev) {seq : BitVec 16} {tok : Token} :
    ResOk (execMgmtReprovision seq tok s) := by
  refine resOk_onMgmt (fun _ _ h1 => ?_) h
  extract_lets _
  split
  · split
    · exact tablesOk_refuseFree h1
    · exact tablesOk_answer (tablesOk_update h1)
  · exact tablesOk_refuse h1

theorem resOk_execMgmtUnlock (h : TablesOk s.dev) {seq : BitVec 16} {tok : Token} :
    ResOk (execMgmtUnlock seq tok s) := by
  refine resOk_onMgmt (fun _ _ h1 => ?_) h
  extract_lets _ _
  split
  · exact tablesOk_unlock h1
  · exact tablesOk_refuse h1

theorem resOk_execMgmtTestPkg (h : TablesOk s.dev) {seq : BitVec 16} {x : ImgHeader} {version : Word} :
    ResOk (execMgmtTestPkg seq x version s) := by
  refine resOk_onMgmt (fun _ _ h1 => ?_) h
  extract_lets _
  split
  · exact tablesOk_answer (tablesOk_evSec h1)
  · exact tablesOk_commitFails h1

theorem resOk_execMgmtEnterLoader (h : TablesOk s.dev) {seq : BitVec 16} {tok : Token} :
    ResOk (execMgmtEnterLoader seq tok s) := by
  refine resOk_onMgmt (fun _ _ h1 => ?_) h
  extract_lets _
  split
  · exact tablesOk_answer h1
  · exact tablesOk_refuse h1

theorem resOk_execMgmtRestart (h : TablesOk s.dev) {seq : BitVec 16} {failed : List (Fin 48)} :
    ResOk (execMgmtRestart seq failed s) :=
  resOk_onMgmt (fun _ _ h1 => tablesOk_pulse (tablesOk_answer h1)) h

theorem resOk_execAttestationRequest (h : TablesOk s.dev) {token : Fin 16384} :
    ResOk (execAttestationRequest token s) := by
  refine resOk_onNv (fun _ _ h1 => ?_) h
  extract_lets _
  split
  · exact tablesOk_attest h1
  · exact h1

theorem resOk_execLowerTreeGenerate (h : TablesOk s.dev) : ResOk (execLowerTreeGenerate s) := by
  refine resOk_onNv (fun _ _ h1 => ?_) h
  extract_lets _ _
  split <;> exact h1

theorem resOk_execAttestationIndicesNearlyExhausted (h : TablesOk s.dev) :
    ResOk (execAttestationIndicesNearlyExhausted s) := by
  refine resOk_onNv (fun _ _ h1 => ?_) h
  extract_lets _ _ _
  split
  · exact tablesOk_evSec h1
  · exact h1

theorem resOk_execHotReset (h : TablesOk s.dev) : ResOk (execHotReset s) :=
  resOk_onDevIf (fun _ h1 => tablesOk_cfgReset (tablesOk_portDown (tablesOk_evHost h1))) h

theorem resOk_execLinkDisable (h : TablesOk s.dev) : ResOk (execLinkDisable s) := by
  refine resOk_onDevIf (fun _ h1 => ?_) h
  extract_lets d2 _
  have h2 : TablesOk d2 := tablesOk_cfgReset (tablesOk_portDown (tablesOk_evHost h1))
  exact tablesOk_update h2

theorem resOk_execBmeClear (h : TablesOk s.dev) : ResOk (execBmeClear s) :=
  resOk_onDevIf (fun _ h1 => tablesOk_bmeOff h1) h

theorem resOk_execConfigRequest (h : TablesOk s.dev) {write : Bool} {off : Fin 4096} {v : Word} :
    ResOk (execConfigRequest write off v s) := by
  refine resOk_onDevIf (fun _ h1 => ?_) h
  extract_lets _
  exact tablesOk_ite (tablesOk_complete (tablesOk_cfgWrite h1)) (tablesOk_complete h1)

theorem resOk_execRcRegisterRead (h : TablesOk s.dev) {off : Fin 268435456} {wide : Bool} :
    ResOk (execRcRegisterRead off wide s) :=
  resOk_checked (resOk_onHostRead (fun _ _ h1 => tablesOk_bar0Read h1) h)

theorem resOk_execTkTimeLoRead (h : TablesOk s.dev) : ResOk (execTkTimeLoRead s) :=
  resOk_onHostRead (fun _ _ h1 => tablesOk_bar0Read h1) h

theorem resOk_execBar0BadRequest (h : TablesOk s.dev) {off : Fin 268435456} {len : Fin 4097} :
    ResOk (execBar0BadRequest off len s) := by
  refine resOk_checked (resOk_onHostRead (fun _ _ h1 => ?_) h)
  extract_lets _ _ d4
  have h4 : TablesOk d4 := tablesOk_bump (tablesOk_update h1)
  exact tablesOk_complete (tablesOk_ite (tablesOk_evHost h4) h4)

theorem resOk_execHpBar2Win (h : TablesOk s.dev) {v : Word} : ResOk (execHpBar2Win v s) :=
  resOk_onHost (fun _ h1 => tablesOk_bar2Win h1) h

theorem resOk_execHpEvlogCfg (h : TablesOk s.dev) {v : Word} : ResOk (execHpEvlogCfg v s) :=
  resOk_onHost (fun _ h1 => tablesOk_evlogCfg h1) h

theorem resOk_execHpEvlogHead (h : TablesOk s.dev) {v : Word} : ResOk (execHpEvlogHead v s) :=
  resOk_onHost (fun _ h1 => tablesOk_evlogHead h1) h

theorem resOk_execBar2Read (h : TablesOk s.dev) {off : Fin 68719476736} {len : Fin 4097} :
    ResOk (execBar2Read off len s) :=
  resOk_checked (resOk_onHostRead (fun _ _ h1 => tablesOk_bar2Arrive h1) h)

theorem resOk_execBar2Write (h : TablesOk s.dev) {off : Fin 68719476736} {data : List Byte} {ep : Bool} :
    ResOk (execBar2Write off data ep s) :=
  resOk_checked (resOk_onHost (fun _ h1 => tablesOk_bar2Arrive h1) h)

theorem resOk_execEventRecordWrite (h : TablesOk s.dev) {code cls region block part ctx : Nat} {detail : List Nat} :
    ResOk (execEventRecordWrite code cls region block part ctx detail s) :=
  resOk_checked (resOk_onDevIf (fun _ h1 => tablesOk_event h1) h)

theorem resOk_execEventRecordDeliver (h : TablesOk s.dev) : ResOk (execEventRecordDeliver s) :=
  resOk_onDevIf (fun _ h1 => tablesOk_deliver h1) h

theorem resOk_execTickMissing (h : TablesOk s.dev) {unit : TickUnit} {cycles : Fin 4294967296} :
    ResOk (execTickMissing unit cycles s) := by
  refine resOk_onDevIf (fun _ h1 => ?_) h
  extract_lets _ _
  split
  · exact tablesOk_ite (tablesOk_islTickBad (tablesOk_update h1)) h1
  · exact tablesOk_tickFaults h1

theorem resOk_execTriggerMessageDrop (h : TablesOk s.dev) {stream : Fin 64} :
    ResOk (execTriggerMessageDrop stream s) := by
  refine resOk_onDev (fun _ h1 => ?_) h
  extract_lets _
  split
  · exact h1
  · extract_lets d3
    have h3 : TablesOk d3 := tablesOk_update h1
    exact tablesOk_evHub (tablesOk_bump h3)

theorem resOk_execWingbeatTick (h : TablesOk s.dev) {inp : TickIn} : ResOk (execWingbeatTick inp s) :=
  resOk_checked (resOk_onDevIf (fun _ h1 => tablesOk_wingbeat h1) h)

theorem resOk_execControlFrameTick (h : TablesOk s.dev) : ResOk (execControlFrameTick s) :=
  resOk_onDevIf (fun _ h1 => tablesOk_controlFrame h1) h

theorem resOk_execPerceptionFrameTick (h : TablesOk s.dev) : ResOk (execPerceptionFrameTick s) :=
  resOk_onDevIf (fun _ h1 => tablesOk_perceptionFrame h1) h

theorem resOk_execAudioBlockTick (h : TablesOk s.dev) : ResOk (execAudioBlockTick s) :=
  resOk_onDevIf (fun _ h1 => tablesOk_doIf (fun _ h2 => tablesOk_wakeClass h2) (tablesOk_tick h1)) h

theorem resOk_execEpochTick (h : TablesOk s.dev) {lanes : List LaneSample} : ResOk (execEpochTick lanes s) := by
  refine resOk_onNv (fun _ _ h1 => ?_) h
  extract_lets d2 _
  have h2 : TablesOk d2 := tablesOk_epochTick h1
  split
  · exact h2
  · exact h1

theorem resOk_execSyncReceived (h : TablesOk s.dev) {gm : DWord} : ResOk (execSyncReceived gm s) :=
  resOk_onDevIf (fun _ h1 => tablesOk_syncIn h1) h

theorem resOk_execSyncTimeout (h : TablesOk s.dev) : ResOk (execSyncTimeout s) :=
  resOk_onDevIf (fun _ h1 => tablesOk_holdover h1) h

theorem resOk_execSyncTransmit (h : TablesOk s.dev) : ResOk (execSyncTransmit s) :=
  resOk_onDevIf (fun _ h1 => tablesOk_foldl (fun _ _ h2 => tablesOk_emit h2) h1) h

theorem resOk_runGw (h : TablesOk s.dev) {i : Instr} : ResOk (runGw i s) := by
  unfold runGw
  split
  · exact resOk_execGwElaunch h
  · exact resOk_execGwCreditAcq h
  · exact resOk_execGwCreditPub h
  · exact resOk_execGwCreditTake h
  · exact resOk_execGwCreditRel h
  · exact resOk_execGwRfence h
  · exact resOk_execGwTwaitTag h
  · exact resOk_execGwTwaitClass h
  · exact resOk_execGwPtest h
  · exact resOk_next h

theorem resOk_exc {t : ThreadId} {cause : ExcCause} {f : Dev → Dev} (hf : ∀ d, TablesOk d → TablesOk (f d))
    (h : TablesOk s.dev) : ResOk (execTaskException.exc t cause s f) :=
  resOk_onThread hf h

theorem resOk_execTaskException (h : TablesOk s.dev) {t : ThreadId} {cause : ExcCause} :
    ResOk (execTaskException t cause s) := by
  unfold execTaskException
  split
  · split
    · exact resOk_runGw h
    · exact resOk_exc (fun _ h1 => tablesOk_excPoison h1) h
  · exact resOk_exc (fun _ h1 => tablesOk_excPoison h1) h
  · exact resOk_exc (fun _ h1 => tablesOk_ite h1 (tablesOk_excPoison h1)) h
  · exact resOk_exc (fun _ h1 => tablesOk_modT h1) h
  · exact resOk_exc (fun _ h1 => tablesOk_ite (tablesOk_modT h1) (tablesOk_excPoison h1)) h

theorem resOk_execRegisterWrite (h : TablesOk s.dev) {off : Fin 268435456} {v : DWord} {be : BitVec 8} {wide : Bool}
    {init : Nat} : ResOk (execRegisterWrite off v be wide init s) := by
  refine resOk_checked ?_
  split
  · exact resOk_onHost (fun _ h1 => tablesOk_regWrite h1) h
  · exact resOk_onDevIf (fun _ h1 => tablesOk_regWrite h1) h

theorem resOk_exec (h : TablesOk s.dev) (c : Instr) : ResOk (exec c s) := by
  cases c with
  | modResetAssert => exact resOk_execModResetAssert h
  | coldStart => exact resOk_execColdStart h
  | configurationLockSet => exact resOk_execConfigurationLockSet h
  | startUpInjection fails => exact resOk_execStartUpInjection (fails := fails) h
  | injectionComplete => exact resOk_execInjectionComplete h
  | islandReset => exact resOk_execIslandReset h
  | islandFirmwareLoad => exact resOk_execIslandFirmwareLoad h
  | islandRailLow => exact resOk_execIslandRailLow h
  | railFault => exact resOk_execRailFault h
  | phaseFault => exact resOk_execPhaseFault h
  | analogTrip => exact resOk_execAnalogTrip h
  | tripRelease => exact resOk_execTripRelease h
  | wingbeatTick => exact resOk_execWingbeatTick h
  | tickMissing => exact resOk_execTickMissing h
  | controlFrameTick => exact resOk_execControlFrameTick h
  | perceptionFrameTick => exact resOk_execPerceptionFrameTick h
  | audioBlockTick => exact resOk_execAudioBlockTick h
  | epochTick => exact resOk_execEpochTick h
  | triggerMessageDrop => exact resOk_execTriggerMessageDrop h
  | syncReceived => exact resOk_execSyncReceived h
  | syncTimeout => exact resOk_execSyncTimeout h
  | deadlineAbandon => exact resOk_execDeadlineAbandon h
  | engineOpStart => exact resOk_execEngineOpStart h
  | residueMismatch => exact resOk_execResidueMismatch h
  | residueRetryCheck => exact resOk_execResidueRetryCheck h
  | checkerInjectionDone => exact resOk_execCheckerInjectionDone h
  | engineOpComplete => exact resOk_execEngineOpComplete h
  | ppuOpComplete => exact resOk_execPpuOpComplete h
  | dynDisable => exact resOk_execDynDisable h
  | dynMode => exact resOk_execDynMode h
  | engineDrainLimit => exact resOk_execEngineDrainLimit h
  | gwElaunch => exact resOk_execGwElaunch h
  | gwCreditAcq => exact resOk_execGwCreditAcq h
  | gwCreditPub => exact resOk_execGwCreditPub h
  | gwCreditTake => exact resOk_execGwCreditTake h
  | gwCreditRel => exact resOk_execGwCreditRel h
  | gwRfence => exact resOk_execGwRfence h
  | gwTwaitTag => exact resOk_execGwTwaitTag h
  | gwTwaitClass => exact resOk_execGwTwaitClass h
  | twaitLimitExpiry => exact resOk_execTwaitLimitExpiry h
  | gwPtest => exact resOk_execGwPtest h
  | threadLoad => exact resOk_execThreadLoad h
  | threadStore => exact resOk_execThreadStore h
  | taskException => exact resOk_execTaskException h
  | coreArrayParity => exact resOk_execCoreArrayParity h
  | scrubPassComplete => exact resOk_execScrubPassComplete h
  | rowRepair => exact resOk_execRowRepair h
  | queueEnable => exact resOk_execQueueEnable h
  | queueDisable => exact resOk_execQueueDisable h
  | qmDoorbell => exact resOk_execQmDoorbell h
  | qmCqDoorbell => exact resOk_execQmCqDoorbell h
  | contextLoad => exact resOk_execContextLoad h
  | contextDisable => exact resOk_execContextDisable h
  | partitionDisable => exact resOk_execPartitionDisable h
  | partitionEnable => exact resOk_execPartitionEnable h
  | drainLimit => exact resOk_execDrainLimit h
  | descriptorPull => exact resOk_execDescriptorPull h
  | operationDispatch => exact resOk_execOperationDispatch h
  | taskComplete => exact resOk_execTaskComplete h
  | fenceComplete => exact resOk_execFenceComplete h
  | qmMirrorCtl => exact resOk_execQmMirrorCtl h
  | qmAcctCtl => exact resOk_execQmAcctCtl h
  | preemptionStart => exact resOk_execPreemptionStart h
  | grantCancelAtPreemption => exact resOk_execGrantCancelAtPreemption h
  | saveComplete => exact resOk_execSaveComplete h
  | savedSetResume => exact resOk_execSavedSetResume h
  | instanceLoad => exact resOk_execInstanceLoad h
  | instanceUnload => exact resOk_execInstanceUnload h
  | prefixLookupDone => exact resOk_execPrefixLookupDone h
  | stepBoundary => exact resOk_execStepBoundary h
  | qmSrvCtlFair => exact resOk_execQmSrvCtlFair h
  | qmBudget => exact resOk_execQmBudget h
  | avtpduReceived => exact resOk_execAvtpduReceived h
  | lidarDeskewDone => exact resOk_execLidarDeskewDone h
  | updateSeal => exact resOk_execUpdateSeal h
  | releaseDeadline => exact resOk_execReleaseDeadline h
  | outputCommit => exact resOk_execOutputCommit h
  | audioBlockClose => exact resOk_execAudioBlockClose h
  | mapCommit => exact resOk_execMapCommit h
  | setCommit => exact resOk_execSetCommit h
  | candidateCheckDone => exact resOk_execCandidateCheckDone h
  | selectionInstant => exact resOk_execSelectionInstant h
  | gateCutoff => exact resOk_execGateCutoff h
  | primaryRelease => exact resOk_execPrimaryRelease h
  | transmitConfirmation => exact resOk_execTransmitConfirmation h
  | repeatCompare => exact resOk_execRepeatCompare h
  | arbitrationWaitExpiry => exact resOk_execArbitrationWaitExpiry h
  | copyInDone => exact resOk_execCopyInDone h
  | arbitrationOutcome => exact resOk_execArbitrationOutcome h
  | copyBackDone => exact resOk_execCopyBackDone h
  | strikeExpiry => exact resOk_execStrikeExpiry h
  | moultDecision => exact resOk_execMoultDecision h
  | moultRemap => exact resOk_execMoultRemap h
  | moultEffect => exact resOk_execMoultEffect h
  | donorEmptied => exact resOk_execDonorEmptied h
  | repairRecordWrite => exact resOk_execRepairRecordWrite h
  | debugSessionDetach => exact resOk_execDebugSessionDetach h
  | heartbeatSend => exact resOk_execHeartbeatSend h
  | heartbeatReceive => exact resOk_execHeartbeatReceive h
  | peerLost => exact resOk_execPeerLost h
  | frameEvaluation => exact resOk_execFrameEvaluation h
  | cocoonMessageSend => exact resOk_execCocoonMessageSend h
  | statusMessageSend => exact resOk_execStatusMessageSend h
  | safeStateCommit => exact resOk_execSafeStateCommit h
  | safeStateRequestReceived => exact resOk_execSafeStateRequestReceived h
  | computeResetAssert => exact resOk_execComputeResetAssert h
  | recoveryStart => exact resOk_execRecoveryStart h
  | recoveryStepTimeout => exact resOk_execRecoveryStepTimeout h
  | selftestPassEnd => exact resOk_execSelftestPassEnd h
  | selftestOverdue => exact resOk_execSelftestOverdue h
  | sensorMarkFailed => exact resOk_execSensorMarkFailed h
  | lifeRecordSend => exact resOk_execLifeRecordSend h
  | lifeReport => exact resOk_execLifeReport h
  | hangDetected => exact resOk_execHangDetected h
  | regionResume => exact resOk_execRegionResume h
  | replayHang => exact resOk_execReplayHang h
  | suspectReplayComplete => exact resOk_execSuspectReplayComplete h
  | unitHangDetected => exact resOk_execUnitHangDetected h
  | regionResetFail => exact resOk_execRegionResetFail h
  | unexplainedHangExpiry => exact resOk_execUnexplainedHangExpiry h
  | dramRead => exact resOk_execDramRead h
  | dramWrite => exact resOk_execDramWrite h
  | dramRefresh => exact resOk_execDramRefresh h
  | timingRecentre => exact resOk_execTimingRecentre h
  | patrolScrubPass => exact resOk_execPatrolScrubPass h
  | spareRankScrub => exact resOk_execSpareRankScrub h
  | commandParityAlert => exact resOk_execCommandParityAlert h
  | channelRetrainDone => exact resOk_execChannelRetrainDone h
  | rankSparingDecision => exact resOk_execRankSparingDecision h
  | spareRankTrained => exact resOk_execSpareRankTrained h
  | pageCopyDone => exact resOk_execPageCopyDone h
  | migrationCommit => exact resOk_execMigrationCommit h
  | flitReceive => exact resOk_execFlitReceive h
  | flitReplay => exact resOk_execFlitReplay h
  | linkRetrain => exact resOk_execLinkRetrain h
  | laneRepairStart => exact resOk_execLaneRepairStart h
  | laneRepairDone => exact resOk_execLaneRepairDone h
  | laneFlap => exact resOk_execLaneFlap h
  | portRetrainDone => exact resOk_execPortRetrainDone h
  | hostLinkLight => exact resOk_execHostLinkLight h
  | hostLaneLockTimeout => exact resOk_execHostLaneLockTimeout h
  | hotReset => exact resOk_execHotReset h
  | linkDisable => exact resOk_execLinkDisable h
  | bmeClear => exact resOk_execBmeClear h
  | configRequest => exact resOk_execConfigRequest h
  | rcRegisterRead => exact resOk_execRcRegisterRead h
  | tkTimeLoRead => exact resOk_execTkTimeLoRead h
  | registerWrite => exact resOk_execRegisterWrite h
  | bar0BadRequest => exact resOk_execBar0BadRequest h
  | bar2Read => exact resOk_execBar2Read h
  | bar2Write => exact resOk_execBar2Write h
  | hpBar2Win => exact resOk_execHpBar2Win h
  | hpEvlogCfg => exact resOk_execHpEvlogCfg h
  | hpEvlogHead => exact resOk_execHpEvlogHead h
  | eventRecordWrite => exact resOk_execEventRecordWrite h
  | eventRecordDeliver => exact resOk_execEventRecordDeliver h
  | mgmtIdentify => exact resOk_execMgmtIdentify h
  | mgmtChallenge => exact resOk_execMgmtChallenge h
  | mgmtStage => exact resOk_execMgmtStage h
  | mgmtCommit => exact resOk_execMgmtCommit h
  | mgmtProvision => exact resOk_execMgmtProvision h
  | mgmtReprovision => exact resOk_execMgmtReprovision h
  | mgmtUnlock => exact resOk_execMgmtUnlock h
  | mgmtTestPkg => exact resOk_execMgmtTestPkg h
  | mgmtEnterLoader => exact resOk_execMgmtEnterLoader h
  | mgmtRestart => exact resOk_execMgmtRestart h
  | attestationRequest => exact resOk_execAttestationRequest h
  | lowerTreeGenerate => exact resOk_execLowerTreeGenerate h
  | portLinkDown => exact resOk_execPortLinkDown h
  | portLinkUp => exact resOk_execPortLinkUp h
  | linkRetrainDone => exact resOk_execLinkRetrainDone h
  | cocoonRequestReceived => exact resOk_execCocoonRequestReceived h
  | cocoonCopyReceived => exact resOk_execCocoonCopyReceived h
  | timeOfValidity => exact resOk_execTimeOfValidity h
  | abandonmentTimeout => exact resOk_execAbandonmentTimeout h
  | syncTransmit => exact resOk_execSyncTransmit h
  | attestationIndicesNearlyExhausted => exact resOk_execAttestationIndicesNearlyExhausted h

theorem resOk_idle (h : TablesOk s.dev) : ResOk (idle s) :=
  resOk_onDevIf (fun _ h1 => tablesOk_update h1) h

theorem resOk_step (h : TablesOk s.dev) : ResOk (step s) := by
  cases hp : s.pending with
  | nil =>
    unfold step
    rw [hp]
    exact resOk_idle h
  | cons c rest =>
    unfold step
    rw [hp]
    exact resOk_exec (s := { s with pending := rest }) h c

end

/-- Settles O58: both forms are kept by every function of the device, hence by every command's meaning and by idling. -/
theorem stepKeepsTables : Obligations.StepKeepsTables :=
  fun _ t hm ho e => resOk_step ⟨hm, ho⟩ t e

end Sys2Proof.Machine

namespace Sys2Proof.Machine

/-! ## The retention buffer after several records -/

/-- The retention buffer with one record more: placed, or discarded and counted (R457). -/
def EvLog.put (l : EvLog) (r : EventRecord) : EvLog :=
  if l.buf.length < 4096 then { l with total := l.total + 1, buf := l.buf ++ [r] }
  else { l with total := l.total + 1, lostAt := if l.lost = 0 then r.time else l.lostAt, lost := l.lost + 1 }

theorem logRec_log (d : Dev) (r : EventRecord) : (d.logRec r).log = d.log.put r := by
  unfold Dev.logRec EvLog.put
  dsimp only
  split <;> rfl

theorem event_log (d : Dev) (cls code rg bl : Nat) (dt : List Nat) (p c : Nat) :
    (d.event cls code rg bl dt p c).log = d.log.put ⟨d.time.now, rg, bl, cls, code, p, c, dt⟩ := by
  unfold Dev.event Dev.eventAt
  dsimp only
  split
  · rw [safeReq_log, logRec_log]
  · rw [logRec_log]

theorem put_room {l : EvLog} (r : EventRecord) (h : l.buf.length < 4096) :
    (l.put r).buf = l.buf ++ [r] ∧ (l.put r).lost = l.lost := by
  rw [EvLog.put, if_pos h]
  exact ⟨rfl, rfl⟩

theorem put_extends (l : EvLog) (r : EventRecord) : ∃ x, (l.put r).buf = l.buf ++ x := by
  unfold EvLog.put
  split
  · exact ⟨_, rfl⟩
  · exact ⟨[], (List.append_nil _).symm⟩

theorem puts_room (rs : List EventRecord) {l : EvLog} (h : l.buf.length + rs.length ≤ 4096) :
    (rs.foldl EvLog.put l).buf = l.buf ++ rs ∧ (rs.foldl EvLog.put l).lost = l.lost := by
  induction rs generalizing l with
  | nil => exact ⟨(List.append_nil _).symm, rfl⟩
  | cons r rs ih =>
    rw [List.length_cons] at h
    obtain ⟨hb, hl⟩ := put_room r (l := l) (by omega)
    obtain ⟨ib, il⟩ := ih (l := l.put r) (by rw [hb, List.length_append, List.length_singleton]; omega)
    exact ⟨by rw [List.foldl_cons, ib, hb, List.append_assoc]; rfl, il.trans hl⟩

theorem puts_extend (rs : List EventRecord) (l : EvLog) : ∃ x, (rs.foldl EvLog.put l).buf = l.buf ++ x := by
  induction rs generalizing l with
  | nil => exact ⟨[], (List.append_nil _).symm⟩
  | cons r rs ih =>
    obtain ⟨x, hx⟩ := put_extends l r
    obtain ⟨y, hy⟩ := ih (l.put r)
    exact ⟨x ++ y, by rw [List.foldl_cons, hy, hx, List.append_assoc]⟩

theorem wrote_of_put {a b : Dev} {r : EventRecord} (h : b.log = a.log.put r) : Wrote a b r := by
  unfold Wrote
  rw [h]
  unfold EvLog.put
  split
  · exact ⟨rfl, fun _ => ⟨rfl, rfl⟩, fun hf => absurd hf (by omega)⟩
  · exact ⟨rfl, fun hf => absurd hf (by omega), fun _ => ⟨rfl, rfl⟩⟩

theorem logged_of_puts {a b : Dev} {rs : List EventRecord} (h : b.log = rs.foldl EvLog.put a.log) : Logged a b rs :=
  fun room => h ▸ puts_room rs room

theorem recorded_of_puts {a b : Dev} {rs : List EventRecord} (more : List EventRecord)
    (h : b.log = (rs ++ more).foldl EvLog.put a.log) : Recorded a b rs := by
  intro room
  obtain ⟨x, hx⟩ := puts_extend more (rs.foldl EvLog.put a.log)
  exact ⟨x, by rw [h, List.foldl_append, hx, (puts_room rs room).1]⟩

/-! ## Links and their modules -/

theorem link_modLink_self (d : Dev) (k : Nat) (f : Link → Link) : (d.modLink k f).link k = f (d.link k) :=
  tget_tset_self ..

theorem link_modLink_ne (d : Dev) {k j : Nat} (f : Link → Link) (h : j ≠ k) : (d.modLink k f).link j = d.link j :=
  tget_tset_ne _ _ _ h

theorem lmod_modLmod_self (d : Dev) (m : Nat) (f : Lmod → Lmod) : (d.modLmod m f).lmod m = f (d.lmod m) :=
  tget_tset_self ..

theorem lmod_modLmod_ne (d : Dev) {m n : Nat} (f : Lmod → Lmod) (h : n ≠ m) : (d.modLmod m f).lmod n = d.lmod n :=
  tget_tset_ne _ _ _ h

theorem kept_modLink (d : Dev) (k : Nat) (f : Link → Link) : Kept [.links] d (d.modLink k f) := kept_links ..

theorem kept_modLmod (d : Dev) (m : Nat) (f : Lmod → Lmod) : Kept [.links] d (d.modLmod m f) := kept_links ..

theorem link_of_links {a b : Dev} (h : b.links = a.links) (k : Nat) : b.link k = a.link k := by
  unfold Dev.link
  rw [h]

theorem lmod_of_links {a b : Dev} (h : b.links = a.links) (m : Nat) : b.lmod m = a.lmod m := by
  unfold Dev.lmod
  rw [h]

/-- The modules of a link are different ones. -/
theorem nodup_linkMods (k : Nat) : (linkMods k).Nodup := by
  unfold linkMods
  split
  · exact List.nodup_singleton k
  · simp
    omega

theorem linkMods_lt {k n : Nat} (h : k < 24) (hn : n ∈ linkMods k) : n < 20 := by
  unfold linkMods at hn
  split at hn
  · rw [List.mem_singleton] at hn
    omega
  · simp at hn
    omega

theorem linkMod_mem (k : Nat) : linkMod k ∈ linkMods k := by
  unfold linkMod linkMods
  split <;> simp

/-- The modules of a list changed one after the other. -/
def Dev.modLmods (d : Dev) (f : Lmod → Lmod) (l : List Nat) : Dev := l.foldl (fun (d : Dev) m => d.modLmod m f) d

theorem modLmods_eq (f : Lmod → Lmod) (l : List Nat) (d : Dev) :
    ∃ ms, d.modLmods f l = { d with links := { d.links with mods := ms } } := by
  induction l generalizing d with
  | nil => exact ⟨_, rfl⟩
  | cons m l ih => exact ih (d.modLmod m f)

theorem kept_modLmods (f : Lmod → Lmod) (l : List Nat) (d : Dev) : Kept [.links] d (d.modLmods f l) := by
  obtain ⟨ms, h⟩ := modLmods_eq f l d
  rw [h]
  exact kept_links ..

theorem link_modLmods (f : Lmod → Lmod) (l : List Nat) (d : Dev) (k : Nat) : (d.modLmods f l).link k = d.link k := by
  obtain ⟨ms, h⟩ := modLmods_eq f l d
  rw [h]
  rfl

theorem lanes_modLmods (f : Lmod → Lmod) (l : List Nat) (d : Dev) : (d.modLmods f l).links.lanes = d.links.lanes := by
  obtain ⟨ms, h⟩ := modLmods_eq f l d
  rw [h]

theorem lmod_modLmods_ne (f : Lmod → Lmod) {l : List Nat} (d : Dev) {n : Nat} (h : n ∉ l) :
    (d.modLmods f l).lmod n = d.lmod n := by
  induction l generalizing d with
  | nil => rfl
  | cons m l ih =>
    rw [List.mem_cons, not_or] at h
    exact (ih (d.modLmod m f) h.2).trans (lmod_modLmod_ne d f h.1)

theorem lmod_modLmods (f : Lmod → Lmod) {l : List Nat} (hl : l.Nodup) (d : Dev) {n : Nat} (h : n ∈ l) :
    (d.modLmods f l).lmod n = f (d.lmod n) := by
  induction l generalizing d with
  | nil => exact absurd h List.not_mem_nil
  | cons m l ih =>
    rw [List.nodup_cons] at hl
    rcases List.mem_cons.1 h with rfl | h
    · exact (lmod_modLmods_ne f (d.modLmod n f) hl.1).trans (lmod_modLmod_self d n f)
    · exact (ih hl.2 (d.modLmod m f) h).trans
        (congrArg f (lmod_modLmod_ne d f fun e => hl.1 (e ▸ h)))

/-! ## Registers of both ends -/

theorem kept_linkCount (d : Dev) (k : Nat) (r : Nat → Nat) : Kept [.regs] d (d.linkCount k r) :=
  kept_foldl (fun d m => kept_bump d (r m) 1) _ d

theorem regsBut_foldl {f : Dev → Nat → Dev} {r : Nat → Nat} (hf : ∀ d m, RegsBut [r m] d (f d m)) (l : List Nat)
    (d : Dev) : RegsBut (l.map r) d (l.foldl f d) := by
  induction l generalizing d with
  | nil => exact fun _ _ => rfl
  | cons m l ih =>
    exact RegsBut_trans (RegsBut_mono (hf d m) (by simp))
      (RegsBut_mono (ih (f d m)) fun _ h => List.mem_cons_of_mem _ h)

theorem linkCount_regsBut (d : Dev) (k : Nat) (r : Nat → Nat) : RegsBut ((linkMods k).map r) d (d.linkCount k r) :=
  regsBut_foldl (fun d m => regsBut_bump d (r m) 1) _ d

theorem counted_foldl_bump {r : Nat → Nat} (hr : ∀ m n, r m = r n → m = n) {l : List Nat} (hl : l.Nodup) (d : Dev)
    {n : Nat} (h : n ∈ l) : Counted d (l.foldl (fun (d : Dev) m => d.bump (r m)) d) (r n) := by
  induction l generalizing d with
  | nil => exact absurd h List.not_mem_nil
  | cons m l ih =>
    rw [List.nodup_cons] at hl
    rcases List.mem_cons.1 h with rfl | h
    · refine Counted_of_regsBut (counted_bump d (r n))
        (regsBut_foldl (f := fun d m => d.bump (r m)) (fun d m => regsBut_bump d (r m) 1) l _) ?_
      intro hm
      obtain ⟨x, hx, e⟩ := List.mem_map.1 hm
      exact hl.1 (hr _ _ e ▸ hx)
    · have k := ih hl.2 (d.bump (r m)) h
      have e : (d.bump (r m)).reg (r n) = d.reg (r n) :=
        Dev.reg_bump_ne d 1 fun e => hl.1 (hr _ _ e ▸ h)
      unfold Counted at k ⊢
      rw [List.foldl_cons, k, e]

theorem linkCount_links (d : Dev) (k : Nat) (r : Nat → Nat) : (d.linkCount k r).links = d.links :=
  (kept_linkCount d k r).same .links (by decide)

theorem linkCount_counted (d : Dev) (k : Nat) {r : Nat → Nat} (hr : ∀ m n, r m = r n → m = n) :
    ∀ n ∈ linkMods k, Counted d (d.linkCount k r) (r n) :=
  fun _ h => counted_foldl_bump hr (nodup_linkMods k) d h

theorem kept_linkLast (d : Dev) (k lo lane : Nat) : Kept [.regs] d (d.linkLast k lo lane) :=
  kept_foldl (fun d m => kept_setFld d (R.lnkLast m) lo 6 lane) _ d

theorem regsBut_setFld (d : Dev) (o lo n v : Nat) : RegsBut [o] d (d.setFld o lo n v) :=
  regsBut_setReg d o _

theorem linkLast_regsBut (d : Dev) (k lo lane : Nat) :
    RegsBut ((linkMods k).map R.lnkLast) d (d.linkLast k lo lane) :=
  regsBut_foldl (fun d m => regsBut_setFld d (R.lnkLast m) lo 6 lane) _ d

theorem bits_setBits (v lo n x : Nat) : bits (setBits v lo n x) lo n = x % 2 ^ n := by
  unfold bits setBits
  have h1 : v % 2 ^ lo < 2 ^ lo := Nat.mod_lt _ (by positivity)
  have e : v % 2 ^ lo + x % 2 ^ n * 2 ^ lo + v / 2 ^ (lo + n) * 2 ^ (lo + n) =
      v % 2 ^ lo + (x % 2 ^ n + v / 2 ^ (lo + n) * 2 ^ n) * 2 ^ lo := by
    rw [pow_add]; ring
  rw [e, Nat.add_mul_div_right _ _ (by positivity), Nat.div_eq_of_lt h1, Nat.zero_add, Nat.add_mul_mod_self_right,
    Nat.mod_mod]

theorem bits_mod_word (v : Nat) {lo n : Nat} (h : lo + n ≤ 32) : bits (v % 2 ^ 32) lo n = bits v lo n := by
  unfold bits
  obtain ⟨c, hc⟩ := Nat.exists_eq_add_of_le h
  rw [hc, pow_add, pow_add, Nat.mul_assoc, Nat.mod_mul_right_div_self, Nat.mod_mul_right_mod]

theorem fld_setFld_self (d : Dev) {o lo n : Nat} (v : Nat) (h : lo + n ≤ 32) :
    (d.setFld o lo n v).fld o lo n = v % 2 ^ n := by
  unfold Dev.fld Dev.setFld
  rw [Dev.reg_setReg_self, bits_mod_word _ h, bits_setBits]

theorem fld_of_regsBut {offs : List Nat} {a b : Dev} (h : RegsBut offs a b) {o : Nat} (ho : o ∉ offs) (lo n : Nat) :
    b.fld o lo n = a.fld o lo n := by
  unfold Dev.fld
  rw [h o ho]

theorem lnkLast_injective : ∀ m n, R.lnkLast m = R.lnkLast n → m = n := by
  intro m n h
  unfold R.lnkLast at h
  omega

theorem fld_linkLast (lo lane : Nat) (h : lo + 6 ≤ 32) {l : List Nat} (hl : l.Nodup) (d : Dev) {n : Nat}
    (hn : n ∈ l) :
    (l.foldl (fun (d : Dev) m => d.setFld (R.lnkLast m) lo 6 lane) d).fld (R.lnkLast n) lo 6 = lane % 64 := by
  induction l generalizing d with
  | nil => exact absurd hn List.not_mem_nil
  | cons m l ih =>
    rw [List.nodup_cons] at hl
    rcases List.mem_cons.1 hn with rfl | hn
    · refine (fld_of_regsBut (regsBut_foldl (r := R.lnkLast)
        (f := fun d m => d.setFld (R.lnkLast m) lo 6 lane) (fun d m => regsBut_setFld d (R.lnkLast m) lo 6 lane) l _)
        ?_ lo 6).trans (fld_setFld_self _ _ h)
      intro hm
      obtain ⟨x, hx, e⟩ := List.mem_map.1 hm
      exact hl.1 (lnkLast_injective _ _ e ▸ hx)
    · exact ih hl.2 _ hn

/-! ## Events of links -/

theorem evLink_eq (d : Dev) (cls code k : Nat) (dt : List Nat) : ∃ rg bl, rg ≠ 6 ∧ rg ≠ 7 ∧
    d.evLink cls code k dt = d.event cls code rg bl dt ∧ linkRec d cls code k dt = regRec d cls code rg bl dt := by
  unfold Dev.evLink linkRec
  dsimp only
  split
  · exact ⟨linkMod k / 4, _, by omega, by omega, rfl, rfl⟩
  · exact ⟨8 + (linkMod k - 16), _, by omega, by omega, rfl, rfl⟩

theorem evLink_log (d : Dev) (cls code k : Nat) (dt : List Nat) :
    (d.evLink cls code k dt).log = d.log.put (linkRec d cls code k dt) := by
  obtain ⟨rg, bl, -, -, e, r⟩ := evLink_eq d cls code k dt
  rw [e, r, event_log]
  rfl

theorem kept_evLink (d : Dev) (cls code k : Nat) (dt : List Nat) :
    Kept [.regs, .chA, .chB, .log] d (d.evLink cls code k dt) := by
  obtain ⟨rg, bl, -, -, e, -⟩ := evLink_eq d cls code k dt
  rw [e]
  exact kept_event ..

theorem kept_evLink_low (d : Dev) {cls : Nat} (h : cls ≠ 4) (code k : Nat) (dt : List Nat) :
    Kept [.regs, .log] d (d.evLink cls code k dt) := by
  obtain ⟨rg, bl, -, -, e, -⟩ := evLink_eq d cls code k dt
  rw [e]
  exact kept_event_low d h ..

theorem evLink_regsBut (d : Dev) {cls code k : Nat} {dt : List Nat} :
    RegsBut [R.hpEvlogLost] d (d.evLink cls code k dt) := by
  obtain ⟨rg, bl, -, -, e, -⟩ := evLink_eq d cls code k dt
  rw [e]
  exact event_reg d cls code rg bl dt _ _

theorem evLink_links (d : Dev) (cls code k : Nat) (dt : List Nat) : (d.evLink cls code k dt).links = d.links :=
  (kept_evLink d cls code k dt).same .links (by decide)

theorem evLink_time (d : Dev) (cls code k : Nat) (dt : List Nat) : (d.evLink cls code k dt).time = d.time :=
  (kept_evLink d cls code k dt).same .time (by decide)

theorem linkRec_of_time {a b : Dev} (h : b.time = a.time) (cls code k : Nat) (dt : List Nat) :
    linkRec b cls code k dt = linkRec a cls code k dt := by
  unfold linkRec regRec
  rw [h]

theorem hubLanes_of_links {a b : Dev} (h : b.links = a.links) (t : Nat) : b.hubLanes t = a.hubLanes t := by
  unfold Dev.hubLanes Dev.linkLanes Dev.link Dev.lmod
  rw [h]

/-- The check of a tile's hub lanes writes at most one event. -/
theorem hubCheck_cases (d before : Dev) (k : Nat) :
    d.hubCheck before k = d ∨ ∃ t dt, d.hubCheck before k = d.event 5 0x3005 t 0xFF dt := by
  unfold Dev.hubCheck
  dsimp only
  split
  · exact .inr ⟨_, _, rfl⟩
  · exact .inl rfl

theorem hubCheck_effect (d before : Dev) (k : Nat) :
    Kept [.regs, .log] d (d.hubCheck before k) ∧ RegsBut [R.hpEvlogLost] d (d.hubCheck before k) ∧
    ∃ more : List EventRecord, (d.hubCheck before k).log = more.foldl EvLog.put d.log := by
  rcases hubCheck_cases d before k with e | ⟨t, dt, e⟩
  · rw [e]
    exact ⟨kept_refl .., fun _ _ => rfl, [], rfl⟩
  · rw [e]
    exact ⟨kept_event_low d (by decide) .., event_reg d 5 0x3005 t 0xFF dt _ _, [_], event_log ..⟩

/-! ## A link retrains -/

theorem runs_onDevIf {c : Instr} {s : State} {p : Dev → Bool} {f : Dev → Dev} {P : State → Prop}
    (e : exec c s = onDevIf p f s) (hp : p s.dev = true) (h : P { s with dev := f s.dev }) : Runs c s P :=
  ⟨_, e.trans (onDevIf_met f hp), h⟩

/-- Of the links and the optical lanes nothing has changed but link `k`. -/
def OnlyLink (k : Nat) (a b : Dev) : Prop := (∀ j, j ≠ k → b.link j = a.link j) ∧ b.links.lanes = a.links.lanes

theorem onlyLink_modLink (d : Dev) (k : Nat) (f : Link → Link) : OnlyLink k d (d.modLink k f) :=
  ⟨fun _ h => link_modLink_ne d f h, rfl⟩

theorem onlyLink_of_links {a b : Dev} (k : Nat) (h : b.links = a.links) : OnlyLink k a b :=
  ⟨fun j _ => link_of_links h j, by rw [h]⟩

theorem onlyLink_modLmods (f : Lmod → Lmod) (l : List Nat) (d : Dev) (k : Nat) : OnlyLink k d (d.modLmods f l) :=
  ⟨fun j _ => link_modLmods f l d j, lanes_modLmods f l d⟩

theorem OnlyLink_trans {k : Nat} {a b c : Dev} (h : OnlyLink k a b) (g : OnlyLink k b c) : OnlyLink k a c :=
  ⟨fun j hj => (g.1 j hj).trans (h.1 j hj), g.2.trans h.2⟩

theorem lnkRetrain_injective : ∀ m n, R.lnkRetrain m = R.lnkRetrain n → m = n := by
  intro m n h
  unfold R.lnkRetrain at h
  omega

theorem linkRetrain_starts (k : Fin 24) {s : State} (hx : (s.dev.link k).state = 2)
    (hf : 4 ≤ (s.dev.link k).dir0.fails ∨ 4 ≤ (s.dev.link k).dir1.fails) : Runs (.linkRetrain k) s fun t =>
      t.dev.link k = { s.dev.link k with state := 3, retrainAt := s.dev.time.now } ∧ OnlyLink k s.dev t.dev ∧
      (∀ n ∈ linkMods k, Counted s.dev t.dev (R.lnkRetrain n)) ∧
      RegsBut ((linkMods k).map R.lnkRetrain) s.dev t.dev ∧ Only [.links, .regs] s t := by
  have e : exec (.linkRetrain k) s = execLinkRetrain k s := rfl
  unfold execLinkRetrain at e
  refine runs_onDevIf e (by rcases hf with h | h <;> simp [hx, h]) ?_
  have hl := linkCount_links s.dev k R.lnkRetrain
  refine ⟨?_, OnlyLink_trans (onlyLink_of_links k hl) (onlyLink_modLink ..),
    linkCount_counted s.dev k lnkRetrain_injective, linkCount_regsBut s.dev k R.lnkRetrain,
    only_dev (Kept_trans (Kept_mono (kept_linkCount ..) (by decide)) (Kept_mono (kept_modLink ..) (by decide)))⟩
  rw [link_modLink_self, link_of_links hl]

/-! ## A retraining ends -/

/-- A link that is down. -/
def Link.off (x : Link) : Link := { x with state := 0, due := [], repairing := none }

/-- A link whose retraining has succeeded. -/
def Link.retrained (x : Link) : Link :=
  { x with state := 2, dir0 := { x.dir0 with fails := 0, replaying := false }
           dir1 := { x.dir1 with fails := 0, replaying := false } }

theorem linkDown_ring (d : Dev) {k : Nat} (h : 20 ≤ k) :
    d.linkDown k = (d.modLink k Link.off).evLink 5 0x3008 k [linkMod k, 1] := by
  unfold Dev.linkDown isRing
  rw [if_pos (decide_eq_true h)]
  rfl

theorem linkDown_hub (d : Dev) {k : Nat} (hk : k < 16) (h : 0 < (d.modLink k Link.off).hubLanes (k / 4)) :
    d.linkDown k = ((d.modLink k Link.off).evLink 5 0x3008 k [linkMod k, 0]).hubCheck d k := by
  unfold Dev.linkDown isRing
  rw [if_neg (by simp; omega), if_pos ⟨hk, h⟩]
  rfl

theorem linkDown_last (d : Dev) {k : Nat} (hk : k < 20)
    (h : 16 ≤ k ∨ (d.modLink k Link.off).hubLanes (k / 4) = 0) :
    d.linkDown k = (d.modLink k Link.off).evLink 4 0x3006 k [linkMod k] := by
  unfold Dev.linkDown isRing
  rw [if_neg (by simp; omega), if_neg]
  · rfl
  · rintro ⟨h1, h2⟩
    change 0 < (d.modLink k Link.off).hubLanes (k / 4) at h2
    omega

/-- A link that goes down does so in its links' part alone, and writes records. -/
theorem linkDown_effect (d : Dev) (k : Nat) :
    (d.linkDown k).links = (d.modLink k Link.off).links ∧ Kept [.links, .regs, .log, .chA, .chB] d (d.linkDown k) ∧
    RegsBut [R.hpEvlogLost] d (d.linkDown k) ∧
    ∃ more : List EventRecord, (d.linkDown k).log = more.foldl EvLog.put d.log := by
  have off : Kept [.links, .regs, .log, .chA, .chB] d (d.modLink k Link.off) :=
    Kept_mono (kept_modLink ..) (by decide)
  have ev (cls code dt) : Kept [.links, .regs, .log, .chA, .chB] d ((d.modLink k Link.off).evLink cls code k dt) :=
    Kept_trans off (Kept_mono (kept_evLink ..) (by decide))
  by_cases h20 : 20 ≤ k
  · rw [linkDown_ring d h20]
    exact ⟨evLink_links .., ev .., evLink_regsBut (d.modLink k Link.off), [_], evLink_log ..⟩
  · by_cases h : k < 16 ∧ 0 < (d.modLink k Link.off).hubLanes (k / 4)
    · rw [linkDown_hub d h.1 h.2]
      generalize he : (d.modLink k Link.off).evLink 5 0x3008 k [linkMod k, 0] = e
      obtain ⟨kh, rh, more, lh⟩ := hubCheck_effect e d k
      refine ⟨(kh.same .links (by decide)).trans (he ▸ evLink_links ..),
        Kept_trans (he ▸ ev ..) (Kept_mono kh (by decide)),
        RegsBut_trans (he ▸ evLink_regsBut (d.modLink k Link.off)) rh, linkRec d 5 0x3008 k [linkMod k, 0] :: more,
      lh.trans ?_⟩
      rw [List.foldl_cons, ← he, evLink_log]
      rfl
    · rw [linkDown_last d (by omega) (by omega)]
      exact ⟨evLink_links .., ev .., evLink_regsBut (d.modLink k Link.off), [_], evLink_log ..⟩

theorem linkRetrainDone_up (k : Fin 24) {s : State} (hx : (s.dev.link k).state = 3)
    (hr : (s.dev.link k).repairing = none) : Runs (.linkRetrainDone k true) s fun t =>
      t.dev.link k = (s.dev.link k).retrained ∧ OnlyLink k s.dev t.dev ∧
      Wrote s.dev t.dev
        (linkRec s.dev 3 0x3007 k [linkMod k, (s.dev.time.now - (s.dev.link k).retrainAt) / 1000]) ∧
      RegsBut [R.hpEvlogLost] s.dev t.dev ∧ Only [.links, .regs, .log] s t := by
  have e : exec (.linkRetrainDone k true) s = execLinkRetrainDone k true s := rfl
  unfold execLinkRetrainDone at e
  refine runs_onDevIf e (by simp [hx, hr]) ?_
  dsimp only
  rw [if_pos rfl]
  refine ⟨?_, OnlyLink_trans (onlyLink_of_links k (evLink_links ..)) (onlyLink_modLink ..),
    wrote_of_put (evLink_log ..), evLink_regsBut s.dev,
    only_dev (Kept_trans (Kept_mono (kept_evLink_low _ (by decide) ..) (by decide))
      (Kept_mono (kept_modLink ..) (by decide)))⟩
  rw [link_modLink_self, link_of_links (evLink_links ..)]
  rfl

/-- The device as a retraining of link `k` has ended, with its record. -/
def Dev.retrainEnds (d : Dev) (k : Nat) : Dev :=
  d.evLink 3 0x3007 k [linkMod k, (d.time.now - (d.link k).retrainAt) / 1000]

theorem retrainEnds_kept (d : Dev) (k : Nat) : Kept [.regs, .log] d (d.retrainEnds k) :=
  kept_evLink_low d (by decide) ..

theorem retrainEnds_links (d : Dev) (k : Nat) : (d.retrainEnds k).links = d.links := evLink_links ..

theorem retrainEnds_time (d : Dev) (k : Nat) : (d.retrainEnds k).time = d.time := evLink_time ..

theorem retrainEnds_hubLanes (d : Dev) (k t : Nat) :
    ((d.retrainEnds k).modLink k Link.off).hubLanes t = (d.modLink k Link.off).hubLanes t := by
  refine hubLanes_of_links ?_ t
  unfold Dev.modLink
  rw [retrainEnds_links]

theorem linkRetrainDone_fails (k : Fin 24) {s : State} (hx : (s.dev.link k).state = 3)
    (hr : (s.dev.link k).repairing = none) :
    exec (.linkRetrainDone k false) s = .next { s with dev := (s.dev.retrainEnds k).linkDown k } := by
  have e : exec (.linkRetrainDone k false) s = execLinkRetrainDone k false s := rfl
  unfold execLinkRetrainDone at e
  exact e.trans (onDevIf_met _ (by simp [hx, hr]))

/-- What a failed retraining does in every case. -/
theorem retrainEnds_linkDown (d : Dev) (k : Nat) :
    ((d.retrainEnds k).linkDown k).link k = (d.link k).off ∧ OnlyLink k d ((d.retrainEnds k).linkDown k) ∧
    RegsBut [R.hpEvlogLost] d ((d.retrainEnds k).linkDown k) ∧
    Kept [.links, .regs, .log, .chA, .chB] d ((d.retrainEnds k).linkDown k) := by
  have hl := retrainEnds_links d k
  obtain ⟨ll, lk, lr, -⟩ := linkDown_effect (d.retrainEnds k) k
  refine ⟨?_, OnlyLink_trans (OnlyLink_trans (onlyLink_of_links k hl) (onlyLink_modLink ..)) (onlyLink_of_links k ll),
    RegsBut_trans (evLink_regsBut d) lr, Kept_trans (Kept_mono (retrainEnds_kept d k) (by decide)) lk⟩
  rw [link_of_links ll, link_modLink_self, link_of_links hl]

theorem retrainEnds_ring (d : Dev) {k : Nat} (h : 20 ≤ k) :
    ((d.retrainEnds k).linkDown k).log = [linkRec d 3 0x3007 k [linkMod k, (d.time.now - (d.link k).retrainAt) / 1000],
      linkRec d 5 0x3008 k [linkMod k, 1]].foldl EvLog.put d.log ∧
    Kept [.links, .regs, .log] d ((d.retrainEnds k).linkDown k) := by
  rw [linkDown_ring _ h, evLink_log, linkRec_of_time (b := (d.retrainEnds k).modLink k Link.off) (retrainEnds_time d k)]
  refine ⟨congrArg (EvLog.put · _) (evLink_log ..), ?_⟩
  exact Kept_trans (Kept_mono (retrainEnds_kept d k) (by decide)) (Kept_trans (Kept_mono (kept_modLink ..) (by decide))
    (Kept_mono (kept_evLink_low _ (by decide) ..) (by decide)))

theorem retrainEnds_hub (d : Dev) {k : Nat} (hk : k < 16) (h : 0 < (d.modLink k Link.off).hubLanes (k / 4)) :
    (∃ more : List EventRecord, ((d.retrainEnds k).linkDown k).log =
      ([linkRec d 3 0x3007 k [linkMod k, (d.time.now - (d.link k).retrainAt) / 1000],
        linkRec d 5 0x3008 k [linkMod k, 0]] ++ more).foldl EvLog.put d.log) ∧
    Kept [.links, .regs, .log] d ((d.retrainEnds k).linkDown k) := by
  rw [linkDown_hub _ hk (by rwa [retrainEnds_hubLanes])]
  obtain ⟨kh, -, more, lh⟩ := hubCheck_effect (((d.retrainEnds k).modLink k Link.off).evLink 5 0x3008 k [linkMod k, 0])
    (d.retrainEnds k) k
  refine ⟨⟨more, ?_⟩, Kept_trans (Kept_mono (retrainEnds_kept d k) (by decide))
    (Kept_trans (Kept_mono (kept_modLink ..) (by decide))
      (Kept_trans (Kept_mono (kept_evLink_low _ (by decide) ..) (by decide)) (Kept_mono kh (by decide))))⟩
  rw [lh, List.foldl_append, evLink_log,
    linkRec_of_time (b := (d.retrainEnds k).modLink k Link.off) (retrainEnds_time d k)]
  exact congrArg (fun l => more.foldl EvLog.put (EvLog.put l _)) (evLink_log ..)

theorem evLink_req {d : Dev} {code k : Nat} {dt : List Nat} {j : Isl} (hc : code ≠ 0x4010)
    (hl : (d.isl j).loaded = true) (hs : (d.isl j).state ≠ .halted) :
    feedCause code ∈ ((d.evLink 4 code k dt).isl j).req := by
  obtain ⟨rg, bl, h6, h7, e, -⟩ := evLink_eq d 4 code k dt
  rw [e]
  exact req_event bl dt _ _ h6 h7 hc hl hs

theorem retrainEnds_last (d : Dev) {k : Nat} (hk : k < 20)
    (h : 16 ≤ k ∨ (d.modLink k Link.off).hubLanes (k / 4) = 0) :
    ((d.retrainEnds k).linkDown k).log = [linkRec d 3 0x3007 k [linkMod k, (d.time.now - (d.link k).retrainAt) / 1000],
      linkRec d 4 0x3006 k [linkMod k]].foldl EvLog.put d.log ∧
    ∀ j, (d.isl j).loaded = true → (d.isl j).state ≠ .halted → 5 ∈ (((d.retrainEnds k).linkDown k).isl j).req := by
  rw [linkDown_last _ hk (by rwa [retrainEnds_hubLanes]), evLink_log,
    linkRec_of_time (b := (d.retrainEnds k).modLink k Link.off) (retrainEnds_time d k)]
  refine ⟨congrArg (EvLog.put · _) (evLink_log ..), fun j hl hs => ?_⟩
  have same : ((d.retrainEnds k).modLink k Link.off).isl j = d.isl j := by
    have hA := (retrainEnds_kept d k).same .chA (by decide)
    have hB := (retrainEnds_kept d k).same .chB (by decide)
    cases j
    · exact hA
    · exact hB
  exact evLink_req (by decide) (by rwa [same]) (by rwa [same])

/-! ## A lane's repair starts -/

/-- A module with one redundant lane more in use. -/
def Lmod.useRed (r : Nat) (q : Lmod) : Lmod := { q with redUsed := q.redUsed ++ [r] }

/-- A module with one lane more retired. -/
def Lmod.retire (lane : Nat) (q : Lmod) : Lmod := { q with retired := q.retired ++ [lane] }

theorem ctrlFrame_modLmods (f : Lmod → Lmod) (l : List Nat) (d : Dev) : (d.modLmods f l).ctrlFrame = d.ctrlFrame := by
  obtain ⟨ms, h⟩ := modLmods_eq f l d
  rw [h]
  rfl

/-- The conditions of LANE_REPAIR_START (R391, R392). -/
def Dev.repairable (d : Dev) (k lane : Nat) : Prop :=
  (d.link k).state = 2 ∧ lane ∈ (d.link k).due ∧ (d.link k).repairF ≠ some d.ctrlFrame ∧ d.time.now % wingbeatNs = 0

theorem exec_laneRepairStart {k : Fin 24} {lane : Fin 64} {s : State} (h : s.dev.repairable k lane) :
    exec (.laneRepairStart k lane) s = .next { s with dev := match s.dev.redLane k with
      | none => s.dev.retireLane k lane
      | some r => (s.dev.modLmods (Lmod.useRed r) (linkMods k)).modLink k fun x => { x with
          state := 3, repairing := some (lane.val, r)
          repairF := some (s.dev.modLmods (Lmod.useRed r) (linkMods k)).ctrlFrame } } := by
  obtain ⟨hx, hd, hf, ht⟩ := h
  have e : exec (.laneRepairStart k lane) s = execLaneRepairStart k lane s := rfl
  unfold execLaneRepairStart at e
  exact e.trans (onDevIf_met _ (by simp [hx, hd, hf, ht]))

theorem laneRepairStart_takes {k : Fin 24} {lane : Fin 64} {r : Nat} {s : State} (h : s.dev.repairable k lane)
    (hr : s.dev.redLane k = some r) : Runs (.laneRepairStart k lane) s fun t =>
      t.dev.link k = { s.dev.link k with
        state := 3, repairing := some (lane.val, r), repairF := some s.dev.ctrlFrame } ∧
      (∀ n ∈ linkMods k, (t.dev.lmod n).redUsed = (s.dev.lmod n).redUsed ++ [r]) ∧
      (∀ n, n ∉ linkMods k → t.dev.lmod n = s.dev.lmod n) ∧ OnlyLink k s.dev t.dev ∧ Only [.links] s t := by
  have e := exec_laneRepairStart h
  rw [hr] at e
  refine ⟨_, e, ?_, fun n hn => ?_, fun n hn => ?_, OnlyLink_trans (onlyLink_modLmods ..) (onlyLink_modLink ..),
    only_dev (Kept_trans (kept_modLmods ..) (kept_modLink ..))⟩
  · rw [link_modLink_self, link_modLmods, ctrlFrame_modLmods]
  · exact congrArg Lmod.redUsed (lmod_modLmods (Lmod.useRed r) (nodup_linkMods k) s.dev hn)
  · exact lmod_modLmods_ne (Lmod.useRed r) s.dev hn

/-! ## A lane is retired -/

/-- The links as a lane of link `k` has been retired at both ends. -/
def Dev.laneOut (d : Dev) (k lane : Nat) : Dev :=
  (d.modLmods (Lmod.retire lane) (linkMods k)).modLink k fun x => { x with
    due := x.due.filter (· ≠ lane), repairF := some (d.modLmods (Lmod.retire lane) (linkMods k)).ctrlFrame }

theorem laneOut_effect (d : Dev) (k lane : Nat) :
    (d.laneOut k lane).link k = { d.link k with
      due := (d.link k).due.filter (· ≠ lane), repairF := some d.ctrlFrame } ∧
    (∀ n ∈ linkMods k, (d.laneOut k lane).lmod n = (d.lmod n).retire lane) ∧
    (∀ n, n ∉ linkMods k → (d.laneOut k lane).lmod n = d.lmod n) ∧ OnlyLink k d (d.laneOut k lane) ∧
    Kept [.links] d (d.laneOut k lane) := by
  refine ⟨?_, fun n hn => lmod_modLmods (Lmod.retire lane) (nodup_linkMods k) d hn,
    fun n hn => lmod_modLmods_ne (Lmod.retire lane) d hn, OnlyLink_trans (onlyLink_modLmods ..) (onlyLink_modLink ..),
    Kept_trans (kept_modLmods ..) (kept_modLink ..)⟩
  unfold Dev.laneOut
  rw [link_modLink_self, link_modLmods, ctrlFrame_modLmods]

theorem linkLanes_laneOut (d : Dev) (k lane : Nat) :
    (d.laneOut k lane).linkLanes k = (d.linkLanes k).filter (· ≠ lane) := by
  obtain ⟨-, hm, -⟩ := laneOut_effect d k lane
  unfold Dev.linkLanes
  dsimp only
  rw [hm _ (linkMod_mem k), List.filter_filter]
  refine List.filter_congr fun l _ => ?_
  simp only [Lmod.retire, List.contains_append, List.contains_cons, List.contains_nil, Bool.or_false, Bool.not_or,
    decide_not]
  cases hl : (l == lane) <;> simp_all

theorem linkLanes_of_links {a b : Dev} (h : b.links = a.links) (k : Nat) : b.linkLanes k = a.linkLanes k := by
  unfold Dev.linkLanes
  rw [lmod_of_links h]

/-- The device as a lane has been retired with its record, and the tile's hub lanes have been checked. -/
def Dev.laneOutTold (d : Dev) (k lane : Nat) : Dev :=
  ((d.laneOut k lane).evLink 5 0x3004 k
    [linkMod k, lane, ((d.linkLanes k).filter (· ≠ lane)).length]).hubCheck d k

theorem laneOutTold_effect (d : Dev) (k lane : Nat) :
    (d.laneOutTold k lane).links = (d.laneOut k lane).links ∧ Kept [.links, .regs, .log] d (d.laneOutTold k lane) ∧
    RegsBut [R.hpEvlogLost] d (d.laneOutTold k lane) ∧ ∃ more : List EventRecord, (d.laneOutTold k lane).log =
      ([linkRec d 5 0x3004 k [linkMod k, lane, ((d.linkLanes k).filter (· ≠ lane)).length]] ++ more).foldl
        EvLog.put d.log := by
  obtain ⟨-, -, -, -, ko⟩ := laneOut_effect d k lane
  unfold Dev.laneOutTold
  generalize hdt : [linkMod k, lane, ((d.linkLanes k).filter (· ≠ lane)).length] = dt
  obtain ⟨kh, rh, more, lh⟩ := hubCheck_effect ((d.laneOut k lane).evLink 5 0x3004 k dt) d k
  have regs : (d.laneOut k lane).regs = d.regs := ko.same .regs (by decide)
  refine ⟨(kh.same .links (by decide)).trans (evLink_links ..), ?_, ?_, more, ?_⟩
  · exact Kept_trans (Kept_mono ko (by decide))
      (Kept_trans (Kept_mono (kept_evLink_low _ (by decide) ..) (by decide)) (Kept_mono kh (by decide)))
  · exact RegsBut_trans (regsBut_of_regs _ regs) (RegsBut_trans (evLink_regsBut _) rh)
  · have log : (d.laneOut k lane).log = d.log := ko.same .log (by decide)
    rw [lh, evLink_log, linkRec_of_time (ko.same .time (by decide)), log]
    rfl

theorem retireLane_eq (d : Dev) (k lane : Nat) : d.retireLane k lane =
    if ((d.linkLanes k).filter (· ≠ lane)).isEmpty then (d.laneOutTold k lane).linkDown k
    else d.laneOutTold k lane := by
  have lanes : (d.laneOutTold k lane).linkLanes k = (d.linkLanes k).filter (· ≠ lane) := by
    rw [linkLanes_of_links (laneOutTold_effect d k lane).1, linkLanes_laneOut]
  rw [← lanes]
  unfold Dev.laneOutTold
  rw [← linkLanes_laneOut]
  rfl

theorem laneRepairStart_retires {k : Fin 24} {lane : Fin 64} {s : State} (h : s.dev.repairable k lane)
    (hr : s.dev.redLane k = none) (hl : (s.dev.linkLanes k).filter (· ≠ lane.val) ≠ []) :
    Runs (.laneRepairStart k lane) s fun t =>
      t.dev.link k = { s.dev.link k with
        due := (s.dev.link k).due.filter (· ≠ lane.val), repairF := some s.dev.ctrlFrame } ∧
      (∀ n ∈ linkMods k, (t.dev.lmod n).retired = (s.dev.lmod n).retired ++ [lane.val]) ∧
      (∀ n, n ∉ linkMods k → t.dev.lmod n = s.dev.lmod n) ∧ OnlyLink k s.dev t.dev ∧
      Recorded s.dev t.dev [linkRec s.dev 5 0x3004 k
        [linkMod k, lane, ((s.dev.linkLanes k).filter (· ≠ lane.val)).length]] ∧
      RegsBut [R.hpEvlogLost] s.dev t.dev ∧ Only [.links, .regs, .log] s t := by
  have e := exec_laneRepairStart h
  rw [hr] at e
  dsimp only at e
  rw [retireLane_eq, if_neg (by simpa using hl)] at e
  obtain ⟨hx, hm, hn, ho, -⟩ := laneOut_effect s.dev k lane
  obtain ⟨tl, tk, tr, more, tg⟩ := laneOutTold_effect s.dev k lane
  refine ⟨_, e, (link_of_links tl k).trans hx, fun n h => ?_, fun n h => (lmod_of_links tl n).trans (hn n h),
    OnlyLink_trans ho (onlyLink_of_links k tl), recorded_of_puts more tg, tr, only_dev tk⟩
  exact congrArg Lmod.retired ((lmod_of_links tl n).trans (hm n h))

theorem laneRepairStart_lastLane {k : Fin 24} {lane : Fin 64} {s : State} (h : s.dev.repairable k lane)
    (hr : s.dev.redLane k = none) (hl : (s.dev.linkLanes k).filter (· ≠ lane.val) = []) :
    Runs (.laneRepairStart k lane) s fun t =>
      (t.dev.link k).state = 0 ∧ OnlyLink k s.dev t.dev ∧
      Recorded s.dev t.dev [linkRec s.dev 5 0x3004 k [linkMod k, lane, 0]] ∧
      RegsBut [R.hpEvlogLost] s.dev t.dev ∧ Only [.links, .regs, .log, .chA, .chB] s t := by
  have e := exec_laneRepairStart h
  rw [hr] at e
  dsimp only at e
  rw [retireLane_eq, if_pos (by rw [hl]; rfl)] at e
  obtain ⟨-, -, -, ho, -⟩ := laneOut_effect s.dev k lane
  obtain ⟨tl, tk, tr, more, tg⟩ := laneOutTold_effect s.dev k lane
  obtain ⟨dl, dk, dr, again, dg⟩ := linkDown_effect (s.dev.laneOutTold k lane) k
  rw [hl] at tg
  refine ⟨_, e, ?_, OnlyLink_trans (OnlyLink_trans ho (onlyLink_of_links k tl))
    (OnlyLink_trans (onlyLink_modLink _ k Link.off) (onlyLink_of_links k dl)), recorded_of_puts (more ++ again) ?_,
    RegsBut_trans tr dr, only_dev (Kept_trans (Kept_mono tk (by decide)) dk)⟩
  · dsimp only
    rw [link_of_links dl, link_modLink_self]
    rfl
  · dsimp only
    rw [dg, tg, ← List.foldl_append, List.append_assoc]
    rfl

/-! ## A lane's repair ends -/

/-- A module with a lane carried by a redundant one. -/
def Lmod.carry (lane r : Nat) (q : Lmod) : Lmod :=
  { q with repairs := q.repairs.filter (·.1 ≠ lane) ++ [(lane, r)] }

/-- A link with the counts of a lane cleared. -/
def Link.cleared (lane : Nat) (x : Link) : Link := { x with
  due := x.due.filter (· ≠ lane), attrs := tset (fun _ => 0) x.attrs lane 0
  attrRun := tset (fun _ => 0) x.attrRun lane 0 }

/-- The links as lane `r` has taken over from `lane`. -/
def Dev.laneMoved (d : Dev) (k lane r : Nat) : Dev :=
  (d.modLmods (Lmod.carry lane r) (linkMods k)).modLink k (Link.cleared lane)

/-- The device with both ends' repair counted and named. -/
def Dev.repairCounted (d : Dev) (k lane : Nat) : Dev := (d.linkCount k R.lnkRepair).linkLast k 6 lane

/-- The warnings that a module has no redundant lane left (R35). -/
def Dev.lastRedundant (d : Dev) (k lane : Nat) : Dev :=
  (linkMods k).foldl (fun (d : Dev) m => if (d.lmod m).redUsed.length = 4 then d.evLink 5 0x3009 m [m, lane] else d) d

theorem lastRedundant_effect (d : Dev) (k lane : Nat) :
    Kept [.regs, .log] d (d.lastRedundant k lane) ∧ RegsBut [R.hpEvlogLost] d (d.lastRedundant k lane) ∧
    ∃ more : List EventRecord, (d.lastRedundant k lane).log = more.foldl EvLog.put d.log := by
  unfold Dev.lastRedundant
  induction linkMods k generalizing d with
  | nil => exact ⟨kept_refl .., fun _ _ => rfl, [], rfl⟩
  | cons m l ih =>
    rw [List.foldl_cons]
    split
    · obtain ⟨kp, rp, more, lp⟩ := ih (d.evLink 5 0x3009 m [m, lane])
      refine ⟨Kept_trans (kept_evLink_low _ (by decide) ..) kp, RegsBut_trans (evLink_regsBut d) rp,
        linkRec d 5 0x3009 m [m, lane] :: more, ?_⟩
      rw [lp, evLink_log]
      rfl
    · exact ih d

theorem laneRepaired_eq (d : Dev) (k lane r : Nat) : d.laneRepaired k lane r =
    (((d.laneMoved k lane r).repairCounted k lane).evLink 0 0x3003 k [linkMod k, lane, r,
      4 - (((d.laneMoved k lane r).repairCounted k lane).lmod (linkMod k)).redUsed.length]).lastRedundant k lane := rfl

theorem laneMoved_effect (d : Dev) (k lane r : Nat) :
    (d.laneMoved k lane r).link k = (d.link k).cleared lane ∧
    (∀ n ∈ linkMods k, (d.laneMoved k lane r).lmod n = (d.lmod n).carry lane r) ∧
    OnlyLink k d (d.laneMoved k lane r) ∧ Kept [.links] d (d.laneMoved k lane r) := by
  refine ⟨?_, fun n hn => lmod_modLmods (Lmod.carry lane r) (nodup_linkMods k) d hn,
    OnlyLink_trans (onlyLink_modLmods ..) (onlyLink_modLink ..), Kept_trans (kept_modLmods ..) (kept_modLink ..)⟩
  unfold Dev.laneMoved
  rw [link_modLink_self, link_modLmods]

theorem lnkRepair_injective : ∀ m n, R.lnkRepair m = R.lnkRepair n → m = n := by
  intro m n h
  unfold R.lnkRepair at h
  omega

theorem lnkRepair_ne_lnkLast (m n : Nat) : R.lnkRepair m ≠ R.lnkLast n := by
  unfold R.lnkRepair R.lnkLast
  omega

/-- The registers of a link's modules lie below HP_EVLOG_LOST. -/
theorem evlogLost_not_mem {k : Nat} (hk : k < 24) {n : Nat} (hn : n ∈ linkMods k) :
    R.lnkRepair n ∉ [R.hpEvlogLost] ∧ R.lnkLast n ∉ [R.hpEvlogLost] := by
  have lt := linkMods_lt hk hn
  simp only [List.mem_singleton]
  unfold R.lnkRepair R.lnkLast R.hpEvlogLost
  omega

theorem repairCounted_effect (d : Dev) (k lane : Nat) :
    (∀ n ∈ linkMods k, Counted d (d.repairCounted k lane) (R.lnkRepair n) ∧
      (d.repairCounted k lane).fld (R.lnkLast n) 6 6 = lane % 64) ∧
    RegsBut ((linkMods k).map R.lnkRepair ++ (linkMods k).map R.lnkLast) d (d.repairCounted k lane) ∧
    Kept [.regs] d (d.repairCounted k lane) := by
  refine ⟨fun n hn => ⟨?_, fld_linkLast 6 lane (by decide) (nodup_linkMods k) _ hn⟩, ?_,
    Kept_trans (kept_linkCount ..) (kept_linkLast ..)⟩
  · refine Counted_of_regsBut (linkCount_counted d k lnkRepair_injective n hn) (linkLast_regsBut _ k 6 lane) ?_
    intro h
    obtain ⟨m, -, e⟩ := List.mem_map.1 h
    exact lnkRepair_ne_lnkLast n m e.symm
  · exact RegsBut_trans (RegsBut_mono (linkCount_regsBut d k R.lnkRepair) fun o h => List.mem_append_left _ h)
      (RegsBut_mono (linkLast_regsBut _ k 6 lane) fun o h => List.mem_append_right _ h)


theorem exec_laneRepairDone {k : Fin 24} {ok : Bool} {lane r : Nat} {s : State}
    (h : (s.dev.link k).repairing = some (lane, r)) : exec (.laneRepairDone k ok) s =
      let d := s.dev.modLink k fun x => { x with state := 2, repairing := none }
      .next { s with dev := if ok then d.laneRepaired k lane r else d } := by
  have e : exec (.laneRepairDone k ok) s = execLaneRepairDone k ok s := rfl
  unfold execLaneRepairDone at e
  rw [e, onDevIf_met _ (by simp [h])]
  dsimp only
  rw [h]

/-- A link back in service. -/
def Link.back (x : Link) : Link := { x with state := 2, repairing := none }

theorem laneRepaired_effect (d : Dev) {k : Nat} (hk : k < 24) (lane r : Nat) :
    (d.laneRepaired k lane r).link k = (d.link k).cleared lane ∧
    (∀ n ∈ linkMods k, (lane, r) ∈ ((d.laneRepaired k lane r).lmod n).repairs ∧
      Counted d (d.laneRepaired k lane r) (R.lnkRepair n) ∧
      (d.laneRepaired k lane r).fld (R.lnkLast n) 6 6 = lane % 64) ∧
    OnlyLink k d (d.laneRepaired k lane r) ∧
    Recorded d (d.laneRepaired k lane r)
      [linkRec d 0 0x3003 k [linkMod k, lane, r, 4 - (d.lmod (linkMod k)).redUsed.length]] ∧
    RegsBut (R.hpEvlogLost :: (linkMods k).map R.lnkRepair ++ (linkMods k).map R.lnkLast) d (d.laneRepaired k lane r) ∧
    Kept [.links, .regs, .log] d (d.laneRepaired k lane r) := by
  rw [laneRepaired_eq]
  obtain ⟨ml, mm, mo, mk⟩ := laneMoved_effect d k lane r
  obtain ⟨cc, cr, ck⟩ := repairCounted_effect (d.laneMoved k lane r) k lane
  have mregs : (d.laneMoved k lane r).regs = d.regs := mk.same .regs (by decide)
  have clinks : ((d.laneMoved k lane r).repairCounted k lane).links = (d.laneMoved k lane r).links :=
    ck.same .links (by decide)
  have clog : ((d.laneMoved k lane r).repairCounted k lane).log = d.log :=
    (ck.same .log (by decide)).trans (mk.same .log (by decide))
  have ctime : ((d.laneMoved k lane r).repairCounted k lane).time = d.time :=
    (ck.same .time (by decide)).trans (mk.same .time (by decide))
  have used : (((d.laneMoved k lane r).repairCounted k lane).lmod (linkMod k)).redUsed =
      (d.lmod (linkMod k)).redUsed := by
    rw [lmod_of_links clinks, mm _ (linkMod_mem k)]
    rfl
  rw [used]
  generalize [linkMod k, lane, r, 4 - (d.lmod (linkMod k)).redUsed.length] = dt
  generalize (d.laneMoved k lane r).repairCounted k lane = c at cc cr ck clinks clog ctime
  have ke := kept_evLink_low c (cls := 0) (by decide) 0x3003 k dt
  have re := evLink_regsBut c (cls := 0) (code := 0x3003) (k := k) (dt := dt)
  have le := evLink_log c 0 0x3003 k dt
  generalize c.evLink 0 0x3003 k dt = e at ke re le
  obtain ⟨kf, rf, more, lf⟩ := lastRedundant_effect e k lane
  have elinks : (e.lastRedundant k lane).links = (d.laneMoved k lane r).links :=
    (kf.same .links (by decide)).trans ((ke.same .links (by decide)).trans clinks)
  have regs : RegsBut [R.hpEvlogLost] c (e.lastRedundant k lane) := RegsBut_trans re rf
  refine ⟨(link_of_links elinks k).trans ml, fun n hn => ⟨?_, ?_, ?_⟩, OnlyLink_trans mo (onlyLink_of_links k elinks),
    recorded_of_puts more ?_, ?_, ?_⟩
  · rw [lmod_of_links elinks, mm n hn]
    exact List.mem_append_right _ (List.mem_singleton.2 rfl)
  · have count := Counted_of_regsBut (cc n hn).1 regs (evlogLost_not_mem hk hn).1
    unfold Counted at count ⊢
    rw [count, regsBut_of_regs [] mregs _ (by simp)]
  · rw [fld_of_regsBut regs (evlogLost_not_mem hk hn).2]
    exact (cc n hn).2
  · rw [lf, le, clog, linkRec_of_time ctime]
    rfl
  · refine RegsBut_trans (regsBut_of_regs _ mregs) (RegsBut_trans (RegsBut_mono cr ?_) (RegsBut_mono regs ?_))
    · exact fun o h => List.mem_cons_of_mem _ h
    · exact fun o h => List.mem_singleton.1 h ▸ List.mem_cons_self
  · exact Kept_trans (Kept_mono mk (by decide)) (Kept_trans (Kept_mono ck (by decide))
      (Kept_trans (Kept_mono ke (by decide)) (Kept_mono kf (by decide))))

theorem laneRepairDone_good {k : Fin 24} {lane r : Nat} {s : State} (h : (s.dev.link k).repairing = some (lane, r)) :
    Runs (.laneRepairDone k true) s fun t =>
      t.dev.link k = (s.dev.link k).back.cleared lane ∧
      (∀ n ∈ linkMods k, (lane, r) ∈ (t.dev.lmod n).repairs ∧ Counted s.dev t.dev (R.lnkRepair n) ∧
        t.dev.fld (R.lnkLast n) 6 6 = lane % 64) ∧ OnlyLink k s.dev t.dev ∧
      Recorded s.dev t.dev [linkRec s.dev 0 0x3003 k
        [linkMod k, lane, r, 4 - (s.dev.lmod (linkMod k)).redUsed.length]] ∧
      RegsBut (R.hpEvlogLost :: (linkMods k).map R.lnkRepair ++ (linkMods k).map R.lnkLast) s.dev t.dev ∧
      Only [.links, .regs, .log] s t := by
  obtain ⟨hx, hm, ho, hr, hb, hk⟩ := laneRepaired_effect (s.dev.modLink k Link.back) k.isLt lane r
  refine ⟨_, exec_laneRepairDone h, ?_, hm, OnlyLink_trans (onlyLink_modLink ..) ho, hr, hb,
    only_dev (Kept_trans (Kept_mono (kept_modLink ..) (by decide)) hk)⟩
  exact hx.trans (congrArg (Link.cleared lane) (link_modLink_self ..))

theorem laneRepairDone_bad {k : Fin 24} {lane r : Nat} {s : State} (h : (s.dev.link k).repairing = some (lane, r)) :
    Runs (.laneRepairDone k false) s fun t =>
      t.dev.link k = (s.dev.link k).back ∧ t.dev.links.mods = s.dev.links.mods ∧ OnlyLink k s.dev t.dev ∧
      Only [.links] s t :=
  ⟨_, exec_laneRepairDone h, link_modLink_self .., rfl, onlyLink_modLink .., only_dev (kept_modLink ..)⟩

/-- Settles O42: the links' clauses, command by command. -/
theorem linksRetrainAndRepair : Obligations.LinksRetrainAndRepair := by
  intro k s
  refine ⟨linkRetrain_starts k, fun hx hr => ⟨?_, fun h20 => ?_, fun h20 => ⟨fun h => ?_, fun h => ?_⟩⟩,
    fun lane hx hd hf ht => ⟨fun r => laneRepairStart_takes ⟨hx, hd, hf, ht⟩, laneRepairStart_lastLane ⟨hx, hd, hf, ht⟩,
      laneRepairStart_retires ⟨hx, hd, hf, ht⟩⟩, fun lane r h => ⟨?_, laneRepairDone_bad h⟩⟩
  · obtain ⟨t, e, hl, rest⟩ := linkRetrainDone_up k hx hr
    exact ⟨t, e, by rw [hl]; rfl, by rw [hl]; rfl, by rw [hl]; rfl, by rw [hl]; rfl, rest⟩
  · obtain ⟨hl, ho, hb, -⟩ := retrainEnds_linkDown s.dev k
    obtain ⟨lg, hk⟩ := retrainEnds_ring s.dev h20
    exact ⟨_, linkRetrainDone_fails k hx hr, hl, ho, logged_of_puts lg, hb, only_dev hk⟩
  · obtain ⟨hl, ho, hb, -⟩ := retrainEnds_linkDown s.dev k
    obtain ⟨⟨more, lg⟩, hk⟩ := retrainEnds_hub s.dev h.1 h.2
    exact ⟨_, linkRetrainDone_fails k hx hr, hl, ho, recorded_of_puts more lg, hb, only_dev hk⟩
  · obtain ⟨hl, ho, hb, hk⟩ := retrainEnds_linkDown s.dev k
    obtain ⟨lg, hq⟩ := retrainEnds_last s.dev h20 h
    exact ⟨_, linkRetrainDone_fails k hx hr, hl, ho, logged_of_puts lg, hq, hb, only_dev hk⟩
  · obtain ⟨t, e, hl, rest⟩ := laneRepairDone_good h
    exact ⟨t, e, by rw [hl]; rfl, by rw [hl]; rfl, by rw [hl]; rfl, by rw [hl, Link.cleared, tget_tset_self], rest⟩

end Sys2Proof.Machine

namespace Sys2Proof.Machine

/-! ## Parts of the device that an update writes -/

theorem kept_dram (d : Dev) (x : Dram) : Kept [.dram] d { d with dram := x } := by
  constructor
  intro f hf
  cases f with
  | dram => exact absurd List.mem_cons_self hf
  | _ => rfl

theorem kept_pwr (d : Dev) (x : Power) : Kept [.pwr] d { d with pwr := x } := by
  constructor
  intro f hf
  cases f with
  | pwr => exact absurd List.mem_cons_self hf
  | _ => rfl

theorem kept_sec (d : Dev) (x : Sec) : Kept [.sec] d { d with sec := x } := by
  constructor
  intro f hf
  cases f with
  | sec => exact absurd List.mem_cons_self hf
  | _ => rfl

theorem kept_chip (d : Dev) (x : Chip) : Kept [.chip] d { d with chip := x } := by
  constructor
  intro f hf
  cases f with
  | chip => exact absurd List.mem_cons_self hf
  | _ => rfl

theorem kept_chipSec (d : Dev) (c : Chip) (x : Sec) : Kept [.chip, .sec] d { d with chip := c, sec := x } :=
  Kept_trans (Kept_mono (kept_chip d c) (by decide)) (Kept_mono (kept_sec { d with chip := c } x) (by decide))

theorem kept_modRank (d : Dev) (r : Nat) (f : Rank → Rank) : Kept [.dram] d (d.modRank r f) := kept_dram ..

theorem kept_modChan (d : Dev) (k : Nat) (f : Chan → Chan) : Kept [.dram] d (d.modChan k f) := kept_dram ..

theorem kept_modLane (d : Dev) (n : Nat) (f : OptLane → OptLane) : Kept [.links] d (d.modLane n f) := kept_links ..

theorem kept_applyAll {α : Type} {p : List DevField} {f : Dev → α → Dev} (h : ∀ d x, Kept p d (f d x)) (l : List α)
    (d : Dev) : Kept p d (applyAll f l d) := kept_foldl h l d

/-! ## The record of a start -/

theorem kept_repairBlocks (d : Dev) (r : Repair) : Kept [.blocks] d (d.repairBlocks r) :=
  Kept_trans (kept_applyAll (fun _ _ => kept_modBlk ..) ..) (Kept_trans (kept_applyAll (fun _ _ => kept_modBlk ..) ..)
    (Kept_trans (kept_applyAll (fun _ _ => kept_modBlk ..) ..)
      (Kept_trans (kept_applyAll (fun _ _ => kept_modBlk ..) ..)
      (kept_applyAll (fun _ _ => kept_modBlk ..) ..))))

theorem kept_repairRanks (d : Dev) (r : Repair) : Kept [.dram] d (d.repairRanks r) :=
  Kept_trans (kept_applyAll (fun _ _ => kept_modRank ..) ..) (kept_dram ..)

theorem kept_repairMarks (d : Dev) (r : Repair) : Kept [.dram, .pwr] d (d.repairMarks r) :=
  Kept_trans (Kept_mono (kept_applyAll (fun _ _ => kept_modChan ..) ..) (by decide))
    (Kept_mono (kept_pwr ..) (by decide))

theorem kept_repairLanes (d : Dev) (r : Repair) : Kept [.links] d (d.repairLanes r) :=
  Kept_trans (kept_applyAll (fun _ _ => kept_modLmod ..) ..) <|
  Kept_trans (kept_applyAll (fun _ _ => kept_modLmod ..) ..) <|
  Kept_trans (kept_applyAll (fun _ _ => kept_modLmod ..) ..) <|
  Kept_trans (kept_foldl (fun _ _ => kept_modLane ..) ..) <|
  Kept_trans (kept_applyAll (fun _ _ => kept_modLane ..) ..) <|
  Kept_trans (kept_applyAll (fun _ _ => kept_modLane ..) ..) <|
  Kept_trans (kept_applyAll (fun _ _ => kept_modLane ..) ..) <|
  Kept_trans (kept_applyAll (fun _ _ => kept_modLane ..) ..) <|
  Kept_trans (kept_applyAll (fun _ _ => kept_modLane ..) ..) (kept_links ..)

/-- What survives power as a start has lifted the store's write protection. -/
def Nv.open_ (n : Nv) : Nv := { n with store := { n.store with writeProt := false } }

/-- The device as a start begins, before the record. -/
def Dev.startAt (d : Dev) (n : Nv) : Dev :=
  { d with chip := { d.chip with t0 := d.time.now, hours := n.store.hours }
           sec := { d.sec with next := n.store.lmsEnd } }

/-- The device as a start has applied the repair record. -/
def Dev.withRecord (d : Dev) (n : Nv) : Dev :=
  let r := n.store.repair.newStart
  (((((d.startAt n).extend 0 n.fuses.romDigest).repairBlocks r).repairRanks r).repairMarks r).repairLanes r

/-- The parts that the repair record reaches. -/
theorem kept_record (d : Dev) (r : Repair) :
    Kept [.blocks, .dram, .pwr, .links] d ((((d.repairBlocks r).repairRanks r).repairMarks r).repairLanes r) :=
  Kept_trans (Kept_mono (kept_repairBlocks ..) (by decide)) <|
  Kept_trans (Kept_mono (kept_repairRanks ..) (by decide)) <|
  Kept_trans (Kept_mono (kept_repairMarks ..) (by decide)) (Kept_mono (kept_repairLanes ..) (by decide))

theorem kept_extend (d : Dev) (k : Nat) (x : BitVec 256) : Kept [.sec] d (d.extend k x) := kept_sec ..

theorem kept_withRecord (d : Dev) (n : Nv) : Kept [.blocks, .dram, .pwr, .links, .sec, .chip] d (d.withRecord n) :=
  Kept_trans (Kept_mono (kept_chipSec d _ _) (by decide)) <|
  Kept_trans (Kept_mono (kept_extend (d.startAt n) 0 n.fuses.romDigest) (by decide))
    (Kept_mono (kept_record ..) (by decide))

theorem withRecord_chip (d : Dev) (n : Nv) : (d.withRecord n).chip = (d.startAt n).chip :=
  (kept_record ((d.startAt n).extend 0 n.fuses.romDigest) n.store.repair.newStart).same .chip (by decide)

/-! ## The loader's entry -/

theorem event_low_chip (d : Dev) {cls : Nat} (h : cls ≠ 4) (code rg bl : Nat) (dt : List Nat) (p c : Nat) :
    (d.event cls code rg bl dt p c).chip = d.chip := (kept_event_low d h code rg bl dt p c).same .chip (by decide)

/-- The detail of event 0x9001, whose offset is free where the reason is 6 (R428). -/
def Dev.rejDetail (d : Dev) (type reason sec : Nat) : List Nat :=
  [type, reason, sec, if reason = 6 then Config.freeNat d.free else 0]

theorem rejectImage_effect (d : Dev) (type reason sec : Nat) :
    let t := d.rejectImage type reason sec
    t.chip = { d.chip with phase := .loader, lastReason := reason } ∧ t.sec.lastRej = d.rejDetail type reason sec ∧
    t.mem = d.mem ∧ t.log = [regRec d 5 0x9001 4 0x80 (d.rejDetail type reason sec),
      regRec d 5 0x9005 4 0x80 [if reason = 7 then 2 else 1]].foldl EvLog.put d.log := by
  have k1 : Kept [.free, .chip, .sec, .log, .regs] d (d.rejected type reason sec) :=
    Kept_trans (Kept_mono (kept_fresh d) (by decide)) <| Kept_trans (Kept_mono (kept_chipSec d.fresh.2 _ _) (by decide))
      (Kept_mono (kept_event_low _ (cls := 5) (by decide) ..) (by decide))
  have c1 : (d.rejected type reason sec).chip = { d.chip with lastReason := reason } :=
    event_low_chip _ (cls := 5) (by decide) ..
  have s1 : (d.rejected type reason sec).sec.lastRej = d.rejDetail type reason sec :=
    congrArg Sec.lastRej ((kept_event_low _ (cls := 5) (by decide) ..).same .sec (by decide))
  have l1 : (d.rejected type reason sec).log =
      d.log.put (regRec d 5 0x9001 4 0x80 (d.rejDetail type reason sec)) := event_log ..
  unfold Dev.rejectImage
  generalize d.rejected type reason sec = e at k1 c1 s1 l1
  have k2 : Kept [.chip, .log, .regs] e (e.enterLoader (if reason = 7 then 2 else 1)) :=
    Kept_trans (Kept_mono (kept_chip e _) (by decide))
      (Kept_mono (kept_event_low _ (cls := 5) (by decide) ..) (by decide))
  refine ⟨?_, ?_, (k2.same .mem (by decide)).trans (k1.same .mem (by decide)), ?_⟩
  · refine (event_low_chip _ (cls := 5) (by decide) ..).trans ?_
    dsimp only
    rw [c1]
  · exact (congrArg Sec.lastRej (k2.same .sec (by decide))).trans s1
  · have time : e.time = d.time := k1.same .time (by decide)
    refine (event_log ..).trans ?_
    dsimp only
    rw [l1, time]
    rfl

/-! ## Loading the images -/

theorem kept_loadRegs (d : Dev) (ps : List (Nat × Nat)) : Kept [.regs] d (d.loadRegs ps) :=
  kept_foldl (fun _ _ => kept_setReg ..) ..

theorem kept_loadParts (d : Dev) (c : CfgImage) : Kept [.parts, .ctxs] d (d.loadParts c) :=
  Kept_trans (kept_foldl (fun _ _ => Kept_mono (kept_setPart ..) (by decide)) ..)
    (kept_foldl (fun _ _ => Kept_mono (kept_setCtx ..) (by decide)) ..)

theorem kept_loadStore (d : Dev) (c : CfgImage) : Kept [.mem, .poison] d (d.loadStore c) :=
  Kept_trans (kept_foldl (fun _ _ => kept_store ..) ..)
    (kept_foldl (fun _ _ => kept_foldl (fun _ _ => kept_store ..) ..) ..)

theorem kept_applyMoved (d : Dev) (r : Repair) (t : Nat) : Kept [.tiles] d (d.applyMoved r t) := by
  unfold Dev.applyMoved
  dsimp only
  split
  · exact Kept_trans (kept_modTile ..) (kept_foldl (fun _ _ => kept_modTile ..) ..)
  · exact kept_refl ..

theorem kept_loadMap (d : Dev) (c : CfgImage) (r : Repair) : Kept [.tiles, .blocks, .regs] d (d.loadMap c r) := by
  refine Kept_trans (Kept_trans (Kept_trans (kept_foldl (fun _ _ => kept_foldl (fun _ _ => ?_) ..) ..)
    (kept_foldl (fun _ _ => ?_) ..)) (kept_foldl (fun _ _ => ?_) ..)) (kept_foldl (fun _ _ => ?_) ..)
  · exact Kept_mono (kept_modTile ..) (by decide)
  · exact Kept_mono (kept_applyMoved ..) (by decide)
  · dsimp only
    split
    · exact kept_refl ..
    · exact Kept_mono (kept_modBlk ..) (by decide)
  · exact Kept_mono (kept_setReg ..) (by decide)

theorem kept_assignRoles (d : Dev) : Kept [.links] d d.assignRoles :=
  Kept_trans (kept_foldl (fun _ _ => Kept_trans (kept_modLmod ..) (kept_modLmod ..)) ..)
    (kept_foldl (fun _ _ => kept_modLink ..) ..)

theorem kept_trainDram (d : Dev) (failed : List (Fin 48)) : Kept [.dram] d (d.trainDram failed) :=
  kept_foldl (fun _ _ => Kept_trans (Kept_trans (kept_modRank ..) (kept_modRank ..)) (kept_modChan ..)) ..

theorem kept_poolLists (d : Dev) (recorded : Option Nat) : Kept [.dram, .log, .regs] d (d.poolLists recorded) := by
  unfold Dev.poolLists
  dsimp only
  split
  · exact kept_refl ..
  · split
    · exact Kept_mono (kept_dram ..) (by decide)
    · exact Kept_trans (Kept_mono (kept_dram ..) (by decide))
        (Kept_mono (kept_event_low _ (cls := 0) (by decide) ..) (by decide))

theorem kept_repairPage (d : Dev) (k page : Nat) : Kept [.free, .dram, .log, .regs] d (d.repairPage k page) := by
  unfold Dev.repairPage
  dsimp only
  have h := Kept_mono (q := [.free, .dram, .log, .regs]) (kept_fresh d) (by decide)
  split
  · exact Kept_trans h (Kept_trans (Kept_mono (kept_event_low _ (cls := 0) (by decide) ..) (by decide))
      (Kept_mono (kept_modChan ..) (by decide)))
  · exact Kept_trans h (Kept_trans (Kept_mono (kept_event_low _ (cls := 5) (by decide) ..) (by decide))
      (Kept_mono (kept_modChan ..) (by decide)))

theorem kept_startDram (d : Dev) (failed : List (Fin 48)) (recorded : Option Nat) :
    Kept [.free, .dram, .log, .regs] d (d.startDram failed recorded) :=
  Kept_trans (Kept_mono (kept_trainDram ..) (by decide)) <| Kept_trans (Kept_mono (kept_poolLists ..) (by decide)) <|
  kept_foldl (fun _ _ => kept_foldl (fun _ _ => kept_repairPage ..) ..) ..

theorem kept_modIsls (d : Dev) (f g : Island → Island) : Kept [.chA, .chB] d ((d.modIsl .a f).modIsl .b g) :=
  Kept_trans (kept_modIsl ..) (kept_modIsl ..)

theorem kept_testContent (d : Dev) (n : Nv) : Kept [.sec, .chA, .chB] d (d.testContent n).1 := by
  unfold Dev.testContent
  dsimp only
  split
  · rename_i p _
    have isl := kept_modIsls (d.extend 4 p.1.crypto.digest) (fun s => { s with pkg := p.2 })
      fun s => { s with pkg := p.2 }
    exact Kept_trans (Kept_mono (kept_extend d 4 p.1.crypto.digest) (by decide)) (Kept_mono isl (by decide))
  · exact kept_refl ..

theorem testContent_fuses (d : Dev) (n : Nv) : (d.testContent n).2.fuses = n.fuses := by
  unfold Dev.testContent
  dsimp only
  cases n.store.testStaged with
  | none => cases n.store.testPkg <;> rfl
  | some p => rfl

theorem kept_moultLaser (d : Dev) (n reason : Nat) : Kept [.links, .log, .regs] d (d.moultLaser n reason) :=
  Kept_trans (Kept_trans (Kept_mono (kept_links d _) (by decide)) (Kept_mono (kept_modLane ..) (by decide))) <|
  Kept_trans (Kept_mono (kept_event_low _ (cls := 0) (by decide) ..) (by decide))
    (Kept_mono (kept_event_low _ (cls := 5) (by decide) ..) (by decide))

theorem kept_startLasers (d : Dev) : Kept [.links, .log, .regs] d d.startLasers := by
  refine kept_foldl (fun _ _ => ?_) ..
  split
  · exact kept_moultLaser ..
  · exact kept_refl ..

theorem kept_portUp (d : Dev) (port width : Nat) : Kept [.links, .host, .out, .log, .regs] d (d.portUp port width) := by
  have ev (e : Dev) : Kept [.links, .host, .out, .log, .regs] e (e.evPort 0 0x3028 port [port, width]) :=
    Kept_mono (kept_event_low _ (cls := 0) (by decide) ..) (by decide)
  unfold Dev.portUp
  extract_lets _ a _ _ b e
  have ha : Kept [.links, .host, .out, .log, .regs] d a := Kept_mono (kept_links d _) (by decide)
  have hb : Kept [.links, .host, .out, .log, .regs] d b := by
    unfold b
    split
    · exact Kept_trans ha (Kept_trans (Kept_mono (kept_host a _) (by decide))
        (Kept_mono (kept_links { a with host := { a.host with up := true, lit := true } } _) (by decide)))
    · exact ha
  split
  · exact Kept_trans (Kept_trans hb (ev b)) (Kept_mono (kept_payOwed ..) (by decide))
  · exact Kept_trans hb (ev b)

theorem kept_startPorts (d : Dev) : Kept [.links, .host, .out, .log, .regs] d d.startPorts :=
  kept_foldl (fun _ _ => kept_portUp ..) ..

/-- The device with its ports started, in Acquisition where gPTP is on. -/
def Dev.startSync (d : Dev) : Dev := if bit (d.reg R.tkGptpCfg) 0 then d.setFld R.tkSyncStatus 0 3 1 else d

theorem kept_startSync (d : Dev) : Kept [.regs] d d.startSync := by
  unfold Dev.startSync
  split
  · exact kept_setFld ..
  · exact kept_refl ..

theorem loadImage_effect (d : Dev) (c : CfgImage) (r : Repair) :
    (d.loadImage c r).chip = { d.chip with image := some c, profile := c.header.profile } ∧
    (d.loadImage c r).time = d.time := by
  have k : Kept [.regs, .parts, .ctxs, .mem, .poison, .tiles, .blocks]
      { d with chip := { d.chip with image := some c, profile := c.header.profile } } (d.loadImage c r) :=
    Kept_trans (Kept_mono (kept_loadRegs ..) (by decide)) <| Kept_trans (Kept_mono (kept_loadParts ..) (by decide)) <|
    Kept_trans (Kept_mono (kept_loadStore ..) (by decide)) (Kept_mono (kept_loadMap ..) (by decide))
  exact ⟨k.same .chip (by decide), k.same .time (by decide)⟩

/-- The digests of the two images taken, and the keys of the partitions whose memory is encrypted made. -/
def Dev.keyed (d : Dev) (fw : ImgHeader) (c : CfgImage) : Dev :=
  let keys := (List.range 64).filter fun p =>
    c.header.profile = 1 ∧ bit (d.reg R.mcEncPartLo + d.reg R.mcEncPartHi * 4294967296) p
  { d with
    chip := { d.chip with fwDigest := fw.crypto.digest.toNat, cfgDigest := c.header.crypto.digest.toNat }
    sec := { d.sec with memKeys := keys, erased := [] } }

/-- The device with its images loaded up to the models (R430 steps 3 to 6). -/
def Dev.imagesLoaded (d : Dev) (n : Nv) (failed : List (Fin 48)) (fw : ImgHeader) (c : CfgImage) : Dev :=
  let d := (d.extend 1 fw.crypto.digest).extend 2 c.header.crypto.digest
  ((d.loadImage c n.store.repair).assignRoles.startDram failed n.store.repair.resv).keyed fw c

theorem imagesLoaded_effect (d : Dev) (n : Nv) (failed : List (Fin 48)) (fw : ImgHeader) (c : CfgImage) :
    (d.imagesLoaded n failed fw c).chip = { d.chip with
      image := some c, profile := c.header.profile
      fwDigest := fw.crypto.digest.toNat, cfgDigest := c.header.crypto.digest.toNat } ∧
    (d.imagesLoaded n failed fw c).time = d.time := by
  have ke : Kept [.sec] d ((d.extend 1 fw.crypto.digest).extend 2 c.header.crypto.digest) :=
    Kept_trans (kept_extend ..) (kept_extend ..)
  have chip : _ = d.chip := ke.same .chip (by decide)
  have time : _ = d.time := ke.same .time (by decide)
  unfold Dev.imagesLoaded
  generalize (d.extend 1 fw.crypto.digest).extend 2 c.header.crypto.digest = e at chip time
  dsimp only
  obtain ⟨ic, it⟩ := loadImage_effect e c n.store.repair
  generalize e.loadImage c n.store.repair = i at ic it
  have kd : Kept [.links, .free, .dram, .log, .regs] i (i.assignRoles.startDram failed n.store.repair.resv) :=
    Kept_trans (Kept_mono (kept_assignRoles ..) (by decide)) (Kept_mono (kept_startDram ..) (by decide))
  have dc : _ = i.chip := kd.same .chip (by decide)
  have dt : _ = i.time := kd.same .time (by decide)
  generalize i.assignRoles.startDram failed n.store.repair.resv = l at dc dt
  refine ⟨?_, dt.trans (it.trans time)⟩
  rw [Dev.keyed, dc, ic, chip]

/-- The device as a start that has loaded its images waits for the configuration lock (R430 steps 7 and 8). -/
def Dev.started (d : Dev) (n : Nv) : Dev :=
  let d := (d.testContent n).1.startLasers.startPorts.startSync
  { d with chip := { d.chip with phase := .loading } }

theorem started_effect (d : Dev) (n : Nv) :
    (d.started n).chip = { d.chip with phase := .loading } ∧ (d.started n).time = d.time := by
  have k : Kept [.sec, .chA, .chB, .links, .host, .out, .log, .regs] d
      (d.testContent n).1.startLasers.startPorts.startSync :=
    Kept_trans (Kept_mono (kept_testContent ..) (by decide)) <|
      Kept_trans (Kept_mono (kept_startLasers _) (by decide)) <|
    Kept_trans (Kept_mono (kept_startPorts _) (by decide)) (Kept_mono (kept_startSync _) (by decide))
  have chip : _ = d.chip := k.same .chip (by decide)
  have time : _ = d.time := k.same .time (by decide)
  unfold Dev.started
  generalize (d.testContent n).1.startLasers.startPorts.startSync = e at chip time
  exact ⟨by dsimp only; rw [chip], time⟩

/-! ## The cold start, case by case -/

/-- Reason 6 is that of a bad section of the configuration alone (R428). -/
theorem verifyStored_ne_six (f : Fuses) (type : Nat) (h : Option ImgHeader) : f.verifyStored type h ≠ 6 := by
  cases h with
  | none => exact (by decide : (8 : Nat) ≠ 6)
  | some h =>
    unfold Fuses.verifyStored Fuses.verify
    dsimp only
    repeat' split
    all_goals decide

theorem coldStart_of_loaderReason (d : Dev) (n : Nv) (failed : List (Fin 48)) (h : n.loaderReason ≠ 0) :
    d.coldStart n failed = ((d.withRecord n).enterLoader n.loaderReason,
      { n with store := { n.store with writeProt := false, loaderReq := false } }) := by
  have same : n.open_.loaderReason = n.loaderReason := rfl
  unfold Dev.coldStart
  extract_lets _ _ _ _ _ _
  split
  · exact absurd ‹_› h
  · rfl

/-- What a start does with the firmware verified and a configuration image there. -/
def Dev.bootImages (d : Dev) (n : Nv) (failed : List (Fin 48)) (fw : ImgHeader) (c : CfgImage) : Dev × Nv :=
  match d.configBad n c with
  | (0, _) => d.coldLoad n failed fw c
  | (r, k) => ((d.extend 1 fw.crypto.digest).rejectImage 2 r k, n)

/-- What a start does once nothing keeps it in the loader. -/
def Dev.boot (d : Dev) (n : Nv) (failed : List (Fin 48)) : Dev × Nv :=
  match n.fuses.verifyStored 1 n.store.firmware, n.store.firmware, n.store.config with
  | 0, some fw, some c => d.bootImages n failed fw c
  | 0, some fw, none => ((d.extend 1 fw.crypto.digest).rejectImage 2 8 0, n)
  | r, _, _ => (d.rejectImage 1 r 0, n)

theorem coldStart_eq_boot (d : Dev) (n : Nv) (failed : List (Fin 48)) (h : n.loaderReason = 0) :
    d.coldStart n failed = (d.withRecord n).boot n.open_ failed := by
  unfold Dev.coldStart
  extract_lets _ _ _ _ _ _
  split
  · rfl
  · exact absurd h ‹_›

theorem boot_firmwareBad (d : Dev) (n : Nv) (failed : List (Fin 48)) (h : n.fuses.verifyStored 1 n.store.firmware ≠ 0) :
    d.boot n failed = (d.rejectImage 1 (n.fuses.verifyStored 1 n.store.firmware) 0, n) := by
  unfold Dev.boot
  generalize n.fuses.verifyStored 1 n.store.firmware = r at h
  split
  · exact absurd rfl h
  · exact absurd rfl h
  · rfl

theorem boot_noConfig (d : Dev) (n : Nv) (failed : List (Fin 48)) {fw : ImgHeader}
    (hf : n.store.firmware = some fw) (hv : n.fuses.verify none 1 fw = 0) (hc : n.store.config = none) :
    d.boot n failed = ((d.extend 1 fw.crypto.digest).rejectImage 2 8 0, n) := by
  have v : n.fuses.verifyStored 1 (some fw) = 0 := hv
  rw [Dev.boot, hf, hc, v]
  rfl

theorem boot_configBad (d : Dev) (n : Nv) (failed : List (Fin 48)) {fw : ImgHeader} {c : CfgImage}
    (hf : n.store.firmware = some fw) (hv : n.fuses.verify none 1 fw = 0) (hc : n.store.config = some c)
    (bad : (d.configBad n c).1 ≠ 0) :
    d.boot n failed = ((d.extend 1 fw.crypto.digest).rejectImage 2 (d.configBad n c).1 (d.configBad n c).2, n) := by
  have v : n.fuses.verifyStored 1 (some fw) = 0 := hv
  rw [Dev.boot, hf, hc, v]
  show d.bootImages n failed fw c = _
  unfold Dev.bootImages
  generalize d.configBad n c = b at bad
  obtain ⟨r, k⟩ := b
  cases r with
  | zero => exact absurd rfl bad
  | succ r => rfl

theorem boot_loads (d : Dev) (n : Nv) (failed : List (Fin 48)) {fw : ImgHeader} {c : CfgImage}
    (hf : n.store.firmware = some fw) (hv : n.fuses.verify none 1 fw = 0) (hc : n.store.config = some c)
    (good : (d.configBad n c).1 = 0) : d.boot n failed = d.coldLoad n failed fw c := by
  have v : n.fuses.verifyStored 1 (some fw) = 0 := hv
  rw [Dev.boot, hf, hc, v]
  show d.bootImages n failed fw c = _
  unfold Dev.bootImages
  generalize d.configBad n c = b at good
  obtain ⟨r, k⟩ := b
  cases good
  rfl

theorem coldLoad_noModels (d : Dev) (n : Nv) (failed : List (Fin 48)) (fw : ImgHeader)
    {c : CfgImage} (h : c.models = []) :
    d.coldLoad n failed fw c =
      ((d.imagesLoaded n failed fw c).started n, ((d.imagesLoaded n failed fw c).testContent n).2) := by
  unfold Dev.coldLoad
  rw [h]
  rfl

theorem exec_coldStart {s : State} (failed : List (Fin 48)) (hp : s.dev.chip.phase = .modReset) :
    exec (.coldStart failed) s =
      .next { s with dev := (s.dev.coldStart s.nv failed).1, nv := (s.dev.coldStart s.nv failed).2 } := by
  have e : exec (.coldStart failed) s = execColdStart failed s := rfl
  rw [e, execColdStart, onNv, if_pos hp]

/-- The state in which a cold start ends that rejects an image with a detail (R428, R433). -/
def LoaderEntry (s : State) (det : List Nat) (t : State) : Prop :=
  t.dev.chip.phase = .loader ∧ t.dev.chip.lock = s.dev.chip.lock ∧ t.dev.chip.image = s.dev.chip.image ∧
  t.dev.chip.lastReason = det.getD 1 0 ∧ t.dev.sec.lastRej = det ∧ t.dev.mem = s.dev.mem ∧
  t.nv = s.nv.open_ ∧ t.pending = s.pending ∧
  Logged s.dev t.dev [regRec s.dev 5 0x9001 4 0x80 det,
    regRec s.dev 5 0x9005 4 0x80 [if det.getD 1 0 = 7 then 2 else 1]]

section
variable {s : State} {failed : List (Fin 48)} (hp : s.dev.chip.phase = .modReset)
include hp

theorem runs_rejected {e : Dev} {type reason sec : Nat}
    (he : s.dev.coldStart s.nv failed = (e.rejectImage type reason sec, s.nv.open_))
    (k : Kept [.blocks, .dram, .pwr, .links, .sec, .chip] s.dev e) (chip : e.chip = (s.dev.startAt s.nv).chip) :
    Runs (.coldStart failed) s (LoaderEntry s (s.dev.rejDetail type reason sec)) := by
  have free : e.free = s.dev.free := k.same .free (by decide)
  have time : e.time = s.dev.time := k.same .time (by decide)
  have log : e.log = s.dev.log := k.same .log (by decide)
  have mem : e.mem = s.dev.mem := k.same .mem (by decide)
  have det : e.rejDetail type reason sec = s.dev.rejDetail type reason sec := by rw [Dev.rejDetail, free, Dev.rejDetail]
  obtain ⟨tc, ts, tm, tl⟩ := rejectImage_effect e type reason sec
  rw [det] at ts tl
  rw [regRec, regRec, time, log] at tl
  refine ⟨_, exec_coldStart failed hp, ?_⟩
  rw [he]
  refine ⟨?_, ?_, ?_, ?_, ts, tm.trans mem, rfl, rfl, logged_of_puts tl⟩ <;> dsimp only <;> rw [tc]
  · rw [chip]; rfl
  · rw [chip]; rfl
  · rfl

theorem coldStart_loaderReason (h : s.nv.loaderReason ≠ 0) : Runs (.coldStart failed) s fun t =>
    t.dev.chip.phase = .loader ∧ t.dev.chip.image = s.dev.chip.image ∧ t.dev.mem = s.dev.mem ∧
    t.nv = { s.nv with store := { s.nv.store with writeProt := false, loaderReq := false } } ∧ t.pending = s.pending ∧
    Wrote s.dev t.dev (regRec s.dev 5 0x9005 4 0x80 [s.nv.loaderReason]) := by
  have k := kept_withRecord s.dev s.nv
  have chip := withRecord_chip s.dev s.nv
  refine ⟨_, exec_coldStart failed hp, ?_⟩
  rw [coldStart_of_loaderReason _ _ _ h]
  generalize s.dev.withRecord s.nv = e at k chip
  have ev : Kept [.chip, .log, .regs] e (e.enterLoader s.nv.loaderReason) :=
    Kept_trans (Kept_mono (kept_chip e _) (by decide))
      (Kept_mono (kept_event_low _ (cls := 5) (by decide) ..) (by decide))
  have ec : (e.enterLoader s.nv.loaderReason).chip = { e.chip with phase := .loader } :=
    event_low_chip _ (cls := 5) (by decide) ..
  have time : e.time = s.dev.time := k.same .time (by decide)
  have log : e.log = s.dev.log := k.same .log (by decide)
  refine ⟨by rw [ec], by rw [ec]; dsimp only; rw [chip]; rfl,
    (ev.same .mem (by decide)).trans (k.same .mem (by decide)), rfl, rfl, wrote_of_put ?_⟩
  refine (event_log ..).trans ?_
  dsimp only
  rw [log, time]
  rfl

theorem coldStart_firmwareBad (h : s.nv.loaderReason = 0) (bad : s.nv.fuses.verifyStored 1 s.nv.store.firmware ≠ 0) :
    Runs (.coldStart failed) s (LoaderEntry s [1, s.nv.fuses.verifyStored 1 s.nv.store.firmware, 0, 0]) := by
  have six : s.nv.open_.fuses.verifyStored 1 s.nv.open_.store.firmware ≠ 6 := verifyStored_ne_six _ _ _
  have e : _ = (_, s.nv.open_) :=
    (coldStart_eq_boot s.dev s.nv failed h).trans (boot_firmwareBad _ s.nv.open_ failed bad)
  have r := runs_rejected hp e (kept_withRecord ..) (withRecord_chip ..)
  rw [Dev.rejDetail, if_neg six] at r
  exact r

theorem coldStart_noConfig {fw : ImgHeader} (h : s.nv.loaderReason = 0) (hf : s.nv.store.firmware = some fw)
    (hv : s.nv.fuses.verify none 1 fw = 0) (hc : s.nv.store.config = none) :
    Runs (.coldStart failed) s (LoaderEntry s [2, 8, 0, 0]) :=
  runs_rejected hp ((coldStart_eq_boot s.dev s.nv failed h).trans (boot_noConfig _ s.nv.open_ failed hf hv hc))
    (Kept_trans (kept_withRecord ..) (Kept_mono (kept_extend ..) (by decide))) (withRecord_chip ..)

theorem coldStart_configBad {fw : ImgHeader} {c : CfgImage} (h : s.nv.loaderReason = 0)
    (hf : s.nv.store.firmware = some fw) (hv : s.nv.fuses.verify none 1 fw = 0) (hc : s.nv.store.config = some c)
    (bad : ((s.dev.withRecord s.nv).configBad s.nv.open_ c).1 ≠ 0) :
    Runs (.coldStart failed) s (LoaderEntry s (s.dev.rejDetail 2 ((s.dev.withRecord s.nv).configBad s.nv.open_ c).1
      ((s.dev.withRecord s.nv).configBad s.nv.open_ c).2)) :=
  runs_rejected hp ((coldStart_eq_boot s.dev s.nv failed h).trans (boot_configBad _ s.nv.open_ failed hf hv hc bad))
    (Kept_trans (kept_withRecord ..) (Kept_mono (kept_extend ..) (by decide))) (withRecord_chip ..)

theorem coldStart_loads {fw : ImgHeader} {c : CfgImage} (h : s.nv.loaderReason = 0)
    (hf : s.nv.store.firmware = some fw) (hv : s.nv.fuses.verify none 1 fw = 0) (hc : s.nv.store.config = some c)
    (good : ((s.dev.withRecord s.nv).configBad s.nv.open_ c).1 = 0) (none : c.models = []) :
    Runs (.coldStart failed) s fun t =>
      t.dev.chip.phase = .loading ∧ t.dev.chip.image = some c ∧ t.dev.chip.profile = c.header.profile ∧
      t.dev.chip.t0 = s.dev.time.now ∧ t.dev.chip.lock = s.dev.chip.lock ∧ t.dev.time.now = s.dev.time.now ∧
      t.nv.fuses = s.nv.fuses := by
  refine ⟨_, exec_coldStart failed hp, ?_⟩
  rw [coldStart_eq_boot _ _ _ h, boot_loads _ s.nv.open_ _ hf hv hc good, coldLoad_noModels _ _ _ _ none]
  have chip := withRecord_chip s.dev s.nv
  have time : _ = s.dev.time := (kept_withRecord s.dev s.nv).same .time (by decide)
  generalize s.dev.withRecord s.nv = e at chip time
  obtain ⟨lc, lt⟩ := imagesLoaded_effect e s.nv.open_ failed fw c
  have fuses := testContent_fuses (e.imagesLoaded s.nv.open_ failed fw c) s.nv.open_
  generalize e.imagesLoaded s.nv.open_ failed fw c = l at lc lt fuses
  obtain ⟨sc, st⟩ := started_effect l s.nv.open_
  dsimp only
  rw [sc, st, lt, time, lc, chip]
  exact ⟨rfl, rfl, rfl, rfl, rfl, rfl, fuses⟩

end

/-! ## MOD_RESET_N and the configuration lock -/

/-- What MOD_RESET_N leaves of an island that has its firmware's state (R29). -/
theorem modReset_isl (d : Dev) (i : Isl) : (d.modReset).isl i = (d.isl i).modReset := by
  cases i <;> rfl

theorem modResetAssert_effect (s : State) : Runs .modResetAssert s fun t =>
    (∀ o, t.dev.reg o = (regReset o).toNat) ∧ (∀ x, t.dev.rd x = 0) ∧ t.dev.time.now = 0 ∧
    t.dev.chip.phase = .modReset ∧ t.dev.chip.lock = false ∧ t.dev.chip.primaryEn = false ∧
    (∀ k, (t.dev.op k).used = false) ∧ t.dev.log.buf = [] ∧ t.dev.log.total = 0 ∧ t.dev.host.up = false ∧
    t.dev.links.up = [] ∧ t.dev.sec.memKeys = [] ∧ t.dev.sec.nonce = none ∧
    (∀ i, (t.dev.isl i).vote = false ∧ (t.dev.isl i).injected = false ∧ (t.dev.isl i).loaded = (s.dev.isl i).loaded ∧
      (t.dev.isl i).lifeTime = (s.dev.isl i).lifeTime ∧ (t.dev.isl i).cycles = (s.dev.isl i).cycles ∧
      (t.dev.isl i).cocoon = (s.dev.isl i).cocoon ∧ (t.dev.isl i).safeOut = (s.dev.isl i).safeOut ∧
      (t.dev.isl i).inhibit = (s.dev.isl i).inhibit ∧ (t.dev.isl i).req = (s.dev.isl i).req ∧
      ((s.dev.isl i).state ≠ .halted → (t.dev.isl i).state = (s.dev.isl i).state) ∧
      ((s.dev.isl i).state = .halted → (t.dev.isl i).state = .starting)) ∧
    t.dev.pwr.tripped = s.dev.pwr.tripped ∧ t.dev.out = s.dev.out ∧
    t.nv = { s.nv with store := s.nv.store.cut s.dev.time.now (Config.freeNat s.dev.free) } ∧
    t.pending = s.pending := by
  have e : exec .modResetAssert s = .next { s with
      dev := s.dev.fresh.2.modReset
      nv := { s.nv with store := s.nv.store.cut s.dev.time.now (Config.freeNat s.dev.free) } } := rfl
  refine ⟨_, e, fun _ => rfl, fun _ => rfl, rfl, rfl, rfl, rfl, fun _ => rfl, rfl, rfl, rfl, rfl, rfl, rfl, fun i => ?_,
    rfl, rfl, rfl, rfl⟩
  dsimp only
  rw [modReset_isl]
  have same : s.dev.fresh.2.isl i = s.dev.isl i := by cases i <;> rfl
  rw [same]
  exact ⟨rfl, rfl, rfl, rfl, rfl, rfl, rfl, rfl, rfl, fun h => if_neg h, fun h => if_pos h⟩

theorem le_advance (h : Option ImgHeader) (v : Nat) : v ≤ advance h v := by
  unfold advance
  split
  · split
    · exact Nat.le_max_left ..
    · exact Nat.le_refl _
  · exact Nat.le_refl _

theorem svn_le_advance {h : ImgHeader} (hf : h.flags = 1) (v : Nat) : h.svn ≤ advance (some h) v := by
  unfold advance
  dsimp only
  rw [if_pos hf]
  exact Nat.le_max_right ..

theorem configurationLockSet_effect (s : State) (hp : s.dev.chip.phase = .loading)
    (hs : s.dev.fld R.tkSyncStatus 0 3 ≠ 1) :
    Runs .configurationLockSet s fun t =>
      t.dev.chip.lock = true ∧ t.dev.chip.phase = .locked ∧ t.dev.chip.image = s.dev.chip.image ∧
      s.nv.fuses.svnFw ≤ t.nv.fuses.svnFw ∧ s.nv.fuses.svnCfg ≤ t.nv.fuses.svnCfg ∧
      (∀ h, s.nv.store.firmware = some h → h.flags = 1 → h.svn ≤ t.nv.fuses.svnFw) ∧
      { t.nv.fuses with svnFw := 0, svnCfg := 0 } = { s.nv.fuses with svnFw := 0, svnCfg := 0 } ∧
      t.nv.store = { s.nv.store with writeProt := true } ∧ Kept [.chip] s.dev t.dev ∧ t.pending = s.pending := by
  have e : exec .configurationLockSet s = execConfigurationLockSet s := rfl
  have idle : ¬ (s.dev.chip.phase ≠ .loading ∨ s.dev.fld R.tkSyncStatus 0 3 = 1) := fun h => h.elim (· hp) hs
  unfold execConfigurationLockSet onNv at e
  beta_reduce at e
  rw [if_neg idle] at e
  refine ⟨_, e, rfl, rfl, rfl, le_advance .., le_advance .., fun h hf flags => ?_, rfl, rfl, kept_chip .., rfl⟩
  dsimp only
  rw [hf]
  exact svn_le_advance flags _

/-! ## The vote of an island (R323) -/

/-- An island's causes once those that have passed are cleared, which a monitoring island does before it votes. -/
def Dev.causesSeen (d : Dev) (i : Isl) : Dev := if (d.isl i).state = .monitoring then d.clearCauses i else d

/-- The vote taken back: the primary enable falls, with event 0x8003. -/
def Dev.voteLost (d : Dev) (i : Isl) (c : Nat) : Dev :=
  ({ d with chip := { d.chip with primaryEn := false } }).evIsl i 5 0x8003 [islNum i, c]

theorem kept_clearCauses (d : Dev) (i : Isl) : Kept [.chA, .chB] d (d.clearCauses i) := by
  unfold Dev.clearCauses
  exact kept_modIsl ..

theorem kept_causesSeen (d : Dev) (i : Isl) : Kept [.chA, .chB] d (d.causesSeen i) := by
  unfold Dev.causesSeen
  split
  · exact kept_clearCauses ..
  · exact kept_refl ..

theorem kept_voteLost (d : Dev) (i : Isl) (c : Nat) : Kept [.chip, .log, .regs] d (d.voteLost i c) :=
  Kept_trans (Kept_mono (kept_chip d _) (by decide))
    (Kept_mono (kept_event_low _ (cls := 5) (by decide) ..) (by decide))

theorem regsBut_voteLost (d : Dev) (i : Isl) (c : Nat) : RegsBut [R.hpEvlogLost] d (d.voteLost i c) :=
  event_reg { d with chip := { d.chip with primaryEn := false } } 5 0x8003 (islRegion i) 0xFF [islNum i, c] _ _

theorem voteLost_chip (d : Dev) (i : Isl) (c : Nat) : (d.voteLost i c).chip = { d.chip with primaryEn := false } :=
  event_low_chip _ (cls := 5) (by decide) ..

theorem isl_of_kept {p : List DevField} {a b : Dev} (h : Kept p a b) (hA : .chA ∉ p) (hB : .chB ∉ p) (i : Isl) :
    b.isl i = a.isl i := by
  cases i with
  | a => exact h.same .chA hA
  | b => exact h.same .chB hB

/-- An island's vote as its causes give it. -/
def Dev.voted (d : Dev) (i : Isl) : Dev :=
  (d.causesSeen i).modIsl i fun s => { s with vote := (d.causesSeen i).voteBad i == 0 }

theorem revoteOne_eq (d : Dev) (i : Isl) : d.revoteOne i =
    if (d.isl i).vote = true ∧ (d.causesSeen i).voteBad i ≠ 0 then (d.voted i).voteLost i ((d.causesSeen i).voteBad i)
    else d.voted i := rfl

theorem causesSeen_isl (d : Dev) (i : Isl) :
    (d.causesSeen i).isl i = { d.isl i with active := ((d.causesSeen i).isl i).active } := by
  unfold Dev.causesSeen
  split
  · rw [Dev.clearCauses, isl_modIsl_self]
  · rfl

theorem causesSeen_isl_ne (d : Dev) {i j : Isl} (h : j ≠ i) : (d.causesSeen i).isl j = d.isl j := by
  unfold Dev.causesSeen
  split
  · exact isl_modIsl_ne _ _ h
  · rfl

theorem voted_isl (d : Dev) (i : Isl) : (d.voted i).isl i =
    { d.isl i with active := ((d.causesSeen i).isl i).active, vote := (d.causesSeen i).voteBad i == 0 } := by
  rw [Dev.voted, isl_modIsl_self, causesSeen_isl]

theorem voted_isl_ne (d : Dev) {i j : Isl} (h : j ≠ i) : (d.voted i).isl j = d.isl j :=
  (isl_modIsl_ne _ _ h).trans (causesSeen_isl_ne d h)

theorem kept_voted (d : Dev) (i : Isl) : Kept [.chA, .chB] d (d.voted i) :=
  Kept_trans (kept_causesSeen ..) (kept_modIsl ..)

theorem revoteOne_isl_voted (d : Dev) (i j : Isl) : (d.revoteOne i).isl j = (d.voted i).isl j := by
  rw [revoteOne_eq]
  split
  · exact isl_of_kept (kept_voteLost ..) (by decide) (by decide) j
  · rfl

theorem revoteOne_isl (d : Dev) (i : Isl) : (d.revoteOne i).isl i =
    { d.isl i with active := ((d.causesSeen i).isl i).active, vote := (d.causesSeen i).voteBad i == 0 } :=
  (revoteOne_isl_voted d i i).trans (voted_isl d i)

theorem revoteOne_isl_ne (d : Dev) {i j : Isl} (h : j ≠ i) : (d.revoteOne i).isl j = d.isl j :=
  (revoteOne_isl_voted d i j).trans (voted_isl_ne d h)

theorem kept_revoteOne (d : Dev) (i : Isl) : Kept [.chA, .chB, .chip, .log, .regs] d (d.revoteOne i) := by
  rw [revoteOne_eq]
  split
  · exact Kept_trans (Kept_mono (kept_voted ..) (by decide)) (Kept_mono (kept_voteLost ..) (by decide))
  · exact Kept_mono (kept_voted ..) (by decide)

/-- An island without a vote loses none. -/
theorem kept_revoteOne_noVote (d : Dev) (i : Isl) (h : (d.isl i).vote = false) :
    Kept [.chA, .chB] d (d.revoteOne i) := by
  rw [revoteOne_eq, if_neg fun hv => absurd (h.symm.trans hv.1) (by decide)]
  exact kept_voted ..

theorem regsBut_revoteOne (d : Dev) (i : Isl) : RegsBut [R.hpEvlogLost] d (d.revoteOne i) := by
  have same : (d.voted i).regs = d.regs := (kept_voted d i).same .regs (by decide)
  rw [revoteOne_eq]
  split
  · exact RegsBut_trans (regsBut_of_regs _ same) (regsBut_voteLost _ i _)
  · exact regsBut_of_regs _ same

theorem revoteOne_chip (d : Dev) (i : Isl) :
    (d.revoteOne i).chip = { d.chip with primaryEn := (d.revoteOne i).chip.primaryEn } := by
  have same : (d.voted i).chip = d.chip := (kept_voted d i).same .chip (by decide)
  rw [revoteOne_eq]
  split
  · rw [voteLost_chip, same]
  · rw [same]

theorem voteBad_causesSeen (d : Dev) (i : Isl) : (d.causesSeen i).voteBad i = 0 ↔ (d.clearCauses i).voteBad i = 0 := by
  unfold Dev.causesSeen
  split
  · rfl
  · rename_i h
    have away (e : Dev) (he : (e.isl i).state = (d.isl i).state) : e.voteBad i ≠ 0 := by
      rw [Dev.voteBad, if_pos (he ▸ h)]
      decide
    exact iff_of_false (away _ rfl) (away _ (by rw [Dev.clearCauses, isl_modIsl_self]))

/-- Two devices that agree on what an island's vote rests on. -/
def SameVote (i : Isl) (a b : Dev) : Prop :=
  b.isl i = a.isl i ∧ b.chip.lock = a.chip.lock ∧ b.chip.sched = a.chip.sched ∧ b.pwr = a.pwr

theorem clearCauses_voteBad_congr {i : Isl} {a b : Dev} (h : SameVote i a b) :
    (b.clearCauses i).voteBad i = (a.clearCauses i).voteBad i := by
  obtain ⟨isl, lock, sched, pwr⟩ := h
  have act : (b.clearCauses i).isl i = (a.clearCauses i).isl i := by
    rw [Dev.clearCauses, Dev.clearCauses, isl_modIsl_self, isl_modIsl_self, isl]
    congr 2
    funext c
    rw [Dev.stillActive, Dev.stillActive, isl, pwr]
  have chip (d : Dev) : (d.clearCauses i).chip = d.chip := (kept_clearCauses d i).same .chip (by decide)
  rw [Dev.voteBad, Dev.voteBad, act, chip, chip, lock, sched]

theorem revoteOne_vote {i : Isl} {a b : Dev} (h : SameVote i a b) :
    ((b.revoteOne i).isl i).vote = decide ((a.clearCauses i).voteBad i = 0) := by
  rw [revoteOne_isl, ← clearCauses_voteBad_congr h]
  exact decide_eq_decide.2 (voteBad_causesSeen b i)

/-! ## An island's state lost (R418) -/

theorem islPeer_ne (i : Isl) : islPeer i ≠ i := by cases i <;> decide

/-- What an island that has lost its state shows, its entries and CRC count kept. -/
def Gone (x y : Island) : Prop :=
  y.state = .reset ∧ y.loaded = false ∧ y.vote = false ∧ y.safeOut = true ∧ y.entries = x.entries ∧ y.crcErr = x.crcErr

theorem gone_revoteOne {d : Dev} {i : Isl} {x : Island} (h : Gone x (d.isl i)) : Gone x ((d.revoteOne i).isl i) := by
  obtain ⟨state, loaded, -, safe, entries, crc⟩ := h
  have vote : (d.causesSeen i).voteBad i ≠ 0 := by
    rw [Dev.voteBad, causesSeen_isl, if_pos (by dsimp only; rw [state]; decide)]
    decide
  rw [revoteOne_isl]
  exact ⟨state, loaded, beq_false_of_ne vote, safe, entries, crc⟩

/-- A vote leaves every island's state and rail as they were. -/
theorem revoteOne_state (d : Dev) (i j : Isl) : ((d.revoteOne i).isl j).state = (d.isl j).state ∧
    ((d.revoteOne i).isl j).railLow = (d.isl j).railLow := by
  by_cases h : j = i
  · subst h
    rw [revoteOne_isl]
    exact ⟨rfl, rfl⟩
  · rw [revoteOne_isl_ne d h]
    exact ⟨rfl, rfl⟩

theorem revote_state (d : Dev) (j : Isl) : (d.revote.isl j).state = (d.isl j).state ∧
    (d.revote.isl j).railLow = (d.isl j).railLow :=
  ⟨(revoteOne_state _ .b j).1.trans (revoteOne_state d .a j).1,
    (revoteOne_state _ .b j).2.trans (revoteOne_state d .a j).2⟩

theorem gone_revote {d : Dev} {i : Isl} {x : Island} (h : Gone x (d.isl i)) : Gone x (d.revote.isl i) := by
  unfold Dev.revote
  cases i with
  | a =>
    rw [revoteOne_isl_ne _ (by decide)]
    exact gone_revoteOne h
  | b =>
    refine gone_revoteOne ?_
    rw [revoteOne_isl_ne _ (by decide)]
    exact h

theorem sameVote_revoteOne {d e : Dev} {i j : Isl} (h : SameVote j d e) (hij : j ≠ i) :
    SameVote j d (e.revoteOne i) := by
  obtain ⟨isl, lock, sched, pwr⟩ := h
  have kept : (e.revoteOne i).pwr = e.pwr := (kept_revoteOne e i).same .pwr (by decide)
  exact ⟨(revoteOne_isl_ne e hij).trans isl, by rw [revoteOne_chip, ← lock],
    by rw [revoteOne_chip, ← sched], kept.trans pwr⟩

theorem revote_vote {d e : Dev} {j : Isl} (h : SameVote j d e) :
    (e.revote.isl j).vote = decide ((d.clearCauses j).voteBad j = 0) := by
  unfold Dev.revote
  cases j with
  | a =>
    rw [revoteOne_isl_ne _ (by decide)]
    exact revoteOne_vote h
  | b => exact revoteOne_vote (sameVote_revoteOne h (by decide))

/-- The device after one island went down and both have voted. -/
def Dev.islandLost (d : Dev) (i : Isl) (rail : Bool) : Dev := (d.modIsl i fun s => s.down rail).revote

theorem islandLost_effect (d : Dev) (i : Isl) (rail : Bool) :
    Gone (d.isl i) ((d.islandLost i rail).isl i) ∧ ((d.islandLost i rail).isl i).railLow = (rail || (d.isl i).railLow) ∧
    ((d.islandLost i rail).isl (islPeer i)).state = (d.isl (islPeer i)).state ∧
    ((d.islandLost i rail).isl (islPeer i)).vote = decide ((d.clearCauses (islPeer i)).voteBad (islPeer i) = 0) ∧
    RegsBut [R.hpEvlogLost] d (d.islandLost i rail) ∧
      Kept [.chA, .chB, .chip, .log, .regs] d (d.islandLost i rail) := by
  unfold Dev.islandLost
  have km : Kept [.chA, .chB] d (d.modIsl i fun s => s.down rail) := kept_modIsl ..
  have mine := isl_modIsl_self d i fun s => s.down rail
  have other := isl_modIsl_ne d (fun s => s.down rail) (islPeer_ne i)
  generalize d.modIsl i (fun s => s.down rail) = e at km mine other
  have gone : Gone (d.isl i) (e.isl i) := by rw [mine]; exact ⟨rfl, rfl, rfl, rfl, rfl, rfl⟩
  have low : (e.isl i).railLow = (rail || (d.isl i).railLow) := by rw [mine]; rfl
  have chip : e.chip = d.chip := km.same .chip (by decide)
  have pwr : e.pwr = d.pwr := km.same .pwr (by decide)
  refine ⟨gone_revote gone, (revote_state e i).2.trans low, (revote_state e _).1.trans (by rw [other]),
    revote_vote ⟨other, by rw [chip], by rw [chip], pwr⟩, ?_, ?_⟩
  · exact RegsBut_trans (regsBut_of_regs _ (km.same .regs (by decide)))
      (RegsBut_trans (regsBut_revoteOne e .a) (regsBut_revoteOne _ .b))
  · exact Kept_trans (Kept_mono km (by decide)) (Kept_trans (kept_revoteOne e .a) (kept_revoteOne _ .b))

/-! ## An island's firmware comes back -/

/-- The island as its firmware, loaded, takes up its state (R418, R424). -/
def Dev.firmwareState (d : Dev) (i : Isl) (n : Nv) : Dev :=
  d.modIsl i fun s => { (s.restore (n.store.life i)) with
    loaded := true, railLow := false, state := d.chip.islState
    inhibit := d.chip.safeActive || d.chip.islState == .halted, lifeRep := d.chip.hours / 1000 * 1000
    pkg := (n.store.testPkg.map (·.2)).getD 0, ownW := d.wb }

/-- The island as its firmware is read: where it verifies, it comes back, and joins a running device whose injection
has run with cause 12. -/
def Dev.firmwareIn (d : Dev) (i : Isl) (n : Nv) : Dev :=
  if n.fuses.verifyStored 1 n.store.firmware ≠ 0 then
    d.modIsl i fun s => { s with state := .starting, railLow := false }
  else if d.chip.islState = .monitoring ∧ (d.firmwareState i n).chip.injected = true then
    (d.firmwareState i n).islReq i 12
  else d.firmwareState i n

theorem exec_islandFirmwareLoad {s : State} {i : Isl} {P : State → Prop} (hl : (s.dev.isl i).loaded = false)
    (hp : s.dev.chip.phase ≠ .modReset) (hf : s.nv.store.firmware.isSome = true)
    (h : P { s with dev := s.dev.firmwareIn i s.nv }) : Runs (.islandFirmwareLoad i) s P := by
  have e : exec (.islandFirmwareLoad i) s = execIslandFirmwareLoad i s := rfl
  unfold execIslandFirmwareLoad at e
  refine runs_onDevIf e (by simp [hl, hp, hf]) h

theorem firmwareState_isl (d : Dev) (i : Isl) (n : Nv) :
    ((d.firmwareState i n).isl i).loaded = true ∧ ((d.firmwareState i n).isl i).state = d.chip.islState ∧
    ((d.firmwareState i n).isl i).railLow = false ∧ ((d.firmwareState i n).isl i).ownW = d.wb ∧
    ((d.firmwareState i n).isl i).vote = (d.isl i).vote ∧
    ((d.firmwareState i n).isl i).lifeTime = (n.store.life i).time := by
  rw [Dev.firmwareState, isl_modIsl_self]
  exact ⟨rfl, rfl, rfl, rfl, rfl, rfl⟩

theorem kept_firmwareState (d : Dev) (i : Isl) (n : Nv) : Kept [.chA, .chB] d (d.firmwareState i n) := by
  unfold Dev.firmwareState
  exact kept_modIsl ..

theorem firmwareState_isl_ne (d : Dev) {i j : Isl} (n : Nv) (h : j ≠ i) : (d.firmwareState i n).isl j = d.isl j :=
  isl_modIsl_ne d _ h

theorem islState_monitoring (c : Chip) : c.islState = .monitoring ↔ c.phase = .running := by
  unfold Chip.islState
  cases c.phase <;> decide

/-- The island asks for the safe state with cause 12. -/
def Dev.joining (d : Dev) (i : Isl) : Dev := (d.askSafe i 12).modIsl i fun s => s.activate 12

theorem mem_activate (s : Island) (c : Nat) : c ∈ (s.activate c).active := by
  unfold Island.activate
  split
  · assumption
  · exact List.mem_append_right _ List.mem_cons_self

theorem activate_eq (s : Island) (c : Nat) : s.activate c = { s with active := (s.activate c).active } := by
  unfold Island.activate
  split <;> rfl

theorem askSafe_req {d : Dev} {i : Isl} (c : Nat) (hl : (d.isl i).loaded = true) (hs : (d.isl i).state ≠ .halted) :
    ∃ r, c ∈ r ∧ (d.askSafe i c).isl i = { d.isl i with req := r } := by
  rw [Dev.askSafe, isl_modIsl_self]
  by_cases hr : c ∈ (d.isl i).req
  · exact ⟨_, hr, by rw [if_pos (.inr (.inr hr))]⟩
  · refine ⟨(d.isl i).req ++ [c], List.mem_append_right _ List.mem_cons_self, ?_⟩
    rw [if_neg (by simp [hl, hs, hr])]

theorem joining_isl {d : Dev} {i : Isl} (hl : (d.isl i).loaded = true) (hs : (d.isl i).state ≠ .halted) :
    ∃ r a, 12 ∈ r ∧ 12 ∈ a ∧ (d.joining i).isl i = { d.isl i with req := r, active := a } := by
  obtain ⟨r, hr, e⟩ := askSafe_req 12 hl hs
  refine ⟨r, _, hr, mem_activate { d.isl i with req := r } 12, ?_⟩
  rw [Dev.joining, isl_modIsl_self, e]
  exact activate_eq ..

theorem kept_joining (d : Dev) (i : Isl) : Kept [.chA, .chB] d (d.joining i) :=
  Kept_trans (kept_askSafe ..) (kept_modIsl ..)

theorem joining_isl_ne (d : Dev) {i j : Isl} (h : j ≠ i) : (d.joining i).isl j = d.isl j :=
  (isl_modIsl_ne _ _ h).trans (isl_modIsl_ne _ _ h)

/-- A cause the island itself has asked for stays active. -/
theorem mem_causesSeen {d : Dev} {i : Isl} {c : Nat} (hr : c ∈ (d.isl i).req) (ha : c ∈ (d.isl i).active) :
    c ∈ ((d.causesSeen i).isl i).active := by
  unfold Dev.causesSeen
  split
  · rw [Dev.clearCauses, isl_modIsl_self]
    exact List.mem_filter.2 ⟨ha, by simp [Dev.stillActive, hr]⟩
  · exact ha

theorem voteBad_of_active {d : Dev} {i : Isl} {c : Nat} (h : c ∈ (d.isl i).active) : d.voteBad i ≠ 0 := by
  have some_ : (d.isl i).active ≠ [] := List.ne_nil_of_mem h
  unfold Dev.voteBad
  dsimp only
  rw [if_pos some_]
  repeat' split
  all_goals decide

theorem islReq_joining {d : Dev} {i : Isl} (hl : (d.isl i).loaded = true) (hs : (d.isl i).state ≠ .halted) :
    d.islReq i 12 = (d.joining i).revoteOne i :=
  if_neg (by simp [hl, hs])

/-- The island that joins a running device: its request stands, and it casts no vote. -/
theorem islReq_effect {d : Dev} {i : Isl} (hl : (d.isl i).loaded = true) (hs : (d.isl i).state ≠ .halted) :
    ∃ r a, 12 ∈ r ∧ 12 ∈ a ∧ (d.islReq i 12).isl i = { d.isl i with req := r, active := a, vote := false } := by
  rw [islReq_joining hl hs, revoteOne_isl]
  obtain ⟨r, a, hr, ha, e⟩ := joining_isl hl hs
  have seen : 12 ∈ (((d.joining i).causesSeen i).isl i).active :=
    mem_causesSeen (by rw [e]; exact hr) (by rw [e]; exact ha)
  refine ⟨r, _, hr, seen, ?_⟩
  rw [beq_false_of_ne (voteBad_of_active seen), e]

theorem islReq_isl_ne (d : Dev) {i j : Isl} (h : j ≠ i) : (d.islReq i 12).isl j = d.isl j := by
  unfold Dev.islReq
  split
  · rfl
  · exact (revoteOne_isl_ne _ h).trans (joining_isl_ne d h)

theorem kept_islReq (d : Dev) (i : Isl) : Kept [.chA, .chB, .chip, .log, .regs] d (d.islReq i 12) := by
  unfold Dev.islReq
  split
  · exact kept_refl ..
  · exact Kept_trans (Kept_mono (kept_joining d i) (by decide)) (kept_revoteOne ..)

theorem kept_islReq_noVote {d : Dev} {i : Isl} (h : (d.isl i).vote = false) (hl : (d.isl i).loaded = true)
    (hs : (d.isl i).state ≠ .halted) : Kept [.chA, .chB] d (d.islReq i 12) := by
  rw [islReq_joining hl hs]
  obtain ⟨r, a, -, -, e⟩ := joining_isl hl hs
  exact Kept_trans (kept_joining d i) (kept_revoteOne_noVote _ _ (by rw [e]; exact h))

theorem firmwareIn_bad {s : State} {i : Isl} (bad : s.nv.fuses.verifyStored 1 s.nv.store.firmware ≠ 0) :
    let t := s.dev.firmwareIn i s.nv
    t.isl i = { s.dev.isl i with state := .starting, railLow := false } ∧
    t.isl (islPeer i) = s.dev.isl (islPeer i) ∧ Kept [.chA, .chB] s.dev t := by
  rw [Dev.firmwareIn, if_pos bad]
  exact ⟨isl_modIsl_self .., isl_modIsl_ne _ _ (islPeer_ne i), kept_modIsl ..⟩

theorem firmwareIn_early {d : Dev} {i : Isl} {n : Nv} (good : n.fuses.verifyStored 1 n.store.firmware = 0)
    (h : ¬ (d.chip.phase = .running ∧ d.chip.injected = true)) : d.firmwareIn i n = d.firmwareState i n := by
  have chip : (d.firmwareState i n).chip = d.chip := (kept_firmwareState d i n).same .chip (by decide)
  rw [Dev.firmwareIn, if_neg (not_not.2 good), chip]
  exact if_neg fun on => h ⟨(islState_monitoring _).1 on.1, on.2⟩

theorem firmwareIn_late {d : Dev} {i : Isl} {n : Nv} (good : n.fuses.verifyStored 1 n.store.firmware = 0)
    (h : d.chip.phase = .running ∧ d.chip.injected = true) : d.firmwareIn i n = (d.firmwareState i n).islReq i 12 := by
  have chip : (d.firmwareState i n).chip = d.chip := (kept_firmwareState d i n).same .chip (by decide)
  rw [Dev.firmwareIn, if_neg (not_not.2 good), chip]
  exact if_pos ⟨(islState_monitoring _).2 h.1, h.2⟩

theorem firmwareIn_good (d : Dev) (i : Isl) (n : Nv) (good : n.fuses.verifyStored 1 n.store.firmware = 0) :
    let t := d.firmwareIn i n
    let late := d.chip.phase = .running ∧ d.chip.injected = true
    (t.isl i).loaded = true ∧ (t.isl i).state = d.chip.islState ∧ (t.isl i).railLow = false ∧
    (t.isl i).ownW = d.wb ∧ (t.isl i).vote = (if late then false else (d.isl i).vote) ∧
    (t.isl i).lifeTime = (n.store.life i).time ∧
    (late → 12 ∈ (t.isl i).req ∧ 12 ∈ (t.isl i).active) ∧
    t.isl (islPeer i) = d.isl (islPeer i) ∧ Kept [.chA, .chB, .chip, .log, .regs] d t ∧
    (¬ late ∨ (d.isl i).vote = false → Kept [.chA, .chB] d t) := by
  obtain ⟨loaded, state, low, own, vote, life⟩ := firmwareState_isl d i n
  have kept := kept_firmwareState d i n
  have other := firmwareState_isl_ne d n (islPeer_ne i)
  dsimp only
  by_cases late : d.chip.phase = .running ∧ d.chip.injected = true
  · have on : ((d.firmwareState i n).isl i).state ≠ .halted := by
      rw [state, (islState_monitoring _).2 late.1]
      decide
    rw [firmwareIn_late good late, if_pos late]
    obtain ⟨r, a, hr, ha, e⟩ := islReq_effect loaded on
    rw [e]
    refine ⟨loaded, state, low, own, rfl, life, fun _ => ⟨hr, ha⟩, (islReq_isl_ne _ (islPeer_ne i)).trans other,
      Kept_trans (Kept_mono kept (by decide)) (kept_islReq ..), ?_⟩
    rintro (h | h)
    · exact absurd late h
    · exact Kept_trans kept (kept_islReq_noVote (vote.trans h) loaded on)
  · rw [firmwareIn_early good late, if_neg late]
    exact ⟨loaded, state, low, own, vote, life, fun h => absurd h late, other,
      Kept_mono kept (by decide), fun _ => kept⟩

/-- Settles O44, clause by clause: each command's device is a composition of steps whose parts kept are known. -/
theorem theModuleStarts : Obligations.TheModuleStarts := by
  unfold Obligations.TheModuleStarts
  refine ⟨modResetAssert_effect, fun failed s hp => ⟨coldStart_loaderReason hp, coldStart_firmwareBad hp,
    fun fw h hf hv hc => coldStart_noConfig hp h hf hv hc, fun fw c h hf hv hc =>
      ⟨coldStart_configBad hp h hf hv hc, coldStart_loads hp h hf hv hc⟩⟩, configurationLockSet_effect, fun i s => ?_⟩
  have lost (rail : Bool) := islandLost_effect s.dev i rail
  refine ⟨?_, ?_, fun hl hp hf => ⟨fun bad => ?_, fun good => ?_⟩⟩
  · obtain ⟨⟨state, loaded, vote, safe, entries, crc⟩, low, pst, pvote, regs, kept⟩ := lost false
    exact ⟨_, rfl, low, state, loaded, vote, safe, entries, crc, pst, pvote, regs, kept, rfl, rfl⟩
  · obtain ⟨⟨state, loaded, vote, safe, entries, crc⟩, low, pst, pvote, regs, kept⟩ := lost true
    exact ⟨_, rfl, low, state, loaded, vote, safe, entries, crc, pst, pvote, regs, kept, rfl, rfl⟩
  · obtain ⟨mine, other, kept⟩ := firmwareIn_bad (i := i) bad
    exact exec_islandFirmwareLoad hl hp hf ⟨mine, other, kept, rfl, rfl⟩
  · obtain ⟨loaded, state, low, own, vote, life, asked, other, kept, few⟩ := firmwareIn_good s.dev i s.nv good
    exact exec_islandFirmwareLoad hl hp hf ⟨loaded, state, low, own, vote, life, asked, other, ⟨kept, rfl, rfl⟩,
      fun h => ⟨few h, rfl, rfl⟩⟩

end Sys2Proof.Machine

namespace Sys2Proof.Machine

/-! ## A register table that lists an offset twice -/

theorem regsBut_revote (d : Dev) : RegsBut [R.hpEvlogLost] d d.revote :=
  RegsBut_trans (regsBut_revoteOne d .a) (regsBut_revoteOne _ .b)

/-- A device in the safe state, its commit a wingbeat ago, whose register table is not in canonical form: it lists
PWR_LIMIT twice, first at its reset value, then at another one. The register reads as its reset value. -/
def twiceListed : Dev :=
  { chip := { phase := .safe, safeActive := true }, time := { now := wingbeatNs }
    regs := [(R.pwrLimit, regReset R.pwrLimit), (R.pwrLimit, regReset R.pwrLimit + 1)] }

theorem twiceListed_reg : twiceListed.reg R.pwrLimit = (regReset R.pwrLimit).toNat := rfl

/-- The reset drops the entry that holds the reset value, and the register reads as the entry behind it. -/
theorem regsAcross_twiceListed : regsAcross twiceListed.regs = [(R.pwrLimit, regReset R.pwrLimit + 1)] := by decide

theorem holdover_twiceListed : twiceListed.lowerFirst.holdover = twiceListed := by
  have first : twiceListed.lowerFirst = twiceListed := rfl
  have sync : twiceListed.fld R.tkSyncStatus 0 3 = 0 := by decide
  rw [first, Dev.holdover]
  rw [sync, if_neg (by decide)]

theorem assertReset_twiceListed : twiceListed.assertReset.reg R.pwrLimit = (regReset R.pwrLimit + 1).toNat := by
  have regs : twiceListed.computeReset.regs = [(R.pwrLimit, regReset R.pwrLimit + 1)] := by
    rw [← regsAcross_twiceListed, ← holdover_twiceListed]
    rfl
  have own : twiceListed.assertReset = twiceListed.computeReset.revote := rfl
  rw [own, regsBut_revote _ _ (by decide), Dev.reg, regs]
  rfl

/-- The machine with that device, nothing in what survives power. -/
def stTwice : State := { dev := twiceListed, nv := {}, pending := [] }

theorem exec_computeResetAssert_twice :
    exec .computeResetAssert stTwice = .next { stTwice with dev := twiceListed.assertReset } := by
  have e : exec .computeResetAssert stTwice = execComputeResetAssert stTwice := rfl
  unfold execComputeResetAssert at e
  exact e.trans (onDevIf_met _ (by decide))

/-- Refutes O33: in a state whose register table lists PWR_LIMIT twice, COMPUTE_RESET_ASSERT changes the register,
which the floor holds, since the reset removes the entry that reads as the reset value and uncovers the other one. The
statement is about every state, and nothing in it asks for a table in canonical form. -/
theorem not_computeDomainIsReset : ¬ Obligations.ComputeDomainIsReset := by
  unfold Obligations.ComputeDomainIsReset
  rintro ⟨asserted, -⟩
  obtain ⟨t, run, ⟨_, _, _, _, _, _, _, _, _, _, _, _, _, _, _, _, _, _, _, held, _⟩, _⟩ :=
    asserted stTwice rfl rfl (by decide) rfl rfl (by decide)
  cases exec_computeResetAssert_twice.symm.trans run
  have kept := held R.pwrLimit (by decide) (by decide) (by decide) (by decide)
  have changed : (regReset R.pwrLimit + 1).toNat = (regReset R.pwrLimit).toNat :=
    assertReset_twiceListed.symm.trans (kept.trans twiceListed_reg)
  exact absurd changed (by decide)

end Sys2Proof.Machine

namespace Sys2Proof.Machine

/-! ## What a list of operations holds after a write -/

theorem mem_tins {α : Type} {k : Nat} {v : α} {t : Table α} {x : Nat × α} (h : x ∈ tins k v t) :
    x = (k, v) ∨ x ∈ t := by
  induction t with
  | nil => exact .inl (List.mem_singleton.1 h)
  | cons e t ih =>
    obtain ⟨j, w⟩ := e
    unfold tins at h
    split at h
    · rcases List.mem_cons.1 h with rfl | h
      · exact .inr List.mem_cons_self
      · exact (ih h).imp_right (List.mem_cons_of_mem _)
    · exact List.mem_cons.1 h

/-- An entry of a table that has been written is the one written, or one of another key that stood there. -/
theorem mem_tset {α : Type} [DecidableEq α] {d : Nat → α} {t : Table α} {k : Nat} {v : α} {x : Nat × α}
    (h : x ∈ tset d t k v) : x = (k, v) ∨ (x ∈ t ∧ x.1 ≠ k) := by
  have del {x} (h : x ∈ tdel k t) : x ∈ t ∧ x.1 ≠ k := by
    obtain ⟨hm, hk⟩ := List.mem_filter.1 h
    exact ⟨hm, by simpa using hk⟩
  unfold tset at h
  split at h
  · exact .inr (del h)
  · exact (mem_tins h).imp_right del

theorem mem_of_tget {α : Type} {d : Nat → α} {t : Table α} {k : Nat} (h : tget d t k ≠ d k) : (k, tget d t k) ∈ t := by
  induction t with
  | nil => exact absurd rfl h
  | cons e t ih =>
    obtain ⟨j, w⟩ := e
    unfold tget at h ⊢
    split
    · rename_i hj
      exact hj ▸ List.mem_cons_self
    · rename_i hj
      rw [if_neg hj] at h
      exact List.mem_cons_of_mem _ (ih h)

theorem mem_setOp {d : Dev} {k n : Nat} {v x : Op} (h : (n, x) ∈ (d.setOp k v).ops) :
    (n, x) = (k, v) ∨ ((n, x) ∈ d.ops ∧ n ≠ k) := mem_tset (d := fun _ => ({} : Op)) h

/-- An operation of a block that has not ended. -/
def Op.Live (b : Nat) (o : Op) : Prop := o.used = true ∧ o.status = none ∧ o.block = some b

theorem mem_ops_of_live {d : Dev} {b k : Nat} (h : (d.op k).Live b) : (k, d.op k) ∈ d.ops :=
  mem_of_tget fun e => by
    have used := h.1
    rw [Dev.op, e] at used
    exact absurd used (by decide)

/-! ## A block that is leaving service -/

/-- What the end of a retired block's work keeps of a block: out of service, no beat held, no posted write and no
thread but those of before or due ones, and on its engine what stood there, at its stage or pending. -/
structure Tame (p p' : Block) : Prop where
  svc : p'.svc = p.svc
  work : p.takesWork = false → p'.takesWork = false
  chk : p'.chkFault = p.chkFault
  beats : p.beats = [] → p'.beats = []
  eng : ∀ e' ∈ p'.eng, ∃ e ∈ p.eng, e'.dead = e.dead ∧ e'.arb = e.arb ∧ (e'.stage = e.stage ∨ e'.stage = .pending) ∧
    ∀ z : EngOp, z.same e' = z.same e
  posted : p.posted = [] → p'.posted = []

/-- Block `b` leaves service: it is retired and takes no work, it holds no beat, and the operations of its engine are
neither dead nor wait for a beat of another block. Its operations that have not ended are those of `l`, but for static
ones; once it is empty (`q`), they are those of `m` too, and no thread is left on it but due ones. -/
structure Leaving (b : Nat) (r : EventRecord) (q : Prop) (l m : Nat → Prop) (d : Dev) : Prop where
  svc : (d.blk b).svc = .retired
  work : (d.blk b).takesWork = false
  chk : (d.blk b).chkFault = false
  beats : (d.blk b).beats = []
  eng : ∀ e ∈ (d.blk b).eng, e.dead = false ∧ ∀ a, e.stage = .third → e.arb = some a → (d.blk a).beats = []
  retire : ∀ x ∈ d.retire, x.1 ≠ b
  log : r ∈ d.log.buf
  ops : ∀ k, (d.op k).Live b → l k ∨ ∀ o, (k, o) ∈ d.ops → o.static = true
  fewer : q → ∀ k, (d.op k).Live b → m k
  empty : q → (d.blk b).eng = [] ∧ (d.blk b).posted = [] ∧ ∀ h ∈ (d.blk b).threads, h.2.due = true

/-- What of a block `Tame` speaks of. -/
def Block.tameView (p : Block) := (p.svc, p.takesWork, p.chkFault, p.beats, p.eng, p.posted)

theorem tame_of_view {p p' : Block} (h : p'.tameView = p.tameView) : Tame p p' := by
  have svc : p'.svc = p.svc := congrArg (·.1) h
  have work : p'.takesWork = p.takesWork := congrArg (·.2.1) h
  have chk : p'.chkFault = p.chkFault := congrArg (·.2.2.1) h
  have beats : p'.beats = p.beats := congrArg (·.2.2.2.1) h
  have eng : p'.eng = p.eng := congrArg (·.2.2.2.2.1) h
  have posted : p'.posted = p.posted := congrArg (·.2.2.2.2.2) h
  exact ⟨svc, work ▸ id, chk, beats ▸ id, fun e he => ⟨e, eng ▸ he, rfl, rfl, .inl rfl, fun _ => rfl⟩, posted ▸ id⟩

theorem Tame_trans {p p' p'' : Block} (h : Tame p p') (g : Tame p' p'') : Tame p p'' where
  svc := g.svc.trans h.svc
  work := g.work ∘ h.work
  chk := g.chk.trans h.chk
  beats := g.beats ∘ h.beats
  posted := g.posted ∘ h.posted
  eng e'' he'' := by
    obtain ⟨e', he', dead', arb', stage', same'⟩ := g.eng e'' he''
    obtain ⟨e, he, dead, arb, stage, same⟩ := h.eng e' he'
    refine ⟨e, he, dead'.trans dead, arb'.trans arb, ?_, fun z => (same' z).trans (same z)⟩
    rcases stage' with stage' | stage'
    · exact stage' ▸ stage
    · exact .inr stage'

theorem tame_filterEng (p : Block) (f : EngOp → Bool) : Tame p { p with eng := p.eng.filter f } :=
  ⟨rfl, id, rfl, id, fun e he => ⟨e, (List.mem_filter.1 he).1, rfl, rfl, .inl rfl, fun _ => rfl⟩, id⟩

/-- Operations that wait at the scoreboard become pending, and nothing else of the block changes. -/
theorem tame_admitWaiting (p : Block) : Tame p p.admitWaiting := by
  unfold Block.admitWaiting
  generalize p.eng = l
  induction l generalizing p with
  | nil => exact tame_of_view rfl
  | cons e l ih =>
    refine Tame_trans ?_ (ih _)
    dsimp only
    split
    · refine ⟨rfl, id, rfl, id, fun e' he' => ?_, id⟩
      obtain ⟨x, hx, rfl⟩ := List.mem_map.1 he'
      refine ⟨x, hx, ?_⟩
      split
      · exact ⟨rfl, rfl, .inr rfl, fun _ => rfl⟩
      · exact ⟨rfl, rfl, .inl rfl, fun _ => rfl⟩
    · exact tame_of_view rfl

theorem admitWaiting_threads (p : Block) : p.admitWaiting.threads = p.threads := by
  unfold Block.admitWaiting
  generalize p.eng = l
  induction l generalizing p with
  | nil => rfl
  | cons e l ih =>
    refine (ih _).trans ?_
    dsimp only
    split <;> rfl

section
variable {b : Nat} {r : EventRecord} {q : Prop} {l m : Nat → Prop} {d a : Dev}

theorem blk_of_blocks (h : d.blocks = a.blocks) (y : Nat) : d.blk y = a.blk y := by
  unfold Dev.blk
  rw [h]

/-- A step that leaves blocks, operations and retirements alone, and takes no record from the log. -/
theorem leaving_of_kept_log {p : List DevField} (h : Leaving b r q l m a) (k : Kept p a d)
    (hp : ∀ f ∈ [DevField.blocks, .ops, .retire], f ∉ p) (log : r ∈ d.log.buf) : Leaving b r q l m d := by
  have blocks : d.blocks = a.blocks := k.same .blocks (hp _ (by decide))
  have ops : d.ops = a.ops := k.same .ops (hp _ (by decide))
  have retire : d.retire = a.retire := k.same .retire (hp _ (by decide))
  have blk := blk_of_blocks blocks
  have op (n : Nat) : d.op n = a.op n := by unfold Dev.op; rw [ops]
  constructor
  · rw [blk]; exact h.svc
  · rw [blk]; exact h.work
  · rw [blk]; exact h.chk
  · rw [blk]; exact h.beats
  · simp only [blk]; exact h.eng
  · rw [retire]; exact h.retire
  · exact log
  · simp only [op, ops]; exact h.ops
  · simp only [op]; exact h.fewer
  · rw [blk]; exact h.empty

/-- A step that leaves blocks, operations, retirements and the log alone. -/
theorem leaving_of_kept {p : List DevField} (h : Leaving b r q l m a) (k : Kept p a d)
    (hp : ∀ f ∈ [DevField.blocks, .ops, .retire, .log], f ∉ p) : Leaving b r q l m d :=
  leaving_of_kept_log h k (fun f hf => hp f (by revert f; decide))
    ((k.same .log (hp _ (by decide)) : d.log = a.log) ▸ h.log)

theorem eventAt_log (d : Dev) (t cls code rg bl : Nat) (dt : List Nat) (p c : Nat) :
    (d.eventAt t cls code rg bl dt p c).log = d.log.put ⟨t, rg, bl, cls, code, p, c, dt⟩ := by
  unfold Dev.eventAt
  dsimp only
  split
  · rw [safeReq_log, logRec_log]
  · rw [logRec_log]

theorem kept_eventAt (d : Dev) (t cls code rg bl : Nat) (dt : List Nat) (p c : Nat) :
    Kept [.regs, .chA, .chB, .log] d (d.eventAt t cls code rg bl dt p c) := by
  unfold Dev.eventAt
  dsimp only
  split
  · exact Kept_trans (Kept_mono (kept_logRec ..) (by decide)) (Kept_mono (kept_safeReq ..) (by decide))
  · exact Kept_mono (kept_logRec ..) (by decide)

theorem leaving_eventAt (h : Leaving b r q l m d) {t cls code rg bl : Nat} {dt : List Nat} {p c : Nat} :
    Leaving b r q l m (d.eventAt t cls code rg bl dt p c) := by
  refine leaving_of_kept_log h (kept_eventAt ..) (by decide) ?_
  rw [eventAt_log]
  obtain ⟨x, hx⟩ := put_extends d.log ⟨t, rg, bl, cls, code, p, c, dt⟩
  rw [hx]
  exact List.mem_append_left _ h.log

theorem leaving_event (h : Leaving b r q l m d) {cls code rg bl : Nat} {dt : List Nat} {p c : Nat} :
    Leaving b r q l m (d.event cls code rg bl dt p c) := leaving_eventAt h

/-- A step that changes blocks alone, takes no beat, and treats the block as `Tame` says. -/
theorem leaving_blocks (h : Leaving b r q l m a) (k : Kept [.blocks] a d)
    (beats : ∀ y, (a.blk y).beats = [] → (d.blk y).beats = []) (tame : Tame (a.blk b) (d.blk b))
    (thr : q → ∀ x ∈ (d.blk b).threads, x ∈ (a.blk b).threads ∨ x.2.due = true) : Leaving b r q l m d := by
  have ops : d.ops = a.ops := k.same .ops (by decide)
  have retire : d.retire = a.retire := k.same .retire (by decide)
  have log : d.log = a.log := k.same .log (by decide)
  have op (n : Nat) : d.op n = a.op n := by unfold Dev.op; rw [ops]
  constructor
  · exact tame.svc.trans h.svc
  · exact tame.work h.work
  · exact tame.chk.trans h.chk
  · exact tame.beats h.beats
  · intro e' he'
    obtain ⟨e, he, dead, arb, stage, -⟩ := tame.eng e' he'
    obtain ⟨alive, rest⟩ := h.eng e he
    refine ⟨dead.trans alive, fun x third hx => beats x (rest x ?_ (arb ▸ hx))⟩
    rcases stage with stage | stage
    · exact stage ▸ third
    · exact absurd (stage.symm.trans third) (by decide)
  · rw [retire]; exact h.retire
  · rw [log]; exact h.log
  · simp only [op, ops]; exact h.ops
  · simp only [op]; exact h.fewer
  · intro hq
    obtain ⟨eng, posted, due⟩ := h.empty hq
    refine ⟨List.eq_nil_iff_forall_not_mem.2 fun e' he' => ?_, tame.posted posted,
      fun x hx => (thr hq x hx).elim (due x) id⟩
    obtain ⟨e, he, -⟩ := tame.eng e' he'
    rw [eng] at he
    exact absurd he List.not_mem_nil

theorem leaving_modBlk (h : Leaving b r q l m d) {y : Nat} {f : Block → Block}
    (beats : ∀ p : Block, p.beats = [] → (f p).beats = []) (tame : y = b → Tame (d.blk b) (f (d.blk b)))
    (thr : q → y = b → ∀ x ∈ (f (d.blk b)).threads, x ∈ (d.blk b).threads ∨ x.2.due = true) :
    Leaving b r q l m (d.modBlk y f) := by
  refine leaving_blocks h (kept_modBlk ..) (fun x hx => ?_) ?_ fun hq => ?_
  · by_cases e : x = y
    · subst e
      rw [Dev.blk_modBlk_self]
      exact beats _ hx
    · rw [Dev.blk_modBlk_ne _ _ e]
      exact hx
  · by_cases e : y = b
    · subst e
      rw [Dev.blk_modBlk_self]
      exact tame rfl
    · rw [Dev.blk_modBlk_ne _ _ (Ne.symm e)]
      exact tame_of_view rfl
  · by_cases e : y = b
    · subst e
      rw [Dev.blk_modBlk_self]
      exact thr hq rfl
    · rw [Dev.blk_modBlk_ne _ _ (Ne.symm e)]
      exact fun x hx => .inl hx

/-- A change of any block that is `Tame` and leaves its threads. -/
theorem leaving_modBlk_tame (h : Leaving b r q l m d) {y : Nat} {f : Block → Block} (tame : ∀ p, Tame p (f p))
    (thr : ∀ p, (f p).threads = p.threads) : Leaving b r q l m (d.modBlk y f) :=
  leaving_modBlk h (fun p => (tame p).beats) (fun _ => tame _) fun _ _ _ hx => .inl (thr _ ▸ hx)

/-- A change of another block that takes no beat. -/
theorem leaving_modBlk_ne (h : Leaving b r q l m d) {y : Nat} {f : Block → Block} (hy : y ≠ b)
    (beats : ∀ p : Block, p.beats = [] → (f p).beats = []) : Leaving b r q l m (d.modBlk y f) :=
  leaving_modBlk h beats (fun e => absurd e hy) fun _ e => absurd e hy

/-- A change of an operation that makes none live, and no static one dynamic. -/
theorem leaving_modOp (h : Leaving b r q l m d) {k : Nat} {f : Op → Op} (static : ∀ o, (f o).static = o.static)
    (live : ∀ o, (f o).Live b → o.Live b) : Leaving b r q l m (d.modOp k f) := by
  have kept := kept_modOp d k f
  have blk := blk_of_blocks (kept.same .blocks (by decide))
  have retire : (d.modOp k f).retire = d.retire := kept.same .retire (by decide)
  have log : (d.modOp k f).log = d.log := kept.same .log (by decide)
  have was (n : Nat) (hn : ((d.modOp k f).op n).Live b) : (d.op n).Live b := by
    by_cases e : n = k
    · subst e
      rw [Dev.op_modOp_self] at hn
      exact live _ hn
    · rw [Dev.op_modOp_ne _ _ e] at hn
      exact hn
  constructor
  · rw [blk]; exact h.svc
  · rw [blk]; exact h.work
  · rw [blk]; exact h.chk
  · rw [blk]; exact h.beats
  · simp only [blk]; exact h.eng
  · rw [retire]; exact h.retire
  · rw [log]; exact h.log
  · intro n hn
    refine (h.ops n (was n hn)).imp_right fun hs o ho => ?_
    rcases mem_setOp ho with e | ⟨ho, -⟩
    · cases e
      exact (static _).trans (hs _ (mem_ops_of_live (was k hn)))
    · exact hs o ho
  · exact fun hq n hn => h.fewer hq n (was n hn)
  · rw [blk]; exact h.empty

theorem leaving_settle (h : Leaving b r q l m d) {k st : Nat} : Leaving b r q l m (d.settle k st) := by
  refine leaving_modOp h (fun o => ?_) fun o => ?_
  · split <;> rfl
  · split
    · exact fun live => absurd live.2.1 (Option.some_ne_none st)
    · exact id

theorem live_freeKid {o : Op} {e : EngOp} : (o.freeKid e).static = o.static ∧ ((o.freeKid e).Live b → o.Live b) := by
  unfold Op.freeKid
  split <;> exact ⟨rfl, id⟩

theorem tget_mapSnd {α : Type} {g : Nat → α} {f : α → α} {k : Nat} (hf : f (g k) = g k) (t : Table α) :
    tget g (t.map fun e => (e.1, f e.2)) k = f (tget g t k) := by
  induction t with
  | nil => exact hf.symm
  | cons e t ih =>
    rw [List.map_cons, tget, tget]
    split
    · rfl
    · exact ih

/-- Threads are taken from the lists of those that wait, and blocks stay else. -/
theorem blk_unwait (d : Dev) (p : Nat × Nat → Bool) (y : Nat) :
    (d.unwait p).blk y = { d.blk y with waiters := (d.blk y).waiters.filter fun w => !p w } :=
  tget_mapSnd (f := fun k : Block => { k with waiters := k.waiters.filter fun w => !p w })
    (by unfold blkDef; split <;> rfl) d.blocks

theorem freeKid_status (o : Op) (e : EngOp) : (o.freeKid e).status = o.status := by
  unfold Op.freeKid
  split <;> rfl

theorem leaving_unwait (h : Leaving b r q l m d) {p : Nat × Nat → Bool} : Leaving b r q l m (d.unwait p) := by
  refine leaving_blocks h (kept_unwait ..) (fun y hy => ?_) ?_ fun _ x hx => .inl ?_
  · rw [blk_unwait]
    exact hy
  · rw [blk_unwait]
    exact tame_of_view rfl
  · rw [blk_unwait] at hx
    exact hx

theorem leaving_releaseBlk (h : Leaving b r q l m d) {y : Nat} : Leaving b r q l m (d.releaseBlk y) := by
  refine leaving_modBlk_tame h (fun p => ?_) fun p => ?_
  · split <;> exact tame_of_view rfl
  · split <;> rfl

theorem leaving_freeArb (h : Leaving b r q l m d) {y : Nat} {e : EngOp} : Leaving b r q l m (d.freeArb y e) := by
  unfold Dev.freeArb
  split
  · exact h
  · refine leaving_of_kept ?_ (kept_modTile ..) (by decide)
    exact leaving_modBlk_tame h (fun p => tame_of_view rfl) fun _ => rfl

theorem tame_drop (p : Block) (e : EngOp) (moved : Bool) :
    Tame p (Block.admitWaiting { p with eng := p.eng.filter fun x => !e.same x, engMoved := moved }) :=
  Tame_trans (p' := { p with eng := p.eng.filter fun x => !e.same x, engMoved := moved })
    ⟨rfl, id, rfl, id, (tame_filterEng p _).eng, id⟩ (tame_admitWaiting _)

theorem leaving_dropEng (h : Leaving b r q l m d) {y : Nat} {e : EngOp} : Leaving b r q l m (d.dropEng y e) := by
  unfold Dev.dropEng
  refine leaving_modBlk_tame (leaving_freeArb ?_) (fun p => tame_drop p e p.engMoved) fun p => admitWaiting_threads _
  exact leaving_of_kept (leaving_of_kept h (kept_cutBeats ..) (by decide)) (kept_poisonOut ..) (by decide)

/-! ## Beats are not taken up again -/

/-- No block holds a beat that held none before. -/
def NoNewBeats (a d : Dev) : Prop := ∀ y, (a.blk y).beats = [] → (d.blk y).beats = []

theorem noNewBeats_of_kept {p : List DevField} (k : Kept p a d) (hp : .blocks ∉ p) : NoNewBeats a d := by
  intro y hy
  rw [blk_of_blocks (k.same .blocks hp)]
  exact hy

theorem noNewBeats_modBlk {y : Nat} {f : Block → Block} (tame : ∀ p, Tame p (f p)) : NoNewBeats d (d.modBlk y f) := by
  intro x hx
  by_cases e : x = y
  · subst e
    rw [Dev.blk_modBlk_self]
    exact (tame _).beats hx
  · rw [Dev.blk_modBlk_ne _ _ e]
    exact hx

theorem noNewBeats_freeArb {y : Nat} {e : EngOp} : NoNewBeats d (d.freeArb y e) := by
  unfold Dev.freeArb
  split
  · exact fun _ h => h
  · refine fun x hx => noNewBeats_of_kept (kept_modTile ..) (by decide) x ?_
    refine noNewBeats_modBlk (fun p => ?_) x hx
    exact tame_of_view rfl

theorem noNewBeats_dropEng {y : Nat} {e : EngOp} : NoNewBeats d (d.dropEng y e) := by
  intro x hx
  unfold Dev.dropEng
  refine noNewBeats_modBlk (fun p => tame_drop p e p.engMoved) x (noNewBeats_freeArb x ?_)
  exact noNewBeats_of_kept (kept_poisonOut ..) (by decide) x (noNewBeats_of_kept (kept_cutBeats ..) (by decide) x hx)

/-- An operation of an engine waits for no beat of the block that arbitrates it. -/
def EngOp.Clear (d : Dev) (e : EngOp) : Prop := ∀ a, e.stage = .third → e.arb = some a → (d.blk a).beats = []

theorem holding_false {e : EngOp} (beats : (d.blk b).beats = []) (clear : e.Clear d) : d.holding b e = false := by
  unfold Dev.holding
  cases hs : e.stage with
  | running | repeating => simp [beats]
  | third =>
    cases ha : e.arb with
    | none => rfl
    | some a => simp [clear a hs ha]
  | _ => rfl

/-- One operation of an engine ended. -/
def Dev.killOne (d : Dev) (y : Nat) (e : EngOp) : Dev :=
  let d := d.modOp e.token fun o => { o.freeKid e with launches := o.launches - (if e.src = .launch then 0 else 1) }
  if d.holding y e then d.modEng y e fun x => { x with dead := true } else d.dropEng y e

theorem killEng_eq (d : Dev) (y : Nat) (p : EngOp → Bool) :
    d.killEng y p = ((d.blk y).eng.filter fun e => p e && !e.dead).foldl (fun d e => d.killOne y e) d := rfl

theorem leaving_killMod (h : Leaving b r q l m d) {e : EngOp} {x : Op → Nat} :
    Leaving b r q l m (d.modOp e.token fun o => { o.freeKid e with launches := x o }) :=
  leaving_modOp h (fun _ => (live_freeKid (b := b)).1) fun _ => live_freeKid.2

theorem leaving_killOne_ne (h : Leaving b r q l m d) {y : Nat} (hy : y ≠ b) {e : EngOp} :
    Leaving b r q l m (d.killOne y e) := by
  unfold Dev.killOne
  extract_lets d1
  have h1 : Leaving b r q l m d1 := leaving_killMod h
  split
  · exact leaving_modBlk_ne h1 hy fun _ hp => hp
  · exact leaving_dropEng h1

theorem eng_modBlk {z : Nat} {f : Block → Block} (hf : ∀ p, (f p).eng = p.eng) (d : Dev) (x : Nat) :
    ((d.modBlk z f).blk x).eng = (d.blk x).eng := by
  by_cases hx : x = z
  · subst hx
    rw [Dev.blk_modBlk_self, hf]
  · rw [Dev.blk_modBlk_ne _ _ hx]

theorem blk_modTile (d : Dev) (n : Nat) (f : Tile → Tile) (y : Nat) : (d.modTile n f).blk y = d.blk y :=
  blk_of_blocks ((kept_modTile d n f).same .blocks (by decide)) y

theorem eng_freeArb (d : Dev) (y : Nat) (e : EngOp) (x : Nat) : ((d.freeArb y e).blk x).eng = (d.blk x).eng := by
  unfold Dev.freeArb
  split
  · rfl
  · dsimp only
    rw [blk_modTile]
    refine eng_modBlk (fun _ => ?_) d x
    rfl

theorem eng_dropEng (d : Dev) (y : Nat) (e : EngOp) : ∀ e' ∈ ((d.dropEng y e).blk y).eng,
    ∃ x ∈ (d.blk y).eng, e.same x = false ∧ ∀ z : EngOp, z.same e' = z.same x := by
  intro e' he'
  unfold Dev.dropEng at he'
  rw [Dev.blk_modBlk_self] at he'
  obtain ⟨x, hx, -, -, -, same⟩ := (tame_admitWaiting _).eng e' he'
  obtain ⟨hx, hs⟩ := List.mem_filter.1 hx
  rw [eng_freeArb] at hx
  have kept : Kept [.mem, .free, .poison] d ((d.cutBeats y e).poisonOut y e) :=
    Kept_trans (Kept_mono (kept_cutBeats ..) (by decide)) (Kept_mono (kept_poisonOut ..) (by decide))
  rw [blk_of_blocks (kept.same .blocks (by decide))] at hx
  exact ⟨x, hx, by simpa using hs, same⟩

/-- An operation on the leaving block's own engine that waits for no beat is dropped. -/
theorem killOne_self (h : Leaving b r q l m d) {e : EngOp} (clear : e.Clear d) :
    Leaving b r q l m (d.killOne b e) ∧ NoNewBeats d (d.killOne b e) ∧
    ∀ e' ∈ ((d.killOne b e).blk b).eng, ∃ x ∈ (d.blk b).eng, e.same x = false ∧ ∀ z : EngOp, z.same e' = z.same x := by
  unfold Dev.killOne
  extract_lets d1
  have k1 : Kept [.ops] d d1 := kept_modOp ..
  have h1 : Leaving b r q l m d1 := leaving_killMod h
  have n1 : NoNewBeats d d1 := noNewBeats_of_kept k1 (by decide)
  have blk : d1.blk b = d.blk b := blk_of_blocks (k1.same .blocks (by decide)) b
  rw [if_neg (by rw [holding_false h1.beats fun a hs ha => n1 a (clear a hs ha)]; decide), ← blk]
  exact ⟨leaving_dropEng h1, fun x hx => noNewBeats_dropEng x (n1 x hx), eng_dropEng d1 b e⟩

/-- Ending operations of an engine keeps the leaving block's state; and where all of its own are ended, none is left. -/
theorem leaving_killAll {es : List EngOp} (h : Leaving b r q l m d) (clear : ∀ e ∈ es, e.Clear d) :
    Leaving b r q l m (es.foldl (fun d e => d.killOne b e) d) ∧
    ((∀ x ∈ (d.blk b).eng, ∃ e ∈ es, e.same x = true) → ((es.foldl (fun d e => d.killOne b e) d).blk b).eng = []) := by
  induction es generalizing d with
  | nil =>
    refine ⟨h, fun all => List.eq_nil_iff_forall_not_mem.2 fun x hx => ?_⟩
    obtain ⟨e, he, -⟩ := all x hx
    exact absurd he List.not_mem_nil
  | cons e es ih =>
    obtain ⟨h1, beats, left⟩ := killOne_self h (clear e List.mem_cons_self)
    obtain ⟨h2, none⟩ := ih h1 fun x hx a hs ha => beats a (clear x (List.mem_cons_of_mem _ hx) a hs ha)
    refine ⟨h2, fun all => none fun e' he' => ?_⟩
    obtain ⟨x, hx, away, same⟩ := left e' he'
    obtain ⟨z, hz, hs⟩ := all x hx
    rcases List.mem_cons.1 hz with rfl | hz
    · exact absurd (away.symm.trans hs) (by decide)
    · exact ⟨z, hz, (same z).trans hs⟩

theorem leaving_killEng (h : Leaving b r q l m d) {y : Nat} {p : EngOp → Bool} :
    Leaving b r q l m (d.killEng y p) := by
  rw [killEng_eq]
  by_cases hy : y = b
  · subst hy
    exact (leaving_killAll h fun e he => (h.eng e (List.mem_filter.1 he).1).2).1
  · generalize (d.blk y).eng.filter _ = es
    induction es generalizing d with
    | nil => exact h
    | cons e es ih => exact ih (leaving_killOne_ne h hy)

theorem same_self (e : EngOp) : e.same e = true := by simp [EngOp.same]

/-- With every operation of its engine ended, the leaving block's engine is empty. -/
theorem killEng_empties (h : Leaving b r q l m d) {p : EngOp → Bool} (hp : ∀ e, p e = true) :
    ((d.killEng b p).blk b).eng = [] := by
  rw [killEng_eq]
  refine (leaving_killAll h fun e he => (h.eng e (List.mem_filter.1 he).1).2).2 fun x hx => ⟨x, ?_, same_self x⟩
  refine List.mem_filter.2 ⟨hx, ?_⟩
  rw [hp, (h.eng x hx).1]
  rfl

/-! ## Ending operations -/

theorem leaving_mono {l' m' : Nat → Prop} (h : Leaving b r q l m d) (hl : ∀ k, l k → l' k) (hm : ∀ k, m k → m' k) :
    Leaving b r q l' m' d :=
  { h with
    ops := fun k hk => (h.ops k hk).imp_left (hl k)
    fewer := fun hq k hk => hm k (h.fewer hq k hk) }

/-- An operation that is not live need not be kept in mind. -/
theorem leaving_forget (h : Leaving b r q l m d) {k : Nat} (hk : ¬ (d.op k).Live b) :
    Leaving b r q (fun n => l n ∧ n ≠ k) m d :=
  { h with ops := fun n hn => (h.ops n hn).imp_left fun hl => ⟨hl, fun e => hk (e ▸ hn)⟩ }

theorem settle_notLive (d : Dev) (k st : Nat) : ¬ ((d.settle k st).op k).Live b := by
  unfold Dev.settle
  rw [Dev.op_modOp_self]
  split
  · exact fun h => absurd h.2.1 (Option.some_ne_none st)
  · rename_i h
    exact fun live => h ⟨live.1, live.2.1⟩

/-- A new operation that is static, and not the emptied block's. -/
theorem leaving_alloc (h : Leaving b r q l m d) {t : Nat} {o : Op} (static : o.static = true)
    (other : q → o.block ≠ some b) : Leaving b r q l m (d.alloc t o).2 := by
  refine leaving_of_kept ?_ (kept_peak ..) (by decide)
  have kept := kept_setOp d (d.freeToken t) { o with used := true }
  have blk := blk_of_blocks (kept.same .blocks (by decide))
  have retire : (d.setOp (d.freeToken t) { o with used := true }).retire = d.retire := kept.same .retire (by decide)
  have log : (d.setOp (d.freeToken t) { o with used := true }).log = d.log := kept.same .log (by decide)
  generalize d.freeToken t = k at *
  constructor
  · rw [blk]; exact h.svc
  · rw [blk]; exact h.work
  · rw [blk]; exact h.chk
  · rw [blk]; exact h.beats
  · simp only [blk]; exact h.eng
  · rw [retire]; exact h.retire
  · rw [log]; exact h.log
  · intro n hn
    by_cases e : n = k
    · refine .inr fun x hx => ?_
      rcases mem_setOp hx with hx | ⟨-, hx⟩
      · cases hx
        exact static
      · exact absurd e hx
    · rw [Dev.op_setOp_ne _ _ e] at hn
      refine (h.ops n hn).imp_right fun hs x hx => ?_
      rcases mem_setOp hx with hx | ⟨hx, -⟩
      · exact absurd (congrArg Prod.fst hx) e
      · exact hs x hx
  · intro hq n hn
    by_cases e : n = k
    · subst e
      rw [Dev.op_setOp_self] at hn
      exact absurd hn.2.2 (other hq)
    · rw [Dev.op_setOp_ne _ _ e] at hn
      exact h.fewer hq n hn
  · rw [blk]; exact h.empty

/-- A change of a thread of a block, but of the emptied one. -/
theorem leaving_setThr (h : Leaving b r q l m d) {y n : Nat} {f : Block → Thread} (hy : q → y ≠ b) :
    Leaving b r q l m (d.modBlk y fun k => k.setThr n (f k)) :=
  leaving_modBlk h (fun _ hp => hp) (fun _ => tame_of_view rfl) fun hq e => absurd e (hy hq)

theorem leaving_startStatic (h : Leaving b r q l m d) {y n c : Nat} (hy : q → y ≠ b) :
    Leaving b r q l m (d.startStatic y n c) := by
  unfold Dev.startStatic
  exact leaving_setThr (leaving_alloc h rfl fun hq e => hy hq (Option.some.inj e)) hy

theorem leaving_freeThr (h : Leaving b r q l m d) {y n : Nat} (hy : q → y ≠ b) :
    Leaving b r q l m (d.modBlk y fun k => k.freeThr n) :=
  leaving_setThr h hy

/-- An operation ends: it is no longer live. -/
theorem leaving_endOp (h : Leaving b r q l m d) {k st : Nat} {kill : Bool} (hk : q → ¬ (d.op k).Live b) :
    Leaving b r q (fun n => l n ∧ n ≠ k) m (d.endOp k st kill) := by
  unfold Dev.endOp
  dsimp only
  split
  · rename_i gone
    exact leaving_forget h fun live => gone.elim (fun hu => absurd (hu.symm.trans live.1) (by decide))
      fun hs => hs live.2.1
  · rename_i live
    rw [not_or, not_not] at live
    obtain ⟨used, status⟩ := live
    have h1 := leaving_forget (leaving_settle h (k := k) (st := st)) (settle_notLive d k st)
    split
    · exact h1
    · rename_i y hy
      have other : q → y ≠ b := fun hq e => hk hq ⟨by simpa using used, status, e ▸ hy⟩
      generalize hd2 : (if kill = true then _ else _ : Dev) = d2
      have h2 : Leaving b r q (fun n => l n ∧ n ≠ k) m d2 := by
        rw [← hd2]
        split
        · exact leaving_killEng h1
        · exact h1
      split
      · exact leaving_releaseBlk h2
      · rename_i n _
        have h3 : Leaving b r q (fun n => l n ∧ n ≠ k) m (if ((d2.blk y).thr n).op = some k then
            (d2.modBlk y fun q => q.freeThr n).unwait (· == (y, n)) else d2) := by
          split
          · exact leaving_unwait (leaving_freeThr h2 other)
          · exact h2
        split
        · exact leaving_startStatic h3 other
        · exact leaving_releaseBlk h3

/-! A request of model serving that goes changes memory and the state of the serving unit alone. -/

theorem kept_kvPush (d : Dev) (i n : Nat) : Kept [.mem, .poison, .enc, .srv] d (d.kvPush i n) :=
  Kept_trans (Kept_mono (kept_storeAs ..) (by decide)) (Kept_mono (kept_modInst ..) (by decide))

theorem kept_srv (d : Dev) (x : Serving) : Kept [.srv] d { d with srv := x } := by
  constructor
  intro f hf
  cases f with
  | srv => exact absurd List.mem_cons_self hf
  | _ => rfl

theorem kept_modPfx (d : Dev) (e : Nat) (f : Pfx → Pfx) : Kept [.srv] d (d.modPfx e f) := kept_srv ..

theorem kept_modReq (d : Dev) (k : Nat) (f : Req → Req) : Kept [.srv] d (d.modReq k f) := kept_srv ..

theorem kept_pfxRelease (d : Dev) (e : Nat) : Kept [.mem, .poison, .enc, .srv] d (d.pfxRelease e) := by
  have k1 : Kept [.mem, .poison, .enc, .srv] d (d.modPfx e fun p => { p with refs := p.refs - 1 }) :=
    Kept_mono (kept_modPfx ..) (by decide)
  unfold Dev.pfxRelease
  dsimp only
  split
  · exact Kept_trans k1 (Kept_trans (kept_kvPush ..) (Kept_mono (kept_modPfx ..) (by decide)))
  · exact k1

theorem kept_writeTable (d : Dev) (i slot : Nat) (kv : List Nat) :
    Kept [.mem, .poison, .enc] d (d.writeTable i slot kv) :=
  kept_storeAs ..

theorem kept_reqHold (d : Dev) (k : Nat) : Kept [.mem, .poison, .enc, .srv] d (d.reqHold k) := by
  unfold Dev.reqHold
  dsimp only
  generalize d.req k = r
  have k1 : Kept [.mem, .poison, .enc, .srv] d (r.entries.foldl (fun (d : Dev) e => d.pfxRelease e.2) d) :=
    kept_foldl (fun (d : Dev) (e : Nat × Nat) => kept_pfxRelease d e.2) _ d
  have k2 (l : List Nat) (a : Dev) :
      Kept [.mem, .poison, .enc, .srv] a (l.foldl (fun (d : Dev) j => d.kvPush r.inst (r.kv.getD j 0)) a) :=
    kept_foldl (fun (d : Dev) j => kept_kvPush d _ _) l a
  split
  · exact Kept_trans (Kept_trans k1 (k2 ..)) (Kept_mono (kept_writeTable ..) (by decide))
  · exact Kept_trans k1 (k2 ..)

theorem kept_reqGone (d : Dev) (k : Nat) : Kept [.mem, .poison, .enc, .srv] d (d.reqGone k) :=
  Kept_trans (Kept_trans (kept_reqHold ..) (Kept_mono (kept_modInst ..) (by decide)))
    (Kept_mono (kept_modReq ..) (by decide))

theorem leaving_finish (h : Leaving b r q l m d) {k st : Nat} (hk : q → ¬ (d.op k).Live b) :
    Leaving b r q (fun n => l n ∧ n ≠ k) m (d.finish k st) := by
  unfold Dev.finish
  dsimp only
  split
  · rename_i gone
    exact leaving_forget h fun live => gone.elim (fun hu => absurd (hu.symm.trans live.1) (by decide))
      fun hs => hs live.2.1
  · split
    · exact leaving_of_kept (leaving_forget (leaving_settle h) (settle_notLive d k st)) (kept_reqGone ..) (by decide)
    · exact leaving_endOp h hk

/-! ## The vote of an arbitration that ends as neither -/

theorem leaving_retireReq (h : Leaving b r q l m d) {y cause : Nat} : Leaving b r q l m (d.retireReq y cause) := by
  unfold Dev.retireReq
  split
  · exact h
  · rename_i first
    refine { h with retire := fun x hx => ?_ }
    rcases List.mem_append.1 hx with hx | hx
    · exact h.retire x hx
    · rw [List.mem_singleton.1 hx]
      rintro rfl
      exact first (.inl h.svc)

theorem leaving_strike (h : Leaving b r q l m d) {y : Nat} : Leaving b r q l m (d.strike y) := by
  unfold Dev.strike
  extract_lets hours live all d1
  have h1 : Leaving b r q l m d1 := leaving_modBlk_tame h (fun _ => tame_of_view rfl) fun _ => rfl
  split
  · exact h1
  · exact leaving_retireReq (leaving_event h1)

theorem leaving_bumpIf (h : Leaving b r q l m d) {c : Prop} [Decidable c] {o : Nat} :
    Leaving b r q l m (if c then d.bump o else d) := by
  split
  · exact leaving_of_kept h (kept_bump ..) (by decide)
  · exact h

theorem leaving_report (h : Leaving b r q l m d) {y : Nat} {e : EngOp} {st : Nat} {compared : Bool} (hy : q → y ≠ b) :
    Leaving b r q l m (d.report y e st compared) := by
  unfold Dev.report
  extract_lets outs d1 d2 d3 d4 d5 d6 d7 d8
  have h1 : Leaving b r q l m d1 := by
    refine leaving_freeArb ?_
    split
    · exact h
    · exact leaving_of_kept h (kept_poisonOut ..) (by decide)
  have h2 : Leaving b r q l m d2 := by
    refine leaving_modBlk_tame h1 (fun p => ?_) fun p => admitWaiting_threads _
    exact tame_drop p e _
  have h6 : Leaving b r q l m d6 := leaving_bumpIf (leaving_bumpIf (leaving_bumpIf (leaving_bumpIf h2)))
  have h7 : Leaving b r q l m d7 := by
    refine leaving_modOp h6 (fun o => (live_freeKid (b := b)).1) fun o live => ?_
    obtain ⟨used, status, block⟩ := live
    refine live_freeKid.2 ⟨used, ?_, block⟩
    dsimp only at status
    rw [freeKid_status]
    split at status
    · exact status
    · exact Option.map_eq_none_iff.1 status
  refine leaving_releaseBlk ?_
  unfold d8
  split
  · exact leaving_settle h7
  · split
    · exact leaving_setThr h7 hy
    · exact h7

theorem leaving_arbNeither (h : Leaving b r q l m d) {y : Nat} {e : EngOp} (hy : q → y ≠ b) :
    Leaving b r q l m (d.arbNeither y e) := by
  unfold Dev.arbNeither
  refine leaving_strike (leaving_report (leaving_event ?_) hy)
  exact leaving_of_kept (leaving_of_kept h (kept_setFld ..) (by decide)) (kept_bump ..) (by decide)

/-! ## The end of all that runs on a block -/

theorem leaving_foldl {α : Type} {f : Dev → α → Dev} {es : List α}
    (hf : ∀ d x, Leaving b r q l m d → Leaving b r q l m (f d x)) (h : Leaving b r q l m d) :
    Leaving b r q l m (es.foldl f d) := by
  induction es generalizing d with
  | nil => exact h
  | cons x es ih => exact ih (hf _ x h)

theorem tame_noBeats (p : Block) : Tame p { p with beats := [] } :=
  ⟨rfl, id, rfl, fun _ => rfl, (tame_of_view (p := p) rfl).eng, id⟩

theorem leaving_dropBeats (h : Leaving b r q l m d) {y : Nat} : Leaving b r q l m (d.dropBeats y) := by
  unfold Dev.dropBeats
  refine leaving_modBlk_tame (leaving_foldl (fun d x h1 => ?_) h) (fun p => tame_noBeats p) fun _ => rfl
  exact leaving_eventAt h1

theorem leaving_stopHandling (h : Leaving b r q l m d) {y : Nat} : Leaving b r q l m (d.stopHandling y) := by
  unfold Dev.stopHandling
  split
  · exact h
  · exact leaving_dropBeats h

/-- One of the operations that a block is to run no more ends: a static item with its status, a dynamic operation
with its own. -/
def Dev.endOne (lame : Bool) (stS stD : Nat) (d : Dev) (k : Nat) : Dev :=
  if (d.op k).static then d.settle k stS else if lame then d.endOp k stD false else d.finish k stD

theorem leaving_endOnes {lame : Bool} {stS stD : Nat} {ks : List Nat}
    (h : Leaving b r q (fun n => ¬ q ∧ n ∈ ks) m d) :
    Leaving b r q (fun _ => False) m (ks.foldl (Dev.endOne lame stS stD) d) := by
  induction ks generalizing d with
  | nil => exact leaving_mono h (fun _ hk => absurd hk.2 List.not_mem_nil) fun _ => id
  | cons k ks ih =>
    refine ih (leaving_mono (l := fun n => (¬ q ∧ n ∈ k :: ks) ∧ n ≠ k) ?_ ?_ fun _ => id)
    · unfold Dev.endOne
      split
      · exact leaving_forget (leaving_settle h) (settle_notLive d k stS)
      · rename_i dynamic
        have idle : q → ¬ (d.op k).Live b := fun hq live => (h.ops k live).elim (fun hl => hl.1 hq) fun hs =>
          dynamic (hs _ (mem_ops_of_live live))
        split
        · exact leaving_endOp h idle
        · exact leaving_finish h idle
    · rintro n ⟨⟨hq, hn⟩, hne⟩
      exact ⟨hq, (List.mem_cons.1 hn).resolve_left hne⟩

/-- The arbitration that the block runs for another one ends as neither. -/
def Dev.arbEnds (d : Dev) (y : Nat) : Dev :=
  match (d.blk y).arbFor with
  | some (h, tok) => match (d.blk h).eng.find? fun (e : EngOp) => e.token = tok ∧ e.arb = some y with
    | some e => d.arbNeither h e
    | none => d
  | none => d

theorem leaving_arbEnds (h : Leaving b r q l m d) {y : Nat} : Leaving b r q l m (d.arbEnds y) := by
  unfold Dev.arbEnds
  split
  · split
    · rename_i e found
      refine leaving_arbNeither h fun hq same => ?_
      have mem := List.mem_of_find?_eq_some found
      rw [same, (h.empty hq).1] at mem
      exact absurd mem List.not_mem_nil
    · exact h
  · exact h

/-- The operations that a block's end takes: those of the block that have not ended, but for those that run on. -/
def Dev.toEnd (d : Dev) (y : Nat) (stay : List Nat) : List Nat :=
  (d.ops.filter fun e => e.2.used && e.2.block == some y && e.2.status.isNone && !(stay.contains e.1)).map (·.1)

/-- The operations of the launch words that run on as their block is retired. -/
def Dev.staying (d : Dev) (y : Nat) : List Nat :=
  ((d.blk y).eng.filter fun e => e.src == .launch && d.runsOn y e).map (·.token)

/-- A block whose operations have ended has its engine emptied, and keeps its due threads while it has power. -/
def Dev.cleared (d : Dev) (y : Nat) : Dev :=
  ((d.killEng y fun e => !d.runsOn y e).unwait fun w => w.1 == y).modBlk y fun q => { q with
    threads := if q.powered then q.threads.filter fun h => h.2.due else [], pools := [], waiters := [], posted := []
    preempt := none }

theorem killBlock_eq (d : Dev) (y stS stD : Nat) : d.killBlock y stS stD =
    ((((d.stopHandling y).toEnd y (d.staying y)).foldl (Dev.endOne (d.lame y) stS stD)
      ((d.stopHandling y).arbEnds y)).cleared y) := rfl

theorem tame_cleared (p : Block) : Tame p { p with
    threads := if p.powered then p.threads.filter fun h => h.2.due else [], pools := [], waiters := [], posted := []
    preempt := none } :=
  ⟨rfl, id, rfl, id, (tame_of_view (p := p) rfl).eng, fun _ => rfl⟩

theorem leaving_cleared (h : Leaving b r q l m d) {y : Nat} : Leaving b r q l m (d.cleared y) := by
  refine leaving_modBlk (leaving_unwait (leaving_killEng h)) (fun p hp => hp) (fun _ => tame_cleared _)
    fun _ _ x hx => ?_
  dsimp only at hx
  split at hx
  · exact .inr (by simpa using (List.mem_filter.1 hx).2)
  · exact absurd hx List.not_mem_nil

theorem leaving_killBlock (h : Leaving b r q (fun _ => False) m d) {y stS stD : Nat} :
    Leaving b r q (fun _ => False) m (d.killBlock y stS stD) := by
  rw [killBlock_eq]
  refine leaving_cleared (leaving_endOnes (leaving_arbEnds (leaving_stopHandling ?_)))
  exact leaving_mono h (fun _ => False.elim) fun _ => id

/-- A block that leaves service is not lame. -/
theorem lame_false (h : Leaving b r q l m d) : d.lame b = false := by
  simp [Dev.lame, h.chk]

theorem runsOn_false (h : Leaving b r q l m d) (e : EngOp) : d.runsOn b e = false := by
  simp [Dev.runsOn, lame_false h]

/-- What the end of the leaving block's own work leaves: an empty engine, no posted write, and due threads alone. -/
theorem emptied_cleared (h : Leaving b r False l m d) :
    Leaving b r True l (fun k => ((d.cleared b).op k).Live b) (d.cleared b) := by
  have rest := leaving_cleared h (y := b)
  have none : ((d.cleared b).blk b).eng = [] := by
    rw [Dev.cleared, Dev.blk_modBlk_self]
    dsimp only
    rw [blk_unwait]
    exact killEng_empties h fun e => by simp [runsOn_false h]
  refine { rest with fewer := fun _ _ => id, empty := fun _ => ⟨none, ?_, fun x hx => ?_⟩ }
  · rw [Dev.cleared, Dev.blk_modBlk_self]
  · rw [Dev.cleared, Dev.blk_modBlk_self] at hx
    dsimp only at hx
    split at hx
    · simpa using (List.mem_filter.1 hx).2
    · exact absurd hx List.not_mem_nil

theorem mem_toEnd {k y : Nat} {stay : List Nat} (h : (d.op k).Live y) (hs : k ∉ stay) : k ∈ d.toEnd y stay := by
  refine List.mem_map.2 ⟨(k, d.op k), List.mem_filter.2 ⟨mem_ops_of_live h, ?_⟩, rfl⟩
  obtain ⟨used, status, block⟩ := h
  simp [used, status, block, hs]

/-- The emptied block, its operations that have not ended static alone. -/
def Emptied (b : Nat) (r : EventRecord) (d : Dev) : Prop :=
  ∃ m, Leaving b r True (fun _ => False) m d

/-- The end of all that runs on the leaving block empties it. -/
theorem emptied_killBlock (h : Leaving b r False l m d) {stS stD : Nat} : Emptied b r (d.killBlock b stS stD) := by
  rw [killBlock_eq]
  have h1 := leaving_stopHandling h (y := b)
  have none : d.staying b = [] := by
    unfold Dev.staying
    rw [List.filter_eq_nil_iff.2 fun e _ => by simp [runsOn_false h], List.map_nil]
  rw [none]
  generalize d.stopHandling b = d1 at h1
  have h2 : Leaving b r False (fun n => ¬ False ∧ n ∈ d1.toEnd b []) m d1 :=
    { h1 with ops := fun k live => .inl ⟨id, mem_toEnd live List.not_mem_nil⟩ }
  exact ⟨_, emptied_cleared (leaving_endOnes (leaving_arbEnds h2))⟩

/-! ## Planning a moult around the emptied block -/

theorem emptied_of_kept {p : List DevField} (h : Emptied b r a) (k : Kept p a d)
    (hp : ∀ f ∈ [DevField.blocks, .ops, .retire, .log], f ∉ p) : Emptied b r d := by
  obtain ⟨m, h⟩ := h
  exact ⟨m, leaving_of_kept h k hp⟩

theorem emptied_gate (h : Emptied b r d) {y : Nat} : Emptied b r (d.gate y) := by
  obtain ⟨m, h⟩ := h
  unfold Dev.gate
  refine ⟨m, leaving_killBlock (leaving_modBlk_tame h (fun p => ?_) fun p => ?_)⟩
  · exact tame_of_view rfl
  · rfl

theorem emptied_event (h : Emptied b r d) {cls code rg bl : Nat} {dt : List Nat} {p c : Nat} :
    Emptied b r (d.event cls code rg bl dt p c) := by
  obtain ⟨m, h⟩ := h
  exact ⟨m, leaving_event h⟩

theorem kept_modMoult (d : Dev) (y : Nat) (f : Moult → Moult) : Kept [.tiles] d (d.modMoult y f) := kept_modTile ..

/-- Operations that were not live on the emptied block end, and it stays as it was. -/
theorem leaving_finishes {ks : List Nat} {st : Nat} (h : Leaving b r True (fun _ => False) m d) (hk : ∀ k ∈ ks, ¬ m k) :
    Leaving b r True (fun _ => False) m (ks.foldl (fun d k => d.finish k st) d) := by
  induction ks generalizing d with
  | nil => exact h
  | cons k ks ih =>
    have idle : ¬ (d.op k).Live b := fun live => hk k List.mem_cons_self (h.fewer trivial k live)
    exact ih (leaving_mono (leaving_finish h fun _ => idle) (fun _ hn => hn.1) fun _ => id) fun x hx =>
      hk x (List.mem_cons_of_mem _ hx)

theorem tame_donor (p : Block) : Tame p { p with donor := true, takesWork := false } :=
  ⟨rfl, fun _ => rfl, rfl, id, (tame_of_view (p := p) rfl).eng, id⟩

/-- A donor's dynamic operations end, and none of them is listed under the number of one that is live on the emptied
block. -/
theorem emptied_makeDonor (h : Emptied b r d) {y x : Nat} : Emptied b r (d.makeDonor y x) := by
  obtain ⟨m, h⟩ := h
  unfold Dev.makeDonor
  extract_lets d1 ks
  have h1 : Leaving b r True (fun _ => False) m d1 := by
    refine leaving_of_kept (p := [.tiles]) (leaving_modBlk_tame h (fun p => tame_donor p) fun p => ?_)
      (kept_modMoult ..) (by decide)
    rfl
  refine ⟨fun k => (d1.op k).Live b, leaving_finishes { h1 with fewer := fun _ _ => id } fun k hk live => ?_⟩
  obtain ⟨⟨n, o⟩, he, rfl⟩ := List.mem_map.1 hk
  obtain ⟨mem, hp⟩ := List.mem_filter.1 he
  have static : o.static = true := (h1.ops n live).elim False.elim fun hs => hs o mem
  simp [static] at hp

theorem emptied_planMoult (h : Emptied b r d) {y : Nat} : Emptied b r (d.planMoult y) := by
  unfold Dev.planMoult
  extract_lets t
  split
  · exact h
  · split
    · exact h
    · split
      · exact emptied_of_kept h (kept_modMoult ..) (by decide)
      · split
        · exact h
        · split
          · exact emptied_makeDonor h
          · exact emptied_gate (emptied_event (emptied_of_kept h (kept_modTile ..) (by decide)))

/-! ## The decision to retire a block -/

/-- The records of a block's held beats written. -/
def Dev.beatsTold (d : Dev) (y : Nat) (bs : List HeldBeat) (t : Nat × Nat × Nat) : Dev :=
  bs.foldl (fun d x => d.eventAt x.found 2 0x1003 (y / 36) (y % 36) [x.cell, x.syndrome, t.1] t.2.1 t.2.2) d

theorem dropBeats_eq (d : Dev) (y : Nat) :
    d.dropBeats y = (d.beatsTold y (d.blk y).beats (d.curTok y)).modBlk y fun k => { k with beats := [] } := rfl

theorem beatsTold_effect (d : Dev) (y : Nat) (bs : List HeldBeat) (t : Nat × Nat × Nat) :
    Kept [.regs, .chA, .chB, .log] d (d.beatsTold y bs t) ∧ (d.log.buf.length + bs.length ≤ 4096 →
      (d.beatsTold y bs t).log.buf.length ≤ d.log.buf.length + bs.length) := by
  induction bs generalizing d with
  | nil => exact ⟨kept_refl .., fun _ => Nat.le_refl _⟩
  | cons x bs ih =>
    obtain ⟨kept, len⟩ := ih (d.eventAt x.found 2 0x1003 (y / 36) (y % 36) [x.cell, x.syndrome, t.1] t.2.1 t.2.2)
    refine ⟨Kept_trans (kept_eventAt ..) kept, fun room => ?_⟩
    rw [List.length_cons] at room ⊢
    have put := put_room (l := d.log)
      ⟨x.found, y / 36, y % 36, 2, 0x1003, t.2.1, t.2.2, [x.cell, x.syndrome, t.1]⟩ (by omega)
    rw [eventAt_log, put.1, List.length_append, List.length_singleton] at len
    exact (len (by omega)).trans (by omega)

/-- A block out of service, by its number, and the parts of the device that a retirement's first step leaves. -/
theorem leaving_retired {cause early : Nat} {d d3 : Dev} (room : d.log.buf.length + (d.blk b).beats.length < 4096)
    (chk : (d.blk b).chkFault = false) (eng : ∀ e ∈ (d.blk b).eng, e.dead = false ∧ e.Clear d)
    (self : d3.blk b = { d.blk b with svc := .retired, takesWork := false, donor := false })
    (others : ∀ y, y ≠ b → d3.blk y = d.blk y) (retire : ∀ x ∈ d3.retire, x.1 ≠ b)
    (kept : Kept [.blocks, .tiles, .retire] d d3) :
    Leaving b (blkRec d 0 0x1071 b [cause, early]) False (fun _ => True) (fun _ => True)
      ((d3.stopHandling b).evBlk 0 0x1071 b [cause, early]) := by
  have chk3 : (d3.blk b).chkFault = false := by rw [self]; exact chk
  have stop : d3.stopHandling b = d3.dropBeats b := by
    refine if_neg ?_
    have lame : d3.lame b = false := by simp [Dev.lame, chk3]
    cases d3.current b <;> simp [Dev.runsOn, lame]
  have log3 : d3.log = d.log := kept.same .log (by decide)
  have time3 : d3.time = d.time := kept.same .time (by decide)
  have beats3 : (d3.blk b).beats = (d.blk b).beats := by rw [self]
  obtain ⟨told, len⟩ := beatsTold_effect d3 b (d3.blk b).beats (d3.curTok b)
  rw [log3, beats3] at len
  have drop := dropBeats_eq d3 b
  rw [← stop, beats3] at drop
  rw [beats3] at told
  generalize d3.beatsTold b (d.blk b).beats (d3.curTok b) = d4 at told len drop
  have blk4 := blk_of_blocks (told.same .blocks (by decide))
  have kept5 : Kept [.blocks, .regs, .chA, .chB, .log] d3 (d3.stopHandling b) := by
    rw [drop]
    exact Kept_trans (Kept_mono told (by decide)) (Kept_mono (kept_modBlk ..) (by decide))
  have own : (d3.stopHandling b).blk b =
      { d.blk b with svc := .retired, takesWork := false, donor := false, beats := [] } := by
    rw [drop, Dev.blk_modBlk_self, blk4, self]
  have other : ∀ y, y ≠ b → (d3.stopHandling b).blk y = d.blk y := fun y hy => by
    rw [drop, Dev.blk_modBlk_ne _ _ hy, blk4, others y hy]
  have log5 : (d3.stopHandling b).log.buf.length < 4096 := by
    rw [drop]
    exact Nat.lt_of_le_of_lt (len (by omega)) room
  have time5 : (d3.stopHandling b).time = d.time := (kept5.same .time (by decide)).trans time3
  have retire5 : (d3.stopHandling b).retire = d3.retire := kept5.same .retire (by decide)
  generalize d3.stopHandling b = d5 at own other log5 time5 retire5
  have kept6 : Kept [.regs, .log] d5 (d5.evBlk 0 0x1071 b [cause, early]) := kept_event_low d5 (by decide) ..
  have blk6 := blk_of_blocks (kept6.same .blocks (by decide))
  have retire6 : (d5.evBlk 0 0x1071 b [cause, early]).retire = d5.retire := kept6.same .retire (by decide)
  have log6 := event_log d5 0 0x1071 (b / 36) (b % 36) [cause, early] 0xFF 0xFFFF
  constructor
  · rw [blk6, own]
  · rw [blk6, own]
  · rw [blk6, own]; exact chk
  · rw [blk6, own]
  · intro e he
    rw [blk6, own] at he
    obtain ⟨alive, clear⟩ := eng e he
    refine ⟨alive, fun a third arb => ?_⟩
    rw [blk6]
    by_cases ha : a = b
    · rw [ha, own]
    · rw [other a ha]
      exact clear a third arb
  · rw [retire6, retire5]; exact retire
  · have put := put_room (l := d5.log) ⟨d5.time.now, b / 36, b % 36, 0, 0x1071, 0xFF, 0xFFFF, [cause, early]⟩ log5
    show _ ∈ (d5.event 0 0x1071 (b / 36) (b % 36) [cause, early] 0xFF 0xFFFF).log.buf
    rw [log6, put.1, time5]
    exact List.mem_append_right _ List.mem_cons_self
  · exact fun _ _ => .inl trivial
  · exact False.elim
  · exact False.elim

/-- A block with no beat in its engine's way is retired: what ran on it has ended. -/
theorem emptied_retireBlock (cause : Nat) (room : d.log.buf.length + (d.blk b).beats.length < 4096)
    (chk : (d.blk b).chkFault = false) (eng : ∀ e ∈ (d.blk b).eng, e.dead = false ∧ e.Clear d) :
    ∃ early, Emptied b (blkRec d 0 0x1071 b [cause, early]) (d.retireBlock b cause) := by
  unfold Dev.retireBlock
  extract_lets t d0 serving l pend d1 again d2 moves d3 early d4 d5 d6
  refine ⟨early, ?_⟩
  have kept0 : Kept [.retire] d d0 := by
    constructor
    intro f hf
    cases f with
    | retire => exact absurd List.mem_cons_self hf
    | _ => rfl
  have kept1 : Kept [.blocks, .retire] d d1 :=
    Kept_trans (Kept_mono kept0 (by decide)) (Kept_mono (kept_modBlk ..) (by decide))
  have kept2 : Kept [.tiles] d1 d2 := kept_modTile ..
  have kept3 : Kept [.tiles] d1 d3 := by
    refine Kept_trans kept2 ?_
    unfold d3
    split
    · exact kept_modTile ..
    · exact kept_refl ..
  have blk := blk_of_blocks (kept3.same .blocks (by decide))
  have retire : d3.retire = d.retire.filter fun r => r.1 != b := kept3.same .retire (by decide)
  have h4 := leaving_retired (cause := cause) (early := early) (d3 := d3) room chk eng
    ((blk b).trans (Dev.blk_modBlk_self ..)) (fun y hy => (blk y).trans (Dev.blk_modBlk_ne _ _ hy))
    (fun x hx => by
      rw [retire] at hx
      simpa using (List.mem_filter.1 hx).2)
    (Kept_trans (Kept_mono kept1 (by decide)) (Kept_mono kept3 (by decide)))
  have h5 : Emptied b (blkRec d 0 0x1071 b [cause, early]) d5 := emptied_killBlock h4
  have h6 : Emptied b (blkRec d 0 0x1071 b [cause, early]) d6 := by
    unfold d6
    split
    · exact emptied_planMoult h5
    · exact emptied_gate h5
  clear_value pend
  cases pend with
  | some m => exact emptied_planMoult h6
  | none => exact h6

end

/-- MOULT_DECISION: the block leaves service with all it ran ended (R33, steps 1 and 2). -/
theorem moultDecision_effect (b : Fin 144) (r : Nat × Nat) (s : State)
    (found : s.dev.retire.find? (fun r => r.1 = b.val) = some r)
    (room : s.dev.log.buf.length + (s.dev.blk b).beats.length < 4096) (chk : (s.dev.blk b).chkFault = false)
    (eng : ∀ e ∈ (s.dev.blk b).eng,
      e.dead = false ∧ ∀ a, e.stage = .third → e.arb = some a → (s.dev.blk a).beats = []) :
    Runs (.moultDecision b) s fun t =>
      (t.dev.blk b).svc = .retired ∧ (t.dev.blk b).takesWork = false ∧ (∀ h ∈ (t.dev.blk b).threads, h.2.due = true) ∧
      (t.dev.blk b).eng = [] ∧ (t.dev.blk b).posted = [] ∧ (∀ x ∈ t.dev.retire, x.1 ≠ b.val) ∧
      (∃ early, blkRec s.dev 0 0x1071 b [r.2, early] ∈ t.dev.log.buf) := by
  have e : exec (.moultDecision b) s = execMoultDecision b s := rfl
  unfold execMoultDecision onDev at e
  beta_reduce at e
  rw [found] at e
  obtain ⟨early, m, h⟩ := emptied_retireBlock r.2 room chk eng
  obtain ⟨none, posted, due⟩ := h.empty trivial
  exact ⟨_, e, h.svc, h.work, due, none, posted, h.retire, early, h.log⟩

/-! ## The remapping of a moult -/

/-- The spare takes the retired block's place in the block map, its pre-image area and its partition (R33, step 3). -/
def Dev.remapped (d : Dev) (b l x : Nat) : Dev :=
  let d1 := d.modTile (tileOf b) fun s => { s with map := tset (fun k => k) s.map l (x % 36) }
  ((d1.setReg (R.rxPreimg x) (d1.reg (R.rxPreimg b))).modBlk x fun k =>
    { k with slotPart := (d1.blk b).slotPart, part := (d1.blk b).slotPart }).modMoult b
      fun m => { m with spare := some x }

theorem exec_moultRemap {b : Fin 144} {m : Moult} {w l x : Nat} {s : State} (hm : s.dev.moultOf b = some m)
    (hw : m.at_ = some w) (hl : m.lblock = some l) (none : m.spare = none) (own : m.donor = Option.none)
    (time : w ≤ s.dev.wb + 1) (spare : (tileBlocks (tileOf b)).find? s.dev.spareOk = some x) :
    exec (.moultRemap b) s = .next { s with dev := s.dev.remapped b l x } := by
  have e : exec (.moultRemap b) s = execMoultRemap b s := rfl
  unfold execMoultRemap onDev at e
  beta_reduce at e
  rw [hm] at e
  dsimp only at e
  rw [hw, hl, none] at e
  dsimp only at e
  rw [if_neg (by omega), own, Option.orElse_none, spare] at e
  exact e

theorem tile_remapped (d : Dev) (b l x : Nat) : (d.remapped b l x).tile (tileOf b) =
    { d.tile (tileOf b) with
      map := tset (fun k => k) (d.tile (tileOf b)).map l (x % 36)
      moults := mapIf (fun m => m.retired == b) (fun m => { m with spare := some x }) (d.tile (tileOf b)).moults } := by
  have tiles (e : Dev) (o v : Nat) (f : Block → Block) : ((e.setReg o v).modBlk x f).tiles = e.tiles :=
    (Kept_trans (Kept_mono (kept_setReg ..) (by decide))
      (Kept_mono (q := [.regs, .blocks]) (kept_modBlk ..) (by decide))).same .tiles (by decide)
  unfold Dev.remapped Dev.modMoult
  rw [Dev.tile_modTile_self]
  unfold Dev.tile
  rw [tiles]
  have at_ := Dev.tile_modTile_self d (tileOf b) fun s => { s with map := tset (fun k => k) s.map l (x % 36) }
  unfold Dev.tile at at_
  rw [at_]

theorem moultOf_map {d t : Dev} {b : Nat} {m : Moult} {f : Moult → Moult} (hm : d.moultOf b = some m)
    (tile : (t.tile (tileOf b)).moults = mapIf (fun m => m.retired == b) f (d.tile (tileOf b)).moults)
    (keep : ∀ y : Moult, (f y).retired = y.retired) : t.moultOf b = some (f m) := by
  unfold Dev.moultOf at hm ⊢
  have own : m.retired = b := by simpa using List.find?_some hm
  rw [tile, mapIf, List.find?_map]
  have same : ((fun y : Moult => decide (y.retired = b)) ∘ fun y => if (y.retired == b) = true then f y else y) =
      fun y => decide (y.retired = b) := by
    funext y
    dsimp only [Function.comp]
    split
    · rw [keep]
    · rfl
  rw [same, hm]
  simp [own]

theorem reg_lt (d : Dev) (o : Nat) : d.reg o < 2 ^ 32 := (tget regReset d.regs o).isLt

theorem remapped_effect (d : Dev) (b l x : Nat) :
    ((d.remapped b l x).blk x).slotPart = (d.blk b).slotPart ∧ ((d.remapped b l x).blk x).part = (d.blk b).slotPart ∧
    (d.remapped b l x).reg (R.rxPreimg x) = d.reg (R.rxPreimg b) ∧ RegsBut [R.rxPreimg x] d (d.remapped b l x) ∧
    BlocksBut x d (d.remapped b l x) ∧ Kept [.tiles, .regs, .blocks] d (d.remapped b l x) := by
  unfold Dev.remapped
  have k1 := kept_modTile d (tileOf b) fun s => { s with map := tset (fun k => k) s.map l (x % 36) }
  generalize d.modTile (tileOf b) (fun s => { s with map := tset (fun k => k) s.map l (x % 36) }) = d1 at k1
  have blk1 := blk_of_blocks (k1.same .blocks (by decide))
  have regs1 : d1.regs = d.regs := k1.same .regs (by decide)
  have reg1 (o : Nat) : d1.reg o = d.reg o := by unfold Dev.reg; rw [regs1]
  dsimp only
  rw [reg1, blk1]
  have k2 := kept_setReg d1 (R.rxPreimg x) (d.reg (R.rxPreimg b))
  have set := Dev.reg_setReg_self d1 (R.rxPreimg x) (d.reg (R.rxPreimg b))
  have kept := fun o (ho : o ≠ R.rxPreimg x) => Dev.reg_setReg_ne d1 (d.reg (R.rxPreimg b)) ho
  generalize d1.setReg (R.rxPreimg x) (d.reg (R.rxPreimg b)) = d2 at k2 set kept
  have blk2 := blk_of_blocks (k2.same .blocks (by decide))
  have k3 (f : Block → Block) (g : Moult → Moult) : Kept [.blocks, .tiles] d2 ((d2.modBlk x f).modMoult b g) :=
    Kept_trans (Kept_mono (kept_modBlk ..) (by decide)) (Kept_mono (kept_modMoult ..) (by decide))
  have regs3 (f : Block → Block) (g : Moult → Moult) (o : Nat) : ((d2.modBlk x f).modMoult b g).reg o = d2.reg o := by
    unfold Dev.reg
    rw [show ((d2.modBlk x f).modMoult b g).regs = d2.regs from (k3 f g).same .regs (by decide)]
  have blk3 (f : Block → Block) (g : Moult → Moult) (y : Nat) :
      ((d2.modBlk x f).modMoult b g).blk y = (d2.modBlk x f).blk y := blk_modTile ..
  refine ⟨?_, ?_, ?_, fun o ho => ?_, fun y hy => ?_, ?_⟩
  · rw [blk3, Dev.blk_modBlk_self]
  · rw [blk3, Dev.blk_modBlk_self]
  · rw [regs3, set, Nat.mod_eq_of_lt (reg_lt ..)]
  · rw [regs3, kept o (by simpa using ho), reg1]
  · rw [blk3, Dev.blk_modBlk_ne _ _ hy, blk2, blk1]
  · exact Kept_trans (Kept_mono k1 (by decide)) (Kept_trans (Kept_mono k2 (by decide)) (Kept_mono (k3 ..) (by decide)))

theorem moultRemap_effect (b : Fin 144) (m : Moult) (w l x : Nat) (s : State) (hm : s.dev.moultOf b = some m)
    (hw : m.at_ = some w) (hl : m.lblock = some l) (none : m.spare = none) (own : m.donor = Option.none)
    (time : w ≤ s.dev.wb + 1) (spare : (tileBlocks (tileOf b)).find? s.dev.spareOk = some x) :
    Runs (.moultRemap b) s fun t =>
      t.dev.phys (tileOf b) l = tileOf b * 36 + x % 36 ∧ (t.dev.moultOf b).map (·.spare) = some (some x) ∧
      (t.dev.blk x).slotPart = (s.dev.blk b).slotPart ∧ (t.dev.blk x).part = (s.dev.blk b).slotPart ∧
      t.dev.reg (R.rxPreimg x) = s.dev.reg (R.rxPreimg b) ∧ RegsBut [R.rxPreimg x] s.dev t.dev ∧
      BlocksBut x s.dev t.dev ∧ Only [.tiles, .regs, .blocks] s t := by
  refine ⟨_, exec_moultRemap hm hw hl none own time spare, ?_⟩
  have tile := tile_remapped s.dev b l x
  obtain ⟨slot, part, copied, regs, blocks, kept⟩ := remapped_effect s.dev b l x
  refine ⟨?_, ?_, slot, part, copied, regs, blocks, kept, rfl, rfl⟩
  · dsimp only [Dev.phys]
    rw [tile, tget_tset_self]
  · dsimp only
    rw [moultOf_map hm (congrArg Tile.moults tile) fun _ => rfl]
    rfl

/-! ## A moult takes effect -/

/-- A block on which nothing runs. -/
structure Idle (b : Nat) (d : Dev) : Prop where
  eng : (d.blk b).eng = []
  beats : (d.blk b).beats = []
  arb : (d.blk b).arbFor = none
  ops : ∀ e ∈ d.ops, e.2.used = true → e.2.block = some b → e.2.status ≠ none

/-- Only a block and the lists of waiting threads differ. -/
def WaitersBut (b : Nat) (a d : Dev) : Prop :=
  ∀ k, k ≠ b → { d.blk k with waiters := [] } = { a.blk k with waiters := [] }

theorem stopHandling_idle {b : Nat} {d : Dev} (h : Idle b d) :
    d.stopHandling b = d.modBlk b fun k => { k with beats := [] } := by
  have none : d.current b = none := by simp [Dev.current, h.eng, h.arb]
  unfold Dev.stopHandling
  rw [none, if_neg (by simp), dropBeats_eq, h.beats]
  rfl

theorem toEnd_idle {b : Nat} {d : Dev} {stay : List Nat} (h : Idle b d) : d.toEnd b stay = [] := by
  unfold Dev.toEnd
  rw [List.filter_eq_nil_iff.2, List.map_nil]
  rintro e he hp
  simp only [Bool.and_eq_true, beq_iff_eq, Option.isNone_iff_eq_none] at hp
  obtain ⟨⟨⟨used, block⟩, status⟩, -⟩ := hp
  exact h.ops e he used block status

/-- To end all that runs on an idle block is to empty its lists. -/
theorem killBlock_idle {b stS stD : Nat} {d : Dev} (h : Idle b d) :
    d.killBlock b stS stD = (d.modBlk b fun k => { k with beats := [] }).cleared b := by
  rw [killBlock_eq, stopHandling_idle h]
  have h1 : Idle b (d.modBlk b fun k => { k with beats := [] }) := by
    have ops : (d.modBlk b fun k => { k with beats := [] }).ops = d.ops := (kept_modBlk ..).same .ops (by decide)
    constructor
    · rw [Dev.blk_modBlk_self]; exact h.eng
    · rw [Dev.blk_modBlk_self]
    · rw [Dev.blk_modBlk_self]; exact h.arb
    · rw [ops]; exact h.ops
  rw [toEnd_idle h1, List.foldl_nil, Dev.arbEnds, h1.arb]

theorem cleared_noEng {b : Nat} {d : Dev} (h : (d.blk b).eng = []) :
    Kept [.blocks] d (d.cleared b) ∧ WaitersBut b d (d.cleared b) ∧
    ((d.cleared b).blk b).svc = (d.blk b).svc ∧ ((d.cleared b).blk b).powered = (d.blk b).powered ∧
    ((d.cleared b).blk b).part = (d.blk b).part := by
  have none : (d.killEng b fun e => !d.runsOn b e) = d := by rw [killEng_eq, h]; rfl
  unfold Dev.cleared
  rw [none]
  refine ⟨Kept_trans (kept_unwait ..) (kept_modBlk ..), fun k hk => ?_, ?_, ?_, ?_⟩
  · rw [Dev.blk_modBlk_ne _ _ hk, blk_unwait]
  all_goals rw [Dev.blk_modBlk_self, blk_unwait]

/-- A retired block on which nothing runs loses its power and its partition. -/
theorem gate_idle {b : Nat} {d : Dev} (h : Idle b d) :
    Kept [.blocks] d (d.gate b) ∧ WaitersBut b d (d.gate b) ∧ ((d.gate b).blk b).svc = (d.blk b).svc ∧
    ((d.gate b).blk b).powered = false ∧ ((d.gate b).blk b).part = none := by
  unfold Dev.gate
  have k1 := kept_modBlk d b fun k => { k with powered := false, part := none, slotPart := none }
  have own := Dev.blk_modBlk_self d b fun k => { k with powered := false, part := none, slotPart := none }
  have others := fun k (hk : k ≠ b) =>
    Dev.blk_modBlk_ne d (fun k => { k with powered := false, part := none, slotPart := none }) hk
  generalize d.modBlk b (fun k => { k with powered := false, part := none, slotPart := none }) = d1 at k1 own others
  have ops1 : d1.ops = d.ops := k1.same .ops (by decide)
  have h1 : Idle b d1 :=
    ⟨by rw [own]; exact h.eng, by rw [own]; exact h.beats, by rw [own]; exact h.arb, by rw [ops1]; exact h.ops⟩
  rw [killBlock_idle h1]
  have own2 := Dev.blk_modBlk_self d1 b fun k => { k with beats := [] }
  have others2 := fun k (hk : k ≠ b) => Dev.blk_modBlk_ne d1 (fun k => { k with beats := [] }) hk
  have k2 := kept_modBlk d1 b fun k => { k with beats := [] }
  generalize d1.modBlk b (fun k => { k with beats := [] }) = d2 at own2 others2 k2
  obtain ⟨k3, waiters, svc, powered, part⟩ := cleared_noEng (b := b) (d := d2) (by rw [own2]; exact h1.eng)
  refine ⟨Kept_trans (Kept_trans k1 k2) k3, fun k hk => ?_, ?_, ?_, ?_⟩
  · rw [waiters k hk, others2 k hk, others k hk]
  · rw [svc, own2, own]
  · rw [powered, own2, own]
  · rw [part, own2, own]

theorem startThreads_dynamic {d : Dev} (t l : Nat) (h : ∀ c ∈ d.ctxs, c.2.static = false) : d.startThreads t l = d := by
  unfold Dev.startThreads
  generalize d.ctxs = cs at h
  induction cs with
  | nil => rfl
  | cons c cs ih =>
    rw [List.foldl_cons, if_neg (by simp [h c List.mem_cons_self])]
    exact ih fun x hx => h x (List.mem_cons_of_mem _ hx)

/-- The spare in service and the retired block gated, the moult done in the tile (R33, step 4). -/
def Dev.moulted (d : Dev) (b l x : Nat) : Dev :=
  let d := (d.modBlk x fun k => { k with svc := .inService, donor := false, takesWork := true }).gate b
  let new := l :: ((d.tile (tileOf b)).outLb.filter fun g => d.phys (tileOf b) g == b)
  d.modTile (tileOf b) fun s => { s with
    moults := s.moults.filter fun m => m.retired != b
    moved := s.moved.filter (fun g => !new.contains g) ++ new }

/-- The end of a moult: its record, the static threads on the spare, and the record of a tile's last spare. -/
def Dev.moultTold (d : Dev) (b l x : Nat) (was : Bool) : Dev :=
  let d := (d.evBlk 0 0x1072 x [l, b % 36, x % 36]).startThreads (tileOf b) l
  if was && (tileBlocks (tileOf b)).all (fun k => (d.blk k).svc != .standby) then
    d.event 5 0x1070 (tileOf b) 0xFF [tileOf b, x % 36]
  else d

theorem exec_moultEffect {b : Fin 144} {m : Moult} {w l x : Nat} {s : State} (hm : s.dev.moultOf b = some m)
    (hw : m.at_ = some w) (hl : m.lblock = some l) (hx : m.spare = some x) (time : w ≤ s.dev.wb) :
    exec (.moultEffect b) s = .next { s with
      dev := (s.dev.moulted b l x).moultTold b l x ((s.dev.blk x).svc == .standby) } := by
  have e : exec (.moultEffect b) s = execMoultEffect b s := rfl
  unfold execMoultEffect onDev at e
  beta_reduce at e
  rw [hm] at e
  dsimp only at e
  rw [hw, hl, hx] at e
  dsimp only at e
  rw [if_neg (by omega)] at e
  exact e

theorem moulted_effect {b l x : Nat} {d : Dev} (h : Idle b d) (hx : x ≠ b) :
    Kept [.blocks, .tiles] d (d.moulted b l x) ∧
    ((d.moulted b l x).blk x).svc = .inService ∧ ((d.moulted b l x).blk x).takesWork = true ∧
    ((d.moulted b l x).blk x).donor = false ∧ ((d.moulted b l x).blk b).powered = false ∧
    ((d.moulted b l x).blk b).part = none ∧ ((d.moulted b l x).blk b).svc = (d.blk b).svc ∧
    (∀ y ∈ ((d.moulted b l x).tile (tileOf b)).moults, y.retired ≠ b) ∧
    (∀ k, k ≠ b → k ≠ x → { (d.moulted b l x).blk k with waiters := [] } = { d.blk k with waiters := [] }) := by
  unfold Dev.moulted
  have k1 := kept_modBlk d x fun k => { k with svc := .inService, donor := false, takesWork := true }
  have own := Dev.blk_modBlk_self d x fun k => { k with svc := .inService, donor := false, takesWork := true }
  have others := fun k (hk : k ≠ x) =>
    Dev.blk_modBlk_ne d (fun k => { k with svc := .inService, donor := false, takesWork := true }) hk
  generalize d.modBlk x (fun k => { k with svc := .inService, donor := false, takesWork := true }) = d1 at k1 own others
  have ops1 : d1.ops = d.ops := k1.same .ops (by decide)
  have own1 := others b (Ne.symm hx)
  have h1 : Idle b d1 :=
    ⟨by rw [own1]; exact h.eng, by rw [own1]; exact h.beats, by rw [own1]; exact h.arb, by rw [ops1]; exact h.ops⟩
  obtain ⟨k2, waiters, svc, powered, part⟩ := gate_idle h1
  generalize d1.gate b = d2 at k2 waiters svc powered part
  have spare := waiters x hx
  rw [own] at spare
  dsimp only
  refine ⟨Kept_trans (Kept_mono (Kept_trans k1 k2) (by decide)) (Kept_mono (kept_modTile ..) (by decide)), ?_⟩
  simp only [blk_modTile, Dev.tile_modTile_self]
  refine ⟨(congrArg Block.svc spare :), (congrArg Block.takesWork spare :), (congrArg Block.donor spare :), powered,
    part, svc.trans (by rw [own1]), fun y hy => ?_, fun k hb hk => ?_⟩
  · simpa using (List.mem_filter.1 hy).2
  · rw [waiters k hb, others k hk]

theorem moultTold_effect {b l x : Nat} {d : Dev} (was : Bool) (dynamic : ∀ c ∈ d.ctxs, c.2.static = false) :
    Kept [.regs, .log] d (d.moultTold b l x was) ∧ RegsBut [R.hpEvlogLost] d (d.moultTold b l x was) ∧
    ((was && (tileBlocks (tileOf b)).all fun k => (d.blk k).svc != .standby) = false →
      Wrote d (d.moultTold b l x was) (blkRec d 0 0x1072 x [l, b % 36, x % 36])) := by
  unfold Dev.moultTold
  have k1 : Kept [.regs, .log] d (d.evBlk 0 0x1072 x [l, b % 36, x % 36]) := kept_event_low d (by decide) ..
  have r1 : RegsBut [R.hpEvlogLost] d (d.evBlk 0 0x1072 x [l, b % 36, x % 36]) := event_reg d _ _ _ _ _ _ _
  have w1 : Wrote d (d.evBlk 0 0x1072 x [l, b % 36, x % 36]) (blkRec d 0 0x1072 x [l, b % 36, x % 36]) :=
    event_wrote d ..
  generalize d.evBlk 0 0x1072 x [l, b % 36, x % 36] = e at k1 r1 w1
  have ctxs : e.ctxs = d.ctxs := k1.same .ctxs (by decide)
  have blk := blk_of_blocks (k1.same .blocks (by decide))
  rw [startThreads_dynamic _ _ (ctxs ▸ dynamic)]
  simp only [blk]
  split
  · rename_i last
    refine ⟨Kept_trans k1 (kept_event_low e (by decide) ..), RegsBut_trans r1 (event_reg e _ _ _ _ _ _ _),
      fun more => ?_⟩
    exact absurd (more.symm.trans last) (by decide)
  · exact ⟨k1, r1, fun _ => w1⟩

theorem wrote_congr {a a' b : Dev} {r : EventRecord} (h : Wrote a b r) (log : a.log = a'.log) : Wrote a' b r := by
  unfold Wrote at h ⊢
  rwa [← log]

theorem moultEffect_effect (b : Fin 144) (m : Moult) (w l x : Nat) (s : State) (hm : s.dev.moultOf b = some m)
    (hw : m.at_ = some w) (hl : m.lblock = some l) (hx : m.spare = some x) (time : w ≤ s.dev.wb) (other : x ≠ b)
    (dynamic : ∀ c ∈ s.dev.ctxs, c.2.static = false) (eng : (s.dev.blk b).eng = []) (beats : (s.dev.blk b).beats = [])
    (arb : (s.dev.blk b).arbFor = none)
    (ops : ∀ e ∈ s.dev.ops, e.2.used = true → e.2.block = some b.val → e.2.status ≠ none) :
    Runs (.moultEffect b) s fun t =>
      (t.dev.blk x).svc = .inService ∧ (t.dev.blk x).takesWork = true ∧ (t.dev.blk x).donor = false ∧
      (t.dev.blk b).powered = false ∧ (t.dev.blk b).part = none ∧
      (∀ y ∈ (t.dev.tile (tileOf b)).moults, y.retired ≠ b.val) ∧
      (((∃ k ∈ tileBlocks (tileOf b), k ≠ x ∧ (s.dev.blk k).svc = .standby) ∨ (s.dev.blk x).svc ≠ .standby) →
        Wrote s.dev t.dev (blkRec s.dev 0 0x1072 x [l, b.val % 36, x % 36])) ∧
      (∀ k, k ≠ b.val → k ≠ x → { t.dev.blk k with waiters := [] } = { s.dev.blk k with waiters := [] }) ∧
      RegsBut [R.hpEvlogLost] s.dev t.dev ∧ Only [.blocks, .tiles, .log, .regs] s t := by
  refine ⟨_, exec_moultEffect hm hw hl hx time, ?_⟩
  obtain ⟨kept, serves, takes, donor, gated, alone, retired, moults, rest⟩ :=
    moulted_effect (l := l) (x := x) ⟨eng, beats, arb, ops⟩ other
  generalize s.dev.moulted b l x = d at kept serves takes donor gated alone retired moults rest
  have ctxs : d.ctxs = s.dev.ctxs := kept.same .ctxs (by decide)
  have log : d.log = s.dev.log := kept.same .log (by decide)
  have time : d.time = s.dev.time := kept.same .time (by decide)
  have regs : d.regs = s.dev.regs := kept.same .regs (by decide)
  obtain ⟨told, tregs, wrote⟩ :=
    moultTold_effect (b := b) (l := l) (x := x) ((s.dev.blk x).svc == .standby) (ctxs ▸ dynamic)
  have record : blkRec d 0 0x1072 x [l, b % 36, x % 36] = blkRec s.dev 0 0x1072 x [l, b % 36, x % 36] := by
    rw [blkRec, blkRec, time]
  rw [record] at wrote
  have more : ((∃ k ∈ tileBlocks (tileOf b), k ≠ x ∧ (s.dev.blk k).svc = .standby) ∨ (s.dev.blk x).svc ≠ .standby) →
      ((s.dev.blk x).svc == .standby && (tileBlocks (tileOf b)).all fun k => (d.blk k).svc != .standby) = false := by
    rintro (⟨k, hk, hx, standby⟩ | busy)
    · have still : (d.blk k).svc = .standby := by
        by_cases hb : k = b
        · rw [hb, retired, ← hb, standby]
        · exact (congrArg Block.svc (rest k hb hx)).trans standby
      rw [List.all_eq_false.2 ⟨k, hk, by simp [still]⟩, Bool.and_false]
    · rw [beq_false_of_ne busy, Bool.false_and]
  generalize d.moultTold b l x ((s.dev.blk x).svc == .standby) = t at told tregs wrote
  have blk := blk_of_blocks (told.same .blocks (by decide))
  have tile : t.tile (tileOf b) = d.tile (tileOf b) := by
    rw [Dev.tile, Dev.tile, show t.tiles = d.tiles from told.same .tiles (by decide)]
  dsimp only
  simp only [blk, tile]
  exact ⟨serves, takes, donor, gated, alone, moults, fun h => wrote_congr (wrote (more h)) log, rest,
    RegsBut_trans (regsBut_of_regs _ regs) tregs,
    Kept_trans (Kept_mono kept (by decide)) (Kept_mono told (by decide)), rfl, rfl⟩

/-! ## An emptied donor -/

/-- The moults that wait for a donor to empty are due at the next control-frame tick (R34). -/
def Dev.donorGone (d : Dev) (b : Nat) : Dev :=
  let due (m : Moult) : Moult :=
    if m.donor = some b ∧ m.at_ = none then { m with at_ := some (roundUp (d.wb + 1) d.lc) } else m
  d.modTile (tileOf b) fun t => { t with moults := t.moults.map due }

theorem exec_donorEmptied {b : Fin 144} {s : State} (donor : (s.dev.blk b).donor = true) (eng : (s.dev.blk b).eng = [])
    (idle : ∀ e ∈ (s.dev.blk b).threads, e.2.op = none) :
    exec (.donorEmptied b) s = .next { s with dev := s.dev.donorGone b } := by
  have e : exec (.donorEmptied b) s = execDonorEmptied b s := rfl
  unfold execDonorEmptied at e
  refine e.trans (onDevIf_met (Dev.donorGone · b) ?_)
  rw [donor, eng, List.all_eq_true.2 fun e he => by simp [idle e he]]
  rfl

theorem donorEmptied_effect (b : Fin 144) (s : State) (donor : (s.dev.blk b).donor = true)
    (eng : (s.dev.blk b).eng = []) (idle : ∀ e ∈ (s.dev.blk b).threads, e.2.op = none) :
    Runs (.donorEmptied b) s fun t =>
      (∀ m ∈ (s.dev.tile (tileOf b)).moults, m.donor = some b.val → m.at_ = none →
        { m with at_ := some (roundUp (s.dev.wb + 1) s.dev.lc) } ∈ (t.dev.tile (tileOf b)).moults) ∧
      (∀ m ∈ (s.dev.tile (tileOf b)).moults, m.donor ≠ some b.val → m ∈ (t.dev.tile (tileOf b)).moults) ∧
      (∀ n, n ≠ tileOf b → t.dev.tile n = s.dev.tile n) ∧ Only [.tiles] s t := by
  refine ⟨_, exec_donorEmptied donor eng idle, fun m hm own free => ?_, fun m hm other => ?_, fun n hn => ?_,
    ?_, rfl, rfl⟩
  · rw [Dev.donorGone, Dev.tile_modTile_self]
    exact List.mem_map.2 ⟨m, hm, if_pos ⟨own, free⟩⟩
  · rw [Dev.donorGone, Dev.tile_modTile_self]
    exact List.mem_map.2 ⟨m, hm, if_neg fun h => other h.1⟩
  · exact Dev.tile_modTile_ne _ _ hn
  · unfold Dev.donorGone
    dsimp only
    exact kept_modTile ..

/-! ## The repair record -/

/-- What a record's write leaves in force is what it wrote. -/
theorem cur_write {α : Type} (r : Rec α) (now : Nat) (x : α) : (r.write now x).cur = x := by
  unfold Rec.cur
  by_cases h : r.second = true
  · have first : (r.write now x).second = false := by
      rw [Rec.write, if_pos h, Rec.second]
      simp
    rw [first, Rec.write, if_pos h]
    rfl
  · have second : (r.write now x).second = true := by
      rw [Rec.write, if_neg h, Rec.second]
      simp
    rw [second, Rec.write, if_neg h]
    rfl

theorem exec_repairRecordWrite_reset {s : State} (h : s.dev.chip.computeReset = true) :
    exec .repairRecordWrite s = .next { s with nv := { s.nv with store := { s.nv.store with
      repairRec := s.nv.store.repairRec.write s.dev.time.now
        { s.nv.store.repair with phases := s.dev.pwr.isolated } } } } := by
  have e : exec .repairRecordWrite s = execRepairRecordWrite s := rfl
  unfold execRepairRecordWrite onNv at e
  beta_reduce at e
  dsimp only at e
  rw [if_pos h] at e
  exact e

theorem exec_repairRecordWrite {s : State} (h : s.dev.chip.computeReset = false) (lock : s.dev.chip.lock = true) :
    exec .repairRecordWrite s = .next { s with nv := { s.nv with store := { s.nv.store with
      repairRec := s.nv.store.repairRec.write s.dev.time.now s.dev.record_ } } } := by
  have e : exec .repairRecordWrite s = execRepairRecordWrite s := rfl
  unfold execRepairRecordWrite onNv at e
  beta_reduce at e
  dsimp only at e
  rw [if_neg (by simp [h]), if_neg (by simp [lock])] at e
  exact e

theorem mem_record_blocks (d : Dev) {b : Nat} (h : b < 144) : b ∈ d.record_.blocks ↔ (d.blk b).svc = .retired := by
  have all : b ∈ allBlocks := List.mem_range.2 h
  simp [Dev.record_, all]

theorem repairRecordWrite_effect (s : State) (h : s.dev.chip.computeReset = false) (lock : s.dev.chip.lock = true) :
    Runs .repairRecordWrite s fun t =>
      (∀ b, b < 144 → (b ∈ t.nv.store.repair.blocks ↔ (s.dev.blk b).svc = .retired)) ∧
      t.nv.store.repair.phases = s.dev.pwr.isolated ∧ t.nv.store.repair.safety = s.dev.dram.safety ∧
      t.nv.store.repair.general = s.dev.dram.general ∧
      t.nv.store.repairRec = s.nv.store.repairRec.write s.dev.time.now t.nv.store.repair ∧
      t.nv = { s.nv with store := { s.nv.store with repairRec := t.nv.store.repairRec } } ∧ t.dev = s.dev ∧
      t.pending = s.pending := by
  refine ⟨_, exec_repairRecordWrite h lock, ?_⟩
  dsimp only [Store.repair]
  rw [cur_write]
  exact ⟨fun b hb => mem_record_blocks s.dev hb, rfl, rfl, rfl, rfl, rfl, rfl, rfl⟩

theorem repairRecordWrite_reset_effect (s : State) (h : s.dev.chip.computeReset = true) :
    Runs .repairRecordWrite s fun t =>
      t.nv.store.repair = { s.nv.store.repair with phases := s.dev.pwr.isolated } ∧
      t.nv = { s.nv with store := { s.nv.store with repairRec := t.nv.store.repairRec } } ∧ t.dev = s.dev ∧
      t.pending = s.pending :=
  ⟨_, exec_repairRecordWrite_reset h, cur_write .., rfl, rfl, rfl⟩

/-- Settles O27, command by command. The decision rests on `Leaving`, which each step that ends work keeps of the
retired block; once the block is emptied, nothing that the moults around it do reaches it again. -/
theorem retirementMovesToASpare : Obligations.RetirementMovesToASpare := by
  unfold Obligations.RetirementMovesToASpare
  exact ⟨moultDecision_effect, moultRemap_effect, moultEffect_effect, donorEmptied_effect,
    fun s => ⟨repairRecordWrite_effect s, repairRecordWrite_reset_effect s⟩⟩

end Sys2Proof.Machine

namespace Sys2Proof.Machine

/-! ## The step -/

/-- What idling leaves: T one nanosecond on, or the state as it was. -/
theorem idle_eq (s : State) : idle s = .next { s with dev := { s.dev with time := { s.dev.time with now :=
    if s.dev.chip.phase ≠ .modReset ∧ (s.dev.time.now + 1) % wingbeatNs ≠ 0 ∧ s.dev.time.now + 1 < 2 ^ 64 then
      s.dev.time.now + 1
    else s.dev.time.now } } } := by
  unfold idle onDevIf
  simp only [decide_eq_true_eq]
  by_cases h : s.dev.chip.phase ≠ .modReset ∧ (s.dev.time.now + 1) % wingbeatNs ≠ 0 ∧ s.dev.time.now + 1 < 2 ^ 64
  · rw [if_pos h, if_pos h]
  · rw [if_neg h, if_neg h]

/-- Settles O55: `step` looks at the front of the queue alone. -/
theorem stepRunsTheFrontCommand : Obligations.StepRunsTheFrontCommand := by
  unfold Obligations.StepRunsTheFrontCommand
  refine ⟨fun c rest s => rfl, fun s empty => ⟨_, ?_, rfl⟩⟩
  obtain ⟨dev, nv, pending⟩ := s
  cases empty
  exact idle_eq _

end Sys2Proof.Machine

namespace Sys2Proof.Machine

/-! ## Threads and their instructions -/

section
variable {θ : ThreadId} {a b c d : Dev} {f : Thread → Thread}

@[simp] theorem thr_setThr_self (k : Block) (n : Nat) (h : Thread) : (k.setThr n h).thr n = h := tget_tset_self ..

theorem thr_setThr_ne (k : Block) {n m : Nat} (h : Thread) (hm : m ≠ n) : (k.setThr n h).thr m = k.thr m :=
  tget_tset_ne _ _ _ hm

theorem thr_eq (d : Dev) (θ : ThreadId) : d.thr θ = (d.blk θ.b).thr (thrNum θ) := rfl

theorem kept_modT (d : Dev) (θ : ThreadId) (f : Thread → Thread) : Kept [.blocks] d (d.modT θ f) := kept_modThr ..

theorem kept_issued (d : Dev) (θ : ThreadId) : Kept [.blocks] d (d.issued θ) := kept_modBlk ..

@[simp] theorem thr_modT (d : Dev) (θ : ThreadId) (f : Thread → Thread) : (d.modT θ f).thr θ = f (d.thr θ) := by
  rw [thr_eq, Dev.modT, Dev.modThr, Dev.blk_modBlk_self, thr_setThr_self, thr_eq]

@[simp] theorem thr_issued (d : Dev) (θ : ThreadId) : (d.issued θ).thr θ = d.thr θ := by
  rw [thr_eq, Dev.issued, Dev.blk_modBlk_self]
  rfl

theorem tx_issued (d : Dev) (θ : ThreadId) (r : XReg) : (d.issued θ).tx θ r = d.tx θ r := by
  rw [Dev.tx, thr_issued, Dev.tx]

theorem tok_issued (d : Dev) (θ : ThreadId) : (d.issued θ).tok θ = d.tok θ := by
  rw [Dev.tok, thr_issued, Dev.tok]

theorem thr_of_blocks (h : b.blocks = a.blocks) (θ : ThreadId) : b.thr θ = a.thr θ := by
  unfold Dev.thr Dev.blk
  rw [h]

theorem threadOnly_of_blocks (h : b.blocks = a.blocks) (θ : ThreadId) : ThreadOnly θ a b := by
  have blk : ∀ n, b.blk n = a.blk n := blk_of_blocks h
  simp [ThreadOnly, BlocksBut, blk]

theorem ThreadOnly_trans (h : ThreadOnly θ a b) (k : ThreadOnly θ b c) : ThreadOnly θ a c := by
  obtain ⟨thr, blk, last, other⟩ := h
  obtain ⟨thr', blk', last', other'⟩ := k
  exact ⟨fun n hn => (thr' n hn).trans (thr n hn), blk'.trans blk, fun c hc => (last' c hc).trans (last c hc),
    fun n hn => (other' n hn).trans (other n hn)⟩

theorem threadOnly_modT (d : Dev) (θ : ThreadId) (f : Thread → Thread) : ThreadOnly θ d (d.modT θ f) := by
  unfold ThreadOnly Dev.modT Dev.modThr
  rw [Dev.blk_modBlk_self]
  exact ⟨fun n hn => thr_setThr_ne _ _ hn, rfl, fun _ _ => rfl, fun n hn => Dev.blk_modBlk_ne _ _ hn⟩

theorem threadOnly_issued (d : Dev) (θ : ThreadId) : ThreadOnly θ d (d.issued θ) := by
  unfold ThreadOnly Dev.issued
  rw [Dev.blk_modBlk_self]
  exact ⟨fun _ _ => rfl, rfl, fun c hc => tget_tset_ne _ _ _ hc, fun n hn => Dev.blk_modBlk_ne _ _ hn⟩

end

theorem onThread_runs {θ : ThreadId} {i : Instr} (f : Dev → Dev) {s : State} (h : s.dev.canRun θ i = true) :
    onThread θ i f s = .next { s with dev := f (s.dev.issued θ) } := onDevIf_met _ h


/-! ## The end of an operation -/

/-- A property `P` that settling an operation brings, and that the end of its engine operations and the freeing of its
thread keep, has become `Q` at the end of the operation when `Q` is what the last step, the release of the block or the
new start of a static thread, makes of it. -/
theorem endOp_leads {P Q : Dev → Prop} {d : Dev} {k st : Nat} {kill : Bool}
    (start : (d.op k).used = false ∨ (d.op k).status ≠ none → Q d)
    (settled : P (d.settle k st)) (killed : ∀ e b, P e → P (e.killEng b fun x => x.token = k))
    (freed : ∀ e b n, P e → P ((e.modBlk b fun q => q.freeThr n).unwait (· == (b, n))))
    (unplaced : P (d.settle k st) → Q (d.settle k st))
    (released : ∀ e b, P e → Q (e.releaseBlk b)) (restarted : ∀ e b n c, P e → Q (e.startStatic b n c)) :
    Q (d.endOp k st kill) := by
  unfold Dev.endOp
  dsimp only
  split
  · rename_i ended
    exact start ended
  · split
    · exact unplaced settled
    · rename_i b _
      generalize hx : (if kill = true then _ else _ : Dev) = x
      have px : P x := by
        rw [← hx]
        split
        · exact killed _ b settled
        · exact settled
      split
      · exact released x b px
      · rename_i n _
        generalize hy : (if ((x.blk b).thr n).op = some k then _ else _ : Dev) = y
        have py : P y := by
          rw [← hy]
          split
          · exact freed x b n px
          · exact px
        split
        · exact restarted y b n _ py
        · exact released y b py

/-- What settling an operation, ending its engine operations, freeing its thread and block, and starting a static
thread afresh all keep, the end of an operation keeps. -/
theorem endOp_keeps {P : Dev → Prop} {d : Dev} {k st : Nat} {kill : Bool} (start : P d)
    (settled : P (d.settle k st)) (killed : ∀ e b, P e → P (e.killEng b fun x => x.token = k))
    (freed : ∀ e b n, P e → P ((e.modBlk b fun q => q.freeThr n).unwait (· == (b, n))))
    (released : ∀ e b, P e → P (e.releaseBlk b)) (restarted : ∀ e b n c, P e → P (e.startStatic b n c)) :
    P (d.endOp k st kill) := endOp_leads (fun _ => start) settled killed freed id released restarted

/-- Every register but the occupancy registers of the trackers reads as before. -/
def PeaksOnly (a b : Dev) : Prop := ∀ o, (∀ t, o ≠ R.qmTrkUsed t) → b.reg o = a.reg o

theorem peaksOnly_of_regs {a b : Dev} (h : b.regs = a.regs) : PeaksOnly a b := fun o _ => by
  unfold Dev.reg
  rw [h]

theorem PeaksOnly_trans {a b c : Dev} (h : PeaksOnly a b) (k : PeaksOnly b c) : PeaksOnly a c :=
  fun o ho => (k o ho).trans (h o ho)

theorem peaksOnly_of_kept {p : List DevField} {a b : Dev} (h : Kept p a b) (hp : .regs ∉ p) : PeaksOnly a b :=
  peaksOnly_of_regs (h.same .regs hp)

theorem peaksOnly_alloc (d : Dev) (t : Nat) (o : Op) : PeaksOnly d (d.alloc t o).2 :=
  fun _ ho => Dev.reg_setFld_ne _ _ _ _ (ho t)

theorem peaksOnly_startStatic (d : Dev) (b n c : Nat) : PeaksOnly d (d.startStatic b n c) := by
  unfold Dev.startStatic
  exact PeaksOnly_trans (peaksOnly_alloc d _ _) (peaksOnly_of_regs rfl)

/-- The end of an operation writes no register but the trackers' occupancy. -/
theorem peaksOnly_endOp (d : Dev) (k st : Nat) (kill : Bool) : PeaksOnly d (d.endOp k st kill) :=
  endOp_keeps (peaksOnly_of_regs rfl) (peaksOnly_of_regs rfl)
    (fun e b h => PeaksOnly_trans h (peaksOnly_of_kept (kept_killEng e b _) (by decide)))
    (fun _ _ _ h => PeaksOnly_trans h (peaksOnly_of_regs rfl))
    (fun _ _ h => PeaksOnly_trans h (peaksOnly_of_regs rfl))
    (fun _ _ _ _ h => PeaksOnly_trans h (peaksOnly_startStatic _ _ _ _))

theorem Counted_of_peaksOnly {a b c : Dev} {o n : Nat} (h : Counted a b o n) (k : PeaksOnly b c)
    (ho : ∀ t, o ≠ R.qmTrkUsed t) : Counted a c o n := (k o ho).trans h

theorem gcExc_ne_qmTrkUsed (n t : Nat) : R.gcExc n ≠ R.qmTrkUsed t := by
  unfold R.gcExc R.qmTrkUsed
  omega

end Sys2Proof.Machine

namespace Sys2Proof.Machine

/-! ## Tick waits (R37, R108, R470) -/

/-- A thread begins a wait. -/
def Dev.awaits (d : Dev) (θ : ThreadId) (w : Wait) : Dev := d.modT θ fun h => { h with wait := w, moved := true }

/-- A static thread's item ends as it next waits for a tag (R470). -/
def Dev.itemEnd (d : Dev) (θ : ThreadId) : Dev :=
  if (d.thr θ).static.isSome then
    (d.settle (d.tok θ) (taskStatus (d.thr θ) (d.op (d.tok θ)))).modT θ fun h => { h with op := none }
  else d

section
variable {θ : ThreadId} {rd rs1 rs2 : XReg} {s : State}

theorem exec_gwTwaitTag (h : s.dev.canRun θ (.gwTwaitTag θ rd rs1 rs2) = true) :
    exec (.gwTwaitTag θ rd rs1 rs2) s = .next { s with
      dev := ((s.dev.issued θ).itemEnd θ).awaits θ
        (.tag (bits (s.dev.tx θ rs1) 0 16) (s.dev.waitLimit (s.dev.tx θ rs2)) rd.val) } := by
  rw [← tx_issued, ← tx_issued s.dev θ rs2]
  have e : exec (.gwTwaitTag θ rd rs1 rs2) s = execGwTwaitTag θ rd rs1 rs2 s := rfl
  unfold execGwTwaitTag at e
  exact e.trans (onThread_runs _ h)

theorem exec_gwTwaitClass (h : s.dev.canRun θ (.gwTwaitClass θ rd rs1 rs2) = true) :
    exec (.gwTwaitClass θ rd rs1 rs2) s = .next { s with
      dev := if 4 < bits (s.dev.tx θ rs1) 0 3 then (s.dev.issued θ).excPoison θ 2
        else (s.dev.issued θ).awaits θ (.cls (bits (s.dev.tx θ rs1) 0 3) (s.dev.waitLimit (s.dev.tx θ rs2)) rd.val) } := by
  rw [← tx_issued, ← tx_issued s.dev θ rs2]
  have e : exec (.gwTwaitClass θ rd rs1 rs2) s = execGwTwaitClass θ rd rs1 rs2 s := rfl
  unfold execGwTwaitClass at e
  exact e.trans (onThread_runs _ h)

/-- What ends with the item: of the thread its operation, of the operations the status that is decided. -/
theorem itemEnd_effect (d : Dev) (θ : ThreadId) :
    ThreadOnly θ d (d.itemEnd θ) ∧ Kept [.blocks, .ops] d (d.itemEnd θ) ∧
      (∀ r, ((d.itemEnd θ).thr θ).rx r = (d.thr θ).rx r) ∧ (∀ j, j ≠ d.tok θ → (d.itemEnd θ).op j = d.op j) ∧
      ((d.thr θ).static = none → d.itemEnd θ = d) ∧
      ((d.thr θ).static ≠ none → ((d.itemEnd θ).thr θ).op = none ∧
        ((d.op (d.tok θ)).used = true → (d.op (d.tok θ)).status = none →
          ((d.itemEnd θ).op (d.tok θ)).status = some (taskStatus (d.thr θ) (d.op (d.tok θ))))) := by
  by_cases h : (d.thr θ).static.isSome = true
  · rw [Dev.itemEnd, if_pos h]
    generalize hm : d.settle (d.tok θ) (taskStatus (d.thr θ) (d.op (d.tok θ))) = m
    have blocks : m.blocks = d.blocks := by rw [← hm]; rfl
    have ops : ∀ j, (m.modT θ fun h => { h with op := none }).op j = m.op j := fun _ => rfl
    refine ⟨ThreadOnly_trans (threadOnly_of_blocks blocks θ) (threadOnly_modT ..),
      Kept_trans (Kept_mono (hm ▸ kept_settle ..) (by decide)) (Kept_mono (kept_modT ..) (by decide)), fun r => ?_,
      fun j hj => ?_, fun none => ?_, fun _ => ⟨?_, fun used status => ?_⟩⟩
    · rw [thr_modT, thr_of_blocks blocks]
      rfl
    · rw [ops, ← hm]
      exact Dev.op_modOp_ne _ _ hj
    · simp [none] at h
    · rw [thr_modT]
    · rw [ops, ← hm, Dev.settle, Dev.op_modOp_self, if_pos ⟨used, status⟩]
  · rw [Dev.itemEnd, if_neg h]
    have static : (d.thr θ).static = none := by simpa using h
    exact ⟨threadOnly_of_blocks rfl θ, kept_refl .., fun _ => rfl, fun _ _ => rfl, fun _ => rfl,
      fun some => absurd static some⟩

theorem gwTwaitTag_effect (h : s.dev.canRun θ (.gwTwaitTag θ rd rs1 rs2) = true) :
    Runs (.gwTwaitTag θ rd rs1 rs2) s fun t =>
      (t.dev.thr θ).wait = .tag (bits (s.dev.tx θ rs1) 0 16)
        (if s.dev.tx θ rs2 = 0 then none else some (s.dev.wb + s.dev.tx θ rs2)) rd.val ∧
      (∀ r, (t.dev.thr θ).rx r = (s.dev.thr θ).rx r) ∧
      ((s.dev.thr θ).static = none → (t.dev.thr θ).op = (s.dev.thr θ).op ∧ t.dev.ops = s.dev.ops) ∧
      ((s.dev.thr θ).static ≠ none → (t.dev.thr θ).op = none ∧
        ((s.dev.op (s.dev.tok θ)).used = true → (s.dev.op (s.dev.tok θ)).status = none →
          (t.dev.op (s.dev.tok θ)).status = some (taskStatus (s.dev.thr θ) (s.dev.op (s.dev.tok θ))))) ∧
      (∀ j, j ≠ s.dev.tok θ → t.dev.op j = s.dev.op j) ∧ ThreadOnly θ s.dev t.dev ∧ Only [.blocks, .ops] s t := by
  refine ⟨_, exec_gwTwaitTag h, ?_⟩
  obtain ⟨only, kept, rx, other, dynamic, static⟩ := itemEnd_effect (s.dev.issued θ) θ
  have op : ∀ j, (s.dev.issued θ).op j = s.dev.op j := fun _ => rfl
  simp only [thr_issued, tok_issued, op] at rx other dynamic static
  generalize hw : Wait.tag _ _ _ = w
  dsimp only [Dev.awaits]
  rw [thr_modT]
  refine ⟨hw.symm, rx, fun none => ?_, static, other,
    ThreadOnly_trans (threadOnly_issued ..) (ThreadOnly_trans only (threadOnly_modT ..)),
    only_dev (Kept_trans (Kept_mono (kept_issued ..) (by decide)) (Kept_trans kept (Kept_mono (kept_modT ..) (by decide))))⟩
  rw [dynamic none, thr_issued]
  exact ⟨rfl, rfl⟩

theorem gwTwaitClass_effect (h : s.dev.canRun θ (.gwTwaitClass θ rd rs1 rs2) = true)
    (known : bits (s.dev.tx θ rs1) 0 3 ≤ 4) : Runs (.gwTwaitClass θ rd rs1 rs2) s fun t =>
      (t.dev.thr θ).wait = .cls (bits (s.dev.tx θ rs1) 0 3)
        (if s.dev.tx θ rs2 = 0 then none else some (s.dev.wb + s.dev.tx θ rs2)) rd.val ∧
      { t.dev.thr θ with wait := .none, moved := true } = { s.dev.thr θ with wait := .none, moved := true } ∧
      ThreadOnly θ s.dev t.dev ∧ Only [.blocks] s t := by
  refine ⟨_, exec_gwTwaitClass h, ?_⟩
  rw [if_neg (Nat.not_lt.2 known)]
  dsimp only [Dev.awaits]
  rw [thr_modT, thr_issued]
  exact ⟨rfl, rfl, ThreadOnly_trans (threadOnly_issued ..) (threadOnly_modT ..),
    only_dev (Kept_trans (kept_issued ..) (kept_modT ..))⟩

/-- An exception that ends a thread's task as POISONED writes 0x1041 and counts (R130). -/
theorem excPoison_effect (d : Dev) (θ : ThreadId) (cause : Nat) :
    Wrote d (d.excPoison θ cause) (blkRec d 2 0x1041 θ.b [θ.core.val, θ.thread.val, cause, d.tok θ] (d.tPart θ)
      (d.tCtx θ)) ∧ Counted d (d.excPoison θ cause) (R.gcExc θ.b) := by
  unfold Dev.excPoison Dev.except
  dsimp only
  generalize hk : Dev.tok (Dev.setReg _ _ _) θ = k
  generalize he : d.evBlk 2 0x1041 θ.b [θ.core.val, θ.thread.val, cause, d.tok θ] (d.tPart θ) (d.tCtx θ) = e
  have wrote : Wrote d e (blkRec d 2 0x1041 θ.b [θ.core.val, θ.thread.val, cause, d.tok θ] (d.tPart θ)
      (d.tCtx θ)) := he ▸ event_wrote ..
  have regs : RegsBut [R.hpEvlogLost] d e := he ▸ event_reg d 2 0x1041 _ _ _ _ _
  have exc : e.reg (R.gcExc θ.b) = d.reg (R.gcExc θ.b) := regs _ (by simp [R.gcExc, R.hpEvlogLost]; omega)
  refine ⟨Wrote_of_log_eq wrote rfl ((kept_endOp ..).same .log (by decide)),
    Counted_of_peaksOnly ?_ (peaksOnly_endOp _ _ _ _) (gcExc_ne_qmTrkUsed _)⟩
  unfold Counted
  rw [Dev.reg_setReg_ne _ _ (by unfold R.gcExc R.gcLastExc; omega), Dev.reg_bump_self, exc]
  rfl

theorem gwTwaitClass_reserved (h : s.dev.canRun θ (.gwTwaitClass θ rd rs1 rs2) = true)
    (reserved : 4 < bits (s.dev.tx θ rs1) 0 3) : Runs (.gwTwaitClass θ rd rs1 rs2) s fun t =>
      Wrote s.dev t.dev (blkRec s.dev 2 0x1041 θ.b [θ.core.val, θ.thread.val, 2, s.dev.tok θ] (s.dev.tPart θ)
        (s.dev.tCtx θ)) ∧ Counted s.dev t.dev (R.gcExc θ.b) := by
  refine ⟨_, exec_gwTwaitClass h, ?_⟩
  rw [if_pos reserved]
  have part : (s.dev.issued θ).tPart θ = s.dev.tPart θ := by
    unfold Dev.tPart Dev.idPart
    rw [tok_issued, Dev.issued, Dev.blk_modBlk_self]
    rfl
  have ctx : (s.dev.issued θ).tCtx θ = s.dev.tCtx θ := by
    unfold Dev.tCtx
    rw [tok_issued]
    rfl
  have effect := excPoison_effect (s.dev.issued θ) θ 2
  rw [part, ctx, tok_issued] at effect
  exact effect

end

/-- A register written reads back; x0 and every other register read as before. -/
theorem rx_wx (h : Thread) (rd r : XReg) (v : Nat) :
    (h.wx rd v).rx r = if r = rd ∧ r.val ≠ 0 then v % 2 ^ 64 else h.rx r := by
  unfold Thread.rx Thread.wx
  by_cases zero : rd.val = 0
  · have apart : ¬ (r = rd ∧ r.val ≠ 0) := fun e => e.2 (e.1 ▸ zero)
    rw [if_pos zero, if_neg apart]
  · rw [if_neg zero]
    dsimp only
    by_cases same : r = rd
    · subst same
      rw [if_neg zero, if_pos ⟨rfl, zero⟩, tget_tset_self, BitVec.toNat_ofNat]
    · rw [if_neg (fun e : r = rd ∧ _ => same e.1), tget_tset_ne _ _ _ (fun e => same (Fin.ext e))]

theorem wx_state (h : Thread) (rd v : Nat) : { h.wx rd v with x := [] } = { h with x := [] } := by
  unfold Thread.wx
  split <;> rfl

/-- `ret` returns its value and leaves the rest of the thread as it was. -/
theorem returned_ret (d : Dev) (θ : ThreadId) (rd : XReg) (v : Nat) : Returned θ rd v d (d.ret θ rd v) := by
  unfold Returned Dev.ret
  rw [thr_modT]
  have state := wx_state (d.thr θ) rd v
  refine ⟨fun r => rx_wx (d.thr θ) rd r v, rfl, rfl, ?_⟩
  have := congrArg (fun h : Thread => { h with wait := .none, moved := true }) state
  exact this

/-- What a thread receives as it wakes: W[15:0], and bit 16 where its limit has expired (R108). -/
def Dev.wakeVal (d : Dev) (expired : Bool) : Nat := d.wb % 65536 + b2n expired * 65536

theorem wakeVal_true (d : Dev) : d.wakeVal true = d.wb % 65536 + 65536 := by simp [Dev.wakeVal, b2n]

theorem op_of_ops {a b : Dev} (h : b.ops = a.ops) (j : Nat) : b.op j = a.op j := by
  unfold Dev.op
  rw [h]

theorem freeToken_of_ops {a b : Dev} (h : b.ops = a.ops) (t : Nat) : b.freeToken t = a.freeToken t := by
  unfold Dev.freeToken
  rw [h]

theorem alloc_op (d : Dev) (t : Nat) (o : Op) (j : Nat) :
    (d.alloc t o).2.op j = (d.setOp (d.freeToken t) { o with used := true }).op j := by
  unfold Dev.alloc
  exact op_of_ops (Dev.peak_ops ..) j

/-- The entry of the item that a static thread begins as it wakes (R470). -/
def Dev.itemOp (d : Dev) (b n c : Nat) (deadline : Option Nat) (slot : Nat) : Op :=
  { kind := .item, static := true, ctx := c, part := (d.ctx c).part, slot := slot, placed := true
    block := some b, thread := some n, entry := (d.ctx c).entry, cls := (d.part (d.ctx c).part).cls
    deadline := deadline }

section
variable {d : Dev} {θ : ThreadId} {rd : XReg} {expired : Bool} {deadline : Option Nat} {slot : Nat}

theorem wake_tag {tag : Nat} {l : Option Nat} (wait : (d.thr θ).wait = .tag tag l rd.val)
    (static : (d.thr θ).static = none) :
    d.wake θ.b (thrNum θ) expired deadline slot = d.ret θ rd (d.wakeVal expired) := by
  unfold Dev.wake
  dsimp only
  rw [← thr_eq, wait, static]
  rfl

theorem wake_cls {c : Nat} {l : Option Nat} (wait : (d.thr θ).wait = .cls c l rd.val) :
    d.wake θ.b (thrNum θ) expired deadline slot = d.ret θ rd (d.wakeVal expired) := by
  unfold Dev.wake
  dsimp only
  rw [← thr_eq, wait]
  rfl

theorem wake_tag_static {tag c : Nat} {l : Option Nat} (wait : (d.thr θ).wait = .tag tag l rd.val)
    (static : (d.thr θ).static = some c) :
    d.wake θ.b (thrNum θ) expired deadline slot =
      ((d.ret θ rd (d.wakeVal expired)).alloc (tileOf θ.b) (d.itemOp θ.b (thrNum θ) c deadline slot)).2.modT θ
        fun h => { h with op := some (d.freeToken (tileOf θ.b)), poison := false, denied := false, elast := 0 } := by
  unfold Dev.wake
  dsimp only
  rw [← thr_eq, wait, static]
  rfl

end

section
variable {θ : ThreadId} {s : State} (up : s.dev.tileUp (tileOf θ.b) = true)
  (svc : (s.dev.blk θ.b).svc ≠ .retired)
include up svc

theorem exec_twaitLimitExpiry_tag {tag l rd : Nat} (wait : (s.dev.thr θ).wait = .tag tag (some l) rd)
    (passed : l ≤ s.dev.wb) :
    exec (.twaitLimitExpiry θ) s = .next { s with dev := s.dev.wake θ.b (thrNum θ) true none 0xFFFF } := by
  have e : exec (.twaitLimitExpiry θ) s = execTwaitLimitExpiry θ s := rfl
  unfold execTwaitLimitExpiry at e
  exact e.trans (onDevIf_met _ (by simp [up, svc, wait, passed]))

/-- A tick of the awaited class that falls now comes first (R108). -/
theorem exec_twaitLimitExpiry_cls {c l rd : Nat} (wait : (s.dev.thr θ).wait = .cls c (some l) rd)
    (first : c = 0 ∨ s.dev.wb % s.dev.classLen c ≠ 0 ∨ c ∈ s.dev.time.ticked) (passed : l ≤ s.dev.wb) :
    exec (.twaitLimitExpiry θ) s = .next { s with dev := s.dev.wake θ.b (thrNum θ) true none 0xFFFF } := by
  have e : exec (.twaitLimitExpiry θ) s = execTwaitLimitExpiry θ s := rfl
  unfold execTwaitLimitExpiry at e
  refine e.trans (onDevIf_met _ ?_)
  rcases first with zero | len | given
  · simp [up, svc, wait, passed, zero]
  · simp [up, svc, wait, passed, len]
  · simp [up, svc, wait, passed, given]

end

theorem twaitLimitExpiry_returns {θ : ThreadId} {rd : XReg} {s : State} (l : Nat)
    (up : s.dev.tileUp (tileOf θ.b) = true) (svc : (s.dev.blk θ.b).svc ≠ .retired)
    (wait : (∃ tag, (s.dev.thr θ).wait = .tag tag (some l) rd.val ∧ (s.dev.thr θ).static = none) ∨
      ∃ c, (s.dev.thr θ).wait = .cls c (some l) rd.val ∧
        (c = 0 ∨ s.dev.wb % s.dev.classLen c ≠ 0 ∨ c ∈ s.dev.time.ticked))
    (passed : l ≤ s.dev.wb) :
    Runs (.twaitLimitExpiry θ) s fun t =>
      Returned θ rd (s.dev.wb % 65536 + 65536) s.dev t.dev ∧ ThreadOnly θ s.dev t.dev ∧ Only [.blocks] s t := by
  have returns : ∀ {d}, d = s.dev.ret θ rd (s.dev.wakeVal true) →
      exec (.twaitLimitExpiry θ) s = .next { s with dev := d } →
      Runs (.twaitLimitExpiry θ) s fun t =>
        Returned θ rd (s.dev.wb % 65536 + 65536) s.dev t.dev ∧ ThreadOnly θ s.dev t.dev ∧ Only [.blocks] s t :=
    fun woken run => ⟨_, run, by
      rw [woken, ← wakeVal_true]
      exact ⟨returned_ret .., threadOnly_modT .., only_dev (kept_modT ..)⟩⟩
  rcases wait with ⟨tag, tagged, dynamic⟩ | ⟨c, cls, first⟩
  · exact returns (wake_tag tagged dynamic) (exec_twaitLimitExpiry_tag up svc tagged passed)
  · exact returns (wake_cls cls) (exec_twaitLimitExpiry_cls up svc cls first passed)

theorem twaitLimitExpiry_item {θ : ThreadId} {rd : XReg} {s : State} (l tag c : Nat)
    (up : s.dev.tileUp (tileOf θ.b) = true) (svc : (s.dev.blk θ.b).svc ≠ .retired)
    (wait : (s.dev.thr θ).wait = .tag tag (some l) rd.val) (static : (s.dev.thr θ).static = some c)
    (passed : l ≤ s.dev.wb) :
    Runs (.twaitLimitExpiry θ) s fun t =>
      let k := s.dev.freeToken (tileOf θ.b)
      (t.dev.thr θ).wait = .none ∧ (t.dev.thr θ).op = some k ∧ (t.dev.thr θ).poison = false ∧
      (t.dev.thr θ).rx rd = (if rd.val = 0 then 0 else s.dev.wb % 65536 + 65536) ∧
      (t.dev.op k).used = true ∧ (t.dev.op k).kind = .item ∧ (t.dev.op k).ctx = c ∧ (t.dev.op k).slot = 0xFFFF ∧
      (t.dev.op k).deadline = none ∧ (t.dev.op k).status = none ∧ (∀ j, j ≠ k → t.dev.op j = s.dev.op j) ∧
      ThreadOnly θ s.dev t.dev ∧ Only [.blocks, .ops, .regs] s t := by
  refine ⟨_, exec_twaitLimitExpiry_tag up svc wait passed, ?_⟩
  rw [wake_tag_static wait static]
  beta_reduce
  generalize hk : s.dev.freeToken (tileOf θ.b) = k
  dsimp only
  generalize hr : s.dev.ret θ rd (s.dev.wakeVal true) = r
  obtain ⟨rx, idle, -, -⟩ := hr ▸ returned_ret s.dev θ rd (s.dev.wakeVal true)
  have keptR : Kept [.blocks] s.dev r := hr ▸ kept_modT ..
  have onlyR : ThreadOnly θ s.dev r := hr ▸ threadOnly_modT ..
  have free : r.freeToken (tileOf θ.b) = k := (freeToken_of_ops (keptR.same .ops (by decide)) _).trans hk
  generalize hx : r.alloc (tileOf θ.b) (s.dev.itemOp θ.b (thrNum θ) c none 0xFFFF) = x
  have ops : ∀ j, x.2.op j = (r.setOp k { s.dev.itemOp θ.b (thrNum θ) c none 0xFFFF with used := true }).op j := by
    rw [← hx, ← free]
    exact alloc_op r _ _
  have keptX : Kept [.regs, .ops] r x.2 := hx ▸ kept_alloc ..
  have blocks : x.2.blocks = r.blocks := keptX.same .blocks (by decide)
  have self := (ops k).trans (Dev.op_setOp_self ..)
  have thread : x.2.thr θ = r.thr θ := thr_of_blocks blocks θ
  have opsT : ∀ j (f : Thread → Thread), (x.2.modT θ f).op j = x.2.op j :=
    fun j _ => op_of_ops (Dev.modBlk_ops ..) j
  simp only [thr_modT, thread, opsT, self]
  refine ⟨idle, trivial, trivial, ?_, trivial, rfl, rfl, rfl, rfl, rfl, fun j hj => ?_,
    ThreadOnly_trans onlyR (ThreadOnly_trans (threadOnly_of_blocks blocks θ) (threadOnly_modT ..)),
    only_dev (Kept_trans (Kept_mono keptR (by decide)) (Kept_trans (Kept_mono keptX (by decide))
      (Kept_mono (kept_modT ..) (by decide))))⟩
  · have same : ({ r.thr θ with op := some k, poison := false, denied := false, elast := 0 } : Thread).rx rd =
        (r.thr θ).rx rd := rfl
    rw [same, rx rd]
    by_cases zero : rd.val = 0
    · simp [zero, Thread.rx]
    · rw [if_pos ⟨rfl, zero⟩, if_neg zero]
      rw [wakeVal_true, Nat.mod_eq_of_lt (by omega)]
  · rw [ops, Dev.op_setOp_ne _ _ hj]
    exact op_of_ops (keptR.same .ops (by decide)) j

/-- Settles O11: a wait is an update of the thread, after the end of a static thread's item; the limit's expiry is the
thread's `wake`. -/
theorem tickWaitsAndTheirLimit : Obligations.TickWaitsAndTheirLimit := by
  unfold Obligations.TickWaitsAndTheirLimit
  exact fun θ rd rs1 rs2 s => ⟨gwTwaitTag_effect, gwTwaitClass_effect, gwTwaitClass_reserved,
    twaitLimitExpiry_returns, twaitLimitExpiry_item⟩

end Sys2Proof.Machine

namespace Sys2Proof.Machine

/-! ## A tracker that lists a token twice -/

/-- Where every number of a range is taken, the search for a free one ends behind it. -/
theorem firstGap_of_all {l : List Nat} {n k : Nat} (h : ∀ i < n, k + i ∈ l) : firstGap l n k = k + n := by
  induction n generalizing k with
  | zero => rfl
  | succ n ih =>
    have here : l.contains k = true := List.contains_iff_mem.2 (by simpa using h 0 (Nat.succ_pos n))
    rw [firstGap, if_pos here, ih fun i hi => by simpa [Nat.add_assoc, Nat.add_comm 1 i] using h (i + 1) (by omega)]
    omega

/-- An operation that is in use is listed. -/
theorem op_listed {d : Dev} {k : Nat} (h : (d.op k).used = true) : (k, d.op k) ∈ d.ops := by
  refine mem_of_tget fun e => ?_
  rw [show d.op k = {} from e] at h
  cases h

/-- A tracker of tile 0 whose entries are all taken gives out the first token of tile 1. -/
theorem freeToken_of_full {d : Dev} {k : Nat} (used : (d.op k).used = true)
    (kids : (d.op k).kids = List.range 4096) : d.freeToken 0 = 4096 := by
  have taken : ∀ i < 4096, 0 + i ∈ (d.ops.filter (·.2.used)).flatMap fun e => e.1 :: e.2.kids := fun i hi =>
    List.mem_flatMap.2 ⟨(k, d.op k), List.mem_filter.2 ⟨op_listed used, used⟩, List.mem_cons_of_mem _ (by simpa [kids] using hi)⟩
  exact firstGap_of_all taken

/-- The new item of a static thread is not decided. -/
theorem startStatic_status (d : Dev) (b n c : Nat) :
    ((d.startStatic b n c).op (d.freeToken (tileOf b))).status = none := by
  unfold Dev.startStatic
  dsimp only
  rw [op_of_ops (Dev.modBlk_ops ..), Dev.alloc]
  dsimp only
  rw [op_of_ops (Dev.peak_ops ..), Dev.op_setOp_self]

theorem killEng_noEng {d : Dev} {b : Nat} (h : (d.blk b).eng = []) (p : EngOp → Bool) : d.killEng b p = d := by
  unfold Dev.killEng
  rw [h]
  rfl

/-- The operation of a static thread that its thread does not run any more ends with a new item of the thread. -/
theorem endOp_restarts {d : Dev} {k st b n c : Nat} {kill : Bool} (used : (d.op k).used = true)
    (status : (d.op k).status = none) (block : (d.op k).block = some b) (thread : (d.op k).thread = some n)
    (eng : (d.blk b).eng = []) (other : ((d.blk b).thr n).op = none)
    (static : ((d.blk b).thr n).static = some c) :
    d.endOp k st kill = (d.settle k st).startStatic b n c := by
  have blk : (d.settle k st).blk b = d.blk b := blk_of_blocks (Dev.settle_blocks ..) b
  have killed : (if kill = true then (d.settle k st).killEng b fun e => e.token = k else d.settle k st) =
      d.settle k st := by
    split
    · exact killEng_noEng (by rw [blk]; exact eng) _
    · rfl
  unfold Dev.endOp
  dsimp only
  rw [if_neg (by simp [used, status]), block]
  dsimp only
  rw [killed, thread]
  dsimp only
  rw [blk, other, if_neg (by simp), static]

/-- An operation without a thread ends without a new item. -/
theorem endOp_noThread {d : Dev} {k st b : Nat} {kill : Bool} (used : (d.op k).used = true)
    (status : (d.op k).status = none) (block : (d.op k).block = some b) (thread : (d.op k).thread = none)
    (eng : (d.blk b).eng = []) : d.endOp k st kill = (d.settle k st).releaseBlk b := by
  have blk : (d.settle k st).blk b = d.blk b := blk_of_blocks (Dev.settle_blocks ..) b
  have killed : (if kill = true then (d.settle k st).killEng b fun e => e.token = k else d.settle k st) =
      d.settle k st := by
    split
    · exact killEng_noEng (by rw [blk]; exact eng) _
    · rfl
  unfold Dev.endOp
  dsimp only
  rw [if_neg (by simp [used, status]), block]
  dsimp only
  rw [killed, thread]

/-- The block of tile 0 with a static thread that runs nothing. -/
def crowdBlk : Block := { threads := [(0, { static := some 0 })] }

/-- A static item of block 36, under the first token of tile 1. -/
def crowdItem : Op := { used := true, static := true, block := some 36 }

/-- An operation of that thread, whose launched operations are `kids`. -/
def crowdOp (kids : List Nat) : Op := { used := true, block := some 0, thread := some 0, kids := kids }

/-- A device whose operations are not in canonical form: they list token 4097 twice, first as that operation, then as
an item of block 36. The token reads as the operation. -/
def crowded (kids : List Nat) : Dev :=
  { chip := { phase := .running }, blocks := [(0, crowdBlk)]
    ops := [(4096, crowdItem), (4097, crowdOp kids), (4097, crowdItem)] }

/-- With the tracker of tile 0 full, the item that the end of token 4097 starts takes the place of the one that the
end of token 4096 had just poisoned. -/
theorem status_of_endTwice {d : Dev} {kids : List Nat} (all : kids = List.range 4096) (item : d.op 4096 = crowdItem) (op : d.op 4097 = crowdOp kids)
    (thread : d.blk 0 = crowdBlk) (noEng : (d.blk 36).eng = []) :
    (((d.endOp 4096 stPoisoned true).endOp 4097 stPoisoned true).op 4096).status = none := by
  have first : d.endOp 4096 stPoisoned true = (d.settle 4096 stPoisoned).releaseBlk 36 :=
    endOp_noThread (by rw [item]; rfl) (by rw [item]; rfl) (by rw [item]; rfl) (by rw [item]; rfl) noEng
  generalize he : d.endOp 4096 stPoisoned true = e at first ⊢
  have op' : e.op 4097 = crowdOp kids := by
    rw [first, Dev.releaseBlk, op_of_ops (Dev.modBlk_ops ..), Dev.settle, Dev.op_modOp_ne _ _ (by decide), op]
  have thread' : e.blk 0 = crowdBlk := by
    rw [first, Dev.releaseBlk, Dev.blk_modBlk_ne _ _ (by decide), blk_of_blocks (Dev.settle_blocks ..), thread]
  have second : e.endOp 4097 stPoisoned true = (e.settle 4097 stPoisoned).startStatic 0 0 0 :=
    endOp_restarts (by rw [op']; rfl) (by rw [op']; rfl) (by rw [op']; rfl) (by rw [op']; rfl) (by rw [thread']; rfl)
      (by rw [thread']; rfl) (by rw [thread']; rfl)
  have settled : (e.settle 4097 stPoisoned).op 4097 = { crowdOp kids with status := some stPoisoned } := by
    rw [Dev.settle, Dev.op_modOp_self, op', if_pos ⟨rfl, rfl⟩]
  have full : (e.settle 4097 stPoisoned).freeToken (tileOf 0) = 4096 :=
    freeToken_of_full (congrArg Op.used settled) ((congrArg Op.kids settled).trans all)
  rw [second, ← full]
  exact startStatic_status ..

/-- The machine with that device, nothing in what survives power. -/
def stCrowded (kids : List Nat) : State := { dev := crowded kids, nv := {}, pending := [] }

/-- The fault of block 36 that the tick missing in wingbeat 0 is. -/
def crowdFault : TickRec := ⟨.block 36, 4, 65535, 0⟩

/-- A device with that fault kept and counted. -/
def Dev.faulted (d : Dev) : Dev := { d with time := { d.time with tickBad := [crowdFault] } }.bump R.tkTickFault

/-- The first fault of a wingbeat, of one block, is contained there. -/
theorem tickFaults_crowdFault {d : Dev} (none : d.time.tickBad = []) :
    d.tickFaults [crowdFault] = d.faulted.blockTick 36 crowdFault := by
  have alone : fabricFault [crowdFault] = false := by decide
  unfold Dev.tickFaults Dev.faulted
  dsimp only
  rw [none, if_neg (by simp [fabricFault, faultRegions]), List.nil_append, alone, if_neg Bool.false_ne_true,
    List.foldl_cons, List.foldl_nil]
  rfl

theorem exec_tickMissing_first {s : State} (phase : s.dev.chip.phase = .running) (wb : s.dev.wb = 0)
    (none : s.dev.time.tickBad = []) (cycles : Fin 4294967296) :
    exec (.tickMissing (.block 36) cycles) s = .next { s with
      dev := s.dev.faulted.blockTick 36 crowdFault } := by
  have e : exec (.tickMissing (.block 36) cycles) s = execTickMissing (.block 36) cycles s := rfl
  unfold execTickMissing at e
  refine e.trans ((onDevIf_met _ (by rw [phase, none]; rfl)).trans ?_)
  dsimp only
  rw [wb, ← tickFaults_crowdFault none]
  rfl

theorem blockTick_crowded {d : Dev} {kids : List Nat} (all : kids = List.range 4096) (ops : d.ops = (crowded kids).ops)
    (blocks : d.blocks = (crowded kids).blocks) : ((d.faulted.blockTick 36 crowdFault).op 4096).status = none := by
  unfold Dev.blockTick
  dsimp only
  rw [op_of_ops ((kept_retireReq ..).same .ops (by decide))]
  generalize he : d.faulted.evBlk 2 0x1022 36 _ = e
  have kept : Kept [.time, .regs, .chA, .chB, .log] d e := he ▸ Kept_trans
    (Kept_mono (kept_time ..) (by decide)) (Kept_trans (Kept_mono (kept_bump ..) (by decide))
      (Kept_mono (kept_event ..) (by decide)))
  replace ops : e.ops = (crowded kids).ops := (kept.same .ops (by decide)).trans ops
  replace blocks : e.blocks = (crowded kids).blocks := (kept.same .blocks (by decide)).trans blocks
  have tokens : ((e.ops.filter fun x => x.2.used && x.2.static && x.2.block == some 36 && x.2.status.isNone).map
      (·.1)) = [4096, 4097] := by
    rw [ops]
    rfl
  rw [tokens]
  exact status_of_endTwice all (op_of_ops ops _) (op_of_ops ops _) (blk_of_blocks blocks _)
    (congrArg Block.eng (blk_of_blocks blocks 36))

theorem exec_tickMissing_crowded {kids : List Nat} (all : kids = List.range 4096) (cycles : Fin 4294967296) :
    ∃ d, exec (.tickMissing (.block 36) cycles) (stCrowded kids) = .next { stCrowded kids with
      dev := d } ∧ (d.op 4096).status = none :=
  ⟨_, exec_tickMissing_first rfl (Nat.zero_div _) rfl cycles, blockTick_crowded all rfl rfl⟩

/-- Refutes O46: the clause of TICK_MISSING that block 36's static items read as poisoned fails where the operations
are not in canonical form. `crowded` lists token 4097 both as an operation of a static thread of tile 0, whose tracker
is full, and as an item of block 36; ending it starts that thread's new item, which the full tracker puts at token
4096, over the item that the same tick has just poisoned. -/
theorem not_wingbeatsAndTheirChecks : ¬ Obligations.WingbeatsAndTheirChecks := by
  unfold Obligations.WingbeatsAndTheirChecks
  intro ⟨_, missing, _⟩
  obtain ⟨kids, all⟩ : ∃ kids, kids = List.range 4096 := ⟨_, rfl⟩
  obtain ⟨t, run, _, _, _, _, items⟩ := (missing 0 (stCrowded kids) (by simp [stCrowded, crowded])).1 36 rfl
  have poisoned := items 4096 rfl rfl rfl rfl fun n => rfl
  obtain ⟨d, run', none⟩ := exec_tickMissing_crowded all 0
  obtain rfl := Host.Outcome.next.inj (run'.symm.trans run)
  exact nomatch poisoned.symm.trans none

end Sys2Proof.Machine

namespace Sys2Proof.Machine

/-! ## Records put in after one another -/

/-- The event log of `b` is that of `a` with records put in. -/
def LogGrown (a b : Dev) : Prop := ∃ rs : List EventRecord, b.log = rs.foldl EvLog.put a.log

theorem logGrown_of_log {a b : Dev} (h : b.log = a.log) : LogGrown a b := ⟨[], h⟩

theorem logGrown_of_put {a b : Dev} {r : EventRecord} (h : b.log = a.log.put r) : LogGrown a b := ⟨[r], h⟩

theorem logGrown_event (d : Dev) (cls code rg bl : Nat) (dt : List Nat) (p c : Nat) :
    LogGrown d (d.event cls code rg bl dt p c) := logGrown_of_put (event_log ..)

theorem LogGrown_trans {a b c : Dev} : LogGrown a b → LogGrown b c → LogGrown a c := by
  rintro ⟨rs, h⟩ ⟨qs, k⟩
  exact ⟨rs ++ qs, by rw [k, h, List.foldl_append]⟩

theorem recorded_of_put {a b c : Dev} {r : EventRecord} (h : b.log = a.log.put r) : LogGrown b c → Recorded a c [r] := by
  rintro ⟨rs, k⟩
  exact recorded_of_puts rs (by rw [k, h]; rfl)

/-- A step more, of fields among those named. -/
theorem Kept_then {p q : List DevField} {a b c : Dev} (h : Kept p a b) (k : Kept q b c)
    (sub : ∀ f ∈ q, f ∈ p) : Kept p a c := Kept_trans h (Kept_mono k sub)

/-! ## Optical lanes -/

theorem laneRec_of_time {a b : Dev} (h : b.time = a.time) (cls code n : Nat) (dt : List Nat) :
    laneRec b cls code n dt = laneRec a cls code n dt := by
  unfold laneRec regRec
  rw [h]

theorem portRec_of_time {a b : Dev} (h : b.time = a.time) (cls code port : Nat) (dt : List Nat) :
    portRec b cls code port dt = portRec a cls code port dt := by
  unfold portRec regRec
  rw [h]

theorem evLane_log (d : Dev) (cls code n : Nat) (dt : List Nat) :
    (d.evLane cls code n dt).log = d.log.put (laneRec d cls code n dt) := event_log ..

theorem evPort_log (d : Dev) (cls code port : Nat) (dt : List Nat) :
    (d.evPort cls code port dt).log = d.log.put (portRec d cls code port dt) := event_log ..

theorem kept_evLane (d : Dev) {cls : Nat} (h : cls ≠ 4) (code n : Nat) (dt : List Nat) :
    Kept [.regs, .log] d (d.evLane cls code n dt) := kept_event_low d h ..

theorem kept_evPort (d : Dev) {cls : Nat} (h : cls ≠ 4) (code port : Nat) (dt : List Nat) :
    Kept [.regs, .log] d (d.evPort cls code port dt) := kept_event_low d h ..

theorem lane_of_lanes {a b : Dev} (h : b.links.lanes = a.links.lanes) (n : Nat) : b.lane n = a.lane n := by
  unfold Dev.lane
  rw [h]

theorem lane_of_links {a b : Dev} (h : b.links = a.links) (n : Nat) : b.lane n = a.lane n :=
  lane_of_lanes (by rw [h]) n

@[simp] theorem lane_modLane_self (d : Dev) (n : Nat) (f : OptLane → OptLane) : (d.modLane n f).lane n = f (d.lane n) :=
  tget_tset_self ..

theorem lane_modLane_ne (d : Dev) {n m : Nat} (f : OptLane → OptLane) (h : m ≠ n) : (d.modLane n f).lane m = d.lane m :=
  tget_tset_ne _ _ _ h

theorem evLane_lane (d : Dev) {cls : Nat} (h : cls ≠ 4) (code n : Nat) (dt : List Nat) (m : Nat) :
    (d.evLane cls code n dt).lane m = d.lane m :=
  lane_of_links ((kept_evLane d h code n dt).same .links (by decide)) m

theorem servesPort_of_serves {a b : Dev} {n : Nat} (h : (b.lane n).serves = (a.lane n).serves) :
    b.servesPort n = a.servesPort n := by
  unfold Dev.servesPort
  rw [h]

/-! ## A port that goes down -/

theorem slavePort_of_regs {a b : Dev} (h : b.reg R.tkGptpCfg = a.reg R.tkGptpCfg) : b.slavePort = a.slavePort := by
  unfold Dev.slavePort Dev.fld
  rw [h]

/-- A follower that synchronises enters Holdover with its record. -/
theorem holdover_met {d : Dev} (h : d.fld R.tkSyncStatus 0 3 = 1 ∨ d.fld R.tkSyncStatus 0 3 = 2) :
    d.holdover = (d.setFld R.tkSyncStatus 0 3 3).evFloor 5 0x3040 [d.reg R.tkFreqAdj] := if_pos h

theorem holdover_unmet {d : Dev} (h : ¬ (d.fld R.tkSyncStatus 0 3 = 1 ∨ d.fld R.tkSyncStatus 0 3 = 2)) :
    d.holdover = d := if_neg h

theorem kept_holdover (d : Dev) : Kept [.regs, .log] d d.holdover := by
  unfold Dev.holdover
  dsimp only
  split
  · exact Kept_trans (Kept_mono (kept_setFld ..) (by decide)) (kept_event_low _ (cls := 5) (by decide) ..)
  · exact kept_refl ..

theorem regsBut_holdover (d : Dev) : RegsBut [R.tkSyncStatus, R.hpEvlogLost] d d.holdover := by
  unfold Dev.holdover
  dsimp only
  split
  · exact RegsBut_trans (RegsBut_mono (regsBut_setFld _ _ _ _ _) (by decide)) (RegsBut_mono (event_reg _ _ _ _ _ _ _ _) (by decide))
  · exact regsBut_of_regs _ rfl

theorem logGrown_holdover (d : Dev) : LogGrown d d.holdover := by
  unfold Dev.holdover
  dsimp only
  split
  · exact LogGrown_trans (logGrown_of_log ((kept_setFld ..).same .log (by decide))) (logGrown_event ..)
  · exact logGrown_of_log rfl

/-- Holdover as a follower that synchronises enters it. -/
theorem holdover_effect {d : Dev} (h : d.fld R.tkSyncStatus 0 3 = 1 ∨ d.fld R.tkSyncStatus 0 3 = 2) :
    d.holdover.fld R.tkSyncStatus 0 3 = 3 ∧
      d.holdover.log = d.log.put (regRec d 5 0x3040 5 0xFF [d.reg R.tkFreqAdj]) := by
  rw [holdover_met h]
  constructor
  · unfold Dev.evFloor
    rw [fld_of_regsBut (event_reg _ _ _ _ _ _ _ _) (by decide), fld_setFld_self _ _ (by decide)]
    rfl
  · exact event_log ..

/-- A port's link is down, before the time base follows it. -/
def Dev.unlinked (d : Dev) (port : Nat) : Dev :=
  let d := d.evPort 5 0x3027 port [port]
  let d := { d with links := { d.links with up := d.links.up.filter (· ≠ port) } }
  if port = 0 then { d with host := { d.host with up := false, lit := false, bar2 := [] } } else d

theorem kept_unlinked (d : Dev) (port : Nat) : Kept [.links, .host, .log, .regs] d (d.unlinked port) := by
  have told : Kept [.links, .host, .log, .regs] d (d.evPort 5 0x3027 port [port]) :=
    Kept_mono (kept_evPort d (by decide) ..) (by decide)
  unfold Dev.unlinked
  extract_lets _ _ cut
  have gone : Kept [.links, .host, .log, .regs] d cut := Kept_then told (kept_links ..) (by decide)
  split
  · exact Kept_then gone (kept_host cut _) (by decide)
  · exact gone

theorem unlinked_host (d : Dev) {port : Nat} (h : port ≠ 0) : (d.unlinked port).host = d.host := by
  unfold Dev.unlinked
  dsimp only
  rw [if_neg h]
  exact (kept_evPort d (cls := 5) (by decide) ..).same .host (by decide)

theorem unlinked_host_up (d : Dev) : (d.unlinked 0).host.up = false := rfl

theorem unlinked_links (d : Dev) (port : Nat) :
    (d.unlinked port).links = { d.links with up := d.links.up.filter (· ≠ port) } := by
  have same := (kept_evPort d (cls := 5) (by decide) 0x3027 port [port]).same .links (by decide)
  unfold Dev.unlinked
  dsimp only
  split <;> (dsimp only; rw [same])

theorem unlinked_log (d : Dev) (port : Nat) :
    (d.unlinked port).log = d.log.put (portRec d 5 0x3027 port [port]) := by
  rw [← evPort_log]
  unfold Dev.unlinked
  dsimp only
  split <;> rfl

theorem unlinked_regs (d : Dev) (port : Nat) : (d.unlinked port).regs = (d.evPort 5 0x3027 port [port]).regs := by
  unfold Dev.unlinked
  dsimp only
  split <;> rfl

theorem regsBut_unlinked (d : Dev) (port : Nat) : RegsBut [R.hpEvlogLost] d (d.unlinked port) :=
  RegsBut_trans (event_reg _ _ _ _ _ _ _ _) (regsBut_of_regs _ (unlinked_regs d port))

/-- A port that goes down takes the time base into Holdover where it is the slave port. -/
theorem portDown_eq (d : Dev) (port : Nat) :
    d.portDown port = if d.slavePort = some port then (d.unlinked port).holdover else d.unlinked port := by
  have slave : (d.unlinked port).slavePort = d.slavePort := slavePort_of_regs (regsBut_unlinked d port _ (by decide))
  rw [← slave]
  rfl

theorem kept_portDown (d : Dev) (port : Nat) : Kept [.links, .host, .log, .regs] d (d.portDown port) := by
  rw [portDown_eq]
  split
  · exact Kept_trans (kept_unlinked ..) (Kept_mono (kept_holdover _) (by decide))
  · exact kept_unlinked ..

theorem regsBut_portDown (d : Dev) (port : Nat) : RegsBut [R.tkSyncStatus, R.hpEvlogLost] d (d.portDown port) := by
  have down := RegsBut_mono (q := [R.tkSyncStatus, R.hpEvlogLost]) (regsBut_unlinked d port) (by decide)
  rw [portDown_eq]
  split
  · exact RegsBut_trans down (regsBut_holdover _)
  · exact down

theorem logGrown_portDown (d : Dev) (port : Nat) : LogGrown d (d.portDown port) := by
  have down := logGrown_of_put (unlinked_log d port)
  rw [portDown_eq]
  split
  · exact LogGrown_trans down (logGrown_holdover _)
  · exact down

theorem portDown_links (d : Dev) (port : Nat) :
    (d.portDown port).links = { d.links with up := d.links.up.filter (· ≠ port) } := by
  rw [← unlinked_links, portDown_eq]
  split
  · exact (kept_holdover _).same .links (by decide)
  · rfl

theorem portDown_host_eq (d : Dev) (port : Nat) : (d.portDown port).host = (d.unlinked port).host := by
  rw [portDown_eq]
  split
  · exact (kept_holdover _).same .host (by decide)
  · rfl

/-! ## A port that retrains -/

theorem kept_hostRecovery (d : Dev) : Kept [.host] d d.hostRecovery := kept_host ..

/-- What the start of a retraining keeps: the lanes, and all beside links, host link, log and registers. -/
theorem startRetrain_effect (d : Dev) (port : Nat) :
    (d.startRetrain port).links.lanes = d.links.lanes ∧ port ∈ (d.startRetrain port).links.retrain ∧
      LogGrown d (d.startRetrain port) ∧ Kept [.links, .host, .log, .regs] d (d.startRetrain port) := by
  unfold Dev.startRetrain
  split
  · next h => exact ⟨rfl, h, logGrown_of_log rfl, kept_refl ..⟩
  · extract_lets _ e
    have lanes : e.links.lanes = d.links.lanes := rfl
    have due : port ∈ e.links.retrain := List.mem_append_right _ (List.mem_singleton_self _)
    have log : LogGrown d e := logGrown_of_log rfl
    have begun : Kept [.links, .host, .log, .regs] d e := Kept_mono (kept_links ..) (by decide)
    clear_value e
    split
    · split
      · exact ⟨lanes, due, log, Kept_then begun (kept_hostRecovery e) (by decide)⟩
      · exact ⟨lanes, due, log, begun⟩
    · split
      · exact ⟨lanes, due, log, begun⟩
      · split
        · have links := portDown_links e port
          exact ⟨by rw [links]; exact lanes, by rw [links]; exact due, LogGrown_trans log (logGrown_portDown ..),
            Kept_trans begun (kept_portDown ..)⟩
        · exact ⟨lanes, due, log, begun⟩

end Sys2Proof.Machine

namespace Sys2Proof.Machine

/-! ## LANE_FLAP -/

/-- The flaps of a lane within 10 s, the newest among them. -/
def Dev.flapsOf (d : Dev) (n : Nat) (fault : Bool) : List (Nat × Bool) :=
  ((d.lane n).flaps.filter fun f => decide (d.time.now < f.1 + 10000000000)) ++ [(d.time.now, (d.lane n).txSide fault)]

/-- A lane with these flaps. -/
def Dev.flapped (d : Dev) (n : Nat) (fl : List (Nat × Bool)) : Dev := d.modLane n fun x => { x with flaps := fl }

theorem flapped_self (d : Dev) (n : Nat) (fl : List (Nat × Bool)) :
    (d.flapped n fl).lane n = { d.lane n with flaps := fl } := lane_modLane_self ..

/-- Whether a lane's fault is taken to lie outside the module (R396). -/
def Dev.outer (d : Dev) (n : Nat) : Bool :=
  (d.lane n).outside || (d.lane n).moultAt.any fun t => decide (d.time.now < t + 60000000000)

section
variable {lane : Fin 96} {fault : Bool} {port : Nat} {s : State} (phase : s.dev.chip.phase ≠ .modReset)
  (reference : s.dev.chip.selfRef = false) (serving : (s.dev.lane lane).state = 1 ∨ (s.dev.lane lane).kept = true)
  (settled : (s.dev.lane lane).moult = none) (serves : s.dev.servesPort lane = some port)
include phase reference serving settled serves

/-- A flap of a serving lane is kept; from the third on the lane is handled. -/
theorem exec_laneFlap : exec (.laneFlap lane fault) s = .next { s with
    dev := if 3 ≤ (s.dev.flapsOf lane fault).length then
        (s.dev.flapped lane (s.dev.flapsOf lane fault)).lanePast lane port
      else s.dev.flapped lane (s.dev.flapsOf lane fault) } := by
  have e : exec (.laneFlap lane fault) s = execLaneFlap lane fault s := rfl
  unfold execLaneFlap at e
  have met : (s.dev.chip.phase != .modReset && !s.dev.chip.selfRef &&
      ((s.dev.lane lane).state == 1 || (s.dev.lane lane).kept) && (s.dev.lane lane).moult.isNone &&
      (s.dev.servesPort lane).isSome) = true := by
    simp [phase, reference, serving, settled, serves]
  refine e.trans ((onDevIf_met _ met).trans ?_)
  have kept : s.dev.modLane lane (fun x => { x with
      flaps := (x.flaps.filter fun f => decide (s.dev.time.now < f.1 + 10000000000)) ++
        [(s.dev.time.now, x.txSide fault)] }) = s.dev.flapped lane (s.dev.flapsOf lane fault) := rfl
  have length : ((s.dev.flapped lane (s.dev.flapsOf lane fault)).lane lane).flaps = s.dev.flapsOf lane fault := by
    rw [flapped_self]
  have port' : (s.dev.flapped lane (s.dev.flapsOf lane fault)).servesPort lane = some port := by
    rw [← serves]
    exact servesPort_of_serves (by rw [flapped_self])
  dsimp only
  rw [kept, length, port']
  rfl

theorem laneFlap_few (few : (s.dev.flapsOf lane fault).length < 3) : Runs (.laneFlap lane fault) s fun t =>
    t.dev.lane lane = { s.dev.lane lane with flaps := s.dev.flapsOf lane fault } ∧
      (∀ n, n ≠ lane.val → t.dev.lane n = s.dev.lane n) ∧ t.dev.links.retrain = s.dev.links.retrain ∧
      Only [.links] s t := by
  have run := exec_laneFlap (fault := fault) phase reference serving settled serves
  rw [if_neg (by omega)] at run
  exact ⟨_, run, flapped_self .., fun _ hn => lane_modLane_ne _ _ hn, rfl, only_dev (kept_modLane ..)⟩

theorem laneFlap_outer (many : 3 ≤ (s.dev.flapsOf lane fault).length) (outer : s.dev.outer lane = true) :
    Runs (.laneFlap lane fault) s fun t =>
      t.dev.lane lane = { s.dev.lane lane with flaps := [], outside := true } ∧
      (∀ n, n ≠ lane.val → t.dev.lane n = s.dev.lane n) ∧
      Wrote s.dev t.dev (laneRec s.dev 5 0x3025 lane [port]) ∧
      RegsBut [R.hpEvlogLost] s.dev t.dev ∧ Only [.links, .log, .regs] s t := by
  have run := exec_laneFlap (fault := fault) phase reference serving settled serves
  rw [if_pos many] at run
  refine ⟨_, run, ?_⟩
  clear run
  generalize s.dev.flapsOf lane fault = fl
  have handled : (s.dev.flapped lane fl).lanePast lane port =
      ((s.dev.flapped lane fl).modLane lane fun x => { x with
        outside := true
        flaps := [] }).evLane 5 0x3025 lane [port] := by
    unfold Dev.lanePast
    dsimp only
    rw [flapped_self]
    exact if_pos outer
  generalize hd : ((s.dev.flapped lane fl).modLane lane fun x => { x with
        outside := true
        flaps := [] }) = d at handled
  have kept : Kept [.links] s.dev d := hd ▸ Kept_trans (kept_modLane ..) (kept_modLane ..)
  have lanes := evLane_lane d (cls := 5) (by decide) 0x3025 lane [port]
  dsimp only
  rw [handled]
  refine ⟨?_, fun n hn => ?_, wrote_of_put ?_, ?_, only_dev ?_⟩
  · rw [lanes, ← hd, lane_modLane_self, flapped_self]
  · rw [lanes, ← hd, lane_modLane_ne _ _ hn]
    exact lane_modLane_ne _ _ hn
  · rw [evLane_log, kept.same .log (by decide), laneRec_of_time (kept.same .time (by decide))]
  · exact RegsBut_trans (regsBut_of_regs _ (kept.same .regs (by decide))) (event_reg _ _ _ _ _ _ _ _)
  · exact Kept_then (Kept_mono kept (by decide)) (kept_evLane d (by decide) ..) (by decide)

theorem laneFlap_kept (many : (s.dev.flapsOf lane fault).length = 3) (outer : s.dev.outer lane = false)
    (kept : (s.dev.lane lane).kept = true) : Runs (.laneFlap lane fault) s fun t =>
      t.dev.lane lane = { s.dev.lane lane with flaps := s.dev.flapsOf lane fault } ∧
      (∀ n, n ≠ lane.val → t.dev.lane n = s.dev.lane n) ∧
      Wrote s.dev t.dev (laneRec s.dev 5 0x3024 lane [port, 3]) ∧
      RegsBut [R.hpEvlogLost] s.dev t.dev ∧ Only [.links, .log, .regs] s t := by
  have run := exec_laneFlap (fault := fault) phase reference serving settled serves
  rw [if_pos (by omega)] at run
  refine ⟨_, run, ?_⟩
  clear run
  generalize s.dev.flapsOf lane fault = fl at many
  have handled : (s.dev.flapped lane fl).lanePast lane port = (s.dev.flapped lane fl).evLane 5 0x3024 lane [port, 3] := by
    unfold Dev.lanePast
    dsimp only
    rw [flapped_self]
    dsimp only
    refine (if_neg (ne_true_of_eq_false outer)).trans ?_
    rw [if_pos kept, if_pos many, many]
  have lanes := evLane_lane (s.dev.flapped lane fl) (cls := 5) (by decide) 0x3024 lane [port, 3]
  dsimp only
  rw [handled]
  refine ⟨(lanes _).trans (flapped_self ..), fun n hn => (lanes _).trans (lane_modLane_ne _ _ hn),
    wrote_of_put (evLane_log ..), event_reg _ _ _ _ _ _ _ _, only_dev ?_⟩
  exact Kept_then (Kept_mono (kept_modLane ..) (by decide)) (kept_evLane (s.dev.flapped lane fl) (by decide) ..) (by decide)

theorem laneFlap_moults (many : 3 ≤ (s.dev.flapsOf lane fault).length) (outer : s.dev.outer lane = false)
    (kept : (s.dev.lane lane).kept = false) : Runs (.laneFlap lane fault) s fun t =>
      t.dev.lane lane = { s.dev.lane lane with
        flaps := s.dev.flapsOf lane fault
        moult := some (if (s.dev.flapsOf lane fault).any (·.2) then 0 else 1) } ∧
      (∀ n, n ≠ lane.val → t.dev.lane n = s.dev.lane n) ∧ port ∈ t.dev.links.retrain ∧
      Recorded s.dev t.dev [laneRec s.dev 5 0x3020 lane [port, if (s.dev.flapsOf lane fault).any (·.2) then 1 else 2]] ∧
      Only [.links, .log, .regs, .host] s t := by
  have run := exec_laneFlap (fault := fault) phase reference serving settled serves
  rw [if_pos many] at run
  refine ⟨_, run, ?_⟩
  clear run
  generalize s.dev.flapsOf lane fault = fl
  generalize htx : fl.any (·.2) = tx
  generalize hd : (s.dev.flapped lane fl).evLane 5 0x3020 lane [port, if tx then 1 else 2] = d
  have handled : (s.dev.flapped lane fl).lanePast lane port =
      (d.modLane lane fun x => { x with moult := some (if tx then 0 else 1) }).startRetrain port := by
    unfold Dev.lanePast
    dsimp only
    rw [flapped_self]
    dsimp only
    refine (if_neg (ne_true_of_eq_false outer)).trans ?_
    rw [if_neg (ne_true_of_eq_false kept), htx, hd]
  have lanes (n : Nat) : d.lane n = (s.dev.flapped lane fl).lane n :=
    hd ▸ evLane_lane _ (cls := 5) (by decide) 0x3020 lane _ n
  have told : Kept [.links, .host, .log, .regs] s.dev d :=
    Kept_then (Kept_mono (kept_modLane ..) (by decide)) (hd ▸ kept_evLane (s.dev.flapped lane fl) (cls := 5) (by decide) ..) (by decide)
  have log : d.log = s.dev.log.put (laneRec s.dev 5 0x3020 lane [port, if tx then 1 else 2]) := hd ▸ evLane_log ..
  generalize he : d.modLane lane (fun x => { x with moult := some (if tx then 0 else 1) }) = e at handled
  obtain ⟨same, due, grown, trained⟩ := startRetrain_effect e port
  dsimp only
  rw [handled]
  refine ⟨?_, fun n hn => ?_, due, recorded_of_put log (LogGrown_trans (logGrown_of_log (he ▸ rfl)) grown), only_dev ?_⟩
  · rw [lane_of_lanes same, ← he, lane_modLane_self, lanes, flapped_self]
  · rw [lane_of_lanes same, ← he, lane_modLane_ne _ _ hn, lanes]
    exact lane_modLane_ne _ _ hn
  · exact Kept_then (Kept_then (Kept_mono told (by decide)) (he ▸ kept_modLane ..) (by decide)) trained (by decide)

end

end Sys2Proof.Machine

namespace Sys2Proof.Machine

/-! ## A port that comes up -/

/-- A port's link is up, before what waits for the host goes out. -/
def Dev.linked (d : Dev) (port width : Nat) : Dev :=
  let d := { d with links := { d.links with up := if port = 0 ∨ port ∈ d.links.up then d.links.up else d.links.up ++ [port] } }
  let d := if port = 0 then { d with host := { d.host with up := true, lit := true }, links := { d.links with hostW := width } } else d
  d.evPort 0 0x3028 port [port, width]

theorem portUp_eq (d : Dev) (port width : Nat) :
    d.portUp port width = if port = 0 then (d.linked port width).payOwed else d.linked port width := rfl

/-- The port as it comes up, before its record. -/
theorem linked_told (d : Dev) (port width : Nat) : ∃ e : Dev, d.linked port width = e.evPort 0 0x3028 port [port, width] ∧
    Kept [.links, .host] d e ∧
    e.links = { d.links with
      up := if port = 0 ∨ port ∈ d.links.up then d.links.up else d.links.up ++ [port]
      hostW := if port = 0 then width else d.links.hostW } ∧
    e.host = if port = 0 then { d.host with up := true, lit := true } else d.host := by
  unfold Dev.linked
  extract_lets _ a _ _ b
  have ha : Kept [.links, .host] d a := Kept_mono (kept_links d _) (by decide)
  refine ⟨b, rfl, ?_⟩
  by_cases h : port = 0
  · have hb : b = { { a with host := { a.host with up := true, lit := true } } with links := { a.links with hostW := width } } :=
      if_pos h
    refine ⟨?_, ?_, ?_⟩
    · rw [hb]
      exact Kept_then (Kept_then ha (kept_host a _) (by decide)) (kept_links { a with host := { a.host with up := true, lit := true } } _) (by decide)
    · rw [hb, if_pos (c := port = 0) h]
    · rw [hb, if_pos (c := port = 0) h]
  · have hb : b = a := if_neg h
    refine ⟨by rw [hb]; exact ha, ?_, ?_⟩
    · rw [hb, if_neg (c := port = 0) h]
    · rw [hb, if_neg (c := port = 0) h]

theorem linked_links (d : Dev) (port width : Nat) : (d.linked port width).links = { d.links with
    up := if port = 0 ∨ port ∈ d.links.up then d.links.up else d.links.up ++ [port]
    hostW := if port = 0 then width else d.links.hostW } := by
  obtain ⟨e, linked, -, links, -⟩ := linked_told d port width
  rw [linked, (kept_evPort e (cls := 0) (by decide) ..).same .links (by decide)]
  exact links

theorem linked_host (d : Dev) (port width : Nat) :
    (d.linked port width).host = if port = 0 then { d.host with up := true, lit := true } else d.host := by
  obtain ⟨e, linked, -, -, host⟩ := linked_told d port width
  rw [linked, (kept_evPort e (cls := 0) (by decide) ..).same .host (by decide)]
  exact host

theorem linked_log (d : Dev) (port width : Nat) :
    (d.linked port width).log = d.log.put (portRec d 0 0x3028 port [port, width]) := by
  obtain ⟨e, linked, kept, -, -⟩ := linked_told d port width
  rw [linked, evPort_log, portRec_of_time (kept.same .time (by decide)), kept.same .log (by decide)]

theorem regsBut_linked (d : Dev) (port width : Nat) : RegsBut [R.hpEvlogLost] d (d.linked port width) := by
  obtain ⟨e, linked, kept, -, -⟩ := linked_told d port width
  rw [linked]
  exact RegsBut_trans (regsBut_of_regs _ (kept.same .regs (by decide))) (event_reg _ _ _ _ _ _ _ _)

theorem kept_linked (d : Dev) (port width : Nat) : Kept [.links, .host, .log, .regs] d (d.linked port width) := by
  obtain ⟨e, linked, kept, -, -⟩ := linked_told d port width
  rw [linked]
  exact Kept_then (Kept_mono kept (by decide)) (kept_evPort e (by decide) ..) (by decide)

/-- What a port that comes up leaves beside what waits for the host. -/
theorem kept_linked_portUp (d : Dev) (port width : Nat) :
    Kept [.host, .out] (d.linked port width) (d.portUp port width) := by
  rw [portUp_eq]
  split
  · exact kept_payOwed _
  · exact kept_refl ..

theorem portUp_links (d : Dev) (port width : Nat) : (d.portUp port width).links = { d.links with
    up := if port = 0 ∨ port ∈ d.links.up then d.links.up else d.links.up ++ [port]
    hostW := if port = 0 then width else d.links.hostW } :=
  ((kept_linked_portUp ..).same .links (by decide)).trans (linked_links ..)

theorem portUp_log (d : Dev) (port width : Nat) :
    (d.portUp port width).log = d.log.put (portRec d 0 0x3028 port [port, width]) :=
  ((kept_linked_portUp ..).same .log (by decide)).trans (linked_log ..)

theorem regsBut_portUp (d : Dev) (port width : Nat) : RegsBut [R.hpEvlogLost] d (d.portUp port width) :=
  RegsBut_trans (regsBut_linked _ _ _) (regsBut_of_regs _ ((kept_linked_portUp ..).same .regs (by decide)))

theorem portUp_host_up (d : Dev) (width : Nat) : (d.portUp 0 width).host.up = true := by
  rw [portUp_eq, if_pos rfl, payOwed_host, linked_host, if_pos rfl]

theorem portUp_host_lit (d : Dev) (width : Nat) :
    (d.portUp 0 width).host.lit = true ∧ (d.portUp 0 width).host.held = d.host.held := by
  rw [portUp_eq, if_pos rfl, payOwed_host, linked_host, if_pos rfl]
  exact ⟨rfl, rfl⟩

theorem portUp_ne_zero {port : Nat} (h : port ≠ 0) (d : Dev) (width : Nat) : d.portUp port width = d.linked port width := by
  rw [portUp_eq, if_neg h]

/-- Nothing waits: the host link comes up with no write. -/
theorem portUp_out {d : Dev} (h : d.host.owed = []) (width : Nat) : (d.portUp 0 width).out = d.out := by
  have owed : (d.linked 0 width).host.owed = [] := by
    rw [linked_host, if_pos rfl]
    exact h
  obtain ⟨o, out, none⟩ := payOwed_out (d.linked 0 width)
  rw [portUp_eq, if_pos rfl, out, none owed, List.append_nil]
  exact (kept_linked ..).same .out (by decide)

/-! ## PORT_RETRAIN_DONE -/

theorem moultOne_due {d : Dev} {port n c sp : Nat} (due : (d.lane n).moult = some c) (flap : c ≠ 2)
    (spare : c ≠ 0 ∨ d.laserLeft n = false) (free : d.freeSpare port = some sp) :
    d.moultOne port n = d.moultLane n sp port := by
  unfold Dev.moultOne
  rw [due]
  split
  · next h => cases h
  · next h => exact absurd (Option.some.inj h) flap
  · next x _ h =>
    obtain rfl := Option.some.inj h
    have : ¬ (c = 0 ∧ d.laserLeft n = true) := fun ⟨h0, hl⟩ => spare.elim (· h0) (by rw [hl]; exact Bool.noConfusion)
    rw [if_neg this, free]

theorem moultOne_none {d : Dev} {port n : Nat} (h : (d.lane n).moult = none) : d.moultOne port n = d := by
  unfold Dev.moultOne
  rw [h]

theorem moultAll_none {d : Dev} {port : Nat} {l : List Nat} (h : ∀ n ∈ l, (d.lane n).moult = none) :
    l.foldl (fun (d : Dev) n => d.moultOne port n) d = d := by
  induction l with
  | nil => rfl
  | cons n l ih =>
    rw [List.foldl_cons, moultOne_none (h n List.mem_cons_self)]
    exact ih fun m hm => h m (List.mem_cons_of_mem _ hm)

/-- A lane that a spare replaces, before the records. -/
def Dev.replaced (d : Dev) (n sp : Nat) : Dev :=
  (d.modLane n fun x => { x with state := 2, flaps := [], moult := none }).modLane sp fun x =>
    { x with state := 1, serves := some (((d.modLane n fun x =>
      { x with state := 2, flaps := [], moult := none }).lane n).serves.getD n), moultAt := some d.time.now }

/-- The spare lanes of a port that are left. -/
def Dev.sparesLeft (d : Dev) (port : Nat) : List Nat := (portSpares port).filter fun x => (d.lane x).state == 3

theorem moultLane_eq (d : Dev) (n sp port : Nat) : d.moultLane n sp port =
    if ((d.replaced n sp).sparesLeft port).length = 0 then
      ((d.replaced n sp).evLane 0 0x3021 sp [port, sp % 24, ((d.replaced n sp).sparesLeft port).length]).evLane 5 0x3029 sp [port, 1]
    else (d.replaced n sp).evLane 0 0x3021 sp [port, sp % 24, ((d.replaced n sp).sparesLeft port).length] := rfl

theorem kept_replaced (d : Dev) (n sp : Nat) : Kept [.links] d (d.replaced n sp) :=
  Kept_trans (kept_modLane ..) (kept_modLane ..)

theorem replaced_lane_old (d : Dev) {n sp : Nat} (h : sp ≠ n) :
    (d.replaced n sp).lane n = { d.lane n with state := 2, flaps := [], moult := none } := by
  unfold Dev.replaced
  rw [lane_modLane_ne _ _ h.symm, lane_modLane_self]

theorem replaced_lane_spare (d : Dev) {n sp : Nat} (h : sp ≠ n) : (d.replaced n sp).lane sp = { d.lane sp with
    state := 1, serves := some ((d.lane n).serves.getD n), moultAt := some d.time.now } := by
  unfold Dev.replaced
  rw [lane_modLane_self, lane_modLane_self, lane_modLane_ne _ _ h]

theorem replaced_lane_ne (d : Dev) {n sp j : Nat} (hn : j ≠ n) (hs : j ≠ sp) : (d.replaced n sp).lane j = d.lane j := by
  unfold Dev.replaced
  rw [lane_modLane_ne _ _ hs, lane_modLane_ne _ _ hn]

theorem replaced_moult_self (d : Dev) (n sp : Nat) : ((d.replaced n sp).lane n).moult = none := by
  by_cases h : sp = n
  · subst h
    unfold Dev.replaced
    rw [lane_modLane_self, lane_modLane_self]
  · rw [replaced_lane_old d h]

theorem replaced_moult {d : Dev} {j : Nat} (h : (d.lane j).moult = none) (n sp : Nat) :
    ((d.replaced n sp).lane j).moult = none := by
  by_cases hn : j = n
  · subst hn
    exact replaced_moult_self ..
  · by_cases hs : j = sp
    · subst hs
      rw [replaced_lane_spare d hn]
      exact h
    · rw [replaced_lane_ne d hn hs]
      exact h

theorem moultLane_links (d : Dev) (n sp port : Nat) : (d.moultLane n sp port).links = (d.replaced n sp).links := by
  rw [moultLane_eq]
  have first := (kept_evLane (d.replaced n sp) (cls := 0) (by decide) 0x3021 sp
    [port, sp % 24, ((d.replaced n sp).sparesLeft port).length]).same .links (by decide)
  split
  · exact ((kept_evLane _ (cls := 5) (by decide) ..).same .links (by decide)).trans first
  · exact first

theorem kept_moultLane (d : Dev) (n sp port : Nat) : Kept [.links, .log, .regs] d (d.moultLane n sp port) := by
  rw [moultLane_eq]
  have first := Kept_then (Kept_mono (q := [.links, .log, .regs]) (kept_replaced d n sp) (by decide))
    (kept_evLane (d.replaced n sp) (cls := 0) (by decide) 0x3021 sp
      [port, sp % 24, ((d.replaced n sp).sparesLeft port).length]) (by decide)
  split
  · exact Kept_then first (kept_evLane _ (cls := 5) (by decide) ..) (by decide)
  · exact first

/-- The first record of a spare that takes over, and no more than records after it. -/
theorem moultLane_log (d : Dev) (n sp port : Nat) : ∃ e : Dev,
    e.log = d.log.put (laneRec d 0 0x3021 sp [port, sp % 24, ((d.replaced n sp).sparesLeft port).length]) ∧
      LogGrown e (d.moultLane n sp port) := by
  rw [moultLane_eq]
  refine ⟨(d.replaced n sp).evLane 0 0x3021 sp [port, sp % 24, ((d.replaced n sp).sparesLeft port).length], ?_, ?_⟩
  · rw [evLane_log, laneRec_of_time ((kept_replaced d n sp).same .time (by decide)), (kept_replaced d n sp).same .log (by decide)]
  · split
    · exact logGrown_event ..
    · exact logGrown_of_log rfl

theorem hostNarrow_links (d : Dev) (n : Nat) : (d.hostNarrow n).links.lanes = d.links.lanes := by
  unfold Dev.hostNarrow
  extract_lets e
  have told : e.links = d.links := (kept_evLane d (cls := 5) (by decide) ..).same .links (by decide)
  split
  · rw [told]
  · split
    · rw [portDown_links, told]
    · exact (congrArg Links.lanes told :)

theorem kept_hostNarrow (d : Dev) (n : Nat) : Kept [.links, .host, .log, .regs] d (d.hostNarrow n) := by
  unfold Dev.hostNarrow
  extract_lets e
  have told : Kept [.links, .host, .log, .regs] d e := Kept_mono (kept_evLane d (by decide) ..) (by decide)
  split
  · exact told
  · split
    · exact Kept_trans told (kept_portDown ..)
    · exact Kept_then (Kept_then told (kept_hostRecovery e) (by decide)) (kept_links ..) (by decide)

theorem moultLaser_lane (d : Dev) (n reason j : Nat) : (d.moultLaser n reason).lane j =
    if j = n then { d.lane n with
      state := 1, spareLaser := true, flaps := [], moult := none, eol := false, moultAt := some d.time.now }
    else d.lane j := by
  unfold Dev.moultLaser
  dsimp only
  rw [evLane_lane _ (by decide), evLane_lane _ (by decide)]
  split
  · next h =>
    subst h
    exact lane_modLane_self ..
  · next h => exact lane_modLane_ne _ _ h

/-- What a moult decision keeps. -/
theorem kept_moultOne (d : Dev) (port n : Nat) : Kept [.links, .host, .log, .regs] d (d.moultOne port n) := by
  have lane (f : OptLane → OptLane) : Kept [.links, .host, .log, .regs] d (d.modLane n f) :=
    Kept_mono (kept_modLane ..) (by decide)
  have laser (r : Nat) : Kept [.links, .host, .log, .regs] d (d.moultLaser n r) := Kept_mono (kept_moultLaser ..) (by decide)
  unfold Dev.moultOne
  split
  · exact kept_refl ..
  · split
    · exact laser 2
    · exact lane _
  · split
    · exact laser 1
    · split
      · exact Kept_mono (kept_moultLane ..) (by decide)
      · split
        · exact laser 1
        · dsimp only
          split
          · exact Kept_trans (lane _) (kept_hostNarrow ..)
          · exact lane _

theorem regsBut_evLane (d : Dev) (cls code n : Nat) (dt : List Nat) :
    RegsBut [R.tkSyncStatus, R.hpEvlogLost] d (d.evLane cls code n dt) :=
  RegsBut_mono (event_reg _ _ _ _ _ _ _ _) (by decide)

theorem regsBut_modLane (offs : List Nat) (d : Dev) (n : Nat) (f : OptLane → OptLane) : RegsBut offs d (d.modLane n f) :=
  regsBut_of_regs offs ((kept_modLane ..).same .regs (by decide))

theorem regsBut_moultLaser (d : Dev) (n reason : Nat) :
    RegsBut [R.tkSyncStatus, R.hpEvlogLost] d (d.moultLaser n reason) := by
  unfold Dev.moultLaser
  extract_lets g _ a b
  have ha : RegsBut [R.tkSyncStatus, R.hpEvlogLost] d a := regsBut_of_regs _ ((kept_links ..).same .regs (by decide))
  have hb : RegsBut [R.tkSyncStatus, R.hpEvlogLost] d b := RegsBut_trans ha (regsBut_modLane _ _ _ _)
  exact RegsBut_trans (RegsBut_trans hb (regsBut_evLane _ _ _ _ _)) (regsBut_evLane _ _ _ _ _)

theorem regsBut_moultLane (d : Dev) (n sp port : Nat) :
    RegsBut [R.tkSyncStatus, R.hpEvlogLost] d (d.moultLane n sp port) := by
  have first := RegsBut_trans
    (regsBut_of_regs [R.tkSyncStatus, R.hpEvlogLost] ((kept_replaced d n sp).same .regs (by decide)))
    (regsBut_evLane (d.replaced n sp) 0 0x3021 sp [port, sp % 24, ((d.replaced n sp).sparesLeft port).length])
  rw [moultLane_eq]
  split
  · exact RegsBut_trans first (regsBut_evLane _ _ _ _ _)
  · exact first

theorem regsBut_hostNarrow (d : Dev) (n : Nat) : RegsBut [R.tkSyncStatus, R.hpEvlogLost] d (d.hostNarrow n) := by
  unfold Dev.hostNarrow
  extract_lets e
  have told : RegsBut [R.tkSyncStatus, R.hpEvlogLost] d e := regsBut_evLane _ _ _ _ _
  split
  · exact told
  · split
    · exact RegsBut_trans told (regsBut_portDown _ _)
    · exact RegsBut_trans told (regsBut_of_regs _ rfl)

theorem regsBut_moultOne (d : Dev) (port n : Nat) :
    RegsBut [R.tkSyncStatus, R.hpEvlogLost] d (d.moultOne port n) := by
  unfold Dev.moultOne
  split
  · exact fun _ _ => rfl
  · split
    · exact regsBut_moultLaser _ _ _
    · exact regsBut_modLane _ _ _ _
  · split
    · exact regsBut_moultLaser _ _ _
    · split
      · exact regsBut_moultLane _ _ _ _
      · split
        · exact regsBut_moultLaser _ _ _
        · dsimp only
          split
          · exact RegsBut_trans (regsBut_modLane _ _ _ _) (regsBut_hostNarrow _ _)
          · exact regsBut_modLane _ _ _ _

theorem regsBut_moultAll (d : Dev) (port : Nat) (l : List Nat) :
    RegsBut [R.tkSyncStatus, R.hpEvlogLost] d (l.foldl (fun (d : Dev) n => d.moultOne port n) d) := by
  induction l generalizing d with
  | nil => exact fun _ _ => rfl
  | cons n l ih => exact RegsBut_trans (regsBut_moultOne d port n) (ih _)

theorem moult_modLane {d : Dev} {n j : Nat} {f : OptLane → OptLane} (done : (f (d.lane n)).moult = none)
    (h : j = n ∨ (d.lane j).moult = none) : ((d.modLane n f).lane j).moult = none := by
  by_cases hj : j = n
  · subst hj
    rw [lane_modLane_self]
    exact done
  · rw [lane_modLane_ne _ _ hj]
    exact h.resolve_left hj

theorem moult_moultLaser {d : Dev} {n j : Nat} (reason : Nat) (h : j = n ∨ (d.lane j).moult = none) :
    ((d.moultLaser n reason).lane j).moult = none := by
  rw [moultLaser_lane]
  split
  · rfl
  · next hj => exact h.resolve_left hj

/-- A lane that is served, and any that is not due, is not due after. -/
theorem moult_moultOne {d : Dev} {port n j : Nat} (h : j = n ∨ (d.lane j).moult = none) :
    ((d.moultOne port n).lane j).moult = none := by
  unfold Dev.moultOne
  split
  · next due => exact h.elim (fun hj => hj ▸ due) id
  · split
    · exact moult_moultLaser 2 h
    · exact moult_modLane rfl h
  · split
    · exact moult_moultLaser 1 h
    · split
      · next sp _ =>
        rw [lane_of_links (moultLane_links ..)]
        exact h.elim (fun hj => hj ▸ replaced_moult_self ..) fun hj => replaced_moult hj n sp
      · split
        · exact moult_moultLaser 1 h
        · dsimp only
          split
          · rw [lane_of_lanes (hostNarrow_links ..)]
            exact moult_modLane rfl h
          · exact moult_modLane rfl h

theorem moult_moultAll {port : Nat} (l : List Nat) {d : Dev} {j : Nat} (h : j ∈ l ∨ (d.lane j).moult = none) :
    ((l.foldl (fun (d : Dev) n => d.moultOne port n) d).lane j).moult = none := by
  induction l generalizing d with
  | nil => exact h.resolve_left List.not_mem_nil
  | cons n l ih =>
    refine ih ?_
    rcases h with h | h
    · rcases List.mem_cons.1 h with h | h
      · exact .inr (moult_moultOne (.inl h))
      · exact .inl h
    · exact .inr (moult_moultOne (.inr h))

theorem kept_moultAll (d : Dev) (port : Nat) (l : List Nat) :
    Kept [.links, .host, .log, .regs] d (l.foldl (fun (d : Dev) n => d.moultOne port n) d) :=
  kept_foldl (fun _ _ => kept_moultOne ..) ..

/-- Where one lane of a port is due alone, and a spare takes its place, the retraining serves it and no other. -/
theorem moultAll_one {d : Dev} {port n c sp : Nat} {l : List Nat} (listed : n ∈ l)
    (alone : ∀ j ∈ l, j ≠ n → (d.lane j).moult = none) (due : (d.lane n).moult = some c) (flap : c ≠ 2)
    (spare : c ≠ 0 ∨ d.laserLeft n = false) (free : d.freeSpare port = some sp) :
    l.foldl (fun (d : Dev) n => d.moultOne port n) d = d.moultLane n sp port := by
  obtain ⟨before, after, rfl, first⟩ := List.eq_append_cons_of_mem listed
  have idle : before.foldl (fun (d : Dev) n => d.moultOne port n) d = d :=
    moultAll_none fun j hj => alone j (List.mem_append_left _ hj) fun e => first (e ▸ hj)
  rw [List.foldl_append, idle, List.foldl_cons, moultOne_due due flap spare free]
  refine moultAll_none fun j hj => ?_
  rw [lane_of_links (moultLane_links ..)]
  by_cases hn : j = n
  · subst hn
    exact replaced_moult_self ..
  · exact replaced_moult (alone j (List.mem_append_right _ (List.mem_cons_of_mem _ hj)) hn) n sp

/-- A port's moults are served: its retraining is no longer due. -/
def Dev.moultsServed (d : Dev) (p : Nat) : Dev :=
  let d := (d.portLanes p).foldl (fun (d : Dev) n => d.moultOne p n) d
  { d with links := { d.links with retrain := d.links.retrain.filter (· ≠ p) } }

/-- A port's retraining is done: the port comes up, or the control frame of an actuation port is kept. -/
def Dev.retrained (d : Dev) (p : Nat) : Dev :=
  if p = 0 then d.moultsServed p
  else if p = 5 ∨ p = 6 then { d.moultsServed p with links := { (d.moultsServed p).links with lastAp := some (p, (d.moultsServed p).ctrlFrame) } }
  else (d.moultsServed p).portUp p (portLink p)

theorem exec_portRetrainDone {port : Fin 8} {s : State} (due : port.val ∈ s.dev.links.retrain)
    (other : port = 5 ∨ port = 6 → s.dev.links.lastAp ≠ some (11 - port.val, s.dev.ctrlFrame)) :
    exec (.portRetrainDone port) s = .next { s with
      dev := s.dev.retrained port } := by
  have e : exec (.portRetrainDone port) s = execPortRetrainDone port s := rfl
  unfold execPortRetrainDone at e
  have apart : (decide (port.val = 5 ∨ port.val = 6) &&
      decide (s.dev.links.lastAp = some (11 - port.val, s.dev.ctrlFrame))) = false := by
    rw [Bool.and_eq_false_imp, decide_eq_true_iff]
    exact fun h => decide_eq_false (other (h.imp Fin.ext Fin.ext))
  exact e.trans (onDevIf_met _ (by rw [apart]; simpa using due))

theorem kept_moultsServed (d : Dev) (p : Nat) : Kept [.links, .host, .log, .regs] d (d.moultsServed p) :=
  Kept_then (kept_moultAll d p _) (kept_links ..) (by decide)

theorem regsBut_moultsServed (d : Dev) (p : Nat) : RegsBut [R.tkSyncStatus, R.hpEvlogLost] d (d.moultsServed p) :=
  RegsBut_trans (regsBut_moultAll d p _) (regsBut_of_regs _ ((kept_links ..).same .regs (by decide)))

theorem retrained_retrain (d : Dev) (p : Nat) : p ∉ (d.retrained p).links.retrain := by
  have served : p ∉ (d.moultsServed p).links.retrain := fun h => by simpa using (List.mem_filter.1 h).2
  unfold Dev.retrained
  split
  · exact served
  · split
    · exact served
    · rw [portUp_links]
      exact served

theorem retrained_lane (d : Dev) (p n : Nat) : (d.retrained p).lane n = (d.moultsServed p).lane n := by
  refine lane_of_lanes ?_ n
  unfold Dev.retrained
  split
  · rfl
  · split
    · rfl
    · rw [portUp_links]

theorem logGrown_retrained (d : Dev) (p : Nat) : LogGrown (d.moultsServed p) (d.retrained p) := by
  unfold Dev.retrained
  split
  · exact logGrown_of_log rfl
  · split
    · exact logGrown_of_log rfl
    · exact logGrown_of_put (portUp_log ..)

theorem ctrlFrame_of_time {a b : Dev} (h : b.time = a.time) (k : b.reg R.tkClassCfg = a.reg R.tkClassCfg) :
    b.ctrlFrame = a.ctrlFrame := by
  unfold Dev.ctrlFrame Dev.wb Dev.lc Dev.fld
  rw [h, k]

theorem retrained_lastAp (d : Dev) {p : Nat} (h : p = 5 ∨ p = 6) :
    (d.retrained p).links.lastAp = some (p, d.ctrlFrame) := by
  unfold Dev.retrained
  rw [if_neg (by omega), if_pos h]
  dsimp only
  rw [ctrlFrame_of_time ((kept_moultsServed d p).same .time (by decide)) (regsBut_moultsServed d p _ (by decide))]

theorem retrained_up (d : Dev) {p : Nat} (h0 : p ≠ 0) (h5 : p ≠ 5) (h6 : p ≠ 6) : p ∈ (d.retrained p).links.up := by
  unfold Dev.retrained
  rw [if_neg h0, if_neg (by omega), portUp_links]
  dsimp only
  split
  · next h => exact h.resolve_left h0
  · simp

theorem moultsServed_lane (d : Dev) (p n : Nat) :
    (d.moultsServed p).lane n = ((d.portLanes p).foldl (fun (d : Dev) n => d.moultOne p n) d).lane n := rfl

theorem portRetrainDone_all {port : Fin 8} {s : State} (due : port.val ∈ s.dev.links.retrain)
    (other : port = 5 ∨ port = 6 → s.dev.links.lastAp ≠ some (11 - port.val, s.dev.ctrlFrame)) :
    Runs (.portRetrainDone port) s fun t =>
      port.val ∉ t.dev.links.retrain ∧ (∀ n ∈ s.dev.portLanes port, (t.dev.lane n).moult = none) ∧
      (port = 5 ∨ port = 6 → t.dev.links.lastAp = some (port.val, s.dev.ctrlFrame)) ∧
      (port ≠ 0 → port ≠ 5 → port ≠ 6 → port.val ∈ t.dev.links.up) := by
  refine ⟨_, exec_portRetrainDone due other, retrained_retrain _ _, fun n hn => ?_, fun h => ?_, fun h0 h5 h6 => ?_⟩
  · dsimp only
    rw [retrained_lane, moultsServed_lane]
    exact moult_moultAll _ (.inl hn)
  · exact retrained_lastAp _ (h.imp (congrArg Fin.val) (congrArg Fin.val))
  · exact retrained_up _ (fun h => h0 (Fin.ext h)) (fun h => h5 (Fin.ext h)) fun h => h6 (Fin.ext h)

theorem portRetrainDone_one {port : Fin 8} {s : State} (due : port.val ∈ s.dev.links.retrain)
    (other : port = 5 ∨ port = 6 → s.dev.links.lastAp ≠ some (11 - port.val, s.dev.ctrlFrame)) {n sp c : Nat}
    (listed : n ∈ s.dev.portLanes port) (alone : ∀ j ∈ s.dev.portLanes port, j ≠ n → (s.dev.lane j).moult = none)
    (moults : (s.dev.lane n).moult = some c) (flap : c ≠ 2) (spare : c ≠ 0 ∨ s.dev.laserLeft n = false)
    (free : s.dev.freeSpare port = some sp) (apart : sp ≠ n) : Runs (.portRetrainDone port) s fun t =>
      (t.dev.lane n).state = 2 ∧ (t.dev.lane sp).state = 1 ∧
      (t.dev.lane sp).serves = some ((s.dev.lane n).serves.getD n) ∧
      (∀ j, j ≠ n → j ≠ sp → t.dev.lane j = s.dev.lane j) ∧
      Recorded s.dev t.dev [laneRec s.dev 0 0x3021 sp [port, sp % 24,
        ((portSpares port).filter fun j => decide (j ≠ sp ∧ j ≠ n ∧ (s.dev.lane j).state = 3)).length]] := by
  have one := moultAll_one listed alone moults flap spare free
  have lane (j : Nat) : (s.dev.retrained port).lane j = (s.dev.replaced n sp).lane j := by
    rw [retrained_lane, moultsServed_lane, one]
    exact lane_of_links (moultLane_links ..) j
  have left : (s.dev.replaced n sp).sparesLeft port =
      (portSpares port).filter fun j => decide (j ≠ sp ∧ j ≠ n ∧ (s.dev.lane j).state = 3) := by
    refine List.filter_congr fun j _ => ?_
    by_cases hn : j = n
    · subst hn
      rw [replaced_lane_old _ apart]
      simp
    · by_cases hs : j = sp
      · subst hs
        rw [replaced_lane_spare _ apart]
        simp
      · rw [replaced_lane_ne _ hn hs, Bool.eq_iff_iff]
        simp [hn, hs]
  obtain ⟨e, told, grown⟩ := moultLane_log s.dev n sp port
  have moulted : LogGrown e (s.dev.moultsServed port) :=
    LogGrown_trans grown (logGrown_of_log (show (s.dev.moultsServed port).log = _ by rw [← one]; rfl))
  refine ⟨_, exec_portRetrainDone due other, ?_⟩
  dsimp only
  simp only [lane]
  rw [replaced_lane_old _ apart, replaced_lane_spare _ apart, ← left]
  exact ⟨rfl, rfl, rfl, fun j hn hs => replaced_lane_ne _ hn hs,
    recorded_of_put told (LogGrown_trans moulted (logGrown_retrained ..))⟩

end Sys2Proof.Machine

namespace Sys2Proof.Machine

/-! ## PORT_LINK_DOWN and PORT_LINK_UP -/

theorem exec_portLinkDown {port : Fin 10} {s : State} (host : port = 0 → s.dev.host.up = true)
    (up : port ≠ 0 → port.val ∈ s.dev.links.up) : exec (.portLinkDown port) s = .next { s with
      dev := if 8 ≤ port.val then { s.dev with
          links := { s.dev.links with
            up := s.dev.links.up.filter (· ≠ port.val) } }
        else s.dev.portDown port } := by
  have e : exec (.portLinkDown port) s = execPortLinkDown port s := rfl
  unfold execPortLinkDown at e
  refine e.trans (onDevIf_met _ ?_)
  split
  · next h => exact host (Fin.ext h)
  · next h => exact List.contains_iff_mem.2 (up fun hp => h (congrArg Fin.val hp))

theorem mem_filter_ne {l : List Nat} {p port : Nat} : p ∈ l.filter (· ≠ port) ↔ p ∈ l ∧ p ≠ port := by
  simp [List.mem_filter]

theorem portLinkDown_effect {port : Fin 10} {s : State} (host : port = 0 → s.dev.host.up = true)
    (up : port ≠ 0 → port.val ∈ s.dev.links.up) : Runs (.portLinkDown port) s fun t =>
      port.val ∉ t.dev.links.up ∧ (∀ p, p ≠ port.val → (p ∈ t.dev.links.up ↔ p ∈ s.dev.links.up)) ∧
      (port = 0 → t.dev.host.up = false) ∧ (port ≠ 0 → t.dev.host = s.dev.host) ∧
      (8 ≤ port.val → Only [.links] s t) ∧
      (port.val < 8 → s.dev.slavePort ≠ some port.val → Wrote s.dev t.dev (portRec s.dev 5 0x3027 port [port])) ∧
      (port.val < 8 → s.dev.slavePort = some port.val →
        s.dev.fld R.tkSyncStatus 0 3 = 1 ∨ s.dev.fld R.tkSyncStatus 0 3 = 2 → t.dev.fld R.tkSyncStatus 0 3 = 3 ∧
        Logged s.dev t.dev [portRec s.dev 5 0x3027 port [port], regRec s.dev 5 0x3040 5 0xFF [s.dev.reg R.tkFreqAdj]]) ∧
      RegsBut [R.tkSyncStatus, R.hpEvlogLost] s.dev t.dev ∧ Only [.links, .host, .log, .regs] s t := by
  have ne0 : port ≠ 0 → port.val ≠ 0 := fun h e => h (Fin.ext e)
  refine ⟨_, exec_portLinkDown host up, ?_⟩
  by_cases high : 8 ≤ port.val
  · rw [if_pos high]
    refine ⟨fun h => (mem_filter_ne.1 h).2 rfl, fun p hp => mem_filter_ne.trans (and_iff_left hp), fun h => ?_, fun _ => rfl,
      fun _ => only_dev (kept_links ..), fun h => absurd h (by omega), fun h => absurd h (by omega),
      regsBut_of_regs _ rfl, only_dev (Kept_mono (kept_links ..) (by decide))⟩
    subst h
    exact absurd high (by decide)
  · rw [if_neg high]
    dsimp only
    rw [portDown_links, portDown_host_eq]
    refine ⟨fun h => (mem_filter_ne.1 h).2 rfl, fun p hp => mem_filter_ne.trans (and_iff_left hp), fun h => ?_,
      fun h => unlinked_host _ (ne0 h), fun h => absurd h high, fun _ slave => ?_, fun _ slave sync => ?_,
      regsBut_portDown _ _, only_dev (kept_portDown ..)⟩
    · rw [h]
      exact unlinked_host_up _
    · rw [portDown_eq, if_neg slave]
      exact wrote_of_put (unlinked_log ..)
    · have fld : (s.dev.unlinked port).fld R.tkSyncStatus 0 3 = s.dev.fld R.tkSyncStatus 0 3 :=
        fld_of_regsBut (regsBut_unlinked _ _) (by decide) _ _
      obtain ⟨held, told⟩ := holdover_effect (d := s.dev.unlinked port) (by rw [fld]; exact sync)
      rw [portDown_eq, if_pos slave]
      refine ⟨held, logged_of_puts ?_⟩
      rw [told, unlinked_log, regsBut_unlinked _ _ _ (by decide)]
      unfold regRec
      rw [(kept_unlinked ..).same .time (by decide)]
      rfl

theorem exec_portLinkUp {port : Fin 10} {width : Fin 17} {s : State}
    (fits : port.val < 8 → width.val = s.dev.portWidth port)
    (host : port = 0 → s.dev.host.up = false ∧ s.dev.host.held = false ∧ width ≠ 0)
    (up : port ≠ 0 → port.val ∉ s.dev.links.up) (lit : port.val < 8 → s.dev.lit = true) :
    exec (.portLinkUp port width) s = .next { s with
      dev := if 8 ≤ port.val then { s.dev with
          links := { s.dev.links with
            up := s.dev.links.up ++ [port.val] } }
        else s.dev.portUp port width } := by
  have e : exec (.portLinkUp port width) s = execPortLinkUp port width s := rfl
  unfold execPortLinkUp at e
  refine e.trans (onDevIf_met _ ?_)
  have width' : (decide (8 ≤ port.val) || width.val == s.dev.portWidth port) = true := by
    by_cases h : 8 ≤ port.val
    · simp [h]
    · simp [fits (by omega)]
  rw [Bool.and_eq_true_iff]
  refine ⟨width', ?_⟩
  split
  · next h =>
    obtain ⟨down, held, some⟩ := host (Fin.ext h)
    simp [down, held, some, lit (by omega)]
  · next h =>
    have low : (decide (8 ≤ port.val) || s.dev.lit) = true := by
      by_cases h8 : 8 ≤ port.val
      · simp [h8]
      · simp [lit (by omega)]
    rw [low, Bool.and_true, Bool.not_eq_true', ← Bool.not_eq_true, List.contains_iff_mem]
    exact up fun hp => h (congrArg Fin.val hp)

theorem portLinkUp_effect {port : Fin 10} {width : Fin 17} {s : State}
    (fits : port.val < 8 → width.val = s.dev.portWidth port)
    (host : port = 0 → s.dev.host.up = false ∧ s.dev.host.held = false ∧ width ≠ 0)
    (up : port ≠ 0 → port.val ∉ s.dev.links.up) (lit : port.val < 8 → s.dev.lit = true) :
    Runs (.portLinkUp port width) s fun t =>
      (port = 0 → t.dev.host.up = true ∧ t.dev.links.hostW = width ∧ t.dev.links.up = s.dev.links.up) ∧
      (port = 0 → s.dev.host.owed = [] → t.dev.out = s.dev.out) ∧
      (port ≠ 0 → t.dev.links.up = s.dev.links.up ++ [port.val] ∧ t.dev.host = s.dev.host ∧ t.dev.out = s.dev.out) ∧
      (8 ≤ port.val → Only [.links] s t) ∧
      (port.val < 8 → Wrote s.dev t.dev (portRec s.dev 0 0x3028 port [port, width])) ∧
      RegsBut [R.hpEvlogLost] s.dev t.dev ∧ Only [.links, .host, .log, .regs, .out] s t := by
  refine ⟨_, exec_portLinkUp fits host up lit, ?_⟩
  by_cases high : 8 ≤ port.val
  · have ne0 : port ≠ 0 := fun h => by
      subst h
      exact absurd high (by decide)
    rw [if_pos high]
    exact ⟨fun h => absurd h ne0, fun h => absurd h ne0, fun _ => ⟨rfl, rfl, rfl⟩,
      fun _ => only_dev (kept_links ..), fun h => absurd h (by omega),
      regsBut_of_regs _ rfl, only_dev (Kept_mono (kept_links ..) (by decide))⟩
  · rw [if_neg high]
    refine ⟨fun h => ?_, fun h owed => ?_, fun h => ?_, fun h => absurd h high, fun _ => wrote_of_put (portUp_log ..),
      regsBut_portUp _ _ _, only_dev (Kept_mono (kept_portUp ..) (by decide))⟩
    · subst h
      dsimp only
      rw [portUp_links]
      exact ⟨portUp_host_up .., rfl, rfl⟩
    · subst h
      exact portUp_out owed _
    · have h0 : port.val ≠ 0 := fun e => h (Fin.ext e)
      dsimp only
      rw [portUp_links, portUp_ne_zero h0, linked_host, if_neg h0, if_neg h0, if_neg (not_or.2 ⟨h0, up h⟩)]
      exact ⟨rfl, rfl, (kept_linked ..).same .out (by decide)⟩

/-! ## The host link -/

/-- Which lanes carry the host link depends on the lanes and on those left out. -/
theorem hostLane_of_links {a b : Dev} (lanes : b.links.lanes = a.links.lanes) (out : b.links.hostOut = a.links.hostOut)
    (i : Nat) : b.hostLane i = a.hostLane i := by
  unfold Dev.hostLane
  rw [out]
  simp only [lane_of_lanes lanes]

theorem hostWidth_of_links {a b : Dev} (lanes : b.links.lanes = a.links.lanes)
    (out : b.links.hostOut = a.links.hostOut) : b.hostWidth = a.hostWidth := by
  unfold Dev.hostWidth
  rw [show b.hostLane = a.hostLane from funext (hostLane_of_links lanes out)]

theorem hostUp_zero {d : Dev} (h : d.hostWidth = 0) : d.hostUp = d := if_pos h

theorem hostUp_some {d : Dev} (h : d.hostWidth ≠ 0) : d.hostUp = d.portUp 0 d.hostWidth := if_neg h

/-- The host link's light, with the lanes that have not locked. -/
def Dev.lighted (d : Dev) (u : List Nat) : Dev :=
  { d with host := { d.host with lit := true, held := false }, links := { d.links with unlocked := u, hostOut := [] } }

theorem kept_lighted (d : Dev) (u : List Nat) : Kept [.links, .host] d (d.lighted u) :=
  Kept_then (Kept_mono (kept_host d { d.host with lit := true, held := false }) (by decide))
    (kept_links { d with host := { d.host with lit := true, held := false } } _) (by decide)

theorem exec_hostLinkLight {unlocked : List (Fin 16)} {s : State} (down : s.dev.host.up = false) (lit : s.dev.lit = true)
    (dark : s.dev.host.lit = false) : exec (.hostLinkLight unlocked) s = .next { s with
      dev := if (unlocked.map (·.val)).filter s.dev.hostLane = [] then
          (s.dev.lighted ((unlocked.map (·.val)).filter s.dev.hostLane)).hostUp
        else s.dev.lighted ((unlocked.map (·.val)).filter s.dev.hostLane) } := by
  have e : exec (.hostLinkLight unlocked) s = execHostLinkLight unlocked s := rfl
  unfold execHostLinkLight at e
  exact e.trans (onDevIf_met _ (by simp [down, lit, dark]))

theorem hostLinkLight_effect {unlocked : List (Fin 16)} {s : State} (down : s.dev.host.up = false)
    (lit : s.dev.lit = true) (dark : s.dev.host.lit = false) :
    let u := (unlocked.map (·.val)).filter s.dev.hostLane
    let w := Dev.hostWidth { s.dev with links := { s.dev.links with hostOut := [] } }
    Runs (.hostLinkLight unlocked) s fun t =>
      t.dev.host.lit = true ∧ t.dev.host.held = false ∧ t.dev.links.unlocked = u ∧ t.dev.links.hostOut = [] ∧
      (u ≠ [] ∨ w = 0 → t.dev.host.up = false ∧ Only [.links, .host] s t) ∧
      (u = [] → w ≠ 0 → t.dev.host.up = true ∧ t.dev.links.hostW = w ∧
        Wrote s.dev t.dev (portRec s.dev 0 0x3028 0 [0, w])) ∧
      t.dev.links.lanes = s.dev.links.lanes ∧ (s.dev.host.owed = [] → t.dev.out = s.dev.out) ∧
      Only [.links, .host, .log, .regs, .out] s t := by
  intro u w
  refine ⟨_, exec_hostLinkLight down lit dark, ?_⟩
  have width : (s.dev.lighted u).hostWidth = w := hostWidth_of_links rfl rfl
  have kept := kept_lighted s.dev u
  by_cases up : u = [] ∧ w ≠ 0
  · obtain ⟨all, wide⟩ := up
    have formed : (if u = [] then (s.dev.lighted u).hostUp else s.dev.lighted u) = (s.dev.lighted u).portUp 0 w := by
      rw [if_pos all, hostUp_some (by rw [width]; exact wide), width]
    dsimp only
    rw [show (unlocked.map (·.val)).filter s.dev.hostLane = u from rfl, formed, portUp_links]
    refine ⟨(portUp_host_lit ..).1, (portUp_host_lit ..).2, rfl, rfl, fun h => ?_, fun _ _ => ⟨portUp_host_up .., rfl, ?_⟩,
      rfl, fun owed => portUp_out (d := s.dev.lighted u) owed w, only_dev (Kept_then (Kept_mono kept (by decide)) (kept_portUp ..) (by decide))⟩
    · exact absurd h (not_or.2 ⟨fun h => h all, wide⟩)
    · refine wrote_of_put ?_
      rw [portUp_log, portRec_of_time (kept.same .time (by decide)), kept.same .log (by decide)]
  · have unformed : (if u = [] then (s.dev.lighted u).hostUp else s.dev.lighted u) = s.dev.lighted u := by
      split
      · next all => exact hostUp_zero (width.trans (not_not.1 fun h => up ⟨all, h⟩))
      · rfl
    dsimp only
    rw [show (unlocked.map (·.val)).filter s.dev.hostLane = u from rfl, unformed]
    exact ⟨rfl, rfl, rfl, rfl, fun _ => ⟨down, only_dev kept⟩, fun all wide => absurd ⟨all, wide⟩ up, rfl, fun _ => rfl,
      only_dev (Kept_mono kept (by decide))⟩

/-- A host lane that has not locked is left out. -/
def Dev.leftOut (d : Dev) (n : Nat) : Dev :=
  { d with links := { d.links with unlocked := d.links.unlocked.filter (· ≠ n), hostOut := d.links.hostOut ++ [n] } }

theorem hostNarrow_down {d : Dev} (h : d.host.up = false) (n : Nat) : d.hostNarrow n = d.evLane 5 0x3026 n [n] := by
  have same : (d.evLane 5 0x3026 n [n]).host = d.host := (kept_evLane d (cls := 5) (by decide) ..).same .host (by decide)
  exact if_pos (by rw [same]; exact h)

theorem exec_hostLaneLockTimeout {lane : Fin 16} {s : State} (down : s.dev.host.up = false)
    (lit : s.dev.host.lit = true) (waits : lane.val ∈ s.dev.links.unlocked) :
    exec (.hostLaneLockTimeout lane) s = .next { s with
      dev := if ((s.dev.leftOut lane).hostNarrow lane).links.unlocked = [] then
          ((s.dev.leftOut lane).hostNarrow lane).hostUp
        else (s.dev.leftOut lane).hostNarrow lane } := by
  have e : exec (.hostLaneLockTimeout lane) s = execHostLaneLockTimeout lane s := rfl
  unfold execHostLaneLockTimeout at e
  exact e.trans (onDevIf_met _ (by simp [down, lit, waits]))

theorem hostLaneLockTimeout_effect {lane : Fin 16} {s : State} (down : s.dev.host.up = false)
    (lit : s.dev.host.lit = true) (waits : lane.val ∈ s.dev.links.unlocked) :
    let left := s.dev.links.unlocked.filter (· ≠ lane.val)
    let w := Dev.hostWidth { s.dev with links := { s.dev.links with hostOut := s.dev.links.hostOut ++ [lane.val] } }
    Runs (.hostLaneLockTimeout lane) s fun t =>
      t.dev.links.unlocked = left ∧ t.dev.links.hostOut = s.dev.links.hostOut ++ [lane.val] ∧
      (left ≠ [] ∨ w = 0 → t.dev.host = s.dev.host ∧ Wrote s.dev t.dev (laneRec s.dev 5 0x3026 lane [lane])) ∧
      (left = [] → w ≠ 0 → t.dev.host.up = true ∧ t.dev.links.hostW = w ∧
        Logged s.dev t.dev [laneRec s.dev 5 0x3026 lane [lane], portRec s.dev 0 0x3028 0 [0, w]]) ∧
      t.dev.links.lanes = s.dev.links.lanes ∧ (s.dev.host.owed = [] → t.dev.out = s.dev.out) ∧
      Only [.links, .host, .log, .regs, .out] s t := by
  intro left w
  refine ⟨_, exec_hostLaneLockTimeout down lit waits, ?_⟩
  generalize hd : (s.dev.leftOut lane).hostNarrow lane = d
  have narrowed : d = (s.dev.leftOut lane).evLane 5 0x3026 lane [lane.val] := hd ▸ hostNarrow_down (d := s.dev.leftOut lane) down lane
  have told : Kept [.regs, .log] (s.dev.leftOut lane) d := narrowed ▸ kept_evLane _ (by decide) ..
  have links : d.links = (s.dev.leftOut lane).links := told.same .links (by decide)
  have log : d.log = s.dev.log.put (laneRec s.dev 5 0x3026 lane [lane.val]) := narrowed ▸ evLane_log ..
  have width : d.hostWidth = w := hostWidth_of_links (by rw [links]; rfl) (by rw [links]; rfl)
  have waiting : d.links.unlocked = left := by
    rw [links]
    rfl
  have out : d.links.hostOut = s.dev.links.hostOut ++ [lane.val] := by
    rw [links]
    rfl
  have lanes : d.links.lanes = s.dev.links.lanes := by
    rw [links]
    rfl
  have kept : Kept [.links, .host, .log, .regs, .out] s.dev d :=
    Kept_then (Kept_mono (kept_links ..) (by decide)) told (by decide)
  by_cases up : left = [] ∧ w ≠ 0
  · obtain ⟨all, wide⟩ := up
    rw [if_pos (waiting.trans all), hostUp_some (by rw [width]; exact wide), width]
    dsimp only
    rw [portUp_links]
    refine ⟨waiting, out, fun h => absurd h (not_or.2 ⟨fun h => h all, wide⟩), fun _ _ =>
      ⟨portUp_host_up .., rfl, logged_of_puts ?_⟩, lanes, fun owed => ?_, only_dev (Kept_then kept (kept_portUp ..) (by decide))⟩
    · rw [portUp_log, log, portRec_of_time (a := s.dev) (told.same .time (by decide))]
      rfl
    · rw [portUp_out ((congrArg HostPort.owed (told.same .host (by decide))).trans owed)]
      exact told.same .out (by decide)
  · have unformed : (if d.links.unlocked = [] then d.hostUp else d) = d := by
      split
      · next all => exact hostUp_zero (width.trans (not_not.1 fun h => up ⟨waiting.symm.trans all, h⟩))
      · rfl
    rw [unformed]
    exact ⟨waiting, out, fun _ => ⟨told.same .host (by decide), wrote_of_put log⟩, fun all wide => absurd ⟨all, wide⟩ up,
      lanes, fun _ => told.same .out (by decide), only_dev kept⟩

/-- Settles O43, clause by clause from the commands' lemmas: the flap's four outcomes, the fold of a retraining over
its port's lanes, a port that goes down or comes up, and the host link's light and lock timeouts. -/
theorem opticalLanesAndPorts : Obligations.OpticalLanesAndPorts := by
  unfold Obligations.OpticalLanesAndPorts
  refine ⟨fun lane fault port s phase reference serving settled serves => ?_, fun port s due other => ⟨?_, ?_⟩,
    fun port s => ⟨?_, fun width => ?_⟩, fun s down => ⟨fun unlocked lit dark => ?_, fun lane lit waits => ?_⟩⟩
  · exact ⟨laneFlap_few phase reference serving settled serves, laneFlap_outer phase reference serving settled serves,
      laneFlap_kept phase reference serving settled serves, laneFlap_moults phase reference serving settled serves⟩
  · exact portRetrainDone_all due other
  · exact fun n sp c => portRetrainDone_one due other
  · exact portLinkDown_effect
  · exact portLinkUp_effect
  · exact hostLinkLight_effect down lit dark
  · exact hostLaneLockTimeout_effect down lit waits

end Sys2Proof.Machine

namespace Sys2Proof.Machine

/-! ## What only adds to the event log and to what leaves the module -/

/-- `b` differs from `a` in the fields named alone; its event log and what leaves the module have only grown, and of
the chip's state primary output alone may be another. -/
structure Grows (p : List DevField) (a b : Dev) : Prop where
  kept : Kept p a b
  log : LogGrown a b
  out : ∃ o, b.out = a.out ++ o
  chip : b.chip = { a.chip with primaryEn := b.chip.primaryEn }

theorem grows_refl (p : List DevField) (d : Dev) : Grows p d d :=
  ⟨kept_refl .., logGrown_of_log rfl, ⟨[], (List.append_nil _).symm⟩, rfl⟩

theorem Grows_trans {p : List DevField} {a b c : Dev} (h : Grows p a b) (k : Grows p b c) : Grows p a c := by
  obtain ⟨o, ho⟩ := h.out
  obtain ⟨q, hq⟩ := k.out
  exact ⟨Kept_trans h.kept k.kept, LogGrown_trans h.log k.log, ⟨o ++ q, by rw [hq, ho, List.append_assoc]⟩,
    by rw [k.chip, h.chip]⟩

theorem Grows_mono {p q : List DevField} {a b : Dev} (h : Grows p a b) (sub : ∀ f ∈ p, f ∈ q) :
    Grows q a b :=
  ⟨Kept_mono h.kept sub, h.log, h.out, h.chip⟩

/-- A step more, of fields among those named. -/
theorem Grows_then {p q : List DevField} {a b c : Dev} (h : Grows p a b) (k : Grows q b c)
    (sub : ∀ f ∈ q, f ∈ p) : Grows p a c := Grows_trans h (Grows_mono k sub)

/-- A change that leaves the log, the outputs and the chip as they were. -/
theorem grows_of_kept {p : List DevField} {a b : Dev} (h : Kept p a b)
    (silent : DevField.log ∉ p ∧ DevField.out ∉ p ∧ DevField.chip ∉ p) : Grows p a b := by
  obtain ⟨log, out, chip⟩ := silent
  have same : b.chip = a.chip := h.same .chip chip
  exact ⟨h, logGrown_of_log (h.same .log log), ⟨[], (h.same .out out).trans (List.append_nil _).symm⟩, by rw [same]⟩

/-- The same of fields among those named. -/
theorem grows_kept {p q : List DevField} {a b : Dev} (h : Kept p a b)
    (sub : (∀ f ∈ p, f ∈ q) ∧ DevField.log ∉ p ∧ DevField.out ∉ p ∧ DevField.chip ∉ p) : Grows q a b :=
  Grows_mono (grows_of_kept h sub.2) sub.1

theorem grows_ite {p : List DevField} {c : Prop} [Decidable c] {a x y : Dev} (hx : Grows p a x) (hy : Grows p a y) :
    Grows p a (if c then x else y) := by
  split
  · exact hx
  · exact hy

theorem grows_foldl {α : Type} {p : List DevField} {f : Dev → α → Dev} (h : ∀ d x, Grows p d (f d x)) (l : List α)
    (d : Dev) : Grows p d (l.foldl f d) := by
  induction l generalizing d with
  | nil => exact grows_refl ..
  | cons x l ih => exact Grows_trans (h d x) (ih _)

theorem grows_event (d : Dev) {cls : Nat} (h : cls ≠ 4) (code rg bl : Nat) (dt : List Nat) (p c : Nat) :
    Grows [.regs, .log] d (d.event cls code rg bl dt p c) := by
  have kept := kept_event_low d h code rg bl dt p c
  exact ⟨kept, logGrown_event .., ⟨[], (kept.same .out (by decide)).trans (List.append_nil _).symm⟩,
    by rw [kept.same .chip (by decide)]⟩

/-! ## Work of the hub -/

/-- The fields that the hub's work on operations, partitions and requests reaches. -/
def hubWork : List DevField :=
  [.mem, .free, .poison, .enc, .blocks, .tiles, .ops, .regs, .qm, .ctxs, .parts, .srv, .log]

theorem kept_qm (d : Dev) (q : QueueMgr) : Kept [.qm] d { d with qm := q } := by
  refine ⟨fun f hf => ?_⟩
  cases f with
  | qm => exact absurd List.mem_cons_self hf
  | _ => rfl

theorem kept_wake (d : Dev) (b n : Nat) (expired : Bool) (deadline : Option Nat) (slot : Nat) :
    Kept [.blocks, .ops, .regs] d (d.wake b n expired deadline slot) := by
  have thread (d : Dev) (f : Thread → Thread) : Kept [.blocks, .ops, .regs] d (d.modThr b n f) :=
    Kept_mono (kept_modThr ..) (by decide)
  unfold Dev.wake
  dsimp only
  split
  · split
    · exact Kept_trans (Kept_then (thread d _) (kept_alloc ..) (by decide)) (thread _ _)
    · exact thread d _
  · exact thread d _
  · exact kept_refl ..

theorem kept_wakeClass (d : Dev) (c : Nat) : Kept [.blocks, .ops, .regs] d (d.wakeClass c) := by
  refine kept_foldl (fun d h => ?_) _ _
  split
  · exact kept_wake ..
  · exact kept_refl ..

theorem kept_finish (d : Dev) (k st : Nat) :
    Kept [.mem, .free, .poison, .enc, .blocks, .tiles, .ops, .regs, .srv] d (d.finish k st) := by
  unfold Dev.finish
  dsimp only
  split
  · exact kept_refl ..
  · split
    · exact Kept_trans (Kept_mono (kept_settle ..) (by decide)) (Kept_mono (kept_reqGone ..) (by decide))
    · exact Kept_mono (kept_endOp ..) (by decide)

theorem kept_sweepSaved (d : Dev) (t : Nat) : Kept [.ops, .tiles] d (d.sweepSaved t) := by
  have op (d : Dev) (k : Nat) (f : Op → Op) : Kept [.ops, .tiles] d (d.modOp k f) := Kept_mono (kept_modOp ..) (by decide)
  exact Kept_then (kept_foldl (fun _ _ => Kept_trans (kept_foldl (fun _ _ => op ..) ..)
    (kept_foldl (fun _ _ => op ..) ..)) ..) (kept_setTile ..) (by decide)

theorem kept_sweepAll (d : Dev) : Kept [.ops, .tiles] d d.sweepAll := kept_foldl (fun _ _ => kept_sweepSaved ..) ..

theorem kept_abortObj (d : Dev) (x : DisObj) :
    Kept [.mem, .free, .poison, .enc, .blocks, .tiles, .ops, .regs, .srv, .qm] d (d.abortObj x) :=
  Kept_then (Kept_then (Kept_mono (kept_foldl (fun _ _ => kept_finish ..) ..) (by decide)) (kept_sweepAll _) (by decide)) (kept_qm ..) (by decide)

theorem kept_qSetState (d : Dev) (q v : Nat) : Kept [.mem, .poison, .enc, .qm] d (d.qSetState q v) :=
  Kept_then (Kept_mono (kept_storeAs ..) (by decide)) (kept_qm ..) (by decide)

theorem kept_instFree (d : Dev) (i : Nat) : Kept [.ctxs, .srv] d (d.instFree i) :=
  Kept_then (Kept_mono (kept_modCtx ..) (by decide)) (kept_srv ..) (by decide)

theorem grows_disDone (d : Dev) (e : Disabling) : Grows hubWork d (d.disDone e) := by
  have listed : Grows hubWork d { d with qm := { d.qm with disabling := d.qm.disabling.filter (· ≠ e) } } :=
    grows_kept (kept_qm ..) (by decide)
  unfold Dev.disDone
  extract_lets _ x
  have left : Grows hubWork d x := listed
  clear_value x
  split
  · exact left
  · split
    · exact Grows_then (Grows_trans left (grows_kept (kept_qSetState ..) (by decide))) (grows_event _ (cls := 0) (by decide) ..) (by decide)
    · have closed (c : Nat) : Grows hubWork d (((x.ctxQueues c).foldl (fun d q => d.qSetState q 0) x).setCtx c {}) :=
        Grows_trans (Grows_trans left (grows_foldl (fun _ _ => grows_kept (kept_qSetState ..) (by decide)) ..))
          (grows_kept (kept_setCtx ..) (by decide))
      dsimp only
      split
      · exact Grows_then (closed _) (grows_event _ (cls := 2) (by decide) ..) (by decide)
      · exact Grows_then (closed _) (grows_event _ (cls := 0) (by decide) ..) (by decide)
    · exact Grows_then (Grows_trans left (grows_kept (kept_modPart ..) (by decide))) (grows_event _ (cls := 0) (by decide) ..) (by decide)
    · exact Grows_trans left (grows_kept (kept_instFree ..) (by decide))

theorem grows_disCheck (d : Dev) : Grows hubWork d d.disCheck := by
  refine grows_foldl (fun d e => ?_) ..
  split
  · exact grows_disDone ..
  · exact grows_refl ..

theorem grows_disStart (d : Dev) (x : DisObj) (abort error shed : Bool) : Grows hubWork d (d.disStart x abort error shed) := by
  unfold Dev.disStart
  extract_lets e _ y
  have listed : Grows hubWork d y := grows_kept (kept_qm ..) (by decide)
  refine Grows_trans ?_ (grows_disCheck _)
  exact grows_ite (Grows_trans listed (grows_kept (kept_abortObj ..) (by decide))) listed

theorem grows_reduceTick (d : Dev) : Grows hubWork d d.reduceTick := by
  refine grows_foldl (fun d p => ?_) ..
  dsimp only
  have part (f : Part → Part) : Grows hubWork d (d.modPart p f) := grows_kept (kept_modPart ..) (by decide)
  refine grows_ite (grows_refl ..) (grows_ite ?_ ?_)
  · exact Grows_trans (part _) (grows_disStart ..)
  · exact Grows_trans (part _) (grows_kept (kept_qm ..) (by decide))

theorem grows_resumeRepeat (d : Dev) (p : Nat) : Grows hubWork d (d.resumeRepeat p) := by
  unfold Dev.resumeRepeat
  dsimp only
  refine grows_ite ?_ (grows_refl ..)
  exact Grows_then (Grows_trans (grows_kept (kept_modPart ..) (by decide))
    (grows_foldl (fun _ _ => grows_kept (kept_modBlk ..) (by decide)) ..)) (grows_event _ (cls := 0) (by decide) ..) (by decide)

theorem grows_shedAll (d : Dev) : Grows hubWork d d.shedAll := by
  refine grows_foldl (fun d p => ?_) ..
  dsimp only
  exact grows_ite (Grows_trans (grows_kept (kept_modPart ..) (by decide)) (grows_disStart ..)) (grows_refl ..)

theorem grows_unshedAll (d : Dev) : Grows hubWork d d.unshedAll := by
  refine grows_foldl (fun d p => ?_) ..
  have part (d : Dev) (f : Part → Part) : Grows hubWork d (d.modPart p f) := grows_kept (kept_modPart ..) (by decide)
  dsimp only
  refine grows_ite (grows_ite (Grows_trans (part d _) (part _ _)) (grows_ite ?_ (part d _))) (grows_refl ..)
  exact Grows_trans (Grows_trans (part d _) (part _ _)) (grows_disStart ..)

theorem grows_shedLoad (d : Dev) (old : Nat) : Grows hubWork d (d.shedLoad old) :=
  grows_ite (grows_shedAll d) (grows_ite (grows_unshedAll d) (grows_refl ..))

theorem grows_denyN (d : Dev) (init part a n : Nat) (write : Bool) : Grows hubWork d (d.denyN init part a n write) := by
  unfold Dev.denyN
  split
  · next t r _ =>
    obtain ⟨code, rg, bl, dt, p, h⟩ := deny_event d init part t r a
    rw [h]
    exact Grows_then (grows_kept (Kept_trans (kept_bump ..) (kept_setReg ..)) (by decide)) (grows_event _ (by decide) ..) (by decide)
  · exact grows_refl ..

end Sys2Proof.Machine

namespace Sys2Proof.Machine

/-! ## The schedule's part of a control-frame tick -/

theorem kept_pl (d : Dev) (p : Planner) : Kept [.pl] d { d with pl := p } := by
  refine ⟨fun f hf => ?_⟩
  cases f with
  | pl => exact absurd List.mem_cons_self hf
  | _ => rfl

theorem kept_modPl (d : Dev) (f : Planner → Planner) : Kept [.pl] d (d.modPl f) := kept_pl ..

theorem kept_fus (d : Dev) (x : Fusion) : Kept [.fus] d { d with fus := x } := by
  refine ⟨fun f hf => ?_⟩
  cases f with
  | fus => exact absurd List.mem_cons_self hf
  | _ => rfl

theorem kept_modFus (d : Dev) (f : Fusion → Fusion) : Kept [.fus] d (d.modFus f) := kept_fus ..

theorem grows_foldl_fst {α β : Type} {p : List DevField} {f : Dev × β → α → Dev × β}
    (h : ∀ acc x, Grows p acc.1 (f acc x).1) (l : List α) (acc : Dev × β) : Grows p acc.1 (l.foldl f acc).1 := by
  induction l generalizing acc with
  | nil => exact grows_refl ..
  | cons x l ih => exact Grows_trans (h acc x) (ih _)

/-- The fields that the planner's work in the hub reaches. -/
def planWork : List DevField := .pl :: hubWork

theorem grows_openSet (d : Dev) (f : Nat) : Grows planWork d (d.openSet f) := by
  unfold Dev.openSet
  generalize hx : d.fresh = x
  obtain ⟨x, e⟩ := x
  have drawn : Kept [.free] d e := by
    have := kept_fresh d
    rwa [hx] at this
  dsimp only
  generalize hy : e.modPl _ = y
  have opened : Grows planWork d y := hy ▸ Grows_trans (grows_kept drawn (by decide)) (grows_kept (kept_modPl e _) (by decide))
  split
  · exact Grows_trans opened (grows_kept (kept_zero ..) (by decide))
  · exact Grows_then opened (grows_denyN ..) (by decide)

theorem grows_fuWrite (d : Dev) (init part a : Nat) (bs : List Byte) : Grows hubWork d (d.fuWrite init part a bs).1 := by
  unfold Dev.fuWrite
  split
  · exact grows_refl ..
  · split
    · exact grows_kept (kept_storeAs ..) (by decide)
    · exact grows_denyN ..

theorem kept_modCand (d : Dev) (i : Nat) (f : Cand → Cand) : Kept [.pl] d (d.modCand i f) := by
  unfold Dev.modCand
  exact kept_modPl ..

/-! The kernel evaluates the addresses of the planner's memory where it meets these definitions by their names; their
proofs speak of a function equal to the definition. -/

theorem grows_writeResult (d : Dev) (i : Nat) : Grows hubWork d (d.writeResult i) := by
  suffices body : ∀ f, f = @Dev.writeResult → Grows hubWork d (f d i) from body _ rfl
  intro f hf
  delta Dev.writeResult at hf
  subst hf
  beta_reduce
  extract_lets c
  exact grows_fuWrite ..

theorem grows_unfree (d : Dev) (gen : Nat) : Grows planWork d (d.unfree gen) := by
  unfold Dev.unfree
  exact grows_foldl (fun d i => Grows_then (grows_kept (kept_modCand d i _) (by decide)) (grows_writeResult _ i) (by decide)) ..

theorem grows_badNode (d : Dev) (gen node : Nat) : Grows planWork d (d.badNode gen node) := by
  unfold Dev.badNode
  split
  · exact grows_refl ..
  · exact Grows_then (Grows_trans (grows_kept (kept_modPl ..) (by decide)) (grows_unfree _ gen))
      (grows_event _ (cls := 2) (by decide) ..) (by decide)

theorem grows_runEyes (d : Dev) : Grows planWork d d.runEyes.1 := by
  suffices body : ∀ f, f = @Dev.runEyes → Grows planWork d (f d).1 from body _ rfl
  intro f hf
  delta Dev.runEyes at hf
  obtain ⟨probe, hp⟩ : ∃ p, p = @Dev.probe := ⟨_, rfl⟩
  obtain ⟨eyespot, he⟩ : ∃ p, p = @Dev.eyespot := ⟨_, rfl⟩
  rw [← hp, ← he] at hf
  subst hf
  beta_reduce
  refine grows_foldl_fst (fun acc i => ?_) _ (d, true)
  extract_lets f found x y
  have hx : Grows planWork acc.1 x := by
    unfold x
    clear_value f
    split
    · exact grows_badNode ..
    · exact grows_refl ..
  have hy : Grows planWork acc.1 y := by
    unfold y
    clear_value f x
    split
    · exact Grows_then hx (grows_denyN ..) (by decide)
    · exact hx
  clear_value y
  split
  · exact hy
  · exact Grows_then (Grows_then (Grows_then hy (grows_of_kept (kept_modPl ..) (by decide)) (by decide))
      (grows_event _ (cls := 2) (by decide) ..) (by decide)) (grows_of_kept (kept_bump ..) (by decide)) (by decide)

theorem grows_tickEyes (d : Dev) : Grows planWork d d.tickEyes := by
  unfold Dev.tickEyes
  extract_lets e
  have he : Grows planWork d e := grows_kept (kept_modPl ..) (by decide)
  clear_value e
  split
  · have run := grows_runEyes e
    generalize e.runEyes = r at run
    obtain ⟨x, ok⟩ := r
    exact Grows_trans (Grows_trans he run) (grows_kept (kept_modPl x _) (by decide))
  · exact Grows_trans he (grows_kept (kept_modPl ..) (by decide))

theorem grows_frameLive (d : Dev) : Grows planWork d d.frameLive := by
  unfold Dev.frameLive
  dsimp only
  refine grows_ite (grows_refl ..) ?_
  have woken := Grows_then (grows_kept (q := planWork) (kept_wakeClass d 2) (by decide)) (grows_reduceTick _) (by decide)
  have resumed := Grows_then woken (grows_foldl (fun d p => grows_resumeRepeat d p) (List.range 64) _) (by decide)
  exact Grows_trans (Grows_trans resumed (grows_openSet ..)) (grows_tickEyes _)

/-! ## The guarantees and the status mirror -/

theorem grows_guarMiss (d : Dev) (k : Nat) : Grows [.regs, .log] d (d.guarMiss k) := by
  unfold Dev.guarMiss
  extract_lets x
  split
  · exact Grows_trans (grows_kept (kept_bump ..) (by decide)) (grows_event _ (cls := 5) (by decide) ..)
  · exact grows_refl ..

theorem grows_guarantees (d : Dev) : Grows [.dram, .regs, .log] d d.guarantees :=
  Grows_then (Grows_mono (grows_foldl (fun _ _ => grows_guarMiss ..) ..) (by decide)) (grows_of_kept (kept_dram ..) (by decide)) (by decide)

theorem grows_hostWrite (d : Dev) (a : Nat) (bs : List Byte) : Grows [.out] d (d.hostWrite a bs) :=
  ⟨kept_hostWrite .., logGrown_of_log rfl, ⟨_, rfl⟩, rfl⟩

theorem grows_mirrorWrite (d : Dev) : Grows [.out, .qm, .regs, .log] d d.mirrorWrite := by
  unfold Dev.mirrorWrite
  refine grows_ite (grows_refl ..) (grows_ite ?_ ?_)
  · exact Grows_then (grows_kept (kept_bump ..) (by decide)) (grows_event _ (cls := 5) (by decide) ..) (by decide)
  · exact Grows_then (Grows_then (Grows_then (Grows_mono (grows_hostWrite ..) (by decide)) (grows_hostWrite ..) (by decide)) (grows_hostWrite ..) (by decide))
      (grows_of_kept (kept_qm ..) (by decide)) (by decide)

/-- The fields that the hub's part of a control-frame tick reaches. -/
def frameWork : List DevField := .out :: .dram :: planWork

theorem grows_frameHub (d : Dev) : Grows frameWork d d.frameHub := by
  unfold Dev.frameHub
  refine grows_ite (grows_refl ..) ?_
  exact Grows_then (Grows_then (Grows_then (Grows_mono (grows_frameLive d) (by decide)) (grows_guarantees _) (by decide)) (grows_mirrorWrite _) (by decide))
    (grows_of_kept (kept_qm ..) (by decide)) (by decide)

end Sys2Proof.Machine

namespace Sys2Proof.Machine

/-! ## The votes at a control-frame tick (R313) -/

theorem kept_tick (d : Dev) (c : Nat) : Kept [.time] d (d.tick c) := kept_time ..

theorem grows_revoteOne (d : Dev) (i : Isl) : Grows [.chA, .chB, .chip, .log, .regs] d (d.revoteOne i) := by
  have kept := kept_revoteOne d i
  refine ⟨kept, ?_, ⟨[], (kept.same .out (by decide)).trans (List.append_nil _).symm⟩, revoteOne_chip d i⟩
  have voted : LogGrown d (d.voted i) := logGrown_of_log ((kept_voted d i).same .log (by decide))
  rw [revoteOne_eq]
  split
  · exact LogGrown_trans voted (logGrown_event ..)
  · exact voted

theorem grows_revote (d : Dev) : Grows [.chA, .chB, .chip, .log, .regs] d d.revote :=
  Grows_trans (grows_revoteOne d .a) (grows_revoteOne _ .b)

/-- An island whose vote meets every condition has no cause active. -/
theorem active_of_voteBad {d : Dev} {i : Isl} (h : d.voteBad i = 0) : (d.isl i).active = [] :=
  List.eq_nil_iff_forall_not_mem.2 fun _ hc => voteBad_of_active hc h

theorem voteBad_congr {a b : Dev} {i : Isl} (isl : b.isl i = a.isl i) (chip : b.chip = a.chip) :
    b.voteBad i = a.voteBad i := by
  unfold Dev.voteBad
  rw [isl, chip]

theorem causesSeen_quiet {d : Dev} {i : Isl} (h : (d.isl i).active = []) : (d.causesSeen i).isl i = d.isl i := by
  unfold Dev.causesSeen
  split
  · rw [Dev.clearCauses, isl_modIsl_self, h, List.filter_nil, ← h]
  · rfl

theorem voteBad_causesSeen_quiet {d : Dev} {i : Isl} (h : d.voteBad i = 0) : (d.causesSeen i).voteBad i = 0 := by
  rw [voteBad_congr (causesSeen_quiet (active_of_voteBad h)) ((kept_causesSeen d i).same .chip (by decide))]
  exact h

/-- An island whose vote meets every condition votes, and nothing else changes. -/
theorem revoteOne_good {d : Dev} {i : Isl} (h : d.voteBad i = 0) :
    d.revoteOne i = d.voted i ∧ (d.voted i).isl i = { d.isl i with vote := true } := by
  have good := voteBad_causesSeen_quiet h
  refine ⟨(revoteOne_eq d i).trans (if_neg fun hb => hb.2 good), ?_⟩
  rw [voted_isl, good, causesSeen_quiet (active_of_voteBad h)]
  rfl

/-- Both islands vote: neither the log nor the chip changes. -/
theorem revote_good {d : Dev} (a : d.voteBad .a = 0) (b : d.voteBad .b = 0) :
    Kept [.chA, .chB] d d.revote ∧ d.revote.chA = { d.chA with vote := true } ∧
      d.revote.chB = { d.chB with vote := true } := by
  obtain ⟨oneA, votedA⟩ := revoteOne_good a
  have keptA := kept_voted d .a
  have otherB : (d.voted .a).isl .b = d.isl .b := voted_isl_ne d (by decide)
  obtain ⟨oneB, votedB⟩ := revoteOne_good (d := d.voted .a) (i := .b)
    (by rw [voteBad_congr otherB (keptA.same .chip (by decide))]; exact b)
  unfold Dev.revote
  rw [oneA, oneB]
  refine ⟨Kept_trans keptA (kept_voted ..), ?_, ?_⟩
  · exact (voted_isl_ne _ (i := .b) (j := .a) (by decide)).trans votedA
  · exact votedB.trans (by rw [otherB]; rfl)

/-- Both votes enable primary output, with island A's record. -/
theorem enableVote_good {d : Dev} (off : d.chip.primaryEn = false) (a : d.voteBad .a = 0) (b : d.voteBad .b = 0) :
    d.enableVote.chip = { d.chip with primaryEn := true, noPrimary := 0, lastTwo := [], safeActive := false } ∧
    d.enableVote.chA = { d.chA with vote := true, safeOut := false, inhibit := false } ∧
    d.enableVote.chB = { d.chB with vote := true, safeOut := false, inhibit := false } ∧
    d.enableVote.log = d.log.put (islRec d .a 0 0x8002 [d.ctrlFrame]) := by
  obtain ⟨kept, votedA, votedB⟩ := revote_good a b
  unfold Dev.enableVote
  generalize d.revote = e at kept votedA votedB
  have chip : e.chip = d.chip := kept.same .chip (by decide)
  dsimp only
  rw [if_pos ⟨by rw [chip]; exact off, by rw [votedA], by rw [votedB]⟩]
  generalize hf : ({ e with
      chip := { e.chip with primaryEn := true, noPrimary := 0, lastTwo := [], safeActive := false }
      chA := e.chA.release
      chB := e.chB.release } : Dev) = f
  have frame : f.ctrlFrame = d.ctrlFrame := by
    have time : f.time = d.time := by rw [← hf]; exact kept.same .time (by decide)
    have regs : f.regs = d.regs := by rw [← hf]; exact kept.same .regs (by decide)
    unfold Dev.ctrlFrame Dev.wb Dev.lc Dev.fld Dev.reg
    rw [time, regs]
  have told := kept_event_low f (cls := 0) (by decide) 0x8002 (islRegion .a) 0xFF [f.ctrlFrame] 0xFF 0xFFFF
  refine ⟨(told.same .chip (by decide)).trans ?_, (told.same .chA (by decide)).trans ?_,
    (told.same .chB (by decide)).trans ?_, (event_log ..).trans ?_⟩
  · rw [← hf, ← chip]
  · rw [← hf]
    dsimp only
    rw [votedA]
    rfl
  · rw [← hf]
    dsimp only
    rw [votedB]
    rfl
  · rw [frame, ← hf]
    dsimp only
    rw [kept.same .log (by decide), kept.same .time (by decide)]
    rfl

/-! ## VOTE_EVALUATION at the tick -/

theorem kept_enableVote (d : Dev) : Kept [.chA, .chB, .chip, .log, .regs] d d.enableVote := by
  have kept := (grows_revote d).kept
  unfold Dev.enableVote
  extract_lets e _ f
  split
  · refine Kept_then (b := f) ?_ (kept_event_low f (cls := 0) (by decide) ..) (by decide)
    refine Kept_trans (b := e) kept ?_
    refine ⟨fun g hg => ?_⟩
    cases g with
    | chA | chB | chip => exact absurd (by decide) hg
    | _ => rfl
  · exact kept

theorem kept_voteTick (d : Dev) : Kept [.chA, .chB, .chip, .log, .regs] d d.voteTick := by
  unfold Dev.voteTick
  split
  · exact kept_enableVote d
  · exact (grows_revote d).kept

theorem regsBut_revote_tick (d : Dev) : RegsBut [R.hpEvlogLost] d d.revote :=
  RegsBut_trans (regsBut_revoteOne d .a) (regsBut_revoteOne _ .b)

theorem regsBut_voteTick (d : Dev) : RegsBut [R.hpEvlogLost] d d.voteTick := by
  have revoted := regsBut_revote_tick d
  unfold Dev.voteTick
  split
  · unfold Dev.enableVote
    extract_lets e _ f
    split
    · exact RegsBut_trans (RegsBut_trans revoted (regsBut_of_regs _ (show f.regs = e.regs from rfl)))
        (event_reg f _ _ _ _ _ _ _)
    · exact revoted
  · exact revoted

/-- Neither the vote nor the enable changes what the chip does beside primary output, nor an island's state. -/
theorem voteTick_state (d : Dev) : d.voteTick.chip.computeReset = d.chip.computeReset ∧
    d.voteTick.chip.sched = d.chip.sched ∧ d.voteTick.chA.state = d.chA.state ∧ d.voteTick.chB.state = d.chB.state := by
  have chip := (grows_revote d).chip
  have base : d.revote.chip.computeReset = d.chip.computeReset ∧ d.revote.chip.sched = d.chip.sched ∧
      d.revote.chA.state = d.chA.state ∧ d.revote.chB.state = d.chB.state :=
    ⟨by rw [chip], by rw [chip], (revote_state d .a).1, (revote_state d .b).1⟩
  unfold Dev.voteTick
  split
  · unfold Dev.enableVote
    extract_lets e _ f
    split
    · have told := kept_event_low f (cls := 0) (by decide) 0x8002 (islRegion .a) 0xFF [f.ctrlFrame] 0xFF 0xFFFF
      have chip' : (f.evIsl .a 0 0x8002 [f.ctrlFrame]).chip = f.chip := told.same .chip (by decide)
      have chA' : (f.evIsl .a 0 0x8002 [f.ctrlFrame]).chA = f.chA := told.same .chA (by decide)
      have chB' : (f.evIsl .a 0 0x8002 [f.ctrlFrame]).chB = f.chB := told.same .chB (by decide)
      rw [chip', chA', chB']
      exact base
    · exact base
  · exact base

theorem revoteOne_disabled {d : Dev} (h : d.chip.primaryEn = false) (i : Isl) :
    (d.revoteOne i).chip.primaryEn = false := by
  have voted : (d.voted i).chip = d.chip := (kept_voted d i).same .chip (by decide)
  rw [revoteOne_eq]
  split
  · rw [voteLost_chip]
  · rw [voted]
    exact h

theorem voteBad_causesSeen_eq (d : Dev) (i : Isl) : (d.causesSeen i).voteBad i = (d.clearCauses i).voteBad i := by
  unfold Dev.causesSeen
  split
  · rfl
  · next h =>
    have cleared : ((d.clearCauses i).isl i).state = (d.isl i).state := by rw [Dev.clearCauses, isl_modIsl_self]
    unfold Dev.voteBad
    dsimp only
    rw [if_pos h, if_pos (by rw [cleared]; exact h)]

/-- Island A's vote is withdrawn: primary output ends with its record. -/
theorem voteTick_lost {d : Dev} (bad : (d.clearCauses .a).voteBad .a ≠ 0) (vote : d.chA.vote = true) :
    d.voteTick.chip.primaryEn = false ∧ d.voteTick.chA.vote = false ∧
      Recorded d d.voteTick [islRec d .a 5 0x8003 [0, (d.clearCauses .a).voteBad .a]] := by
  have bad' : (d.causesSeen .a).voteBad .a ≠ 0 := by rw [voteBad_causesSeen_eq]; exact bad
  have lost : d.revoteOne .a = (d.voted .a).voteLost .a ((d.causesSeen .a).voteBad .a) :=
    (revoteOne_eq d .a).trans (if_pos ⟨vote, bad'⟩)
  have off : (d.revoteOne .a).chip.primaryEn = false := by rw [lost, voteLost_chip]
  have log : (d.revoteOne .a).log = d.log.put (islRec d .a 5 0x8003 [0, (d.clearCauses .a).voteBad .a]) := by
    rw [lost, voteBad_causesSeen_eq]
    refine (event_log ..).trans ?_
    dsimp only
    rw [(kept_voted d .a).same .log (by decide), (kept_voted d .a).same .time (by decide)]
    rfl
  have voteA : d.revote.chA.vote = false := by
    have same : d.revote.chA = (d.revoteOne .a).isl .a := revoteOne_isl_ne _ (i := .b) (j := .a) (by decide)
    rw [same, revoteOne_isl]
    exact beq_false_of_ne bad'
  have enabled : d.voteTick = d.revote := by
    unfold Dev.voteTick
    split
    · exact if_neg fun h => by rw [voteA] at h; exact Bool.noConfusion h.2.1
    · rfl
  rw [enabled]
  exact ⟨revoteOne_disabled off .b, voteA, recorded_of_put log (grows_revoteOne _ .b).log⟩

end Sys2Proof.Machine

namespace Sys2Proof.Machine

/-! ## CONTROL_FRAME_TICK -/

theorem exec_controlFrameTick {s : State} (due : s.dev.tickDue 2 = true) :
    exec .controlFrameTick s = .next { s with
      dev := s.dev.controlFrame } := by
  have e : exec .controlFrameTick s = execControlFrameTick s := rfl
  unfold execControlFrameTick at e
  exact e.trans (onDevIf_met _ due)

theorem kept_mirrorIslands (d : Dev) : Kept [.chA, .chB] d d.mirrorIslands := by
  refine ⟨fun f hf => ?_⟩
  cases f with
  | chA | chB => exact absurd (by decide) hf
  | _ => rfl

/-- The device as the islands have voted and copied their status. -/
def Dev.frameVoted (d : Dev) : Dev := (d.tick 2).voteTick.mirrorIslands

theorem controlFrame_eq (d : Dev) : d.controlFrame = d.frameVoted.frameHub := rfl

theorem kept_frameVoted (d : Dev) : Kept [.time, .chA, .chB, .chip, .log, .regs] d d.frameVoted :=
  Kept_then (Kept_then (Kept_mono (kept_tick d 2) (by decide)) (kept_voteTick _) (by decide)) (kept_mirrorIslands _) (by decide)

theorem regsBut_frameVoted (d : Dev) : RegsBut [R.hpEvlogLost] d d.frameVoted :=
  RegsBut_trans (regsBut_voteTick (d.tick 2)) (regsBut_of_regs _ ((kept_mirrorIslands _).same .regs (by decide)))

theorem frameVoted_state (d : Dev) : d.frameVoted.chip.computeReset = d.chip.computeReset ∧
    d.frameVoted.chip.sched = d.chip.sched ∧ d.frameVoted.chA.state = d.chA.state ∧
    d.frameVoted.chB.state = d.chB.state := voteTick_state (d.tick 2)

theorem frameHub_reset {d : Dev} (h : d.chip.computeReset = true) : d.frameHub = d := if_pos h

theorem controlFrame_enables {s : State} (due : s.dev.tickDue 2 = true) (off : s.dev.chip.primaryEn = false)
    (a : s.dev.voteBad .a = 0) (b : s.dev.voteBad .b = 0) (phases : s.dev.phasesOk = true)
    (placed : s.dev.staticPlaced = true) : Runs .controlFrameTick s fun t =>
      t.dev.chip.primaryEn = true ∧ t.dev.chip.noPrimary = 0 ∧ t.dev.chip.safeActive = false ∧
      t.dev.chA.vote = true ∧ t.dev.chB.vote = true ∧ t.dev.chA.safeOut = false ∧ t.dev.chB.safeOut = false ∧
      t.dev.chA.inhibit = false ∧ t.dev.chB.inhibit = false ∧ t.dev.time.ticked = s.dev.time.ticked ++ [2] ∧
      Recorded s.dev t.dev [islRec s.dev .a 0 0x8002 [s.dev.ctrlFrame]] := by
  refine ⟨_, exec_controlFrameTick due, ?_⟩
  have enabled : (s.dev.tick 2).voteTick = (s.dev.tick 2).enableVote :=
    if_pos (Bool.and_eq_true_iff.2 ⟨phases, placed⟩)
  obtain ⟨chip, chA, chB, log⟩ := enableVote_good (d := s.dev.tick 2) off a b
  rw [← enabled] at chip chA chB log
  have mirrored := kept_mirrorIslands (s.dev.tick 2).voteTick
  have hub := grows_frameHub s.dev.frameVoted
  dsimp only
  rw [controlFrame_eq]
  have chip' : s.dev.frameVoted.frameHub.chip = _ :=
    (hub.kept.same .chip (by decide)).trans ((mirrored.same .chip (by decide)).trans chip)
  have chA' : s.dev.frameVoted.frameHub.chA = { (s.dev.tick 2).voteTick.chA with mirror := s.dev.frameVoted.chA.mirror } :=
    hub.kept.same .chA (by decide)
  have chB' : s.dev.frameVoted.frameHub.chB = { (s.dev.tick 2).voteTick.chB with mirror := s.dev.frameVoted.chB.mirror } :=
    hub.kept.same .chB (by decide)
  have time' : s.dev.frameVoted.frameHub.time = (s.dev.tick 2).time :=
    (hub.kept.same .time (by decide)).trans ((mirrored.same .time (by decide)).trans ((kept_voteTick _).same .time (by decide)))
  rw [chA] at chA'
  rw [chB] at chB'
  rw [chip', chA', chB', time']
  exact ⟨rfl, rfl, rfl, rfl, rfl, rfl, rfl, rfl, rfl, rfl,
    recorded_of_put log (LogGrown_trans (logGrown_of_log (mirrored.same .log (by decide))) hub.log)⟩

theorem controlFrame_disables {s : State} (due : s.dev.tickDue 2 = true)
    (bad : (s.dev.clearCauses .a).voteBad .a ≠ 0) (vote : s.dev.chA.vote = true) : Runs .controlFrameTick s fun t =>
      t.dev.chip.primaryEn = false ∧ t.dev.chA.vote = false ∧
      Recorded s.dev t.dev [islRec s.dev .a 5 0x8003 [0, (s.dev.clearCauses .a).voteBad .a]] := by
  refine ⟨_, exec_controlFrameTick due, ?_⟩
  obtain ⟨off, voteA, told⟩ := voteTick_lost (d := s.dev.tick 2) bad vote
  have mirrored := kept_mirrorIslands (s.dev.tick 2).voteTick
  have hub := grows_frameHub s.dev.frameVoted
  have chip' : s.dev.frameVoted.frameHub.chip = (s.dev.tick 2).voteTick.chip :=
    (hub.kept.same .chip (by decide)).trans (mirrored.same .chip (by decide))
  have chA' : s.dev.frameVoted.frameHub.chA = { (s.dev.tick 2).voteTick.chA with mirror := s.dev.frameVoted.chA.mirror } :=
    hub.kept.same .chA (by decide)
  have log : LogGrown (s.dev.tick 2).voteTick s.dev.frameVoted.frameHub :=
    LogGrown_trans (logGrown_of_log (mirrored.same .log (by decide))) hub.log
  dsimp only
  rw [controlFrame_eq, chip', chA']
  refine ⟨off, voteA, fun room => ?_⟩
  obtain ⟨l, hl⟩ := told room
  obtain ⟨rs, hrs⟩ := log
  obtain ⟨x, hx⟩ := puts_extend rs (s.dev.tick 2).voteTick.log
  exact ⟨l ++ x, by rw [hrs, hx, hl, List.append_assoc]; rfl⟩

theorem controlFrame_inReset {s : State} (due : s.dev.tickDue 2 = true) (reset : s.dev.chip.computeReset = true) :
    Runs .controlFrameTick s fun t =>
      RegsBut [R.hpEvlogLost] s.dev t.dev ∧ t.dev.chA.state = s.dev.chA.state ∧ t.dev.chB.state = s.dev.chB.state ∧
      Only [.time, .chA, .chB, .chip, .regs, .log] s t := by
  obtain ⟨reset', -, stateA, stateB⟩ := frameVoted_state s.dev
  have run := exec_controlFrameTick due
  rw [controlFrame_eq, frameHub_reset (reset'.trans reset)] at run
  exact ⟨_, run, regsBut_frameVoted s.dev, stateA, stateB, only_dev (Kept_mono (kept_frameVoted s.dev) (by decide))⟩

/-! ## The status mirror -/

theorem guarMiss_reg (d : Dev) (k : Nat) {o : Nat} (low : o < 0x51200) : (d.guarMiss k).reg o = d.reg o := by
  unfold Dev.guarMiss
  extract_lets x
  split
  · refine (event_reg _ _ _ _ _ _ _ _ o ?_).trans (Dev.reg_setReg_ne _ _ ?_)
    · simp only [List.mem_singleton, R.hpEvlogLost]
      omega
    · simp only [R.mcGuarMiss]
      omega
  · rfl

theorem guarantees_reg (d : Dev) {o : Nat} (low : o < 0x51200) : d.guarantees.reg o = d.reg o := by
  have fold (l : List Nat) (d : Dev) : (l.foldl Dev.guarMiss d).reg o = d.reg o := by
    induction l generalizing d with
    | nil => rfl
    | cons k l ih => exact (ih _).trans (guarMiss_reg d k low)
  exact fold _ d

theorem hostReady_of_host {a b : Dev} (h : b.host = a.host) : b.hostReady = a.hostReady := by
  unfold Dev.hostReady Dev.cfg
  rw [h]

/-- The mirror of a frame that the host takes no write in is skipped. -/
theorem mirrorWrite_skips {d : Dev} (on : d.fld R.qmMirrorCtl 0 1 = 1) (busy : d.hostReady = false) :
    d.mirrorWrite = (d.bump R.qmMirrorSkip).evHub 5 0xA020 [d.ctrlFrame] := by
  unfold Dev.mirrorWrite
  rw [if_neg (by rw [on]; decide), if_pos busy]

theorem splitWrite_cons (mps fuel a : Nat) (b : Byte) (bs : List Byte) :
    ∃ o l, splitWrite mps (fuel + 1) a (b :: bs) = o :: l := ⟨_, _, by rw [splitWrite]; simp⟩

theorem splitWrite_hostWrites (mps fuel a : Nat) (bs : List Byte) :
    ∀ o ∈ splitWrite mps fuel a bs, ∃ a bs, o = .hostWrite a bs := by
  induction fuel generalizing a bs with
  | zero => exact fun _ h => absurd h List.not_mem_nil
  | succ fuel ih =>
    cases bs with
    | nil => exact fun _ h => absurd h List.not_mem_nil
    | cons b bs =>
      have split : splitWrite mps (fuel + 1) a (b :: bs) =
          .hostWrite a ((b :: bs).take (min (max mps 1) (4096 - a % 4096))) ::
            splitWrite mps fuel (a + min (max mps 1) (4096 - a % 4096))
              ((b :: bs).drop (min (max mps 1) (4096 - a % 4096))) := by
        rw [splitWrite]
        simp
      intro o h
      rw [split] at h
      rcases List.mem_cons.1 h with rfl | h
      · exact ⟨_, _, rfl⟩
      · exact ih _ _ o h

/-- Nothing but writes to host memory has left the module. -/
def HostWrites (a b : Dev) : Prop := ∃ l, b.out = a.out ++ l ∧ ∀ o ∈ l, ∃ a bs, o = .hostWrite a bs

theorem hostWrites_hostWrite (d : Dev) (a : Nat) (bs : List Byte) : HostWrites d (d.hostWrite a bs) :=
  ⟨_, rfl, splitWrite_hostWrites _ _ _ _⟩

theorem HostWrites_trans {a b c : Dev} : HostWrites a b → HostWrites b c → HostWrites a c := by
  rintro ⟨l, hl, wl⟩ ⟨k, hk, wk⟩
  exact ⟨l ++ k, by rw [hk, hl, List.append_assoc], fun o ho => (List.mem_append.1 ho).elim (wl o) (wk o)⟩

/-- The mirror's writes to host memory: SEQ odd, the body, SEQ even. -/
def Dev.mirrorSent (d : Dev) (a q : Nat) : Dev :=
  let d := (d.hostWrite a (toLE 4 (q + 1))).hostWrite (a + 4) d.mirrorBody
  d.hostWrite a (toLE 4 (q + 2))

theorem kept_mirrorSent (d : Dev) (a q : Nat) : Kept [.out] d (d.mirrorSent a q) :=
  Kept_trans (Kept_trans (kept_hostWrite ..) (kept_hostWrite ..)) (kept_hostWrite ..)

theorem mirrorSent_out (d : Dev) (a q : Nat) :
    ∃ l, (d.mirrorSent a q).out = d.out ++ l ∧ l ≠ [] ∧ ∀ o ∈ l, ∃ a bs, o = .hostWrite a bs := by
  obtain ⟨l, hl, wl⟩ : HostWrites (d.hostWrite a (toLE 4 (q + 1))) (d.mirrorSent a q) :=
    HostWrites_trans (hostWrites_hostWrite ..) (hostWrites_hostWrite ..)
  have first : (d.hostWrite a (toLE 4 (q + 1))).out = d.out ++ splitWrite d.mps 5 a (toLE 4 (q + 1)) := rfl
  obtain ⟨o, k, hk⟩ := splitWrite_cons d.mps 4 a (BitVec.ofNat 8 (q + 1)) (toLE 3 ((q + 1) / 256))
  refine ⟨splitWrite d.mps 5 a (toLE 4 (q + 1)) ++ l, by rw [hl, first, List.append_assoc], ?_, fun x hx =>
    (List.mem_append.1 hx).elim (splitWrite_hostWrites _ _ _ _ x) (wl x)⟩
  rw [toLE, hk]
  exact List.cons_ne_nil _ _

theorem mirrorWrite_writes {d : Dev} (on : d.fld R.qmMirrorCtl 0 1 = 1) (ready : d.hostReady = true) :
    ∃ a, d.mirrorWrite = { d.mirrorSent a d.qm.mirrorSeq with
      qm := { d.qm with
        mirrorSeq := (d.qm.mirrorSeq + 2) % 4294967296 } } := by
  unfold Dev.mirrorWrite
  rw [if_neg (by rw [on]; decide), if_neg (by rw [ready]; decide)]
  exact ⟨_, rfl⟩

theorem fld_of_reg {a b : Dev} {o : Nat} (h : b.reg o = a.reg o) (lo n : Nat) : b.fld o lo n = a.fld o lo n := by
  unfold Dev.fld
  rw [h]

/-- The hub's part of a tick without a schedule: the guarantees' check, then the mirror. -/
theorem frameHub_idle {d : Dev} (reset : d.chip.computeReset = false) (sched : d.chip.sched = false) :
    d.frameHub = { d.guarantees.mirrorWrite with
      qm := { d.guarantees.mirrorWrite.qm with
        frameOps := []
        frameBad := [] } } := by
  have idle : d.frameLive = d := if_pos (by unfold Dev.live; rw [sched]; rfl)
  unfold Dev.frameHub
  rw [if_neg (by rw [reset]; decide), idle]

section
variable {s : State} (due : s.dev.tickDue 2 = true) (reset : s.dev.chip.computeReset = false)
  (sched : s.dev.chip.sched = false) (on : s.dev.fld R.qmMirrorCtl 0 1 = 1)
include due reset sched

theorem exec_controlFrameTick_idle : exec .controlFrameTick s = .next { s with
    dev := { s.dev.frameVoted.guarantees.mirrorWrite with
      qm := { s.dev.frameVoted.guarantees.mirrorWrite.qm with
        frameOps := []
        frameBad := [] } } } := by
  obtain ⟨reset', sched', -, -⟩ := frameVoted_state s.dev
  have run := exec_controlFrameTick due
  rwa [controlFrame_eq, frameHub_idle (reset'.trans reset) (sched'.trans sched)] at run

omit due reset sched in
/-- What the mirror finds: the registers below the guarantees' counts, the host link, the queue manager and the outputs
are as before the tick. -/
theorem guaranteed_effect (d : Dev) : (∀ o < 0x51200, d.frameVoted.guarantees.reg o = d.reg o) ∧
    d.frameVoted.guarantees.hostReady = d.hostReady ∧ d.frameVoted.guarantees.qm = d.qm ∧
    d.frameVoted.guarantees.out = d.out := by
  have voted := kept_frameVoted d
  have checked := (grows_guarantees d.frameVoted).kept
  refine ⟨fun o low => (guarantees_reg _ low).trans (regsBut_frameVoted d o ?_),
    hostReady_of_host ((checked.same .host (by decide)).trans (voted.same .host (by decide))),
    (checked.same .qm (by decide)).trans (voted.same .qm (by decide)),
    (checked.same .out (by decide)).trans (voted.same .out (by decide))⟩
  simp only [List.mem_singleton, R.hpEvlogLost]
  omega

include on

theorem controlFrame_skips (busy : s.dev.hostReady = false) : Runs .controlFrameTick s fun t =>
    Counted s.dev t.dev R.qmMirrorSkip ∧ t.dev.out = s.dev.out ∧ t.dev.qm.mirrorSeq = s.dev.qm.mirrorSeq := by
  obtain ⟨regs, ready, qm, out⟩ := guaranteed_effect s.dev
  refine ⟨_, exec_controlFrameTick_idle due reset sched, ?_⟩
  generalize s.dev.frameVoted.guarantees = d at regs ready qm out
  have skipped := mirrorWrite_skips (d := d) (by rw [fld_of_reg (regs _ (by decide))]; exact on) (by rw [ready]; exact busy)
  have told := kept_event_low (d.bump R.qmMirrorSkip) (cls := 5) (by decide) 0xA020 4 0xFF [d.ctrlFrame] 0xFF 0xFFFF
  have counted : d.mirrorWrite.reg R.qmMirrorSkip = min 0xFFFFFFFF (d.reg R.qmMirrorSkip + 1) := by
    rw [skipped]
    exact (event_reg _ _ _ _ _ _ _ _ _ (by decide)).trans (Dev.reg_bump_self ..)
  refine ⟨?_, ?_, ?_⟩
  · unfold Counted
    rw [← regs _ (by decide)]
    exact counted
  · rw [← out]
    dsimp only
    rw [skipped]
    exact told.same .out (by decide)
  · rw [← qm]
    dsimp only
    rw [skipped]
    exact congrArg QueueMgr.mirrorSeq (told.same .qm (by decide))

theorem controlFrame_writes (ready' : s.dev.hostReady = true) : Runs .controlFrameTick s fun t =>
    t.dev.qm.mirrorSeq = (s.dev.qm.mirrorSeq + 2) % 2 ^ 32 ∧ t.dev.reg R.qmMirrorSkip = s.dev.reg R.qmMirrorSkip ∧
      ∃ l, t.dev.out = s.dev.out ++ l ∧ l ≠ [] ∧ ∀ o ∈ l, ∃ a bs, o = .hostWrite a bs := by
  obtain ⟨regs, ready, qm, out⟩ := guaranteed_effect s.dev
  refine ⟨_, exec_controlFrameTick_idle due reset sched, ?_⟩
  generalize s.dev.frameVoted.guarantees = d at regs ready qm out
  obtain ⟨a, written⟩ := mirrorWrite_writes (d := d) (by rw [fld_of_reg (regs _ (by decide))]; exact on)
    (by rw [ready]; exact ready')
  obtain ⟨l, sent, some, writes⟩ := mirrorSent_out d a d.qm.mirrorSeq
  dsimp only
  rw [written]
  refine ⟨by rw [← qm]; rfl, ?_, l, by rw [← out]; exact sent, some, writes⟩
  rw [← regs _ (by decide)]
  exact congrArg (fun t : Table Word => (tget regReset t R.qmMirrorSkip).toNat) ((kept_mirrorSent d a d.qm.mirrorSeq).same .regs (by decide))

end

end Sys2Proof.Machine

namespace Sys2Proof.Machine

/-! ## PERCEPTION_FRAME_TICK -/

theorem exec_perceptionFrameTick {s : State} (due : s.dev.tickDue 3 = true) :
    exec .perceptionFrameTick s = .next { s with
      dev := s.dev.perceptionFrame } := by
  have e : exec .perceptionFrameTick s = execPerceptionFrameTick s := rfl
  unfold execPerceptionFrameTick at e
  exact e.trans (onDevIf_met _ due)

theorem kept_trustAll (d : Dev) : Kept [.regs, .log] d d.trustAll := by
  refine kept_foldl (fun d n => ?_) _ _
  dsimp only
  split
  · exact kept_refl ..
  · exact kept_event_low d (cls := 0) (by decide) ..

theorem kept_initState (d : Dev) : Kept hubWork d d.initState := by
  unfold Dev.initState
  extract_lets src n
  split
  · exact kept_refl ..
  · split
    · exact (grows_denyN ..).kept
    · split
      · exact (grows_denyN ..).kept
      · exact Kept_mono (kept_copy ..) (by decide)

theorem instar_fus (d : Dev) : d.instar.fus.began = d.fus.began ∧ d.instar.fus.instar = true ∧
    d.instar.fus.ups = d.fus.ups := ⟨rfl, rfl, rfl⟩

theorem instar_time (d : Dev) : d.instar.time = d.time := rfl

/-- How instar begins: the streams' trust, the updates afresh, the state's initial contents, then the instar's count. -/
theorem instarBegin_eq (d : Dev) : ∃ g : Fusion → Fusion, (∀ f, (g f).began = true ∧ (g f).ups = []) ∧
    d.instarBegin = ((d.trustAll.modFus g).initState).instar := ⟨_, fun _ => ⟨rfl, rfl⟩, rfl⟩

/-- Instar begins: the updates start afresh. -/
theorem instarBegin_effect (d : Dev) : d.instarBegin.fus.began = true ∧ d.instarBegin.fus.instar = true ∧
    d.instarBegin.fus.ups = [] ∧ d.instarBegin.time = d.time := by
  obtain ⟨g, fresh, begun⟩ := instarBegin_eq d
  have same := kept_initState (d.trustAll.modFus g)
  have fus : (d.trustAll.modFus g).initState.fus = g d.trustAll.fus := same.same .fus (by decide)
  have time : (d.trustAll.modFus g).initState.time = d.time :=
    (same.same .time (by decide)).trans ((kept_trustAll d).same .time (by decide))
  rw [begun]
  generalize (d.trustAll.modFus g).initState = e at fus time
  obtain ⟨began, instar, ups⟩ := instar_fus e
  refine ⟨began.trans ?_, instar, ups.trans ?_, (instar_time e).trans time⟩
  · rw [fus]
    exact (fresh _).1
  · rw [fus]
    exact (fresh _).2

theorem perceptionFrame_off {s : State} (due : s.dev.tickDue 3 = true) (off : s.dev.live = false) :
    Runs .perceptionFrameTick s fun t =>
      t.dev.time.ticked = s.dev.time.ticked ++ [3] ∧ t.dev.time.now = s.dev.time.now ∧ Only [.time] s t := by
  have idle : s.dev.perceptionFrame = s.dev.tick 3 := if_pos off
  have run := exec_perceptionFrameTick due
  rw [idle] at run
  exact ⟨_, run, rfl, rfl, only_dev (kept_tick ..)⟩

theorem perceptionFrame_live {d : Dev} (live : d.live = true) : d.perceptionFrame =
    if d.fus.began = true then (d.tick 3).wakeClass 3 else ((d.tick 3).wakeClass 3).instarBegin := by
  have began : ((d.tick 3).wakeClass 3).fus.began = d.fus.began :=
    congrArg Fusion.began ((kept_wakeClass ..).same .fus (by decide))
  have on : (d.tick 3).live = true := live
  unfold Dev.perceptionFrame
  dsimp only
  rw [on, began, if_neg (by decide)]

theorem perceptionFrame_begins {s : State} (due : s.dev.tickDue 3 = true) (live : s.dev.live = true)
    (first : s.dev.fus.began = false) : Runs .perceptionFrameTick s fun t =>
      t.dev.time.ticked = s.dev.time.ticked ++ [3] ∧ t.dev.fus.began = true ∧ t.dev.fus.instar = true ∧
      t.dev.fus.ups = [] := by
  have run := exec_perceptionFrameTick due
  rw [perceptionFrame_live live, if_neg (by rw [first]; decide)] at run
  obtain ⟨began, instar, ups, time⟩ := instarBegin_effect ((s.dev.tick 3).wakeClass 3)
  refine ⟨_, run, ?_, began, instar, ups⟩
  exact congrArg TimeBase.ticked (time.trans ((kept_wakeClass ..).same .time (by decide)))

theorem perceptionFrame_again {s : State} (due : s.dev.tickDue 3 = true) (live : s.dev.live = true)
    (again : s.dev.fus.began = true) : Runs .perceptionFrameTick s fun t =>
      t.dev.fus = s.dev.fus ∧ Only [.time, .blocks, .ops, .regs] s t := by
  have run := exec_perceptionFrameTick due
  rw [perceptionFrame_live live, if_pos again] at run
  have kept : Kept [.time, .blocks, .ops, .regs] s.dev ((s.dev.tick 3).wakeClass 3) :=
    Kept_then (Kept_mono (kept_tick ..) (by decide)) (kept_wakeClass ..) (by decide)
  exact ⟨_, run, kept.same .fus (by decide), only_dev kept⟩

/-! ## AUDIO_BLOCK_TICK -/

/-- The wait of thread `n` of block `b`. -/
def Dev.waitOf (d : Dev) (b n : Nat) : Wait := ((d.blk b).thr n).wait

theorem waitOf_modThr_self (d : Dev) (b n : Nat) (f : Thread → Thread) :
    (d.modThr b n f).waitOf b n = (f ((d.blk b).thr n)).wait := by
  unfold Dev.waitOf Dev.modThr
  rw [Dev.blk_modBlk_self, thr_setThr_self]

theorem waitOf_modThr_ne (d : Dev) {b n x m : Nat} (f : Thread → Thread) (h : (x, m) ≠ (b, n)) :
    (d.modThr x m f).waitOf b n = d.waitOf b n := by
  unfold Dev.waitOf Dev.modThr
  by_cases hb : b = x
  · subst hb
    rw [Dev.blk_modBlk_self, thr_setThr_ne _ _ fun e => h (by rw [e])]
  · rw [Dev.blk_modBlk_ne _ _ hb]

theorem waitOf_of_blocks {a b : Dev} (h : b.blocks = a.blocks) (x n : Nat) : b.waitOf x n = a.waitOf x n := by
  unfold Dev.waitOf
  rw [blk_of_blocks h]

theorem wake_waitOf_ne (d : Dev) {b n x m : Nat} (e : Bool) (dl : Option Nat) (slot : Nat) (h : (x, m) ≠ (b, n)) :
    (d.wake x m e dl slot).waitOf b n = d.waitOf b n := by
  unfold Dev.wake
  dsimp only
  split
  · split
    · rw [waitOf_modThr_ne _ _ h, waitOf_of_blocks ((kept_alloc ..).same .blocks (by decide)), waitOf_modThr_ne _ _ h]
    · exact waitOf_modThr_ne _ _ h
  · exact waitOf_modThr_ne _ _ h
  · rfl

theorem wake_waitOf_cls {d : Dev} {b n c rd : Nat} {l : Option Nat} (h : d.waitOf b n = .cls c l rd) (e : Bool)
    (dl : Option Nat) (slot : Nat) : (d.wake b n e dl slot).waitOf b n = .none := by
  unfold Dev.waitOf at h
  unfold Dev.wake
  dsimp only
  rw [h]
  exact waitOf_modThr_self ..

theorem wake_waitOf_none {d : Dev} {b n : Nat} (h : d.waitOf b n = .none) (e : Bool) (dl : Option Nat) (slot : Nat) :
    d.wake b n e dl slot = d := by
  unfold Dev.waitOf at h
  unfold Dev.wake
  dsimp only
  rw [h]

/-- One thread of a list wakes, if its tile runs. -/
def Dev.wakeOne (d : Dev) (h : Nat × Nat) : Dev :=
  if d.tileUp (tileOf h.1) then d.wake h.1 h.2 false none 0xFFFF else d

theorem wakeOne_waitOf_none {d : Dev} {b n : Nat} (h : d.waitOf b n = .none) (x : Nat × Nat) :
    (d.wakeOne x).waitOf b n = .none := by
  unfold Dev.wakeOne
  split
  · by_cases e : x = (b, n)
    · subst e
      rw [wake_waitOf_none h]
      exact h
    · rw [wake_waitOf_ne d _ _ _ e]
      exact h
  · exact h

theorem wakeAll_waitOf_none (l : List (Nat × Nat)) {d : Dev} {b n : Nat} (h : d.waitOf b n = .none) :
    (l.foldl Dev.wakeOne d).waitOf b n = .none := by
  induction l generalizing d with
  | nil => exact h
  | cons x l ih => exact ih (wakeOne_waitOf_none h x)

/-- A thread of the list that waits for a class waits no more. -/
theorem wakeAll_waitOf {l : List (Nat × Nat)} {d : Dev} {b n c rd : Nat} {lim : Option Nat} (listed : (b, n) ∈ l)
    (wait : d.waitOf b n = .cls c lim rd) (up : d.tileUp (tileOf b) = true) :
    (l.foldl Dev.wakeOne d).waitOf b n = .none := by
  induction l generalizing d with
  | nil => exact absurd listed List.not_mem_nil
  | cons x l ih =>
    rw [List.foldl_cons]
    by_cases e : x = (b, n)
    · subst e
      refine wakeAll_waitOf_none l ?_
      unfold Dev.wakeOne
      rw [if_pos up]
      exact wake_waitOf_cls wait ..
    · have kept : Kept [.blocks, .ops, .regs] d (d.wakeOne x) := by
        unfold Dev.wakeOne
        split
        · exact kept_wake ..
        · exact kept_refl ..
      refine ih ((List.mem_cons.1 listed).resolve_left fun h => e h.symm) ?_ ?_
      · unfold Dev.wakeOne
        split
        · rw [wake_waitOf_ne d _ _ _ e]
          exact wait
        · exact wait
      · unfold Dev.tileUp Dev.tile
        rw [kept.same .tiles (by decide)]
        exact up

/-- A thread that waits for a class is listed among those that wait for it. -/
theorem mem_waiting {d : Dev} {b n : Nat} {p : Wait → Bool} (wait : p (d.waitOf b n) = true) (idle : p .none = false) :
    (b, n) ∈ d.waiting p := by
  have thread : (n, (d.blk b).thr n) ∈ (d.blk b).threads := mem_of_tget fun e => by
    have : (d.blk b).thr n = {} := e
    unfold Dev.waitOf at wait
    rw [this] at wait
    exact absurd (wait.symm.trans idle) (by decide)
  have block : (b, d.blk b) ∈ d.blocks := mem_of_tget fun e => by
    have : d.blk b = blkDef b := e
    have none : (blkDef b).threads = [] := by
      unfold blkDef
      split <;> rfl
    rw [this, none] at thread
    exact absurd thread List.not_mem_nil
  unfold Dev.waiting
  exact List.mem_flatMap.2 ⟨(b, d.blk b), block, List.mem_map.2 ⟨(n, (d.blk b).thr n), List.mem_filter.2 ⟨thread, wait⟩, rfl⟩⟩

theorem wakeClass_waitOf {d : Dev} {b n c rd : Nat} {lim : Option Nat} (wait : d.waitOf b n = .cls c lim rd)
    (up : d.tileUp (tileOf b) = true) : (d.wakeClass c).waitOf b n = .none :=
  wakeAll_waitOf (mem_waiting (by rw [wait]; exact beq_self_eq_true c) rfl) wait up

theorem exec_audioBlockTick {s : State} (due : s.dev.tickDue 1 = true) :
    exec .audioBlockTick s = .next { s with
      dev := if s.dev.live then (s.dev.tick 1).wakeClass 1 else s.dev.tick 1 } := by
  have e : exec .audioBlockTick s = execAudioBlockTick s := rfl
  unfold execAudioBlockTick at e
  exact e.trans (onDevIf_met _ due)

theorem audioBlock_effect {s : State} (due : s.dev.tickDue 1 = true) : Runs .audioBlockTick s fun t =>
    t.dev.time.ticked = s.dev.time.ticked ++ [1] ∧ (s.dev.live = false → Only [.time] s t) ∧
    (s.dev.live = true → ∀ b n l rd, ((s.dev.blk b).thr n).wait = .cls 1 l rd → s.dev.tileUp (tileOf b) = true →
      ((t.dev.blk b).thr n).wait = .none) ∧
    Only [.time, .blocks, .ops, .regs] s t := by
  have run := exec_audioBlockTick due
  cases live : s.dev.live with
  | false =>
    rw [live, if_neg (by decide)] at run
    exact ⟨_, run, rfl, fun _ => only_dev (kept_tick ..), fun h => absurd h (by decide),
      only_dev (Kept_mono (kept_tick ..) (by decide))⟩
  | true =>
    rw [live, if_pos rfl] at run
    have woken := kept_wakeClass (s.dev.tick 1) 1
    refine ⟨_, run, congrArg TimeBase.ticked (woken.same .time (by decide)), fun h => absurd h (by decide),
      fun _ b n l rd wait up => ?_, only_dev (Kept_then (Kept_mono (kept_tick ..) (by decide)) woken (by decide))⟩
    exact wakeClass_waitOf (d := s.dev.tick 1) (lim := l) (rd := rd) wait up

end Sys2Proof.Machine

namespace Sys2Proof.Machine

/-! ## The parts of an epoch tick -/

theorem grows_acctWrite (d : Dev) : Grows [.out, .qm, .regs, .log] d d.acctWrite := by
  unfold Dev.acctWrite
  split
  · exact grows_refl ..
  · split
    · exact Grows_mono (grows_event _ (cls := 5) (by decide) ..) (by decide)
    · extract_lets a e
      have sent : Grows [.out] d e := grows_foldl (fun _ _ => Grows_trans (grows_hostWrite ..) (grows_hostWrite ..)) ..
      exact Grows_then (Grows_mono sent (by decide)) (grows_of_kept (kept_qm ..) (by decide)) (by decide)

theorem kept_refill (d : Dev) : Kept [.qm, .srv] d d.refill := by
  refine ⟨fun f hf => ?_⟩
  cases f with
  | qm | srv => exact absurd (by decide) hf
  | _ => rfl

theorem grows_holdTick (d : Dev) : Grows hubWork d d.holdTick := by
  refine grows_foldl (fun d k => ?_) ..
  extract_lets n e
  have counted : Grows hubWork d e := grows_kept (kept_modReq ..) (by decide)
  split
  · exact Grows_trans counted (grows_kept (kept_finish ..) (by decide))
  · exact counted

theorem grows_stallEpoch (d : Dev) : Grows hubWork d d.stallEpoch := by
  refine grows_foldl (fun d t => ?_) ..
  extract_lets n e
  have counted : Grows hubWork d e := grows_kept (kept_modTile ..) (by decide)
  split
  · exact counted
  · exact Grows_then counted (grows_event _ (cls := 0) (by decide) ..) (by decide)

/-! ### Thermal steps -/

/-- The fields that an island's thermal step reaches. -/
def stepWork : List DevField := .chA :: .chB :: .chip :: hubWork

theorem grows_modIsl (d : Dev) (i : Isl) (f : Island → Island) : Grows stepWork d (d.modIsl i f) :=
  grows_kept (kept_modIsl ..) (by decide)

theorem grows_islReq (d : Dev) (i : Isl) (cause : Nat) : Grows stepWork d (d.islReq i cause) := by
  unfold Dev.islReq
  split
  · exact grows_refl ..
  · exact Grows_then (Grows_trans (grows_kept (kept_askSafe ..) (by decide)) (grows_modIsl ..)) (grows_revoteOne ..) (by decide)

theorem grows_evIsl (d : Dev) (i : Isl) {cls : Nat} (h : cls ≠ 4) (code : Nat) (dt : List Nat) :
    Grows stepWork d (d.evIsl i cls code dt) := Grows_mono (grows_event d h ..) (by decide)

theorem grows_stepEval (d : Dev) (i : Isl) : Grows stepWork d (d.stepEval i) := by
  unfold Dev.stepEval
  extract_lets s old new shed a b c
  split
  · exact grows_refl ..
  · have ha : Grows stepWork d a := grows_modIsl ..
    clear_value a
    have hb : Grows stepWork d b := by
      unfold b
      split
      · exact Grows_trans ha (grows_evIsl a i (by decide) ..)
      · exact Grows_trans ha (grows_evIsl a i (by decide) ..)
    clear_value b
    have hc : Grows stepWork d c := by
      unfold c
      split
      · exact Grows_trans hb (grows_islReq ..)
      · exact hb
    exact Grows_then (Grows_then hc (grows_shedLoad ..) (by decide)) (grows_revoteOne ..) (by decide)

theorem grows_ownRaise (d : Dev) (i : Isl) (n : Nat) : Grows stepWork d (d.ownRaise i n) := by
  unfold Dev.ownRaise
  split
  · exact grows_refl ..
  · exact Grows_trans (grows_modIsl ..) (grows_stepEval ..)

theorem grows_thermalEpoch (d : Dev) (i : Isl) : Grows stepWork d (d.thermalEpoch i) := by
  unfold Dev.thermalEpoch
  extract_lets e s n
  have sampled : Grows stepWork d e := grows_modIsl ..
  clear_value e
  split
  · exact grows_refl ..
  · split
    · exact Grows_trans sampled (grows_ownRaise ..)
    · split
      · exact Grows_trans sampled (grows_modIsl ..)
      · split
        · exact Grows_trans sampled (grows_modIsl ..)
        · exact Grows_trans (Grows_trans sampled (grows_modIsl ..)) (grows_stepEval ..)

theorem grows_life (d : Dev) (i : Isl) : Grows stepWork d (d.life i) := by
  unfold Dev.life
  extract_lets due x u a b y z
  split
  · exact grows_refl ..
  · have hy : Grows stepWork d y := Grows_trans (grows_modIsl d i _) (grows_modIsl x i _)
    have hz : Grows stepWork d z := by
      unfold z
      split
      · exact Grows_trans hy (grows_evIsl y i (by decide) ..)
      · exact hy
    split
    · exact Grows_trans hz (grows_evIsl z i (by decide) ..)
    · exact hz

/-! ### Lanes and links -/

/-- The fields that the optical telemetry reaches. -/
def opticWork : List DevField := [.links, .host, .log, .regs]

theorem grows_startRetrain (d : Dev) (port : Nat) : Grows opticWork d (d.startRetrain port) := by
  obtain ⟨-, -, log, kept⟩ := startRetrain_effect d port
  exact ⟨kept, log, ⟨[], (kept.same .out (by decide)).trans (List.append_nil _).symm⟩,
    by rw [kept.same .chip (by decide)]⟩

theorem grows_modLane (d : Dev) (n : Nat) (f : OptLane → OptLane) : Grows opticWork d (d.modLane n f) :=
  grows_kept (kept_modLane ..) (by decide)

theorem grows_laneSample (d : Dev) (q : LaneSample) : Grows opticWork d (d.laneSample q) := by
  unfold Dev.laneSample
  extract_lets n x a b c e
  split
  · exact grows_refl ..
  · have hb : Grows opticWork d b := Grows_trans (grows_modLane ..) (grows_kept (kept_setReg ..) (by decide))
    clear_value b
    have hc : Grows opticWork d c := by
      unfold c
      split
      · exact Grows_then hb (grows_event b (cls := 5) (by decide) ..) (by decide)
      · split
        · exact Grows_then hb (grows_event b (cls := 5) (by decide) ..) (by decide)
        · exact hb
    clear_value c
    have he : Grows opticWork d e := Grows_trans hc (grows_modLane ..)
    clear_value e
    split
    · split
      · exact Grows_trans (Grows_trans he (grows_modLane ..)) (grows_startRetrain ..)
      · exact he
    · exact hc

theorem grows_telemetry (d : Dev) (lanes : List LaneSample) : Grows opticWork d (d.telemetry lanes) :=
  grows_foldl (fun _ _ => grows_laneSample ..) ..

theorem grows_evLink (d : Dev) {cls : Nat} (h : cls ≠ 4) (code k : Nat) (dt : List Nat) :
    Grows opticWork d (d.evLink cls code k dt) := by
  obtain ⟨rg, bl, -, -, told, -⟩ := evLink_eq d cls code k dt
  rw [told]
  exact Grows_mono (grows_event d h ..) (by decide)

theorem grows_linksEpoch (d : Dev) : Grows opticWork d d.linksEpoch := by
  unfold Dev.linksEpoch
  extract_lets e
  refine Grows_then ?_ (grows_of_kept (kept_links e _) (by decide)) (by decide)
  refine grows_foldl (fun d x => ?_) ..
  split
  · exact grows_refl ..
  · exact grows_evLink d (by decide) ..

/-! ## EPOCH_TICK -/

/-- The epoch as its tick begins: the powered hour, the follower's mismatch, and what leaves the ports. -/
def Dev.epochBegun (d : Dev) : Dev := (((d.tick 4).hourTick).mismatchTick).gptpEpoch

/-- The hub's part of an epoch tick. -/
def Dev.epochHub (d : Dev) : Dev :=
  let d := doIf Dev.live (fun d => d.wakeClass 4) d
  (if d.chip.computeReset then d else (d.acctWrite.refill).holdTick).stallEpoch

/-- The islands' part and the links' part of an epoch tick. -/
def Dev.epochEnd (d : Dev) (lanes : List LaneSample) : Dev :=
  let d := (d.thermalEpoch .a).thermalEpoch .b
  let d := (d.life .a).life .b
  (d.telemetry lanes).linksEpoch

theorem epochTick_eq (d : Dev) (lanes : List LaneSample) :
    Dev.epochTick lanes d = ((d.epochBegun.epochHub.powerEpoch).epochEnd lanes).epochCounts := rfl

/-- The fields that the hub's part of an epoch tick reaches. -/
def epochWork : List DevField := .out :: hubWork

theorem grows_epochHub (d : Dev) : Grows epochWork d d.epochHub := by
  unfold Dev.epochHub doIf
  extract_lets e
  have woken : Grows epochWork d e := grows_ite (grows_kept (kept_wakeClass ..) (by decide)) (grows_refl ..)
  clear_value e
  refine Grows_then ?_ (grows_stallEpoch _) (by decide)
  split
  · exact woken
  · exact Grows_then (Grows_then (Grows_then woken (grows_acctWrite e) (by decide)) (grows_of_kept (kept_refill _) (by decide)) (by decide))
      (grows_holdTick _) (by decide)

/-- The fields that the islands' and the links' part of an epoch tick reaches. -/
def fieldWork : List DevField := .links :: .host :: stepWork

theorem grows_epochEnd (d : Dev) (lanes : List LaneSample) : Grows fieldWork d (d.epochEnd lanes) := by
  have steps : Grows fieldWork d ((d.thermalEpoch .a).thermalEpoch .b) :=
    Grows_mono (Grows_trans (grows_thermalEpoch ..) (grows_thermalEpoch ..)) (by decide)
  have lives := Grows_then (Grows_then steps (grows_life _ .a) (by decide)) (grows_life _ .b) (by decide)
  exact Grows_then (Grows_then lives (grows_telemetry _ lanes) (by decide)) (grows_linksEpoch _) (by decide)

theorem grows_powerEpoch (d : Dev) : Grows [.pwr, .regs, .log] d d.powerEpoch := by
  unfold Dev.powerEpoch
  extract_lets high m _ e
  have counted : Grows [.pwr, .regs, .log] d e := grows_kept (kept_pwr ..) (by decide)
  split
  · exact Grows_then counted (grows_event e (cls := 5) (by decide) ..) (by decide)
  · exact counted

theorem powerEpoch_pwr (d : Dev) : d.powerEpoch.pwr = { d.pwr with
    epMean := if d.pwr.epN = 0 then 0 else d.pwr.epSum / d.pwr.epN / 10
    epSum := 0, epN := 0, peakI := 0, coreOver := false } := by
  unfold Dev.powerEpoch
  extract_lets high m _ e
  split
  · exact (kept_event_low e (cls := 5) (by decide) ..).same .pwr (by decide)
  · rfl

theorem kept_epochCounts (d : Dev) : Kept [.blocks, .dram, .host, .sec] d d.epochCounts := by
  refine ⟨fun f hf => ?_⟩
  cases f with
  | blocks | dram | host | sec => exact absurd (by decide) hf
  | _ => rfl

theorem linksEpoch_retries (d : Dev) (k : Nat) : (d.linksEpoch.link k).retriesEp = 0 := by
  unfold Dev.linksEpoch Dev.link
  extract_lets e
  exact congrArg Link.retriesEp
    (tget_mapSnd (f := fun x : Link => { x with retriesEp := 0, attrs := [] }) (g := fun _ => {}) rfl e.links.links)

/-- All that follows the power's mean leaves the power, the time and, beside primary output, the chip. -/
theorem epochTick_after (d : Dev) (lanes : List LaneSample) :
    Grows (.dram :: .sec :: fieldWork) d.epochBegun.epochHub.powerEpoch (Dev.epochTick lanes d) := by
  rw [epochTick_eq]
  exact Grows_then (Grows_mono (grows_epochEnd _ lanes) (by decide)) (grows_of_kept (kept_epochCounts _) (by decide)) (by decide)

theorem grows_epochTick (d : Dev) (lanes : List LaneSample) :
    Grows (.out :: .pwr :: .dram :: .sec :: fieldWork) d.epochBegun (Dev.epochTick lanes d) :=
  Grows_then (Grows_then (Grows_mono (grows_epochHub _) (by decide)) (grows_powerEpoch _) (by decide)) (epochTick_after d lanes) (by decide)

/-! ### What leaves the ports -/

theorem emits_out (f : Nat → Out) (l : List Nat) (d : Dev) :
    (l.foldl (fun (d : Dev) p => d.emit (f p)) d).out = d.out ++ l.map f := by
  induction l generalizing d with
  | nil => exact (List.append_nil _).symm
  | cons p l ih => exact (ih _).trans (List.append_assoc ..)

theorem kept_emits (f : Nat → Out) (l : List Nat) (d : Dev) :
    Kept [.out] d (l.foldl (fun (d : Dev) p => d.emit (f p)) d) := kept_foldl (fun _ _ => kept_emit ..) ..

theorem gptpPorts_of_same {a b : Dev} (regs : b.reg R.tkGptpCfg = a.reg R.tkGptpCfg) (links : b.links = a.links) :
    b.gptpPorts = a.gptpPorts := by
  unfold Dev.gptpPorts
  rw [regs, links]

theorem masterPorts_of_same {a b : Dev} (regs : b.reg R.tkGptpCfg = a.reg R.tkGptpCfg) (links : b.links = a.links) :
    b.masterPorts = a.masterPorts := by
  unfold Dev.masterPorts
  rw [gptpPorts_of_same regs links, slavePort_of_regs regs]

theorem reg_of_kept {p : List DevField} {a b : Dev} (h : Kept p a b) (o : Nat)
    (regs : DevField.regs ∉ p) : b.reg o = a.reg o := by
  unfold Dev.reg
  rw [h.same .regs regs]

/-- Peer delay requests leave the sensor ports, and Announce the master ports, with the module's own time source where
there is no slave port. -/
theorem gptpEpoch_effect (d : Dev) : Kept [.out, .free] d d.gptpEpoch ∧ ∃ src,
    d.gptpEpoch.out = d.out ++ d.gptpPorts.map (fun p => Out.pdelayReq p 0) ++
      d.masterPorts.map (fun p => Out.announce p 0 src) ∧ (d.slavePort = none → src = 0xA0) := by
  unfold Dev.gptpEpoch
  extract_lets e
  have asked : Kept [.out, .free] d e := Kept_mono (kept_emits ..) (by decide)
  have out : e.out = d.out ++ d.gptpPorts.map fun p => Out.pdelayReq p 0 := emits_out (fun p => Out.pdelayReq p 0) _ _
  clear_value e
  have announce (x : Nat) (y : Dev) (k : Kept [.free] e y) :
      Kept [.out, .free] d (y.masterPorts.foldl (fun (d : Dev) p => d.emit (.announce p 0 x)) y) ∧
        (y.masterPorts.foldl (fun (d : Dev) p => d.emit (.announce p 0 x)) y).out =
          d.out ++ d.gptpPorts.map (fun p => Out.pdelayReq p 0) ++ d.masterPorts.map (fun p => Out.announce p 0 x) := by
    have ky : Kept [.out, .free] d y := Kept_then asked k (by decide)
    refine ⟨Kept_then ky (kept_emits ..) (by decide), (emits_out (fun p => Out.announce p 0 x) _ _).trans ?_⟩
    rw [k.same .out (by decide), out, masterPorts_of_same (reg_of_kept ky _ (by decide)) (ky.same .links (by decide))]
  have slave : e.slavePort = d.slavePort := slavePort_of_regs (reg_of_kept asked _ (by decide))
  by_cases h : d.slavePort = none
  · rw [slave, h]
    obtain ⟨kept, sent⟩ := announce 0xA0 e (kept_refl ..)
    exact ⟨kept, 0xA0, sent, fun _ => rfl⟩
  · obtain ⟨p, hp⟩ := Option.ne_none_iff_exists'.1 h
    rw [slave, hp]
    obtain ⟨kept, sent⟩ := announce (e.fresh.1 % 256) e.fresh.2 (kept_fresh e)
    exact ⟨kept, e.fresh.1 % 256, sent, fun n => absurd n (by simp)⟩

theorem kept_hourTick (d : Dev) : Kept [.chip] d d.hourTick := by
  unfold Dev.hourTick
  extract_lets c
  split
  · exact kept_chip ..
  · exact kept_chip ..

theorem hourTick_chip (d : Dev) :
    d.hourTick.chip.hours =
      (if d.chip.hourEp + 1 < 3600 then d.chip.hours else min 0xFFFFFFFF (d.chip.hours + 1)) ∧
    d.hourTick.chip.hourEp = (if d.chip.hourEp + 1 < 3600 then d.chip.hourEp + 1 else 0) ∧
    d.hourTick.chip.phase = d.chip.phase := by
  unfold Dev.hourTick
  extract_lets c
  split
  · exact ⟨rfl, rfl, rfl⟩
  · exact ⟨rfl, rfl, rfl⟩

theorem kept_mismatchTick (d : Dev) : Kept [.regs, .log] d d.mismatchTick := by
  unfold Dev.mismatchTick
  split
  · exact kept_event_low d (cls := 5) (by decide) ..
  · exact kept_refl ..

theorem mismatchTick_reg (d : Dev) : d.mismatchTick.reg R.tkGptpCfg = d.reg R.tkGptpCfg := by
  unfold Dev.mismatchTick
  split
  · exact event_reg _ _ _ _ _ _ _ _ _ (by decide)
  · rfl

/-- What an epoch's beginning leaves: the tick marked, the hour counted, and what leaves the ports. -/
theorem epochBegun_effect (d : Dev) : d.epochBegun.time = (d.tick 4).time ∧ d.epochBegun.chip = (d.tick 4).hourTick.chip ∧
    d.epochBegun.pwr = d.pwr ∧ ∃ src, d.epochBegun.out = d.out ++ d.gptpPorts.map (fun p => Out.pdelayReq p 0) ++
      d.masterPorts.map (fun p => Out.announce p 0 src) ∧ (d.slavePort = none → src = 0xA0) := by
  have hour := kept_hourTick (d.tick 4)
  have told := kept_mismatchTick (d.tick 4).hourTick
  have before : Kept [.time, .chip, .regs, .log] d (d.tick 4).hourTick.mismatchTick :=
    Kept_then (Kept_then (Kept_mono (kept_tick d 4) (by decide)) hour (by decide)) told (by decide)
  have cfg : (d.tick 4).hourTick.mismatchTick.reg R.tkGptpCfg = d.reg R.tkGptpCfg :=
    (mismatchTick_reg _).trans (reg_of_kept hour _ (by decide))
  obtain ⟨sent, src, out, own⟩ := gptpEpoch_effect (d.tick 4).hourTick.mismatchTick
  refine ⟨(sent.same .time (by decide)).trans ((told.same .time (by decide)).trans (hour.same .time (by decide))),
    (sent.same .chip (by decide)).trans (told.same .chip (by decide)),
    (sent.same .pwr (by decide)).trans (before.same .pwr (by decide)), src, ?_, fun h => own ?_⟩
  · refine out.trans ?_
    rw [before.same .out (by decide), gptpPorts_of_same cfg (before.same .links (by decide)),
      masterPorts_of_same cfg (before.same .links (by decide))]
  · rw [slavePort_of_regs cfg]
    exact h

end Sys2Proof.Machine

namespace Sys2Proof.Machine

/-- What survives power, with the powered hours stored where they have changed. -/
def Nv.storeHours (n : Nv) (now hours : Nat) : Nv :=
  if hours = n.store.hours then n else { n with store := { n.store with hoursRec := n.store.hoursRec.write now hours } }

theorem storeHours_hours (n : Nv) (now hours : Nat) : (n.storeHours now hours).store.hours = hours := by
  unfold Nv.storeHours
  split
  · next h => exact h.symm
  · exact cur_write ..

theorem exec_epochTick {lanes : List LaneSample} {s : State} (due : s.dev.tickDue 4 = true) :
    exec (.epochTick lanes) s = .next { s with
      dev := Dev.epochTick lanes s.dev
      nv := s.nv.storeHours (Dev.epochTick lanes s.dev).time.now (Dev.epochTick lanes s.dev).chip.hours } := by
  have e : exec (.epochTick lanes) s = execEpochTick lanes s := rfl
  unfold execEpochTick onNv at e
  beta_reduce at e
  rw [if_pos due] at e
  exact e

theorem epochCounts_effect (d : Dev) : d.epochCounts.sec.reports = 0 ∧ d.epochCounts.host.caEp = 0 := ⟨rfl, rfl⟩

/-- What an epoch tick leaves of the device. -/
theorem epochTick_effect (d : Dev) (lanes : List LaneSample) :
    (Dev.epochTick lanes d).time = (d.tick 4).time ∧
    (Dev.epochTick lanes d).sec.reports = 0 ∧ (Dev.epochTick lanes d).host.caEp = 0 ∧
    (Dev.epochTick lanes d).pwr = { d.pwr with
      epMean := if d.pwr.epN = 0 then 0 else d.pwr.epSum / d.pwr.epN / 10
      epSum := 0, epN := 0, peakI := 0, coreOver := false } ∧
    (Dev.epochTick lanes d).chip.hours =
      (if d.chip.hourEp + 1 < 3600 then d.chip.hours else min 0xFFFFFFFF (d.chip.hours + 1)) ∧
    (Dev.epochTick lanes d).chip.hourEp = (if d.chip.hourEp + 1 < 3600 then d.chip.hourEp + 1 else 0) ∧
    (∀ k, ((Dev.epochTick lanes d).link k).retriesEp = 0) ∧
    (Dev.epochTick lanes d).chip.phase = d.chip.phase := by
  have grown := grows_epochTick d lanes
  have after := (epochTick_after d lanes).kept
  obtain ⟨time, chip, pwr, -⟩ := epochBegun_effect d
  obtain ⟨hours, hourEp, phase⟩ := hourTick_chip (d.tick 4)
  have hub : d.epochBegun.epochHub.pwr = d.pwr := ((grows_epochHub _).kept.same .pwr (by decide)).trans pwr
  rw [← chip] at hours hourEp phase
  obtain ⟨reports, caEp⟩ := epochCounts_effect (d.epochBegun.epochHub.powerEpoch.epochEnd lanes)
  rw [← epochTick_eq] at reports caEp
  refine ⟨(grown.kept.same .time (by decide)).trans time, reports, caEp, ?_, ?_, ?_, fun k => ?_, ?_⟩
  · rw [after.same .pwr (by decide), powerEpoch_pwr, hub]
  · rw [grown.chip]
    exact hours
  · rw [grown.chip]
    exact hourEp
  · rw [epochTick_eq]
    exact linksEpoch_retries _ k
  · rw [grown.chip]
    exact phase

theorem epochTick_runs {lanes : List LaneSample} {s : State} (due : s.dev.tickDue 4 = true) :
    Runs (.epochTick lanes) s fun t =>
      t.dev.time.ticked = s.dev.time.ticked ++ [4] ∧ t.dev.time.now = s.dev.time.now ∧
      t.dev.sec.reports = 0 ∧ t.dev.host.caEp = 0 ∧ t.dev.pwr.epSum = 0 ∧ t.dev.pwr.epN = 0 ∧
      t.dev.pwr.epMean = (if s.dev.pwr.epN = 0 then 0 else s.dev.pwr.epSum / s.dev.pwr.epN / 10) ∧
      t.dev.chip.hours = (if s.dev.chip.hourEp + 1 < 3600 then s.dev.chip.hours else min 0xFFFFFFFF (s.dev.chip.hours + 1)) ∧
      t.dev.chip.hourEp = (if s.dev.chip.hourEp + 1 < 3600 then s.dev.chip.hourEp + 1 else 0) ∧
      (∀ k, (t.dev.link k).retriesEp = 0) ∧ t.dev.chip.phase = s.dev.chip.phase ∧
      (t.dev.chip.hours = s.nv.store.hours → t.nv = s.nv) ∧
      (t.dev.chip.hours ≠ s.nv.store.hours → t.nv = { s.nv with store := { s.nv.store with
        hoursRec := s.nv.store.hoursRec.write s.dev.time.now t.dev.chip.hours } } ∧ t.nv.store.hours = t.dev.chip.hours) ∧
      t.pending = s.pending := by
  refine ⟨_, exec_epochTick due, ?_⟩
  obtain ⟨time, reports, caEp, pwr, hours, hourEp, retries, phase⟩ := epochTick_effect s.dev lanes
  generalize Dev.epochTick lanes s.dev = d at time reports caEp pwr hours hourEp retries phase
  have now : d.time.now = s.dev.time.now := by
    rw [time]
    rfl
  refine ⟨by rw [time]; rfl, now, reports, caEp, by rw [pwr], by rw [pwr], by rw [pwr], hours, hourEp,
    retries, phase, fun same => if_pos same, fun differ => ⟨?_, storeHours_hours ..⟩, rfl⟩
  rw [← now]
  exact if_neg differ

/-- Settles O47: the votes and the status mirror at a control-frame tick, the begin of instar, the threads that an audio
block's tick wakes, and the counts, means and hours of an epoch, each from the lemma of its command. -/
theorem ticksOfTheLongerClasses : Obligations.TicksOfTheLongerClasses := by
  unfold Obligations.TicksOfTheLongerClasses
  refine ⟨fun s due => ⟨controlFrame_enables due, controlFrame_disables due, controlFrame_inReset due,
    fun reset sched on => ⟨controlFrame_skips due reset sched on, controlFrame_writes due reset sched on⟩⟩,
    fun s due => ⟨perceptionFrame_off due, perceptionFrame_begins due, perceptionFrame_again due⟩,
    fun s due => audioBlock_effect due, fun lanes s due => epochTick_runs due⟩

end Sys2Proof.Machine

namespace Sys2Proof.Machine

/-! ## Integers in words -/

theorem unsigned_lt (n : Nat) (x : Int) : unsigned n x < 2 ^ n := by
  have pos : (0 : Int) < 2 ^ n := by positivity
  have low := Int.emod_nonneg x pos.ne'
  have high := Int.emod_lt_of_pos x pos
  unfold unsigned
  zify
  rwa [Int.toNat_of_nonneg low]

/-- A word gives back the integer of its range that it was written from. -/
theorem signed_unsigned {x : Int} (low : -2147483648 ≤ x) (high : x < 2147483648) : signed 32 (unsigned 32 x) = x := by
  have small := unsigned_lt 32 x
  have value : (unsigned 32 x : Int) = x % 4294967296 :=
    Int.toNat_of_nonneg (Int.emod_nonneg x (by norm_num))
  unfold signed
  rw [Nat.mod_eq_of_lt small]
  split <;> omega

theorem satFreq_bounds (x : Int) : -200000 ≤ satFreq x ∧ satFreq x ≤ 200000 := by
  unfold satFreq
  omega

/-! ## A Sync at the slave port -/

/-- The offset that a Sync finds. -/
def Dev.syncOff (d : Dev) (gm : Nat) : Int := (gm : Int) - d.time.now

/-- The offset is measured. -/
def Dev.offNoted (d : Dev) (off : Int) : Dev := d.setReg R.tkOffset (unsigned 32 (satOff off))

/-- The Sync is the last one. -/
def Dev.syncNoted (d : Dev) (off : Int) : Dev :=
  { d with time := { d.time with lastOff := off, lastSync := d.time.now } }

/-- An offset beyond 1 ms: Mismatch. -/
def Dev.mismatched (d : Dev) (off : Int) : Dev :=
  ((d.setFld R.tkSyncStatus 0 3 4).setReg R.tkFreqAdj 0).evFloor 5 0x3041 [unsigned 64 off]

/-- A Sync as the follower's state takes it, once the wait for it has been judged. -/
def Dev.syncJudged (d : Dev) (gm : Nat) : Dev :=
  let off := d.syncOff gm
  let st := d.fld R.tkSyncStatus 0 3
  let d := d.offNoted off
  (if st = 1 then (d.acquire gm).enterLocked off
    else if st = 4 then d
    else if 1000000 < off ∨ off < -1000000 then d.mismatched off
    else d.discipline off).syncNoted off

theorem syncIn_eq (d : Dev) (gm : Nat) : Dev.syncIn gm d = (if d.syncOver then d.holdover else d).syncJudged gm := rfl

theorem kept_offNoted (d : Dev) (off : Int) : Kept [.regs] d (d.offNoted off) := kept_setReg ..

theorem regsBut_offNoted (d : Dev) (off : Int) : RegsBut [R.tkOffset] d (d.offNoted off) := regsBut_setReg d _ _

theorem offNoted_reg (d : Dev) (off : Int) : (d.offNoted off).reg R.tkOffset = unsigned 32 (satOff off) :=
  (Dev.reg_setReg_self ..).trans (Nat.mod_eq_of_lt (unsigned_lt 32 _))

theorem kept_syncNoted (d : Dev) (off : Int) : Kept [.time] d (d.syncNoted off) := kept_time ..

theorem syncNoted_now (d : Dev) (off : Int) : (d.syncNoted off).time.now = d.time.now := rfl

theorem syncNoted_reg (d : Dev) (off : Int) (o : Nat) : (d.syncNoted off).reg o = d.reg o := rfl

theorem syncNoted_log (d : Dev) (off : Int) : (d.syncNoted off).log = d.log := rfl

/-- The registers that a Sync reaches. -/
def syncRegs : List Nat := [R.tkOffset, R.tkSyncStatus, R.tkFreqAdj, R.hpEvlogLost]

/-! ### Its effects by the follower's state -/

theorem enterLocked_effect (d : Dev) (off : Int) : (d.enterLocked off).fld R.tkSyncStatus 0 3 = 2 ∧
    (d.enterLocked off).log = d.log.put (regRec d 0 0x3042 5 0xFF [unsigned 64 off]) ∧
    RegsBut [R.tkSyncStatus, R.hpEvlogLost] d (d.enterLocked off) ∧ Kept [.regs, .log] d (d.enterLocked off) := by
  unfold Dev.enterLocked Dev.evFloor
  refine ⟨?_, event_log .., ?_, ?_⟩
  · rw [fld_of_regsBut (event_reg _ _ _ _ _ _ _ _) (by decide), fld_setFld_self _ _ (by decide)]
    rfl
  · exact RegsBut_trans (RegsBut_mono (regsBut_setFld _ _ _ _ _) (by decide))
      (RegsBut_mono (event_reg _ _ _ _ _ _ _ _) (by decide))
  · exact Kept_then (Kept_mono (kept_setFld ..) (by decide)) (kept_event_low _ (cls := 0) (by decide) ..) (by decide)

theorem mismatched_effect (d : Dev) (off : Int) : (d.mismatched off).fld R.tkSyncStatus 0 3 = 4 ∧
    (d.mismatched off).reg R.tkFreqAdj = 0 ∧
    (d.mismatched off).log = d.log.put (regRec d 5 0x3041 5 0xFF [unsigned 64 off]) ∧
    RegsBut [R.tkSyncStatus, R.tkFreqAdj, R.hpEvlogLost] d (d.mismatched off) ∧
    Kept [.regs, .log] d (d.mismatched off) := by
  unfold Dev.mismatched Dev.evFloor
  refine ⟨?_, ?_, event_log .., ?_, ?_⟩
  · rw [fld_of_regsBut (event_reg _ _ _ _ _ _ _ _) (by decide), fld_of_regsBut (regsBut_setReg _ _ _) (by decide),
      fld_setFld_self _ _ (by decide)]
    rfl
  · rw [event_reg _ _ _ _ _ _ _ _ _ (by decide), Dev.reg_setReg_self]
    rfl
  · exact RegsBut_trans (RegsBut_trans (RegsBut_mono (regsBut_setFld _ _ _ _ _) (by decide))
      (RegsBut_mono (regsBut_setReg _ _ _) (by decide))) (RegsBut_mono (event_reg _ _ _ _ _ _ _ _) (by decide))
  · exact Kept_then (Kept_trans (Kept_mono (kept_setFld ..) (by decide)) (Kept_mono (kept_setReg ..) (by decide)))
      (kept_event_low _ (cls := 5) (by decide) ..) (by decide)

theorem freqAdj_of_discipline (d : Dev) (x : Int) :
    signed 32 ((d.setReg R.tkFreqAdj (unsigned 32 (satFreq x))).reg R.tkFreqAdj) = satFreq x := by
  obtain ⟨low, high⟩ := satFreq_bounds x
  rw [Dev.reg_setReg_self, Nat.mod_eq_of_lt (unsigned_lt 32 _)]
  exact signed_unsigned (by omega) (by omega)

theorem discipline_effect (d : Dev) (off : Int) :
    (-200000 ≤ signed 32 ((d.discipline off).reg R.tkFreqAdj) ∧ signed 32 ((d.discipline off).reg R.tkFreqAdj) ≤ 200000) ∧
    (d.fld R.tkSyncStatus 0 3 = 3 → (d.discipline off).fld R.tkSyncStatus 0 3 = 2 ∧
      (d.discipline off).log = d.log.put (regRec d 0 0x3042 5 0xFF [unsigned 64 off])) ∧
    (d.fld R.tkSyncStatus 0 3 ≠ 3 → (d.discipline off).fld R.tkSyncStatus 0 3 = d.fld R.tkSyncStatus 0 3 ∧
      (d.discipline off).log = d.log) ∧
    RegsBut [R.tkSyncStatus, R.tkFreqAdj, R.hpEvlogLost] d (d.discipline off) ∧
    Kept [.regs, .log] d (d.discipline off) := by
  unfold Dev.discipline
  extract_lets e
  have bounds := satFreq_bounds (Config.freqLoop off e.time.lastOff)
  have adjusted := regsBut_setReg e R.tkFreqAdj (unsigned 32 (satFreq (Config.freqLoop off e.time.lastOff)))
  have kept : Kept [.regs] e _ := kept_setReg e R.tkFreqAdj (unsigned 32 (satFreq (Config.freqLoop off e.time.lastOff)))
  have status := fld_of_regsBut adjusted (o := R.tkSyncStatus) (by decide) 0 3
  rw [freqAdj_of_discipline, status, kept.same .log (by decide)]
  refine ⟨bounds, ?_⟩
  by_cases h : d.fld R.tkSyncStatus 0 3 = 3
  · obtain ⟨locked, log, regs, told⟩ := enterLocked_effect d off
    have he : e = d.enterLocked off := if_pos h
    rw [← he] at locked log regs told
    exact ⟨fun _ => ⟨locked, log⟩, fun n => absurd h n,
      RegsBut_trans (RegsBut_mono regs (by decide)) (RegsBut_mono adjusted (by decide)), Kept_then told kept (by decide)⟩
  · have he : e = d := if_neg h
    rw [he] at adjusted kept ⊢
    exact ⟨fun n => absurd n h, fun _ => ⟨rfl, rfl⟩, RegsBut_mono adjusted (by decide), Kept_mono kept (by decide)⟩

section
variable {d : Dev} {gm : Nat}

theorem syncJudged_far (acquiring : d.fld R.tkSyncStatus 0 3 ≠ 1) (mismatch : d.fld R.tkSyncStatus 0 3 ≠ 4)
    (far : 1000000 < d.syncOff gm ∨ d.syncOff gm < -1000000) :
    (d.syncJudged gm).time.now = d.time.now ∧ (d.syncJudged gm).fld R.tkSyncStatus 0 3 = 4 ∧
    (d.syncJudged gm).reg R.tkFreqAdj = 0 ∧ (d.syncJudged gm).reg R.tkOffset = unsigned 32 (satOff (d.syncOff gm)) ∧
    (d.syncJudged gm).log = d.log.put (regRec d 5 0x3041 5 0xFF [unsigned 64 (d.syncOff gm)]) ∧
    RegsBut syncRegs d (d.syncJudged gm) ∧ Kept [.time, .regs, .log] d (d.syncJudged gm) := by
  have judged : d.syncJudged gm = ((d.offNoted (d.syncOff gm)).mismatched (d.syncOff gm)).syncNoted (d.syncOff gm) := by
    unfold Dev.syncJudged
    dsimp only
    rw [if_neg acquiring, if_neg mismatch, if_pos far]
  generalize d.syncOff gm = off at judged
  obtain ⟨status, freq, log, regs, told⟩ := mismatched_effect (d.offNoted off) off
  have noted := kept_offNoted d off
  rw [judged]
  refine ⟨?_, status, freq, (regs _ (by decide)).trans (offNoted_reg d off), log, ?_, ?_⟩
  · rw [syncNoted_now, told.same .time (by decide), noted.same .time (by decide)]
  · exact RegsBut_trans (RegsBut_trans (RegsBut_mono (regsBut_offNoted d off) (by decide)) (RegsBut_mono regs (by decide)))
      (regsBut_of_regs _ rfl)
  · exact Kept_then (Kept_then (Kept_mono noted (by decide)) told (by decide)) (kept_syncNoted ..) (by decide)

theorem syncJudged_near (acquiring : d.fld R.tkSyncStatus 0 3 ≠ 1) (mismatch : d.fld R.tkSyncStatus 0 3 ≠ 4)
    (low : -1000000 ≤ d.syncOff gm) (high : d.syncOff gm ≤ 1000000) :
    (d.syncJudged gm).time.now = d.time.now ∧ (d.syncJudged gm).reg R.tkOffset = unsigned 32 (satOff (d.syncOff gm)) ∧
    (-200000 ≤ signed 32 ((d.syncJudged gm).reg R.tkFreqAdj) ∧
      signed 32 ((d.syncJudged gm).reg R.tkFreqAdj) ≤ 200000) ∧
    (d.fld R.tkSyncStatus 0 3 = 3 → (d.syncJudged gm).fld R.tkSyncStatus 0 3 = 2 ∧
      (d.syncJudged gm).log = d.log.put (regRec d 0 0x3042 5 0xFF [unsigned 64 (d.syncOff gm)])) ∧
    (d.fld R.tkSyncStatus 0 3 ≠ 3 → (d.syncJudged gm).fld R.tkSyncStatus 0 3 = d.fld R.tkSyncStatus 0 3 ∧
      (d.syncJudged gm).log = d.log) ∧
    RegsBut syncRegs d (d.syncJudged gm) ∧ Kept [.time, .regs, .log] d (d.syncJudged gm) := by
  have judged : d.syncJudged gm = ((d.offNoted (d.syncOff gm)).discipline (d.syncOff gm)).syncNoted (d.syncOff gm) := by
    unfold Dev.syncJudged
    dsimp only
    rw [if_neg acquiring, if_neg mismatch, if_neg (by omega)]
  generalize d.syncOff gm = off at judged
  obtain ⟨freq, held, locked, regs, told⟩ := discipline_effect (d.offNoted off) off
  have noted := kept_offNoted d off
  have status : (d.offNoted off).fld R.tkSyncStatus 0 3 = d.fld R.tkSyncStatus 0 3 :=
    fld_of_regsBut (regsBut_offNoted d off) (by decide) _ _
  rw [status] at held locked
  rw [judged]
  refine ⟨?_, (regs _ (by decide)).trans (offNoted_reg d off), freq, held, locked, ?_, ?_⟩
  · rw [syncNoted_now, told.same .time (by decide), noted.same .time (by decide)]
  · exact RegsBut_trans (RegsBut_trans (RegsBut_mono (regsBut_offNoted d off) (by decide)) (RegsBut_mono regs (by decide)))
      (regsBut_of_regs _ rfl)
  · exact Kept_then (Kept_then (Kept_mono noted (by decide)) told (by decide)) (kept_syncNoted ..) (by decide)

theorem kept_acquire (d : Dev) (gm : Nat) : Kept [.time, .chip, .chA, .chB] d (d.acquire gm) := by
  refine ⟨fun f hf => ?_⟩
  cases f with
  | time | chip | chA | chB => exact absurd (by decide) hf
  | _ => rfl

theorem acquire_effect (d : Dev) (gm : Nat) : (d.acquire gm).time.now = gm ∧
    (d.acquire gm).chip.t0 = d.chip.t0 + d.syncOff gm ∧ (d.acquire gm).chA.ownW = gm / 125000 ∧
    (d.acquire gm).chB.ownW = gm / 125000 := ⟨rfl, rfl, rfl, rfl⟩

theorem syncJudged_acquires (acquiring : d.fld R.tkSyncStatus 0 3 = 1) :
    (d.syncJudged gm).time.now = gm ∧ (d.syncJudged gm).fld R.tkSyncStatus 0 3 = 2 ∧
    (d.syncJudged gm).reg R.tkOffset = unsigned 32 (satOff (d.syncOff gm)) ∧
    (d.syncJudged gm).chip.t0 = d.chip.t0 + d.syncOff gm ∧ (d.syncJudged gm).chA.ownW = gm / 125000 ∧
    (d.syncJudged gm).chB.ownW = gm / 125000 ∧ (d.syncJudged gm).log.total = d.log.total + 1 ∧
    RegsBut [R.tkOffset, R.tkSyncStatus, R.hpEvlogLost] d (d.syncJudged gm) ∧
    Kept [.time, .chip, .regs, .log, .chA, .chB] d (d.syncJudged gm) := by
  have judged : d.syncJudged gm =
      (((d.offNoted (d.syncOff gm)).acquire gm).enterLocked (d.syncOff gm)).syncNoted (d.syncOff gm) := by
    unfold Dev.syncJudged
    dsimp only
    rw [if_pos acquiring]
  have measured : (d.offNoted (d.syncOff gm)).syncOff gm = d.syncOff gm := rfl
  have noted := kept_offNoted d (d.syncOff gm)
  have regs' := regsBut_offNoted d (d.syncOff gm)
  have offset := offNoted_reg d (d.syncOff gm)
  generalize hx : d.offNoted (d.syncOff gm) = x at judged measured noted regs' offset
  obtain ⟨now, t0, ownA, ownB⟩ := acquire_effect x gm
  have acquired := kept_acquire x gm
  generalize hy : x.acquire gm = y at judged now t0 ownA ownB acquired
  obtain ⟨status, log, regs, told⟩ := enterLocked_effect y (d.syncOff gm)
  have same : y.regs = x.regs := acquired.same .regs (by decide)
  rw [judged]
  refine ⟨?_, status, ?_, ?_, ?_, ?_, ?_, ?_, ?_⟩
  · rw [syncNoted_now, told.same .time (by decide), now]
  · rw [syncNoted_reg, regs _ (by decide), reg_of_kept acquired _ (by decide), offset]
  · refine (congrArg Chip.t0 (told.same .chip (by decide))).trans (t0.trans ?_)
    rw [measured, noted.same .chip (by decide)]
  · exact (congrArg Island.ownW (told.same .chA (by decide))).trans ownA
  · exact (congrArg Island.ownW (told.same .chB (by decide))).trans ownB
  · rw [syncNoted_log, (wrote_of_put log).1, acquired.same .log (by decide), noted.same .log (by decide)]
  · exact RegsBut_trans (RegsBut_trans (RegsBut_mono regs' (by decide)) (regsBut_of_regs _ same))
      (RegsBut_trans (RegsBut_mono regs (by decide)) (regsBut_of_regs _ rfl))
  · exact Kept_then (Kept_then (Kept_then (Kept_mono noted (by decide)) acquired (by decide)) told (by decide)) (kept_syncNoted ..) (by decide)

theorem syncJudged_mismatch (mismatch : d.fld R.tkSyncStatus 0 3 = 4) :
    (d.syncJudged gm).time.now = d.time.now ∧ (d.syncJudged gm).reg R.tkOffset = unsigned 32 (satOff (d.syncOff gm)) ∧
    RegsBut [R.tkOffset] d (d.syncJudged gm) ∧ Kept [.time, .regs] d (d.syncJudged gm) := by
  have judged : d.syncJudged gm = (d.offNoted (d.syncOff gm)).syncNoted (d.syncOff gm) := by
    unfold Dev.syncJudged
    dsimp only
    rw [if_neg (by rw [mismatch]; decide), if_pos mismatch]
  rw [judged]
  exact ⟨rfl, offNoted_reg .., regsBut_offNoted d _, Kept_then (Kept_mono (kept_offNoted ..) (by decide)) (kept_syncNoted ..) (by decide)⟩

end

/-! ## SYNC_RECEIVED, SYNC_TIMEOUT and SYNC_TRANSMIT -/

/-- Only a follower that waits for Sync has an end of the wait. -/
theorem status_of_syncEnd {d : Dev} {p : Int → Bool} (h : d.syncEnd.any p = true) :
    d.fld R.tkSyncStatus 0 3 = 1 ∨ d.fld R.tkSyncStatus 0 3 = 2 := by
  unfold Dev.syncEnd at h
  split at h
  · next e => exact .inl e
  · next e => exact .inr e
  · exact absurd h Bool.false_ne_true

section
variable {g : DWord} {port : Nat} {s : State} (phase : s.dev.chip.phase ≠ .modReset)
  (slave : s.dev.slavePort = some port) (up : port ∈ s.dev.links.up)
  (enabled : bit (s.dev.reg R.tkGptpCfg) (3 + port) = true)
include phase slave up enabled

theorem exec_syncReceived : exec (.syncReceived g) s = .next { s with
    dev := (if s.dev.syncOver then s.dev.holdover else s.dev).syncJudged g.toNat } := by
  have e : exec (.syncReceived g) s = execSyncReceived g s := rfl
  unfold execSyncReceived at e
  rw [← syncIn_eq]
  exact e.trans (onDevIf_met _ (by rw [slave]; simp [phase, up, enabled]))

theorem exec_syncReceived_inTime (early : s.dev.syncOver = false) : exec (.syncReceived g) s = .next { s with
    dev := s.dev.syncJudged g.toNat } := by
  have run := exec_syncReceived (g := g) phase slave up enabled
  rwa [early, if_neg Bool.false_ne_true] at run

theorem syncReceived_acquires (acquiring : s.dev.fld R.tkSyncStatus 0 3 = 1) (early : s.dev.syncOver = false) :
    Runs (.syncReceived g) s fun t =>
      t.dev.time.now = g.toNat ∧ t.dev.fld R.tkSyncStatus 0 3 = 2 ∧
      t.dev.reg R.tkOffset = unsigned 32 (satOff (s.dev.syncOff g.toNat)) ∧
      t.dev.chip.t0 = s.dev.chip.t0 + s.dev.syncOff g.toNat ∧ t.dev.chA.ownW = g.toNat / 125000 ∧
      t.dev.chB.ownW = g.toNat / 125000 ∧ t.dev.log.total = s.dev.log.total + 1 ∧
      RegsBut [R.tkOffset, R.tkSyncStatus, R.hpEvlogLost] s.dev t.dev ∧
      Only [.time, .chip, .regs, .log, .chA, .chB] s t := by
  obtain ⟨now, status, offset, t0, ownA, ownB, log, regs, kept⟩ := syncJudged_acquires (gm := g.toNat) acquiring
  exact ⟨_, exec_syncReceived_inTime phase slave up enabled early, now, status, offset, t0, ownA, ownB, log, regs,
    only_dev kept⟩

theorem syncReceived_mismatches (acquiring : s.dev.fld R.tkSyncStatus 0 3 ≠ 1)
    (mismatch : s.dev.fld R.tkSyncStatus 0 3 ≠ 4) (early : s.dev.syncOver = false)
    (far : 1000000 < s.dev.syncOff g.toNat ∨ s.dev.syncOff g.toNat < -1000000) : Runs (.syncReceived g) s fun t =>
      t.dev.time.now = s.dev.time.now ∧ t.dev.fld R.tkSyncStatus 0 3 = 4 ∧ t.dev.reg R.tkFreqAdj = 0 ∧
      t.dev.reg R.tkOffset = unsigned 32 (satOff (s.dev.syncOff g.toNat)) ∧
      Wrote s.dev t.dev (regRec s.dev 5 0x3041 5 0xFF [unsigned 64 (s.dev.syncOff g.toNat)]) ∧
      RegsBut [R.tkOffset, R.tkSyncStatus, R.tkFreqAdj, R.hpEvlogLost] s.dev t.dev ∧ Only [.time, .regs, .log] s t := by
  obtain ⟨now, status, freq, offset, log, regs, kept⟩ := syncJudged_far acquiring mismatch far
  exact ⟨_, exec_syncReceived_inTime phase slave up enabled early, now, status, freq, offset, wrote_of_put log, regs,
    only_dev kept⟩

theorem syncReceived_disciplines (acquiring : s.dev.fld R.tkSyncStatus 0 3 ≠ 1)
    (mismatch : s.dev.fld R.tkSyncStatus 0 3 ≠ 4) (early : s.dev.syncOver = false)
    (low : -1000000 ≤ s.dev.syncOff g.toNat) (high : s.dev.syncOff g.toNat ≤ 1000000) :
    Runs (.syncReceived g) s fun t =>
      t.dev.time.now = s.dev.time.now ∧ t.dev.reg R.tkOffset = unsigned 32 (satOff (s.dev.syncOff g.toNat)) ∧
      -200000 ≤ signed 32 (t.dev.reg R.tkFreqAdj) ∧ signed 32 (t.dev.reg R.tkFreqAdj) ≤ 200000 ∧
      (s.dev.fld R.tkSyncStatus 0 3 = 3 → t.dev.fld R.tkSyncStatus 0 3 = 2 ∧
        Wrote s.dev t.dev (regRec s.dev 0 0x3042 5 0xFF [unsigned 64 (s.dev.syncOff g.toNat)])) ∧
      (s.dev.fld R.tkSyncStatus 0 3 ≠ 3 → t.dev.fld R.tkSyncStatus 0 3 = s.dev.fld R.tkSyncStatus 0 3 ∧
        Quiet s.dev t.dev) ∧
      RegsBut [R.tkOffset, R.tkSyncStatus, R.tkFreqAdj, R.hpEvlogLost] s.dev t.dev ∧ Only [.time, .regs, .log] s t := by
  obtain ⟨now, offset, ⟨slow, fast⟩, held, locked, regs, kept⟩ := syncJudged_near acquiring mismatch low high
  exact ⟨_, exec_syncReceived_inTime phase slave up enabled early, now, offset, slow, fast,
    fun h => ⟨(held h).1, wrote_of_put (held h).2⟩, locked, regs, only_dev kept⟩

/-- A Sync that comes after the end of the wait finds Holdover entered first. -/
theorem syncReceived_late (late : s.dev.syncOver = true) : Runs (.syncReceived g) s fun t =>
    t.dev.time.now = s.dev.time.now ∧ t.dev.reg R.tkOffset = unsigned 32 (satOff (s.dev.syncOff g.toNat)) ∧
    (1000000 < s.dev.syncOff g.toNat ∨ s.dev.syncOff g.toNat < -1000000 → t.dev.fld R.tkSyncStatus 0 3 = 4 ∧
      Logged s.dev t.dev [regRec s.dev 5 0x3040 5 0xFF [s.dev.reg R.tkFreqAdj],
        regRec s.dev 5 0x3041 5 0xFF [unsigned 64 (s.dev.syncOff g.toNat)]]) ∧
    (-1000000 ≤ s.dev.syncOff g.toNat → s.dev.syncOff g.toNat ≤ 1000000 → t.dev.fld R.tkSyncStatus 0 3 = 2 ∧
      Logged s.dev t.dev [regRec s.dev 5 0x3040 5 0xFF [s.dev.reg R.tkFreqAdj],
        regRec s.dev 0 0x3042 5 0xFF [unsigned 64 (s.dev.syncOff g.toNat)]]) ∧
    RegsBut [R.tkOffset, R.tkSyncStatus, R.tkFreqAdj, R.hpEvlogLost] s.dev t.dev ∧ Only [.time, .regs, .log] s t := by
  obtain ⟨status, told⟩ := holdover_effect (status_of_syncEnd late)
  have held := kept_holdover s.dev
  have heldRegs : RegsBut syncRegs s.dev s.dev.holdover := RegsBut_mono (regsBut_holdover s.dev) (by decide)
  have time : s.dev.holdover.time = s.dev.time := held.same .time (by decide)
  have off : s.dev.holdover.syncOff g.toNat = s.dev.syncOff g.toNat := by
    unfold Dev.syncOff
    rw [time]
  have record (cls code : Nat) (dt : List Nat) :
      regRec s.dev.holdover cls code 5 0xFF dt = regRec s.dev cls code 5 0xFF dt := by
    unfold regRec
    rw [time]
  have keptHeld : Kept [.time, .regs, .log] s.dev s.dev.holdover := Kept_mono held (by decide)
  have run := exec_syncReceived (g := g) phase slave up enabled
  rw [late, if_pos rfl] at run
  refine ⟨_, run, ?_⟩
  clear run
  generalize s.dev.holdover = d at status told heldRegs time off record keptHeld
  have notAcquiring : d.fld R.tkSyncStatus 0 3 ≠ 1 := by rw [status]; decide
  have notMismatch : d.fld R.tkSyncStatus 0 3 ≠ 4 := by rw [status]; decide
  rw [← off]
  by_cases far : 1000000 < d.syncOff g.toNat ∨ d.syncOff g.toNat < -1000000
  · obtain ⟨now, status, -, offset, log, regs, kept⟩ := syncJudged_far notAcquiring notMismatch far
    refine ⟨now.trans (by rw [time]), offset, fun _ => ⟨status, logged_of_puts ?_⟩, fun low high => ?_,
      RegsBut_trans heldRegs regs, only_dev (Kept_trans keptHeld kept)⟩
    · rw [log, told, record]
      rfl
    · omega
  · obtain ⟨now, offset, -, relocked, -, regs, kept⟩ := syncJudged_near (gm := g.toNat) notAcquiring notMismatch
      (by omega) (by omega)
    refine ⟨now.trans (by rw [time]), offset, fun h => absurd h far,
      fun _ _ => ⟨(relocked status).1, logged_of_puts ?_⟩, RegsBut_trans heldRegs regs, only_dev (Kept_trans keptHeld kept)⟩
    rw [(relocked status).2, told, record]
    rfl

theorem syncReceived_measures (mismatch : s.dev.fld R.tkSyncStatus 0 3 = 4) : Runs (.syncReceived g) s fun t =>
    t.dev.time.now = s.dev.time.now ∧ t.dev.reg R.tkOffset = unsigned 32 (satOff (s.dev.syncOff g.toNat)) ∧
    RegsBut [R.tkOffset] s.dev t.dev ∧ Only [.time, .regs] s t := by
  have early : s.dev.syncOver = false := Bool.eq_false_iff.2 fun h => by
    have := status_of_syncEnd h
    omega
  obtain ⟨now, offset, regs, kept⟩ := syncJudged_mismatch (gm := g.toNat) mismatch
  exact ⟨_, exec_syncReceived_inTime phase slave up enabled early, now, offset, regs, only_dev kept⟩

end

theorem syncTimeout_effect {s : State} (phase : s.dev.chip.phase ≠ .modReset) (late : s.dev.syncLate = true) :
    Runs .syncTimeout s fun t =>
      t.dev.fld R.tkSyncStatus 0 3 = 3 ∧ Wrote s.dev t.dev (regRec s.dev 5 0x3040 5 0xFF [s.dev.reg R.tkFreqAdj]) ∧
      RegsBut [R.tkSyncStatus, R.hpEvlogLost] s.dev t.dev ∧ Only [.regs, .log] s t := by
  have e : exec .syncTimeout s = execSyncTimeout s := rfl
  unfold execSyncTimeout at e
  obtain ⟨status, told⟩ := holdover_effect (status_of_syncEnd late)
  exact ⟨_, e.trans (onDevIf_met _ (by simp [phase, late])), status, wrote_of_put told, regsBut_holdover _,
    only_dev (kept_holdover _)⟩

theorem syncs_eq (l : List Nat) (d : Dev) : l.foldl (fun (d : Dev) p => d.emit (.sync p 0 d.time.now)) d =
    l.foldl (fun (e : Dev) p => e.emit (.sync p 0 d.time.now)) d := by
  induction l generalizing d with
  | nil => rfl
  | cons p l ih => exact ih (d.emit (.sync p 0 d.time.now))

theorem syncTransmit_effect {s : State} (phase : s.dev.chip.phase ≠ .modReset) : Runs .syncTransmit s fun t =>
    t.dev.out = s.dev.out ++ s.dev.masterPorts.map (fun p => Out.sync p 0 s.dev.time.now) ∧
    (∀ p ∈ s.dev.masterPorts, p ∈ s.dev.links.up ∧ s.dev.slavePort ≠ some p) ∧ Only [.out] s t := by
  have e : exec .syncTransmit s = execSyncTransmit s := rfl
  unfold execSyncTransmit at e
  have run := e.trans (onDevIf_met _ (by simp [phase]))
  rw [syncs_eq] at run
  refine ⟨_, run, emits_out (fun p => Out.sync p 0 s.dev.time.now) _ _, fun p hp => ?_,
    only_dev (kept_emits (fun p => Out.sync p 0 s.dev.time.now) ..)⟩
  obtain ⟨port, other⟩ := List.mem_filter.1 hp
  obtain ⟨-, up⟩ := List.mem_filter.1 port
  rw [Bool.and_eq_true_iff] at up
  exact ⟨List.contains_iff_mem.1 up.2, by simpa using other⟩

theorem epochTick_announces {lanes : List LaneSample} {s : State} (due : s.dev.tickDue 4 = true) :
    Runs (.epochTick lanes) s fun t => ∃ src l,
      t.dev.out = s.dev.out ++ s.dev.gptpPorts.map (fun p => Out.pdelayReq p 0) ++
        s.dev.masterPorts.map (fun p => Out.announce p 0 src) ++ l ∧ (s.dev.slavePort = none → src = 0xA0) := by
  obtain ⟨-, -, -, src, out, own⟩ := epochBegun_effect s.dev
  obtain ⟨l, grown⟩ := (grows_epochTick s.dev lanes).out
  exact ⟨_, exec_epochTick due, src, l, by rw [grown, out], own⟩

/-- Settles O48: what leaves the ports at an epoch tick, a Sync by the state that it finds the follower in, the wait's
end, and the Sync that leaves the master ports. -/
theorem syncSetsTheTimeBaseOnce : Obligations.SyncSetsTheTimeBaseOnce := by
  unfold Obligations.SyncSetsTheTimeBaseOnce
  refine ⟨fun lanes s due => epochTick_announces due, fun g port s phase slave up enabled => ⟨?_, ?_, ?_, ?_, ?_⟩,
    fun s phase late => syncTimeout_effect phase late, fun s phase => syncTransmit_effect phase⟩
  · exact syncReceived_acquires phase slave up enabled
  · exact syncReceived_mismatches phase slave up enabled
  · exact syncReceived_disciplines phase slave up enabled
  · exact syncReceived_late phase slave up enabled
  · exact syncReceived_measures phase slave up enabled

end Sys2Proof.Machine

namespace Sys2Proof.Machine

/-! ## What the end of other work leaves of an operation -/

/-- An operation without its account of engine operations under way and of time in a saved set. -/
def Op.core (o : Op) : Op := { o with launches := 0, kids := [], savedWb := 0 }

/-- An operation with its status decided. -/
def Op.decided (o : Op) (st : Nat) : Op := { o with status := some st }

/-- Every operation is as before but for its account of engine operations under way and of time in a saved set. -/
def SameCore (a b : Dev) : Prop := ∀ j, (b.op j).core = (a.op j).core

theorem core_freeKid (o : Op) (e : EngOp) : (o.freeKid e).core = o.core := by
  unfold Op.freeKid
  split <;> rfl

theorem kids_freeKid (o : Op) (e : EngOp) : (o.freeKid e).kids ⊆ o.kids := by
  unfold Op.freeKid
  split
  · exact List.filter_subset_self _
  · exact List.Subset.refl _

theorem used_of_core {o p : Op} (h : o.core = p.core) : o.used = p.used := congrArg (·.used) h
theorem status_of_core {o p : Op} (h : o.core = p.core) : o.status = p.status := congrArg (·.status) h
theorem outs_of_core {o p : Op} (h : o.core = p.core) : o.outs = p.outs := congrArg (·.outs) h

theorem sameCore_of_ops {a b : Dev} (h : b.ops = a.ops) : SameCore a b := fun j => by rw [op_of_ops h]

theorem sameCore_of_kept {p : List DevField} {a b : Dev} (h : Kept p a b) (hp : .ops ∉ p) : SameCore a b :=
  sameCore_of_ops (h.same .ops hp)

theorem SameCore_trans {a b c : Dev} (h : SameCore a b) (k : SameCore b c) : SameCore a c :=
  fun j => (k j).trans (h j)

theorem sameCore_foldl {α : Type} {f : Dev → α → Dev} (h : ∀ d x, SameCore d (f d x)) (l : List α) (d : Dev) :
    SameCore d (l.foldl f d) := by
  induction l generalizing d with
  | nil => exact fun _ => rfl
  | cons x l ih => exact SameCore_trans (h d x) (ih _)

theorem sameCore_modOp (d : Dev) (k : Nat) {f : Op → Op} (h : ∀ o, (f o).core = o.core) :
    SameCore d (d.modOp k f) := fun j => by
  by_cases e : j = k
  · rw [e, Dev.op_modOp_self, h]
  · rw [Dev.op_modOp_ne _ _ e]

theorem sameCore_sweepSaved (d : Dev) (t : Nat) : SameCore d (d.sweepSaved t) := by
  refine SameCore_trans (sameCore_foldl (fun e x => ?_) _ _) (sameCore_of_kept (kept_setTile ..) (by decide))
  exact SameCore_trans (sameCore_foldl (fun _ y => sameCore_modOp _ _
      (f := fun o => { o.freeKid y with launches := o.launches - 1 }) fun o => core_freeKid o y) _ e)
    (sameCore_foldl (fun _ _ => sameCore_modOp _ _
      (f := fun o => { o with savedWb := o.savedWb + (d.wb - x.2.since) }) fun _ => rfl) _ _)

theorem sameCore_sweepAll (d : Dev) : SameCore d d.sweepAll := by
  unfold Dev.sweepAll
  exact sameCore_foldl sameCore_sweepSaved _ d

theorem sameCore_killEng (d : Dev) (b : Nat) (p : EngOp → Bool) : SameCore d (d.killEng b p) := by
  unfold Dev.killEng
  refine sameCore_foldl (fun e x => ?_) _ _
  dsimp only
  generalize h : Dev.modOp e x.token _ = m
  have same : SameCore e m := h ▸ sameCore_modOp e x.token fun o => core_freeKid o x
  split
  · exact SameCore_trans same (sameCore_of_kept (kept_modEng ..) (by decide))
  · exact SameCore_trans same (sameCore_of_kept (kept_dropEng ..) (by decide))

/-! ## Tracker entries in use (R145) -/

/-- The tracker entries in use: those of operations, and those of the engine operations they launched. -/
def Dev.entries (d : Dev) : List Nat := (d.ops.filter (·.2.used)).flatMap fun e => e.1 :: e.2.kids

theorem freeToken_entries (d : Dev) (t : Nat) : d.freeToken t = firstGap d.entries 4096 (t * 4096) := rfl

theorem mem_entries {d : Dev} {x : Nat} :
    x ∈ d.entries ↔ ∃ e ∈ d.ops, e.2.used = true ∧ (x = e.1 ∨ x ∈ e.2.kids) := by
  simp [Dev.entries, and_assoc]

theorem entries_of_used {d : Dev} {k : Nat} (h : (d.op k).used = true) : k ∈ d.entries :=
  mem_entries.2 ⟨_, op_listed h, h, .inl rfl⟩

theorem entries_of_ops {a b : Dev} (h : b.ops = a.ops) : b.entries = a.entries := by
  unfold Dev.entries
  rw [h]

theorem entries_modOp {d : Dev} {k : Nat} {f : Op → Op}
    (h : (f (d.op k)).used = (d.op k).used ∧ (f (d.op k)).kids ⊆ (d.op k).kids) :
    (d.modOp k f).entries ⊆ d.entries := by
  obtain ⟨used, kids⟩ := h
  intro x hx
  obtain ⟨⟨j, o⟩, listed, inUse, which⟩ := mem_entries.1 hx
  rcases mem_setOp listed with new | ⟨old, -⟩
  · obtain ⟨rfl, rfl⟩ := Prod.mk.inj new
    rw [used] at inUse
    exact mem_entries.2 ⟨_, op_listed inUse, inUse, which.imp id fun m => kids m⟩
  · exact mem_entries.2 ⟨_, old, inUse, which⟩

theorem entries_killEng (d : Dev) (b : Nat) (p : EngOp → Bool) : (d.killEng b p).entries ⊆ d.entries := by
  unfold Dev.killEng
  generalize (d.blk b).eng.filter _ = l
  induction l generalizing d with
  | nil => exact List.Subset.refl _
  | cons x l ih =>
    rw [List.foldl_cons]
    refine List.Subset.trans (ih _) ?_
    dsimp only
    generalize h : Dev.modOp d x.token _ = m
    have fewer : m.entries ⊆ d.entries := h ▸ entries_modOp ⟨used_of_core (core_freeKid _ x), kids_freeKid _ x⟩
    split
    · rwa [entries_of_ops ((kept_modEng ..).same .ops (by decide))]
    · rwa [entries_of_ops ((kept_dropEng ..).same .ops (by decide))]

theorem firstGap_eq (l : List Nat) (n k : Nat) : firstGap l n k ∉ l ∨ ∀ i < n, k + i ∈ l := by
  induction n generalizing k with
  | zero => exact .inr fun i hi => absurd hi (Nat.not_lt_zero i)
  | succ n ih =>
    rw [firstGap]
    split
    · rename_i here
      refine (ih (k + 1)).imp_right fun all i hi => ?_
      cases i with
      | zero => exact List.contains_iff_mem.1 here
      | succ i => simpa [Nat.add_assoc, Nat.add_comm 1 i] using all i (by omega)
    · rename_i gap
      exact .inl fun m => gap (List.contains_iff_mem.2 m)

/-- While every tracker has a free entry and no more entries are in use than before, the next entry given out is not
that of an operation in use. -/
theorem freeToken_ne {a b : Dev} {k : Nat} (free : TrackersFree a) (used : (a.op k).used = true)
    (still : (b.op k).used = true) (fewer : b.entries ⊆ a.entries) (t : Nat) : b.freeToken t ≠ k := by
  intro same
  rw [freeToken_entries] at same
  rcases firstGap_eq b.entries 4096 (t * 4096) with gap | full
  · exact gap (same ▸ entries_of_used still)
  · rw [firstGap_of_all full] at same
    have same' : a.freeToken t = k := by
      rw [freeToken_entries, firstGap_of_all fun i hi => fewer (full i hi), same]
    have := free t
    rw [same', used] at this
    cases this

/-! ## The end of an operation -/

theorem op_startStatic_ne (d : Dev) (b n c : Nat) {k : Nat} (h : d.freeToken (tileOf b) ≠ k) :
    (d.startStatic b n c).op k = d.op k := by
  unfold Dev.startStatic
  dsimp only
  rw [op_of_ops (Dev.modBlk_ops ..), alloc_op, Dev.op_setOp_ne _ _ h.symm]

/-- The core of operation `k` of device `d`, its status decided, is that of the operation in device `e`. -/
def DecidedAs (st : Nat) (d : Dev) (k : Nat) (e : Dev) : Prop := (e.op k).core = (d.op k).core.decided st

theorem decidedAs_settle {d : Dev} {k : Nat} (st : Nat) (used : (d.op k).used = true)
    (undecided : (d.op k).status = none) : DecidedAs st d k (d.settle k st) := by
  unfold DecidedAs Dev.settle
  rw [Dev.op_modOp_self, if_pos ⟨used, undecided⟩]
  rfl

theorem entries_settle (d : Dev) (k st : Nat) : (d.settle k st).entries ⊆ d.entries := by
  refine entries_modOp ?_
  split <;> exact ⟨rfl, List.Subset.refl _⟩

/-- The end of an operation decides its status. -/
theorem endOp_core {d : Dev} {k st : Nat} {kill : Bool} (used : (d.op k).used = true)
    (undecided : (d.op k).status = none) (free : TrackersFree d) : DecidedAs st d k (d.endOp k st kill) := by
  have ops {a b : Dev} (h : b.ops = a.ops) (p : DecidedAs st d k a ∧ a.entries ⊆ d.entries) :
      DecidedAs st d k b ∧ b.entries ⊆ d.entries := by
    rwa [DecidedAs, op_of_ops h, entries_of_ops h]
  refine endOp_leads (P := fun e => DecidedAs st d k e ∧ e.entries ⊆ d.entries) (Q := DecidedAs st d k)
    (fun ended => ?_) ⟨decidedAs_settle st used undecided, entries_settle d k st⟩ (fun e b h => ?_)
    (fun e b n h => ops (a := e) rfl h) And.left (fun e b h => (ops (a := e) rfl h).1) fun e b n c h => ?_
  · simp [used, undecided] at ended
  · exact ⟨(sameCore_killEng e b _ k).trans h.1, List.Subset.trans (entries_killEng ..) h.2⟩
  · obtain ⟨core, fewer⟩ := h
    have still : (e.op k).used = true := (congrArg (·.used) core).trans used
    rw [DecidedAs, op_startStatic_ne e b n c (freeToken_ne free used still fewer _)]
    exact core

end Sys2Proof.Machine

namespace Sys2Proof.Machine

/-! ## Engines without an operation of a token -/

/-- No engine has an operation of the token. -/
def Dev.noEng (d : Dev) (k : Nat) : Prop := ∀ b, ∀ x ∈ (d.blk b).eng, x.token ≠ k

theorem noEng_of_blocks {d : Dev} {k : Nat} (h : ∀ e ∈ d.blocks, ∀ x ∈ e.2.eng, x.token ≠ k) : d.noEng k := by
  intro b x hx
  by_cases default : tget blkDef d.blocks b = blkDef b
  · have none : (blkDef b).eng = [] := by
      unfold blkDef
      split <;> rfl
    rw [Dev.blk, default, none] at hx
    cases hx
  · exact h _ (mem_of_tget default) x hx

theorem noEng_of_eng {a b : Dev} {k : Nat} (eng : ∀ n, (b.blk n).eng = (a.blk n).eng) (h : a.noEng k) : b.noEng k :=
  fun n x hx => h n x (eng n ▸ hx)

/-- Where no engine has an operation of the token, none ends. -/
theorem killEng_of_noEng {d : Dev} {k : Nat} (h : d.noEng k) (b : Nat) : (d.killEng b fun x => x.token = k) = d := by
  unfold Dev.killEng
  rw [List.filter_eq_nil_iff.2 fun x hx => by simp [h b x hx]]
  rfl

theorem noEng_freed {d : Dev} {k : Nat} (h : d.noEng k) (b n : Nat) (p : Nat × Nat → Bool) :
    ((d.modBlk b fun q => q.freeThr n).unwait p).noEng k :=
  noEng_of_eng (fun m => by rw [blk_unwait]; exact eng_modBlk (f := fun q => q.freeThr n) (fun _ => rfl) d m) h

/-- The end of an operation that is on no engine leaves memory as it was. -/
theorem endOp_mem {d : Dev} {k st : Nat} {kill : Bool} (h : d.noEng k) : (d.endOp k st kill).mem = d.mem := by
  have blk := blk_of_blocks (Dev.settle_blocks d k st)
  refine endOp_leads (P := fun e => e.mem = d.mem ∧ e.noEng k) (Q := fun e => e.mem = d.mem) (fun _ => rfl)
    ⟨rfl, noEng_of_eng (fun n => by rw [blk]) h⟩ (fun e b p => ?_) (fun e b n p => ⟨p.1, noEng_freed p.2 b n _⟩)
    And.left (fun _ _ p => p.1) fun e b n c p => ((kept_startStatic e b n c).same .mem (by decide)).trans p.1
  rwa [killEng_of_noEng p.2 b]

/-! ## Late operations (R53) -/

theorem ending_eng (d : Dev) (k n : Nat) : ((d.ending k).blk n).eng = (d.blk n).eng := by
  unfold Dev.ending
  dsimp only
  generalize List.eraseDups (α := Nat) _ = l
  induction l generalizing d with
  | nil => rfl
  | cons b l ih =>
    rw [List.foldl_cons, ih]
    exact eng_modBlk (f := fun x => { x with ending := x.ending ++ [(d.op k).ctx] }) (fun _ => rfl) d n

theorem kept_ending (d : Dev) (k : Nat) : Kept [.blocks] d (d.ending k) :=
  kept_foldl (fun _ _ => kept_modBlk ..) ..

theorem trackersFree_of_ops {a b : Dev} (h : b.ops = a.ops) (free : TrackersFree a) : TrackersFree b := fun t => by
  rw [freeToken_of_ops h, op_of_ops h]
  exact free t

/-- A late operation leaves its engine, and, where its status was not decided, its thread and its block. -/
def Dev.lateWork (d : Dev) (k : Nat) : Dev :=
  match (d.op k).status, (d.op k).block with
  | some _, some b => (d.ending k).killEng b fun e => e.token = k
  | _, _ => (d.ending k).endOp k stDeadline true

/-- The status of a late operation: an earlier error stands (R77). -/
def lateStatus : Option Nat → Nat
  | some st => if outputValid st then stDeadline else st
  | none => stDeadline

/-- Its status decided as late. -/
def Dev.lateDecided (d : Dev) (k : Nat) : Dev := (d.lateWork k).modOp k fun o => o.decided (lateStatus o.status)

/-- Its outputs poisoned. -/
def Dev.latePoisoned (d : Dev) (k : Nat) : Dev :=
  ((d.lateDecided k).op k).outs.foldl (fun (d : Dev) r => d.poisonRange r.1 r.2) (d.lateDecided k)

/-- Region and block that the record of a late operation names. -/
def Dev.lateUnit (d : Dev) (k : Nat) : Nat × Nat :=
  match (d.op k).block with
  | some b => (b / 36, b % 36)
  | none => (tokTile k, 0xFF)

theorem lateEnd_eq (d : Dev) (k : Nat) : d.lateEnd k = ((d.latePoisoned k).bump R.tkDeadlineMiss).event 2 0x1020
    (d.lateUnit k).1 (d.lateUnit k).2 [k, (d.op k).deadline.getD 0] (d.op k).part (d.op k).ctx := by
  unfold Dev.lateEnd Dev.latePoisoned Dev.lateDecided Dev.lateWork Dev.lateUnit Dev.evBlk
  dsimp only
  cases (d.op k).block <;> rfl

theorem kept_lateWork (d : Dev) (k : Nat) :
    Kept [.mem, .free, .poison, .blocks, .tiles, .ops, .regs] d (d.lateWork k) := by
  have first : Kept [.mem, .free, .poison, .blocks, .tiles, .ops, .regs] d (d.ending k) :=
    Kept_mono (kept_ending d k) (by decide)
  unfold Dev.lateWork
  split
  · exact Kept_then first (kept_killEng ..) (by decide)
  · exact Kept_then first (kept_endOp ..) (by decide)

theorem kept_latePoisoned (d : Dev) (k : Nat) :
    Kept [.mem, .free, .poison, .blocks, .tiles, .ops, .regs] d (d.latePoisoned k) :=
  Kept_then (Kept_then (kept_lateWork d k) (kept_modOp ..) (by decide))
    (kept_foldl (fun _ _ => kept_poisonRange ..) ..) (by decide)

theorem kept_lateEnd (d : Dev) (k : Nat) :
    Kept [.mem, .free, .poison, .blocks, .tiles, .ops, .regs, .log] d (d.lateEnd k) := by
  rw [lateEnd_eq]
  exact Kept_then (Kept_then (Kept_mono (kept_latePoisoned d k) (by decide)) (kept_bump ..) (by decide))
    (kept_event_low _ (by decide) ..) (by decide)

/-- What the end of an operation's work leaves of it: its status is decided if it was not. -/
theorem lateWork_core {d : Dev} {k : Nat} (used : (d.op k).used = true) (free : TrackersFree d) :
    ((d.lateWork k).op k).core = (d.op k).core.decided ((d.op k).status.getD stDeadline) := by
  have ops : (d.ending k).ops = d.ops := (kept_ending d k).same .ops (by decide)
  have same := op_of_ops ops k
  unfold Dev.lateWork
  cases status : (d.op k).status with
  | none =>
    have decided : DecidedAs stDeadline (d.ending k) k ((d.ending k).endOp k stDeadline true) :=
      endOp_core (by rw [same, used]) (by rw [same, status]) (trackersFree_of_ops ops free)
    rw [DecidedAs, same] at decided
    exact decided
  | some st =>
    have core : (d.op k).core = (d.op k).core.decided st := by
      unfold Op.decided
      rw [← status]
      rfl
    rw [Option.getD_some, ← core]
    refine Eq.trans ?_ (congrArg Op.core same)
    cases (d.op k).block with
    | some b => exact sameCore_killEng (d.ending k) b _ k
    | none =>
      dsimp only
      unfold Dev.endOp
      rw [if_pos (.inr (by rw [same, status]; exact Option.some_ne_none st))]

theorem lateDecided_core {d : Dev} {k : Nat} (used : (d.op k).used = true) (free : TrackersFree d)
    (valid : ∀ st, (d.op k).status = some st → outputValid st = true) :
    ((d.lateDecided k).op k).core = (d.op k).core.decided stDeadline := by
  have core := lateWork_core used free
  have late : lateStatus (some ((d.op k).status.getD stDeadline)) = stDeadline := by
    cases status : (d.op k).status with
    | none => rfl
    | some st => exact if_pos (valid st status)
  have status : ((d.lateWork k).op k).status = some ((d.op k).status.getD stDeadline) := congrArg (·.status) core
  unfold Dev.lateDecided
  rw [Dev.op_modOp_self, status, late]
  exact congrArg (fun o : Op => o.decided stDeadline) core

/-- The outputs of a late operation are poisoned. -/
theorem poison_foldl_poisonRange (l : List (Nat × Nat)) (d : Dev) (g : Nat) :
    (l.foldl (fun (d : Dev) r => d.poisonRange r.1 r.2) d).poisoned (g * 64) =
      (d.poisoned (g * 64) || l.any fun r => decide (g ∈ granules r.1 r.2)) := by
  have at_ (d : Dev) : d.poisoned (g * 64) = tget (fun _ => false) d.poison g := by
    rw [Dev.poisoned, granule, Nat.mul_div_cancel _ (by decide)]
  induction l generalizing d with
  | nil => simp
  | cons r l ih =>
    rw [List.foldl_cons, ih, at_, Dev.poisonRange, poison_foldl_setPoison, ← at_, List.any_cons, Bool.or_assoc]

theorem lateEnd_poisons {d : Dev} {k : Nat} (used : (d.op k).used = true) (free : TrackersFree d)
    (valid : ∀ st, (d.op k).status = some st → outputValid st = true) :
    ∀ r ∈ (d.op k).outs, ∀ g ∈ granules r.1 r.2, (d.lateEnd k).poisoned (g * 64) = true := by
  intro r hr g hg
  have poison : (d.lateEnd k).poison = (d.latePoisoned k).poison := by
    rw [lateEnd_eq, (kept_event_low _ (by decide) ..).same .poison (by decide)]
    exact (kept_bump ..).same .poison (by decide)
  have outs : ((d.lateDecided k).op k).outs = (d.op k).outs := congrArg (·.outs) (lateDecided_core used free valid)
  have all := poison_foldl_poisonRange (d.op k).outs (d.lateDecided k) g
  rw [Dev.poisoned, poison, Dev.latePoisoned, outs]
  refine all.trans ?_
  rw [List.any_eq_true.2 ⟨r, hr, decide_eq_true hg⟩, Bool.or_true]

theorem lateEnd_core {d : Dev} {k : Nat} (used : (d.op k).used = true) (free : TrackersFree d)
    (valid : ∀ st, (d.op k).status = some st → outputValid st = true) :
    ((d.lateEnd k).op k).core = (d.op k).core.decided stDeadline := by
  rw [lateEnd_eq, op_of_ops ((kept_event_low _ (by decide) ..).same .ops (by decide)),
    op_of_ops ((kept_bump ..).same .ops (by decide)), Dev.latePoisoned,
    op_of_ops ((kept_foldl (fun _ _ => kept_poisonRange ..) ..).same .ops (by decide))]
  exact lateDecided_core used free valid

theorem lateWork_mem {d : Dev} {k : Nat} (off : d.noEng k) : (d.lateWork k).mem = d.mem := by
  have off' : (d.ending k).noEng k := noEng_of_eng (ending_eng d k) off
  have mem : (d.ending k).mem = d.mem := (kept_ending d k).same .mem (by decide)
  unfold Dev.lateWork
  split
  · rw [killEng_of_noEng off', mem]
  · rw [endOp_mem off', mem]

/-- A late operation that is on no engine leaves memory as it was. -/
theorem lateEnd_mem {d : Dev} {k : Nat} (off : d.noEng k) : (d.lateEnd k).mem = d.mem := by
  rw [lateEnd_eq, (kept_event_low _ (by decide) ..).same .mem (by decide), (kept_bump ..).same .mem (by decide),
    Dev.latePoisoned, (kept_foldl (fun _ _ => kept_poisonRange ..) ..).same .mem (by decide)]
  exact lateWork_mem off

theorem peaksOnly_latePoisoned (d : Dev) (k : Nat) : PeaksOnly d (d.latePoisoned k) := by
  refine PeaksOnly_trans (b := d.lateWork k) ?_
    (peaksOnly_of_kept (Kept_then (q := [.poison]) (p := [.ops, .poison]) (Kept_mono (kept_modOp ..) (by decide))
      (kept_foldl (fun _ _ => kept_poisonRange ..) ..) (by decide)) (by decide))
  have first : PeaksOnly d (d.ending k) := peaksOnly_of_kept (kept_ending d k) (by decide)
  unfold Dev.lateWork
  split
  · exact PeaksOnly_trans first (peaksOnly_of_kept (kept_killEng ..) (by decide))
  · exact PeaksOnly_trans first (peaksOnly_endOp _ _ _ _)

theorem lateEnd_counted (d : Dev) (k : Nat) : Counted d (d.lateEnd k) R.tkDeadlineMiss := by
  have before : (d.latePoisoned k).reg R.tkDeadlineMiss = d.reg R.tkDeadlineMiss :=
    peaksOnly_latePoisoned d k _ fun t => by
      unfold R.tkDeadlineMiss R.qmTrkUsed
      omega
  have counted : Counted (d.latePoisoned k) ((d.latePoisoned k).bump R.tkDeadlineMiss) R.tkDeadlineMiss :=
    counted_bump ..
  rw [Counted, before] at counted
  rw [lateEnd_eq, Counted, event_reg _ _ _ _ _ _ _ _ _ (by decide)]
  exact counted

/-- The record of a late operation (R53), 0x1020. -/
theorem lateEnd_wrote (d : Dev) (k : Nat) : Wrote d (d.lateEnd k) ⟨d.time.now, (d.lateUnit k).1, (d.lateUnit k).2, 2,
    0x1020, (d.op k).part, (d.op k).ctx, [k, (d.op k).deadline.getD 0]⟩ := by
  have kept : Kept [.mem, .free, .poison, .blocks, .tiles, .ops, .regs] d
      ((d.latePoisoned k).bump R.tkDeadlineMiss) :=
    Kept_then (kept_latePoisoned d k) (kept_bump ..) (by decide)
  have wrote := event_wrote ((d.latePoisoned k).bump R.tkDeadlineMiss) 2 0x1020
    (d.lateUnit k).1 (d.lateUnit k).2 [k, (d.op k).deadline.getD 0] (d.op k).part (d.op k).ctx
  rw [← lateEnd_eq, Wrote, kept.same .log (by decide), show _ = d.time from kept.same .time (by decide)] at wrote
  exact wrote

/-! ## A request that leaves the sequencer -/

theorem reqGone_req (d : Dev) (k : Nat) : (d.reqGone k).req k = { inst := (d.req k).inst } := tget_tset_self ..

theorem reqGone_lists (d : Dev) (k : Nat) : k ∉ ((d.reqGone k).inst (d.req k).inst).waiting ∧
    k ∉ ((d.reqGone k).inst (d.req k).inst).admitted := by
  unfold Dev.reqGone
  dsimp only
  generalize d.reqHold k = x
  have inst (e : Dev) (f : Req → Req) (i : Nat) : (e.modReq k f).inst i = e.inst i := rfl
  rw [inst, inst_modInst_self]
  exact ⟨by simp, by simp⟩

/-! ## Deadline abandonment (R53) -/

theorem kept_lateOp (d : Dev) (k : Nat) :
    Kept [.mem, .free, .poison, .enc, .blocks, .tiles, .ops, .regs, .srv, .log] d (d.lateOp k) := by
  have late : Kept [.mem, .free, .poison, .enc, .blocks, .tiles, .ops, .regs, .srv, .log] d (d.lateEnd k) :=
    Kept_mono (kept_lateEnd d k) (by decide)
  unfold Dev.lateOp
  dsimp only
  split
  · exact Kept_then late (kept_reqGone ..) (by decide)
  · exact late

/-- Memory, poison and the serving unit apart, a late operation changes what its end changes. -/
theorem lateOp_lateEnd (d : Dev) (k : Nat) : Kept [.mem, .poison, .enc, .srv] (d.lateEnd k) (d.lateOp k) := by
  unfold Dev.lateOp
  dsimp only
  split
  · exact kept_reqGone ..
  · exact kept_refl ..

/-- Where no beat of the operation is held, its abandonment takes place at once. -/
theorem abandon_unheld {d : Dev} {k : Nat}
    (unheld : ∀ e ∈ d.blocks, ∀ x ∈ e.2.eng, x.token = k → d.holding e.1 x = false) :
    d.abandon k = (d.lateOp k).sweepAll := by
  unfold Dev.abandon
  refine if_pos (List.flatMap_eq_nil_iff.2 fun e he => ?_)
  rw [List.filter_eq_nil_iff.2 fun x hx => ?_]
  · rfl
  · intro held
    obtain ⟨⟨token, -⟩, holds⟩ : ((x.token = k ∧ x.dead = false) ∧ d.holding e.1 x = true) := by simpa using held
    rw [unheld e he x hx token] at holds
    cases holds

/-- What the abandonment of an operation leaves is, memory and the serving unit apart, what its late end leaves. -/
theorem late_abandon (d : Dev) (k : Nat) :
    Kept [.mem, .poison, .enc, .srv, .ops, .tiles] (d.lateEnd k) (d.lateOp k).sweepAll :=
  Kept_then (Kept_mono (lateOp_lateEnd d k) (by decide)) (kept_sweepAll _) (by decide)

theorem abandon_core {d : Dev} {k : Nat} (used : (d.op k).used = true) (free : TrackersFree d)
    (valid : ∀ st, (d.op k).status = some st → outputValid st = true) :
    ((d.lateOp k).sweepAll.op k).core = (d.op k).core.decided stDeadline := by
  rw [sameCore_sweepAll, op_of_ops ((lateOp_lateEnd d k).same .ops (by decide))]
  exact lateEnd_core used free valid

theorem lateOp_of_noRequest {d : Dev} {k : Nat} (h : (d.op k).kind ≠ .request) : d.lateOp k = d.lateEnd k :=
  if_neg fun both => h both.1

theorem lateOp_of_request {d : Dev} {k : Nat} (h : (d.op k).kind = .request) (undecided : (d.op k).status = none) :
    d.lateOp k = (d.lateEnd k).reqGone k :=
  if_pos ⟨h, undecided⟩

/-- The abandonment of a late operation. -/
theorem deadlineAbandon_runs (k : Fin 16384) (w : Nat) (s : State) (used : (s.dev.op k).used = true)
    (valid : ∀ st, (s.dev.op k).status = some st → outputValid st = true) (deadline : (s.dev.op k).deadline = some w)
    (late : w ≤ s.dev.wb) (free : TrackersFree s.dev)
    (unheld : ∀ e ∈ s.dev.blocks, ∀ x ∈ e.2.eng, x.token = k.val → s.dev.holding e.1 x = false) :
    Runs (.deadlineAbandon k) s fun t =>
      (t.dev.op k).status = some stDeadline ∧ Counted s.dev t.dev R.tkDeadlineMiss ∧
      Wrote s.dev t.dev (match (s.dev.op k).block with
        | some b => blkRec s.dev 2 0x1020 b [k.val, w] (s.dev.op k).part (s.dev.op k).ctx
        | none => regRec s.dev 2 0x1020 (tokTile k) 0xFF [k.val, w] (s.dev.op k).part (s.dev.op k).ctx) ∧
      ((s.dev.op k).kind ≠ .request →
        (∀ r ∈ (s.dev.op k).outs, ∀ g ∈ granules r.1 r.2, t.dev.poisoned (g * 64) = true) ∧
        ((∀ e ∈ s.dev.blocks, ∀ x ∈ e.2.eng, x.token ≠ k.val) → t.dev.mem = s.dev.mem)) ∧
      ((s.dev.op k).kind = .request → (s.dev.op k).status = none →
        let i := (s.dev.req k).inst
        t.dev.req k = { inst := i } ∧ k.val ∉ (t.dev.inst i).waiting ∧ k.val ∉ (t.dev.inst i).admitted) := by
  have due : s.dev.overdue k = true := by
    unfold Dev.overdue
    dsimp only
    rw [used, deadline]
    cases status : (s.dev.op k).status with
    | none => simpa using late
    | some st => simpa [valid st status] using late
  have run : exec (.deadlineAbandon k) s = .next { s with dev := (s.dev.lateOp k).sweepAll } := by
    have e : exec (.deadlineAbandon k) s = execDeadlineAbandon k s := rfl
    unfold execDeadlineAbandon at e
    rw [e, onDevIf_met _ due, abandon_unheld unheld]
  have kept := late_abandon s.dev k
  refine ⟨_, run, ?_, ?_, ?_, fun other => ⟨fun r hr g hg => ?_, fun off => ?_⟩, fun request undecided => ?_⟩
  · exact congrArg (·.status) (abandon_core used free valid)
  · rw [Counted, reg_of_kept kept _ (by decide)]
    exact lateEnd_counted s.dev k
  · have wrote := lateEnd_wrote s.dev k
    rw [Wrote, ← show _ = (s.dev.lateEnd k).log from kept.same .log (by decide)] at wrote
    rw [deadline, Option.getD_some, Dev.lateUnit] at wrote
    cases block : (s.dev.op k).block with
    | none => rwa [block] at wrote
    | some b => rwa [block] at wrote
  · have poisoned := lateEnd_poisons used free valid r hr g hg
    dsimp only
    rwa [lateOp_of_noRequest other, Dev.poisoned, (kept_sweepAll _).same .poison (by decide)]
  · dsimp only
    rw [lateOp_of_noRequest other, (kept_sweepAll _).same .mem (by decide)]
    exact lateEnd_mem (noEng_of_blocks off)
  · dsimp only
    have gone : (s.dev.lateEnd k).srv = s.dev.srv := (kept_lateEnd s.dev k).same .srv (by decide)
    have srv : (s.dev.lateOp k).sweepAll.srv = ((s.dev.lateEnd k).reqGone k).srv := by
      rw [← lateOp_of_request request undecided]
      exact (kept_sweepAll _).same .srv (by decide)
    have req : (s.dev.lateEnd k).req k = s.dev.req k := by rw [Dev.req, gone]; rfl
    have left := reqGone_req (s.dev.lateEnd k) k
    have lists := reqGone_lists (s.dev.lateEnd k) k
    rw [req] at left lists
    unfold Dev.req Dev.inst
    rw [srv]
    exact ⟨left, lists⟩

/-- A fence ends once it is the oldest of its queue (R139). -/
theorem fenceComplete_runs (k : Fin 16384) (s : State) (used : (s.dev.op k).used = true)
    (fence : (s.dev.op k).kind = .fence) (undecided : (s.dev.op k).status = none)
    (oldest : ∀ e ∈ s.dev.ops, e.2.used = true → e.2.queue = (s.dev.op k).queue → e.2.static = false →
      (s.dev.op k).order ≤ e.2.order) :
    Runs (.fenceComplete k) s fun t =>
      t.dev.op k = { s.dev.op k with status := some stDone } ∧ (∀ j, j ≠ k.val → t.dev.op j = s.dev.op j) ∧
      Only [.ops] s t := by
  have noEarlier : (s.dev.ops.any fun e => e.2.used && e.2.queue == (s.dev.op k).queue && !e.2.static &&
      decide (e.2.order < (s.dev.op k).order)) = false := by
    refine List.any_eq_false.2 fun e he earlier => ?_
    obtain ⟨⟨⟨inUse, queue⟩, dynamic⟩, before⟩ : ((e.2.used = true ∧ e.2.queue = (s.dev.op k).queue) ∧
      e.2.static = false) ∧ e.2.order < (s.dev.op k).order := by simpa using earlier
    have := oldest e he inUse queue dynamic
    omega
  have run : exec (.fenceComplete k) s = .next { s with dev := s.dev.settle k stDone } := by
    have e : exec (.fenceComplete k) s = execFenceComplete k s := rfl
    unfold execFenceComplete at e
    exact e.trans (onDevIf_met _ (by simp only [used, fence, undecided, noEarlier]; rfl))
  refine ⟨_, run, ?_, fun j hj => Dev.op_modOp_ne _ _ hj, kept_settle .., rfl, rfl⟩
  exact (Dev.op_modOp_self ..).trans (if_pos ⟨used, undecided⟩)

end Sys2Proof.Machine

namespace Sys2Proof.Machine

/-! ## What decides an access -/

theorem mem_pages {a n x : Nat} (hn : 1 ≤ n) (h : x ∈ pages a n) : a ≤ x ∧ x < a + n := by
  unfold pages at h
  rcases List.mem_cons.1 h with rfl | later
  · omega
  · obtain ⟨i, hi, rfl⟩ := List.mem_map.1 later
    rw [List.mem_range] at hi
    omega

/-- The fields that the regulators and the firewalls read, scratchpads apart. -/
def gateFields : List DevField := [.regs, .chip, .dram, .parts, .links]

theorem refusal_of_kept {p : List DevField} {a b : Dev} (h : Kept p a b) (gate : ∀ f ∈ gateFields, f ∉ p)
    (init part x : Nat) (write machine : Bool)
    (spad : ∀ c, target x = .spad c → b.blk c = a.blk c ∧ b.opened c = a.opened c) :
    b.refusal init part x write machine = a.refusal init part x write machine := by
  have chip : b.chip = a.chip := h.same .chip (gate _ (by decide))
  have dram : b.dram = a.dram := h.same .dram (gate _ (by decide))
  have parts : b.parts = a.parts := h.same .parts (gate _ (by decide))
  unfold Dev.refusal
  cases dest : target x with
  | none => rfl
  | regs => rfl
  | hub =>
    dsimp only
    rw [Dev.fwHub, chip]
    rfl
  | dram =>
    dsimp only
    rw [Dev.dramSize, Dev.safetySize, Dev.part, Dev.fwDram, chip, dram, parts]
    rfl
  | spad c =>
    obtain ⟨blk, opened⟩ := spad c dest
    dsimp only
    rw [blk, opened]

theorem shut_of_kept {p : List DevField} {a b : Dev} (h : Kept p a b) (gate : ∀ f ∈ gateFields, f ∉ p)
    (init cls x : Nat) : b.shut init cls x = a.shut init cls x := by
  have regs : b.regs = a.regs := h.same .regs (gate _ (by decide))
  have links : b.links = a.links := h.same .links (gate _ (by decide))
  unfold Dev.shut Dev.maxOut Dev.regulated Dev.ringOf Dev.linkLanes Dev.link Dev.lmod Dev.fld Dev.reg
  rw [regs, links]

theorem findSome?_of_eq {α β : Type} {f g : α → Option β} {l : List α} (h : ∀ x ∈ l, f x = g x) :
    l.findSome? f = l.findSome? g := by
  induction l with
  | nil => rfl
  | cons x l ih =>
    rw [List.findSome?_cons, List.findSome?_cons, h x List.mem_cons_self, ih fun y hy => h y (List.mem_cons_of_mem _ hy)]

theorem refusalAt_of_kept {p : List DevField} {a b : Dev} (h : Kept p a b) (gate : ∀ f ∈ gateFields, f ∉ p)
    (init part cls x n : Nat) (write : Bool)
    (spad : ∀ y ∈ pages x n, ∀ c, target y = .spad c → b.blk c = a.blk c ∧ b.opened c = a.opened c) :
    b.refusalAt init part cls x n write = a.refusalAt init part cls x n write := by
  have each : (pages x n).findSome? (fun y => b.refusal init part y write false) =
      (pages x n).findSome? fun y => a.refusal init part y write false :=
    findSome?_of_eq fun y hy => refusal_of_kept h gate init part y write false (spad y hy)
  unfold Dev.refusalAt Dev.refusalN
  rw [shut_of_kept h gate, each]

/-! ## The sweep of the saved sets -/

theorem sweepSaved_moults (d : Dev) (t n : Nat) : ((d.sweepSaved t).tile n).moults = (d.tile n).moults := by
  unfold Dev.sweepSaved
  dsimp only
  generalize hx : List.foldl _ d (d.tile t).saves = x
  have tiles : x.tiles = d.tiles := by
    rw [← hx]
    refine (kept_foldl (p := [.ops]) (fun e y => ?_) _ d).same .tiles (by decide)
    exact Kept_trans (kept_foldl (fun _ _ => kept_modOp ..) ..) (kept_foldl (fun _ _ => kept_modOp ..) ..)
  by_cases e : n = t
  · rw [e, Dev.tile_setTile_self]
  · rw [Dev.tile_setTile_ne _ _ e, Dev.tile, tiles]
    rfl

theorem sweepAll_opened (d : Dev) (b : Nat) : d.sweepAll.opened b = d.opened b := by
  have moults (l : List Nat) (d : Dev) (n : Nat) :
      ((l.foldl Dev.sweepSaved d).tile n).moults = (d.tile n).moults := by
    induction l generalizing d with
    | nil => rfl
    | cons t l ih => rw [List.foldl_cons, ih, sweepSaved_moults]
  unfold Dev.opened Dev.sweepAll
  rw [moults]

/-- The sweep of a tile without saved sets. -/
theorem sweepSaved_empty {d : Dev} {t : Nat} (h : (d.tile t).saves = []) :
    (d.sweepSaved t).ops = d.ops ∧ ∀ n, ((d.sweepSaved t).tile n).saves = (d.tile n).saves := by
  unfold Dev.sweepSaved
  dsimp only
  rw [h]
  refine ⟨rfl, fun n => ?_⟩
  by_cases e : n = t
  · rw [e, Dev.tile_setTile_self, h]
    rfl
  · rw [Dev.tile_setTile_ne _ _ e]
    rfl

theorem sweepAll_empty {d : Dev} (h : ∀ x < 4, (d.tile x).saves = []) : d.sweepAll.ops = d.ops := by
  have all (l : List Nat) (d : Dev) (h : ∀ x ∈ l, (d.tile x).saves = []) : (l.foldl Dev.sweepSaved d).ops = d.ops := by
    induction l generalizing d with
    | nil => rfl
    | cons t l ih =>
      obtain ⟨ops, saves⟩ := sweepSaved_empty (h t List.mem_cons_self)
      rw [List.foldl_cons, ih _ fun x hx => (saves x).trans (h x (List.mem_cons_of_mem _ hx)), ops]
  exact all _ d fun x hx => h x (List.mem_range.1 hx)

/-! ## The completion record (R148) -/

theorem eq_of_core {o p : Op} (h : p.core = o.core) :
    p = { o with launches := p.launches, kids := p.kids, savedWb := p.savedWb } :=
  congrArg (fun q : Op => { q with launches := p.launches, kids := p.kids, savedWb := p.savedWb }) h

theorem record_of_core {a b : Dev} {k : Nat} (core : (b.op k).core = (a.op k).core) (ctxs : b.ctxs = a.ctxs)
    (time : b.time = a.time) (fus : b.fus = a.fus) (st : Nat) : b.record k st = a.record k st := by
  unfold Dev.record Dev.recFlags Dev.ctx
  rw [ctxs, time, fus]
  have same := eq_of_core core
  generalize b.op k = p at same ⊢
  generalize p.launches = l, p.kids = i, p.savedWb = w at same
  subst same
  rfl

theorem record_length (d : Dev) (k st : Nat) : (d.record k st).length = 32 := by simp [Dev.record]

/-- Byte 16 of a record is the status. -/
theorem record_status (d : Dev) (k st : Nat) (h : 16 < (d.record k st).length) :
    ((d.record k st)[16]).toNat = st % 256 := by
  unfold Dev.record
  simp [toLE]

/-- The status with which the record of a decided operation is written. -/
def Dev.recStatus (d : Dev) (k : Nat) : Nat := finalStatus (d.op k) ((d.op k).status.getD stDone)

theorem recStatus_of_core {a b : Dev} {k : Nat} (core : (b.op k).core = (a.op k).core) : b.recStatus k = a.recStatus k := by
  have replayed : (b.op k).replayed = (a.op k).replayed := congrArg (·.replayed) core
  unfold Dev.recStatus finalStatus
  rw [replayed, status_of_core core]

/-- What follows a written record (R147): the counters follow, a request or a step task is done with, and the entry
is freed. -/
def Dev.entryFreed (x : Dev) (k : Nat) (o : Op) (st : Nat) : Dev :=
  let d := (((x.account o st).frameCount o.part st).stepTask k st).plannerFail o st
  let d := if o.kind = .request then d.modReq k fun _ => {} else d
  let d := d.setOp k {}
  if o.queue < 262144 ∧ o.static = false then d.cacheOut o.queue else d

theorem opRecord_eq (d : Dev) (k : Nat) : d.opRecord k =
    ((d.sweepAll.writeRecord k (d.sweepAll.recStatus k)).entryFreed k (d.sweepAll.op k)
      (d.sweepAll.recStatus k)).disCheck.cqHold := rfl

/-- A step that changes the queue manager's state but none of its disables. -/
def DisKept (a b : Dev) : Prop := b.qm.disabling = a.qm.disabling

theorem cacheFill_effect (d : Dev) : Kept [.qm] d d.cacheFill ∧ DisKept d d.cacheFill := by
  unfold Dev.cacheFill
  split
  · exact ⟨kept_refl .., rfl⟩
  · split
    · exact ⟨kept_refl .., rfl⟩
    · exact ⟨kept_qm .., rfl⟩

theorem cacheOut_effect (d : Dev) (q : Nat) : Kept [.qm] d (d.cacheOut q) ∧ DisKept d (d.cacheOut q) := by
  unfold Dev.cacheOut
  split
  · obtain ⟨kept, dis⟩ := cacheFill_effect { d with qm := { d.qm with cache := d.qm.cache.filter (· ≠ q) } }
    exact ⟨Kept_trans (kept_qm ..) kept, dis⟩
  · exact ⟨kept_refl .., rfl⟩

theorem kept_account (d : Dev) (o : Op) (st : Nat) : Kept [.qm] d (d.account o st) := by
  unfold Dev.account
  split
  · exact kept_refl ..
  · exact kept_qm ..

theorem account_dis (d : Dev) (o : Op) (st : Nat) : DisKept d (d.account o st) := by
  unfold Dev.account DisKept
  split <;> rfl

theorem kept_stepTask (d : Dev) (k st : Nat) : Kept [.srv] d (d.stepTask k st) := by
  unfold Dev.stepTask
  split
  · exact kept_refl ..
  · exact kept_modInst ..

theorem kept_plannerFail (d : Dev) (o : Op) (st : Nat) : Kept [.pl] d (d.plannerFail o st) := by
  unfold Dev.plannerFail
  split
  · exact kept_refl ..
  · exact kept_pl ..

/-- The freeing of an entry: the operation is gone, and nothing is disabled by it. -/
theorem entryFreed_effect (x : Dev) (k : Nat) (o : Op) (st : Nat) :
    Kept [.qm, .srv, .pl, .ops] x (x.entryFreed k o st) ∧ DisKept x (x.entryFreed k o st) ∧
      (x.entryFreed k o st).ops = (x.setOp k {}).ops := by
  have counted : Kept [.qm, .srv, .pl] x ((((x.account o st).frameCount o.part st).stepTask k st).plannerFail o st) :=
    Kept_then (Kept_then (Kept_then (Kept_mono (kept_account x o st) (by decide)) (kept_qm ..) (by decide))
      (kept_stepTask ..) (by decide)) (kept_plannerFail ..) (by decide)
  have dis : DisKept x ((((x.account o st).frameCount o.part st).stepTask k st).plannerFail o st) := by
    rw [DisKept, (kept_plannerFail ..).same .qm (by decide), (kept_stepTask ..).same .qm (by decide)]
    exact account_dis x o st
  unfold Dev.entryFreed
  extract_lets y z w
  have requests : Kept [.srv] y z := by
    simp only [z]
    split
    · exact kept_modReq ..
    · exact kept_refl ..
  have kept : Kept [.qm, .srv, .pl] x z := Kept_then counted requests (by decide)
  have quiet : DisKept x z := by rwa [DisKept, requests.same .qm (by decide)]
  have ops : (z.setOp k {}).ops = (x.setOp k {}).ops := by
    rw [Dev.setOp, show z.ops = x.ops from kept.same .ops (by decide)]
    rfl
  have freed : Kept [.qm, .srv, .pl, .ops] x w := Kept_then (Kept_mono kept (by decide)) (kept_setOp ..) (by decide)
  split
  · obtain ⟨out, dis'⟩ := cacheOut_effect w o.queue
    refine ⟨Kept_then freed out (by decide), ?_, ?_⟩
    · rw [DisKept, dis']
      exact quiet
    · rw [out.same .ops (by decide)]
      exact ops
  · exact ⟨freed, quiet, ops⟩

theorem disCheck_none {d : Dev} (h : d.qm.disabling = []) : d.disCheck = d := by
  unfold Dev.disCheck
  rw [h]
  rfl

theorem cqHold_effect (d : Dev) : Kept [.qm, .regs] d d.cqHold ∧ RegsBut [R.qmCqHold] d d.cqHold := by
  unfold Dev.cqHold
  extract_lets waiting now fresh e
  have kept : Kept [.qm, .regs] d e := Kept_mono (kept_bump ..) (by decide)
  have regs : RegsBut [R.qmCqHold] d e := regsBut_bump _ _ _
  clear_value e
  exact ⟨Kept_then kept (kept_qm ..) (by decide), regs⟩

/-- After its record is written, an operation's entry is freed, and of the registers only the count of withheld pulls
may follow. -/
theorem freed_effect {x : Dev} {k : Nat} (o : Op) (st : Nat) (noDisable : x.qm.disabling = []) :
    Kept [.qm, .srv, .pl, .ops, .regs] x (x.entryFreed k o st).disCheck.cqHold ∧
      RegsBut [R.qmCqHold] x (x.entryFreed k o st).disCheck.cqHold ∧
      (x.entryFreed k o st).disCheck.cqHold.ops = (x.setOp k {}).ops := by
  obtain ⟨kept, dis, ops⟩ := entryFreed_effect x k o st
  rw [disCheck_none (dis.trans noDisable)]
  obtain ⟨hold, regs⟩ := cqHold_effect (x.entryFreed k o st)
  refine ⟨Kept_then (Kept_mono kept (by decide)) hold (by decide), fun r hr => ?_, ?_⟩
  · rw [regs r hr, reg_of_kept kept r (by decide)]
  · rw [hold.same .ops (by decide), ops]

/-- The tail count of a context's ring moves on by one record. -/
def Ctx.moved (c : Ctx) : Ctx :=
  { c with tail := (c.tail + 1) % 2 ^ 32, head := if c.serving then (c.tail + 1) % 2 ^ 32 else c.head }

/-- Where the next record of an operation goes. -/
def Dev.recAddr (d : Dev) (k : Nat) : Nat :=
  (d.ctx (d.op k).ctx).cqBase + 32 * ((d.ctx (d.op k).ctx).tail % 2 ^ (d.ctx (d.op k).ctx).cqLog2)

theorem writeRecord_host {d : Dev} {k : Nat} (st : Nat) (state : (d.ctx (d.op k).ctx).state ≠ 0)
    (host : (d.ctx (d.op k).ctx).cqHost = true) :
    d.writeRecord k st = ((d.hostWrite (d.recAddr k) ((d.record k st).take 28)).hostWrite (d.recAddr k + 28)
      ((d.record k st).drop 28)).modCtx (d.op k).ctx Ctx.moved := by
  unfold Dev.writeRecord
  dsimp only
  rw [if_neg state, if_pos host]
  rfl

theorem writeRecord_refused {d : Dev} {k : Nat} (st : Nat) (state : (d.ctx (d.op k).ctx).state ≠ 0)
    (host : (d.ctx (d.op k).ctx).cqHost = false) {g : Nat} {r26 : Bool}
    (refused : d.refusalAt 720 (d.ctx (d.op k).ctx).part (d.op k).cls (d.recAddr k) 32 true = some (g, r26)) :
    d.writeRecord k st =
      (d.deny 720 (d.ctx (d.op k).ctx).part g r26 (d.recAddr k)).modCtx (d.op k).ctx Ctx.moved := by
  unfold Dev.recAddr at refused ⊢
  unfold Dev.writeRecord
  dsimp only
  rw [if_neg state, host, refused]
  rfl

theorem writeRecord_stored {d : Dev} {k : Nat} (st : Nat) (state : (d.ctx (d.op k).ctx).state ≠ 0)
    (host : (d.ctx (d.op k).ctx).cqHost = false)
    (allowed : d.refusalAt 720 (d.ctx (d.op k).ctx).part (d.op k).cls (d.recAddr k) 32 true = none) :
    d.writeRecord k st =
      (d.storeAs (d.ctx (d.op k).ctx).part (d.recAddr k) (d.record k st)).modCtx (d.op k).ctx Ctx.moved := by
  unfold Dev.recAddr at allowed ⊢
  unfold Dev.writeRecord
  dsimp only
  rw [if_neg state, host, allowed]
  rfl

end Sys2Proof.Machine

namespace Sys2Proof.Machine

/-! ## The record of a decided operation (R147, R148, R472) -/

theorem recAddr_of_core {a b : Dev} {k : Nat} (core : (b.op k).core = (a.op k).core) (ctxs : b.ctxs = a.ctxs) :
    b.recAddr k = a.recAddr k := by
  have ctx : (b.op k).ctx = (a.op k).ctx := congrArg (·.ctx) core
  unfold Dev.recAddr Dev.ctx
  rw [ctx, ctxs]

theorem ctx_of_core {a b : Dev} {k : Nat} (core : (b.op k).core = (a.op k).core) (ctxs : b.ctxs = a.ctxs) :
    b.ctx (b.op k).ctx = a.ctx (a.op k).ctx := by
  have ctx : (b.op k).ctx = (a.op k).ctx := congrArg (·.ctx) core
  unfold Dev.ctx
  rw [ctx, ctxs]

/-- The record of an operation on the swept device is that of the device before. -/
theorem record_sweepAll (d : Dev) (k : Nat) :
    d.sweepAll.record k (d.sweepAll.recStatus k) = d.record k (d.recStatus k) := by
  have core := sameCore_sweepAll d k
  have kept := kept_sweepAll d
  rw [recStatus_of_core core]
  exact record_of_core core (kept.same .ctxs (by decide)) (kept.same .time (by decide)) (kept.same .fus (by decide)) _

/-- What has become of device `y`, to which the record was written, when the operation is done with. -/
theorem opRecord_of_write {d y : Dev} {k : Nat} (noDisable : d.qm.disabling = [])
    (write : d.sweepAll.writeRecord k (d.sweepAll.recStatus k) = y.modCtx (d.op k).ctx Ctx.moved)
    {p : List DevField} (kept : Kept p d.sweepAll y) (quiet : .qm ∉ p ∧ .ops ∉ p ∧ .ctxs ∉ p) :
    Kept [.ctxs, .qm, .srv, .pl, .ops, .regs] y (d.opRecord k) ∧ RegsBut [R.qmCqHold] y (d.opRecord k) ∧
      (d.opRecord k).ops = (d.sweepAll.setOp k {}).ops ∧
      (d.opRecord k).ctxs = (d.modCtx (d.op k).ctx Ctx.moved).ctxs := by
  obtain ⟨qm, ops, ctxs⟩ := quiet
  have swept := kept_sweepAll d
  have noDisable' : (y.modCtx (d.op k).ctx Ctx.moved).qm.disabling = [] := by
    have same : (y.modCtx (d.op k).ctx Ctx.moved).qm = d.qm := (kept.same .qm qm).trans (swept.same .qm (by decide))
    rw [same, noDisable]
  have same : y.ctxs = d.ctxs := (kept.same .ctxs ctxs).trans (swept.same .ctxs (by decide))
  rw [opRecord_eq, write]
  obtain ⟨freed, regs, gone⟩ := freed_effect (k := k) (d.sweepAll.op k) (d.sweepAll.recStatus k) noDisable'
  refine ⟨Kept_trans (Kept_mono (kept_modCtx ..) (by decide)) (Kept_mono freed (by decide)), regs, ?_, ?_⟩
  · rw [gone]
    exact congrArg (fun l => tset (fun _ => ({} : Op)) l k {}) (kept.same .ops ops)
  · rw [freed.same .ctxs (by decide)]
    unfold Dev.modCtx Dev.setCtx Dev.ctx
    rw [same]

/-- A refused record: memory stays, and the refusal is counted (R26, R472). -/
theorem opRecord_refused {d : Dev} {k : Nat} (noDisable : d.qm.disabling = []) (state : (d.ctx (d.op k).ctx).state ≠ 0)
    (host : (d.ctx (d.op k).ctx).cqHost = false) {g : Nat} {r26 : Bool}
    (refused : d.refusalAt 720 (d.ctx (d.op k).ctx).part (d.op k).cls (d.recAddr k) 32 true = some (g, r26)) :
    (d.opRecord k).ops = (d.sweepAll.setOp k {}).ops ∧ (d.opRecord k).mem = d.mem ∧
      Counted d (d.opRecord k) R.secFwDeny := by
  have core := sameCore_sweepAll d k
  have swept := kept_sweepAll d
  have ctx := ctx_of_core core (swept.same .ctxs (by decide))
  have ctxNo : (d.sweepAll.op k).ctx = (d.op k).ctx := congrArg (·.ctx) core
  have cls : (d.sweepAll.op k).cls = (d.op k).cls := congrArg (·.cls) core
  have addr := recAddr_of_core core (swept.same .ctxs (by decide))
  have gate := refusalAt_of_kept swept (by decide) 720 (d.ctx (d.op k).ctx).part (d.op k).cls (d.recAddr k) 32 true
    fun _ _ c _ => ⟨blk_of_blocks (swept.same .blocks (by decide)) c, sweepAll_opened d c⟩
  have write := writeRecord_refused (d := d.sweepAll) (k := k) (d.sweepAll.recStatus k) (by rwa [ctx]) (by rwa [ctx])
    (by rw [ctx, cls, addr, gate]; exact refused)
  rw [ctxNo] at write
  obtain ⟨left, regs, ops, -⟩ := opRecord_of_write noDisable write (kept_deny ..) (by decide)
  refine ⟨ops, ?_, ?_⟩
  · rw [left.same .mem (by decide), (kept_deny ..).same .mem (by decide), swept.same .mem (by decide)]
  · obtain ⟨counted, -, -⟩ := deny_effect d.sweepAll 720 (d.sweepAll.ctx (d.op k).ctx).part g r26 (d.sweepAll.recAddr k)
    rw [Counted, reg_of_kept swept _ (by decide)] at counted
    rw [Counted, regs _ (by decide)]
    exact counted

/-- What a written record leaves: the entry free, the other operations but for their sweep as before, the tail of the
ring moved on. -/
structure RecordDone (d : Dev) (k : Nat) (t : Dev) : Prop where
  ops : t.ops = (d.sweepAll.setOp k {}).ops
  ctxs : t.ctxs = (d.modCtx (d.op k).ctx Ctx.moved).ctxs
  regs : RegsBut [R.qmCqHold] d t

theorem opRecord_done {d y : Dev} {k : Nat} (noDisable : d.qm.disabling = [])
    (write : d.sweepAll.writeRecord k (d.sweepAll.recStatus k) = y.modCtx (d.op k).ctx Ctx.moved)
    {p : List DevField} (kept : Kept p d.sweepAll y) (quiet : .qm ∉ p ∧ .ops ∉ p ∧ .ctxs ∉ p) (regs : .regs ∉ p) :
    RecordDone d k (d.opRecord k) := by
  obtain ⟨-, regs', ops, ctxs⟩ := opRecord_of_write noDisable write kept quiet
  refine ⟨ops, ctxs, fun r hr => ?_⟩
  rw [regs' r hr, reg_of_kept kept r regs, reg_of_kept (kept_sweepAll d) r (by decide)]

theorem holds_of_mem {a b : Dev} (h : b.mem = a.mem) {lo : Nat} {bs : List Byte} (holds : Holds a lo bs) :
    Holds b lo bs := fun i hi => by
  rw [Dev.rd, h]
  exact holds i hi

theorem memBut_of_mem {a a' b b' : Dev} (ha : a'.mem = a.mem) (hb : b'.mem = b.mem) {lo n : Nat}
    (h : MemBut lo n a b) : MemBut lo n a' b' := fun x hx => by
  rw [Dev.rd, Dev.rd, ha, hb]
  exact h x hx

/-- A record written to device memory. -/
theorem opRecord_stored {d : Dev} {k : Nat} (noDisable : d.qm.disabling = []) (state : (d.ctx (d.op k).ctx).state ≠ 0)
    (host : (d.ctx (d.op k).ctx).cqHost = false)
    (allowed : d.refusalAt 720 (d.ctx (d.op k).ctx).part (d.op k).cls (d.recAddr k) 32 true = none) :
    RecordDone d k (d.opRecord k) ∧ Holds (d.opRecord k) (d.recAddr k) (d.record k (d.recStatus k)) ∧
      MemBut (d.recAddr k) 32 d (d.opRecord k) ∧
      Kept [.mem, .poison, .enc, .qm, .ctxs, .ops, .srv, .pl, .tiles, .regs] d (d.opRecord k) := by
  have core := sameCore_sweepAll d k
  have swept := kept_sweepAll d
  have ctx := ctx_of_core core (swept.same .ctxs (by decide))
  have ctxNo : (d.sweepAll.op k).ctx = (d.op k).ctx := congrArg (·.ctx) core
  have cls : (d.sweepAll.op k).cls = (d.op k).cls := congrArg (·.cls) core
  have addr := recAddr_of_core core (swept.same .ctxs (by decide))
  have gate := refusalAt_of_kept swept (by decide) 720 (d.ctx (d.op k).ctx).part (d.op k).cls (d.recAddr k) 32 true
    fun _ _ c _ => ⟨blk_of_blocks (swept.same .blocks (by decide)) c, sweepAll_opened d c⟩
  have write := writeRecord_stored (d := d.sweepAll) (k := k) (d.sweepAll.recStatus k) (by rwa [ctx]) (by rwa [ctx])
    (by rw [ctx, cls, addr, gate]; exact allowed)
  rw [record_sweepAll, ctxNo, addr] at write
  obtain ⟨left, -⟩ := opRecord_of_write noDisable write (kept_storeAs ..) (by decide)
  have mem := left.same .mem (by decide)
  refine ⟨opRecord_done noDisable write (kept_storeAs ..) (by decide) (by decide), holds_of_mem mem (storeAs_holds _ _ _ _ _), ?_, ?_⟩
  · have but := storeAs_memBut d.sweepAll (d.sweepAll.ctx (d.op k).ctx).part (d.recAddr k)
      (d.record k (d.recStatus k)) false
    rw [record_length] at but
    exact memBut_of_mem (swept.same .mem (by decide)).symm mem but
  · exact Kept_then (Kept_then (Kept_mono swept (by decide)) (kept_storeAs ..) (by decide)) left (by decide)

theorem hostWrite_of_same {a b : Dev} (out : b.out = a.out) (host : b.host = a.host) (x : Nat) (bs : List Byte) :
    (b.hostWrite x bs).out = (a.hostWrite x bs).out := by
  unfold Dev.hostWrite Dev.mps Dev.cfg
  rw [out, host]

/-- A record written to host memory: bytes 0 to 27, then bytes 28 to 31. -/
theorem opRecord_hosted {d : Dev} {k : Nat} (noDisable : d.qm.disabling = []) (state : (d.ctx (d.op k).ctx).state ≠ 0)
    (host : (d.ctx (d.op k).ctx).cqHost = true) :
    RecordDone d k (d.opRecord k) ∧
      (d.opRecord k).out = ((d.hostWrite (d.recAddr k) ((d.record k (d.recStatus k)).take 28)).hostWrite
        (d.recAddr k + 28) ((d.record k (d.recStatus k)).drop 28)).out ∧
      Kept [.out, .qm, .ctxs, .ops, .srv, .pl, .tiles, .regs] d (d.opRecord k) := by
  have core := sameCore_sweepAll d k
  have swept := kept_sweepAll d
  have ctx := ctx_of_core core (swept.same .ctxs (by decide))
  have ctxNo : (d.sweepAll.op k).ctx = (d.op k).ctx := congrArg (·.ctx) core
  have addr := recAddr_of_core core (swept.same .ctxs (by decide))
  have write := writeRecord_host (d := d.sweepAll) (k := k) (d.sweepAll.recStatus k) (by rwa [ctx]) (by rwa [ctx])
  rw [record_sweepAll, ctxNo, addr] at write
  have sent (e : Dev) (a b : Nat) (l m : List Byte) : Kept [.out] e ((e.hostWrite a l).hostWrite b m) :=
    Kept_trans (kept_hostWrite ..) (kept_hostWrite ..)
  obtain ⟨left, -⟩ := opRecord_of_write noDisable write (sent ..) (by decide)
  refine ⟨opRecord_done noDisable write (sent ..) (by decide) (by decide), ?_, ?_⟩
  · rw [left.same .out (by decide)]
    have hosts : d.sweepAll.host = d.host := swept.same .host (by decide)
    exact hostWrite_of_same (hostWrite_of_same (swept.same .out (by decide)) hosts _ _) hosts _ _
  · exact Kept_then (Kept_then (Kept_mono swept (by decide)) (sent ..) (by decide)) left (by decide)

/-! ## What a written record leaves, read field by field -/

section

variable {d : Dev} {k : Nat} {t : Dev} (h : RecordDone d k t)

include h

theorem RecordDone.freed : (t.op k).used = false := by
  rw [op_of_ops h.ops, Dev.op_setOp_self]

theorem RecordDone.others {j : Nat} (ne : j ≠ k) : (t.op j).core = (d.op j).core := by
  rw [op_of_ops h.ops, Dev.op_setOp_ne _ _ ne]
  exact sameCore_sweepAll d j

theorem RecordDone.unswept (saves : ∀ x < 4, (d.tile x).saves = []) {j : Nat} (ne : j ≠ k) : t.op j = d.op j := by
  rw [op_of_ops h.ops, Dev.op_setOp_ne _ _ ne, op_of_ops (sweepAll_empty saves)]

theorem RecordDone.tail : (t.ctx (d.op k).ctx).tail = ((d.ctx (d.op k).ctx).tail + 1) % 2 ^ 32 := by
  unfold Dev.ctx
  rw [h.ctxs]
  exact congrArg (·.tail) (Dev.ctx_modCtx_self d (d.op k).ctx Ctx.moved)

theorem RecordDone.ctx {j : Nat} (ne : j ≠ (d.op k).ctx) : t.ctx j = d.ctx j := by
  unfold Dev.ctx
  rw [h.ctxs]
  exact Dev.ctx_modCtx_ne d Ctx.moved ne

end

end Sys2Proof.Machine

namespace Sys2Proof.Machine

/-! ## TASK_COMPLETE -/

/-- The record of an operation whose end has come is written. -/
theorem taskComplete_decided {k : Fin 16384} {s : State} (used : (s.dev.op k).used = true)
    (idle : (s.dev.op k).launches = 0) {st : Nat} (status : (s.dev.op k).status = some st)
    (inTime : s.dev.overdue k = false) (can : s.dev.canRecord k = true) :
    exec (.taskComplete k) s = .next { s with dev := s.dev.opRecord k } := by
  have e : exec (.taskComplete k) s = execTaskComplete k s := rfl
  unfold execTaskComplete at e
  refine (e.trans (onDevIf_met _ (by rw [used, idle]; rfl))).trans ?_
  have decided : (s.dev.op k).status.isNone = false := by rw [status]; rfl
  dsimp only
  rw [inTime, if_neg Bool.false_ne_true, decided, if_neg Bool.false_ne_true, status, if_pos ⟨rfl, can⟩]

theorem recStatus_of_status {d : Dev} {k st : Nat} (status : (d.op k).status = some st) :
    d.recStatus k = finalStatus (d.op k) st := by
  unfold Dev.recStatus
  rw [status]
  rfl

theorem canRecord_memory {d : Dev} {k : Nat} (host : (d.ctx (d.op k).ctx).cqHost = false) : d.canRecord k = true := by
  unfold Dev.canRecord
  rw [host]
  rfl

theorem canRecord_ready {d : Dev} {k : Nat} (ready : (d.ctx (d.op k).ctx).cqHost = true → d.hostReady = true) :
    d.canRecord k = true := by
  unfold Dev.canRecord
  cases host : (d.ctx (d.op k).ctx).cqHost with
  | false => rfl
  | true => exact ready host

/-- A refused record. -/
theorem taskComplete_refused (k : Fin 16384) (s : State) (used : (s.dev.op k).used = true)
    (idle : (s.dev.op k).launches = 0) {st : Nat} (status : (s.dev.op k).status = some st)
    (inTime : s.dev.overdue k = false) (noDisable : s.dev.qm.disabling = [])
    (state : (s.dev.ctx (s.dev.op k).ctx).state ≠ 0) (host : (s.dev.ctx (s.dev.op k).ctx).cqHost = false)
    {g : Nat} {r26 : Bool} (refused : s.dev.refusalAt 720 (s.dev.ctx (s.dev.op k).ctx).part (s.dev.op k).cls
      (s.dev.recAddr k) 32 true = some (g, r26)) :
    Runs (.taskComplete k) s fun t => (t.dev.op k).used = false ∧ t.dev.mem = s.dev.mem ∧
      Counted s.dev t.dev R.secFwDeny := by
  obtain ⟨ops, mem, counted⟩ := opRecord_refused noDisable state host refused
  refine ⟨_, taskComplete_decided used idle status inTime (canRecord_memory host), ?_, mem, counted⟩
  dsimp only
  rw [op_of_ops ops, Dev.op_setOp_self]

/-- A record written, to memory or to the host. -/
theorem taskComplete_written (k : Fin 16384) (s : State) (used : (s.dev.op k).used = true)
    (idle : (s.dev.op k).launches = 0) {st : Nat} (status : (s.dev.op k).status = some st)
    (inTime : s.dev.overdue k = false) (noDisable : s.dev.qm.disabling = [])
    (state : (s.dev.ctx (s.dev.op k).ctx).state ≠ 0)
    (ready : (s.dev.ctx (s.dev.op k).ctx).cqHost = true → s.dev.hostReady = true)
    (allowed : (s.dev.ctx (s.dev.op k).ctx).cqHost = false → s.dev.refusalAt 720 (s.dev.ctx (s.dev.op k).ctx).part
      (s.dev.op k).cls (s.dev.recAddr k) 32 true = none) :
    Runs (.taskComplete k) s fun t =>
      (t.dev.op k).used = false ∧
      (∀ j, j ≠ k.val → (t.dev.op j).core = (s.dev.op j).core) ∧
      ((∀ x < 4, (s.dev.tile x).saves = []) → ∀ j, j ≠ k.val → t.dev.op j = s.dev.op j) ∧
      (t.dev.ctx (s.dev.op k).ctx).tail = ((s.dev.ctx (s.dev.op k).ctx).tail + 1) % 2 ^ 32 ∧
      (∀ j, j ≠ (s.dev.op k).ctx → t.dev.ctx j = s.dev.ctx j) ∧
      ((s.dev.ctx (s.dev.op k).ctx).cqHost = false →
        Holds t.dev (s.dev.recAddr k) (s.dev.record k (finalStatus (s.dev.op k) st)) ∧
        MemBut (s.dev.recAddr k) 32 s.dev t.dev ∧ t.dev.out = s.dev.out) ∧
      ((s.dev.ctx (s.dev.op k).ctx).cqHost = true → t.dev.mem = s.dev.mem ∧
        t.dev.out = ((s.dev.hostWrite (s.dev.recAddr k)
          ((s.dev.record k (finalStatus (s.dev.op k) st)).take 28)).hostWrite (s.dev.recAddr k + 28)
          ((s.dev.record k (finalStatus (s.dev.op k) st)).drop 28)).out) ∧
      RegsBut [R.qmCqHold] s.dev t.dev ∧
      Only [.mem, .poison, .enc, .out, .qm, .ctxs, .ops, .srv, .pl, .tiles, .regs] s t := by
  have run := taskComplete_decided used idle status inTime (canRecord_ready ready)
  rw [← recStatus_of_status status]
  cases host : (s.dev.ctx (s.dev.op k).ctx).cqHost with
  | false =>
    obtain ⟨done, holds, but, kept⟩ := opRecord_stored noDisable state host (allowed host)
    exact ⟨_, run, done.freed, fun _ => done.others, fun saves _ => done.unswept saves, done.tail, fun _ => done.ctx,
      fun _ => ⟨holds, but, kept.same .out (by decide)⟩, fun h => absurd h Bool.false_ne_true, done.regs,
      Kept_mono kept (by decide), rfl, rfl⟩
  | true =>
    obtain ⟨done, out, kept⟩ := opRecord_hosted noDisable state host
    exact ⟨_, run, done.freed, fun _ => done.others, fun saves _ => done.unswept saves, done.tail, fun _ => done.ctx,
      fun h => absurd h.symm Bool.false_ne_true, fun _ => ⟨kept.same .mem (by decide), out⟩, done.regs,
      Kept_mono kept (by decide), rfl, rfl⟩

/-! ## A running task that ends by itself (R147) -/

/-- The task of a dynamic thread leaves its thread and its block. -/
def Dev.taskLeft (d : Dev) (k st b n : Nat) : Dev :=
  (((d.settle k st).modBlk b fun q => q.freeThr n).unwait (· == (b, n))).releaseBlk b

theorem endOp_task {d : Dev} {k st b n : Nat} (used : (d.op k).used = true) (undecided : (d.op k).status = none)
    (block : (d.op k).block = some b) (thread : (d.op k).thread = some n) (runs : ((d.blk b).thr n).op = some k)
    (dynamic : ((d.blk b).thr n).static = none) : d.endOp k st false = d.taskLeft k st b n := by
  have blk : (d.settle k st).blk b = d.blk b := blk_of_blocks (Dev.settle_blocks ..) b
  unfold Dev.endOp
  rw [if_neg (by simp [used, undecided]), block]
  dsimp only
  rw [if_neg Bool.false_ne_true, thread]
  dsimp only
  rw [blk, if_pos runs, dynamic]
  rfl

theorem kept_taskLeft (d : Dev) (k st b n : Nat) : Kept [.ops, .blocks] d (d.taskLeft k st b n) :=
  Kept_then (Kept_then (Kept_then (Kept_mono (kept_settle ..) (by decide)) (kept_modBlk ..) (by decide))
    (kept_unwait ..) (by decide)) (kept_releaseBlk ..) (by decide)

theorem taskLeft_op {d : Dev} {k : Nat} (st b n : Nat) (used : (d.op k).used = true)
    (undecided : (d.op k).status = none) : (d.taskLeft k st b n).op k = (d.op k).decided st := by
  have ops : (d.taskLeft k st b n).ops = (d.settle k st).ops := rfl
  rw [op_of_ops ops, Dev.settle, Dev.op_modOp_self, if_pos ⟨used, undecided⟩]
  rfl

theorem freeThr_op (q : Block) (n : Nat) : ((q.freeThr n).thr n).op = none := by
  unfold Block.freeThr
  dsimp only
  rw [thr_setThr_self]
  split <;> rfl

theorem taskLeft_thread (d : Dev) (k st b n : Nat) : (((d.taskLeft k st b n).blk b).thr n).op = none := by
  have threads (e : Dev) : ((e.releaseBlk b).blk b).threads = (e.blk b).threads := by
    unfold Dev.releaseBlk
    rw [Dev.blk_modBlk_self]
    split <;> rfl
  unfold Dev.taskLeft
  rw [Block.thr, threads, blk_unwait, Dev.blk_modBlk_self]
  exact freeThr_op _ n

theorem taskLeft_blk (d : Dev) (k st : Nat) {b j : Nat} (n : Nat) (ne : j ≠ b) :
    { (d.taskLeft k st b n).blk j with waiters := [] } = { d.blk j with waiters := [] } := by
  have blk : (d.settle k st).blk j = d.blk j := blk_of_blocks (Dev.settle_blocks ..) j
  unfold Dev.taskLeft Dev.releaseBlk
  rw [Dev.blk_modBlk_ne _ _ ne, blk_unwait, Dev.blk_modBlk_ne _ _ ne, blk]

/-- A task that may end by itself is one that its thread runs, and its deadline has not come. -/
theorem taskEnd_running {d : Dev} {k st b n : Nat} (h : d.taskEnd k = some st) (block : (d.op k).block = some b)
    (thread : (d.op k).thread = some n) :
    ((d.blk b).thr n).op = some k ∧ ∀ w, (d.op k).deadline = some w → d.wb < w := by
  unfold Dev.taskEnd at h
  dsimp only at h
  rw [block, thread] at h
  split at h
  next b' n' _ here thread' =>
    obtain rfl := Option.some.inj here
    obtain rfl := Option.some.inj thread'
    split at h
    next w due =>
      split at h
      next may =>
        obtain ⟨runs, -, -, early⟩ := may
        refine ⟨runs, fun v deadline => ?_⟩
        obtain rfl := Option.some.inj (due.symm.trans deadline)
        exact of_decide_eq_true early
      next => exact absurd h.symm (Option.some_ne_none st)
    next never =>
      split at h
      next may => exact ⟨may.1, fun w deadline => absurd (never.symm.trans deadline) (Option.some_ne_none w).symm⟩
      next => exact absurd h.symm (Option.some_ne_none st)
  next => exact absurd h.symm (Option.some_ne_none st)

theorem inTime_of_early {d : Dev} {k : Nat} (early : ∀ w, (d.op k).deadline = some w → d.wb < w) :
    d.overdue k = false := by
  unfold Dev.overdue
  dsimp only
  cases deadline : (d.op k).deadline with
  | none => simp
  | some w => simp [early w deadline]

/-- A running task that ends by itself leaves its thread, and its record is written. -/
theorem taskComplete_running {k : Fin 16384} {s : State} {st b n : Nat} (used : (s.dev.op k).used = true)
    (idle : (s.dev.op k).launches = 0) (undecided : (s.dev.op k).status = none)
    (block : (s.dev.op k).block = some b) (thread : (s.dev.op k).thread = some n)
    (ends : s.dev.taskEnd k = some st) (dynamic : ((s.dev.blk b).thr n).static = none)
    (can : (s.dev.taskLeft k st b n).canRecord k = true) :
    exec (.taskComplete k) s = .next { s with dev := (s.dev.taskLeft k st b n).opRecord k } := by
  obtain ⟨runs, early⟩ := taskEnd_running ends block thread
  have e : exec (.taskComplete k) s = execTaskComplete k s := rfl
  unfold execTaskComplete at e
  refine (e.trans (onDevIf_met _ (by rw [used, idle]; rfl))).trans ?_
  have open_ : (s.dev.op k).status.isNone = true := by rw [undecided]; rfl
  dsimp only
  rw [inTime_of_early early, if_neg Bool.false_ne_true, open_, if_pos rfl, ends]
  have ended := endOp_task (st := st) used undecided block thread runs dynamic
  have decided : ((s.dev.taskLeft k st b n).op k).status.isSome = true := by
    rw [taskLeft_op st b n used undecided]
    rfl
  have recorded : ∀ x, x = s.dev.taskLeft k st b n →
      (if (x.op k).status.isSome ∧ x.canRecord k = true then x.opRecord k else x) =
        (s.dev.taskLeft k st b n).opRecord k := by
    rintro _ rfl
    exact if_pos ⟨decided, can⟩
  exact congrArg (fun d => Host.Outcome.next { s with dev := d }) (recorded _ ended)

/-- A running task ends by itself, and its record goes to device memory. -/
theorem taskComplete_ends (k : Fin 16384) (st b n : Nat) (s : State) (used : (s.dev.op k).used = true)
    (idle : (s.dev.op k).launches = 0) (undecided : (s.dev.op k).status = none)
    (block : (s.dev.op k).block = some b) (thread : (s.dev.op k).thread = some n)
    (ends : s.dev.taskEnd k = some st) (dynamic : ((s.dev.blk b).thr n).static = none)
    (noDisable : s.dev.qm.disabling = []) (state : (s.dev.ctx (s.dev.op k).ctx).state ≠ 0)
    (host : (s.dev.ctx (s.dev.op k).ctx).cqHost = false)
    (allowed : s.dev.refusalAt 720 (s.dev.ctx (s.dev.op k).ctx).part (s.dev.op k).cls (s.dev.recAddr k) 32 true = none)
    (dram : ∀ x, s.dev.recAddr k ≤ x → x < s.dev.recAddr k + 32 → target x = .dram) :
    Runs (.taskComplete k) s fun t =>
      (t.dev.op k).used = false ∧ ((t.dev.blk b).thr n).op = none ∧
      (t.dev.ctx (s.dev.op k).ctx).tail = ((s.dev.ctx (s.dev.op k).ctx).tail + 1) % 2 ^ 32 ∧
      (t.dev.rd (s.dev.recAddr k + 16)).toNat = finalStatus (s.dev.op k) st % 256 ∧
      MemBut (s.dev.recAddr k) 32 s.dev t.dev ∧
      ∀ j, j ≠ b → { t.dev.blk j with waiters := [] } = { s.dev.blk j with waiters := [] } := by
  have left := kept_taskLeft s.dev k st b n
  have op := taskLeft_op st b n used undecided
  have thread' := taskLeft_thread s.dev k st b n
  have blocks := fun j (ne : j ≠ b) => taskLeft_blk s.dev k st n ne
  have run := taskComplete_running used idle undecided block thread ends dynamic
  generalize s.dev.taskLeft k st b n = x at left op thread' blocks run
  have ctxNo : (x.op k).ctx = (s.dev.op k).ctx := congrArg (·.ctx) op
  have cls : (x.op k).cls = (s.dev.op k).cls := congrArg (·.cls) op
  have ctxs : x.ctxs = s.dev.ctxs := left.same .ctxs (by decide)
  have ctx : x.ctx (x.op k).ctx = s.dev.ctx (s.dev.op k).ctx := by rw [ctxNo, Dev.ctx, ctxs]; rfl
  have addr : x.recAddr k = s.dev.recAddr k := by rw [Dev.recAddr, ctx]; rfl
  have gate := refusalAt_of_kept left (by decide) 720 (s.dev.ctx (s.dev.op k).ctx).part (s.dev.op k).cls
    (s.dev.recAddr k) 32 true fun y hy c spad => by
      obtain ⟨lo, hi⟩ := mem_pages (by decide) hy
      rw [dram y lo hi] at spad
      cases spad
  have status : (x.op k).status = some st := congrArg (·.status) op
  have final : x.recStatus k = finalStatus (s.dev.op k) st := by
    rw [recStatus_of_status status, op]
    rfl
  obtain ⟨done, holds, but, kept⟩ := opRecord_stored (d := x) (k := k.val)
    (by rw [left.same .qm (by decide)]; exact noDisable) (by rwa [ctx]) (by rwa [ctx])
    (by rw [ctx, cls, addr, gate]; exact allowed)
  have blk := blk_of_blocks (kept.same .blocks (by decide))
  refine ⟨_, run (canRecord_memory (by rwa [ctx])), done.freed, ?_, ?_, ?_, ?_, fun j ne => ?_⟩
  · rw [blk]
    exact thread'
  · have tail := done.tail
    rwa [ctx, ctxNo] at tail
  · have at16 : (16 : Nat) < (x.record k (x.recStatus k)).length := by rw [record_length]; decide
    have byte := holds 16 at16
    rw [addr] at byte
    rw [byte, record_status, final]
  · rw [addr] at but
    exact memBut_of_mem (left.same .mem (by decide)).symm rfl but
  · rw [blk]
    exact blocks j ne

/-- Settles O21: the record is the device's own at the tail of the ring, and its entry is freed; a late operation's end
leaves the operation's token alone, since a new item never takes an entry in use. -/
theorem operationsEndWithARecord : Obligations.OperationsEndWithARecord := by
  unfold Obligations.OperationsEndWithARecord
  refine ⟨fun k st s used idle status inTime noDisable => ⟨fun g r26 state host refused => ?_, fun state ready allowed => ?_⟩,
    fun k st b n s used idle undecided block thread ends dynamic noDisable => ?_, ?_, ?_⟩
  · exact taskComplete_refused k s used idle status inTime noDisable state host refused
  · exact taskComplete_written k s used idle status inTime noDisable state ready allowed
  · exact taskComplete_ends k st b n s used idle undecided block thread ends dynamic noDisable
  · exact fun k s used fence undecided oldest => fenceComplete_runs k s used fence undecided oldest
  · exact fun k w s used valid deadline late free unheld =>
      deadlineAbandon_runs k w s used valid deadline late free unheld

end Sys2Proof.Machine
